-- ==== Sys2Proof/Word.lean ====
section
/-!
DEFINITION. The word types of the ZX7 (R2, R11): a scalar register, a byte, a lane, a vector register, a granule.
-/
namespace Sys2Proof

/-- A scalar register of a slot, 64 bits (R11). -/
abbrev Word := BitVec 64

/-- A byte of memory or scratchpad. -/
abbrev Byte := BitVec 8

/-- A lane of a vector register, 32 bits (R58). -/
abbrev Lane := BitVec 32

/-- A vector register: 128 bytes in the byte order of R58, byte i in bits [8i+7:8i], lane l in bits [32l+31:32l]. -/
abbrev VReg := BitVec 1024

/-- A predicate or a lane guard: lane l in bit l (R11). -/
abbrev Mask := BitVec 32

/-- A 32-byte granule of global memory, byte i in bits [8i+7:8i] (R138). -/
abbrev Granule := BitVec 256

/-- A layout entry (R134) or a record image (R138). -/
abbrev Bits512 := BitVec 512

end Sys2Proof
end

