-- ==== Sys2Proof/Syntax.lean ====
section
/-!
DEFINITION. The syntax of the ZX7: operand descriptors, the fields of an instruction word, and Instr, one
constructor for each of the 264 rows of spec/opcode_table.json: the 166 instructions of the catalogue (R44, R49),
each with the fields of its word, and the 98 steps of engines, network, ports, clocks and the Ombex complex
(95_what_each_step_holds.md), each with what its step is about.
-/
namespace Sys2Proof

/-- An operand descriptor by its class (R33). -/
inductive Opd where
  /-- class 0: scalar register -/
  | s (r : BitVec 5)
  /-- class 1: vector register -/
  | v (r : BitVec 7)
  /-- class 2: predicate -/
  | p (r : BitVec 3)
  /-- class 3: ring consume, ring, wait count, slot offset -/
  | qc (q : BitVec 3) (w : BitVec 4) (o : BitVec 5)
  /-- class 4: ring produce -/
  | qp (q : BitVec 3) (w : BitVec 4) (o : BitVec 5)
  /-- class 5: mesh channel, produce bit, wait count -/
  | m (ch : BitVec 2) (produce : Bool) (w : BitVec 4)
  /-- class 6: special register -/
  | csr (n : BitVec 12)
  /-- class 7: accumulator tile -/
  | a (t : BitVec 4)
  /-- class 8: layout handle -/
  | lay (e : BitVec 6)
  /-- class 15: none, or zero when read -/
  | none
  deriving DecidableEq, Repr, Inhabited

/-- The B field by its kind BK (R31). -/
inductive BOpd where
  /-- BK 0b00: a descriptor -/
  | desc (o : Opd)
  /-- BK 0b01: a signed 32-bit integer -/
  | imm (v : BitVec 32)
  /-- BK 0b10: constant window kN, word offset -/
  | win (k : BitVec 3) (off : BitVec 17)
  /-- BK 0b11: an FP32 bit pattern -/
  | fimm (v : BitVec 32)
  deriving DecidableEq, Repr, Inhabited

/-- The fields of an instruction word beside its opcode (R25). -/
structure Fields where
  /-- MOD, laid out per instruction (R26, R47) -/
  md : BitVec 9
  /-- GUARD bit 77: negate (R28) -/
  gneg : Bool
  /-- GUARD bits 76:74: predicate number (R28) -/
  gp : BitVec 3
  /-- YIELD hint (R30) -/
  yld : BitVec 3
  /-- REUSE_A hint (R30) -/
  reuseA : Bool
  /-- REUSE_B hint (R30) -/
  reuseB : Bool
  /-- LONG hint (R30) -/
  long : Bool
  d : Opd
  a : Opd
  b : BOpd
  deriving DecidableEq, Repr, Inhabited

/-- The right that decoding step 2 (R27) asks of an instruction. -/
inductive Need where
  /-- none -/
  | free
  /-- supervisor mode -/
  | supervisor
  /-- supervisor mode, or handler mode naming the handler's own ASID (TEAMK; R309); the scalar register that A names -/
  | teamk (a : Option (BitVec 5))
  /-- supervisor or handler mode (ERET; R316) -/
  | eret
  /-- read access to a special register (R300, R312) -/
  | csrRead (n : BitVec 12)
  /-- write access to a special register (R300, R308, R312) -/
  | csrWrite (n : BitVec 12)
  deriving DecidableEq, Repr, Inhabited

/-- Why the decoder refuses a word (R50). -/
inductive Reject where
  /-- An unassigned opcode, a reserved encoding or a reserved field value: ILLEGAL_INSTRUCTION. -/
  | illegal
  /-- A class or a B kind that the row does not list, or a descriptor fault that needs no state: OPERAND_CLASS,
  after the PRIVILEGE check of the row and of a special register named (R27). -/
  | operandClass (need : Need)
  deriving DecidableEq, Repr, Inhabited

/-- The two control ports (R299). -/
inductive Port where
  | host
  | management
  deriving DecidableEq, Repr, Inhabited

/-- A message of the network (R157, R206 to R211, R223, R271). `uid` names a journal entry of the sender, `req` a request. -/
inductive MsgBody where
  | load (off size : Nat) (scale : Option Nat) (req lane : Nat)
  | store (off size : Nat) (val : Word) (uid : Nat)
  | reduce (els : List (Nat × Word)) (ty opr : Nat) (seq : Option (BitVec 32)) (uid : Nat)
  | takeFull (off size : Nat) (scale : Option Nat) (deadline req : Nat)
  | putEmpty (off size : Nat) (val : Word) (deadline req uid : Nat)
  | amsg (h : Nat) (x1 x2 x3 x4 : Word) (uid : Nat)
  | mmar (tile a b : Nat) (cap : BitVec 32) (tfa tfb compat : Bool) (slot ctx ioff uid : Nat)
  | wake (slot uid : Nat)
  | arrive (off n uid : Nat)
  | addBytes (off n : Nat) (narr : Bool) (ch ident : Nat)
  | countDone (off n : Nat) (narr failed : Bool)
  | readDone (req lane : Nat) (val : Nat)
  | readRefused (req lane cause : Nat)
  | timeout (req uid : Nat) (listFull : Bool)
  | ack (uid : Nat)
  | refusal (uid cause : Nat) (code : Word)
  | addOk (off n : Nat) (narr : Bool) (ch ident : Nat)
  | addRefused (ch ident : Nat)
  /-- a round of a POD barrier (R226): the group, its round and the sender's rank -/
  | podRound (asid : Nat) (gtag : Word) (lead round rank : Nat)
  /-- the answers to another package's access to memory (R361) -/
  | memValue (pa : Nat) (v : Granule)
  | memDone (pa : Nat)
  /-- the answer to another package's region (R173, R201): the scalar registers and predicates after its body and whether NV was set, or
  the trap that it raised, with the text offset of the instruction that raised it -/
  | regionDone (sregs : List Word) (preds : List (BitVec 32)) (nv : Bool)
  | regionTrap (cause sub at' : Nat)
  deriving DecidableEq, Repr, Inhabited

/-- What comes from another package of the pod (R15, R361). -/
inductive PodAccess where
  /-- a global write of one granule under a key tag: bytes under the mask -/
  | write (pa tag : Nat) (mask : BitVec 32) (bytes : Granule)
  /-- a global read of one granule under a key tag, for a requester there -/
  | read (pa tag : Nat)
  /-- a message of a core of the other package, sent under an ASID, to a core of this one -/
  | msg (src dst asid : Nat) (body : MsgBody)
  /-- an atomic region at POD on a line of this package (R173, R201): the core, slot, team and ASID that own its records; the line, the
  virtual address that its entries know it by, and the key tag; the text offset of its ARB and its first posting number; its body, each
  word with the layout entry captured for it and with the value of its constant window, if it has one, as its B; the registers -/
  | region (src slot team asid pa va tag ioff : Nat) (seq : BitVec 32) (body : List (BitVec 96 × BitVec 512)) (sregs : List Word)
      (preds : List (BitVec 32))
  deriving DecidableEq, Repr, Inhabited

/-- The instructions and the events of the ZX7, one constructor for each row of the opcode table. -/
inductive Instr where
  /-- R84: Does nothing and advances pc by 12. -/
  | nop (f : Fields)
  /-- R84: Branches to pc plus the sign-extended B offset when the guard is true. -/
  | bra (f : Fields)
  /-- R84: Branches to the text offset held in sA. -/
  | brx (f : Fields)
  /-- R84: Writes pc + 12 to s31, then branches to an immediate-relative or register target. -/
  | call (f : Fields)
  /-- R84: Sets pc to s31. -/
  | ret (f : Fields)
  /-- R86: Opens a counted loop on the slot's four-entry loop stack, or skips the body when the count is zero. -/
  | loop (f : Fields)
  /-- R86: Closes the innermost matching loop: decrements its count and branches back, or pops the entry and falls through. -/
  | lend (f : Fields)
  /-- R87: Keeps the slot from being selected for 4 × n cycles. -/
  | yield (f : Fields)
  /-- R88: 64-bit scalar addition modulo 2^64. -/
  | sadd (f : Fields)
  /-- R88: 64-bit scalar subtraction modulo 2^64. -/
  | ssub (f : Fields)
  /-- R88: Low 64 bits of a scalar product. -/
  | smul (f : Fields)
  /-- R88: High 64 bits of a signed or unsigned scalar product. -/
  | smulh (f : Fields)
  /-- R88: Scalar division truncated toward zero, with fixed results for zero and overflow. -/
  | sdiv (f : Fields)
  /-- R88: Scalar remainder consistent with SDIV. -/
  | srem (f : Fields)
  /-- R88: Scalar bitwise AND. -/
  | sand (f : Fields)
  /-- R88: Scalar bitwise OR. -/
  | sor (f : Fields)
  /-- R88: Scalar bitwise XOR. -/
  | sxor (f : Fields)
  /-- R88: Scalar a AND NOT b. -/
  | sandn (f : Fields)
  /-- R88: Scalar shift left by b[5:0]. -/
  | sshl (f : Fields)
  /-- R88: Scalar logical shift right by b[5:0]. -/
  | sshr (f : Fields)
  /-- R88: Scalar arithmetic shift right by b[5:0]. -/
  | ssra (f : Fields)
  /-- R88: Scalar rotate right by b[5:0]. -/
  | srot (f : Fields)
  /-- R88: Smaller of two scalars, in signed or unsigned order. -/
  | smin (f : Fields)
  /-- R88: Larger of two scalars, in signed or unsigned order. -/
  | smax (f : Fields)
  /-- R88: Counts the leading zeros of b. -/
  | sclz (f : Fields)
  /-- R88: Counts the set bits of b. -/
  | spopc (f : Fields)
  /-- R89: Extracts a bit field and zero-extends or sign-extends it. -/
  | sbfx (f : Fields)
  /-- R89: Inserts a bit field of a into sD. -/
  | sbfi (f : Fields)
  /-- R88: Selects a or b by lane 0 of predicate PS. -/
  | ssel (f : Fields)
  /-- R88: Moves a register, an imm32 or FP32 immediate bits into sD. -/
  | smov (f : Fields)
  /-- R88: Loads a zero-extended imm32, or with HI the upper 32 bits of sD. -/
  | sli (f : Fields)
  /-- R91: Compares two scalars and writes the result to every guarded lane of a predicate. -/
  | scmp (f : Fields)
  /-- R90: Computes the address that a layout entry gives for coordinates, without access or edge rule. -/
  | slea (f : Fields)
  /-- R92: Lane-wise predicate AND. -/
  | pand (f : Fields)
  /-- R92: Lane-wise predicate OR. -/
  | por (f : Fields)
  /-- R92: Lane-wise predicate XOR. -/
  | pxor (f : Fields)
  /-- R92: Lane-wise predicate NOT. -/
  | pnot (f : Fields)
  /-- R92: Moves a predicate or the bits of a scalar or immediate into a predicate. -/
  | pmov (f : Fields)
  /-- R92: Writes the OR of all 32 lanes of a predicate. -/
  | pany (f : Fields)
  /-- R92: Writes the AND of all 32 lanes of a predicate. -/
  | pall (f : Fields)
  /-- R92: Counts the true lanes of a predicate. -/
  | pcnt (f : Fields)
  /-- R93: Moves whole lanes by index, up, down or butterfly pattern. -/
  | vshfl (f : Fields)
  /-- R94: Permutes the bytes of a vector register by a byte index vector. -/
  | vperm (f : Fields)
  /-- R96: Sums all elements of a vector into a scalar, floats by a fixed pairwise tree. -/
  | vreda (f : Fields)
  /-- R96: Reduces all elements of a vector to their minimum or maximum. -/
  | vredm (f : Fields)
  /-- R97: Writes the inclusive prefix sum of a vector in element order. -/
  | vscan (f : Fields)
  /-- R95: Compacts the lanes selected by a mask. -/
  | vcomp (f : Fields)
  /-- R95: Expands consecutive lanes into the lanes selected by a mask. -/
  | vexpd (f : Fields)
  /-- R92: Writes the 32 lanes of a predicate as bits of a scalar. -/
  | vballot (f : Fields)
  /-- R98: Element-wise integer addition, wrapped or saturated. -/
  | vadd (f : Fields)
  /-- R98: Element-wise integer subtraction, wrapped or saturated. -/
  | vsub (f : Fields)
  /-- R98: Low half of element-wise integer products. -/
  | vmul (f : Fields)
  /-- R98: High half of element-wise integer products. -/
  | vmulh (f : Fields)
  /-- R98: Element-wise d + a × b, wrapped or saturated. -/
  | vmad (f : Fields)
  /-- R98: Element-wise bitwise AND. -/
  | vand (f : Fields)
  /-- R98: Element-wise bitwise OR. -/
  | vor (f : Fields)
  /-- R98: Element-wise bitwise XOR. -/
  | vxor (f : Fields)
  /-- R98: Element-wise a AND NOT b. -/
  | vandn (f : Fields)
  /-- R98: Element-wise shift left. -/
  | vshl (f : Fields)
  /-- R98: Element-wise logical shift right. -/
  | vshr (f : Fields)
  /-- R98: Element-wise arithmetic shift right. -/
  | vsra (f : Fields)
  /-- R98: Element-wise integer minimum. -/
  | vmin (f : Fields)
  /-- R98: Element-wise integer maximum. -/
  | vmax (f : Fields)
  /-- R98: Element-wise integer absolute value. -/
  | vabs (f : Fields)
  /-- R98: Element-wise integer negation. -/
  | vneg (f : Fields)
  /-- R98: Element-wise integer compare into a predicate. -/
  | vcmp (f : Fields)
  /-- R98: Selects whole lanes of a or b by a predicate. -/
  | vsel (f : Fields)
  /-- R98: Copies a vector register. -/
  | vmov (f : Fields)
  /-- R98: Broadcasts a 32-bit value into every lane. -/
  | vbcast (f : Fields)
  /-- R98: Counts leading zeros in each element. -/
  | vclz (f : Fields)
  /-- R98: Counts set bits in each element. -/
  | vpopc (f : Fields)
  /-- R99: Element-wise floating-point addition with one rounding. -/
  | fadd (f : Fields)
  /-- R99: Element-wise floating-point subtraction with one rounding. -/
  | fsub (f : Fields)
  /-- R99: Element-wise floating-point multiplication with one rounding. -/
  | fmul (f : Fields)
  /-- R99: Element-wise fused multiply-add with one rounding. -/
  | ffma (f : Fields)
  /-- R99: Element-wise floating-point division. -/
  | fdiv (f : Fields)
  /-- R99: Element-wise floating-point square root. -/
  | fsqrt (f : Fields)
  /-- R99: Element-wise minimumNumber. -/
  | fmin (f : Fields)
  /-- R99: Element-wise maximumNumber. -/
  | fmax (f : Fields)
  /-- R99: Clears the sign bit of each element. -/
  | fabs (f : Fields)
  /-- R99: Inverts the sign bit of each element. -/
  | fneg (f : Fields)
  /-- R100: Element-wise floating-point compare into a predicate. -/
  | fcmp (f : Fields)
  /-- R101: Correctly rounded reciprocal of each element. -/
  | frcp (f : Fields)
  /-- R101: Correctly rounded reciprocal square root of each element. -/
  | frsq (f : Fields)
  /-- R101: Correctly rounded 2^x of each element. -/
  | fexp2 (f : Fields)
  /-- R101: Correctly rounded log2 of each element. -/
  | flog2 (f : Fields)
  /-- R101: Correctly rounded tanh of each element. -/
  | ftanh (f : Fields)
  /-- R101: Correctly rounded sine of each element. -/
  | fsin (f : Fields)
  /-- R101: Correctly rounded cosine of each element. -/
  | fcos (f : Fields)
  /-- R102: Converts one float element per lane between float types. -/
  | fcvt (f : Fields)
  /-- R103: Converts one element per lane between integer and float types. -/
  | icvt (f : Fields)
  /-- R104: Quantises 128 FP32 values from four registers into packed FP8 under a scale. -/
  | fqnt (f : Fields)
  /-- R107: Encodes 32 FP32 elements into an F4X block under given scale and extra bytes. -/
  | xpack (f : Fields)
  /-- R108: Decodes an F4X block into F32, BF16 or F16 elements. -/
  | xunpk (f : Fields)
  /-- R106: Computes the canonical F4X scale and extra bytes of 32 FP32 elements. -/
  | xscale (f : Fields)
  /-- R122: Quantises eight FP32 registers into one register of L8 lattice words. -/
  | lqnt (f : Fields)
  /-- R123: Decodes 32 L8 words into F32, BF16 or F16 elements. -/
  | ldec (f : Fields)
  /-- R115: Checks and enqueues a dense matrix command C := C + A·B on an accumulator tile. -/
  | mma (f : Fields)
  /-- R116: Enqueues a matrix command that skips the K steps named by the %SKS skip list. -/
  | mmas (f : Fields)
  /-- R117: Sends a matrix command as a message to the matrix unit of another core. -/
  | mmar (f : Fields)
  /-- R119: Clears an accumulator tile and its flag word after earlier commands on it. -/
  | accz (f : Fields)
  /-- R119: Loads an accumulator tile from a layout, converting exactly to F32. -/
  | accld (f : Fields)
  /-- R119: Stores an accumulator tile through a layout with rounding and ORs its flags into %FPFLAGS. -/
  | accst (f : Fields)
  /-- R127: Seam unit command: MATCH pairs tokens and writes a map, APPLY averages rows through a map. -/
  | seam (f : Fields)
  /-- R129: Restores the N rows of a sequence through a seam map. -/
  | unseam (f : Fields)
  /-- R191: Weak or strong scalar load of one global element. -/
  | ld (f : Fields)
  /-- R191: Weak or strong vector load of global elements. -/
  | ldv (f : Fields)
  /-- R193: Scalar global store that posts update records with an operator and order. -/
  | st (f : Fields)
  /-- R193: Vector global store that posts update records, one per granule. -/
  | stv (f : Fields)
  /-- R194: Release, acquire or both at a scope. -/
  | fence (f : Fields)
  /-- R195: Key-pushes every record of a range outward to level(S) and waits until performed. -/
  | mpush (f : Fields)
  /-- R196: Discards the floor copies of a range on the issuing core's path. -/
  | mdrop (f : Fields)
  /-- R197: Waits until merges out of the core's M0 that had started are published or stalled. -/
  | msync (f : Fields)
  /-- R198: Waits until no journal entry of the context awaits an outcome. -/
  | drainst (f : Fields)
  /-- R200: Opens an atomic region on one 128-byte line and starts recording the body. -/
  | arb (f : Fields)
  /-- R201: Closes an atomic region, key-pushes the line and ships the body to level(S). -/
  | are (f : Fields)
  /-- R199: Reads a line to install floor copies, with no result and no fault. -/
  | pref (f : Fields)
  /-- R202: Writes a 64-byte layout entry whole and marks it valid. -/
  | ltset (f : Fields)
  /-- R202: Reads a layout entry into lanes 0 to 15. -/
  | ltget (f : Fields)
  /-- R203: Scalar load from local scratchpad. -/
  | lds (f : Fields)
  /-- R203: Scalar store to local scratchpad. -/
  | sts (f : Fields)
  /-- R203: Vector load from local scratchpad. -/
  | ldsv (f : Fields)
  /-- R203: Vector store to local scratchpad. -/
  | stsv (f : Fields)
  /-- R204: Waits until a scratchpad word is full, reads it and sets it empty. -/
  | ldsf (f : Fields)
  /-- R204: Waits until a scratchpad word is empty, writes it and sets it full. -/
  | stsf (f : Fields)
  /-- R207: Sends an active message that starts a user handler on a target core's errand slot. -/
  | amsg (f : Fields)
  /-- R209: Ends an active-message handler and acknowledges or refuses the sender's entry. -/
  | amret (f : Fields)
  /-- R206: Reads one element of another core's scratchpad and waits for the reply. -/
  | rld (f : Fields)
  /-- R206: Writes one element of another core's scratchpad through a journal entry. -/
  | rst (f : Fields)
  /-- R210: Sends a reduction packet folded at a remote scratchpad home, optionally sequenced. -/
  | rred (f : Fields)
  /-- R211: Gathers one remote scratchpad element per lane. -/
  | rgath (f : Fields)
  /-- R212: Issues a copy of a box of elements between layouts, with transform and counting. -/
  | cpy (f : Fields)
  /-- R219: Waits until a copy channel's DONE passes an identifier. -/
  | cpyw (f : Fields)
  /-- R228: Merges, intersects or unites two sorted scratchpad lists on the block mangle. -/
  | smrg (f : Fields)
  /-- R224: Initialises a local barrier object. -/
  | bari (f : Fields)
  /-- R224: Arrives at a barrier object B times, locally or by message. -/
  | bara (f : Fields)
  /-- R224: Tests whether a local barrier's phase differs from B, without waiting. -/
  | bart (f : Fields)
  /-- R224: Waits until a local barrier's phase differs from B. -/
  | barw (f : Fields)
  /-- R225: Releases, arrives at the hardware barrier network of a scope, waits and acquires. -/
  | hwbar (f : Fields)
  /-- R230: Defines a ring over the slot's registers or attaches to another slot's ring. -/
  | qdef (f : Fields)
  /-- R231: Advances a ring's consumer pointer. -/
  | qadv (f : Fields)
  /-- R231: Advances a ring's producer pointer. -/
  | qpub (f : Fields)
  /-- R231: Reads a ring's fill count. -/
  | qcnt (f : Fields)
  /-- R234: Queues a bundle-turn or AUTO command for an anole link. -/
  | lnturn (f : Fields)
  /-- R237: Reads the turn state of an anole link. -/
  | lnstat (f : Fields)
  /-- R266: Starts a helper context in a named idle slot of the team. -/
  | start (f : Fields)
  /-- R267: Releases at the queue scope and enqueues a task record, or clears the predicate when the queue is full. -/
  | spawn (f : Fields)
  /-- R268: Decrements a record's join counter at level(S) and enqueues it when it reaches zero. -/
  | join (f : Fields)
  /-- R269: Drains the context's journal entries and retires the context. -/
  | texit (f : Fields)
  /-- R270: Waits until a local scratchpad word satisfies a signed condition. -/
  | wait (f : Fields)
  /-- R271: Sends a request that sets the wake token of a slot on some core. -/
  | wake (f : Fields)
  /-- R271: Consumes the wake token or waits for it, or for B ticks. -/
  | sleep (f : Fields)
  /-- R272: Ends the teams of an ASID on one core or in the whole package. -/
  | teamk (f : Fields)
  /-- R273: Waits for quiescence and changes the core's partition mode. -/
  | repart (f : Fields)
  /-- R315: Raises SOFTWARE with the immediate in %TVAL. -/
  | trap (f : Fields)
  /-- R316: Returns from handler mode to %TPC. -/
  | eret (f : Fields)
  /-- R301: Reads a special register into a scalar after its ordering rule. -/
  | csrr (f : Fields)
  /-- R301: Writes a special register after privilege and reserved-bit checks. -/
  | csrw (f : Fields)
  /-- R302: Drops matching TLB and walker entries package-wide and restarts affected walks. -/
  | tlbinv (f : Fields)
  /-- R303: Loads a key slot from scratchpad into every controller and zeroes the source. -/
  | keyset (f : Fields)
  /-- R304: Destroys a key slot, discards its tagged records and copies, and erases the keys. -/
  | keykill (f : Fields)
  /-- R323: Reads the oldest queued merge-fault record without removing it. -/
  | mfault (f : Fields)
  /-- R324: Resolves a merge fault by drop, quiet fold or payload replacement and unstalls the run. -/
  | mres (f : Fields)
  /-- R319: Reads a posted-store journal entry into lanes. -/
  | sjread (f : Fields)
  /-- R320: Frees or reissues a faulted, refused or done journal entry. -/
  | sjclr (f : Fields)
  /-- R315: Raises BREAKPOINT, or stops the slot under debug hold. -/
  | bkpt (f : Fields)
  /-- R51: A word with an unassigned opcode or reserved encoding traps when it would issue. -/
  | unassignedEncodingIssue (r : Reject)
  /-- R41: The loader accepts a kernel image whole or refuses it with an LDR code. -/
  | imageLoad (asid va : Nat) (bytes : List Byte) (symbols : List Int)
  /-- R42: A launch record creates a team on its core and starts the control context. -/
  | teamLaunch (core : Nat)
  /-- R250: A team ends on a core once its control context retired and no work of it remains. -/
  | teamEnd (core : Nat)
  /-- R354: A vector is raised once the data it announces is performed at M3. -/
  | msixVectorRaise (vec : Nat)
  /-- R354: Unmasking a vector with its pending bit set sends one message. -/
  | msixUnmask (vec : Nat)
  /-- R142: A record held for its level's drain interval starts a merge. -/
  | drainIntervalExpiry (lvl inst key : Nat)
  /-- R143: A prepared merge is published at one instant, moving folded records outward. -/
  | mergePublication (lvl inst : Nat)
  /-- R151: A deferred record is published once the level's counter reaches E + G. -/
  | deferralExpiry (lvl inst key : Nat)
  /-- R150: A line's horizon is cleared once it is no longer live. -/
  | horizonExpiry (lvl inst line : Nat)
  /-- R148: A floor copy whose expiry is reached is treated as absent. -/
  | floorCopyExpiry (lvl inst line : Nat)
  /-- R147: A floor copy is evicted at any time without changing any result. -/
  | floorCopyEviction (lvl inst line : Nat)
  /-- R191: The replies of a load arrive and its destination is written. -/
  | loadReply (core slot idx : Nat)
  /-- R166: A strong store's inserted records are performed at level(S) and it retires. -/
  | strongStorePerformed (core slot : Nat)
  /-- R172: A shipped region is performed indivisibly at level(S) once deferral and chain room allow. -/
  | regionExecute (core slot : Nat)
  /-- R289: A walker returns a translation or fault for a TLB miss. -/
  | pageWalkDone (core idx : Nat)
  /-- R190: A journaled store's translation returns: its records are posted or the entry faults. -/
  | journalWalkResult (core entry : Nat)
  /-- R310: The control context takes a pending asynchronous trap at a boundary or abandons a hold. -/
  | asyncTrapTake (core : Nat)
  /-- R206: A remote read arrives at its home and is performed by the built-in handler. -/
  | remoteLoadRequest (src dst : Nat)
  /-- R206: A remote store arrives at its home and is performed or refused. -/
  | remoteStoreRequest (src dst : Nat)
  /-- R160: A reduction packet arrives at its home and is applied, discarded or refused by its sequence window. -/
  | rredPacket (src dst : Nat)
  /-- R205: A remote LDSF or STSF arrives at its home and is served or queued with its deadline. -/
  | remoteFullEmptyRequest (src dst : Nat)
  /-- R205: At the home a remote waiter's deadline passes and it is withdrawn unserved. -/
  | remoteWaitDeadline (home idx : Nat)
  /-- R205: The timeout reply reaches the requester, which raises WAIT_TIMEOUT. -/
  | remoteWaitTimeoutReply (src dst : Nat)
  /-- R297: A home without a started team answers not ready and the sender keeps the message. -/
  | homeNotReadyAnswer (src dst : Nat)
  /-- R297: Every 1,000 ticks the sending NI sends a not-ready message again. -/
  | remoteRetryTimer (src idx : Nat)
  /-- R297: A message not accepted within 1,000,000 ticks is refused with CAUSE 0x3D. -/
  | remoteRetryLimit (src idx : Nat)
  /-- R206: A reply to RLD, RGATH or remote LDSF arrives and writes the destination. -/
  | remoteReadReply (src dst : Nat)
  /-- R318: An acknowledgement from a home or target frees or marks done a journal entry. -/
  | remoteAck (src dst : Nat)
  /-- R318: A refusal marks a journal entry refused and raises REMOTE_REFUSED. -/
  | remoteRefusal (src dst : Nat)
  /-- R207: An active message arrives and its handler-table entry is checked. -/
  | activeMessageArrival (src dst : Nat)
  /-- R208: An accepted handler starts on the errand slot once the previous handler has ended. -/
  | handlerStart (core : Nat)
  /-- R117: A remote matrix command arrives and is checked against MCAP and enqueued or refused. -/
  | mmarCommandArrival (src dst : Nat)
  /-- R271: A wake request arrives and sets the token of a context of the sender's ASID or is refused. -/
  | wakeRequest (src dst : Nat)
  /-- R223: A remote barrier arrival is applied at the object's home. -/
  | remoteBaraArrival (src dst : Nat)
  /-- R223: A counted copy's byte addition is accepted or refused at the object's home. -/
  | copyByteAddition (src dst : Nat)
  /-- R223: A counted copy's completion or failure updates PEND, ARRIVE and ERR at the home. -/
  | copyCountEvent (src dst : Nat)
  /-- R174: A copy's writes, and for REL its push, are performed and completion is counted. -/
  | copyComplete (core ch ident : Nat)
  /-- R217: A copy fails after issue, raises ENGINE_FAULT and counts as complete. -/
  | copyFault (core ch ident : Nat)
  /-- R113: The matrix unit starts the next queued command once the previous one completes. -/
  | matrixCommandStart (core : Nat)
  /-- R113: A matrix command completes its last K step. -/
  | matrixCommandComplete (core : Nat)
  /-- R120: A matrix command fails at a step and reports ENGINE_FAULT with its progress. -/
  | matrixEngineFault (core : Nat)
  /-- R127: A seam command completes and ORs its flags into the slot's %FPFLAGS. -/
  | seamCommandComplete (core : Nat)
  /-- R229: A list merge completes and writes %SMRES. -/
  | smrgComplete (core : Nat)
  /-- R17: A waiting SMRG resumes on its mangle once no merge is pending. -/
  | smrgResume (core : Nat)
  /-- R257: A core with an idle helper slot makes an ask for work at its distributor. -/
  | taskAsk (core : Nat)
  /-- R257: The distributor selects the oldest record of the asking ASID at the highest priority. -/
  | taskSelect (core : Nat)
  /-- R258: A selected record is loaded into its asking slot and the task starts. -/
  | taskBind (core : Nat)
  /-- R257: An AGE record waiting 64,000 ticks moves to the next higher queue. -/
  | taskAgeing (cluster prio idx : Nat)
  /-- R261: A monitored wait reaches its deadline and raises WAIT_TIMEOUT. -/
  | waitDeadlineExpiry (core slot : Nat)
  /-- R263: Moved waits are evaluated at monitor releases and at least every 500 ticks. -/
  | movedWaitEvaluation (core idx : Nat)
  /-- R263: A moved-out context whose wait ended is reloaded into a suitable idle helper slot. -/
  | contextReload (core idx : Nat)
  /-- R263: After 2,000 ticks without a slot, the longest-loaded helper is moved out. -/
  | reloadStarvationMove (core : Nat)
  /-- R275: At %GSWTIME an armed core stops selection and saves the partition. -/
  | gangSwitchOut (core : Nat)
  /-- R275: Once the switch-out is complete SAVED is set and ARM cleared. -/
  | gangSwitchSaved (core : Nat)
  /-- R276: At %GSWTIME with RESUME set, the core restores its state from AREA. -/
  | gangSwitchResume (core : Nat)
  /-- R234: The head turn command runs once no bundle is in dead time. -/
  | turnCommandRun (link : Nat)
  /-- R234: A turned bundle's 48 ticks of dead time end. -/
  | bundleDeadTimeEnd (link bundle : Nat)
  /-- R235: Every 4,000 ticks a link under demand may turn one bundle toward the busier direction. -/
  | demandSplitCheck (link fwdBytes revBytes : Nat)
  /-- R365: Firmware turns a bundle out of service for 30 µs to recalibrate it. -/
  | bundleRecalibration (link bundle : Nat)
  /-- R226: A dissemination-round message arrives from another package of the pod group. -/
  | podBarrierRound (asid : Nat) (gtag : Word) (lead round rank : Nat)
  /-- R361: A message from another package is served at the home M3's remote-agent port. -/
  | remotePackageAccess (pkg : Nat) (access : PodAccess)
  /-- R361: A Roneel port loses its link and is retrained while traffic moves to other ports. -/
  | roneelLinkLoss (port : Nat) (lost : List Nat)
  /-- R362: The Ombex complex boots, verifies firmware, trains memory and releases the compute dies. -/
  | powerOnReset (pkgnum startTick : Nat) (signatureA signatureB : Bool)
  /-- R20: Management firmware changes a die's arithmetic clock and publishes FTERM meanwhile. -/
  | clockFrequencyChange (die mhz fterm : Nat)
  /-- R363: Above 105 °C the die's clock is lowered one step per millisecond. -/
  | thermalThrottle (die celsius fterm : Nat)
  /-- R363: At 115 °C the module powers off without a save. -/
  | thermalShutdown (die celsius : Nat)
  /-- R328: A core with no issue or acceptance for the fence interval is fenced. -/
  | coreWatchdogExpiry (core : Nat)
  /-- R328: An uncorrectable error in slot state, TLB, layout table or journal fences the core. -/
  | uncorrectableCoreError (core : Nat)
  /-- R329: The block controller salvages a fenced core's M0 run and journal and writes a darn report. -/
  | darnPass (core : Nat) (bad : List Nat)
  /-- R330: After the lease wait the logical number is mapped cold to a free spare. -/
  | spareRemap (core : Nat)
  /-- R331: An idle array enters retention mode at the Ombex complex's command. -/
  | retentionEntry (array mib : Nat)
  /-- R331: An array leaves retention mode and is re-encoded. -/
  | retentionExit (array mib : Nat)
  /-- R333: Hourly, each die publishes its predicted remaining life. -/
  | ageingEstimate (die hours : Nat)
  /-- R365: The Ombex complex moves a row's data and spares the row. -/
  | rowSparing (device row : Nat)
  /-- R364: Firmware is written to the inactive slot, checked and activated by restarting service cores. -/
  | firmwareUpdate (slotB signed : Bool)
  /-- R358: A host write through BAR2 is performed as OVW records by a strong store at POD. -/
  | bar2Write (addr : Nat) (bytes : List Byte)
  /-- R358: A host read through BAR2 is a strong load at POD. -/
  | bar2Read (addr len : Nat)
  /-- R359: A host launch record written to LQPORT is enqueued or refused. -/
  | lqportWrite (port : Port) (cluster prio : Nat) (record : BitVec 256) (whole : Bool)
  /-- R299: A read of CPSEM returns it and takes the semaphore if free. -/
  | cpsemRead (host management : Bool)
  /-- R299: A write of 0 by the owner releases CPSEM. -/
  | cpsemWrite (port : Port) (val : Word)
  /-- R355: A port write of 1 to a core's FENCE register fences the core. -/
  | fenceCommandWrite (core : Nat) (val : Word)
  /-- R355: Setting DBG.HOLD stops or resumes selection on a core. -/
  | dbgHold (core : Nat) (hold : Bool)
  /-- R355: Writing the release bit of DBG releases a slot stopped at BKPT. -/
  | dbgRelease (core slot : Nat)
  /-- R355: A write of 0 to RPLCNT clears it and FULL. -/
  | rplcntClear (core : Nat) (val : Word)
  /-- R355: A write of 0 to FQOVF clears the fault-queue overflow count. -/
  | fqovfClear (val : Word)
  /-- R355: A write of 0 to ELOVF clears the event-log overflow count. -/
  | elovfClear (val : Word)
  /-- R355: A write of OVFCAP sets a queue's overflow capacity unless the area holds records. -/
  | ovfcapWrite (cluster prio : Nat) (val : Word)
  /-- R357: A write of a physical-address register outside device memory is ignored and logged. -/
  | paRegisterWrite (offset : Nat) (val : Word)
  /-- R356: A write of WINCTL places the BAR2 aperture and its key tag for later requests. -/
  | winctlWrite (val : Word)
  /-- R274: Setting ARM schedules a switch-out at %GSWTIME, at once if already past. -/
  | gswctlArm (core : Nat) (val : Word)
  /-- R274: Setting RESUME schedules a restore from AREA at %GSWTIME, at once if already past. -/
  | gswctlResume (core : Nat) (val : Word)
  /-- R355: A port write to a package register without behaviour of its own is performed whole. -/
  | registerWrite (offset : Nat) (val : Word)
  /-- R271: A sleeping context returns normally once B[47:0] ticks have passed since its SLEEP issued, without the wake token being set. -/
  | sleepTimeElapsed (core slot : Nat)
  /-- R365: After 30 µs of recalibration an anole bundle returns to service and can carry traffic and be eligible for turns again. -/
  | bundleRecalibrationEnd (link bundle : Nat)
  /-- R361: A Roneel port that lost its link finishes retraining and carries traffic again. -/
  | roneelPortRetrained (port : Nat) (reached : List Nat)
  /-- R363: A die's clock-frequency change completes within 10 µs and FTERM in %GBAND returns to zero. -/
  | frequencyChangeEnd (die : Nat)
  /-- R226: A Roneel switch's barrier counter for an episode signals that every package of the group has arrived, completing the POD barrier. -/
  | switchBarrierCounter (gid asid : Nat) (gtag : Word) (lead : Nat)
  deriving DecidableEq, Repr, Inhabited

end Sys2Proof
end

