-- ==== Sys2Proof/Machine/Catalogue.lean ====
section
/-!
DEFINITION. The opcode map and the catalogue tables (R44-R49): what each row accepts at D, A and B, its MOD layout and
its privilege, and the checks of R50 that need no state.
-/
namespace Sys2Proof

/-- A symbol of R45: what an operand position accepts. -/
inductive Cls where
  | s
  /-- a vector source -/
  | vsrc
  /-- a vector destination -/
  | vdst
  /-- class 1 only -/
  | vreg
  /-- class 1 naming vN as the base of the registers vN to vN+k (R104, R122) -/
  | vblk (k : Nat)
  | p
  /-- a ring named bare -/
  | q
  /-- a ring-consume descriptor (R112) -/
  | ringc
  | a
  | lay
  | csr
  /-- class 0 naming sN as the base of the registers sN to sN+k -/
  | blk (k : Nat)
  | none
  deriving DecidableEq, Repr, Inhabited

/-- The special register numbers that are implemented (R300, R312). -/
def csrKnown (n : Nat) : Bool :=
  [0x000, 0x001, 0x002, 0x010, 0x011, 0x012, 0x013, 0x014, 0x015, 0x020, 0x021, 0x022, 0x023, 0x024, 0x025, 0x026,
   0x027, 0x080, 0x081, 0x082, 0x083, 0x084, 0x100, 0x101, 0x102, 0x103, 0x104, 0x105, 0x106, 0x107, 0x108, 0x109,
   0x10A, 0x10B, 0x10C].contains n

/-- Does a descriptor fit a symbol, as far as no state decides (R34, R45). -/
def clsOk : Cls → Opd → Bool
  | .s, .s _ => true
  | .vsrc, .v _ => true
  | .vsrc, .qc _ _ _ => true
  | .vsrc, .m _ produce _ => !produce
  | .vdst, .v _ => true
  | .vdst, .qp _ _ _ => true
  | .vdst, .m _ produce _ => produce
  | .vreg, .v _ => true
  | .vblk k, .v r => decide (r.toNat + k ≤ 127)
  | .p, .p _ => true
  | .q, .qc _ w o => decide (w = 0 ∧ o = 0)
  | .ringc, .qc _ _ _ => true
  | .a, .a _ => true
  | .lay, .lay _ => true
  | .csr, .csr n => csrKnown n.toNat
  | .blk k, .s r => decide (r.toNat + k ≤ 31)
  | .none, .none => true
  | _, _ => false

/-- A row of the catalogue (R49). A MOD field is its low bit, its width and the codes the row allows (R47, R48). -/
structure Row where
  make : Fields → Instr
  d : List Cls
  a : List Cls
  /-- the descriptors that B accepts with BK 0b00 -/
  b : List Cls
  /-- B accepts BK 0b01 and 0b10 -/
  bImm : Bool
  /-- B accepts BK 0b11 -/
  bFimm : Bool
  mods : List (Nat × Nat × List Nat)
  need : Need

/-- R49: the control group, in the order of its table. -/
def controlRows : List Row :=
  [⟨.nop, [.none], [.none], [.none], false, false, [], .free⟩,
   ⟨.bra, [.none], [.none], [], true, false, [], .free⟩,
   ⟨.brx, [.none], [.s], [.none], false, false, [], .free⟩,
   ⟨.call, [.none], [.none], [.s], true, false, [], .free⟩,
   ⟨.ret, [.none], [.none], [.none], false, false, [], .free⟩,
   ⟨.loop, [.none], [.s], [], true, false, [], .free⟩,
   ⟨.lend, [.none], [.none], [.none], false, false, [], .free⟩,
   ⟨.yield, [.none], [.none], [], true, false, [], .free⟩]

/-- R49: the scalar group, in the order of its table. -/
def scalarRows : List Row :=
  [⟨.sadd, [.s], [.s], [.s], true, false, [], .free⟩,
   ⟨.ssub, [.s], [.s], [.s], true, false, [], .free⟩,
   ⟨.smul, [.s], [.s], [.s], true, false, [], .free⟩,
   ⟨.smulh, [.s], [.s], [.s], true, false, [(0, 1, [0, 1])], .free⟩,
   ⟨.sdiv, [.s], [.s], [.s], true, false, [(0, 1, [0, 1])], .free⟩,
   ⟨.srem, [.s], [.s], [.s], true, false, [(0, 1, [0, 1])], .free⟩,
   ⟨.sand, [.s], [.s], [.s], true, false, [], .free⟩,
   ⟨.sor, [.s], [.s], [.s], true, false, [], .free⟩,
   ⟨.sxor, [.s], [.s], [.s], true, false, [], .free⟩,
   ⟨.sandn, [.s], [.s], [.s], true, false, [], .free⟩,
   ⟨.sshl, [.s], [.s], [.s], true, false, [], .free⟩,
   ⟨.sshr, [.s], [.s], [.s], true, false, [], .free⟩,
   ⟨.ssra, [.s], [.s], [.s], true, false, [], .free⟩,
   ⟨.srot, [.s], [.s], [.s], true, false, [], .free⟩,
   ⟨.smin, [.s], [.s], [.s], true, false, [(0, 1, [0, 1])], .free⟩,
   ⟨.smax, [.s], [.s], [.s], true, false, [(0, 1, [0, 1])], .free⟩,
   ⟨.sclz, [.s], [.none], [.s], false, false, [], .free⟩,
   ⟨.spopc, [.s], [.none], [.s], false, false, [], .free⟩,
   ⟨.sbfx, [.s], [.s], [.s], true, false, [(0, 1, [0, 1])], .free⟩,
   ⟨.sbfi, [.s], [.s], [.s], true, false, [], .free⟩,
   ⟨.ssel, [.s], [.s], [.s], true, false, [(0, 3, [0, 1, 2, 3, 4, 5, 6, 7])], .free⟩,
   ⟨.smov, [.s], [.none], [.s], true, true, [], .free⟩,
   ⟨.sli, [.s], [.none], [], true, false, [(0, 1, [0, 1])], .free⟩,
   ⟨.scmp, [.p], [.s], [.s], true, false, [(1, 3, [0, 1, 2, 3, 4, 5]), (0, 1, [0, 1])], .free⟩,
   ⟨.slea, [.s], [.lay], [.s], false, false, [], .free⟩]

/-- R49: the predicate and lane group, in the order of its table. -/
def laneRows : List Row :=
  [⟨.pand, [.p], [.p], [.p], false, false, [], .free⟩,
   ⟨.por, [.p], [.p], [.p], false, false, [], .free⟩,
   ⟨.pxor, [.p], [.p], [.p], false, false, [], .free⟩,
   ⟨.pnot, [.p], [.none], [.p], false, false, [], .free⟩,
   ⟨.pmov, [.p], [.none], [.p, .s], true, false, [], .free⟩,
   ⟨.pany, [.p], [.none], [.p], false, false, [], .free⟩,
   ⟨.pall, [.p], [.none], [.p], false, false, [], .free⟩,
   ⟨.pcnt, [.s], [.none], [.p], false, false, [], .free⟩,
   ⟨.vshfl, [.vdst], [.vsrc], [.vsrc, .s], true, false, [(0, 2, [0, 1, 2, 3])], .free⟩,
   ⟨.vperm, [.vdst], [.vsrc], [.vsrc], false, false, [], .free⟩,
   ⟨.vreda, [.s], [.vsrc], [.none], false, false, [(0, 4, [0, 4, 8, 9, 10])], .free⟩,
   ⟨.vredm, [.s], [.vsrc], [.none], false, false, [(4, 1, [0, 1]), (0, 4, [0, 4, 8, 9, 10])], .free⟩,
   ⟨.vscan, [.vdst], [.vsrc], [.none], false, false, [(0, 4, [0, 4, 8, 9, 10])], .free⟩,
   ⟨.vcomp, [.vdst], [.vsrc], [.p], false, false, [], .free⟩,
   ⟨.vexpd, [.vdst], [.vsrc], [.p], false, false, [], .free⟩,
   ⟨.vballot, [.s], [.none], [.p], false, false, [], .free⟩]

/-- R49: the vector integer group, in the order of its table. -/
def intRows : List Row :=
  [⟨.vadd, [.vdst], [.vsrc], [.vsrc], true, false, [(3, 1, [0, 1]), (0, 3, [0, 1, 2, 4, 5, 6])], .free⟩,
   ⟨.vsub, [.vdst], [.vsrc], [.vsrc], true, false, [(3, 1, [0, 1]), (0, 3, [0, 1, 2, 4, 5, 6])], .free⟩,
   ⟨.vmul, [.vdst], [.vsrc], [.vsrc], true, false, [(3, 1, [0, 1]), (0, 3, [0, 1, 2, 4, 5, 6])], .free⟩,
   ⟨.vmulh, [.vdst], [.vsrc], [.vsrc], true, false, [(0, 3, [0, 1, 2, 4, 5, 6])], .free⟩,
   ⟨.vmad, [.vreg], [.vsrc], [.vsrc], true, false, [(3, 1, [0, 1]), (0, 3, [0, 1, 2, 4, 5, 6])], .free⟩,
   ⟨.vand, [.vdst], [.vsrc], [.vsrc], true, false, [(0, 3, [0, 1, 2, 4, 5, 6])], .free⟩,
   ⟨.vor, [.vdst], [.vsrc], [.vsrc], true, false, [(0, 3, [0, 1, 2, 4, 5, 6])], .free⟩,
   ⟨.vxor, [.vdst], [.vsrc], [.vsrc], true, false, [(0, 3, [0, 1, 2, 4, 5, 6])], .free⟩,
   ⟨.vandn, [.vdst], [.vsrc], [.vsrc], true, false, [(0, 3, [0, 1, 2, 4, 5, 6])], .free⟩,
   ⟨.vshl, [.vdst], [.vsrc], [.vsrc], true, false, [(0, 3, [0, 1, 2, 4, 5, 6])], .free⟩,
   ⟨.vshr, [.vdst], [.vsrc], [.vsrc], true, false, [(0, 3, [0, 1, 2, 4, 5, 6])], .free⟩,
   ⟨.vsra, [.vdst], [.vsrc], [.vsrc], true, false, [(0, 3, [0, 1, 2, 4, 5, 6])], .free⟩,
   ⟨.vmin, [.vdst], [.vsrc], [.vsrc], true, false, [(0, 3, [0, 1, 2, 4, 5, 6])], .free⟩,
   ⟨.vmax, [.vdst], [.vsrc], [.vsrc], true, false, [(0, 3, [0, 1, 2, 4, 5, 6])], .free⟩,
   ⟨.vabs, [.vdst], [.none], [.vsrc], false, false, [(3, 1, [0, 1]), (0, 3, [0, 1, 2, 4, 5, 6])], .free⟩,
   ⟨.vneg, [.vdst], [.none], [.vsrc], false, false, [(3, 1, [0, 1]), (0, 3, [0, 1, 2, 4, 5, 6])], .free⟩,
   ⟨.vcmp, [.p], [.vsrc], [.vsrc], true, false, [(4, 3, [0, 1, 2, 3, 4, 5]), (0, 3, [0, 1, 2, 4, 5, 6])], .free⟩,
   ⟨.vsel, [.vdst], [.vsrc], [.vsrc], true, false, [(0, 3, [0, 1, 2, 3, 4, 5, 6, 7])], .free⟩,
   ⟨.vmov, [.vdst], [.none], [.vsrc], false, false, [], .free⟩,
   ⟨.vbcast, [.vdst], [.none], [.s], true, true, [], .free⟩,
   ⟨.vclz, [.vdst], [.none], [.vsrc], false, false, [(0, 3, [0, 1, 2, 4, 5, 6])], .free⟩,
   ⟨.vpopc, [.vdst], [.none], [.vsrc], false, false, [(0, 3, [0, 1, 2, 4, 5, 6])], .free⟩]

/-- R49: the vector float group, in the order of its table. -/
def floatRows : List Row :=
  [⟨.fadd, [.vdst], [.vsrc], [.vsrc], false, true, [(2, 2, [0, 1, 2, 3]), (0, 2, [0, 1, 2])], .free⟩,
   ⟨.fsub, [.vdst], [.vsrc], [.vsrc], false, true, [(2, 2, [0, 1, 2, 3]), (0, 2, [0, 1, 2])], .free⟩,
   ⟨.fmul, [.vdst], [.vsrc], [.vsrc], false, true, [(2, 2, [0, 1, 2, 3]), (0, 2, [0, 1, 2])], .free⟩,
   ⟨.ffma, [.vreg], [.vsrc], [.vsrc], false, true, [(2, 2, [0, 1, 2, 3]), (0, 2, [0, 1, 2])], .free⟩,
   ⟨.fdiv, [.vdst], [.vsrc], [.vsrc], false, true, [(2, 2, [0, 1, 2, 3]), (0, 2, [0, 1, 2])], .free⟩,
   ⟨.fsqrt, [.vdst], [.none], [.vsrc], false, true, [(2, 2, [0, 1, 2, 3]), (0, 2, [0, 1, 2])], .free⟩,
   ⟨.fmin, [.vdst], [.vsrc], [.vsrc], false, true, [(0, 2, [0, 1, 2])], .free⟩,
   ⟨.fmax, [.vdst], [.vsrc], [.vsrc], false, true, [(0, 2, [0, 1, 2])], .free⟩,
   ⟨.fabs, [.vdst], [.none], [.vsrc], false, false, [(0, 2, [0, 1, 2])], .free⟩,
   ⟨.fneg, [.vdst], [.none], [.vsrc], false, false, [(0, 2, [0, 1, 2])], .free⟩,
   ⟨.fcmp, [.p], [.vsrc], [.vsrc], false, true, [(2, 3, [0, 1, 2, 3, 4, 5, 6, 7]), (0, 2, [0, 1, 2])], .free⟩,
   ⟨.frcp, [.vdst], [.none], [.vsrc], false, false, [(0, 2, [0, 1, 2])], .free⟩,
   ⟨.frsq, [.vdst], [.none], [.vsrc], false, false, [(0, 2, [0, 1, 2])], .free⟩,
   ⟨.fexp2, [.vdst], [.none], [.vsrc], false, false, [(0, 2, [0, 1, 2])], .free⟩,
   ⟨.flog2, [.vdst], [.none], [.vsrc], false, false, [(0, 2, [0, 1, 2])], .free⟩,
   ⟨.ftanh, [.vdst], [.none], [.vsrc], false, false, [(0, 2, [0, 1, 2])], .free⟩,
   ⟨.fsin, [.vdst], [.none], [.vsrc], false, false, [(0, 2, [0, 1, 2])], .free⟩,
   ⟨.fcos, [.vdst], [.none], [.vsrc], false, false, [(0, 2, [0, 1, 2])], .free⟩]

/-- R49: the conversion, narrow and lattice group, in the order of its table. -/
def convRows : List Row :=
  [⟨.fcvt, [.vdst], [.none], [.vsrc], false, false, [(6, 3, [0, 1, 2, 3, 4]), (3, 3, [0, 1, 2, 3, 4]), (1, 2, [0, 1, 2, 3]), (0, 1, [0, 1])], .free⟩,
   ⟨.icvt, [.vdst], [.none], [.vsrc], false, false, [(8, 1, [0, 1]), (5, 3, [0, 1, 2, 4, 5, 6]), (2, 3, [0, 1, 2, 3, 4]), (0, 2, [0, 1, 2, 3])], .free⟩,
   ⟨.fqnt, [.vdst], [.vblk 3], [.s], false, true, [(5, 1, [0, 1]), (3, 2, [0, 1, 2, 3]), (0, 3, [3, 4])], .free⟩,
   ⟨.xpack, [.vdst], [.vsrc], [.vsrc], false, false, [], .free⟩,
   ⟨.xunpk, [.vdst], [.vsrc], [.vsrc], false, false, [(0, 3, [0, 1, 2])], .free⟩,
   ⟨.xscale, [.vdst], [.vsrc], [.none], false, false, [], .free⟩,
   ⟨.lqnt, [.vdst], [.vblk 7], [.s], false, true, [], .free⟩,
   ⟨.ldec, [.vreg], [.vsrc], [.s], false, true, [(0, 3, [0, 1, 2])], .free⟩]

/-- R49: the matrix and seam group, in the order of its table. -/
def matrixRows : List Row :=
  [⟨.mma, [.a], [.lay, .ringc], [.lay, .ringc], false, false, [(1, 1, [0, 1]), (0, 1, [0, 1])], .free⟩,
   ⟨.mmas, [.a], [.lay, .ringc], [.lay, .ringc], false, false, [(1, 1, [0, 1]), (0, 1, [0, 1])], .free⟩,
   ⟨.mmar, [.a], [.blk 1], [.none], false, false, [(1, 1, [0, 1]), (0, 1, [0, 1])], .free⟩,
   ⟨.accz, [.a], [.none], [.none], false, false, [], .free⟩,
   ⟨.accld, [.a], [.lay], [.s], false, false, [], .free⟩,
   ⟨.accst, [.lay], [.a], [.s], false, false, [(2, 1, [0, 1]), (0, 2, [0, 1, 2, 3])], .free⟩,
   ⟨.seam, [.lay], [.lay], [.blk 2], false, false, [(1, 1, [0, 1]), (0, 1, [0, 1])], .free⟩,
   ⟨.unseam, [.lay], [.lay], [.blk 1], false, false, [], .free⟩]

/-- R49: the global memory group, in the order of its table. -/
def memoryRows : List Row :=
  [⟨.ld, [.s], [.lay], [.s], false, false, [(7, 2, [0, 1, 2]), (4, 3, [0, 1, 2, 3, 4, 5, 6])], .free⟩,
   ⟨.ldv, [.vdst], [.lay], [.s], false, false, [(7, 2, [0, 1, 2]), (4, 3, [0, 1, 2, 3, 4, 5, 6])], .free⟩,
   ⟨.st, [.lay], [.s], [.s], true, false, [(7, 2, [0, 1, 2, 3]), (4, 3, [0, 1, 2, 3, 4, 5, 6]), (1, 3, [0, 1, 2, 3, 4, 5, 6]), (0, 1, [0, 1])], .free⟩,
   ⟨.stv, [.lay], [.s], [.vsrc], false, false, [(7, 2, [0, 1, 2, 3]), (4, 3, [0, 1, 2, 3, 4, 5, 6]), (1, 3, [0, 1, 2, 3, 4, 5, 6]), (0, 1, [0, 1])], .free⟩,
   ⟨.fence, [.none], [.none], [.none], false, false, [(7, 2, [0, 1, 2]), (4, 3, [0, 1, 2, 3, 4, 5, 6])], .free⟩,
   ⟨.mpush, [.lay], [.s], [.s], false, false, [(4, 3, [0, 1, 2, 3, 4, 5, 6])], .free⟩,
   ⟨.mdrop, [.lay], [.s], [.s], false, false, [(4, 3, [0, 1, 2, 3, 4, 5, 6])], .free⟩,
   ⟨.msync, [.none], [.none], [.none], false, false, [], .free⟩,
   ⟨.drainst, [.none], [.none], [.none], false, false, [], .free⟩,
   ⟨.arb, [.lay], [.s], [.none], false, false, [(4, 3, [0, 1, 2, 3, 4, 5, 6])], .free⟩,
   ⟨.are, [.none], [.none], [.none], false, false, [], .free⟩,
   ⟨.pref, [.none], [.lay], [.s], false, false, [(4, 3, [0, 1, 2, 3, 4, 5, 6])], .free⟩,
   ⟨.ltset, [.lay], [.vsrc], [.none], false, false, [], .free⟩,
   ⟨.ltget, [.vdst], [.lay], [.none], false, false, [], .free⟩]

/-- R49: the scratchpad and remote group, in the order of its table. -/
def scratchRows : List Row :=
  [⟨.lds, [.s], [.lay], [.s], false, false, [], .free⟩,
   ⟨.sts, [.lay], [.s], [.s], true, false, [], .free⟩,
   ⟨.ldsv, [.vdst], [.lay], [.s], false, false, [], .free⟩,
   ⟨.stsv, [.lay], [.s], [.vsrc], false, false, [], .free⟩,
   ⟨.ldsf, [.s], [.lay], [.s], false, false, [], .free⟩,
   ⟨.stsf, [.lay], [.s], [.s], true, false, [], .free⟩,
   ⟨.amsg, [.none], [.blk 3], [.s], true, false, [], .free⟩,
   ⟨.amret, [.none], [.none], [.s, .none], true, false, [], .free⟩,
   ⟨.rld, [.s], [.lay], [.s], false, false, [], .free⟩,
   ⟨.rst, [.lay], [.s], [.s], true, false, [], .free⟩,
   ⟨.rred, [.lay], [.s], [.s, .vsrc], false, false, [(1, 3, [1, 2, 3]), (0, 1, [0, 1])], .free⟩,
   ⟨.rgath, [.vdst], [.lay], [.vsrc], false, false, [], .free⟩]

/-- R49: the engines, sync, rings and lanes group, in the order of its table. -/
def engineRows : List Row :=
  [⟨.cpy, [.lay], [.lay], [.blk 3], false, false, [(6, 3, [0, 1, 2, 3, 4, 5]), (5, 1, [0, 1]), (4, 1, [0, 1]), (1, 3, [0, 1, 2, 3, 4, 5, 6]), (0, 1, [0, 1])], .free⟩,
   ⟨.cpyw, [.none], [.s], [.s], true, false, [], .free⟩,
   ⟨.smrg, [.lay], [.lay], [.lay], false, false, [(0, 2, [0, 1, 2])], .free⟩,
   ⟨.bari, [.none], [.s], [.s], true, false, [], .free⟩,
   ⟨.bara, [.none], [.s], [.s], true, false, [], .free⟩,
   ⟨.bart, [.p], [.s], [.s], true, false, [], .free⟩,
   ⟨.barw, [.none], [.s], [.s], true, false, [], .free⟩,
   ⟨.hwbar, [.none], [.none], [.none], false, false, [(4, 3, [1, 2, 3, 4, 5, 6])], .free⟩,
   ⟨.qdef, [.q], [.vreg], [], true, false, [], .free⟩,
   ⟨.qadv, [.q], [.none], [.s], true, false, [], .free⟩,
   ⟨.qpub, [.q], [.none], [.s], true, false, [], .free⟩,
   ⟨.qcnt, [.s], [.q], [.none], false, false, [], .free⟩,
   ⟨.lnturn, [.none], [.s], [.s], true, false, [], .free⟩,
   ⟨.lnstat, [.s], [.s], [.none], false, false, [], .free⟩]

/-- R49: the task group, in the order of its table. -/
def taskRows : List Row :=
  [⟨.start, [.none], [.s], [.s], true, false, [], .free⟩,
   ⟨.spawn, [.p], [.none], [.s], false, false, [], .free⟩,
   ⟨.join, [.p, .none], [.none], [.s], false, false, [], .free⟩,
   ⟨.texit, [.none], [.none], [.none], false, false, [], .free⟩,
   ⟨.wait, [.none], [.s], [.s], true, false, [(1, 3, [0, 1, 2, 3, 4, 5])], .free⟩,
   ⟨.wake, [.none], [.s], [.none], false, false, [], .free⟩,
   ⟨.sleep, [.none], [.none], [.s], true, false, [], .free⟩,
   ⟨.teamk, [.none], [.s], [.none], false, false, [], .teamk none⟩,
   ⟨.repart, [.none], [.none], [], true, false, [], .supervisor⟩]

/-- R49: the system and trap group, in the order of its table. -/
def systemRows : List Row :=
  [⟨.trap, [.none], [.none], [], true, false, [], .free⟩,
   ⟨.eret, [.none], [.none], [.none], false, false, [], .eret⟩,
   ⟨.csrr, [.s], [.csr], [.none], false, false, [], (.csrRead 0)⟩,
   ⟨.csrw, [.csr], [.none], [.s], true, false, [], (.csrWrite 0)⟩,
   ⟨.tlbinv, [.none], [.s], [.s], false, false, [], .supervisor⟩,
   ⟨.keyset, [.none], [.s], [.s], false, false, [], .supervisor⟩,
   ⟨.keykill, [.none], [.s], [.none], false, false, [], .supervisor⟩,
   ⟨.mfault, [.vdst], [.none], [.none], false, false, [], .free⟩,
   ⟨.mres, [.none], [.s], [.vsrc, .none], false, false, [(0, 2, [0, 1, 2])], .free⟩,
   ⟨.sjread, [.vdst], [.s], [.none], false, false, [], .free⟩,
   ⟨.sjclr, [.none], [.s], [.none], false, false, [], .free⟩,
   ⟨.bkpt, [.none], [.none], [.none], true, false, [], .free⟩]

/-- R44: the row of an assigned code; none where the code raises ILLEGAL_INSTRUCTION. -/
def rowOf (c : Nat) : Option Row :=
  match c / 32 with
  | 0 => if c = 0 then none else controlRows[c - 1]?
  | 1 => scalarRows[c - 0x020]?
  | 2 => laneRows[c - 0x040]?
  | 3 => intRows[c - 0x060]?
  | 4 => floatRows[c - 0x080]?
  | 5 => convRows[c - 0x0A0]?
  | 6 => matrixRows[c - 0x0C0]?
  | 7 => memoryRows[c - 0x0E0]?
  | 8 => scratchRows[c - 0x100]?
  | 9 => engineRows[c - 0x120]?
  | 10 => taskRows[c - 0x140]?
  | 11 => systemRows[c - 0x160]?
  | _ => none

/-- The reserved combinations of R49: KEEP0 with SEAM.APPLY, and SEQ with a CPY transform 0 to 2. -/
def comboOk (c md : Nat) : Bool :=
  if c = 0x0C6 then md ≠ 3
  else if c = 0x120 then !(md % 2 = 1 && md / 64 < 3)
  else true

/-- Every defined MOD field holds an allowed code and every undefined MOD bit is zero (R26, R47, R49). -/
def modOk (c : Nat) (row : Row) (md : Nat) : Bool :=
  row.mods.all (fun m => m.2.2.contains (md / 2 ^ m.1 % 2 ^ m.2.1)) &&
    decide (row.mods.foldl (fun acc m => acc - md / 2 ^ m.1 % 2 ^ m.2.1 * 2 ^ m.1) md = 0) && comboOk c md

/-- A descriptor that one of the symbols accepts. -/
def anyCls (cs : List Cls) (o : Opd) : Bool := cs.any (fun c => clsOk c o)

/-- The kind and the descriptor of B (R31, R45). -/
def bOk (row : Row) : BOpd → Bool
  | .desc o => anyCls row.b o
  | .imm _ => row.bImm
  | .win _ _ => row.bImm
  | .fimm _ => row.bFimm

/-- The pairings of R49 that raise OPERAND_CLASS: TFA or TFB on a ring operand of MMA or MMAS, and MRES with B. -/
def pairOk (c : Nat) (f : Fields) : Bool :=
  if c = 0x0C0 ∨ c = 0x0C1 then
    !(f.md.toNat % 2 = 1 && clsOk .ringc f.a) &&
      !(f.md.toNat / 2 % 2 = 1 && (match f.b with | .desc o => clsOk .ringc o | _ => false))
  else if c = 0x168 then
    (match f.b with | .desc .none => f.md.toNat ≠ 2 | _ => f.md.toNat = 2)
  else true

/-- The class checks of R27 step 3 that need no state. -/
def classOk (c : Nat) (row : Row) (f : Fields) : Bool :=
  anyCls row.d f.d && anyCls row.a f.a && bOk row f.b && pairOk c f

/-- The right a word needs: that of its row, or of the special register it names (R34, R49). -/
def needOf (row : Row) (d a : Option Opd) : Need :=
  match row.need with
  | .csrRead _ => (match a with | some (.csr n) => if csrKnown n.toNat then .csrRead n else .free | _ => .free)
  | .csrWrite _ => (match d with | some (.csr n) => if csrKnown n.toNat then .csrWrite n else .free | _ => .free)
  | .teamk _ => .teamk (match a with | some (.s r) => some r | _ => none)
  | n => n

/-- The opcode and the fields of a word instruction; none for the events of the table. -/
def Instr.word : Instr → Option (Nat × Fields)
  | .nop f => some (0x001, f)
  | .bra f => some (0x002, f)
  | .brx f => some (0x003, f)
  | .call f => some (0x004, f)
  | .ret f => some (0x005, f)
  | .loop f => some (0x006, f)
  | .lend f => some (0x007, f)
  | .yield f => some (0x008, f)
  | .sadd f => some (0x020, f)
  | .ssub f => some (0x021, f)
  | .smul f => some (0x022, f)
  | .smulh f => some (0x023, f)
  | .sdiv f => some (0x024, f)
  | .srem f => some (0x025, f)
  | .sand f => some (0x026, f)
  | .sor f => some (0x027, f)
  | .sxor f => some (0x028, f)
  | .sandn f => some (0x029, f)
  | .sshl f => some (0x02a, f)
  | .sshr f => some (0x02b, f)
  | .ssra f => some (0x02c, f)
  | .srot f => some (0x02d, f)
  | .smin f => some (0x02e, f)
  | .smax f => some (0x02f, f)
  | .sclz f => some (0x030, f)
  | .spopc f => some (0x031, f)
  | .sbfx f => some (0x032, f)
  | .sbfi f => some (0x033, f)
  | .ssel f => some (0x034, f)
  | .smov f => some (0x035, f)
  | .sli f => some (0x036, f)
  | .scmp f => some (0x037, f)
  | .slea f => some (0x038, f)
  | .pand f => some (0x040, f)
  | .por f => some (0x041, f)
  | .pxor f => some (0x042, f)
  | .pnot f => some (0x043, f)
  | .pmov f => some (0x044, f)
  | .pany f => some (0x045, f)
  | .pall f => some (0x046, f)
  | .pcnt f => some (0x047, f)
  | .vshfl f => some (0x048, f)
  | .vperm f => some (0x049, f)
  | .vreda f => some (0x04a, f)
  | .vredm f => some (0x04b, f)
  | .vscan f => some (0x04c, f)
  | .vcomp f => some (0x04d, f)
  | .vexpd f => some (0x04e, f)
  | .vballot f => some (0x04f, f)
  | .vadd f => some (0x060, f)
  | .vsub f => some (0x061, f)
  | .vmul f => some (0x062, f)
  | .vmulh f => some (0x063, f)
  | .vmad f => some (0x064, f)
  | .vand f => some (0x065, f)
  | .vor f => some (0x066, f)
  | .vxor f => some (0x067, f)
  | .vandn f => some (0x068, f)
  | .vshl f => some (0x069, f)
  | .vshr f => some (0x06a, f)
  | .vsra f => some (0x06b, f)
  | .vmin f => some (0x06c, f)
  | .vmax f => some (0x06d, f)
  | .vabs f => some (0x06e, f)
  | .vneg f => some (0x06f, f)
  | .vcmp f => some (0x070, f)
  | .vsel f => some (0x071, f)
  | .vmov f => some (0x072, f)
  | .vbcast f => some (0x073, f)
  | .vclz f => some (0x074, f)
  | .vpopc f => some (0x075, f)
  | .fadd f => some (0x080, f)
  | .fsub f => some (0x081, f)
  | .fmul f => some (0x082, f)
  | .ffma f => some (0x083, f)
  | .fdiv f => some (0x084, f)
  | .fsqrt f => some (0x085, f)
  | .fmin f => some (0x086, f)
  | .fmax f => some (0x087, f)
  | .fabs f => some (0x088, f)
  | .fneg f => some (0x089, f)
  | .fcmp f => some (0x08a, f)
  | .frcp f => some (0x08b, f)
  | .frsq f => some (0x08c, f)
  | .fexp2 f => some (0x08d, f)
  | .flog2 f => some (0x08e, f)
  | .ftanh f => some (0x08f, f)
  | .fsin f => some (0x090, f)
  | .fcos f => some (0x091, f)
  | .fcvt f => some (0x0a0, f)
  | .icvt f => some (0x0a1, f)
  | .fqnt f => some (0x0a2, f)
  | .xpack f => some (0x0a3, f)
  | .xunpk f => some (0x0a4, f)
  | .xscale f => some (0x0a5, f)
  | .lqnt f => some (0x0a6, f)
  | .ldec f => some (0x0a7, f)
  | .mma f => some (0x0c0, f)
  | .mmas f => some (0x0c1, f)
  | .mmar f => some (0x0c2, f)
  | .accz f => some (0x0c3, f)
  | .accld f => some (0x0c4, f)
  | .accst f => some (0x0c5, f)
  | .seam f => some (0x0c6, f)
  | .unseam f => some (0x0c7, f)
  | .ld f => some (0x0e0, f)
  | .ldv f => some (0x0e1, f)
  | .st f => some (0x0e2, f)
  | .stv f => some (0x0e3, f)
  | .fence f => some (0x0e4, f)
  | .mpush f => some (0x0e5, f)
  | .mdrop f => some (0x0e6, f)
  | .msync f => some (0x0e7, f)
  | .drainst f => some (0x0e8, f)
  | .arb f => some (0x0e9, f)
  | .are f => some (0x0ea, f)
  | .pref f => some (0x0eb, f)
  | .ltset f => some (0x0ec, f)
  | .ltget f => some (0x0ed, f)
  | .lds f => some (0x100, f)
  | .sts f => some (0x101, f)
  | .ldsv f => some (0x102, f)
  | .stsv f => some (0x103, f)
  | .ldsf f => some (0x104, f)
  | .stsf f => some (0x105, f)
  | .amsg f => some (0x106, f)
  | .amret f => some (0x107, f)
  | .rld f => some (0x108, f)
  | .rst f => some (0x109, f)
  | .rred f => some (0x10a, f)
  | .rgath f => some (0x10b, f)
  | .cpy f => some (0x120, f)
  | .cpyw f => some (0x121, f)
  | .smrg f => some (0x122, f)
  | .bari f => some (0x123, f)
  | .bara f => some (0x124, f)
  | .bart f => some (0x125, f)
  | .barw f => some (0x126, f)
  | .hwbar f => some (0x127, f)
  | .qdef f => some (0x128, f)
  | .qadv f => some (0x129, f)
  | .qpub f => some (0x12a, f)
  | .qcnt f => some (0x12b, f)
  | .lnturn f => some (0x12c, f)
  | .lnstat f => some (0x12d, f)
  | .start f => some (0x140, f)
  | .spawn f => some (0x141, f)
  | .join f => some (0x142, f)
  | .texit f => some (0x143, f)
  | .wait f => some (0x144, f)
  | .wake f => some (0x145, f)
  | .sleep f => some (0x146, f)
  | .teamk f => some (0x147, f)
  | .repart f => some (0x148, f)
  | .trap f => some (0x160, f)
  | .eret f => some (0x161, f)
  | .csrr f => some (0x162, f)
  | .csrw f => some (0x163, f)
  | .tlbinv f => some (0x164, f)
  | .keyset f => some (0x165, f)
  | .keykill f => some (0x166, f)
  | .mfault f => some (0x167, f)
  | .mres f => some (0x168, f)
  | .sjread f => some (0x169, f)
  | .sjclr f => some (0x16a, f)
  | .bkpt f => some (0x16b, f)
  | .unassignedEncodingIssue _ => none
  | .imageLoad _ _ _ _ => none
  | .teamLaunch _ => none
  | .teamEnd _ => none
  | .msixVectorRaise _ => none
  | .msixUnmask _ => none
  | .drainIntervalExpiry _ _ _ => none
  | .mergePublication _ _ => none
  | .deferralExpiry _ _ _ => none
  | .horizonExpiry _ _ _ => none
  | .floorCopyExpiry _ _ _ => none
  | .floorCopyEviction _ _ _ => none
  | .loadReply _ _ _ => none
  | .strongStorePerformed _ _ => none
  | .regionExecute _ _ => none
  | .pageWalkDone _ _ => none
  | .journalWalkResult _ _ => none
  | .asyncTrapTake _ => none
  | .remoteLoadRequest _ _ => none
  | .remoteStoreRequest _ _ => none
  | .rredPacket _ _ => none
  | .remoteFullEmptyRequest _ _ => none
  | .remoteWaitDeadline _ _ => none
  | .remoteWaitTimeoutReply _ _ => none
  | .homeNotReadyAnswer _ _ => none
  | .remoteRetryTimer _ _ => none
  | .remoteRetryLimit _ _ => none
  | .remoteReadReply _ _ => none
  | .remoteAck _ _ => none
  | .remoteRefusal _ _ => none
  | .activeMessageArrival _ _ => none
  | .handlerStart _ => none
  | .mmarCommandArrival _ _ => none
  | .wakeRequest _ _ => none
  | .remoteBaraArrival _ _ => none
  | .copyByteAddition _ _ => none
  | .copyCountEvent _ _ => none
  | .copyComplete _ _ _ => none
  | .copyFault _ _ _ => none
  | .matrixCommandStart _ => none
  | .matrixCommandComplete _ => none
  | .matrixEngineFault _ => none
  | .seamCommandComplete _ => none
  | .smrgComplete _ => none
  | .smrgResume _ => none
  | .taskAsk _ => none
  | .taskSelect _ => none
  | .taskBind _ => none
  | .taskAgeing _ _ _ => none
  | .waitDeadlineExpiry _ _ => none
  | .movedWaitEvaluation _ _ => none
  | .contextReload _ _ => none
  | .reloadStarvationMove _ => none
  | .gangSwitchOut _ => none
  | .gangSwitchSaved _ => none
  | .gangSwitchResume _ => none
  | .turnCommandRun _ => none
  | .bundleDeadTimeEnd _ _ => none
  | .demandSplitCheck _ _ _ => none
  | .bundleRecalibration _ _ => none
  | .podBarrierRound _ _ _ _ _ => none
  | .remotePackageAccess _ _ => none
  | .roneelLinkLoss _ _ => none
  | .powerOnReset _ _ _ _ => none
  | .clockFrequencyChange _ _ _ => none
  | .thermalThrottle _ _ _ => none
  | .thermalShutdown _ _ => none
  | .coreWatchdogExpiry _ => none
  | .uncorrectableCoreError _ => none
  | .darnPass _ _ => none
  | .spareRemap _ => none
  | .retentionEntry _ _ => none
  | .retentionExit _ _ => none
  | .ageingEstimate _ _ => none
  | .rowSparing _ _ => none
  | .firmwareUpdate _ _ => none
  | .bar2Write _ _ => none
  | .bar2Read _ _ => none
  | .lqportWrite _ _ _ _ _ => none
  | .cpsemRead _ _ => none
  | .cpsemWrite _ _ => none
  | .fenceCommandWrite _ _ => none
  | .dbgHold _ _ => none
  | .dbgRelease _ _ => none
  | .rplcntClear _ _ => none
  | .fqovfClear _ => none
  | .elovfClear _ => none
  | .ovfcapWrite _ _ _ => none
  | .paRegisterWrite _ _ => none
  | .winctlWrite _ => none
  | .gswctlArm _ _ => none
  | .gswctlResume _ _ => none
  | .registerWrite _ _ => none
  | .sleepTimeElapsed _ _ => none
  | .bundleRecalibrationEnd _ _ => none
  | .roneelPortRetrained _ _ => none
  | .frequencyChangeEnd _ => none
  | .switchBarrierCounter _ _ _ _ => none

/-- One of the 166 instructions of the catalogue (R44). -/
def Instr.isWord (i : Instr) : Bool := i.word.isSome

end Sys2Proof
end

