-- ==== Sys2Proof/Config.lean ====
section
/-!
DEFINITION. What the spec leaves open: the turns that no input fixes, and the values that no rule states. Every free
value is an opaque constant, so a statement about it holds whatever it is.
-/
namespace Sys2Proof

/-- An error that arises before a step: uncorrectable, but for `corrected` (R326, R331). -/
inductive Upset where
  /-- in the data of a granule of global memory, by its number PA[51:5] -/
  | granule (g : Nat)
  /-- in an 8-byte word of a core's scratchpad -/
  | word (core w : Nat)
  /-- in an accumulator tile of a core -/
  | tile (core t : Nat)
  /-- in a scalar register of a slot, and in a vector register of a core -/
  | sreg (core slot r : Nat)
  | vreg (core r : Nat)
  /-- in the record at a place of a key's chain, by level and place -/
  | record (lvl inst key idx : Nat)
  /-- a single-bit error of an array, which its code corrects: source of the report, array, offset (R331, R332) -/
  | corrected (src array offset : Nat)
  /-- in a granule of a floor copy, by level, place and line under its key tag -/
  | copy (lvl inst line g : Nat)
  deriving DecidableEq, Repr, Inhabited

/-- What an engine or a port does before a step (R113, R213, R355). -/
inductive Move where
  /-- the matrix command in progress on a core performs some K steps -/
  | matrix (core n : Nat)
  /-- the oldest command of a core's seam unit begins -/
  | seam (core : Nat)
  /-- the oldest ACCST of a core whose slot has gone on is performed -/
  | acc (core : Nat)
  /-- a copy of a core performs some units of its box -/
  | copy (core ch ident n : Nat)
  /-- a control port reads 8 bytes of the register space (R355) -/
  | read (offset : Nat)
  /-- the host makes a configuration request of the package (R362) -/
  | config
  deriving DecidableEq, Repr, Inhabited

/-- What a step does: the barrel of a core has an issue opportunity (R254), or one event of the opcode table happens. -/
inductive Act where
  | issue (core : Nat)
  | event (e : Instr)
  deriving DecidableEq, Repr, Inhabited

/-- The free choices of one step (log 1, 2, 3, 9): the ticks that pass before it, the cycles that pass on the
issuing core, whether a load's reply or a strong operation's performance comes in a later step, the levels that install
a floor copy, the slots a unit's
latency keeps from issuing, the uncorrectable errors that arise, what engines do before it, and what moves. -/
structure Turn where
  dt : Nat
  cycles : Nat
  later : Bool
  /-- the levels at which a load's floor copies are installed, bit n for Mn (R147) -/
  install : BitVec 4
  stalled : BitVec 16
  upsets : List Upset
  moves : List Move
  act : Act
  deriving DecidableEq, Repr, Inhabited

namespace Config

/-- DESIGN CHOICE (log 1). The turn the machine takes when no input names one: which agent moves next, and when, is
not fixed by the spec. -/
opaque freeTurn : Nat → Turn

/-- The package key, K1 * 2^256 + K2, which the Ombex complex loads at boot (R293; log 6). -/
opaque packageKey : BitVec 512

/-- Which of the values common to both inputs an ISECT of unsorted lists writes (R229; log 12). -/
opaque isectPick : Nat → Nat → Bool

/-- The array identifier a machine check reports (R313 names none; log 13): by its SUB, and the offset in it. -/
opaque arrayIdent : Nat → Nat → Word

/-- The message kind and the payload digest of a replay-log entry, bits 41:0 (R334 gives no codes of kinds and no digest
function; log 14). -/
opaque replayDetail : List Nat → BitVec 42

/-- The source of a load's reply in a replay-log entry, bits 63:42 (R334 names none for a reply of memory; log 14). -/
opaque replaySource : List Nat → BitVec 22

/-- The units of 32 bytes that the encoding of a chunk of M1 takes, by the data of a line: not visible to programs (R153; log 56). -/
opaque chunkUnits : Nat → Nat

/-- Whether the switch at a Roneel port advertises barrier counters for a group (R226, R360): the fabric's (log 11). -/
opaque switchCounters : Nat → Nat → Bool

/-- SUB, %TVAL and %TINFO of a trap for which R313 states none: by its cause, the tick, the core and the slot (log 16). -/
opaque trapDetail : Nat → List Nat → BitVec 8 × Word × Word

/-- An element that a seam command writes for a row on which its map says nothing, or reads from a row that its map names
outside its input: a map that no MATCH wrote (R126, R128, R129; log 24). The arguments are a counter, the row and the element. -/
opaque seamFree : Nat → Nat → Nat → Nat

/-- An F4X block or an L8 point of which a copy writes some elements only, from an element inside it on (R124, R214 state no
value; log 25). -/
opaque partialBlock : Nat → Nat → Nat

end Config
end Sys2Proof
end

