-- ==== Sys2Proof/Machine/Bits.lean ====
section
/-!
DEFINITION. Bit fields, sign extension, byte order and the packing of elements in lanes (R2, R58).
-/
namespace Sys2Proof.Machine

/-- Bits [lo + len - 1 : lo] as a number (R2). -/
def fld {n : Nat} (x : BitVec n) (lo len : Nat) : Nat := (x.toNat >>> lo) % 2 ^ len

/-- Bit i (R2). -/
def bit {n : Nat} (x : BitVec n) (i : Nat) : Bool := (x.toNat >>> i) % 2 = 1

/-- The word with bits [lo + len - 1 : lo] replaced. -/
def setFld {n : Nat} (x : BitVec n) (lo len v : Nat) : BitVec n :=
  BitVec.ofNat n (x.toNat - fld x lo len * 2 ^ lo + (v % 2 ^ len) * 2 ^ lo)

/-- A number read as two's complement of `w` bits. -/
def asInt (w v : Nat) : Int :=
  let v := v % 2 ^ w
  if v < 2 ^ (w - 1) then (v : Int) else (v : Int) - (2 ^ w : Nat)

/-- The low `w` bits of an integer. -/
def wrapInt (w : Nat) (i : Int) : Nat := (i % ((2 ^ w : Nat) : Int)).toNat

/-- The sign extension of a 32-bit immediate to 64 bits (R31). -/
def sext32 (v : BitVec 32) : Word := v.signExtend 64

/-- The zero extension of a 32-bit pattern to 64 bits. -/
def zext32 (v : BitVec 32) : Word := v.zeroExtend 64

/-- The low 32 bits of a scalar register. -/
def low32 (x : Word) : Lane := x.truncate 32

/-- One bit as a number. -/
def b2n (b : Bool) : Nat := if b then 1 else 0

/-- The number whose little-endian bytes are given (R2). -/
def leNat (bs : List Byte) : Nat := bs.foldr (fun b acc => acc * 256 + b.toNat) 0

/-- The first n little-endian bytes of a number (R2). -/
def leBytes (n v : Nat) : List Byte :=
  match n with
  | 0 => []
  | n + 1 => BitVec.ofNat 8 v :: leBytes n (v / 256)

/-- Lane l of a vector register (R58). -/
def lane (v : VReg) (l : Nat) : Lane := BitVec.ofNat 32 (v.toNat >>> (32 * l))

/-- Element i of width w bits of a vector register, in the order of R58. -/
def elem (w : Nat) (v : VReg) (i : Nat) : Nat := (v.toNat >>> (w * i)) % 2 ^ w

/-- `n` elements of width w packed contiguously from element 0 (R58). -/
def packNat (w n : Nat) (f : Nat → Nat) : Nat :=
  (List.range n).foldr (fun i acc => acc * 2 ^ w + f i % 2 ^ w) 0

/-- The vector register whose element i of width w is `f i`. -/
def mkElems (w : Nat) (f : Nat → Nat) : VReg := BitVec.ofNat 1024 (packNat w (1024 / w) f)

/-- The vector register whose lane l is `f l`. -/
def mkLanes (f : Nat → Lane) : VReg := mkElems 32 (fun l => (f l).toNat)

/-- The mask whose lane l is `f l`. -/
def mkMask (f : Nat → Bool) : Mask := BitVec.ofNat 32 (packNat 1 32 (fun l => b2n (f l)))

/-- The all-true mask, which p7 reads as (R11). -/
def allTrue : Mask := BitVec.allOnes 32

/-- The 1,024-bit mask that covers the lanes whose guard is true. -/
def laneBits (g : Mask) : VReg :=
  mkLanes (fun l => if bit g l then BitVec.allOnes 32 else 0)

/-- Lanes whose guard is true take the new value, the others keep the old (R28). -/
def mergeLanes (g : Mask) (old new : VReg) : VReg :=
  if g = allTrue then new else (old &&& ~~~ (laneBits g)) ||| (new &&& laneBits g)

/-- Lanes whose guard is true take the new truth value (R28, R91). -/
def mergeMask (g old new : Mask) : Mask := (old &&& ~~~ g) ||| (new &&& g)

/-- The number of set bits among the low n. -/
def popCount (n v : Nat) : Nat := (List.range n).foldl (fun acc i => acc + (v >>> i) % 2) 0

/-- The number of leading zeros of a w-bit value. -/
def leadZeros (w v : Nat) : Nat := if v % 2 ^ w = 0 then w else w - 1 - Nat.log2 (v % 2 ^ w)

/-- Ceiling division. -/
def ceilDiv (a b : Nat) : Nat := (a + b - 1) / b

end Sys2Proof.Machine
end

