-- ==== Sys2Proof/Machine/SMap.lean ====
section
/-!
DEFINITION. Sparse maps from Nat to plain data in one canonical form: keys strictly rising, and no entry equal to the
value an unlisted key reads as. Equal maps are equal lists.
-/
namespace Sys2Proof

/-- A sparse map: a list of (key, value) pairs. -/
abbrev SMap (β : Type) := List (Nat × β)

namespace Machine

variable {β : Type}

/-- The entry listed for a key. -/
def mapFind (m : SMap β) (k : Nat) : Option β :=
  match m with
  | [] => none
  | (k', v) :: rest => if k' = k then some v else mapFind rest k

/-- The value at a key; an unlisted key reads as `d`. -/
def mapGet (d : β) (m : SMap β) (k : Nat) : β := (mapFind m k).getD d

/-- The map with one key listed with a value. -/
def mapInsert (m : SMap β) (k : Nat) (v : β) : SMap β :=
  match m with
  | [] => [(k, v)]
  | (k', v') :: rest =>
    if k < k' then (k, v) :: (k', v') :: rest
    else if k = k' then (k, v) :: rest
    else (k', v') :: mapInsert rest k v

/-- The map with one key unlisted. -/
def mapErase (m : SMap β) (k : Nat) : SMap β :=
  match m with
  | [] => []
  | (k', v') :: rest => if k' = k then rest else (k', v') :: mapErase rest k

/-- Writes a value: writing what an unlisted key reads as removes the entry. -/
def mapPut [DecidableEq β] (d : β) (m : SMap β) (k : Nat) (v : β) : SMap β :=
  if v = d then mapErase m k else mapInsert m k v

/-- Every key is above `lo` and the keys rise strictly. -/
def mapSorted (lo : Nat) (m : SMap β) : Bool :=
  match m with
  | [] => true
  | (k, _) :: rest => decide (lo ≤ k) && mapSorted (k + 1) rest

/-- The canonical form of a map whose unlisted keys read as `d`. -/
def mapWf [DecidableEq β] (d : β) (m : SMap β) : Bool :=
  mapSorted 0 m && m.all (fun e => decide (e.2 ≠ d))

/-- The keys listed, rising. -/
def mapKeys (m : SMap β) : List Nat := m.map (·.1)

end Machine
end Sys2Proof
end

