-- ==== Sys2Proof/Machine/State.lean ====
section
/-!
DEFINITION. The state of the package: everything the spec gives the machine, as plain data. Field docstrings name the
rule of spec/ that gives the state. State.reset is the machine after step 6 of boot (R362; log 4, 8).
-/
namespace Sys2Proof.Machine

/-- Why the machine stops with a fault. -/
inductive Fault where
  /-- Raised by step alone: the module has powered off at 115 degrees (R363) and the turn is not a power-on. Safe: a
  module without power takes no step. -/
  | poweredOff
  deriving DecidableEq, Repr, Inhabited

/-- Why an instruction is refused. -/
inductive Refusal where
  /-- Raised by exec for an instruction that has no meaning yet, by its mnemonic. Safe. -/
  | notModelled (mnemonic : String)
  deriving DecidableEq, Repr, Inhabited

/-- An update record (R138); its key and key tag are the index under which a run holds it. -/
structure Rec where
  opr : Nat
  ty : Nat
  x : Bool
  mask : BitVec 32
  payload : Granule
  asid : Nat
  core : Nat
  slot : Nat
  team : Nat
  iov : Bool
  ioff : Nat
  seq : BitVec 32
  pkg : Nat
  /-- tick of its arrival in this run (R142) -/
  since : Nat
  /-- MRES.QUIET: folds once with X treated as clear (R324) -/
  quiet : Bool
  /-- taken by a merge in preparation (R143) -/
  frozen : Bool
  /-- left out of a publication by a live horizon (R143, R151) -/
  deferred : Bool
  /-- the cores of this package that posted records folded into it (R168), the model's own -/
  posters : List Nat
  /-- it holds an uncorrectable error (R326) -/
  bad : Bool
  deriving DecidableEq, Repr, Inhabited

/-- A floor copy of a line, 128 bytes, and the tick at which it expires; PINNED and RO copies never do (R147, R148). -/
structure FloorCopy where
  data : BitVec 1024
  expiry : Option Nat
  /-- its granules that hold an uncorrectable error (R326) -/
  bad : BitVec 4
  deriving DecidableEq, Repr, Inhabited

/-- The horizon of a line (R150). -/
structure Horizon where
  e : Nat
  nl : Bool
  sole : Nat
  multi : Bool
  deriving DecidableEq, Repr, Inhabited

/-- A merge-fault record (R322, R323); `key` is the run index of the stalled key, `lvl` and `inst` the source. -/
structure MergeFault where
  fid : BitVec 32
  u : Rec
  key : Nat
  dest : Granule
  lvl : Nat
  inst : Nat
  mc : Bool
  deriving DecidableEq, Repr, Inhabited

/-- A stalled run: its fault, and whether the record stands in the owner core's queue (R322). -/
structure Stall where
  fault : MergeFault
  queued : Bool
  deriving DecidableEq, Repr, Inhabited

/-- A level of the merge tree at one place: its run, floor copies and horizons (R142 to R150). Runs and copies are
indexed by granule or line number times 1024 plus the key tag, horizons by the line number. -/
structure Inst where
  run : SMap (List Rec)
  copies : SMap FloorCopy
  horizons : SMap Horizon
  stall : Option Stall
  /-- a merge is in preparation (R143) -/
  merging : Bool
  /-- the region pointer (R173) -/
  ptr : Nat
  /-- the arrival tick of the contest that the pointer decided last, the model's own -/
  ptrAt : Option Nat
  deriving DecidableEq, Repr, Inhabited

/-- An empty level place; its region pointer at reset is a DESIGN CHOICE (log 4). -/
def instReset : Inst := ⟨[], [], [], none, false, 0, none⟩

/-- A trap to be taken (R307, R313). -/
structure Trap where
  cause : Nat
  sub : Nat
  jv : Bool
  jent : Nat
  tval : Word
  tinfo : Word
  /-- inside an atomic region: the text offset of the faulting instruction, for %TBODY (R312) -/
  body : Option Nat
  deriving DecidableEq, Repr, Inhabited

/-- A translation of one page (R286 to R288, R293). -/
structure Xlat where
  asid : Nat
  /-- virtual base and size of the page -/
  va : Nat
  size : Nat
  frame : Nat
  tag : Nat
  lease : Nat
  /-- overlay frame of a layered page, with its layer type -/
  ovl : Option (Nat × Nat)
  sup : Bool
  /-- how often the key of its tag had been destroyed when it was filled (R304, R305), the model's own -/
  gen : Nat
  deriving DecidableEq, Repr, Inhabited

/-- Where a delayed load writes. -/
inductive Dest where
  | sreg (r : Nat)
  | vreg (phys : Nat)
  deriving DecidableEq, Repr, Inhabited

/-- A weak load whose destination is not yet written (R191). -/
structure OutLoad where
  entry : Bits512
  coords : Word
  vec : Bool
  dest : Dest
  guard : Mask
  long : Bool
  xl : List Xlat
  pc : Nat
  deriving DecidableEq, Repr, Inhabited

/-- A recorded instruction of a region body, with its layout entry as captured (R200). -/
structure RegOp where
  i : Instr
  pc : Nat
  entry : Option Bits512
  /-- its coordinates are checked when the body executes -/
  late : Bool
  deriving DecidableEq, Repr, Inhabited

/-- An open or shipped atomic region (R200, R201). -/
structure Region where
  arbPc : Nat
  /-- virtual address of the line -/
  line : Nat
  scope : Nat
  xl : Xlat
  ops : List RegOp
  deriving DecidableEq, Repr, Inhabited

/-- What a monitored wait waits for (R260). -/
inductive WaitKind where
  /-- WAIT: word offset, condition, operand -/
  | word (off cnd : Nat) (b : Word)
  /-- SLEEP: the tick at which it returns by itself -/
  | sleep (untilTick : Nat)
  /-- BARW: object offset, phase -/
  | phase (off b : Nat)
  /-- CPYW: channel, identifier -/
  | copies (ch ident : Nat)
  /-- HWBAR at a scope, the release done -/
  | barrier (scope : Nat)
  /-- LDSF on a local word, with its element as captured -/
  | full (word : Nat) (e : Bits512) (idx : List Int)
  /-- STSF on a local word -/
  | empty (word : Nat)
  /-- START waiting for a slot -/
  | startSlot (t : Nat)
  /-- JOIN waiting for room in a queue: cluster, priority -/
  | room (cl prio : Nat)
  /-- REPART waiting for quiescence -/
  | quiet
  deriving DecidableEq, Repr, Inhabited

/-- A wait in progress: the deadline fixed at issue, whether its condition has held, and the value an LDSF was served
(R204, R260, R261). -/
structure Wait where
  kind : WaitKind
  deadline : Nat
  met : Bool
  value : Nat
  deriving DecidableEq, Repr, Inhabited

/-- The replies an RLD, an RGATH or a remote LDSF or STSF waits for (R205, R206, R211, R366). -/
structure Reply where
  req : Nat
  left : Nat
  vals : SMap Nat
  /-- lowest refused lane, its cause and its home address -/
  refused : Option (Nat × Nat × Nat)
  deadline : Option Nat
  /-- home address of each lane's element, in the ADDR form -/
  addr : SMap Nat
  timedOut : Option Bool
  /-- the layout entry and the element as captured -/
  entry : Bits512
  idx : List Int
  deriving DecidableEq, Repr, Inhabited

/-- A span of scratchpad bytes, from the first to past the last. -/
abbrev Span := Nat × Nat

/-- The place of an engine command in the core's range-overlap scoreboard (R114, R220). -/
structure Board where
  ord : Nat
  reads : List Span
  writes : List Span
  deriving DecidableEq, Repr, Inhabited

/-- Why a slot stands at its instruction beyond what a new attempt finds out by itself. -/
inductive Hold where
  | none
  /-- it waits for what no hold of R310 names (a page walk, a clash of ranges): a trap is taken after it -/
  | busy
  /-- it has issued and is in a push that comes before it posts or performs anything (R310); of a strong store its scope, whether it is
  a release, and the records that it will insert -/
  | push (scope : Nat) (rel : Bool) (recs : List (Nat × Rec))
  | wait (w : Wait)
  /-- a store's records still to arrive at M0 (R141) -/
  | posting (recs : List (Nat × Rec))
  /-- a strong store that reached level(S) at a tick, to be performed (R166) -/
  | strong (scope since : Nat) (recs : List (Nat × Rec))
  /-- a shipped region, and the tick at which it reached its instance, at M0 the cycle (R172, R173, R201) -/
  | region (since : Nat)
  | reply (r : Reply)
  /-- an MSYNC that waits for the merge of its M0 that had started (R197) -/
  | sync
  /-- an access to several scratchpad words that has issued and is made word by word (R158): how many words are done, which are
  left, and the bytes that a load has read, or that a store writes -/
  | words (pos : Nat) (left : List Nat) (got : SMap Byte)
  /-- a JOIN that has come to its instance and waits there as a region does (R172, R173, R268): since when, the level, the key of the
  record, whether D is given, and the wait that it stood at before -/
  | joins (since lvl key : Nat) (d : Bool) (w : Option Wait)
  /-- a TEAMK that waits until strong operations of the teams it ended are performed: their cores, and the reason for which its own team
  is to end (R272) -/
  | kill (cores : List Nat) (own : Bool)
  /-- an ACCZ, ACCLD or ACCST that has issued and waits for the commands ahead of it on its tile (R113) -/
  | tile (t : Nat) (b : Board)
  /-- stopped at a BKPT under debug hold (R315) -/
  | stopped
  deriving DecidableEq, Repr, Inhabited

/-- A ring descriptor of a slot (R230): defined over the slot's own registers, or attached to the ring of the same number
that a context in another slot owns. -/
inductive Ring where
  | own (base size c p f : Nat)
  | att (owner ctx : Nat)
  deriving DecidableEq, Repr, Inhabited

/-- An entry of the loop stack (R86). -/
structure LoopEntry where
  start : Nat
  fin : Nat
  count : Word
  deriving DecidableEq, Repr, Inhabited

/-- What kind of context a slot holds (R248 to R250). -/
inductive CtxKind where
  | control
  | helper
  /-- a helper started by START, which is tied to its slot (R263, R266) -/
  | started
  /-- an active-message handler on the errand slot (R208) -/
  | errand
  deriving DecidableEq, Repr, Inhabited

/-- The sender of the active message a handler serves (R208, R209). -/
structure Sender where
  core : Nat
  pkg : Nat
  asid : Nat
  uid : Nat
  deriving DecidableEq, Repr, Inhabited

/-- A slot with its context (R11, R248, R250). -/
structure Slot where
  live : Bool
  kind : CtxKind
  /-- serial number of the context on its core, the model's own -/
  ctx : Nat
  pc : Nat
  /-- s0 to s31, R11 -/
  sregs : SMap Word
  /-- p0 to p6, R11 -/
  preds : SMap Mask
  /-- q0 to q7, R230 -/
  rings : SMap Ring
  /-- topmost first, at most four, R86 -/
  loops : List LoopEntry
  /-- %FPFLAGS, R69 -/
  fpflags : BitVec 7
  /-- %FPMODE: bits 4:0 the enables, bit 8 COMPAT, R68 -/
  fpmode : BitVec 9
  /-- %WAITLIM, R261 -/
  waitlim : BitVec 48
  /-- %MMRING, R112 -/
  mmring : BitVec 8
  /-- %SKS, R116 -/
  sks : Word
  /-- %SMRES, R229 -/
  smres : Word
  /-- %XLAST0 to 3, R218 -/
  xlast : SMap Word
  /-- wake token, R271 -/
  token : Bool
  /-- handler mode, and the cause being handled, R309, R311 -/
  handler : Bool
  hcause : Nat
  /-- %TCAUSE, %TPC, %TVAL, %TINFO, %TBODY, R312, R313 -/
  tcause : Word
  tpc : Word
  tval : Word
  tinfo : Word
  tbody : Word
  /-- %TSCR0 to 3, R312 -/
  tscr : SMap Word
  /-- the open region, R200 -/
  region : Option Region
  loads : List OutLoad
  hold : Hold
  /-- the layout entry and the translations with which an instruction that has issued and stands goes on (R202, R290) -/
  cap : Option (Bits512 × List Xlat)
  /-- scopes of FENCE.RELs that the slot has passed and whose release is not done yet (R168, R170) -/
  rels : List Nat
  /-- scalar registers that hold an uncorrectable error (R313) -/
  badRegs : List Nat
  /-- the result of a page walk that faulted: virtual address and trap, R288 -/
  walkFault : Option (Nat × Trap)
  /-- issue cycle from which the slot may be selected again, R30, R87, R253 -/
  readyAt : Nat
  /-- tick at which the context was loaded, R263 -/
  loadedAt : Nat
  sender : Option Sender
  /-- the record of a task, with the priority of the queue it was popped from (R258, R328) -/
  task : Option (Nat × BitVec 256)
  deriving DecidableEq, Repr, Inhabited

/-- A slot that holds no context. Registers before any launch: DESIGN CHOICE zero (log 4). -/
def slotReset : Slot :=
  { live := false, kind := .helper, ctx := 0, pc := 0, sregs := [], preds := [], rings := [], loops := [], fpflags := 0,
    fpmode := 0, waitlim := 0, mmring := 0, sks := 0, smres := 0, xlast := [], token := false, handler := false,
    hcause := 0, tcause := 0, tpc := 0, tval := 0, tinfo := 0, tbody := 0, tscr := [], region := none, loads := [],
    hold := .none, cap := none, rels := [], badRegs := [], walkFault := none, readyAt := 0, loadedAt := 0, sender := none, task := none }

/-- An operand of a matrix command: a captured layout entry, or buffered ring registers with their type (R112, R113). -/
inductive MatSrc where
  | layout (e : Bits512)
  | ring (ty : Nat) (regs : List VReg)
  deriving DecidableEq, Repr, Inhabited

/-- A matrix command in the queue (R113 to R121). -/
structure MatCmd where
  tile : Nat
  a : MatSrc
  b : MatSrc
  tfa : Bool
  tfb : Bool
  k : Nat
  /-- the skip list of MMAS, entries of R116 -/
  skips : List Nat
  compat : Bool
  asid : Nat
  /-- the team to which its failures belong, by its number on the core that performs it (R120) -/
  team : Nat
  /-- the issuing core, slot and context, and the instruction's text offset -/
  core : Nat
  slot : Nat
  ctx : Nat
  ioff : Nat
  progress : Nat
  running : Bool
  /-- lines of global memory read at the start of the command: key and 128 bytes (R114) -/
  lines : SMap (BitVec 1024)
  board : Board
  deriving DecidableEq, Repr, Inhabited

/-- An ACCST into local scratchpad that has issued while its slot has gone on (R70, R113, R351): its tile, its destination as captured, the
coordinates, and how it rounds. -/
structure AccCmd where
  tile : Nat
  e : Bits512
  w : Word
  rm : Nat
  sat : Bool
  flush : Bool
  /-- the team that issued it (R272): ASID and number -/
  asid : Nat
  team : Nat
  slot : Nat
  ctx : Nat
  ioff : Nat
  board : Board
  deriving DecidableEq, Repr, Inhabited

/-- A seam command (R125); `op` is 0 MATCH, 1 APPLY, 2 UNSEAM. `entries` are the map and then what it reads and writes, as
captured; `dk` is the number of features or the row width. -/
structure SeamCmd where
  op : Nat
  keep0 : Bool
  entries : List Bits512
  n : Nat
  dk : Nat
  r : Nat
  gen : BitVec 32
  compat : Bool
  /-- the team that issued it (R130): ASID and number -/
  asid : Nat
  team : Nat
  slot : Nat
  ctx : Nat
  ioff : Nat
  /-- its map has been marked invalid: MAGIC is cleared as a MATCH begins (R127, R131) -/
  begun : Bool
  board : Board
  deriving DecidableEq, Repr, Inhabited

/-- An SMRG command (R228); `waiting` while its mangle has a merge pending (R17). -/
structure SmrgCmd where
  mode : Nat
  d : Bits512
  a : Bits512
  b : Bits512
  /-- the team that issued it (R272): ASID and number -/
  asid : Nat
  team : Nat
  slot : Nat
  ctx : Nat
  ioff : Nat
  waiting : Bool
  board : Board
  deriving DecidableEq, Repr, Inhabited

/-- A copy in progress (R212 to R221). -/
structure Copy where
  ident : Nat
  ch : Nat
  slot : Nat
  ctx : Nat
  asid : Nat
  /-- number of the team that issued it (R217) -/
  team : Nat
  ioff : Nat
  d : Bits512
  src : Bits512
  od : Word
  os : Word
  off : Nat
  home : Nat
  ben : Bool
  narr : Bool
  scale : BitVec 32
  xf : Nat
  acq : Bool
  rel : Bool
  sc : Nat
  sequenced : Bool
  bytes : Nat
  /-- byte addition: 0 not asked or not answered, 1 accepted, 2 refused (R223) -/
  added : Nat
  board : Board
  /-- serial number of its messages to another package -/
  uid : Nat
  /-- what other packages have answered: source elements at twice their place in box order, scales of destination points
  at the odd numbers -/
  vals : SMap Nat
  /-- answers from another package still to come: reads, then acknowledgements of writes -/
  left : Nat
  /-- another package has refused a part, or a home was never ready (R217, R297) -/
  refused : Bool
  /-- the ticks at which a home was found not ready, first and last (R297) -/
  first : Option Nat
  last : Nat
  /-- the push of ACQ has been made (R174) -/
  begun : Bool
  /-- units of its box that have been performed (R213) -/
  pos : Nat
  /-- records of performed units that are still to be posted -/
  todo : List (Nat × Rec)
  /-- the failure of its performed part (R217) -/
  fail : Option Trap
  fl : BitVec 7
  deriving DecidableEq, Repr, Inhabited

/-- A message in flight or kept by its sender: `first` is its first not-ready arrival, `last` the latest (R297). -/
structure Msg where
  src : Nat
  dst : Nat
  asid : Nat
  body : MsgBody
  first : Option Nat
  last : Nat
  deriving DecidableEq, Repr, Inhabited

/-- A piece of a store within one granule: virtual address of the granule, bytes covered, bytes. -/
structure Piece where
  va : Nat
  mask : BitVec 32
  payload : Granule
  deriving DecidableEq, Repr, Inhabited

/-- What a journal entry holds internally (R317). -/
inductive JBody where
  | store (pieces : List Piece) (opr ty : Nat) (x : Bool)
  | msg (dst : Nat) (pkg : Nat) (body : MsgBody)
  deriving DecidableEq, Repr, Inhabited

/-- A posted-store journal entry that is not free (R317). -/
structure JEntry where
  kind : Nat
  status : Nat
  cause : Nat
  addr : Nat
  asid : Nat
  team : Nat
  slot : Nat
  seq : BitVec 32
  /-- the full instruction offset (R319) -/
  ioff : Nat
  /-- the 32-bit code delivered in %TVAL for causes 0x3E and 0x3F -/
  code : Word
  ctx : Nat
  uid : Nat
  body : JBody
  deriving DecidableEq, Repr, Inhabited

/-- A waiter on the full/empty tag of a word at its home (R162, R204, R205): a local slot and its context, or a remote core
and its request. -/
structure Waiter where
  take : Bool
  off : Nat
  size : Nat
  /-- where the scale of an L8 element lies (R188) -/
  scale : Option Nat
  val : Word
  deadline : Nat
  slot : Option Nat
  ctx : Nat
  pkg : Nat
  src : Nat
  asid : Nat
  req : Nat
  uid : Nat
  /-- moved to the wait area (R262), and evaluated there last at this tick (R263) -/
  moved : Bool
  seen : Nat
  deriving DecidableEq, Repr, Inhabited

/-- A context moved out to the wait area (R262, R263): its slot state, its vector registers, its slot, the tick since
which its wait has ended, the tick of its last evaluation, and the key under which its image is written (R293, R304). -/
structure Moved where
  sl : Slot
  vregs : List VReg
  slotNo : Nat
  ready : Option Nat
  seen : Nat
  asid : Nat
  gen : Nat
  deriving DecidableEq, Repr, Inhabited

/-- The team of a core (R43, R249, R283). -/
structure Team where
  no : Nat
  asid : Nat
  img : Nat
  slots : Nat
  gtag : Word
  done : Nat
  den : Bool
  dvec : Nat
  /-- the control context has started (R42, R297) -/
  started : Bool
  /-- SUP and CAPS of the ASID's entry at the launch (R283, R284) -/
  sup : Bool
  caps : BitVec 32
  waitlim : BitVec 48
  deriving DecidableEq, Repr, Inhabited

/-- A record selected for a slot, not yet bound (R257, R258). -/
structure Selected where
  task : BitVec 256
  slot : Nat
  prio : Nat
  since : Nat
  deriving DecidableEq, Repr, Inhabited

/-- An accepted message for the errand slot whose handler has not started (R159, R206, R208): an active message with the entry of
its handler, or a remote load or store for a built-in one. -/
structure Errand where
  sender : Sender
  entry : Nat
  body : MsgBody
  /-- the words of its access that are done, and what was read of them (R158) -/
  pos : Nat
  got : SMap Byte
  deriving DecidableEq, Repr, Inhabited

/-- The state of a core that a gang switch saves and restores (R275, R276). -/
structure Part where
  /-- partition mode: 0 P16, 1 P8, 2 P4 (R248) -/
  mode : Nat
  slots : SMap Slot
  /-- vector register file, 512 registers (R11) -/
  vregs : SMap VReg
  /-- scratchpad bytes, 128 KiB (R11) -/
  scr : SMap Byte
  /-- full/empty tags of the 8-byte words; true is full (R162) -/
  tags : SMap Bool
  /-- accumulators: tile * 1024 + row * 32 + column (R11, R72) -/
  acc : SMap Lane
  /-- tile flag words (R72) -/
  tileFlags : SMap (BitVec 7)
  /-- valid layout entries: asid * 64 + number (R134, R202) -/
  layouts : SMap Bits512
  team : Option Team
  /-- the team that has ended while one context of it is still there: a handler on the errand slot (R208, R249, R250), or one at its
  TEAMK (R272) -/
  past : Option Team
  matq : List MatCmd
  /-- ACCST instructions that have issued and are not complete, oldest first (R70, R113) -/
  accq : List AccCmd
  seamq : List SeamCmd
  smrgq : List SmrgCmd
  copies : List Copy
  /-- next identifier of each channel less one (R218) -/
  issued : SMap Nat
  /-- journal entries that are not free (R317) -/
  journal : SMap JEntry
  /-- incoming mesh FIFO of each channel, oldest first (R232) -/
  mesh : SMap (List VReg)
  waiters : List Waiter
  moved : List Moved
  /-- pending asynchronous traps, oldest first (R310) -/
  pend : List Trap
  errands : List Errand
  /-- %TVEC (R308) -/
  tvec : Word
  /-- serial numbers: contexts, journal entries and requests, engine commands -/
  nextCtx : Nat
  nextUid : Nat
  nextOrd : Nat
  /-- scratchpad words and accumulator tiles that hold an uncorrectable error (R326) -/
  badWords : List Nat
  badTiles : List Nat
  /-- vector registers that hold one (R313) -/
  badVregs : List Nat
  /-- wait monitors held when they were last looked at, the model's own (R263): of a slot by 0, its number, and its context; of a remote
  wait by 1, its core, and its request -/
  monitors : List (Nat × Nat × Nat)
  deriving DecidableEq, Repr, Inhabited

def partReset : Part :=
  { mode := 0, slots := [], vregs := [], scr := [], tags := [], acc := [], tileFlags := [], layouts := [], team := none, past := none,
    matq := [], accq := [], seamq := [], smrgq := [], copies := [], issued := [], journal := [], mesh := [], waiters := [],
    moved := [], pend := [], errands := [], tvec := 0, nextCtx := 0, nextUid := 0, nextOrd := 0,
    badWords := [], badTiles := [], badVregs := [], monitors := [] }

/-- A logical core (R9, R11). -/
structure Core where
  part : Part
  /-- team number of the next team (R335) -/
  nextTeam : Nat
  /-- ASID of the core's previous team (R298) -/
  prevAsid : Option Nat
  /-- posting sequence number (R138), number of the next packet with SEQ (R210) -/
  postSeq : BitVec 32
  redSeq : BitVec 32
  /-- SEQ windows per source core: H and bitmap (R160) -/
  windows : SMap (BitVec 32 × BitVec 64)
  /-- merge-fault records, oldest first, at most 16 (R322) -/
  mfq : List MergeFault
  tlb : List Xlat
  /-- the slot that issued last, and the cycle (R253, R254) -/
  last : Nat
  cycle : Nat
  /-- %MCAP R118, %SCAP R296, %RUNQ R264, %GSWTIME and %GSWCTL R274 -/
  mcap : Word
  scap : Word
  runq : Word
  gswtime : Word
  gswctl : Word
  /-- selection stopped by a gang switch (R275) -/
  switching : Bool
  /-- the tick at which it stopped -/
  switchTick : Nat
  /-- fenced, and at which tick (R328); the darn pass has been made over it (R329) -/
  fenced : Option Nat
  darned : Bool
  /-- tick of the last issue or acceptance (R328) -/
  alive : Nat
  /-- the tick since which a slot has been ready, or a message has waited, without an issue or an acceptance (R328) -/
  due : Option Nat
  /-- RPLCTL, RPLCAP, RPLCNT, DBG.HOLD (R334, R355) -/
  rplctl : Word
  rplcap : Nat
  rplcnt : Nat
  dbgHold : Bool
  /-- DBG.HELD: selection has stopped (R355) -/
  dbgHeld : Bool
  /-- the slot an ask for work stands for, or the record selected for it (R257) -/
  ask : Option Nat
  sel : Option Selected
  deriving DecidableEq, Repr, Inhabited

def coreReset : Core :=
  { part := partReset, nextTeam := 0, prevAsid := none, postSeq := 0, redSeq := 0, windows := [], mfq := [], tlb := [],
    last := 0, cycle := 0, mcap := 0, scap := 0, runq := 0, gswtime := 0, gswctl := 0, switching := false,
    switchTick := 0, fenced := none, darned := false, alive := 0, due := none, rplctl := 0,
    rplcap := 0, rplcnt := 0, dbgHold := false, dbgHeld := false, ask := none, sel := none }

/-- A record in a distributor queue (R256), with the tick since which it waits at its priority (R257). -/
structure QRec where
  task : BitVec 256
  since : Nat
  deriving DecidableEq, Repr, Inhabited

/-- A page walk in progress (R289, R290). `entry` is a journal entry's serial number, or none for a slot. -/
structure Walk where
  core : Nat
  slot : Nat
  asid : Nat
  va : Nat
  write : Bool
  uid : Option Nat
  deriving DecidableEq, Repr, Inhabited

/-- A cluster: its distributor, core table and walkers (R8, R9, R256, R289, R359). -/
structure Cluster where
  /-- queue of each priority, oldest first; the records past the first 128 stand in the overflow area (R256) -/
  queues : SMap (List QRec)
  ovfbase : SMap Word
  ovfcap : SMap Nat
  /-- the core after the one whose ask was served last (R257) -/
  rot : Nat
  /-- LQSTAT: ACC, REF, WHY (R359) -/
  acc : BitVec 32
  ref : BitVec 24
  why : Nat
  /-- the record that the management port enqueued last at an LQPORT, where no host write came after it: priority, tick, and how many launch
  records of that tick the queue then held (R359), the model's own -/
  lqTie : Option (Nat × Nat × Nat)
  /-- logical to physical core, where the table is not the identity (R9) -/
  table : SMap Nat
  spares : Nat
  walks : List Walk
  /-- ASID-table entries cached by the walkers (R289) -/
  asids : SMap (BitVec 256)
  deriving DecidableEq, Repr, Inhabited

/-- A cluster at reset; the core table and the eight spares are a DESIGN CHOICE (log 4). -/
def clusterReset : Cluster :=
  { queues := [], ovfbase := [], ovfcap := [], rot := 0, acc := 0, ref := 0, why := 0, lqTie := none, table := [], spares := 8,
    walks := [], asids := [] }

/-- An accepted kernel image (R39, R41). -/
structure Image where
  asid : Nat
  va : Nat
  text : List Byte
  entry : Nat
  mode : Nat
  slots : Nat
  waitlim : BitVec 48
  params : BitVec 32
  caps : BitVec 32
  layouts : List Bits512
  /-- the bound constant windows and their bytes (R32) -/
  windows : SMap (List Byte)
  deriving DecidableEq, Repr, Inhabited

/-- A launch group (R43, R225): its members, none while no team of it is registered; the cores on which a team of it has ended,
and those whose launch was abandoned. -/
structure Group where
  asid : Nat
  gtag : Word
  members : List Nat
  ended : List Nat
  abandoned : List Nat
  deriving DecidableEq, Repr, Inhabited

/-- A POD barrier of a launch group on this package (R226): its group (the core itself where GTAG is 0), whether this package
has arrived, with the place it held in its pod group then; the round it stands in, and the rounds whose message has come. -/
structure PodEpisode where
  asid : Nat
  gtag : Word
  lead : Nat
  arrived : Bool
  gid : Nat
  size : Nat
  rank : Nat
  round : Nat
  got : List Nat
  deriving DecidableEq, Repr, Inhabited

/-- A gang-switch image in device memory, with the key it is encrypted under (R275, R304). -/
structure Saved where
  core : Nat
  part : Part
  asid : Nat
  gen : Nat
  tick : Nat
  deriving DecidableEq, Repr, Inhabited

/-- A region of another package that has come to its M3 home and waits there (R172, R173): the package, the tick of its arrival, and the
core, slot and team that own its records, its first posting number, and the region with its registers. -/
structure FarRegion where
  pkg : Nat
  src : Nat
  slot : Nat
  team : Nat
  seq : BitVec 32
  since : Nat
  sl : Slot
  deriving DecidableEq, Repr, Inhabited

/-- The report of a darn pass (R329): the logical core, the records recovered, the keys of those discarded, and the images of the
journal entries that are unknown. -/
structure DarnReport where
  core : Nat
  recovered : Nat
  discarded : List Nat
  unknown : List (BitVec 128)
  deriving DecidableEq, Repr, Inhabited

/-- The package registers (R355) that have no other home, and the MSI-X table (R354). -/
structure Regs where
  /-- PKGNUM (R19); PODGRP (R360); WINCTL (R356); FENCEINT (R328); ASIDTAB (R284) -/
  pkgnum : Nat
  podgrp : Word
  winctl : Word
  fenceint : Nat
  asidtab : Word
  /-- fault queue (R314) and event log (R332) -/
  fqbase : Word
  fqhead : Nat
  fqtail : Nat
  fqovf : BitVec 32
  elbase : Word
  elhead : Nat
  eltail : Nat
  elovf : BitVec 32
  /-- CRGN0 to 15: 2n LO, 2n + 1 HI (R154) -/
  crgn : SMap Word
  /-- LNUSER (R234), EOLH of each die (R333), FTERM of %GBAND (R149) -/
  lnuser : Nat
  eolh : SMap Word
  fterm : Nat
  /-- CPSEM: 0 free, 1 host, 2 management; the winner of the last tie (R299) -/
  cpsem : Nat
  tieWinner : Nat
  /-- MSI-X: table entries, pending bits, vectors whose data is performed and which are to be raised, messages sent -/
  msix : SMap (BitVec 128)
  pba : Word
  due : List Nat
  sent : List Nat
  deriving DecidableEq, Repr, Inhabited

/-- An entry of the MSI-X table at reset: masked (R354; PRESUMED, log 4). -/
def msixEntryReset : BitVec 128 := BitVec.ofNat 128 (2 ^ 96)

/-- The registers at reset (R355, R360, R356, R154, R299); FQ and EL registers, PKGNUM and MSI-X: log 4. -/
def regsReset : Regs :=
  { pkgnum := 0, podgrp := 1024, winctl := BitVec.ofNat 64 (2 * 2 ^ 61), fenceint := 10000000, asidtab := 0, fqbase := 0,
    fqhead := 0, fqtail := 0, fqovf := 0, elbase := 0, elhead := 0, eltail := 0, elovf := 0, crgn := [], lnuser := 15,
    eolh := [], fterm := 0, cpsem := 0, tieWinner := 1, msix := [], pba := 0, due := [], sent := [] }

/-- A write of the hardware's or a port's own to device memory at M3 that waits to be performed (R314, R332, R358, R43):
the vector it announces, and whether FQHEAD (1) or ELHEAD (2) advances with it. -/
structure PortWrite where
  key : Nat
  u : Rec
  vec : Option Nat
  adv : Nat
  deriving DecidableEq, Repr, Inhabited

/-- The compute dies with their memory, network and registers. -/
structure Pkg where
  cores : SMap Core
  /-- level places M0 to M3: level * 4096 + number (R12, R13) -/
  insts : SMap Inst
  /-- device memory, M4 (R12, R357); an unlisted byte reads 0 (DESIGN CHOICE, log 5) -/
  dram : List Host.Cell
  /-- the seal of each granule of device memory: 0 where it stands in clear, else one more than the key, K1 * 2^256 + K2, that
  its ciphertext is under (R294, R295); `dram` holds it decrypted -/
  seals : SMap Nat
  /-- granules that hold an uncorrectable error (R326) -/
  badGran : List Nat
  clusters : SMap Cluster
  /-- messages in flight, in order per source and destination (R157) -/
  net : List Msg
  /-- messages kept by their senders for a home that was not ready (R297) -/
  parked : List Msg
  /-- messages for other packages of the pod, newest last (R15) -/
  outbox : List (Nat × Nat × MsgBody)
  /-- Roneel ports that are down (R361) -/
  portsDown : List Nat
  /-- regions of other packages that wait at their M3 homes (R173) -/
  farRegions : List FarRegion
  /-- packages no port reaches (R361) -/
  unreachable : List Nat
  /-- the key slots that are full: K1 * 2^256 + K2 (R294, R303) -/
  keys : SMap (BitVec 512)
  /-- how often each key slot was destroyed (R304), the model's own -/
  keyGen : SMap Nat
  pkgKey : Bool
  images : SMap Image
  groups : List Group
  pod : List PodEpisode
  saves : SMap Saved
  /-- resumes of an image whose key was destroyed, as the Ombex complex records them (R304): core, area; newest last -/
  lostResumes : List (Nat × Nat)
  /-- oldest first -/
  portWrites : List PortWrite
  /-- strong stores and shipped regions of contexts that have ended, still to be performed (R272): core, slot, context -/
  orphans : List (Nat × Nat × Slot)
  regs : Regs
  /-- next merge-fault identifier (R322, R335) -/
  nextFid : BitVec 32
  /-- sequence number of each event source (R332) -/
  evSeq : SMap (BitVec 32)
  /-- answers the ports have been given, newest last: offset or BAR2 address, and the value, or none for an abort (R358) -/
  portOut : List (Nat × Option Nat)
  /-- reports of darn passes (R329), newest last -/
  darns : List DarnReport
  /-- reports of the loader: LDR code and detail (R41) -/
  loader : List (Nat × Nat)
  /-- arrays in retention mode, by the level place that they store: level * 4096 + number (R331; log 42) -/
  retained : List Nat
  /-- counter for the free values (log 12 to 15) -/
  freeNo : Nat
  deriving DecidableEq, Repr, Inhabited

def pkgReset : Pkg :=
  { cores := [], insts := [], dram := [], seals := [], badGran := [], clusters := [], net := [], parked := [],
    outbox := [], portsDown := [], farRegions := [], unreachable := [], keys := [], keyGen := [], pkgKey := true, images := [], groups := [], pod := [],
    saves := [], lostResumes := [], portWrites := [], orphans := [], regs := regsReset, nextFid := 1, evSeq := [],
    portOut := [], darns := [], loader := [], retained := [], freeNo := 0 }

/-- A bundle of an anole link (R18, R233, R234, R365). -/
structure Bundle where
  fwd : Bool
  lastTurn : Option Nat
  /-- in dead time until this tick -/
  dead : Option Nat
  /-- out of service for recalibration since this tick -/
  recal : Option Nat
  deriving DecidableEq, Repr, Inhabited

/-- A command in a link's turn queue (R234). -/
structure LinkCmd where
  t : Nat
  auto : Bool
  deriving DecidableEq, Repr, Inhabited

/-- An anole link (R233 to R237). -/
structure Link where
  bundles : List Bundle
  queue : List LinkCmd
  demand : Bool
  target : Nat
  short : Nat
  turns : BitVec 16
  refused : Bool
  /-- tick of the last demand check (R235) -/
  checked : Nat
  deriving DecidableEq, Repr, Inhabited

/-- A link at reset: bundles 0 to 7 forward, 8 to 15 reverse, DEMAND set (R233, R237). -/
def linkReset : Link :=
  { bundles := List.replicate 8 ⟨true, none, none, none⟩ ++ List.replicate 8 ⟨false, none, none, none⟩, queue := [],
    demand := true, target := 0, short := 0, turns := 0, refused := false, checked := 0 }

/-- What the Ombex complex and the module hold (R6, R19, R20, R361 to R365). -/
structure Site where
  /-- the compute dies are released (R362) -/
  booted : Bool
  /-- the module has power (R363) -/
  powered : Bool
  /-- arithmetic clock of each die, MHz (R20) -/
  mhz : List Nat
  /-- the tick at which a frequency change of each die began, if one is under way (R20, R363) -/
  changing : List (Option Nat)
  /-- tick of the last throttle step of each die (R363) -/
  throttled : List (Option Nat)
  links : List Link
  /-- active firmware slot: true B; and whether each slot holds a signed image (R362, R364) -/
  slotB : Bool
  signedA : Bool
  signedB : Bool
  /-- the management store: shutdowns logged (R363); boots that held at step 3, reported through the management port (R362) -/
  shutdowns : List Nat
  bootFailures : Nat
  /-- the host's configuration requests, newest last: whether each was answered, or got Configuration Request Retry Status (R362) -/
  configs : List Bool
  /-- rows spared: device, row (R365) -/
  spared : List (Nat × Nat)
  deriving DecidableEq, Repr, Inhabited

def siteReset : Site :=
  { booted := true, powered := true, mhz := [2000, 2000, 2000, 2000], changing := [none, none, none, none],
    throttled := [none, none, none, none], links := [linkReset, linkReset, linkReset, linkReset],
    slotB := false, signedA := true, signedB := false, shutdowns := [], bootFailures := 0, configs := [], spared := [] }

/-- The whole machine. -/
structure State where
  /-- the global time counter (R21) -/
  time : Nat
  pkg : Pkg
  site : Site
  /-- the model's own: the turns to be taken next, and the number of the next free one (log 1) -/
  inputs : List Turn
  turnNo : Nat
  /-- the model's own: the choices of the step in progress, and the core and slot that issue in it -/
  turn : Turn
  core : Nat
  slot : Nat
  deriving DecidableEq, Repr, Inhabited

/-- The machine right after step 6 of boot (R362): every core without a team, every level empty (log 4, 8). -/
def State.reset : State :=
  { time := 0, pkg := pkgReset, site := siteReset, inputs := [], turnNo := 0,
    turn := ⟨0, 0, false, 0, 0, [], [], .issue 0⟩, core := 0, slot := 0 }

end Sys2Proof.Machine
end

