-- ==== Sys2Proof/Machine/Access.lean ====
section
/-!
DEFINITION. Access to the parts of the state: cores, level places, clusters, slots, registers. The one way to read or
write a register (p7 reads all-true and ignores writes, R11).
-/
namespace Sys2Proof.Machine

/-- What an instruction or event knows of its step: the tick, the free choices, the core and the slot. -/
structure Cx where
  now : Nat
  later : Bool
  install : BitVec 4
  core : Nat
  slot : Nat
  deriving DecidableEq, Repr, Inhabited

def coreOf (p : Pkg) (c : Nat) : Core := mapGet coreReset p.cores c
def setCore (p : Pkg) (c : Nat) (k : Core) : Pkg := { p with cores := mapPut coreReset p.cores c k }
def updCore (p : Pkg) (c : Nat) (f : Core → Core) : Pkg := setCore p c (f (coreOf p c))
def partOf (p : Pkg) (c : Nat) : Part := (coreOf p c).part
def setPart (p : Pkg) (c : Nat) (k : Part) : Pkg := updCore p c (fun x => { x with part := k })
def updPart (p : Pkg) (c : Nat) (f : Part → Part) : Pkg := setPart p c (f (partOf p c))

def instOf (p : Pkg) (lvl n : Nat) : Inst := mapGet instReset p.insts (lvl * 4096 + n)
def setInst (p : Pkg) (lvl n : Nat) (i : Inst) : Pkg := { p with insts := mapPut instReset p.insts (lvl * 4096 + n) i }

def clusterOf (p : Pkg) (c : Nat) : Cluster := mapGet clusterReset p.clusters c
def setCluster (p : Pkg) (c : Nat) (k : Cluster) : Pkg := { p with clusters := mapPut clusterReset p.clusters c k }

/-- Slots of a partition mode (R248). -/
def slotCount (mode : Nat) : Nat :=
  match mode with
  | 0 => 16
  | 1 => 8
  | _ => 4

/-- Vector registers of a slot in a partition mode (R248). -/
def regCount (mode : Nat) : Nat := 512 / slotCount mode

/-- The errand slot, the highest (R248). -/
def errandSlot (mode : Nat) : Nat := slotCount mode - 1

def slotOf (k : Part) (n : Nat) : Slot := mapGet slotReset k.slots n
def setSlot (k : Part) (n : Nat) (s : Slot) : Part := { k with slots := mapPut slotReset k.slots n s }
def updSlot (k : Part) (n : Nat) (f : Slot → Slot) : Part := setSlot k n (f (slotOf k n))

/-- A scalar register of a slot (R11). -/
def sregOf (s : Slot) (r : Nat) : Word := mapGet 0 s.sregs r
/-- Writes a scalar register: an error in it is gone (R327). -/
def setSreg (s : Slot) (r : Nat) (v : Word) : Slot :=
  { s with sregs := mapPut 0 s.sregs r v, badRegs := s.badRegs.filter (fun x => decide (x ≠ r)) }

/-- A predicate: p7 reads as all-true (R11). -/
def predOf (s : Slot) (r : Nat) : Mask := if r = 7 then allTrue else mapGet 0 s.preds r
/-- Writes a predicate; a write to p7 is ignored (R11). -/
def setPred (s : Slot) (r : Nat) (v : Mask) : Slot := if r = 7 then s else { s with preds := mapPut 0 s.preds r v }

/-- A physical vector register (R11, R248). -/
def vregAt (k : Part) (phys : Nat) : VReg := mapGet 0 k.vregs phys
/-- Writes a vector register: an error in it is gone (R327). -/
def setVregAt (k : Part) (phys : Nat) (v : VReg) : Part :=
  { k with vregs := mapPut 0 k.vregs phys v, badVregs := k.badVregs.filter (fun x => decide (x ≠ phys)) }

/-- The physical register of vN of a slot (R248). -/
def physReg (k : Part) (slot r : Nat) : Nat := slot * regCount k.mode + r

/-- The slots that hold a context. -/
def liveSlots (k : Part) : List Nat := (mapKeys k.slots).filter (fun n => (slotOf k n).live)

def scrByte (k : Part) (a : Nat) : Byte := mapGet 0 k.scr a
def scrBytes (k : Part) (a n : Nat) : List Byte := (List.range n).map (fun i => scrByte k (a + i))
/-- n bytes of scratchpad, little-endian (R2). -/
def scrNat (k : Part) (a n : Nat) : Nat := leNat (scrBytes k a n)

def tagOf (k : Part) (w : Nat) : Bool := mapGet false k.tags w
def setTag (k : Part) (w : Nat) (v : Bool) : Part := { k with tags := mapPut false k.tags w v }

def accOf (k : Part) (tile i j : Nat) : Lane := mapGet 0 k.acc (tile * 1024 + i * 32 + j)
def tileFlagsOf (k : Part) (t : Nat) : BitVec 7 := mapGet 0 k.tileFlags t

/-- The layout entry n of an ASID, where it is valid (R134, R202). -/
def layoutOf (k : Part) (asid n : Nat) : Option Bits512 := mapFind k.layouts (asid * 64 + n)

/-- The image a team runs (R42). -/
def imageOf (p : Pkg) (t : Team) : Option Image := mapFind p.images t.img

/-- The team of a core's contexts: its team, or the one that has ended while a context of it is still there (R208, R249, R250, R272). -/
def teamOf (k : Part) : Option Team :=
  match k.team with
  | some t => some t
  | none => k.past

/-- TEXTSIZE of the team's image; a core without a team has no text. -/
def textSizeOf (p : Pkg) (c : Nat) : Nat :=
  match teamOf (partOf p c) with
  | some t => (match imageOf p t with
    | some im => im.text.length
    | none => 0)
  | none => 0

/-- The 12 bytes of the word at a text offset (R25). -/
def textWord (p : Pkg) (c pc : Nat) : List Byte :=
  match teamOf (partOf p c) with
  | some t => (match imageOf p t with
    | some im => (im.text.drop pc).take 12
    | none => [])
  | none => []

/-- Supervisor mode of the contexts of a core's team (R283). -/
def supOf (k : Part) : Bool :=
  match teamOf k with
  | some t => t.sup
  | none => false

def asidOf (k : Part) : Nat :=
  match teamOf k with
  | some t => t.asid
  | none => 0

/-- The number of the team of a core (R249). -/
def teamNoOf (k : Part) : Nat :=
  match teamOf k with
  | some t => t.no
  | none => 0

/-- The block, the cluster and the die of a core (R9). -/
def blockOf (c : Nat) : Nat := c / 16
def clusterNo (c : Nat) : Nat := c / 256
def dieOf (c : Nat) : Nat := c / 1024

/-- The column and row of a die in the package, and the die at a place (R6). -/
def dieX (d : Nat) : Nat := d % 2
def dieY (d : Nat) : Nat := d / 2
def dieAt (x y : Nat) : Nat := 2 * y + x

/-- The dies that a link joins, forward from the first to the second (R6, R233). -/
def linkEnds (l : Nat) : Nat × Nat :=
  match l with
  | 0 => (0, 1)
  | 1 => (1, 3)
  | 2 => (3, 2)
  | _ => (2, 0)

/-- The dies that traffic passes, the first and the last among them: along its row first, then along its column (R7). -/
def diePath (a b : Nat) : List Nat :=
  if a = b then [a]
  else if dieX a = dieX b ∨ dieY a = dieY b then [a, b]
  else [a, dieAt (dieX b) (dieY a), b]

/-- The link between two neighbouring dies, and whether it is crossed forward (R6). -/
def linkBetween (a b : Nat) : Option (Nat × Bool) :=
  match (List.range 4).find? (fun l => linkEnds l = (a, b)) with
  | some l => some (l, true)
  | none => ((List.range 4).find? (fun l => linkEnds l = (b, a))).map (fun l => (l, false))

/-- The links that traffic between two dies crosses, in order (R7). -/
def linksCrossed (a b : Nat) : List (Nat × Bool) :=
  let path := diePath a b
  (path.zip (path.drop 1)).filterMap (fun e => linkBetween e.1 e.2)

/-- Physical cores of a cluster, memory interfaces of a die, devices of the module (R8). -/
def physicalCores : Nat := 264
def interfacesOfDie : Nat := 12
def deviceCount : Nat := 2 * 4 * interfacesOfDie

/-- The physical core of a logical core (R9). -/
def physicalOf (p : Pkg) (c : Nat) : Nat := mapGet (c % 256) (clusterOf p (clusterNo c)).table c

/-- The next physical core that stands free: the spares are used in rising order (R8, R9; log 4). -/
def nextSpare (cl : Cluster) : Nat := physicalCores - cl.spares

/-- The column and row of a core in its cluster's mesh (R10). -/
def meshX (c : Nat) : Nat := 4 * (c / 16 % 4) + c % 4
def meshY (c : Nat) : Nat := 4 * (c / 64 % 4) + c / 4 % 4

/-- The core at a mesh place of the same cluster (R10). -/
def meshCore (c x y : Nat) : Nat :=
  c / 256 * 256 + y / 4 * 64 + x / 4 * 16 + y % 4 * 4 + x % 4

/-- The neighbour a mesh channel leads to; none where it is unconnected (R10). -/
def meshNeighbour (c ch : Nat) : Option Nat :=
  let x := meshX c
  let y := meshY c
  match ch with
  | 0 => if x < 15 then some (meshCore c (x + 1) y) else none
  | 1 => if y < 15 then some (meshCore c x (y + 1)) else none
  | 2 => if 0 < x then some (meshCore c (x - 1) y) else none
  | _ => if 0 < y then some (meshCore c x (y - 1)) else none

/-- The channel on which a neighbour receives what this core sends on `ch`. -/
def meshOpposite (ch : Nat) : Nat := (ch + 2) % 4

end Sys2Proof.Machine
end

