-- ==== Sys2Proof/Machine/Aes.lean ====
section
/-!
DEFINITION. The encryption of device memory: AES-256 in XTS mode over a data unit of one granule (R294), as IEEE 1619 and FIPS 197
define them. A block is a list of 16 bytes, byte i in row i mod 4 and column i / 4.
-/
namespace Sys2Proof.Machine

/-- 256 bytes as eight rows of 32, each a little-endian number. -/
def tableByte (rows : List Nat) (b : Nat) : Nat := (rows.getD (b / 32) 0 >>> (8 * (b % 32))) % 256

/-- The substitution table, and its inverse. -/
def aesBox : List Nat := [
    0xc072a49cafa2d4adf04759fa7dc982ca76abd7fe2b670130c56f6bf27b777c63,
    0x75b227ebe28012079a059618c323c7041531d871f1e5a534ccf73f362693fdb7,
    0xcf584c4a39becb6a5bb1fc20ed00d153842fe329b3d63b52a05a6e1b1a2c8309,
    0xd2f3ff1021dab6bcf5389d928f40a351a89f3c507f02f94585334d43fbaaefd0,
    0xdb0b5ede14b8ee4688902a22dc4f816073195d643d7ea7c41744975fec130ccd,
    0x08ae7a65eaf4566ca94ed58d6d37c8e779e4959162acd3c25c2406490a3a32e0,
    0x9e1dc186b95735610ef6034866b53e708a8bbd4b1f74dde8c6b4a61c2e2578ba,
    0x16bb54b00f2d99416842e6bf0d89a18cdf2855cee9871e9b948ed9691198f8e1]

def aesBoxInv : List Nat := [
    0xcbe9dec444438e3487ff2f9b8239e37cfbd7f3819ea340bf38a53630d56a0952,
    0x25d18b6d49a25b76b224d92866a12e084ec3fa420b954cee3d23c2a632947b54,
    0x849d8da75746155edab9edfd5048706c92b6655dcc5ca4d41698688664f6f872,
    0x6b8a130103bdafc1020f3fca8f1e2cd00645b3b80558e4f70ad3bc8c00abd890,
    0x6edf751ce837f9e28535ade72274ac9673e6b4f0cecff297eadc674f4111913a,
    0xf45acd78fec0db9a2079d2c64b3e56fc1bbe18aa0e62b76f89c5291d711af147,
    0xef9cc9939f7ae52d0d4ab519a97f51605fec8027591012b131c7078833a8dd1f,
    0x7d0c2155631469e126d677ba7e042b17619953833cbbebc8b0f52aae4d3be0a0]

/-- Multiplication by x in the field of AES. -/
def aesDouble (b : Nat) : Nat := if b < 128 then 2 * b else (2 * b) ^^^ 0x11B

/-- The product of two bytes, over the low n bits of the second. -/
def aesMul (n a b : Nat) : Nat :=
  match n with
  | 0 => 0
  | n + 1 => (if b % 2 = 1 then a else 0) ^^^ aesMul n (aesDouble a) (b / 2)

def xorBytes (a b : List Nat) : List Nat := List.zipWith (· ^^^ ·) a b

/-- Row r of a block moves left by r places, and back. -/
def shiftRows (b : List Nat) : List Nat := (List.range 16).map (fun i => b.getD ((i + 4 * (i % 4)) % 16) 0)
def unshiftRows (b : List Nat) : List Nat := (List.range 16).map (fun i => b.getD ((i + 12 * (i % 4)) % 16) 0)

/-- Each column is multiplied by the circulant matrix whose first row is given. -/
def mixWith (row b : List Nat) : List Nat :=
  (List.range 16).map (fun i => (List.range 4).foldl (fun acc j =>
    acc ^^^ aesMul 4 (b.getD (i / 4 * 4 + j) 0) (row.getD ((j + 4 - i % 4) % 4) 0)) 0)

/-- The next eight words of the key schedule, as four bytes each. -/
def nextWords (rcon : Nat) (w : List (List Nat)) : List (List Nat) :=
  let sub := fun (x : List Nat) => x.map (tableByte aesBox)
  let rot := fun (x : List Nat) => x.drop 1 ++ x.take 1
  let x := fun i => w.getD i []
  let n0 := xorBytes (x 0) (xorBytes (sub (rot (x 7))) [rcon, 0, 0, 0])
  let n1 := xorBytes (x 1) n0
  let n2 := xorBytes (x 2) n1
  let n3 := xorBytes (x 3) n2
  let n4 := xorBytes (x 4) (sub n3)
  let n5 := xorBytes (x 5) n4
  let n6 := xorBytes (x 6) n5
  [n0, n1, n2, n3, n4, n5, n6, xorBytes (x 7) n6]

/-- The words of the key schedule after the first eight, `n` groups of eight. -/
def keyWords : Nat → Nat → List (List Nat) → List (List Nat)
  | 0, _, _ => []
  | n + 1, rcon, w => let w' := nextWords rcon w; w' ++ keyWords n (2 * rcon) w'

/-- The bytes of a 256-bit key, as a number whose byte 0 is lowest. -/
def keyBytes (key : Nat) : List Nat := (List.range 32).map (fun i => (key >>> (8 * i)) % 256)

/-- The fifteen round keys of a key. -/
def roundKeys (key : Nat) : List (List Nat) :=
  let kb := keyBytes key
  let w := (List.range 8).map (fun i => (List.range 4).map (fun j => kb.getD (4 * i + j) 0))
  let ws := w ++ keyWords 7 1 w
  (List.range 15).map (fun r => (List.range 4).flatMap (fun j => ws.getD (4 * r + j) []))

def aesRound (b k : List Nat) : List Nat :=
  xorBytes (mixWith [2, 3, 1, 1] (shiftRows (b.map (tableByte aesBox)))) k

/-- AES-256 of a block, from its round keys. -/
def aesEncrypt (ks : List (List Nat)) (b : List Nat) : List Nat :=
  let mid := ((ks.take 14).drop 1).foldl aesRound (xorBytes b (ks.getD 0 []))
  xorBytes (shiftRows (mid.map (tableByte aesBox))) (ks.getD 14 [])

def aesRoundInv (b k : List Nat) : List Nat :=
  mixWith [14, 11, 13, 9] (xorBytes ((unshiftRows b).map (tableByte aesBoxInv)) k)

/-- The inverse of AES-256. -/
def aesDecrypt (ks : List (List Nat)) (b : List Nat) : List Nat :=
  let mid := (((ks.take 14).drop 1).reverse).foldl aesRoundInv (xorBytes b (ks.getD 14 []))
  xorBytes ((unshiftRows mid).map (tableByte aesBoxInv)) (ks.getD 0 [])

/-- The 16 bytes of a number, and the number of 16 bytes, byte 0 lowest. -/
def blockOfNat (v : Nat) : List Nat := (List.range 16).map (fun i => (v >>> (8 * i)) % 256)
def natOfBlock (b : List Nat) : Nat := b.foldr (fun x acc => acc * 256 + x) 0

/-- The next tweak: multiplication by x in the field of XTS. -/
def nextTweak (t : Nat) : Nat := if t < 2 ^ 127 then 2 * t else (2 * t % 2 ^ 128) ^^^ 135

/-- XTS over one granule: the tweak is the granule's number PA[51:5] (R294). `material` is K1 * 2^256 + K2. -/
def xtsUnit (cipher : List (List Nat) → List Nat → List Nat) (material g : Nat) (v : Granule) : Granule :=
  let t0 := natOfBlock (aesEncrypt (roundKeys (material % 2 ^ 256)) (blockOfNat g))
  let t1 := nextTweak t0
  let ks := roundKeys (material / 2 ^ 256)
  let one := fun (x t : Nat) => natOfBlock (cipher ks (blockOfNat (x ^^^ t))) ^^^ t
  BitVec.ofNat 256 (one (v.toNat % 2 ^ 128) t0 + one (v.toNat / 2 ^ 128) t1 * 2 ^ 128)

/-- A granule as the memory controllers write it, and as they read it (R294). -/
def xtsEncrypt (material g : Nat) (v : Granule) : Granule := xtsUnit aesEncrypt material g v
def xtsDecrypt (material g : Nat) (v : Granule) : Granule := xtsUnit aesDecrypt material g v

end Sys2Proof.Machine
end

