-- ==== Sys2Proof/Machine/Num.lean ====
section
/-!
DEFINITION. Number formats, exact values, rounding and flags (R53 to R69, R76).
-/
namespace Sys2Proof.Machine

/-- The sticky flags in the positions of R69: NV 0, DZ 1, OF 2, UF 3, NX 4, SAT 5, LSO 6. -/
abbrev Flags := BitVec 7

def fNV : Flags := 1
def fDZ : Flags := 2
def fOF : Flags := 4
def fUF : Flags := 8
def fNX : Flags := 16
def fSAT : Flags := 32
def fLSO : Flags := 64

/-- A rounding mode, RM of R47. -/
inductive Rm where
  | rn
  | rz
  | ru
  | rd
  deriving DecidableEq, Repr, Inhabited

def rmOf (n : Nat) : Rm :=
  match n with
  | 0 => .rn
  | 1 => .rz
  | 2 => .ru
  | _ => .rd

/-- A binary floating-point format (R54). -/
structure Fmt where
  bits : Nat
  /-- fraction width -/
  mb : Nat
  bias : Nat
  /-- E4M3 has no infinity and one NaN code per sign -/
  isE4M3 : Bool
  /-- BF16, whose subnormals native mode flushes (R66) -/
  isBF16 : Bool
  deriving DecidableEq, Repr, Inhabited

def fmtF32 : Fmt := ⟨32, 23, 127, false, false⟩
def fmtBF16 : Fmt := ⟨16, 7, 127, false, true⟩
def fmtF16 : Fmt := ⟨16, 10, 15, false, false⟩
def fmtE4M3 : Fmt := ⟨8, 3, 7, true, false⟩
def fmtE5M2 : Fmt := ⟨8, 2, 15, false, false⟩

/-- The largest exponent of a finite value (R54, R55). -/
def fmtEmax (F : Fmt) : Int := if F.isE4M3 then 8 else F.bias

/-- The largest significand, an integer of mb + 1 bits (R54). -/
def fmtMaxSig (F : Fmt) : Nat := if F.isE4M3 then 14 else 2 ^ (F.mb + 1) - 1

/-- The encoding of the largest finite magnitude (R54). -/
def fmtLargest (F : Fmt) : Nat :=
  if F.isE4M3 then 0x7E else 2 ^ (F.bits - 1) - 2 ^ F.mb - 1

/-- The encoding of +infinity; E4M3 has none (R54). -/
def fmtInf (F : Fmt) : Nat := 2 ^ (F.bits - 1) - 2 ^ F.mb

/-- The default NaN (R54, R56). -/
def fmtNaN (F : Fmt) : Nat :=
  if F.isE4M3 then 0x7F else 2 ^ (F.bits - 1) - 2 ^ F.mb + 2 ^ (F.mb - 1)

def signBit (F : Fmt) (neg : Bool) : Nat := if neg then 2 ^ (F.bits - 1) else 0

/-- A decoded value: NaN (signalling or quiet), infinity, or (-1)^neg * m * 2^e with m = 0 for a zero (R55). -/
inductive FV where
  | nan (signalling : Bool)
  | inf (neg : Bool)
  | fin (neg : Bool) (m : Nat) (e : Int)
  deriving DecidableEq, Repr, Inhabited

/-- Decodes an encoding (R55). -/
def decodeF (F : Fmt) (x : Nat) : FV :=
  let s := decide ((x >>> (F.bits - 1)) % 2 = 1)
  let eb := F.bits - 1 - F.mb
  let e := (x >>> F.mb) % 2 ^ eb
  let f := x % 2 ^ F.mb
  if e = 0 then .fin s f (1 - F.bias - F.mb)
  else if e = 2 ^ eb - 1 then
    if F.isE4M3 then
      if f = 7 then .nan false else .fin s (2 ^ F.mb + f) ((e : Int) - F.bias - F.mb)
    else if f = 0 then .inf s
    else .nan (decide ((f >>> (F.mb - 1)) % 2 = 0))
  else .fin s (2 ^ F.mb + f) ((e : Int) - F.bias - F.mb)

/-- Whether an encoding is a nonzero subnormal. -/
def isSubnormal (F : Fmt) (x : Nat) : Bool :=
  decide ((x >>> F.mb) % 2 ^ (F.bits - 1 - F.mb) = 0) && decide (x % 2 ^ F.mb ≠ 0)

/-- Decodes an operand; `flush` is native mode, in which a BF16 subnormal is the zero of its sign (R66). -/
def readF (F : Fmt) (flush : Bool) (x : Nat) : FV :=
  if flush && F.isBF16 && isSubnormal F x then
    .fin (decide ((x >>> (F.bits - 1)) % 2 = 1)) 0 0
  else decodeF F x

/-- The bits of an operand after any input flush (R66, R99). -/
def flushBits (F : Fmt) (flush : Bool) (x : Nat) : Nat :=
  if flush && F.isBF16 && isSubnormal F x then x - x % 2 ^ F.mb else x

def fvIsNaN : FV → Bool
  | .nan _ => true
  | _ => false

def fvIsSig : FV → Bool
  | .nan s => s
  | _ => false

def fvIsZero : FV → Bool
  | .fin _ m _ => decide (m = 0)
  | _ => false

def fvNeg : FV → Bool
  | .nan _ => false
  | .inf n => n
  | .fin n _ _ => n

/-- An exact dyadic number m * 2^e. -/
structure Dy where
  m : Int
  e : Int
  deriving DecidableEq, Repr, Inhabited

def dyZero : Dy := ⟨0, 0⟩
def dyOfFin (neg : Bool) (m : Nat) (e : Int) : Dy := ⟨if neg then -(m : Int) else m, e⟩

/-- The exact value of a finite number; zero for the others. -/
def dyOf : FV → Dy
  | .fin n m e => dyOfFin n m e
  | _ => dyZero

def dyAdd (a b : Dy) : Dy :=
  if a.m = 0 then b
  else if b.m = 0 then a
  else
    let e := min a.e b.e
    ⟨a.m * 2 ^ (a.e - e).toNat + b.m * 2 ^ (b.e - e).toNat, e⟩

def dyNeg (a : Dy) : Dy := ⟨-a.m, a.e⟩
def dyMul (a b : Dy) : Dy := ⟨a.m * b.m, a.e + b.e⟩
def dySum (l : List Dy) : Dy := l.foldl dyAdd dyZero

/-- The order of two exact values: negative, zero or positive as a < b, a = b, a > b. -/
def dyCmp (a b : Dy) : Int := (dyAdd a (dyNeg b)).m

/-- An exact positive real as (m + d) * 2^e with 0 < d < 1 when `sticky`, d = 0 otherwise; a sticky m has at least
64 bits, so that no format sees past it. -/
structure Mag where
  m : Nat
  e : Int
  sticky : Bool
  deriving DecidableEq, Repr, Inhabited

/-- A rounded result and the flags it sets. -/
structure Rd where
  bits : Nat
  fl : Flags
  deriving DecidableEq, Repr, Inhabited

/-- The magnitude rounded to a multiple of 2^q, in units of 2^q, and whether that changed it (R64). -/
def roundAt (rm : Rm) (neg : Bool) (x : Mag) (q : Int) : Nat × Bool :=
  if q ≤ x.e then (x.m * 2 ^ (x.e - q).toNat, x.sticky)
  else
    let sh := (q - x.e).toNat
    let r := x.m / 2 ^ sh
    let rem := x.m % 2 ^ sh
    let half := 2 ^ (sh - 1)
    let inexact := decide (rem ≠ 0) || x.sticky
    let up := match rm with
      | .rn => decide (rem > half) || (decide (rem = half) && (x.sticky || decide (r % 2 = 1)))
      | .rz => false
      | .ru => inexact && !neg
      | .rd => inexact && neg
    (if up then r + 1 else r, inexact)

/-- What an overflow delivers (R64); `sat` replaces it by the largest finite value. -/
def overflowRd (F : Fmt) (rm : Rm) (neg sat : Bool) : Rd :=
  if sat then ⟨signBit F neg + fmtLargest F, fSAT ||| fNX⟩
  else
    let far := if F.isE4M3 then 0x7F else fmtInf F
    let toInf := match rm with
      | .rn => true
      | .rz => false
      | .ru => !neg
      | .rd => neg
    ⟨signBit F neg + (if toInf then far else fmtLargest F), fOF ||| fNX⟩

/-- round(x, type, rm) of a nonzero magnitude with a sign (R64), with the output flush of BF16 in native mode (R66). -/
def roundMag (F : Fmt) (rm : Rm) (sat flush neg : Bool) (x : Mag) : Rd :=
  let E : Int := (Nat.log2 x.m : Int) + x.e
  let emin : Int := 1 - F.bias
  let qmin : Int := emin - F.mb
  let q := max (E - F.mb) qmin
  let (r, inexact) := roundAt rm neg x q
  if E > fmtEmax F ∨ (E = fmtEmax F ∧ r > fmtMaxSig F) then overflowRd F rm neg sat
  else
    let (t, _) := roundAt rm neg x (E - F.mb)
    let tiny := decide (E < emin - 1) || (decide (E = emin - 1) && decide (t < 2 ^ (F.mb + 1)))
    let fl := (if inexact then fNX else 0) ||| (if inexact && tiny then fUF else 0)
    if flush && F.isBF16 && decide (0 < r) && decide (r < 2 ^ F.mb) then
      ⟨signBit F neg, fUF ||| fNX⟩
    else ⟨signBit F neg + (q - qmin).toNat * 2 ^ F.mb + r, fl⟩

/-- Rounds an exact dyadic; an exact zero takes the sign given (R64, R99). -/
def roundDy (F : Fmt) (rm : Rm) (sat flush zneg : Bool) (x : Dy) : Rd :=
  if x.m = 0 then ⟨signBit F zneg, 0⟩
  else roundMag F rm sat flush (decide (x.m < 0)) ⟨x.m.natAbs, x.e, false⟩

/-- The quotient of two positive integers times 2^e, with enough bits for every format. -/
def magDiv (n d : Nat) (e : Int) : Mag :=
  let k := 80 + Nat.log2 d
  let n' := n * 2 ^ k
  ⟨n' / d, e - k, decide (n' % d ≠ 0)⟩

/-- The integer square root, two bits a step. -/
def isqrtGo (fuel n : Nat) : Nat :=
  match fuel with
  | 0 => 0
  | fuel + 1 =>
    if n = 0 then 0
    else
      let r := 2 * isqrtGo fuel (n / 4)
      if (r + 1) * (r + 1) ≤ n then r + 1 else r

def isqrt (n : Nat) : Nat := isqrtGo (Nat.log2 n / 2 + 1) n

/-- The square root of m * 2^e, m positive. -/
def magSqrt (m : Nat) (e : Int) : Mag :=
  let odd := e % 2 = 1
  let m1 := if odd then 2 * m else m
  let e1 := if odd then e - 1 else e
  let m2 := m1 * 2 ^ 160
  let r := isqrt m2
  ⟨r, e1 / 2 - 80, decide (r * r ≠ m2)⟩

/-- The reciprocal square root of m * 2^e, m positive. -/
def magRsqrt (m : Nat) (e : Int) : Mag :=
  let odd := e % 2 = 1
  let m1 := if odd then 2 * m else m
  let e1 := if odd then e - 1 else e
  let k := 80 + Nat.log2 m1
  let y := 2 ^ (2 * k) / m1
  let r := isqrt y
  ⟨r, -(e1 / 2) - k, decide (r * r * m1 ≠ 2 ^ (2 * k))⟩

def nanRd (F : Fmt) : Rd := ⟨fmtNaN F, 0⟩
def invalidRd (F : Fmt) : Rd := ⟨fmtNaN F, fNV⟩

/-- An infinite result or operand bound for a format: the infinity of the sign, the NaN of the sign for E4M3 with NV,
or under SAT the largest finite value with SAT and NX (R64, R102). -/
def infRd (F : Fmt) (sat neg : Bool) : Rd :=
  if sat then ⟨signBit F neg + fmtLargest F, fSAT ||| fNX⟩
  else if F.isE4M3 then ⟨signBit F neg + 0x7F, fNV⟩
  else ⟨signBit F neg + fmtInf F, 0⟩

/-- The sign of an exact zero sum of two addends (R99). -/
def zeroSumNeg (rm : Rm) (na nb : Bool) : Bool :=
  if na = nb then na else decide (rm = .rd)

def fvIsInf : FV → Bool
  | .inf _ => true
  | _ => false

/-- a * b + d with one rounding (R99); FADD, FSUB and FMUL are instances of it. -/
def fvFma (F : Fmt) (rm : Rm) (flush : Bool) (a b d : FV) : Rd :=
  let pneg := fvNeg a != fvNeg b
  if fvIsSig a || fvIsSig b || fvIsSig d then invalidRd F
  else if (fvIsInf a && fvIsZero b) || (fvIsZero a && fvIsInf b) then invalidRd F
  else if fvIsNaN a || fvIsNaN b || fvIsNaN d then nanRd F
  else if fvIsInf a || fvIsInf b then
    if fvIsInf d && (fvNeg d != pneg) then invalidRd F else infRd F false pneg
  else if fvIsInf d then infRd F false (fvNeg d)
  else
    let p := dyMul (dyOf a) (dyOf b)
    let s := dyAdd p (dyOf d)
    roundDy F rm false flush (zeroSumNeg rm pneg (fvNeg d)) s

/-- a + b (R99, R76). -/
def fvAdd (F : Fmt) (rm : Rm) (flush : Bool) (a b : FV) : Rd := fvFma F rm flush a (.fin false 1 0) b

def fvFlip : FV → FV
  | .nan s => .nan s
  | .inf n => .inf (!n)
  | .fin n m e => .fin (!n) m e

/-- a * b (R99): the zero addend takes the sign of the product, so that it never decides a sign. -/
def fvMul (F : Fmt) (rm : Rm) (flush : Bool) (a b : FV) : Rd :=
  fvFma F rm flush a b (.fin (fvNeg a != fvNeg b) 0 0)

/-- round(a / b) (R99, R104): 0/0 and inf/inf are invalid, a nonzero finite number over zero sets DZ. -/
def fvDiv (F : Fmt) (rm : Rm) (sat flush : Bool) (a b : FV) : Rd :=
  let neg := fvNeg a != fvNeg b
  if fvIsSig a || fvIsSig b then invalidRd F
  else if fvIsNaN a || fvIsNaN b then nanRd F
  else
    match a, b with
    | .inf _, .inf _ => invalidRd F
    | .inf _, _ => infRd F sat neg
    | _, .inf _ => ⟨signBit F neg, 0⟩
    | .fin _ ma ea, .fin _ mb eb =>
      if mb = 0 then
        if ma = 0 then invalidRd F
        else
          let r := infRd F sat neg
          ⟨r.bits, r.fl ||| fDZ⟩
      else if ma = 0 then ⟨signBit F neg, 0⟩
      else roundMag F rm sat flush neg (magDiv ma mb (ea - eb))
    | _, _ => nanRd F

/-- round(sqrt b) (R99). -/
def fvSqrt (F : Fmt) (rm : Rm) (flush : Bool) (b : FV) : Rd :=
  match b with
  | .nan s => if s then invalidRd F else nanRd F
  | .inf n => if n then invalidRd F else infRd F false false
  | .fin n m e =>
    if m = 0 then ⟨signBit F n, 0⟩
    else if n then invalidRd F
    else roundMag F rm false flush false (magSqrt m e)

/-- The order of two numbers that are not NaN, with -0 below +0 when `signedZero` (R76). -/
def fvLt (signedZero : Bool) (a b : FV) : Bool :=
  match a, b with
  | .inf na, .inf nb => na && !nb
  | .inf na, _ => na
  | _, .inf nb => !nb
  | a, b =>
    let c := dyCmp (dyOf a) (dyOf b)
    decide (c < 0) || (signedZero && decide (c = 0) && fvNeg a && !fvNeg b)

/-- minimumNumber or maximumNumber on encodings, with -0 < +0 (R76): a quiet NaN yields the other operand, two NaNs the
default NaN, a signalling NaN the default NaN with NV. -/
def fvMinMax (F : Fmt) (flush isMin : Bool) (x y : Nat) : Rd :=
  let a := readF F flush x
  let b := readF F flush y
  if fvIsSig a || fvIsSig b then invalidRd F
  else if fvIsNaN a && fvIsNaN b then nanRd F
  else if fvIsNaN a then ⟨flushBits F flush y, 0⟩
  else if fvIsNaN b then ⟨flushBits F flush x, 0⟩
  else if (if isMin then fvLt true b a else fvLt true a b) then ⟨flushBits F flush y, 0⟩
  else ⟨flushBits F flush x, 0⟩

/-- Equality of two numbers, -0 == +0 (R100). -/
def fvEq (a b : FV) : Bool :=
  match a, b with
  | .nan _, _ => false
  | _, .nan _ => false
  | .inf na, .inf nb => na == nb
  | .inf _, _ => false
  | _, .inf _ => false
  | a, b => decide (dyCmp (dyOf a) (dyOf b) = 0)

/-- FCMP (R100): the truth of a condition code CND and the flags. -/
def fvCmp (cnd : Nat) (a b : FV) : Bool × Flags :=
  let un := fvIsNaN a || fvIsNaN b
  let lt := !un && fvLt false a b
  let gt := !un && fvLt false b a
  let eq := fvEq a b
  let ordered := decide (cnd = 2) || decide (cnd = 3) || decide (cnd = 4) || decide (cnd = 5)
  let nv := fvIsSig a || fvIsSig b || (un && ordered)
  let t := match cnd with
    | 0 => eq
    | 1 => !eq
    | 2 => lt
    | 3 => lt || eq
    | 4 => gt
    | 5 => gt || eq
    | 6 => un
    | _ => !un
  (t, if nv then fNV else 0)

/-- Float to float (R102): round of the exact source value, with the special values of the table. -/
def fvConvert (D : Fmt) (rm : Rm) (sat flush : Bool) (v : FV) : Rd :=
  match v with
  | .nan s => if s then invalidRd D else nanRd D
  | .inf n => infRd D sat n
  | .fin n m e => roundDy D rm sat flush n (dyOfFin n m e)

/-- The integer nearest an exact magnitude under rm, and whether it is inexact (R65). -/
def roundIntMag (rm : Rm) (neg : Bool) (x : Mag) : Int × Bool :=
  let (r, inexact) := roundAt rm neg x 0
  (if neg then -(r : Int) else r, inexact)

/-- The least and the greatest value of an integer type of w bits (R57). -/
def intMin (signed : Bool) (w : Nat) : Int := if signed then -((2 ^ (w - 1) : Nat) : Int) else 0
def intMax (signed : Bool) (w : Nat) : Int :=
  if signed then ((2 ^ (w - 1) : Nat) : Int) - 1 else ((2 ^ w : Nat) : Int) - 1

/-- Conversion of a magnitude to an integer type (R65): out of range gives the minimum and NV, or under SAT is clamped. -/
def toIntRd (rm : Rm) (sat signed : Bool) (w : Nat) (neg : Bool) (x : Mag) : Int × Flags :=
  let (i, inexact) := if x.m = 0 ∧ x.sticky = false then ((0 : Int), false) else roundIntMag rm neg x
  let lo := intMin signed w
  let hi := intMax signed w
  if i < lo then (lo, if sat then fSAT else fNV)
  else if i > hi then (if sat then hi else lo, if sat then fSAT else fNV)
  else (i, if inexact then fNX else 0)

/-- Float to integer (R65, R103); NaN and infinities. -/
def fvToInt (rm : Rm) (sat signed : Bool) (w : Nat) (v : FV) : Int × Flags :=
  let lo := intMin signed w
  let hi := intMax signed w
  match v with
  | .nan _ => if sat then (0, fSAT) else (lo, fNV)
  | .inf n => if sat then (if n then lo else hi, fSAT) else (lo, fNV)
  | .fin n m e => toIntRd rm sat signed w n ⟨m, e, false⟩

end Sys2Proof.Machine
end

