-- ==== Sys2Proof/Machine/Lattice.lean ====
section
/-!
DEFINITION. The storage formats F4X and L8 (R59 to R63) and their encoders (R60, R106, R107, R122).
-/
namespace Sys2Proof.Machine

/-- E2M1 magnitudes in halves (R59). -/
def e2m1Half (c : Nat) : Nat :=
  match c % 8 with
  | 0 => 0
  | 1 => 1
  | 2 => 2
  | 3 => 3
  | 4 => 4
  | 5 => 6
  | 6 => 8
  | _ => 12

/-- The exact value of a 4-bit code under a scale byte and an extra byte (R59). -/
def f4xValue (code scale extra : Nat) : FV :=
  let e : Int := (scale : Int) - 127
  if code = 8 then
    match decodeF fmtE4M3 extra with
    | .fin n m x => .fin n m (x + e)
    | v => v
  else .fin (decide (8 ≤ code)) (e2m1Half code) (e - 1)

/-- Element i of an 18-byte block held as a number, byte j in bits [8j+7:8j] (R59). -/
def f4xElem (block i : Nat) : FV :=
  f4xValue ((block >>> (4 * i)) % 16) ((block >>> 128) % 256) ((block >>> 136) % 256)

/-- A format fault of a block's scale (R61). -/
def f4xBadScale (block : Nat) : Bool := (block >>> 128) % 256 = 255

/-- The F32 bits of a value, its exact value where F32 holds it (R59, R63). -/
def f32Bits (v : FV) : Nat := (fvConvert fmtF32 .rn false false v).bits

/-- floor(log2) of a positive finite value. -/
def fvLog2 : FV → Int
  | .fin _ m e => (Nat.log2 m : Int) + e
  | _ => 0

/-- |a| < |b| of two exact values. -/
def dyAbsLt (a b : Dy) : Bool := decide (dyCmp ⟨a.m.natAbs, a.e⟩ ⟨b.m.natAbs, b.e⟩ < 0)

/-- The element with the largest magnitude, lowest index on ties (R60). -/
def fvAmax (xs : List FV) : FV :=
  xs.foldl (fun best x => if dyAbsLt (dyOf best) (dyOf x) then x else best) (.fin false 0 0)

/-- The canonical scale and extra bytes of 32 values (R60, R106): scale, extra, flags. -/
def f4xScale (xs : List FV) : Nat × Nat × Flags :=
  if xs.any (fun x => match x with
      | .fin _ _ _ => false
      | _ => true) then (255, 0x7F, fNV)
  else
    let a := fvAmax xs
    if fvIsZero a then (127, 0, 0)
    else
      let code := (max (fvLog2 a - 2 + 127) 0).toNat
      let d := dyOf a
      let ex := roundDy fmtE4M3 .rn false false (fvNeg a) ⟨d.m, d.e - ((code : Int) - 127)⟩
      (code, ex.bits, 0)

/-- |a - b| of two exact values. -/
def dyDist (a b : Dy) : Dy :=
  let d := dyAdd a (dyNeg b)
  ⟨d.m.natAbs, d.e⟩

/-- The E2M1 codes, those with bit 0 clear first, so that a first nearest one follows the ties of R60. -/
def e2m1Codes : List Nat := [0, 2, 4, 6, 10, 12, 14, 1, 3, 5, 7, 9, 11, 13, 15]

/-- The code of one element under a scale and an extra byte (R60, R107), and its flags. -/
def f4xCode (x : FV) (scale extra : Nat) : Nat × Flags :=
  if scale = 255 then (0, fNV)
  else
    let cands := e2m1Codes ++ (if fvIsNaN (decodeF fmtE4M3 extra) then [] else [8])
    let val := fun c => dyOf (f4xValue c scale extra)
    let biggest := fun (l : List Nat) => l.foldl (fun b c => if dyAbsLt (val b) (val c) then c else b) 0
    let top := biggest cands
    let sameSign := fun (neg : Bool) => biggest (cands.filter (fun c => decide (c = 0) ||
      (if neg then decide ((val c).m < 0) else decide (0 < (val c).m))))
    match x with
    | .nan _ => (0, fNV)
    | .inf n => (sameSign n, fSAT ||| fNX)
    | .fin n m e =>
      let d := dyOfFin n m e
      if dyAbsLt (val top) d then (sameSign n, fSAT ||| fNX)
      else
        let best := cands.foldl (fun b c => if dyCmp (dyDist (val c) d) (dyDist (val b) d) < 0 then c else b) 0
        (best, if dyCmp (val best) d = 0 then 0 else fNX)

/-- The 18-byte block of 32 values under a scale and an extra byte, and the flags (R105, R107). -/
def f4xPack (xs : List FV) (scale extra : Nat) : Nat × Flags :=
  let cs := xs.map (fun x => f4xCode x scale extra)
  (packNat 4 32 (fun i => (cs.getD i (0, 0)).1) + scale * 2 ^ 128 + extra * 2 ^ 136,
    cs.foldl (fun acc c => acc ||| c.2) 0)

/-- The canonical block of 32 values (R60). -/
def f4xCanon (xs : List FV) : Nat × Flags :=
  let (sc, ex, fl) := f4xScale xs
  let (blk, fl') := f4xPack xs sc ex
  (blk, fl ||| fl')

/-- Twice the element i of an L8 point, 2 y_i + c (R62). -/
def l8Twice (w i : Nat) : Int :=
  let y := fun (k : Nat) => asInt 4 ((w >>> (1 + 4 * k)) % 16)
  let c : Int := ((w % 2 : Nat) : Int)
  if i < 7 then 2 * y i + c
  else
    let s := (List.range 7).foldl (fun acc k => acc + y k) 0
    2 * (2 * asInt 3 ((w >>> 29) % 8) + s % 2) + c

/-- Element i of a point under a scale (R62): (y_i + c/2) * scale; under +0 every element is +0 (R61, R123). -/
def l8Elem (w i : Nat) (scale : FV) : FV :=
  match scale with
  | .fin _ m e => let t := l8Twice w i; .fin (decide (t < 0) && decide (m ≠ 0)) (t.natAbs * m) (e - 1)
  | v => v

/-- A format fault of a BF16 scale: its sign bit set or an all-ones exponent (R61). -/
def l8BadScale (bits : Nat) : Bool := (bits >>> 15) % 2 = 1 || (bits >>> 7) % 256 = 255

/-- The magnitude of the nearest integer to n/d, ties toward zero (R122). -/
def nearInt (n d : Nat) : Nat := (2 * n + d - 1) / (2 * d)

/-- A candidate of R122 in half units: `xs` are numerators over `d`; `half` is 1 for the half-integer coset. -/
def l8Candidate (xs : List Int) (d npad half : Nat) : List Int :=
  let z := xs.map (fun x =>
    let a := x.natAbs
    let v : Nat := if half = 0 then 2 * nearInt a d else 2 * ((a + d - 1) / d - 1) + 1
    if x < 0 then -(v : Int) else (v : Int))
  let odd := (z.foldl (fun acc h => acc + (h - (half : Int)) / 2) 0) % 2 = 1
  if odd then
    let err := fun (i : Nat) => (2 * xs.getD i 0 - z.getD i 0 * (d : Int)).natAbs
    let j := (List.range (8 - npad)).foldl (fun b i => if err b < err i then i else b) 0
    let zj := z.getD j 0
    let diff := 2 * xs.getD j 0 - zj * (d : Int)
    let zj' : Int := if 0 < diff then zj + 2 else if diff < 0 then zj - 2
      else if zj ≠ 0 then (if 0 < zj then zj - 2 else zj + 2) else 2
    z.set j zj'
  else z

/-- Quantises a point (R122): eight values, a positive finite scale, pad coordinates; the word and the flags. -/
def l8Quantise (as : List FV) (scale : FV) (npad : Nat) : Nat × Flags :=
  match scale with
  | .fin _ ms es =>
    let lo := as.foldl (fun acc a => match a with
      | .fin _ m e => if m = 0 then acc else min acc e
      | _ => acc) es
    let t := (es - lo).toNat
    let d := ms * 2 ^ t
    let prep := fun (i : Nat) =>
      if 8 - npad ≤ i then ((0 : Int), (0 : Flags))
      else match as.getD i (.fin false 0 0) with
        | .nan _ => (0, fNV)
        | .inf n => (if n then -7 * (d : Int) else 7 * d, fLSO)
        | .fin n m e =>
          let v := m * 2 ^ (e - lo).toNat
          let v := if m = 0 then 0 else v
          if 7 * d < v then (if n then -7 * (d : Int) else 7 * d, fLSO) else (if n then -(v : Int) else v, 0)
    let ps := (List.range 8).map prep
    let xs := ps.map (·.1)
    let fl := ps.foldl (fun acc p => acc ||| p.2) 0
    let zi := l8Candidate xs d npad 0
    let zh := l8Candidate xs d npad 1
    let dist := fun (z : List Int) => (List.range 8).foldl (fun acc i =>
      let q := 2 * xs.getD i 0 - z.getD i 0 * (d : Int)
      acc + q * q) 0
    let useHalf := decide (dist zh < dist zi)
    let z := if useHalf then zh else zi
    let c : Int := if useHalf then 1 else 0
    let y := z.map (fun h => (h - c) / 2)
    let s7 := (List.range 7).foldl (fun acc i => acc + y.getD i 0) 0
    let h := (y.getD 7 0 - s7 % 2) / 2
    let word := c.toNat + packNat 4 7 (fun i => wrapInt 4 (y.getD i 0)) * 2 + wrapInt 3 h * 2 ^ 29
    let nx := (List.range (8 - npad)).any (fun i =>
      match as.getD i (.fin false 0 0) with
      | .nan _ => false
      | .inf _ => true
      | .fin n m e => decide (dyCmp ⟨z.getD i 0 * (ms : Int), es - 1⟩ (dyOfFin n m e) ≠ 0))
    (word, fl ||| (if nx then fNX else 0))
  | _ => (0, 0)

end Sys2Proof.Machine
end

