-- ==== Sys2Proof/Machine/Layout.lean ====
section
/-!
DEFINITION. Element types, layout entries, addresses and the edge rule (R47, R134 to R137, R187).
-/
namespace Sys2Proof.Machine

/-- Bytes of an element: of an L8 word or an F4X block for these (R47, R137). -/
def tySize (ty : Nat) : Nat :=
  match ty with
  | 0 => 4
  | 1 => 1
  | 2 => 2
  | 3 => 8
  | 4 => 4
  | 5 => 1
  | 6 => 2
  | 7 => 8
  | 8 => 4
  | 9 => 2
  | 10 => 2
  | 11 => 1
  | 12 => 1
  | 13 => 18
  | _ => 4

def tyL8 : Nat := 14
def tyF4X : Nat := 13

/-- A signed integer type (R47, R57). -/
def tySigned (ty : Nat) : Bool := ty < 4

def tyIsInt (ty : Nat) : Bool := ty < 8

/-- The float format of a type code (R47). -/
def fmtOfTy (ty : Nat) : Fmt :=
  match ty with
  | 8 => fmtF32
  | 9 => fmtBF16
  | 10 => fmtF16
  | 11 => fmtE4M3
  | _ => fmtE5M2

/-- The valid pairs of operator and element type (R76, R139). -/
def opTypeOk (opr ty : Nat) : Bool :=
  match opr with
  | 0 => true
  | 1 => ty ≤ 10
  | 2 => ty ≤ 10
  | 3 => ty ≤ 10
  | _ => true

def layType (e : Bits512) : Nat := fld e 8 4
def laySpace (e : Bits512) : Nat := fld e 0 2
def layRank (e : Bits512) : Nat := fld e 12 2 + 1
def layEdge (e : Bits512) : Nat := fld e 16 2
def layBase (e : Bits512) : Nat := fld e 128 64
def layScale (e : Bits512) : Nat := fld e 192 64
def layExt (e : Bits512) (d : Nat) : Nat := fld e (256 + 16 * d) 16
def layStride (e : Bits512) (d : Nat) : Int := asInt 32 (fld e (320 + 32 * d) 32)
def layCur (e : Bits512) (d : Nat) : Int := asInt 16 (fld e (448 + 16 * d) 16)

/-- The bits of BASE or SCALE that its SPACE marks zero (R134). -/
def baseOk (space b : Nat) : Bool :=
  match space with
  | 0 => b < 2 ^ 57
  | 1 => b < 2 ^ 17
  | _ => b < 2 ^ 39

/-- The checks of R134 on a valid entry: no reserved code, no reserved bit, no extent above 32,767. -/
def layOk (e : Bits512) : Bool :=
  let space := laySpace e
  decide (space ≠ 3) && decide (layEdge e ≠ 3) && decide (layType e ≠ 15) && decide (fld e 2 6 = 0) &&
    decide (fld e 14 2 = 0) && decide (fld e 28 100 = 0) &&
    (List.range 4).all (fun d => decide (layExt e d ≤ 32767)) && baseOk space (layBase e) &&
    (decide (layType e ≠ tyL8) || baseOk space (layScale e))

/-- Coordinate d of a packed coordinate word (R135). -/
def coord (w : Word) (d : Nat) : Int := asInt 16 (fld w (16 * d) 16)

/-- unit(L, d, x) of R135. -/
def layUnit (e : Bits512) (d : Nat) (x : Int) : Int :=
  if d = 0 ∧ layType e = tyL8 then x / 8
  else if d = 0 ∧ layType e = tyF4X then x / 32
  else x

/-- The byte offset of an element index after the bank permutation, 64-bit two's complement (R135). -/
def layOffset (e : Bits512) (idx : List Int) : Int :=
  let o := (List.range (layRank e)).foldl
    (fun acc d => acc + layUnit e d (idx.getD d 0) * layStride e d) 0
  let w := wrapInt 64 o
  let s := fld (BitVec.ofInt 64 (o / 2 ^ fld e 24 4)) 0 6
  asInt 64 (w ^^^ ((s &&& fld e 18 6) <<< 3))

/-- The base address of the entry in its space (R134, R135). -/
def layBaseAddr (e : Bits512) : Nat :=
  if laySpace e = 0 then layBase e else layBase e % 2 ^ 17

/-- The address of an element index (R135): a virtual address or a scratchpad offset. -/
def elemAddr (e : Bits512) (idx : List Int) : Int := (layBaseAddr e : Int) + layOffset e idx

/-- e[d] = CUR[d] + c[d] for d below the rank; 0 at and beyond it (R124, R135). -/
def elemIndex (e : Bits512) (c : Word) : List Int :=
  (List.range 4).map (fun d => if d < layRank e then layCur e d + coord c d else 0)

/-- The index moved by l along dimension 0. -/
def moveIdx (idx : List Int) (l : Int) : List Int := idx.set 0 (idx.getD 0 0 + l)

/-- An element lies inside L (R136). -/
def insideLay (e : Bits512) (idx : List Int) : Bool :=
  (List.range (layRank e)).all (fun d => decide (0 ≤ idx.getD d 0) && decide (idx.getD d 0 < layExt e d))

/-- The clamp of the edge rule; none where an extent is 0 (R136). -/
def clampIdx (e : Bits512) (idx : List Int) : Option (List Int) :=
  if (List.range (layRank e)).any (fun d => decide (layExt e d = 0)) then none
  else some ((List.range 4).map (fun d =>
    if d < layRank e then min (max (idx.getD d 0) 0) ((layExt e d : Int) - 1) else 0))

/-- What a read of an element does under the edge rule (R136). -/
inductive ReadAt where
  | zero
  | at (idx : List Int)
  | bounds
  deriving DecidableEq, Repr, Inhabited

def readAt (e : Bits512) (idx : List Int) : ReadAt :=
  if insideLay e idx then .at idx
  else match layEdge e with
    | 0 => .zero
    | 1 => (match clampIdx e idx with
      | some i => .at i
      | none => .zero)
    | _ => .bounds

/-- The alignment of R137; an F4X block has none. -/
def alignOk (ty : Nat) (a : Int) : Bool :=
  if ty = tyF4X then true else decide (a % (tySize ty : Int) = 0)

/-- A scratchpad element lies wholly within offsets 0 to 131,071 (R137). -/
def scrFits (size : Nat) (a : Int) : Bool := decide (0 ≤ a) && decide (a + size ≤ 131072)

/-- The number of elements of a vector access: words of L8 count one a lane, an F4X block is one (R187). -/
def vecCount (ty : Nat) : Nat :=
  if ty = tyF4X then 1 else if ty = tyL8 then 32 else 128 / tySize ty

/-- The step along dimension 0 from one element of a vector access to the next (R187). -/
def vecStep (ty : Nat) : Int := if ty = tyL8 then 8 else 1

/-- The lane that holds element i of a vector access (R58, R187). -/
def vecLane (ty i : Nat) : Nat := if ty = tyF4X then 0 else i * tySize ty / 4

/-- The coordinates of the element l steps along dimension 0 (R135, R313). -/
def coordsAt (w : Word) (l : Int) : Word := setFld w 0 16 (wrapInt 16 (coord w 0 + l))

/-- Where the scale of the row and point of an L8 element lies: SCALE + 2 * (row * ceil(EXT0/128) + floor(e0/128))
(R124). -/
def l8ScaleAddr (e : Bits512) (idx : List Int) : Int :=
  let x := fun d => idx.getD d 0
  let row := x 1 + (layExt e 1 : Int) * (x 2 + (layExt e 2 : Int) * x 3)
  let base : Int := if laySpace e = 0 then layScale e else (layScale e % 2 ^ 17 : Nat)
  base + 2 * (row * (ceilDiv (layExt e 0) 128 : Nat) + x 0 / 128)

end Sys2Proof.Machine
end

