-- ==== Sys2Proof/Machine/Tree.lean ====
section
/-!
DEFINITION. Global memory: folding (R76, R140), arrival at a chain (R141), publication outward (R143, R144, R151), the
floor (R295), probes (R145), floor copies and horizons (R147 to R150).
-/
namespace Sys2Proof.Machine

/-- Key tags as numbers: ASID n is n (R293). -/
def tagPkg : Nat := 512
def tagNone : Nat := 513

/-- The run index of a granule under a tag. -/
def runKey (g tag : Nat) : Nat := g * 1024 + tag
def keyGran (k : Nat) : Nat := k / 1024
def keyTag (k : Nat) : Nat := k % 1024
/-- The index of the line of a run index under the same tag. -/
def lineKey (k : Nat) : Nat := keyGran k / 4 * 1024 + keyTag k

/-- One element folded (R76): the result and whether the operation was invalid. -/
def foldElem (opr ty old new : Nat) : Nat × Bool :=
  let w := 8 * tySize ty
  if tyIsInt ty then
    match opr with
    | 1 => ((old + new) % 2 ^ w, false)
    | 2 => (if tySigned ty then (if asInt w new < asInt w old then new else old) else min old new, false)
    | _ => (if tySigned ty then (if asInt w old < asInt w new then new else old) else max old new, false)
  else
    let F := fmtOfTy ty
    let r := match opr with
      | 1 => fvAdd F .rn true (readF F true old) (readF F true new)
      | 2 => fvMinMax F true true old new
      | _ => fvMinMax F true false old new
    (r.bits, decide (r.fl &&& fNV ≠ 0))

/-- The 256-bit mask of a byte mask. -/
def byteMask (m : BitVec 32) : Granule := BitVec.ofNat 256 (packNat 8 32 (fun i => if bit m i then 255 else 0))

/-- Bytes of `new` where the mask covers, else of `old`. -/
def overlay (m : BitVec 32) (old new : Granule) : Granule :=
  if m = BitVec.allOnes 32 then new else (old &&& ~~~ (byteMask m)) ||| (new &&& byteMask m)

/-- The bitwise operators (R76). -/
def foldBits (opr : Nat) (old new : Granule) : Granule :=
  match opr with
  | 4 => old &&& new
  | 5 => old ||| new
  | _ => old ^^^ new

/-- An operator applied to the elements that a mask covers (R76): the granule and whether an operation was invalid. -/
def foldGranule (opr ty : Nat) (m : BitVec 32) (old new : Granule) : Granule × Bool :=
  if opr = 0 then (overlay m old new, false)
  else if 4 ≤ opr then (overlay m old (foldBits opr old new), false)
  else
    let sz := tySize ty
    let w := 8 * sz
    let n := 32 / sz
    let rs := (List.range n).map (fun i =>
      let o := (old.toNat >>> (w * i)) % 2 ^ w
      let u := (new.toNat >>> (w * i)) % 2 ^ w
      if bit m (sz * i) then foldElem opr ty o u else (o, false))
    (BitVec.ofNat 256 (packNat w n (fun i => (rs.getD i (0, false)).1)), rs.any (·.2))

/-- apply(v, record) of R145, and whether it was invalid. -/
def applyRec (v : Granule) (r : Rec) : Granule × Bool := foldGranule r.opr r.ty r.mask v r.payload

/-- Every byte of `b` is in `a`. -/
def maskCovers (a b : BitVec 32) : Bool := decide (b &&& ~~~ a = 0)

/-- What folding two records of one key comes to (R140). -/
inductive FoldOutcome where
  | folded (r : Rec)
  /-- no row of R140 applies -/
  | apart
  /-- a row applies, but its operation is invalid and X is set -/
  | invalid
  deriving DecidableEq, Repr, Inhabited

/-- The cores whose records stand in one that a fold results in (R168). -/
def joinPosters (a b : Rec) : List Nat := a.posters ++ b.posters.filter (fun c => !a.posters.contains c)

/-- The fold of an older and a newer record (R140). The result carries the owner of the newer one (R138). DESIGN CHOICE (log 55): where
the rules name neither, TY and X of the result are those of the newer record, and its drain interval runs from the arrival of the
older. -/
def foldRecs (a b : Rec) : FoldOutcome :=
  let keep := fun (r : Rec) => { r with
    since := a.since, quiet := false, frozen := false, deferred := a.deferred, posters := joinPosters a b,
    bad := b.bad || (a.bad && !(b.opr = 0 && maskCovers b.mask a.mask)) }
  let trap := fun (bad : Bool) (r : Rec) => if bad && b.x && !b.quiet then FoldOutcome.invalid else .folded (keep r)
  if b.opr = 0 then
    if a.opr = 0 then .folded (keep { b with mask := a.mask ||| b.mask, payload := overlay b.mask a.payload b.payload })
    else if maskCovers b.mask a.mask then .folded (keep b) else .apart
  else if a.opr = 0 then
    if maskCovers a.mask b.mask then
      let (v, bad) := applyRec a.payload b
      trap bad { b with opr := 0, mask := a.mask, payload := v }
    else .apart
  else if a.opr = b.opr ∧ a.ty = b.ty ∧ a.x = b.x then
    let both := a.mask &&& b.mask
    let (v, bad) := foldGranule b.opr b.ty both a.payload b.payload
    trap bad { b with mask := a.mask ||| b.mask, payload := overlay both (overlay a.mask b.payload a.payload) v }
  else .apart

/-- What an arrival at a chain comes to (R141). -/
inductive ChainOutcome where
  | arrived (c : List Rec)
  | full
  | invalid (dest : Granule)
  deriving DecidableEq, Repr, Inhabited

/-- The arrival of a record at a chain (R141); a chain that a region left with more than four records takes none (R172). In a merge an invalid fold with X set stops it (R143); at an arrival the
record is appended (R140). -/
def arriveChain (merging : Bool) (c : List Rec) (u : Rec) : ChainOutcome :=
  match c.getLast? with
  | none => .arrived [u]
  | some n =>
    let append := if c.length < 4 then ChainOutcome.arrived (c ++ [u]) else .full
    if 4 < c.length then .full
    else if n.frozen then append
    else match foldRecs n u with
      | .folded r => .arrived (c.dropLast ++ [r])
      | .apart => append
      | .invalid => if merging then .invalid n.payload else append

def chainOf (i : Inst) (k : Nat) : List Rec := mapGet [] i.run k
def setChain (i : Inst) (k : Nat) (c : List Rec) : Inst := { i with run := mapPut [] i.run k c }

/-- Records held by a run (R142). -/
def occupancy (i : Inst) : Nat := i.run.foldl (fun acc e => acc + e.2.length) 0

/-- Records that the run of a level holds (R12, R142). -/
def capacity (lvl : Nat) : Nat :=
  match lvl with
  | 0 => 512
  | 1 => 16384
  | 2 => 8192
  | _ => 262144

/-- Bytes that hold floor copies at a level place: 32 KiB beside a core, else its storage (R12). -/
def copyBytes (lvl : Nat) : Nat :=
  match lvl with
  | 0 => 2 ^ 15
  | 1 => 2 ^ 21
  | 2 => 3 * 2 ^ 19
  | _ => 3 * 2 ^ 24

/-- The compression attribute the region registers give a 64 KiB frame (R154). -/
def regionCmp (p : Pkg) (frame64 : Nat) : Bool :=
  let hit := fun (n : Nat) =>
    let lo := mapGet (0 : Word) p.regs.crgn (2 * n)
    let hi := mapGet (0 : Word) p.regs.crgn (2 * n + 1)
    bit lo 63 && decide (fld lo 0 36 ≤ frame64) && decide (frame64 ≤ fld hi 0 36)
  match (List.range 16).filter hit with
  | [] => false
  | n :: _ => bit (mapGet (0 : Word) p.regs.crgn (2 * n)) 62

/-- Bytes that a line's copy takes at a level place: in M1 its half of a chunk, compressed where its region is (R153). -/
def lineBytes (p : Pkg) (lvl line : Nat) (f : FloorCopy) : Nat :=
  if lvl = 1 ∧ regionCmp p (keyGran line / 512) = true then 16 * min 8 (Config.chunkUnits f.data.toNat) else 128

/-- The copies and, in M1, the records of a place fit into its storage (R12); a record takes the 64 bytes of its image (R138; log 56). -/
def copiesFit (p : Pkg) (lvl : Nat) (i : Inst) (cs : SMap FloorCopy) : Bool :=
  decide ((if lvl = 1 then 64 * occupancy i else 0) + cs.foldl (fun n e => n + lineBytes p lvl e.1 e.2) 0 ≤ copyBytes lvl)

/-- The lowest lines are evicted until a place's copies fit, which changes no result (R12, R147; log 56). -/
def evictLowest (fits : SMap FloorCopy → Bool) : SMap FloorCopy → SMap FloorCopy
  | [] => []
  | e :: rest => if fits (e :: rest) then e :: rest else evictLowest fits rest

/-- M1's copies make room for its records (R12). -/
def fitCopies (p : Pkg) : Pkg :=
  { p with insts := p.insts.map (fun e =>
      if e.1 / 4096 = 1 ∧ e.2.copies ≠ [] then (e.1, { e.2 with copies := evictLowest (copiesFit p 1 e.2) e.2.copies }) else e) }

/-- The places of a level in the package (R12). -/
def placeCount (lvl : Nat) : Nat :=
  match lvl with
  | 0 => 4096
  | 1 => 256
  | 2 => 512
  | 3 => 256
  | _ => 0

/-- The M2 slice, the M3 home and its die of a physical address (R13). -/
def sliceOf (pa : Nat) : Nat := pa / 128 % 32 ^^^ pa / 4096 % 32
def homeOf (pa : Nat) : Nat := pa / 512 % 4 * 64 + (pa / 2048 % 64 ^^^ pa / 131072 % 64)

/-- The M4 interface of a physical address, and its die (R13). -/
def interfaceOf (pa : Nat) : Nat := 4 * (pa / 8192 % 3) + pa / 2048 % 4
def interfaceDie (pa : Nat) : Nat := pa / 512 % 4

/-- The place outward of a level place for a granule: M0 is numbered by core, M1 by block, M2 by cluster * 32 + slice, M3
by die * 64 + home (R12, R13). -/
def outerPlace (lvl n g : Nat) : Nat :=
  match lvl with
  | 0 => n / 16
  | 1 => n / 16 * 32 + sliceOf (g * 32)
  | _ => homeOf (g * 32)

/-- The place on a core's path at a level for a granule. -/
def pathPlace (c lvl g : Nat) : Nat :=
  match lvl with
  | 0 => c
  | 1 => c / 16
  | 2 => c / 256 * 32 + sliceOf (g * 32)
  | _ => homeOf (g * 32)

/-- The child of a level place through which another place is reached: a core, a block, a cluster (R150). -/
def childOf (lvl n : Nat) : Nat := if lvl = 2 then n / 32 else n

/-- level(S) as a level number (R14, R163). -/
def scopeLevel (s : Nat) : Nat :=
  match s with
  | 0 => 0
  | 1 => 0
  | 2 => 1
  | 3 => 2
  | _ => 3

/-- The guard band of a line (R149). -/
def guardBand (fterm : Nat) (nl : Bool) : Nat := 3 + (if nl then 4 else 1) + fterm

/-- A horizon is live while the counter is below E + G (R150). -/
def horizonLive (p : Pkg) (now : Nat) (h : Horizon) : Bool := decide (now < h.e + guardBand p.regs.fterm h.nl)

/-- A record of a granule is deferred at a level place (R151); `child` is the source of a merge, none for a strong
operation's own records. -/
def deferredAt (p : Pkg) (now lvl n g : Nat) (child : Option Nat) : Bool :=
  match mapFind (instOf p lvl n).horizons (g / 4) with
  | none => false
  | some h => horizonLive p now h && !(match child with
      | some c => decide (c = h.sole) && !h.multi
      | none => false)

/-- The seal of a tag: one more than the keys it encrypts under, 0 for data in clear (R293, R294). A slot that is empty has no
keys: no translation leads there (R288). -/
def sealOf (p : Pkg) (tag : Nat) : Nat :=
  if tag = tagPkg then Config.packageKey.toNat + 1
  else if tag < tagPkg then (match mapFind p.keys tag with
    | some k => k.toNat + 1
    | none => 0)
  else 0

/-- The bytes that stand in device memory for a granule sealed under one seal, and what they read as under another (R294, R295). -/
def sealBytes (sl g : Nat) (v : Granule) : Granule := if sl = 0 then v else xtsEncrypt (sl - 1) g v
def unsealBytes (sl g : Nat) (c : Granule) : Granule := if sl = 0 then c else xtsDecrypt (sl - 1) g c

/-- The key of a tag was destroyed, and its slot is still empty: arrivals of the tag are refused (R304). -/
def keyKilled (p : Pkg) (tag : Nat) : Bool :=
  decide (tag < tagPkg) && decide (mapGet 0 p.keyGen tag ≠ 0) && (mapFind p.keys tag).isNone

/-- A translation of a key that has been destroyed since it was filled (R304, R305). -/
def staleKey (p : Pkg) (x : Xlat) : Bool :=
  decide (x.asid < tagPkg) && (decide (x.tag < tagPkg) && decide (x.gen ≠ mapGet 0 p.keyGen x.tag) ||
    (x.ovl.isSome && decide (x.gen ≠ mapGet 0 p.keyGen x.asid)))

/-- A granule of device memory as it is stored. -/
def dramGranule (p : Pkg) (g : Nat) : Granule :=
  BitVec.ofNat 256 (packNat 8 32 (fun i => (mapGet (0 : Byte) p.dram (g * 32 + i)).toNat))

/-- A granule of device memory read under a tag: under another than it was written under, its ciphertext decrypts to other bytes
(R294, R295). -/
def floorRead (p : Pkg) (g tag : Nat) : Granule :=
  let v := dramGranule p g
  let sl := mapGet 0 p.seals g
  if sl = sealOf p tag then v else unsealBytes (sealOf p tag) g (sealBytes sl g v)

/-- Writes the bytes of a granule from byte i on. -/
def dramWrite (cells : List Host.Cell) (a : Nat) (bs : List Byte) : List Host.Cell :=
  match bs with
  | [] => cells
  | b :: rest => dramWrite (mapPut 0 cells a b) (a + 1) rest

/-- Writes a granule of device memory under a tag (R294, R295). An error in it is gone: only a record that covers all of a granule
with an error is written to it (R326, R327). -/
def floorWrite (p : Pkg) (g tag : Nat) (v : Granule) : Pkg :=
  { p with dram := dramWrite p.dram (g * 32) (leBytes 32 v.toNat), seals := mapPut 0 p.seals g (sealOf p tag),
           badGran := p.badGran.filter (fun x => decide (x ≠ g)) }

/-- Granule i of a line. -/
def lineGranule (v : BitVec 1024) (g : Nat) : Granule := BitVec.ofNat 256 (v.toNat >>> (256 * (g % 4)))
def setLineGranule (v : BitVec 1024) (g : Nat) (x : Granule) : BitVec 1024 := setFld v (256 * (g % 4)) 256 x.toNat

/-- A place's floor copy of a line, where it is present and has not expired (R145, R148). -/
def copyAt (p : Pkg) (now lvl n k : Nat) : Option FloorCopy :=
  match mapFind (instOf p lvl n).copies (lineKey k) with
  | none => none
  | some f => (match f.expiry with
    | none => some f
    | some e => if e ≤ now then none else some f)

/-- A record that writes the whole granule. -/
def wholeGranule (r : Rec) : Bool := decide (r.opr = 0) && decide (r.mask = BitVec.allOnes 32)

/-- Whether a value that held an error holds one after a record is applied to it (R326, R327). -/
def recLeavesBad (was : Bool) (r : Rec) : Bool := r.bad || (was && !wholeGranule r)

/-- The source's copy of the line takes a record that is published from it, in the same instant (R151). -/
def updateCopy (p : Pkg) (lvl n k : Nat) (r : Rec) : Pkg :=
  let i := instOf p lvl n
  match mapFind i.copies (lineKey k) with
  | none => p
  | some f =>
    let v := (applyRec (lineGranule f.data (keyGran k)) r).1
    let f' : FloorCopy := { f with
      data := setLineGranule f.data (keyGran k) v
      bad := setFld f.bad (keyGran k % 4) 1 (b2n (recLeavesBad (bit f.bad (keyGran k % 4)) r)) }
    setInst p lvl n { i with copies := mapInsert i.copies (lineKey k) f' }

/-- Why a publication does not take place. -/
inductive Block where
  /-- a live horizon (R151) -/
  | deferred
  /-- the run is stalled (R143) -/
  | stalled
  /-- an invalid fold with X set, or an error in a record or the floor value that a merge reads: the destination value, the place
  whose run it stalls, and whether it is such an error (R143, R322, R326) -/
  | invalid (u : Rec) (dest : Granule) (lvl n : Nat) (mc : Bool)
  deriving DecidableEq, Repr, Inhabited

/-- The bytes of the newest record of a chain, which a fold would write over. -/
def payloadOf (c : List Rec) : Granule := (c.getLast?.map (·.payload)).getD 0

/-- A merge that folds a record into a chain meets an error in its newest record (R326). -/
def meetsBad (c : List Rec) (u : Rec) : Bool :=
  match c.getLast? with
  | some a => a.bad && !a.frozen && !(u.opr = 0 && maskCovers u.mask a.mask) && (match foldRecs a u with
    | .apart => false
    | _ => true)
  | none => false

/-- The array of a level place is in retention mode: an access to it waits for the exit (R331; log 42). -/
def retainedAt (p : Pkg) (lvl n : Nat) : Bool := p.retained.contains (lvl * 4096 + n)

/-- Publishes one record of a key from a level place to the next place outward (R143, R144, R151). A destination chain
that would exceed four records first has its oldest record merged outward, and all of them where a region left more than
four (R172); a destination run that is full first has the records of its lowest key merged outward (R142; log 30). -/
def sendOut : Nat → Pkg → Nat → Nat → Nat → Nat → Rec → Except Block Pkg
  | 0, _, _, _, _, _, _ => .error .deferred
  | fuel + 1, p, now, lvl, n, k, r =>
    let g := keyGran k
    if (instOf p lvl n).stall.isSome || retainedAt p lvl n then .error .stalled
    else if 3 ≤ lvl then
      let old := floorRead p g (keyTag k)
      let (v, bad) := applyRec old r
      if r.bad || (p.badGran.contains g && !wholeGranule r) then .error (.invalid r old lvl n true)
      else if bad && r.x && !r.quiet then .error (.invalid r old lvl n false)
      else .ok (updateCopy (floorWrite p g (keyTag k) v) lvl n k r)
    else
      let n' := outerPlace lvl n g
      if deferredAt p now (lvl + 1) n' g (some (childOf lvl n)) then .error .deferred
      else if retainedAt p (lvl + 1) n' then .error .stalled
      else
        let d := instOf p (lvl + 1) n'
        let ch := chainOf d k
        let u := { r with since := now, frozen := false, deferred := false }
        let outward := fun (key : Nat) (rs : List Rec) => rs.foldl (fun (acc : Except Block Pkg) o => match acc with
          | .error e => .error e
          | .ok q => sendOut fuel q now (lvl + 1) n' key o) (.ok p)
        let place := fun (q : Pkg) (c : List Rec) =>
          Except.ok (ε := Block) (updateCopy (setInst q (lvl + 1) n' (setChain (instOf q (lvl + 1) n') k c)) lvl n k r)
        if r.bad || meetsBad ch u then .error (.invalid r (payloadOf ch) lvl n true)
        else match arriveChain true ch u with
        | .invalid v => .error (.invalid r v lvl n false)
        | .arrived c =>
          if c.length ≤ ch.length ∨ occupancy d < capacity (lvl + 1) then place p c
          else match d.run with
            | [] => place p c
            | (k0, c0) :: _ =>
              match outward k0 c0 with
              | .error e => .error e
              | .ok p1 =>
                let p2 := setInst p1 (lvl + 1) n' (setChain (instOf p1 (lvl + 1) n') k0 [])
                place p2 (if k0 = k then [u] else c)
        | .full =>
          let m := if 4 < ch.length then ch.length else 1
          match outward k (ch.take m) with
          | .error e => .error e
          | .ok p1 => place p1 (ch.drop m ++ [u])

/-- Publishes records of one key in order. -/
def sendAll (p : Pkg) (now lvl n k : Nat) (rs : List Rec) : Except Block Pkg :=
  match rs with
  | [] => .ok p
  | r :: rest =>
    match sendOut 4 p now lvl n k r with
    | .error e => .error e
    | .ok p1 => sendAll p1 now lvl n k rest

/-- A single-key merge: every record of the key leaves the place outward, or none does (R143). -/
def mergeKey (p : Pkg) (now lvl n k : Nat) : Except Block Pkg :=
  let c := chainOf (instOf p lvl n) k
  if c = [] then .ok p
  else
    match sendAll p now lvl n k c with
    | .error e => .error e
    | .ok p1 => .ok (setInst p1 lvl n (setChain (instOf p1 lvl n) k []))

/-- The frozen records of a key leave, the others stay (R143). -/
def mergeFrozen (p : Pkg) (now lvl n k : Nat) : Except Block Pkg :=
  let c := chainOf (instOf p lvl n) k
  match sendAll p now lvl n k (c.filter (·.frozen)) with
  | .error e => .error e
  | .ok p1 => .ok (setInst p1 lvl n (setChain (instOf p1 lvl n) k (c.filter (fun r => !r.frozen))))

/-- The chain of single-key merges that brings the records of a place at `lvl` to level `top`. -/
def mergeUpTo : Nat → Pkg → Nat → Nat → Nat → Nat → Except Block Pkg
  | 0, p, _, _, _, _ => .ok p
  | steps + 1, p, now, c, lvl, k =>
    match mergeKey p now lvl (pathPlace c lvl (keyGran k)) k with
    | .error e => .error e
    | .ok p1 => mergeUpTo steps p1 now c (lvl + 1) k

/-- The key push at a level for a key on a core's path, oldest place first (R166); `lvl` counts down. -/
def keyPushFrom : Nat → Pkg → Nat → Nat → Nat → Nat → Except Block Pkg
  | 0, p, _, _, _, _ => .ok p
  | lvl + 1, p, now, c, top, k =>
    match mergeUpTo (top - lvl) p now c lvl k with
    | .error e => .error e
    | .ok p1 => keyPushFrom lvl p1 now c top k

/-- The key push at scope S (R166). -/
def keyPush (p : Pkg) (now c s k : Nat) : Except Block Pkg := keyPushFrom (scopeLevel s) p now c (scopeLevel s) k

def applyChain (v : Granule × Bool) (c : List Rec) : Granule × Bool :=
  c.foldl (fun acc r => let (x, bad) := applyRec acc.1 r; (x, acc.2 || bad)) v

/-- The levels from `lvl` to M3 that a probe combines, innermost first. -/
def levelsFrom (lvl : Nat) : List Nat := (List.range 4).filter (fun l => lvl ≤ l)

/-- combine over a core's path from level `lvl` outward (R145, R167): the value, whether an operation was invalid, the
level that the floor copy came from (4 for M4) and that copy's expiry. -/
def combineFrom (p : Pkg) (now c lvl k : Nat) : Granule × Bool × Nat × Option Nat :=
  let g := keyGran k
  let start := match (levelsFrom lvl).filterMap (fun l =>
      (copyAt p now l (pathPlace c l g) k).map (fun f => (l, f))) with
    | [] => (4, floorRead p g (keyTag k), none)
    | (l, f) :: _ => (l, lineGranule f.data g, f.expiry)
  let (j, v0, ex) := start
  let (v, bad) := ((levelsFrom lvl).filter (fun l => l ≤ j)).foldr
    (fun l acc => applyChain acc (chainOf (instOf p l (pathPlace c l g)) k)) (v0, false)
  (v, bad, j, ex)

/-- A probe of combine comes to an array in retention mode, for whose exit it waits (R331). -/
def readWaits (p : Pkg) (now c lvl k : Nat) : Bool :=
  (levelsFrom lvl).any (fun l => decide (l ≤ (combineFrom p now c lvl k).2.2.1) && retainedAt p l (pathPlace c l (keyGran k)))

/-- What the probes of combine meet an error in: a record that is applied, the floor copy or the value of M4, unless a whole granule is
written over it (R326). -/
def combineBad (p : Pkg) (now c lvl k : Nat) : Bool :=
  let g := keyGran k
  let (j, b0) := match (levelsFrom lvl).filterMap (fun l =>
      (copyAt p now l (pathPlace c l g) k).map (fun f => (l, bit f.bad (g % 4)))) with
    | [] => (4, p.badGran.contains g)
    | (l, b) :: _ => (l, b)
  ((levelsFrom lvl).filter (fun l => l ≤ j)).foldr
    (fun l acc => (chainOf (instOf p l (pathPlace c l g)) k).foldl recLeavesBad acc) b0

/-- The lease of an attribute in ticks; none for PINNED and RO (R148). -/
def leaseTicks (lease : Nat) : Option Nat :=
  match lease with
  | 0 => some 4000
  | 1 => some 1000
  | _ => none

/-- Records a copy that expires at `e` in the horizon of a place (R150). -/
def recordHorizon (p : Pkg) (now lvl n line e child : Nat) (nl : Bool) : Pkg :=
  let i := instOf p lvl n
  let h := match mapFind i.horizons line with
    | none => ⟨e, nl, child, false⟩
    | some h =>
      if horizonLive p now h then ⟨max h.e e, h.nl || nl, h.sole, h.multi || decide (h.sole ≠ child)⟩
      else ⟨e, nl, child, false⟩
  setInst p lvl n { i with horizons := mapInsert i.horizons line h }

/-- The copies of a place with one more line: where they do not fit, the lowest lines are evicted, which changes no result (R12, R147;
log 56). -/
def addCopy (p : Pkg) (lvl : Nat) (i : Inst) (line : Nat) (f : FloorCopy) : SMap FloorCopy :=
  mapInsert (evictLowest (fun cs => copiesFit p lvl i (mapInsert cs line f)) i.copies) line f

/-- Installs a floor copy of the line of a key at one level of a core's path (R147, R148). -/
def installCopy (p : Pkg) (now c lvl lease k : Nat) : Pkg :=
  let g := keyGran k
  let line := g / 4
  let lineKeys := (List.range 4).map (fun i => runKey (line * 4 + i) (keyTag k))
  let views := lineKeys.map (fun q => combineFrom p now c (lvl + 1) q)
  let data := BitVec.ofNat 1024 (packNat 256 4 (fun i => (views.getD i (0, false, 4, none)).1.toNat))
  let bad := BitVec.ofNat 4 (packNat 1 4 (fun i => b2n (combineBad p now c (lvl + 1) (lineKeys.getD i 0))))
  let outer := (views.getD 0 (0, false, 4, none)).2.2.2
  let e := match leaseTicks lease, outer with
    | some t, some x => some (min (now + t) x)
    | some t, none => some (now + t)
    | none, _ => none
  let n := pathPlace c lvl g
  let i := instOf p lvl n
  let p1 := setInst p lvl n { i with copies := addCopy p lvl i (lineKey k) ⟨data, e, bad⟩ }
  match e with
  | none => p1
  | some e =>
    ((List.range 4).filter (fun l => lvl < l)).foldl (fun q l =>
      recordHorizon q now l (pathPlace c l g) line e
        (childOf (l - 1) (pathPlace c (l - 1) g)) (decide (lease = 0))) p1

/-- A strong operation of a core has put a record of a key in at `lvl`: the copies of its line that the core would find inside
that level are evicted, so that its loads see the record (R147, R165; log 26). -/
def evictInner (p : Pkg) (c lvl k : Nat) : Pkg :=
  (List.range lvl).foldl (fun q l =>
    let n := pathPlace c l (keyGran k)
    let i := instOf q l n
    match mapFind i.copies (lineKey k) with
    | none => q
    | some _ => setInst q l n { i with copies := mapErase i.copies (lineKey k) }) p

/-- Installs the floor copies that a step's choice allows at the levels inside the one that answered (R147). -/
def installCopies (p : Pkg) (cx : Cx) (c lvl top lease : Nat) (long : Bool) (k : Nat) : Pkg :=
  let j := (combineFrom p cx.now c lvl k).2.2.1
  ((levelsFrom lvl).reverse.filter (fun l =>
    decide (l < j) && decide (l ≤ top) && bit cx.install l && !(long && decide (l = 0)))).foldl
      (fun q l => installCopy q cx.now c l lease k) p

/-- The physical granule and tag of a virtual address under a translation: the floor frame (R293). -/
def floorKey (x : Xlat) (va : Nat) : Nat := runKey ((x.frame + (va - x.va)) / 32) x.tag

/-- A shipped region, with what decides its turn: core, slot, its level, place, line and arrival (R173). One of package n of the pod
stands under the core number 4,096 + n. A JOIN comes to its instance as a region does (R268). -/
structure Shipped where
  core : Nat
  slot : Nat
  lvl : Nat
  place : Nat
  line : Nat
  since : Nat
  deriving DecidableEq, Repr, Inhabited

def shippedOf (c n : Nat) (s : Slot) : Option Shipped :=
  match s.hold, s.region with
  | .region since, some r =>
    let g := keyGran (floorKey r.xl r.line)
    some ⟨c, n, scopeLevel r.scope, pathPlace c (scopeLevel r.scope) g, g / 4, since⟩
  | .joins since lvl key _ _, _ => some ⟨c, n, lvl, pathPlace c lvl (keyGran key), keyGran key / 4, since⟩
  | _, _ => none

/-- The regions that wait at their instances. -/
def shippedAll (p : Pkg) : List Shipped :=
  p.cores.flatMap (fun e => e.2.part.slots.filterMap (fun x => shippedOf e.1 x.1 x.2)) ++
    p.orphans.filterMap (fun o => shippedOf o.1 o.2.1 o.2.2) ++ p.farRegions.filterMap (fun x => shippedOf (4096 + x.pkg) x.slot x.sl)

/-- The input port of a core's regions at a level instance; at an M3 home those of other packages share the remote-agent port (R173). -/
def regionPort (lvl c n : Nat) : Nat :=
  match lvl with
  | 0 => n
  | 1 => c % 16
  | 2 => c / 16 % 16
  | _ => if 4096 ≤ c then 16 else c / 256

/-- A region comes before another: it reached the instance earlier, or in the same tick and first from the pointer. At M0 the pointer
never decides: regions come in the order in which their AREs issued (R173). -/
def shippedBefore (ptr : Nat) (a b : Shipped) : Bool :=
  decide (a.since < b.since) || (decide (a.since = b.since) &&
    decide ((regionPort a.lvl a.core a.slot + 17 - ptr) % 17 < (regionPort b.lvl b.core b.slot + 17 - ptr) % 17))

/-- A region waits at an instance for a line. -/
def waitsAt (lvl place line : Nat) (a : Shipped) : Bool :=
  decide (a.lvl = lvl) && decide (a.place = place) && decide (a.line = line)

/-- A strong store that has come to the instance of a region before it waits there for its line (R172). -/
def storeWaits (me : Shipped) (c : Nat) (s : Slot) : Bool :=
  match s.hold with
  | .strong sc since recs => decide (since < me.since) && decide (scopeLevel sc = me.lvl) && recs.any (fun r =>
      decide (pathPlace c me.lvl (keyGran r.1) = me.place) && decide (keyGran r.1 / 4 = me.line))
  | _ => false

def storeAhead (p : Pkg) (me : Shipped) : Bool :=
  p.cores.any (fun e => e.2.part.slots.any (fun x => storeWaits me e.1 x.2)) || p.orphans.any (fun o => storeWaits me o.1 o.2.2)

/-- Another region, or a strong store, waits at an instance for a line before this region (R172, R173). -/
def regionAhead (p : Pkg) (me : Shipped) : Bool :=
  (shippedAll p).any (fun a => waitsAt me.lvl me.place me.line a && decide (a ≠ me) &&
    shippedBefore (instOf p me.lvl me.place).ptr a me) || storeAhead p me

/-- A strong access to a line at an instance waits behind the regions that wait there for it: those that had come when it did, where it
came at a tick before (R172). -/
def strongBehind (p : Pkg) (lvl place line : Nat) (since : Option Nat) : Bool :=
  (shippedAll p).any (fun a => waitsAt lvl place line a && (match since with
    | some t => decide (a.since ≤ t)
    | none => true))

/-- A region waits at an instance of level `lvl` on a core's path for the line of one of some keys (R172). -/
def behindRegion (p : Pkg) (c lvl : Nat) (keys : List Nat) : Bool :=
  keys.any (fun k => strongBehind p lvl (pathPlace c lvl (keyGran k)) (keyGran k / 4) none)

end Sys2Proof.Machine
end

