-- ==== Sys2Proof/Machine/Ports.lean ====
section
/-!
DEFINITION. What the hardware writes for the outside: writes at M3, MSI-X vectors (R354), reports to the package fault
queue (R314), health events (R332); asynchronous traps raised to a team (R250, R310); the stall of a run (R143, R322).
-/
namespace Sys2Proof.Machine

/-- A record of the hardware's own: OVW of I8, no owner. -/
def portRec (p : Pkg) (now : Nat) (mask : BitVec 32) (v : Granule) : Rec :=
  { opr := 0, ty := 1, x := false, mask := mask, payload := v, asid := 0, core := 0, slot := 0, team := 0, iov := false,
    ioff := 0, seq := 0, pkg := p.regs.pkgnum, since := now, quiet := false, frozen := false, deferred := false, posters := [],
    bad := false }

/-- Inserts a record at a level place as the arrival of a strong operation (R141, R166), subject to deferral (R151). A run that is
full first has the records of its lowest key merged outward (R142; log 30); a stalled run takes no more than it holds (R143). -/
def insertAt (p : Pkg) (now lvl n k : Nat) (u : Rec) : Except Block Pkg :=
  if 0 < lvl ∧ deferredAt p now lvl n (keyGran k) none then .error .deferred
  else if retainedAt p lvl n then .error .stalled
  else
    let i := instOf p lvl n
    let u := { u with since := now }
    match arriveChain false (chainOf i k) u with
    | .arrived c =>
      if c.length ≤ (chainOf i k).length ∨ occupancy i < capacity lvl then .ok (setInst p lvl n (setChain i k c))
      else match i.run with
        | [] => .ok (setInst p lvl n (setChain i k c))
        | (k0, _) :: _ =>
          match mergeKey p now lvl n k0 with
          | .error e => .error e
          | .ok p1 => .ok (setInst p1 lvl n (setChain (instOf p1 lvl n) k (if k0 = k then [u] else c)))
    | _ =>
      match mergeKey p now lvl n k with
      | .error e => .error e
      | .ok p1 => .ok (setInst p1 lvl n (setChain (instOf p1 lvl n) k [u]))

/-- Masked: bit 0 of the entry's vector control word (R354). -/
def vecMasked (p : Pkg) (v : Nat) : Bool := bit (mapGet msixEntryReset p.regs.msix v) 96

/-- A vector whose data is performed: one message, or the pending bit where it is masked (R354). -/
def raiseVec (p : Pkg) (v : Nat) : Pkg :=
  if vecMasked p v then { p with regs := { p.regs with pba := p.regs.pba ||| BitVec.ofNat 64 (2 ^ v) } }
  else { p with regs := { p.regs with sent := p.regs.sent ++ [v] } }

/-- Performs the waiting port writes in order, as far as no deferral, no waiting region and no full chain holds one (R172, R358). A
write under a key that has been destroyed is dropped (R304). -/
def flushWrites (now : Nat) (ws : List PortWrite) (p : Pkg) : Pkg :=
  match ws with
  | [] => { p with portWrites := [] }
  | w :: rest =>
    let place := homeOf (keyGran w.key * 32)
    let out := if keyKilled p (keyTag w.key) then Except.ok p
      else if strongBehind p 3 place (keyGran w.key / 4) none then Except.error Block.deferred
      else insertAt p now 3 place w.key w.u
    match out with
    | .error _ => { p with portWrites := w :: rest }
    | .ok p1 =>
      let r := p1.regs
      let r := match w.vec with
        | some v => { r with due := r.due ++ [v] }
        | none => r
      let r := match w.adv with
        | 1 => { r with fqhead := (r.fqhead + 1) % 4096 }
        | 2 => { r with elhead := (r.elhead + 1) % 65536 }
        | _ => r
      flushWrites now rest { p1 with regs := r }

def flushPorts (p : Pkg) (now : Nat) : Pkg := if p.portWrites = [] then p else flushWrites now p.portWrites p

/-- Adds a write of the hardware's own to those to be performed at M3, and performs it if nothing holds it. -/
def portWrite (p : Pkg) (now key : Nat) (u : Rec) (vec : Option Nat) (adv : Nat) : Pkg :=
  flushPorts { p with portWrites := p.portWrites ++ [⟨key, u, vec, adv⟩] } now

/-- A 256-bit word put together from fields: width and value, lowest first. -/
def packFields (l : List (Nat × Nat)) : Nat := l.foldr (fun f acc => acc * 2 ^ f.1 + f.2 % 2 ^ f.1) 0

/-- What a report to the supervisor says (R314). -/
structure Report where
  cause : Nat
  sub : Nat
  tval : Word
  tpc : Nat
  orig : Nat
  nested : Bool
  teamEnd : Bool
  slot : Nat
  asid : Nat
  core : Nat
  deriving DecidableEq, Repr, Inhabited

/-- Writes a report to the package fault queue, or counts it in FQOVF (R314). -/
def report (p : Pkg) (now : Nat) (r : Report) : Pkg :=
  let pending := (p.portWrites.filter (fun w => w.adv = 1)).length
  let idx := (p.regs.fqhead + pending) % 4096
  if (idx + 1) % 4096 = p.regs.fqtail then { p with regs := { p.regs with fqovf := p.regs.fqovf + 1 } }
  else
    let img := packFields [(77, 0), (12, r.core), (9, r.asid), (4, r.slot), (1, b2n r.teamEnd), (1, b2n r.nested),
      (8, r.cause), (8, r.sub), (8, r.orig), (32, r.tpc), (32, r.tval.toNat), (64, now)]
    let g := fld p.regs.fqbase 17 35 * 2 ^ 17 / 32 + idx
    portWrite p now (runKey g tagNone) (portRec p now (BitVec.allOnes 32) (BitVec.ofNat 256 img)) (some 0) 1

/-- DATA of an event: its first item in bits 63:0, its second in bits 127:64. The table names the items and no places (R332): DESIGN
CHOICE (log 15). -/
def eventData (data : List Nat) : Nat := packFields [(64, data.getD 0 0), (64, data.getD 1 0)]

/-- Writes a health event, or counts it in ELOVF; its source's sequence number advances either way (R332). -/
def logEvent (p : Pkg) (now code src : Nat) (data : List Nat) : Pkg :=
  let sq : BitVec 32 := mapGet 0 p.evSeq src
  let p : Pkg := { p with evSeq := mapPut 0 p.evSeq src (sq + 1) }
  let pending := (p.portWrites.filter (fun w => w.adv = 2)).length
  let idx := (p.regs.elhead + pending) % 65536
  if decide ((idx + 1) % 65536 = p.regs.eltail) then { p with regs := { p.regs with elovf := p.regs.elovf + 1 } }
  else
    let img := packFields [(128, eventData data), (16, src), (16, code), (32, sq.toNat), (64, now)]
    let g := fld p.regs.elbase 21 31 * 2 ^ 21 / 32 + idx
    portWrite p now (runKey g tagNone) (portRec p now (BitVec.allOnes 32) (BitVec.ofNat 256 img)) (some 1) 2

/-- The event source number of a core: die, unit kind 0, number within the die (R332 names no kinds; log 15). -/
def coreSource (c : Nat) : Nat := dieOf c * 2 ^ 14 + c % 1024

/-- The event source of the array of a level place, 4,096 times the level and the place: its die, a unit kind of its level, its number on the
die (R332 names no kinds; log 15). -/
def arraySource (n : Nat) : Nat :=
  let at' := n % 4096
  let (die, unit) := match n / 4096 with
    | 0 => (at' / 1024, at' % 1024)
    | 1 => (at' / 64, at' % 64)
    | 2 => (at' / 128, at' % 128)
    | _ => (at' / 64, at' % 64)
  die % 4 * 2 ^ 14 + (5 + min 3 (n / 4096)) * 2 ^ 10 + unit

/-- An uncorrectable error has been detected (R332): in what a MACHINE_CHECK of SUB `sub` names, at an offset. -/
def logDetected (p : Pkg) (now src sub offset : Nat) : Pkg :=
  logEvent p now 0x0002 src [(Config.arrayIdent sub offset).toNat, offset]

/-- An entry of a core's replay log (R334): in replay mode, until the log is full. DESIGN CHOICE (log 73): a log whose RPLCAP takes it past the
end of device memory is written there without effect on the memory that exists. -/
def logReceive (p : Pkg) (now c : Nat) (src : BitVec 22) (detail : List Nat) : Pkg :=
  let co := coreOf p c
  if bit co.rplctl 63 = false ∨ bit co.rplctl 62 = true then p
  else if co.rplcap ≤ co.rplcnt then updCore p c (fun x => { x with rplctl := setFld x.rplctl 62 1 1 })
  else
    let n := co.rplcnt
    let img := packFields [(42, (Config.replayDetail detail).toNat), (22, src.toNat), (64, n)]
    let a := fld co.rplctl 12 40 * 4096 + 16 * n
    let sh := a % 32
    let q := updCore p c (fun x => { x with rplcnt := n + 1, rplctl := if n + 1 = co.rplcap then setFld x.rplctl 62 1 1 else x.rplctl })
    portWrite q now (runKey (a / 32) tagNone)
      (portRec q now (BitVec.ofNat 32 (65535 * 2 ^ sh)) (BitVec.ofNat 256 (img * 2 ^ (8 * sh)))) none 0

/-- A core receives what memory answers it for some granules or pages, one message each (R334). -/
def logReads (p : Pkg) (now c kind : Nat) (gs : List Nat) : Pkg :=
  gs.foldl (fun q g => logReceive q now c (Config.replaySource [g]) [kind, g]) p

/-- What a message holds, as numbers. -/
def bodyNats : MsgBody → List Nat
  | .load off size _ req lane => [0, off, size, req, lane]
  | .store off size v uid => [1, off, size, v.toNat, uid]
  | .reduce els ty opr seq uid => [2, ty, opr, (seq.getD 0).toNat, uid] ++ els.flatMap (fun x => [x.1, x.2.toNat])
  | .takeFull off size _ d req => [3, off, size, d, req]
  | .putEmpty off size v d req uid => [4, off, size, v.toNat, d, req, uid]
  | .amsg h x1 x2 x3 x4 uid => [5, h, x1.toNat, x2.toNat, x3.toNat, x4.toNat, uid]
  | .mmar t a b cap fa fb c slot ctx ioff uid => [6, t, a, b, cap.toNat, b2n fa, b2n fb, b2n c, slot, ctx, ioff, uid]
  | .wake slot uid => [7, slot, uid]
  | .arrive off n uid => [8, off, n, uid]
  | .addBytes off n narr ch ident => [9, off, n, b2n narr, ch, ident]
  | .countDone off n narr failed => [10, off, n, b2n narr, b2n failed]
  | .readDone req lane v => [11, req, lane, v]
  | .readRefused req lane cause => [12, req, lane, cause]
  | .timeout req uid full => [13, req, uid, b2n full]
  | .ack uid => [14, uid]
  | .refusal uid cause code => [15, uid, cause, code.toNat]
  | .addOk off n narr ch ident => [16, off, n, b2n narr, ch, ident]
  | .addRefused ch ident => [17, ch, ident]
  | .podRound asid gtag lead round rank => [19, asid, gtag.toNat, lead, round, rank]
  | .memValue pa v => [20, pa, v.toNat]
  | .memDone pa => [21, pa]
  | .regionDone sregs preds nv => [22, b2n nv] ++ sregs.map BitVec.toNat ++ preds.map BitVec.toNat
  | .regionTrap cause sub at' => [23, cause, sub, at']

/-- The NI of a core receives a message of a core of a package (R328, R334). -/
def receive (p : Pkg) (now c pkg src : Nat) (b : MsgBody) : Pkg :=
  logReceive (updCore p c (fun x => { x with alive := now })) now c (BitVec.ofNat 22 (src * 1024 + pkg)) (bodyNats b)

/-- The team has a live control context (R250). -/
def controlLive (k : Part) : Bool := (slotOf k 0).live && decide ((slotOf k 0).kind = .control)

/-- The %TPC a report of an asynchronous trap without a control context carries is 0. -/
def asyncReport (c asid : Nat) (t : Trap) : Report :=
  { cause := t.cause, sub := t.sub, tval := t.tval, tpc := 0, orig := 0, nested := false, teamEnd := false, slot := 0,
    asid := asid, core := c }

/-- Raises an asynchronous trap to the team of a core: pending for its control context, or reported to the supervisor
where there is none (R250, R310). -/
def raiseAsync (p : Pkg) (now c : Nat) (t : Trap) : Pkg :=
  let k := partOf p c
  if controlLive k then setPart p c { k with pend := k.pend ++ [t] }
  else report p now (asyncReport c (asidOf k) t)

/-- The merge fault of a record stands with the team that posted it, if that team still exists (R322). -/
def ownerTeamLives (p : Pkg) (u : Rec) : Bool :=
  match (partOf p u.core).team with
  | some t => decide (t.no % 256 = u.team) && decide (t.asid = u.asid) && u.iov && (coreOf p u.core).fenced.isNone
  | none => false

def mergeFaultTrap (f : MergeFault) : Trap :=
  { cause := 0x22, sub := if f.mc then 2 else 1, jv := false, jent := 0, tval := f.fid.zeroExtend 64, tinfo := 0,
    body := none }

/-- Queues the record of a stalled run for its owner's core, if its queue of 16 has room, and raises MERGE_FAULT (R322). -/
def queueFault (p : Pkg) (now lvl n : Nat) (f : MergeFault) : Pkg :=
  let i := instOf p lvl n
  if ownerTeamLives p f.u then
    if (coreOf p f.u.core).mfq.length < 16 then
      let p1 := setInst p lvl n { i with stall := some ⟨f, true⟩ }
      let p2 := updCore p1 f.u.core (fun c => { c with mfq := c.mfq ++ [f] })
      raiseAsync p2 now f.u.core (mergeFaultTrap f)
    else setInst p lvl n { i with stall := some ⟨f, false⟩ }
  else
    let p1 := setInst p lvl n { i with stall := some ⟨f, true⟩ }
    let r := asyncReport f.u.core f.u.asid (mergeFaultTrap f)
    report p1 now { r with tpc := f.u.ioff, slot := f.u.slot }

/-- Stalled runs whose record waits for a place in a core's queue get one, if there is room (R322). -/
def queueWaiting (p : Pkg) (now c : Nat) : Pkg :=
  p.insts.foldl (fun q e => match e.2.stall with
    | some st => if st.queued = false ∧ st.fault.u.core = c then queueFault q now (e.1 / 4096) (e.1 % 4096) st.fault else q
    | none => q) p

/-- A merge met an invalid fold with X set at a key, or an error in what it reads there (`mc`, R326): its source run stalls (R143),
with an identifier that is never 0; the key's records stay as they are until the fault is resolved. -/
def stallRun (p : Pkg) (now lvl n k : Nat) (u : Rec) (dest : Granule) (mc : Bool) : Pkg :=
  let f : MergeFault := ⟨p.nextFid, { u with frozen := true }, k, dest, lvl, n, mc⟩
  let p := if mc then logDetected p now (arraySource (lvl * 4096 + n)) 1 (32 * keyGran k) else p
  let nf := if p.nextFid + 1 = 0 then 1 else p.nextFid + 1
  let i := instOf p lvl n
  let p1 := setInst p lvl n (setChain i k ((chainOf i k).map (fun r => { r with frozen := true })))
  queueFault { p1 with nextFid := nf } now lvl n f

/-- A publication that may stall: the state after it, and whether it took place. -/
def settleBlock (p : Pkg) (now k : Nat) (r : Except Block Pkg) : Pkg × Bool :=
  match r with
  | .ok p1 => (p1, true)
  | .error (.invalid u dest lvl n mc) => (stallRun p now lvl n k u dest mc, false)
  | .error _ => (p, false)

/-- A key push by a core at scope S: the state after it and whether every record is published (R166). -/
def pushKey (p : Pkg) (now c s k : Nat) : Pkg × Bool := settleBlock p now k (keyPush p now c s k)

/-- Key pushes in order, as far as none is held (R166, R168, R195). -/
def pushKeys (p : Pkg) (now c s : Nat) (ks : List Nat) : Pkg × Bool :=
  match ks with
  | [] => (p, true)
  | k :: rest =>
    let (p1, ok) := pushKey p now c s k
    let (p2, ok2) := pushKeys p1 now c s rest
    (p2, ok && ok2)

/-- A list with each number once, in the order of the first. -/
def dedupNat (l : List Nat) : List Nat := l.foldl (fun acc x => if acc.contains x then acc else acc ++ [x]) []

/-- A key is left out of a publication (R143). -/
def leaveOut (p : Pkg) (lvl n k : Nat) (defer : Bool) : Pkg :=
  let i := instOf p lvl n
  setInst p lvl n (setChain i k ((chainOf i k).map (fun r =>
    if r.frozen then { r with frozen := false, deferred := r.deferred || defer } else r)))

/-- The keys that a merge has taken, in increasing order (R143): the state after them, and whether the run stalled. -/
def publishKeys (now lvl n : Nat) : List Nat → Pkg → Pkg × Bool
  | [], p => (p, false)
  | k :: rest, p =>
    match mergeFrozen p now lvl n k with
    | .ok p1 => publishKeys now lvl n rest p1
    | .error .deferred => publishKeys now lvl n rest (leaveOut p lvl n k true)
    | .error .stalled => publishKeys now lvl n rest (leaveOut p lvl n k false)
    | .error (.invalid u dest l m mc) =>
      if l = lvl ∧ m = n then (stallRun p now l m k u dest mc, true)
      else publishKeys now lvl n rest (leaveOut (stallRun p now l m k u dest mc) lvl n k false)

/-- The merge of a run is over. -/
def endMerge (p : Pkg) (lvl n : Nat) : Pkg :=
  let i := instOf p lvl n
  setInst p lvl n { i with merging := false, run := i.run.map (fun e => (e.1, e.2.map (fun r => { r with frozen := false }))) }

/-- The keys under which a run holds records that a core posted, alone or folded into one of another owner (R168). -/
def postedKeys (p : Pkg) (c : Nat) (i : Inst) : List Nat :=
  (i.run.filter (fun e => e.2.any (fun r => r.posters.contains c && decide (r.pkg = p.regs.pkgnum)))).map (·.1)

/-- The places of a level on a core's path (R12). -/
def pathPlaces (c lvl : Nat) : List Nat :=
  match lvl with
  | 0 => [c]
  | 1 => [blockOf c]
  | 2 => (List.range 32).map (fun s => clusterNo c * 32 + s)
  | _ => []

/-- One merge of some keys out of a place (R143, R336): it takes all their records, and publishes them in increasing key order as far as
it does not stall. The state after it, and whether no record of theirs is left. -/
def mergeKeys (p : Pkg) (now lvl n : Nat) (keys : List Nat) : Pkg × Bool :=
  let i := instOf p lvl n
  if keys = [] then (p, true)
  else if i.stall.isSome then (p, false)
  else
    let run := i.run.map (fun e => if keys.contains e.1 then (e.1, e.2.map (fun r => { r with frozen := true })) else e)
    let (p1, stalled) := publishKeys now lvl n keys (setInst p lvl n { i with run := run, merging := true })
    let p2 := if stalled ∨ i.merging = true then p1 else endMerge p1 lvl n
    (p2, keys.all (fun k => decide (chainOf (instOf p2 lvl n) k = [])))

/-- The release push of a core at one level: every record that it posted and that is held there moves outward (R168). -/
def pushOwn (p : Pkg) (now c lvl : Nat) : Pkg × Bool :=
  (pathPlaces c lvl).foldl (fun acc n =>
    let (q, ok) := mergeKeys acc.1 now lvl n (postedKeys acc.1 c (instOf acc.1 lvl n))
    (q, acc.2 && ok)) (p, true)

/-- The release push of a core at scope S: every record that it posted, from any slot, one merge out of each place (R168, R336). -/
def releasePush (p : Pkg) (now c s : Nat) : Pkg × Bool :=
  (List.range (scopeLevel s)).foldl (fun acc lvl =>
    let (q, ok) := pushOwn acc.1 now c lvl
    (q, acc.2 && ok)) (p, true)

end Sys2Proof.Machine
end

