-- ==== Sys2Proof/Machine/Walk.lean ====
section
/-!
DEFINITION. Translation: the ASID table, page tables, attributes and checks (R284 to R290), TLBs and walks in progress.
-/
namespace Sys2Proof.Machine

/-- The end of device memory (R357). -/
def dramEnd : Nat := 0x6000000000

/-- n bytes at a physical address, read as a strong load at PKG (R167, R289); they lie within one granule. -/
def physRead (p : Pkg) (now c pa n tag : Nat) : Nat :=
  let g := pa / 32
  ((combineFrom p now c 3 (runKey g tag)).1.toNat >>> (8 * (pa % 32))) % 2 ^ (8 * n)

/-- The ASID-table entry as memory holds it (R284). -/
def asidEntryRead (p : Pkg) (now c asid : Nat) : BitVec 256 :=
  BitVec.ofNat 256 (physRead p now c (fld p.regs.asidtab 14 38 * 2 ^ 14 + 32 * asid) 32 tagNone)

/-- The ASID-table entry that a walk uses: the walkers' copy, or memory (R289). -/
def asidEntry (p : Pkg) (now c asid : Nat) : BitVec 256 :=
  match mapFind (clusterOf p (clusterNo c)).asids asid with
  | some e => e
  | none => asidEntryRead p now c asid

/-- V set and no reserved bit set (R284). -/
def asidOk (e : BitVec 256) : Bool :=
  bit e 0 && !bit e 1 && decide (fld e 3 9 = 0) && decide (fld e 128 128 = 0)

def trapOf (cause sub : Nat) (tval tinfo : Word) : Trap := ⟨cause, sub, false, 0, tval, tinfo, none⟩

def causeTranslation : Nat := 0x10
def causePermission : Nat := 0x11
def causeAttribute : Nat := 0x12

/-- MACHINE_CHECK of a granule, at a physical address (R313). -/
def memCheckAt (pa : Nat) : Trap := trapOf 0x30 1 (BitVec.ofNat 64 pa) (Config.arrayIdent 1 pa)

def xlTrap (cause sub va level : Nat) : Trap := trapOf cause sub (BitVec.ofNat 64 va) (BitVec.ofNat 64 level)

/-- The 64 KiB frames at which the region registers can change their answer within a page. -/
def regionEdges (p : Pkg) (first count : Nat) : List Nat :=
  first :: ((List.range 16).flatMap (fun n =>
    [fld (mapGet (0 : Word) p.regs.crgn (2 * n)) 0 36, fld (mapGet (0 : Word) p.regs.crgn (2 * n + 1)) 0 36 + 1])).filter
      (fun x => decide (first ≤ x) && decide (x < first + count))

/-- CMP agrees with the region registers for every 64 KiB of a page (R288). -/
def cmpAgrees (p : Pkg) (cmp : Bool) (base size : Nat) : Bool :=
  (regionEdges p (base / 65536) (size / 65536)).all (fun x => regionCmp p x == cmp)

/-- A key slot is full (R294). -/
def keyFull (p : Pkg) (n : Nat) : Bool := (mapFind p.keys n).isSome

/-- The checks of an access against a translation that is held (R288): SUP and RO. -/
def accessCheck (x : Xlat) (user write : Bool) (va : Nat) : Option Trap :=
  let level := if x.size = 2 ^ 30 then 3 else if x.size = 2 ^ 21 then 4 else 5
  if x.sup && user then some (xlTrap causePermission 1 va level)
  else if write && decide (x.lease = 3) then some (xlTrap causePermission 3 va level)
  else none

/-- The access fails because the key of its page has been destroyed (R288, R304). -/
def keyTrap (x : Xlat) (va : Nat) : Trap :=
  xlTrap causePermission 2 va (if x.size = 2 ^ 30 then 3 else if x.size = 2 ^ 21 then 4 else 5)

/-- The checks of a leaf, in the order of R288. -/
def leafXlat (p : Pkg) (asid va level size : Nat) (e : BitVec 128) (user write : Bool) : Except Trap Xlat :=
  let frame := fld e 52 36 * 65536
  let ovl := fld e 92 36 * 65536
  let lty := fld e 88 4
  let layer := bit e 13
  let ksel := fld e 14 2
  let bad := fun (b : Nat) => decide (b % size ≠ 0) || decide (dramEnd < b + size)
  if fld e 17 35 ≠ 0 ∨ fld e 2 8 ≠ 0 ∨ (layer = false ∧ (ovl ≠ 0 ∨ lty ≠ 0)) then
    .error (xlTrap causeTranslation 1 va level)
  else if bad frame || (layer && bad ovl) then .error (xlTrap causeTranslation 1 va level)
  else if ksel = 3 ∨ (ksel = 2 ∧ bit e 16 = false) ∨ (layer && !([8, 9, 10, 1, 2, 0, 5, 6, 4].contains lty)) ∨
      cmpAgrees p (bit e 12) frame size = false ∨ (layer && !cmpAgrees p (bit e 12) ovl size) then
    .error (xlTrap causeAttribute 1 va level)
  else
    let x : Xlat :=
      { asid := asid, va := va / size * size, size := size, frame := frame,
        tag := if ksel = 0 then asid else if ksel = 1 then tagPkg else tagNone, lease := fld e 10 2,
        ovl := if layer then some (ovl, lty) else none, sup := bit e 16, gen := mapGet 0 p.keyGen asid }
    match accessCheck x user write va with
    | some t => .error t
    | none =>
      if ((decide (ksel = 0) || layer) && !keyFull p asid) || (decide (ksel = 1) && !p.pkgKey) then
        .error (xlTrap causePermission 2 va level)
      else .ok x

/-- The walk of the page tables from a table at `base` (R286, R288); `fuel` counts the levels left. -/
def walkFrom : Nat → Pkg → Nat → Nat → Nat → Nat → Nat → Bool → Bool → Except Trap Xlat
  | 0, _, _, _, _, va, _, _, _ => .error (xlTrap causeTranslation 1 va 5)
  | fuel + 1, p, now, c, asid, va, base, user, write =>
    let level := 5 - fuel
    let idx := match level with
      | 1 => va / 2 ^ 48 % 512
      | 2 => va / 2 ^ 39 % 512
      | 3 => va / 2 ^ 30 % 512
      | 4 => va / 2 ^ 21 % 512
      | _ => va / 2 ^ 16 % 32
    let pa := base + 16 * idx
    if dramEnd < pa + 16 then .error (xlTrap causeTranslation 1 va (level - 1))
    else if combineBad p now c 3 (runKey (pa / 32) tagNone) then .error (memCheckAt pa)
    else
      let e := BitVec.ofNat 128 (physRead p now c pa 16 tagNone)
      if bit e 0 = false then .error (xlTrap causeTranslation 1 va level)
      else if bit e 1 then
        if level < 3 then .error (xlTrap causeTranslation 1 va level)
        else leafXlat p asid va level (if level = 3 then 2 ^ 30 else if level = 4 then 2 ^ 21 else 2 ^ 16) e user write
      else if level = 5 ∨ fld e 2 87 ≠ 0 then .error (xlTrap causeTranslation 1 va level)
      else if dramEnd < fld e 89 39 * 8192 + 8192 then .error (xlTrap causeTranslation 1 va level)
      else walkFrom fuel p now c asid va (fld e 89 39 * 8192) user write

/-- A walk for a virtual address of an ASID (R286 to R288). -/
def walk (p : Pkg) (now c asid va : Nat) (user write : Bool) : Except Trap Xlat :=
  if 2 ^ 57 ≤ va then .error (xlTrap causeTranslation 1 va 6)
  else
    let e := asidEntry p now c asid
    let pa := fld p.regs.asidtab 14 38 * 2 ^ 14 + 32 * asid
    if (mapFind (clusterOf p (clusterNo c)).asids asid).isNone && combineBad p now c 3 (runKey (pa / 32) tagNone) then
      .error (memCheckAt pa)
    else if dramEnd < pa + 32 ∨ asidOk e = false then .error (xlTrap causeTranslation 1 va 0)
    else if dramEnd < fld e 57 39 * 8192 + 8192 then .error (xlTrap causeTranslation 1 va 0)
    else walkFrom 5 p now c asid va (fld e 57 39 * 8192) user write

/-- The TLB entry that holds an address (R289). -/
def tlbFind (l : List Xlat) (asid va : Nat) : Option Xlat :=
  l.find? (fun x => decide (x.asid = asid) && decide (x.va ≤ va) && decide (va < x.va + x.size))

/-- Fills a TLB of 1,024 entries; which entry a full TLB gives up is a DESIGN CHOICE: the oldest (log 20). -/
def tlbFill (l : List Xlat) (x : Xlat) : List Xlat :=
  let l := if l.length < 1024 then l else l.drop 1
  l ++ [x]

/-- What the translation of an access comes to: a translation, a miss that a walker serves, or a trap. -/
inductive XlOut where
  | hit (x : Xlat)
  | miss (va : Nat)
  | trap (t : Trap)
  deriving DecidableEq, Repr, Inhabited

/-- Translates one address for the current slot: the TLB, and the fault that a walk for it returned (R189, R289). -/
def translate (p : Pkg) (cx : Cx) (va : Int) (write : Bool) : XlOut :=
  let co := coreOf p cx.core
  let k := co.part
  let user := !supOf k
  if va < 0 ∨ 2 ^ 57 ≤ va then .trap (xlTrap causeTranslation 1 (wrapInt 64 va) 6)
  else
    let a := va.toNat
    match tlbFind co.tlb (asidOf k) a with
    | some x => (match accessCheck x user write a with
      | some t => .trap t
      | none => .hit x)
    | none => (match (slotOf k cx.slot).walkFault with
      | some (f, t) => if f / 65536 = a / 65536 then .trap t else .miss a
      | none => .miss a)

/-- Translates the pages of an access in order; the first that misses or traps decides. -/
def translateAll (p : Pkg) (cx : Cx) (write : Bool) (vas : List Int) : Except XlOut (List Xlat) :=
  match vas with
  | [] => .ok []
  | va :: rest =>
    match translate p cx va write with
    | .hit x => (match translateAll p cx write rest with
      | .ok xs => .ok (x :: xs)
      | .error e => .error e)
    | e => .error e

/-- Asks the cluster's walkers for a translation on behalf of the current slot, unless it is already asked (R289). -/
def askWalk (p : Pkg) (cx : Cx) (va : Nat) (write : Bool) (uid : Option Nat) : Pkg :=
  let cl := clusterNo cx.core
  let k := clusterOf p cl
  let w : Walk := ⟨cx.core, cx.slot, asidOf (partOf p cx.core), va, write, uid⟩
  if k.walks.any (fun x => decide (x.core = cx.core) && decide (x.slot = cx.slot) && decide (x.va = va) &&
      decide (x.uid = uid)) then p
  else setCluster p cl { k with walks := k.walks ++ [w] }

/-- The granule that stores to the page post to: the overlay's of a layered page (R156). -/
def storeKey (x : Xlat) (va : Nat) : Nat :=
  match x.ovl with
  | some (o, _) => runKey ((o + (va - x.va)) / 32) x.asid
  | none => floorKey x va

/-- The overlay granule of a layered page (R156, R287). -/
def ovlKey (x : Xlat) (va : Nat) : Option Nat :=
  match x.ovl with
  | some (o, _) => some (runKey ((o + (va - x.va)) / 32) x.asid)
  | none => none

/-- The keys an access to a granule probes: the frame, and the overlay of a layered page. -/
def probeKeys (x : Xlat) (va : Nat) : List Nat :=
  match ovlKey x va with
  | some k => [floorKey x va, k]
  | none => [floorKey x va]

/-- The view of a granule from level `lvl` outward through a translation; a layered page reads floor + overlay in its
layer type at the bytes read (R145, R156). -/
def viewGranule (p : Pkg) (now c lvl : Nat) (x : Xlat) (va : Nat) (m : BitVec 32) : Granule × Bool :=
  let f := combineFrom p now c lvl (floorKey x va)
  match x.ovl, ovlKey x va with
  | some (_, ty), some k =>
    let o := combineFrom p now c lvl k
    let (v, bad) := foldGranule 1 ty m f.1 o.1
    (v, f.2.1 || o.2.1 || bad)
  | _, _ => (f.1, f.2.1)

/-- What an access would consume of a granule holds an uncorrectable error: the key under which it lies (R326). -/
def viewBad (p : Pkg) (now c lvl : Nat) (x : Xlat) (va : Nat) : Option Nat :=
  (probeKeys x va).find? (fun k => combineBad p now c lvl k)

end Sys2Proof.Machine
end

