-- ==== Sys2Proof/Machine/Scratch.lean ====
section
/-!
DEFINITION. Scratchpad words, barrier objects, waits and their monitors, full/empty words, the journal and messages (R157
to R162, R204, R205, R222, R223, R260 to R264, R297, R317, R318).
-/
namespace Sys2Proof.Machine

/-- A signed comparison by a condition code CND 0 to 5 (R47, R270). -/
def cmpCnd (cnd : Nat) (a b : Int) : Bool :=
  match cnd with
  | 0 => decide (a = b)
  | 1 => decide (a ≠ b)
  | 2 => decide (a < b)
  | 3 => decide (a ≤ b)
  | 4 => decide (b < a)
  | _ => decide (b ≤ a)

/-- %XDONE of a channel: every copy with an identifier below it is complete (R218). -/
def xdone (k : Part) (ch : Nat) : Nat :=
  (k.copies.filter (fun x => x.ch = ch)).foldl (fun acc x => min acc x.ident) (mapGet 0 k.issued ch + 1)

/-- A barrier object (R222). -/
structure BarObj where
  pend : Nat
  phase : Nat
  arrive : Nat
  expect : Nat
  err : Bool
  ovr : Bool
  rest : Nat
  deriving DecidableEq, Repr, Inhabited

def objOf (k : Part) (off : Nat) : BarObj :=
  let x := BitVec.ofNat 128 (scrNat k off 16)
  ⟨fld x 0 56, fld x 56 16, fld x 72 24, fld x 96 24, bit x 120, bit x 121, fld x 122 6⟩

def objBits (o : BarObj) : Nat :=
  packFields [(56, o.pend), (16, o.phase), (24, o.arrive), (24, o.expect), (1, b2n o.err), (1, b2n o.ovr), (6, o.rest)]

/-- The condition of a wait that a core can evaluate by itself (R260). -/
def waitHolds (k : Part) (w : WaitKind) : Bool :=
  match w with
  | .word off cnd b => cmpCnd cnd (asInt 64 (scrNat k off 8)) b.toInt
  | .phase off b => decide ((objOf k off).phase ≠ b)
  | .copies ch ident => decide (ident < xdone k ch)
  | _ => false

/-- A monitored wait sees its condition hold, at the latest at its deadline (R260, R261). -/
def latchSlot (now : Nat) (hit : WaitKind → Bool) (s : Slot) : Slot :=
  match s.hold with
  | .wait w => if !w.met && decide (now ≤ w.deadline) && hit w.kind then { s with hold := .wait { w with met := true } } else s
  | _ => s

/-- Re-evaluates the monitored waits of a core that an event can change (R260). -/
def latchWaits (k : Part) (now : Nat) (touched : WaitKind → Bool) : Part :=
  { k with slots := k.slots.map (fun e => (e.1, latchSlot now (fun w => touched w && waitHolds k w) e.2)) }

/-- A wait watches a word. -/
def watchesWord (w : Nat) : WaitKind → Bool
  | .word off _ _ => decide (off / 8 = w)
  | .phase off _ => decide (off / 8 = w) || decide (off / 8 + 1 = w)
  | _ => false

/-- The bytes to be written, by offset; a later one of the same offset stands. -/
def byteMap (l : List (Nat × Byte)) : SMap Byte := l.foldl (fun m e => mapInsert m e.1 e.2) []

/-- Writes bytes of one word at one instant; then the waits on it are evaluated (R158, R260). -/
def scrWord (k : Part) (now w : Nat) (m : SMap Byte) : Part :=
  latchWaits { k with scr := m.foldl (fun s e => mapPut 0 s e.1 e.2) k.scr } now (watchesWord w)

/-- The words that some bytes lie in. -/
def wordsOf (m : SMap Byte) : List Nat := (m.map (fun e => e.1 / 8)).foldl (fun l w => if l.contains w then l else l ++ [w]) []

/-- Writes bytes to scratchpad word by word; a word written whole holds no error any more (R158, R327). -/
def scrPut (k : Part) (now : Nat) (m : SMap Byte) : Part :=
  let k1 := (wordsOf m).foldl (fun q w => scrWord q now w (m.filter (fun e => decide (e.1 / 8 = w)))) k
  { k1 with badWords := k1.badWords.filter (fun w => decide ((m.filter (fun e => decide (e.1 / 8 = w))).length < 8)) }

/-- Writes contiguous bytes. -/
def scrWrite (k : Part) (now a : Nat) (bs : List Byte) : Part := scrPut k now ((bs.zipIdx).map (fun x => (a + x.2, x.1)))

/-- A scratchpad word that would be consumed holds an uncorrectable error (R326). -/
def scrBad (k : Part) (a n : Nat) : Option Nat :=
  k.badWords.find? (fun w => decide (8 * w < a + n) && decide (a < 8 * w + 8))

/-- Writes a barrier object whole and evaluates the waits on it once (R222). -/
def objWrite (k : Part) (now off : Nat) (o : BarObj) : Part :=
  let bs := leBytes 16 (objBits o)
  let scr := (List.range 16).foldl (fun m i => mapPut (0 : Byte) m (off + i) (bs.getD i 0)) k.scr
  latchWaits { k with scr := scr } now (fun w => watchesWord (off / 8) w || watchesWord (off / 8 + 1) w)

/-- ARRIVE rises by n, held at EXPECT with OVR (R223). -/
def objArrive (o : BarObj) (n : Nat) : BarObj :=
  if o.expect < o.arrive + n then { o with arrive := o.expect, ovr := true } else { o with arrive := o.arrive + n }

/-- PEND falls by n, held at 0 with OVR (R223). -/
def objSettle (o : BarObj) (n : Nat) : BarObj :=
  if o.pend < n then { o with pend := 0, ovr := true } else { o with pend := o.pend - n }

/-- The phase completes where ARRIVE equals EXPECT and PEND is 0 (R223). -/
def objPhase (o : BarObj) : BarObj :=
  if o.arrive = o.expect ∧ o.pend = 0 then { o with phase := (o.phase + 1) % 65536, arrive := 0 } else o

/-- An event of R223 on an object other than BARI. -/
def objEvent (k : Part) (now off : Nat) (f : BarObj → BarObj) : Part := objWrite k now off (objPhase (f (objOf k off)))

/-- The byte addition of a counted copy (R223). DESIGN CHOICE (log 57): a sum beyond the field wraps modulo 2^56. -/
def objAdd (n : Nat) (o : BarObj) : BarObj := { o with pend := (o.pend + n) % 2 ^ 56 }

/-- The completion or failure of a counted copy (R223). -/
def objDone (n : Nat) (narr failed : Bool) (o : BarObj) : BarObj :=
  let o := objSettle o n
  let o := if narr then o else objArrive o 1
  if failed then { o with err := true } else o

/-- Sends a message; the network keeps order per source and destination (R157). -/
def send (p : Pkg) (src dst asid : Nat) (body : MsgBody) : Pkg :=
  { p with net := p.net ++ [⟨src, dst, asid, body, none, 0⟩] }

/-- Sends to a core of this or another package (R15, R206). -/
def sendPkg (p : Pkg) (src pkg dst asid : Nat) (body : MsgBody) : Pkg :=
  if pkg = p.regs.pkgnum then send p src dst asid body else { p with outbox := p.outbox ++ [(pkg, dst, body)] }

/-- The answer that refuses a request (R206 to R211, R223, R317); what needs no answer gets none. -/
def refusalOf (cause : Nat) : MsgBody → Option MsgBody
  | .load _ _ _ req lane => some (.readRefused req lane cause)
  | .takeFull _ _ _ _ req => some (.readRefused req 0 cause)
  | .store _ _ _ uid => some (.refusal uid cause 0)
  | .reduce _ _ _ _ uid => some (.refusal uid cause 0)
  | .putEmpty _ _ _ _ _ uid => some (.refusal uid cause 0)
  | .amsg _ _ _ _ _ uid => some (.refusal uid cause 0)
  | .mmar _ _ _ _ _ _ _ _ _ _ uid => some (.refusal uid cause 0)
  | .wake _ uid => some (.refusal uid cause 0)
  | .arrive _ _ uid => some (.refusal uid cause 0)
  | .addBytes _ _ _ ch ident => some (.addRefused ch ident)
  | _ => none

/-- A home refuses a request. -/
def refuse (p : Pkg) (home pkg src asid cause : Nat) (b : MsgBody) : Pkg :=
  match refusalOf cause b with
  | some a => sendPkg p home pkg src asid a
  | none => p

/-- The capability check of a home for a message of a package sent under an ASID (R296, R297). -/
def scapOk (p : Pkg) (home pkg asid : Nat) : Bool :=
  let c := coreOf p home
  ((bit c.scap 63 && (match c.part.team with
    | some t => decide (t.asid = asid)
    | none => false)) || (bit c.scap 62 && decide (fld c.scap 0 9 = asid))) &&
      (decide (pkg = p.regs.pkgnum) || bit c.scap 61)

/-- The home holds a team whose control context has started (R297). DEDUCED (log 72): one whose team has ended is not ready, for a full
word too. -/
def homeReady (p : Pkg) (home : Nat) : Bool :=
  match (partOf p home).team with
  | some t => t.started
  | none => false

/-- The lowest journal entry that is free (R317). -/
def jFree (k : Part) : Option Nat := (List.range 64).find? (fun n => (mapFind k.journal n).isNone)

/-- The journal entry with a serial number. -/
def jByUid (k : Part) (uid : Nat) : Option (Nat × JEntry) := k.journal.find? (fun e => e.2.uid = uid)

def jPut (k : Part) (n : Nat) (e : JEntry) : Part := { k with journal := mapInsert k.journal n e }
def jErase (k : Part) (n : Nat) : Part := { k with journal := mapErase k.journal n }

/-- An entry awaits an outcome while its STATUS is 1 or 2 (R318). -/
def jAwaits (e : JEntry) : Bool := decide (e.status = 1) || decide (e.status = 2)

/-- Success: the entry becomes free, or done while its context holds a faulted or refused entry (R318). -/
def jSuccess (p : Pkg) (c uid : Nat) : Pkg :=
  let k := partOf p c
  match jByUid k uid with
  | none => p
  | some (n, e) =>
    if k.journal.any (fun x => decide (x.2.ctx = e.ctx) && (decide (x.2.status = 3) || decide (x.2.status = 4))) then
      setPart p c (jPut k n { e with status := 5 })
    else setPart p c (jErase k n)

/-- The asynchronous trap of a faulted or refused entry (R313, R318). -/
def jTrap (n : Nat) (e : JEntry) : Trap :=
  { cause := if e.status = 3 then 0x20 else 0x21, sub := e.cause, jv := true, jent := n,
    tval := if e.cause = 0x3E ∨ e.cause = 0x3F then e.code else BitVec.ofNat 64 e.addr, tinfo := e.seq.zeroExtend 64,
    body := none }

/-- A fault or a refusal: STATUS 3 or 4 with its cause, and one trap (R318). -/
def jFail (p : Pkg) (now c uid status cause : Nat) (code : Word) : Pkg :=
  let k := partOf p c
  match jByUid k uid with
  | none => p
  | some (n, e) =>
    let e' := { e with status := status, cause := cause, code := code }
    raiseAsync (setPart p c (jPut k n e')) now c (jTrap n e')

/-- The journal entry is no longer needed: a remote STSF that timed out (R205). -/
def jDrop (p : Pkg) (c uid : Nat) : Pkg :=
  let k := partOf p c
  match jByUid k uid with
  | none => p
  | some (n, _) => setPart p c (jErase k n)

/-- ADDR of the remote kinds (R317): package, core, offset. -/
def homeAddr (pkg core off : Nat) : Nat := packFields [(2, 0), (17, off), (12, core), (10, pkg)]

/-- A value as it stands in a register after a scalar load of an element of a type that is not decoded (R188). -/
def loadImage (ty v : Nat) : Word :=
  if tySigned ty then BitVec.ofInt 64 (asInt (8 * tySize ty) v) else BitVec.ofNat 64 v

/-- An element of scratchpad as a number, the bytes of its scale above bit 143 (R188). -/
def elemRead (k : Part) (off size : Nat) (scale : Option Nat) : Nat :=
  scrNat k off size + (match scale with
    | some a => scrNat k a 2 * 2 ^ 144
    | none => 0)

/-- Bytes of an access that has read some words before and reads the rest now. -/
def wordsNat (k : Part) (got : SMap Byte) (a n : Nat) : Nat :=
  if got = [] then scrNat k a n
  else leNat ((List.range n).map (fun j => match mapFind got (a + j) with
    | some b => b
    | none => mapGet 0 k.scr (a + j)))

/-- The same, of which some words have been read before (R158). -/
def elemGot (k : Part) (got : SMap Byte) (off size : Nat) (scale : Option Nat) : Nat :=
  wordsNat k got off size + (match scale with
    | some a => wordsNat k got a 2 * 2 ^ 144
    | none => 0)

/-- A word that an element or its scale lies in holds an uncorrectable error (R326). -/
def elemBad (k : Part) (off size : Nat) (scale : Option Nat) : Option Nat :=
  match scrBad k off size with
  | some w => some w
  | none => (match scale with
    | some a => scrBad k a 2
    | none => none)

/-- The local slot of a waiter learns what it was served. -/
def tellSlot (k : Part) (n : Nat) (h : Wait → Hold) : Part :=
  let s := slotOf k n
  match s.hold with
  | .wait w => setSlot k n { s with hold := h w }
  | _ => k

/-- A moved-out context learns it, and its wait has ended (R263). -/
def tellMoved (k : Part) (ctx now : Nat) (h : Wait → Hold) : Part :=
  { k with moved := k.moved.map (fun m => if m.sl.ctx = ctx then (match m.sl.hold with
      | .wait w => { m with sl := { m.sl with hold := h w }, ready := some now }
      | _ => m) else m) }

/-- A local waiter learns what it was served. -/
def tellWaiter (k : Part) (now n : Nat) (w : Waiter) (h : Wait → Hold) : Part :=
  if w.moved then tellMoved k w.ctx now h else tellSlot k n h

/-- What an LDSF reads is an L8 or F4X element whose scale is a format fault: it raises FP_TRAP and leaves the word full (R61, R189). -/
def scaleFault (size : Nat) (scale : Option Nat) (v : Nat) : Bool :=
  (scale.isSome && l8BadScale (v / 2 ^ 144)) || (decide (size = 18) && f4xBadScale (v % 2 ^ 144))

/-- One waiter served in one step at the home (R162, R204): the element read and the word emptied, or written and the
word filled; then the local slot or the remote requester learns of it. A waiter that would read a word in error learns that
instead, and the word stays (R326); so it does where the scale read is a format fault. -/
def serveWaiter (p : Pkg) (now home : Nat) (w : Waiter) : Pkg :=
  let k := partOf p home
  let word := w.off / 8
  let k0 := { k with waiters := k.waiters.erase w }
  if w.take && (elemBad k w.off w.size w.scale).isSome then
    match w.slot with
    | some n => setPart p home (tellWaiter k0 now n w (fun _ => .none))
    | none => sendPkg (setPart (logDetected p now (coreSource home) 2 w.off) home k0) home w.pkg w.src w.asid
      (.readRefused w.req 0 0x30)
  else
    let v := elemRead k w.off w.size w.scale
    let k1 := if w.take then (if scaleFault w.size w.scale v then k0 else setTag k0 word false)
      else setTag (scrWrite k0 now w.off (leBytes w.size w.val.toNat)) word true
    match w.slot with
    | some n => setPart p home (tellWaiter k1 now n w (fun h => .wait { h with met := true, value := v }))
    | none =>
      let p1 := sendPkg (setPart p home k1) home w.pkg w.src w.asid (.readDone w.req 0 v)
      if w.take then p1 else sendPkg p1 home w.pkg w.src w.asid (.ack w.uid)

/-- Serves the waiters of a word in the order they began to wait; a moved waiter keeps its place and is served at an
evaluation (R162, R262, R263). -/
def serveWord : Nat → Pkg → Nat → Nat → Nat → Bool → Pkg
  | 0, p, _, _, _, _ => p
  | fuel + 1, p, now, home, word, evaluating =>
    let k := partOf p home
    match k.waiters.find? (fun w => decide (w.off / 8 = word) && (w.take == tagOf k word) &&
        decide (now ≤ w.deadline)) with
    | none => p
    | some w => if w.moved && !evaluating then p
      else serveWord fuel (serveWaiter p now home w) now home word evaluating

def serveTag (p : Pkg) (now home word : Nat) : Pkg :=
  serveWord ((partOf p home).waiters.length + 1) p now home word false

/-- An LDSF or STSF on a word may act at once: its tag is as it needs it, and nobody waits before it (R162). -/
def tagFree (k : Part) (take : Bool) (word : Nat) : Bool :=
  (tagOf k word == take) && !k.waiters.any (fun w => decide (w.off / 8 = word) && (w.take == take))

/-- Wait monitors held on a core: by its waiting slots and by the remote waits it serves (R260). -/
def monitorsHeld (k : Part) : Nat :=
  (k.slots.filter (fun e => match e.2.hold with
    | .wait w => !w.met
    | _ => false)).length + (k.waiters.filter (fun w => w.slot.isNone && !w.moved)).length

/-- The same, each by what holds it: a slot by 0, its number and its context, a remote wait by 1, its core in the pod and its request. -/
def monitorList (k : Part) : List (Nat × Nat × Nat) :=
  k.slots.filterMap (fun e => match e.2.hold with
    | .wait w => if w.met then none else some (0, e.1, e.2.ctx)
    | _ => none) ++
  (k.waiters.filter (fun w => w.slot.isNone && !w.moved)).map (fun w => (1, 4096 * w.pkg + w.src, w.req))

/-- Withdraws the waiter that a local slot holds on a word. -/
def dropWaiter (k : Part) (slot : Nat) : Part :=
  { k with waiters := k.waiters.filter (fun w => !(decide (w.slot = some slot) && !w.moved)) }

/-- A slot tied to its context while that is moved out: it owns or is attached to a ring, or was started by START
(R263). -/
def tied (k : Part) (n : Nat) (s : Slot) : Bool :=
  decide (s.kind = .started) || decide (s.rings ≠ []) ||
    k.slots.any (fun e => e.2.rings.any (fun r => match r.2 with
      | .att o _ => decide (o = n)
      | _ => false))

/-- A slot that its context has left: its registers, predicates, flags and special registers keep their values until the next context is
loaded; its rings and whatever else belongs to the context are gone (R239, R269, R278). -/
def retiredSlot (s : Slot) : Slot :=
  { s with live := false, rings := [], loops := [], region := none, loads := [], hold := .none, cap := none, rels := [], walkFault := none,
           sender := none, task := none, token := false, handler := false }

/-- Moves the context of a slot out to the wait area, encrypted under the key of its ASID as it stands after `gen` destructions; its slot
holds none, which a START that waits for it sees (R262, R266, R293). DESIGN CHOICE (log 71): it is moved out however many images the area
holds; (log 74): it counts as readable whether or not its key slot was filled. -/
def moveOut (k : Part) (now n gen : Nat) : Part :=
  let s := slotOf k n
  let rc := regCount k.mode
  let vs := (List.range rc).map (fun r => vregAt k (n * rc + r))
  let mark : Waiter → Waiter := fun w => if w.slot = some n ∧ w.ctx = s.ctx then { w with moved := true, seen := now } else w
  let k1 : Part := { k with waiters := k.waiters.map mark, moved := k.moved ++ [⟨s, vs, n, none, now, asidOf k, gen⟩] }
  let k2 := setSlot k1 n (retiredSlot s)
  if tied k n s then k2 else { k2 with slots := k2.slots.map (fun e => (e.1, latchSlot now (fun w => decide (w = .startSlot n)) e.2)) }

/-- The capacity of the wait area for remote waits (R264). -/
def remoteEntries (c : Core) : Nat := fld c.runq 0 16 * 64

/-- Withdraws a remote waiter unserved; its requester raises WAIT_TIMEOUT (R205, R264). -/
def withdraw (p : Pkg) (home : Nat) (w : Waiter) (listFull : Bool) : Pkg :=
  let p1 := updPart p home (fun k => { k with waiters := k.waiters.erase w })
  sendPkg p1 home w.pkg w.src w.asid (.timeout w.req w.uid listFull)

/-- The deadline of a slot's monitored wait. -/
def waitDeadline (s : Slot) : Option Nat :=
  match s.hold with
  | .wait w => if w.met then none else some w.deadline
  | _ => none

/-- A wait that R262 may move: a local helper's slot, or a remote waiter. -/
inductive Candidate where
  | ctx (slot : Nat)
  | remote (w : Waiter)
  deriving DecidableEq, Repr, Inhabited

/-- The candidates with their deadlines: the waits of loaded helpers and tasks and the remote waits held here (R262). -/
def candidates (k : Part) : List (Candidate × Nat) :=
  k.slots.filterMap (fun e => if e.2.kind = .helper ∨ e.2.kind = .started then
      (waitDeadline e.2).map (fun d => (.ctx e.1, d)) else none) ++
    (k.waiters.filter (fun w => w.slot.isNone && !w.moved)).map (fun w => (.remote w, w.deadline))

/-- Where more than 16 monitors would be held, the wait with the latest deadline is moved (R262, R264). DESIGN CHOICE (log 58): of several
with that deadline the first in slot order, and a context before a remote wait. -/
def limitMonitors (p : Pkg) (now c : Nat) : Pkg :=
  let co := coreOf p c
  let k := co.part
  if monitorsHeld k ≤ 16 then p
  else
    match candidates k with
    | [] => p
    | x :: rest =>
      match (rest.foldl (fun b y => if b.2 < y.2 then y else b) x).1 with
      | .ctx n => setPart p c (moveOut k now n (mapGet 0 p.keyGen (asidOf k)))
      | .remote w =>
        if (k.waiters.filter (fun w => w.slot.isNone && w.moved)).length < remoteEntries co then
          setPart p c { k with waiters := k.waiters.map (fun v => if v = w then { v with moved := true, seen := now } else v) }
        else withdraw p c w true

def queueOf (p : Pkg) (cl prio : Nat) : List QRec := mapGet [] (clusterOf p cl).queues prio

/-- A queue is full: its head of 128 and its overflow area (R256). -/
def queueFull (p : Pkg) (cl prio : Nat) : Bool :=
  decide (128 + mapGet 0 (clusterOf p cl).ovfcap prio ≤ (queueOf p cl prio).length)

/-- A JOIN that waits for room in a queue that has it. -/
def roomHolds (p : Pkg) (w : WaitKind) : Bool :=
  match w with
  | .room cl prio => !queueFull p cl prio
  | _ => false

/-- The waits for room in a queue are evaluated on every core (R260, R268). -/
def latchRoom (p : Pkg) (now : Nat) : Pkg :=
  { p with cores := p.cores.map (fun e => (e.1, { e.2 with part := { e.2.part with
      slots := e.2.part.slots.map (fun s => (s.1, latchSlot now (roomHolds p) s.2)) } })) }

/-- Where a message comes from: package, core and ASID. -/
structure Origin where
  pkg : Nat
  core : Nat
  asid : Nat
  deriving DecidableEq, Repr, Inhabited

/-- What the window of R160 says of a packet. -/
inductive SeqVerdict where
  | apply
  | discard
  | refuse
  deriving DecidableEq, Repr, Inhabited

/-- The SEQ window of a source core at a home (R160): before any packet, none of 0 and above is applied. -/
def windowOf (c : Core) (src : Nat) : BitVec 32 × BitVec 64 := mapGet ((-1 : BitVec 32), BitVec.allOnes 64) c.windows src

/-- The verdict on a number and the window after it, compared modulo 2^32 (R160). -/
def seqJudge (w : BitVec 32 × BitVec 64) (s : BitVec 32) : SeqVerdict × (BitVec 32 × BitVec 64) :=
  let up := (s - w.1).toNat
  let down := (w.1 - s).toNat
  if 0 < up ∧ up < 2 ^ 31 then (.apply, (s, (w.2 <<< up) ||| 1))
  else if down < 64 then
    if bit w.2 down then (.discard, w) else (.apply, (w.1, w.2 ||| BitVec.ofNat 64 (2 ^ down)))
  else (.refuse, w)

/-- Folds the elements of a packet into their words (R76, R160): no flag, no trap. -/
def applyPacket (k : Part) (now ty opr : Nat) (els : List (Nat × Word)) : Part :=
  els.foldl (fun q x =>
    let n := tySize ty
    scrWrite q now x.1 (leBytes n (foldElem opr ty (scrNat q x.1 n) x.2.toNat).1)) k

/-- RRED at its home (R160, R210): a packet that would fold into a word in error is refused and changes nothing (R326). -/
def packetApplied (p : Pkg) (now home : Nat) (o : Origin) (els : List (Nat × Word)) (ty opr : Nat) (seq : Option (BitVec 32))
    (uid : Nat) (b : MsgBody) : Pkg :=
  let no := fun (cause : Nat) => refuse (if cause = 0x30 then logDetected p now (coreSource home) 2 ((els.head?.map (·.1)).getD 0) else p)
    home o.pkg o.core o.asid cause b
  let ok := fun (q : Pkg) => sendPkg q home o.pkg o.core o.asid (.ack uid)
  let bad := els.any (fun x => (scrBad (partOf p home) x.1 (tySize ty)).isSome)
  let fold := fun (q : Pkg) => updPart q home (fun k => applyPacket k now ty opr els)
  match seq with
  | none => if bad then no 0x30 else ok (fold p)
  | some s =>
    if o.pkg ≠ p.regs.pkgnum then no 0x21
    else
      let (v, w) := seqJudge (windowOf (coreOf p home) o.core) s
      match v with
      | .refuse => no 0x21
      | .discard => ok p
      | .apply => if bad then no 0x30
        else ok (fold (updCore p home (fun c => { c with windows := mapInsert c.windows o.core w })))

/-- Somebody still waits for the answers of a request of this package; a request of another package always counts. -/
def stillAsked (p : Pkg) (o : Origin) (req : Nat) : Bool :=
  let asks := fun (k : Part) => k.slots.any (fun e => match e.2.hold with
    | .reply r => decide (r.req = req)
    | _ => false)
  decide (o.pkg ≠ p.regs.pkgnum) || asks (partOf p o.core) || p.saves.any (fun e => decide (e.2.core = o.core) && asks e.2.part)

/-- A remote LDSF or STSF begins to wait at its home, and is served where it may be (R162, R205); deadline 0 stands for one test.
It holds a monitor (R260). -/
def remoteWait (p : Pkg) (now home : Nat) (w : Waiter) : Pkg :=
  let limit := if w.deadline = 0 then now else w.deadline
  let w' := { w with deadline := limit }
  let p1 := serveTag (updPart p home (fun k => { k with waiters := k.waiters ++ [w'] })) now home (w.off / 8)
  if (partOf p1 home).waiters.contains w' then
    if w.deadline = 0 ∨ limit < now then withdraw p1 home w' false else limitMonitors p1 now home
  else p1

/-- The control context waits in REPART (R273). -/
def repartWaits (k : Part) : Bool :=
  match (slotOf k 0).hold with
  | .wait w => decide (w.kind = .quiet)
  | _ => false

/-- The words that some ranges of bytes lie in, each once (R158). -/
def spanWords (spans : List (Nat × Nat)) : List Nat :=
  dedupNat (spans.flatMap (fun s => (List.range ((s.2 + 7) / 8 - s.1 / 8)).map (fun i => s.1 / 8 + i)))

/-- The bytes of a word, read at one instant, join those that an access has read (R158). -/
def readWord (k : Part) (got : SMap Byte) (w : Nat) : SMap Byte :=
  (List.range 8).foldl (fun m i => mapInsert m (8 * w + i) (mapGet 0 k.scr (8 * w + i))) got

/-- The ranges of a remote load. -/
def loadSpans (off size : Nat) (scale : Option Nat) : List (Nat × Nat) :=
  (off, off + size) :: (match scale with
    | some a => [(a, a + 2)]
    | none => [])

/-- One word of a remote access of several, where more than one is left (R158): of a load, a store, or the packet of an RRED that has been
accepted; none where the access is to be ended. -/
def builtinWord (p : Pkg) (now home : Nat) (e : Errand) : Option (Pkg × Errand) :=
  let k := partOf p home
  match e.body with
  | .load off size scale _ _ =>
    let ws := spanWords (loadSpans off size scale)
    if e.pos + 1 < ws.length ∧ (elemBad k off size scale).isNone then
      some (p, { e with pos := e.pos + 1, got := readWord k e.got (ws.getD e.pos 0) })
    else none
  | .store off size v _ =>
    let m := byteMap (((leBytes size v.toNat).zipIdx).map (fun x => (off + x.2, x.1)))
    let ws := wordsOf m
    if e.pos + 1 < ws.length then
      some (setPart p home (scrPut k now (m.filter (fun b => decide (b.1 / 8 = ws.getD e.pos 0)))), { e with pos := e.pos + 1 })
    else none
  | .reduce els ty opr none _ =>
    if e.pos + 1 < els.length ∧ els.any (fun x => (scrBad k x.1 (tySize ty)).isSome) = false then
      some (setPart p home (applyPacket k now ty opr ((els.drop e.pos).take 1)), { e with pos := e.pos + 1 })
    else none
  | _ => none

/-- What a built-in handler does (R159, R206): a remote load or store of one element; a read that would consume a word in
error is refused (R326). Waits on the word see the store (R260). What came from the same source behind one of these is performed
in its turn (R157, R171): a packet, an LDSF or STSF, an arrival. Words that were done before stay done (R158). -/
def builtin (p : Pkg) (now home : Nat) (e : Errand) : Pkg :=
  let sd := e.sender
  let o : Origin := ⟨sd.pkg, sd.core, sd.asid⟩
  let bad := fun (off : Nat) => refuse (logDetected p now (coreSource home) 2 off) home sd.pkg sd.core sd.asid 0x30 e.body
  let waiter := fun (take : Bool) (off size : Nat) (sc : Option Nat) (v : Word) (d req uid : Nat) =>
    let d' := if sd.pkg ≠ p.regs.pkgnum ∧ d ≠ 0 then now + d else d
    ({ take := take, off := off, size := size, scale := sc, val := v, deadline := d', slot := none, ctx := 0, pkg := sd.pkg,
       src := sd.core, asid := sd.asid, req := req, uid := uid, moved := false, seen := now } : Waiter)
  match e.body with
  | .load off size scale req lane =>
    (match elemBad (partOf p home) off size scale with
    | some w => bad (8 * w)
    | none => sendPkg p home sd.pkg sd.core sd.asid (.readDone req lane (elemGot (partOf p home) e.got off size scale)))
  | .store off size v uid =>
    let m := byteMap (((leBytes size v.toNat).zipIdx).map (fun x => (off + x.2, x.1)))
    let left := ((wordsOf m).drop e.pos)
    sendPkg (updPart p home (fun k => scrPut k now (if e.pos = 0 then m else m.filter (fun b => left.contains (b.1 / 8))))) home
      sd.pkg sd.core sd.asid (.ack uid)
  | .reduce els ty opr seq uid =>
    if e.pos = 0 then packetApplied p now home o els ty opr seq uid e.body
    else sendPkg (updPart p home (fun k => applyPacket k now ty opr (els.drop e.pos))) home sd.pkg sd.core sd.asid (.ack uid)
  | .takeFull off size sc d req =>
    if stillAsked p o req then remoteWait p now home (waiter true off size sc 0 d req 0) else p
  | .putEmpty off size v d req uid =>
    if stillAsked p o req then remoteWait p now home (waiter false off size none v d req uid) else p
  | .arrive off n uid =>
    if (scrBad (partOf p home) off 16).isSome then bad off
    else sendPkg (updPart p home (fun k => objEvent k now off (fun x => objArrive x n))) home sd.pkg sd.core sd.asid (.ack uid)
  | _ => p

/-- The work is a user handler's (R159). -/
def isUserWork (e : Errand) : Bool :=
  match e.body with
  | .amsg _ _ _ _ _ _ => true
  | _ => false

/-- The work is one that the NI performs itself, without the errand slot (R157, R160). -/
def isNiWork (e : Errand) : Bool :=
  match e.body with
  | .reduce _ _ _ _ _ => true
  | .takeFull _ _ _ _ _ => true
  | .putEmpty _ _ _ _ _ _ => true
  | .arrive _ _ _ => true
  | _ => false

/-- A packet with SEQ is judged as its first element is folded (R160): then it is applied as one without, or answered. -/
def judged (p : Pkg) (home : Nat) (e : Errand) : Option (Pkg × Errand) :=
  match e.body with
  | .reduce els ty opr (some s) uid =>
    let (v, w) := seqJudge (windowOf (coreOf p home) e.sender.core) s
    if e.sender.pkg = p.regs.pkgnum ∧ v = .apply ∧ els.any (fun x => (scrBad (partOf p home) x.1 (tySize ty)).isSome) = false then
      some (updCore p home (fun c => { c with windows := mapInsert c.windows e.sender.core w }), { e with body := .reduce els ty opr none uid })
    else none
  | _ => none

/-- Part of the oldest built-in work: one word of it, where more than one is left (R158). -/
def builtinPart (p : Pkg) (now home : Nat) (e : Errand) : Option (Pkg × Errand) :=
  match judged p home e with
  | some (q, e') => builtinWord q now home e'
  | none => builtinWord p now home e

/-- The built-in handlers that may run: those before the first user handler, while the errand slot is idle (R159), else what the NI performs
itself before them; the core is not stopped by a gang switch and no REPART waits (R273, R275). With `later`, of the first only one word, where it has several (R158). -/
def runBuiltins (p : Pkg) (now home : Nat) (later : Bool) : Pkg :=
  let k := partOf p home
  if repartWaits k || (coreOf p home).switching then p
  else
    let due := k.errands.takeWhile (fun e => if (slotOf k (errandSlot k.mode)).live then isNiWork e else !isUserWork e)
    let all := due.foldl (fun q e => builtin q now home e) (setPart p home { k with errands := k.errands.drop due.length })
    match due with
    | e :: _ => (match (if later then builtinPart p now home e else none) with
      | some (q, e') => updPart q home (fun k => { k with errands := e' :: k.errands.drop 1 })
      | none => all)
    | [] => all

/-- Work of a source still stands before the errand slot (R159, R171). -/
def behindErrand (p : Pkg) (home : Nat) (o : Origin) : Bool :=
  (partOf p home).errands.any (fun e => decide (e.sender.core = o.core) && decide (e.sender.pkg = o.pkg) && !isUserWork e)

end Sys2Proof.Machine
end

