-- ==== Sys2Proof/Machine/Ops.lean ====
section
/-!
DEFINITION. Shared operations on contexts: hardware barriers (R225, R226), retiring a context (R269), ending a team (R250,
R272), rights (R27, R309), taking an exact or an asynchronous trap (R309 to R313), and the return from one (R316).
-/
namespace Sys2Proof.Machine

/-- A slot waits at the barrier network of a scope, its deadline not passed (R225). -/
def atBarrier (now scope : Nat) (s : Slot) : Bool :=
  match s.hold with
  | .wait w => !w.met && decide (w.kind = .barrier scope) && decide (now ≤ w.deadline)
  | _ => false

/-- The contexts of a core's team that HWBAR counts: loaded and moved out, without the errand slot's handler (R225, R250). -/
def teamContexts (k : Part) : List Slot :=
  (k.slots.filter (fun e => e.2.live && !(decide (e.2.kind = .errand)))).map (·.2) ++ k.moved.map (·.sl)

/-- Every live context of the core's team has arrived at a scope (R225). -/
def coreArrived (k : Part) (now scope : Nat) : Bool :=
  let l := teamContexts k
  decide (l ≠ []) && l.all (atBarrier now scope)

/-- The core lies within the same network of a scope as another (R14). -/
def withinScope (scope c d : Nat) : Bool :=
  match scope with
  | 0 => decide (c = d)
  | 1 => decide (c = d)
  | 2 => decide (blockOf c = blockOf d)
  | 3 => decide (clusterNo c = clusterNo d)
  | 4 => decide (dieOf c = dieOf d)
  | _ => true

/-- The member cores of a team's launch group; with GTAG 0 the core alone (R43, R225). -/
def groupMembers (p : Pkg) (c : Nat) (t : Team) : List Nat :=
  if t.gtag = 0 then [c]
  else match p.groups.find? (fun g => decide (g.asid = t.asid) && decide (g.gtag = t.gtag)) with
    | some g => g.members.filter (fun m => !g.ended.contains m && !g.abandoned.contains m)
    | none => [c]

/-- The contexts of a part are those of a started team of a group, and all wait at a scope (R225). -/
def teamArrived (k : Part) (asid : Nat) (gtag : Word) (now scope : Nat) : Bool :=
  (match k.team with
    | some u => u.started && decide (u.asid = asid) && decide (u.gtag = gtag)
    | none => false) && coreArrived k now scope

/-- A member core has arrived: its team of the group has started and all its contexts wait there (R225); one that a gang switch
stops keeps its arrivals for its resume (R276). -/
def memberArrived (p : Pkg) (t : Team) (now scope m : Nat) : Bool :=
  !(coreOf p m).switching && teamArrived (partOf p m) t.asid t.gtag now scope

/-- Ends the wait of a slot at a scope's network. -/
def releaseSlot (now scope : Nat) (s : Slot) : Slot := latchSlot now (fun w => decide (w = .barrier scope)) s

/-- The waits of a part at the network of a scope end. -/
def releasePart (now scope : Nat) (k : Part) : Part :=
  { k with slots := k.slots.map (fun e => (e.1, releaseSlot now scope e.2))
           moved := k.moved.map (fun m => { m with sl := releaseSlot now scope m.sl }) }

def releaseCore (p : Pkg) (now scope c : Nat) : Pkg := updPart p c (releasePart now scope)

def podSize (p : Pkg) : Nat := fld p.regs.podgrp 10 11

/-- ceil(log2 P) for a P of at most 1,024. -/
def podRounds (size : Nat) : Nat := ((List.range 11).find? (fun m => decide (size ≤ 2 ^ m))).getD 10

/-- The core that names the group of a team: itself where GTAG is 0. -/
def podLead (c : Nat) (t : Team) : Nat := if t.gtag = 0 then c else 0

def podSame (asid : Nat) (gtag : Word) (lead : Nat) (e : PodEpisode) : Bool :=
  decide (e.asid = asid) && decide (e.gtag = gtag) && decide (e.lead = lead)

/-- The message of a round goes to the package of rank (q + 2^m) mod P; what stands at its package is that rank (R226).
One to a package that no port reaches is refused (R361). -/
def podSend (p : Pkg) (e : PodEpisode) : Pkg :=
  let dest := (e.rank + 2 ^ e.round) % e.size
  if p.unreachable.contains dest then p
  else { p with outbox := p.outbox ++ [(dest, 0, .podRound e.asid e.gtag e.lead e.round e.rank)] }

/-- The part runs a team of an episode's group. -/
def podTeam (c : Nat) (k : Part) (e : PodEpisode) : Bool :=
  match k.team with
  | some t => decide (t.asid = e.asid) && decide (t.gtag = e.gtag) && decide (podLead c t = e.lead)
  | none => false

/-- The tick at which the waits of a core stand: those of a core that is being switched out stand still since its selection stopped
(R227, R275). -/
def podTick (co : Core) (now : Nat) : Nat := if co.switching then min now co.switchTick else now

/-- Releases the participants of a POD episode on this package (R225, R226); a partition that is out is released where it stands saved,
its deadlines written as what remains (R227, R276). -/
def podRelease (p : Pkg) (now : Nat) (e : PodEpisode) : Pkg :=
  let q := ((mapKeys p.cores).filter (fun c => podTeam c (partOf p c) e)).foldl (fun q c =>
    releaseCore q (podTick (coreOf q c) now) 6 c) p
  { q with saves := q.saves.map (fun x =>
      if podTeam x.2.core x.2.part e then (x.1, { x.2 with part := releasePart 0 6 x.2.part }) else x) }

/-- The package's arrival at an episode stands: no participant has withdrawn from it by a timeout or a trap (R225); a partition that is
being saved or is out keeps its arrivals (R227), and a fenced core is none (R328). -/
def podStands (p : Pkg) (now : Nat) (e : PodEpisode) : Bool :=
  (p.cores.filter (fun x => podTeam x.1 x.2.part e && x.2.fenced.isNone)).all (fun x =>
    teamArrived x.2.part e.asid e.gtag (podTick x.2 now) 6) &&
  (p.saves.filter (fun x => podTeam x.2.core x.2.part e)).all (fun x => teamArrived x.2.part e.asid e.gtag 0 6)

/-- An episode goes on while the package's arrival stands and the message of its round is in; after the last round it completes (R225,
R226). Messages that belong to the group's next episode are kept. -/
def podGo : Nat → Pkg → Nat → PodEpisode → Pkg × Option PodEpisode
  | 0, p, _, e => (p, some e)
  | fuel + 1, p, now, e =>
    if (e.arrived && podStands p now e) = false then (p, some e)
    else if decide (podRounds e.size ≤ e.round) then
      (podRelease p now e, if e.got = [] then none else some { e with arrived := false, round := 0 })
    else if e.got.contains e.round then
      let e' := { e with round := e.round + 1, got := e.got.erase e.round }
      podGo fuel (if e'.round < podRounds e'.size then podSend p e' else p) now e'
    else (p, some e)

/-- Counters of switches decide the episodes of a group: every switch at a Roneel port that is up advertises them (R226, R360). -/
def countersUsed (p : Pkg) (gid : Nat) : Bool :=
  (List.range 16).all (fun port => p.portsDown.contains port || Config.switchCounters port gid)

/-- A slot waits at POD. -/
def atPod (s : Slot) : Bool :=
  match s.hold with
  | .wait w => !w.met && decide (w.kind = .barrier 6)
  | _ => false

/-- The POD barrier of a group is waiting on this package: a context of its teams stands there (R360). -/
def podWaiting (p : Pkg) (e : PodEpisode) : Bool :=
  p.cores.any (fun x => podTeam x.1 x.2.part e && (teamContexts x.2.part).any atPod) ||
    p.saves.any (fun x => podTeam x.2.core x.2.part e && (teamContexts x.2.part).any atPod)

/-- The episode of a group that is waiting or under way; where none is, the next one, which takes PODGRP as it stands (R360). -/
def podEpisode (p : Pkg) (asid : Nat) (gtag : Word) (lead : Nat) : PodEpisode :=
  let next : PodEpisode := { asid := asid, gtag := gtag, lead := lead, arrived := false, gid := fld p.regs.podgrp 32 10,
                             size := podSize p, rank := fld p.regs.podgrp 0 10, round := 0, got := [] }
  match p.pod.find? (podSame asid gtag lead) with
  | some e => if e.arrived || podWaiting p e then e else { next with got := e.got }
  | none => next

/-- Keeps the episode of a group. -/
def putEpisode (p : Pkg) (e : PodEpisode) : Pkg :=
  { p with pod := p.pod.filter (fun x => !podSame e.asid e.gtag e.lead x) ++ [e] }

/-- A context of a core comes to wait at POD: the first of an episode fixes its group, size and rank (R360). -/
def podBegin (p : Pkg) (c : Nat) : Pkg :=
  match (partOf p c).team with
  | some t => putEpisode p (podEpisode p t.asid t.gtag (podLead c t))
  | none => p

/-- Changes the episode of a group and lets it go on. -/
def podUpdate (p : Pkg) (now : Nat) (e : PodEpisode) : Pkg :=
  let rest := p.pod.filter (fun x => !podSame e.asid e.gtag e.lead x)
  match podGo 12 p now e with
  | (q, some e') => { q with pod := rest ++ [e'] }
  | (q, none) => { q with pod := rest }

/-- The package has arrived at a POD barrier (R226): its first round begins, unless a switch counter decides. Where it had arrived and
a participant had withdrawn, the episode goes on from its round. -/
def podArrive (p : Pkg) (now c : Nat) (t : Team) : Pkg :=
  let old := podEpisode p t.asid t.gtag (podLead c t)
  let e := if old.arrived then old else { old with arrived := true, round := 0 }
  if countersUsed p e.gid then putEpisode p e
  else podUpdate (if old.arrived then p else podSend p e) now e

/-- The last participant's arrival releases the episode of a scope (R225); at POD with several packages the package arrives
(R226). -/
def barrierCheck (p : Pkg) (now c scope : Nat) : Pkg :=
  match (partOf p c).team with
  | none => p
  | some t =>
    let ms := if scope ≤ 1 then [c] else (groupMembers p c t).filter (fun m => withinScope scope c m)
    if ms.all (memberArrived p t now scope) then
      let e := podEpisode p t.asid t.gtag (podLead c t)
      if scope = 6 ∧ 1 < e.size then podArrive p now c t
      else ms.foldl (fun q m => releaseCore q now scope m)
        (if scope = 6 then { p with pod := p.pod.filter (fun x => !podSame e.asid e.gtag e.lead x) } else p)
    else p

def barrierCheckAll (p : Pkg) (now c : Nat) : Pkg := [1, 2, 3, 4, 5, 6].foldl (fun q s => barrierCheck q now c s) p

/-- The walks that a slot asked for are of no more use. -/
def dropWalks (p : Pkg) (c n : Nat) : Pkg :=
  let k := clusterOf p (clusterNo c)
  if k.walks.any (fun w => decide (w.core = c) && decide (w.slot = n) && w.uid.isNone) then
    setCluster p (clusterNo c) { k with walks := k.walks.filter (fun w =>
      !(decide (w.core = c) && decide (w.slot = n) && w.uid.isNone)) }
  else p

/-- As the one context ends that outlives its team, a handler or one at its TEAMK, nothing of that team is left (R249, R250, R272). -/
def endPast (k : Part) : Part :=
  match k.past with
  | some t =>
    { k with past := none, journal := k.journal.filter (fun e => !(decide (e.2.team = t.no % 256) && decide (e.2.asid = t.asid))) }
  | none => k

/-- A slot becomes idle, its registers as its context left them (R239, R278); a START that waits for it sees that (R260, R266). -/
def freeSlot (p : Pkg) (now c n : Nat) : Pkg :=
  updPart (dropWalks p c n) c (fun k =>
    let k1 := setSlot (endPast (dropWaiter k n)) n (retiredSlot (slotOf k n))
    { k1 with slots := k1.slots.map (fun e => (e.1, latchSlot now (fun w => decide (w = .startSlot n)) e.2)) })

/-- The pending asynchronous traps of a team without a control context go to the supervisor (R250, R269). -/
def reportPending (p : Pkg) (now c : Nat) : Pkg :=
  let k := partOf p c
  k.pend.foldl (fun q t => report q now (asyncReport c (asidOf k) t)) (setPart p c { k with pend := [] })

/-- Merge faults that wait with a team of a core go to the supervisor, its records in the core's queue and those of stalled runs that wait for
a place in it (R306, R322). -/
def reportFaults (p : Pkg) (now c : Nat) (t : Team) : Pkg :=
  let mine := fun (m : MergeFault) => decide (m.u.asid = t.asid) && decide (m.u.team = t.no % 256)
  let l := (coreOf p c).mfq.filter mine
  let p1 := updCore p c (fun x => { x with mfq := x.mfq.filter (fun m => !mine m) })
  queueWaiting (l.foldl (fun q m =>
    report q now { asyncReport c m.u.asid (mergeFaultTrap m) with tpc := m.u.ioff, slot := m.u.slot }) p1) now c

/-- Retires the context of a slot (R269): it leaves its slot, its rings become undefined with it, barriers go on without
it. -/
def retireSlot (p : Pkg) (now c n : Nat) : Pkg :=
  let kind := (slotOf (partOf p c) n).kind
  let p1 := freeSlot p now c n
  let p2 := if kind = .control then reportPending p1 now c else p1
  barrierCheckAll p2 now c

/-- Ends the handler on the errand slot with an answer to the sender (R208, R209); then the built-in ones that wait for it run (R159). -/
def endHandler (p : Pkg) (now c n : Nat) (answer : Nat → MsgBody) : Pkg :=
  match (slotOf (partOf p c) n).sender with
  | none => freeSlot p now c n
  | some sd => runBuiltins (sendPkg (freeSlot p now c n) c sd.pkg sd.core sd.asid (answer sd.uid)) now c false

/-- A completion or failure of a counted copy travels to its object (R223). -/
def countCopy (p : Pkg) (now c : Nat) (x : Copy) (failed : Bool) : Pkg :=
  if x.ben && decide (x.added = 1) then
    if x.home = c then updPart p c (fun k => objEvent k now x.off (objDone x.bytes x.narr failed))
    else send p c x.home x.asid (.countDone x.off x.bytes x.narr failed)
  else p

/-- Writes the completion word of a launch, a strong store at POD, and has its vector raised after it; a fault of that store is
reported (R43). -/
def completionWord (p : Pkg) (now c asid done dvec : Nat) (den sup : Bool) (reason : Nat) : Pkg :=
  if done = 0 then p
  else if done % 8 ≠ 0 then report p now ⟨0x04, 0, BitVec.ofNat 64 done, 0, 0, false, false, 0, asid, c⟩
  else
    match walk p now c asid done (!sup) true with
    | .error t =>
      report p now ⟨t.cause, t.sub, t.tval, 0, 0, false, false, 0, asid, c⟩
    | .ok x =>
      let key := storeKey x done
      let p1 := (pushKey p now c 6 key).1
      let sh := done % 32
      let u := portRec p1 now (BitVec.ofNat 32 (255 * 2 ^ sh)) (BitVec.ofNat 256 (reason * 2 ^ (8 * sh)))
      portWrite p1 now key u (if den then some dvec else none) 0

/-- Puts a record back at the head of its queue (R258, R328). -/
def returnRecord (p : Pkg) (c : Nat) (r : Selected) : Pkg :=
  let cl := clusterNo c
  let k := clusterOf p cl
  let q := mapGet ([] : List QRec) k.queues r.prio
  setCluster p cl { k with queues := mapPut [] k.queues r.prio (⟨r.task, r.since⟩ :: q) }

/-- A remote wait of a core, by its waiter at a home or its request that a sender keeps (R205). -/
def elsewhere (p : Pkg) (c : Nat) (w : Waiter) : Bool :=
  w.slot.isNone && decide (w.pkg = p.regs.pkgnum) && decide (w.src = c)

def waitRequest (b : MsgBody) : Bool :=
  match b with
  | .takeFull _ _ _ _ _ => true
  | .putEmpty _ _ _ _ _ _ => true
  | _ => false

/-- Withdraws every wait and walk that a core has elsewhere (R272, R328). -/
def withdrawElsewhere (p : Pkg) (c : Nat) : Pkg :=
  let part := fun (k : Part) => { k with waiters := k.waiters.filter (fun w => !elsewhere p c w) }
  let cl := clusterNo c
  let k := clusterOf p cl
  setCluster { p with
    cores := p.cores.map (fun e => (e.1, { e.2 with part := part e.2.part }))
    saves := p.saves.map (fun e => (e.1, { e.2 with part := part e.2.part }))
    parked := p.parked.filter (fun m => !(decide (m.src = c) && waitRequest m.body)) } cl
    { k with walks := k.walks.filter (fun w => !(decide (w.core = c))) }

/-- What waits for the errand slot of a core is refused: the team that it is for has ended (log 34). -/
def refuseWaiting (p : Pkg) (c : Nat) : Pkg :=
  (partOf p c).errands.foldl (fun q e => refuse q c e.sender.pkg e.sender.core e.sender.asid 0x21 e.body) p

/-- The same, and what the errand slot serves (log 34). -/
def refuseErrands (p : Pkg) (c : Nat) : Pkg :=
  let k := partOf p c
  let p1 := refuseWaiting p c
  (k.slots.filterMap (fun e => e.2.sender)).foldl (fun q s => sendPkg q c s.pkg s.core s.asid (.refusal s.uid 0x21 0)) p1

/-- Ends the team of a core (R272): contexts retire, waits are withdrawn, journal entries, commands and the rest of copies
are given up, those of teams that ended before go on (R269); strong operations already issued are still performed; the completion word
says why (R43). The context of slot `keep`, at its TEAMK, retires last. -/
def endTeam (p : Pkg) (now c reason : Nat) (keep : Option Nat := none) : Pkg :=
  let co := coreOf p c
  let k := co.part
  match k.team with
  | none => p
  | some t =>
    let left := (k.slots.filter (fun e => decide (keep ≠ some e.1))).filterMap (fun e => match e.2.hold with
      | .strong _ _ _ => some (c, e.1, e.2)
      | .region _ => some (c, e.1, e.2)
      | .joins _ _ _ _ _ => some (c, e.1, e.2)
      | .push sc rel recs =>
        if e.2.region.isSome then some (c, e.1, { e.2 with hold := .region now })
        else if recs = [] then none else some (c, e.1, { e.2 with hold := .push sc rel recs })
      | _ => none)
    let p1 : Pkg := { p with orphans := p.orphans ++ left }
    let p2 := reportPending p1 now c
    let p3 := match co.sel with
      | some r => returnRecord p2 c r
      | none => p2
    let others := fun (asid no : Nat) => !(decide (asid = t.asid) && decide (no = t.no))
    let p4 := (k.copies.filter (fun x => !others x.asid x.team)).foldl (fun q x => countCopy q now c x true) p3
    let p6 := withdrawElsewhere (refuseErrands p4 c) c
    let k6 := partOf p6 c
    let k7 : Part :=
      { k6 with slots := (k6.slots.map (fun e => if keep = some e.1 then e else (e.1, retiredSlot e.2))).filter (fun e => decide (e.2 ≠ slotReset)),
                matq := k6.matq.filter (fun x => others x.asid x.team), accq := k6.accq.filter (fun x => others x.asid x.team), seamq := k6.seamq.filter (fun x => others x.asid x.team),
                smrgq := k6.smrgq.filter (fun x => others x.asid x.team), copies := k6.copies.filter (fun x => others x.asid x.team),
                errands := [], moved := [],
                journal := k6.journal.filter (fun e => !(decide (e.2.team = t.no % 256) && decide (e.2.asid = t.asid))),
                waiters := k6.waiters.filter (fun w => w.slot.isNone), team := none, past := keep.map (fun _ => t), pend := [] }
    let p7 := updCore p6 c (fun x => { x with part := k7, prevAsid := some t.asid, ask := none, sel := none })
    let p8 : Pkg := { p7 with groups := p7.groups.map (fun g =>
      if g.asid = t.asid ∧ g.gtag = t.gtag ∧ t.gtag ≠ 0 then { g with ended := g.ended ++ [c] } else g) }
    let p9 := (match p8.groups.find? (fun g => decide (g.asid = t.asid) && decide (g.gtag = t.gtag)) with
      | some g => g.members.foldl (fun q m => barrierCheckAll q now m) p8
      | none => p8)
    completionWord (reportFaults p9 now c t) now c t.asid t.done t.dvec t.den t.sup reason

/-- The right that decoding step 2 asks for (R27, R300, R308, R309, R312); a TEAMK whose A names no register names no ASID. -/
def hasRight (k : Part) (s : Slot) : Need → Bool
  | .free => true
  | .supervisor => supOf k
  | .teamk a => supOf k || (s.handler && (match a with
    | some r => decide (fld (sregOf s r.toNat) 0 9 = asidOf k)
    | none => false))
  | .eret => supOf k || s.handler
  | .csrRead n =>
    let n := n.toNat
    if 0x100 ≤ n ∧ n ≤ 0x107 ∨ n = 0x10C then supOf k || s.handler
    else if 0x80 ≤ n ∧ n ≤ 0x84 then supOf k
    else true
  | .csrWrite n =>
    let n := n.toNat
    if 0x10 ≤ n ∧ n ≤ 0x14 then true
    else if n = 0x108 then supOf k || s.handler || (match teamOf k with
      | some t => bit t.caps 0
      | none => false)
    else if 0x100 ≤ n ∧ n ≤ 0x10C then supOf k || s.handler
    else supOf k

/-- %TCAUSE of a trap (R313). -/
def tcauseWord (t : Trap) : Word :=
  BitVec.ofNat 64 (packFields [(8, t.cause), (6, t.jent), (1, b2n (decide (0x20 ≤ t.cause ∧ t.cause ≤ 0x23))), (1, b2n t.jv),
    (8, t.sub)])

/-- The vector is valid and names a text offset (R309). -/
def vectorOk (tvec : Word) (text : Nat) : Bool :=
  bit tvec 63 && decide (fld tvec 0 32 % 12 = 0) && decide (fld tvec 0 32 < text)

/-- %TPC of a trap of a slot: the ARB of an open region, or the instruction (R200, R307). -/
def trapPc (s : Slot) : Nat :=
  match s.region with
  | some r => r.arbPc
  | none => s.pc

/-- %TBODY (R312). -/
def trapBody (s : Slot) (t : Trap) : Word :=
  match s.region, t.body with
  | some _, some b => BitVec.ofNat 64 (2 ^ 63 + b)
  | some _, none => BitVec.ofNat 64 (2 ^ 63 + s.pc)
  | none, _ => 0

/-- Handler entry (R309): the trap registers, handler mode, pc at the vector; every register, predicate and ring as it
was. -/
def enterHandler (k : Part) (n : Nat) (t : Trap) : Part :=
  let s := slotOf k n
  setSlot (dropWaiter k n) n
    { s with tcause := tcauseWord t, tpc := BitVec.ofNat 64 (trapPc s), tval := t.tval, tinfo := t.tinfo,
             tbody := trapBody s t, handler := true, hcause := t.cause, pc := fld k.tvec 0 32, hold := .none,
             cap := none, region := none, walkFault := none }

/-- The report of a trap that ends its team or its handler (R208, R309, R311, R314). -/
def trapReport (k : Part) (c n : Nat) (t : Trap) (nested teamEnd : Bool) : Report :=
  let s := slotOf k n
  { cause := t.cause, sub := t.sub, tval := t.tval, tpc := trapPc s, orig := if nested then s.hcause else 0,
    nested := nested, teamEnd := teamEnd, slot := n, asid := asidOf k, core := c }

/-- Taking an exact trap in a slot (R309, R311; in a handler of the errand slot R208). -/
def takeTrap (p : Pkg) (now c n : Nat) (t : Trap) : Pkg :=
  let k := partOf p c
  let s := slotOf k n
  if s.handler then endTeam (report p now (trapReport k c n t true true)) now c 3
  else if s.kind = .errand then
    endHandler (report p now (trapReport k c n t false false)) now c n (fun uid => .refusal uid 0x3E (BitVec.ofNat 64 t.cause))
  else if vectorOk k.tvec (textSizeOf p c) then setPart (dropWalks p c n) c (enterHandler k n t)
  else endTeam (report p now (trapReport k c n t false true)) now c 3

/-- A MACHINE_CHECK detects an uncorrectable error (R332). -/
def logCheck (p : Pkg) (now c : Nat) (t : Trap) : Pkg :=
  if t.cause = 0x30 then logDetected p now (coreSource c) t.sub t.tval.toNat else p

/-- The pending trap that is taken first: the lowest cause, within one cause the oldest (R310). -/
def firstPending (l : List Trap) : Option Trap :=
  match l with
  | [] => none
  | t :: rest => some (rest.foldl (fun b x => if x.cause < b.cause then x else b) t)

/-- Takes the first pending asynchronous trap in the control context (R310); %TINFO of MERGE_FAULT counts the queue. -/
def takeAsync (p : Pkg) (now c : Nat) : Pkg :=
  let co := coreOf p c
  let k := co.part
  match firstPending k.pend with
  | none => p
  | some t =>
    let t' := if t.cause = 0x22 then { t with tinfo := BitVec.ofNat 64 co.mfq.length } else t
    takeTrap (setPart p c { k with pend := k.pend.erase t }) now c 0 t'

/-- The holds at which an asynchronous trap abandons the instruction; the others complete first (R310). A wait whose condition has been
seen is over: its instruction completes (R260). -/
def abandonable (h : Hold) : Bool :=
  match h with
  | .none => true
  | .busy => false
  | .push _ _ _ => true
  | .wait w => !w.met
  | .posting _ => false
  | .strong _ _ _ => false
  | .region _ => false
  | .reply _ => false
  | .sync => true
  | .tile _ _ => false
  | .words _ _ _ => false
  | .joins _ _ _ _ _ => false
  | .kill _ _ => false
  | .stopped => true

/-- The return from a trap (R316): pc from %TPC, handler mode left; all else as the handler left it. -/
def returnFromTrap (s : Slot) : Slot := { s with pc := s.tpc.toNat, handler := false }

end Sys2Proof.Machine
end

