-- ==== Sys2Proof/Machine/Operands.lean ====
section
/-!
DEFINITION. Operands at execution: the checks of R34 that need state, readiness (R29, R231, R232), the registers an
instruction uses (R253), reading sources and writing destinations (R28, R31, R32, R81, R82).
-/
namespace Sys2Proof.Machine

def causeIllegal : Nat := 0x01
def causePrivilege : Nat := 0x02
def causeOperand : Nat := 0x03
def causeAlign : Nat := 0x04
def causeBounds : Nat := 0x05
def causeLattice : Nat := 0x06
def causeFp : Nat := 0x07
def causeTimeout : Nat := 0x08
def causeMachineCheck : Nat := 0x30

/-- A trap whose SUB, %TVAL and %TINFO R313 does not state (log 16). -/
def bareTrap (cause : Nat) (cx : Cx) : Trap :=
  let d := Config.trapDetail cause [cx.now, cx.core, cx.slot]
  trapOf cause d.1.toNat d.2.1 d.2.2

/-- ALIGN with its target or address (R313). -/
def alignTrap (a : Int) : Trap := trapOf causeAlign 0 (BitVec.ofInt 64 a) 0

/-- LAYOUT_BOUNDS at coordinates of a layout entry (R313). -/
def boundsTrap (sub : Nat) (coords : Word) (entry : Nat) : Trap := trapOf causeBounds sub coords (BitVec.ofNat 64 entry)

/-- A ring as a slot sees it: the owner's pointers and registers (R230). -/
structure RingView where
  owner : Nat
  base : Nat
  size : Nat
  c : Nat
  p : Nat
  f : Nat
  deriving DecidableEq, Repr, Inhabited

/-- The ring qN of a slot; an attached slot sees its owner's (R230). -/
def ringView (k : Part) (slot q : Nat) : Option RingView :=
  match mapFind (slotOf k slot).rings q with
  | some (.own b s c p f) => some ⟨slot, b, s, c, p, f⟩
  | some (.att o ctx) => (match mapFind (slotOf k o).rings q with
    | some (.own b s c p f) => if (slotOf k o).ctx = ctx then some ⟨o, b, s, c, p, f⟩ else none
    | _ => none)
  | none => none

/-- The slot is attached to a ring whose owner is moved out (R262, R263): its ring operands wait until the owner is back. -/
def ringAway (k : Part) (slot q : Nat) : Bool :=
  match mapFind (slotOf k slot).rings q with
  | some (.att _ ctx) => k.moved.any (fun m => decide (m.sl.ctx = ctx))
  | _ => false

/-- An operand of a word is a ring whose owner is away. -/
def opdAway (k : Part) (slot : Nat) : Opd → Bool
  | .qc q _ _ => ringAway k slot q.toNat
  | .qp q _ _ => ringAway k slot q.toNat
  | _ => false

/-- The physical register of a ring slot. -/
def ringReg (k : Part) (v : RingView) (n : Nat) : Nat := physReg k v.owner (v.base + n % v.size)

/-- The checks of R34 on a descriptor that depend on the state. -/
def opdOk (k : Part) (core slot : Nat) : Opd → Bool
  | .v r => decide (r.toNat < regCount k.mode)
  | .qc q w o => (match ringView k slot q.toNat with
    | some v => decide (o.toNat < v.size) && decide (w.toNat ≤ v.size)
    | none => ringAway k slot q.toNat)
  | .qp q w o => (match ringView k slot q.toNat with
    | some v => decide (o.toNat < v.size) && decide (w.toNat ≤ v.size)
    | none => ringAway k slot q.toNat)
  | .m ch _ _ => (meshNeighbour core ch.toNat).isSome
  | _ => true

/-- The descriptor at B; an immediate names none. -/
def bDesc : BOpd → Opd
  | .desc o => o
  | _ => .none

/-- Registers past the one named that an instruction reads or writes from a vector base: FQNT, LQNT and LDEC (R104, R122,
R123). -/
def vecExtra (code : Nat) (f : Fields) : Nat × Nat :=
  match code with
  | 0x0A2 => (3, 0)
  | 0x0A6 => (7, 0)
  | 0x0A7 => (0, if f.md.toNat % 8 = 0 then 7 else 3)
  | _ => (0, 0)

/-- The last register of a block lies below the slot's count. -/
def spanOk (k : Part) (extra : Nat) : Opd → Bool
  | .v r => decide (r.toNat + extra < regCount k.mode)
  | _ => true

/-- Registers that are read-only in every mode (R300, R312). -/
def csrReadOnly (n : Nat) : Bool :=
  [0x000, 0x001, 0x002, 0x015, 0x020, 0x021, 0x022, 0x023, 0x024, 0x025, 0x026, 0x027, 0x109, 0x10A, 0x10B].contains n

/-- A CSRW of a register that is read-only (R301). -/
def writesReadOnly (code : Nat) (f : Fields) : Bool :=
  decide (code = 0x163) && (match f.d with
    | .csr n => csrReadOnly n.toNat
    | _ => false)

/-- The checks of decoding step 3 that depend on the state, for a whole word (R27, R34, R301); the D operand of QDEF is exempt
(R46). -/
def stateOk (k : Part) (core slot code : Nat) (f : Fields) : Bool :=
  !writesReadOnly code f && (decide (code = 0x128) || opdOk k core slot f.d) && opdOk k core slot f.a && opdOk k core slot (bDesc f.b) &&
    spanOk k (vecExtra code f).1 f.a && spanOk k (vecExtra code f).2 f.d

/-- Entries waiting in a mesh FIFO of a core (R232). -/
def meshFifo (k : Part) (ch : Nat) : List VReg := mapGet [] k.mesh ch

/-- Entries that a produce operand finds in the FIFO it feeds. -/
def meshOut (p : Pkg) (core ch : Nat) : List VReg :=
  match meshNeighbour core ch with
  | some n => meshFifo (partOf p n) (meshOpposite ch)
  | none => []

/-- The wait count of a ring or mesh operand is met (R29, R231, R232). -/
def opdReady (p : Pkg) (core slot : Nat) : Opd → Bool
  | .qc q w _ => (match ringView (partOf p core) slot q.toNat with
    | some v => decide (w.toNat ≤ v.f)
    | none => decide (w = 0) && !ringAway (partOf p core) slot q.toNat)
  | .qp q w _ => (match ringView (partOf p core) slot q.toNat with
    | some v => decide (w.toNat + v.f ≤ v.size)
    | none => false)
  | .m ch false w => decide (max w.toNat 1 ≤ (meshFifo (partOf p core) ch.toNat).length)
  | .m ch true w => decide ((meshOut p core ch.toNat).length + max w.toNat 1 ≤ 16)
  | _ => true

/-- A ring operand of a word waits for its owner (R262, R263). -/
def ringsAway (k : Part) (slot : Nat) (f : Fields) : Bool :=
  opdAway k slot f.d || opdAway k slot f.a || opdAway k slot (bDesc f.b)

/-- Both sources consume from one mesh channel: two entries are needed (R232; log 21). -/
def pairReady (p : Pkg) (core : Nat) (f : Fields) : Bool :=
  match f.a, f.b with
  | .m x false _, .desc (.m y false _) =>
    decide (x ≠ y) || decide (2 ≤ (meshFifo (partOf p core) x.toNat).length)
  | _, _ => true

/-- Every ring and mesh operand is ready. -/
def operandsReady (p : Pkg) (core slot : Nat) (f : Fields) : Bool :=
  opdReady p core slot f.d && opdReady p core slot f.a && opdReady p core slot (bDesc f.b) && pairReady p core f

/-- Registers past sN that a register block takes in, at A and at B (R49). -/
def scalarExtra (code : Nat) : Nat × Nat :=
  match code with
  | 0x0C2 => (1, 0)
  | 0x0C6 => (0, 2)
  | 0x0C7 => (0, 1)
  | 0x106 => (3, 0)
  | 0x120 => (0, 3)
  | _ => (0, 0)

def scalarRegs (extra : Nat) : Opd → List Nat
  | .s r => (List.range (extra + 1)).map (fun i => r.toNat + i)
  | _ => []

/-- Scalar registers a word reads or writes (R84, R253); START reads s1 to s30 for its helper (R266). -/
def usedScalars (code : Nat) (f : Fields) : List Nat :=
  scalarRegs 0 f.d ++ scalarRegs (scalarExtra code).1 f.a ++ scalarRegs (scalarExtra code).2 (bDesc f.b) ++
    (if code = 0x004 ∨ code = 0x005 then [31] else if code = 0x140 then (List.range 31).filter (fun r => decide (0 < r)) else [])

/-- Physical vector registers that an operand reads or writes; a matrix command and the pointer instructions of a ring
use all of its registers (R112, R231). -/
def vectorRegs (k : Part) (slot code extra : Nat) : Opd → List Nat
  | .v r => (List.range (extra + 1)).map (fun i => physReg k slot (r.toNat + i))
  | .qc q _ o => (match ringView k slot q.toNat with
    | some v => if code = 0x0C0 ∨ code = 0x0C1 ∨ code = 0x129 ∨ code = 0x12A then
        (List.range v.size).map (ringReg k v)
      else if code = 0x128 ∨ code = 0x12B then []
      else [ringReg k v (v.c + o.toNat)]
    | none => [])
  | .qp q _ o => (match ringView k slot q.toNat with
    | some v => [ringReg k v (v.p + o.toNat)]
    | none => [])
  | _ => []

def usedVectors (k : Part) (slot code : Nat) (f : Fields) : List Nat :=
  vectorRegs k slot code (vecExtra code f).2 f.d ++ vectorRegs k slot code (vecExtra code f).1 f.a ++
    vectorRegs k slot code 0 (bDesc f.b)

/-- CSRR and CSRW of %FPFLAGS, by code and operands. -/
def namesFlags (code : Nat) (f : Fields) : Bool :=
  (decide (code = 0x162) && decide (f.a = .csr 0x010)) || (decide (code = 0x163) && decide (f.d = .csr 0x010))

/-- The scoreboard holds the slot for a register that an older load of the slot has still to write (R253); %FPFLAGS waits
for every outstanding load, and for the slot's ACCST instructions (R70). -/
def scoreboardFree (k : Part) (slot code : Nat) (f : Fields) : Bool :=
  let ls := (slotOf k slot).loads
  !(namesFlags code f && (decide (ls ≠ []) || k.accq.any (fun x => decide (x.ctx = (slotOf k slot).ctx)))) && (decide (ls = []) ||
    ls.all (fun l => match l.dest with
      | .sreg r => !(usedScalars code f).contains r
      | .vreg r => !(usedVectors k slot code f).contains r))

/-- Scalar registers that a word reads (R253): its sources, D of SBFI and SLI.HI, and the link register of RET. -/
def readScalars (code : Nat) (f : Fields) : List Nat :=
  scalarRegs (scalarExtra code).1 f.a ++ scalarRegs (scalarExtra code).2 (bDesc f.b) ++
    (if code = 0x033 ∨ code = 0x036 then scalarRegs 0 f.d else []) ++
    (if code = 0x005 then [31] else if code = 0x140 then (List.range 31).filter (fun r => decide (0 < r)) else [])

/-- Physical vector registers that it reads: its sources, and D of VMAD and FFMA. -/
def readVectors (k : Part) (slot code : Nat) (f : Fields) : List Nat :=
  vectorRegs k slot code (vecExtra code f).1 f.a ++ vectorRegs k slot code 0 (bDesc f.b) ++
    (if code = 0x064 ∨ code = 0x083 then vectorRegs k slot code 0 f.d else [])

/-- MACHINE_CHECK of a register file (R313): the offset is in bytes, of the scalar registers by slot and number, then of the vector
registers (log 13). -/
def regTrap (a : Nat) : Trap := trapOf causeMachineCheck 4 (BitVec.ofNat 64 a) (Config.arrayIdent 4 a)
def sregTrap (slot r : Nat) : Trap := regTrap (8 * (32 * slot + r))
def vregTrap (r : Nat) : Trap := regTrap (4096 + 128 * r)

/-- A scalar register among some holds an uncorrectable error (R313). -/
def scalarCheck (s : Slot) (slot : Nat) (rs : List Nat) : Option Trap :=
  (s.badRegs.find? (fun r => rs.contains r)).map (sregTrap slot)

/-- A register that a word reads holds an uncorrectable error (R313). -/
def regCheck (k : Part) (slot code : Nat) (f : Fields) : Option Trap :=
  match scalarCheck (slotOf k slot) slot (readScalars code f) with
  | some t => some t
  | none => (k.badVregs.find? (fun r => (readVectors k slot code f).contains r)).map vregTrap

/-- A word of a bound constant window (R32). -/
def windowWord (p : Pkg) (core k off : Nat) : Option (BitVec 32) :=
  match teamOf (partOf p core) with
  | none => none
  | some t => (match imageOf p t with
    | none => none
    | some im => (match mapFind im.windows k with
      | none => none
      | some bs => if 4 * off + 4 ≤ bs.length then some (BitVec.ofNat 32 (leNat ((bs.drop (4 * off)).take 4))) else none))

/-- The window reference at B is bound (R32). -/
def windowOk (p : Pkg) (core : Nat) : BOpd → Bool
  | .win k off => (windowWord p core k.toNat off.toNat).isSome
  | _ => true

def sregAt (k : Part) (slot r : Nat) : Word := sregOf (slotOf k slot) r

/-- The A register of a scalar operand; class 15 reads as zero (R33). -/
def opdScalar (s : Slot) : Opd → Word
  | .s r => sregOf s r.toNat
  | _ => 0

/-- B for scalar use (R31). -/
def bScalar (p : Pkg) (core : Nat) (s : Slot) : BOpd → Word
  | .desc o => opdScalar s o
  | .imm v => sext32 v
  | .win k off => sext32 ((windowWord p core k.toNat off.toNat).getD 0)
  | .fimm v => zext32 v

/-- The lane guard of a word (R28). -/
def guardMask (s : Slot) (f : Fields) : Mask :=
  if f.gneg then ~~~ (predOf s f.gp.toNat) else predOf s f.gp.toNat

/-- The guard of an instruction that is not lane-wise (R28). -/
def guardLane0 (s : Slot) (f : Fields) : Bool := bit (guardMask s f) 0

/-- A value in every lane. -/
def splat (v : Lane) : VReg := mkLanes (fun _ => v)

/-- A vector source; `skip` entries of its mesh FIFO are popped before it (R231, R232). -/
def readVec (p : Pkg) (core slot skip : Nat) : Opd → VReg
  | .v r => vregAt (partOf p core) (physReg (partOf p core) slot r.toNat)
  | .qc q _ o => (match ringView (partOf p core) slot q.toNat with
    | some v => vregAt (partOf p core) (ringReg (partOf p core) v (v.c + o.toNat))
    | none => 0)
  | .m ch false _ => (meshFifo (partOf p core) ch.toNat).getD skip 0
  | .s r => splat (low32 (sregAt (partOf p core) slot r.toNat))
  | _ => 0

/-- Mesh entries that A takes from the channel that B names too. -/
def meshSkip (f : Fields) : Nat :=
  match f.a, f.b with
  | .m x false _, .desc (.m y false _) => if x = y then 1 else 0
  | _, _ => 0

def readA (p : Pkg) (core slot : Nat) (f : Fields) : VReg := readVec p core slot 0 f.a

/-- B for vector use: an immediate in every lane (R31). -/
def readB (p : Pkg) (core slot : Nat) (f : Fields) : VReg :=
  match f.b with
  | .desc o => readVec p core slot (meshSkip f) o
  | .imm v => splat v
  | .win k off => splat ((windowWord p core k.toNat off.toNat).getD 0)
  | .fimm v => splat v

/-- Adds an entry to an incoming FIFO (R232). -/
def pushMesh (k : Part) (ch : Nat) (v : VReg) : Part := { k with mesh := mapPut [] k.mesh ch (meshFifo k ch ++ [v]) }

/-- Pops the entry a consume operand read (R232). -/
def popMesh (p : Pkg) (core : Nat) : Opd → Pkg
  | .m ch false _ => updPart p core (fun k => { k with mesh := mapPut [] k.mesh ch.toNat ((meshFifo k ch.toNat).drop 1) })
  | _ => p

def popSources (p : Pkg) (core : Nat) (f : Fields) : Pkg := popMesh (popMesh p core f.a) core (bDesc f.b)

/-- Writes a vector destination under a lane guard (R28, R81): a register or a ring slot keeps its guard-false lanes, a
mesh channel carries 0 in them. -/
def writeVec (p : Pkg) (core slot : Nat) (g : Mask) (v : VReg) : Opd → Pkg
  | .v r => updPart p core (fun k =>
      let n := physReg k slot r.toNat
      setVregAt k n (mergeLanes g (vregAt k n) v))
  | .qp q _ o => (match ringView (partOf p core) slot q.toNat with
    | some w => updPart p core (fun k =>
        let n := ringReg k w (w.p + o.toNat)
        setVregAt k n (mergeLanes g (vregAt k n) v))
    | none => p)
  | .m ch true _ => (match meshNeighbour core ch.toNat with
    | some n => updPart p n (fun k => pushMesh k (meshOpposite ch.toNat) (mergeLanes g 0 v))
    | none => p)
  | _ => p

/-- Writes a scalar destination. -/
def writeScalar (k : Part) (slot : Nat) (v : Word) : Opd → Part
  | .s r => updSlot k slot (fun s => setSreg s r.toNat v)
  | _ => k

/-- Writes a predicate destination lane by lane (R91, R92). -/
def writePred (k : Part) (slot : Nat) (g v : Mask) : Opd → Part
  | .p r => updSlot k slot (fun s => setPred s r.toNat (mergeMask g (predOf s r.toNat) v))
  | _ => k

/-- A predicate source. -/
def opdPred (k : Part) (slot : Nat) : Opd → Mask
  | .p r => predOf (slotOf k slot) r.toNat
  | _ => 0

/-- The entry number of a layout handle. -/
def opdLay : Opd → Nat
  | .lay e => e.toNat
  | _ => 0

/-- The number of an accumulator tile. -/
def opdTile : Opd → Nat
  | .a t => t.toNat
  | _ => 0

/-- A register of the block at a base (R45). -/
def blockReg (s : Slot) (i : Nat) : Opd → Word
  | .s r => sregOf s (r.toNat + i)
  | _ => 0

end Sys2Proof.Machine
end

