-- ==== Sys2Proof/Machine/Flags.lean ====
section
/-!
DEFINITION. The sticky flags of a slot (R69 to R71), the trap enables (R68, R71) and the forfeit of compatibility mode (R67).
-/
namespace Sys2Proof.Machine

/-- Native mode: BF16 subnormals are flushed (R66, R67). -/
def flushes (s : Slot) : Bool := !bit s.fpmode 8

/-- The flags of the lanes whose guard is true (R69). -/
def laneFlags (g : Mask) (f : Nat → Flags) : Flags :=
  (List.range 32).foldl (fun acc l => if bit g l then acc ||| f l else acc) 0

/-- A flag that a trap enable names is set (R68, R71). -/
def trapEnabled (s : Slot) (fl : Flags) : Bool := decide (fld s.fpmode 0 5 &&& fld fl 0 5 ≠ 0)

/-- FP_TRAP for enabled flags lists every flag that would have been set (R71, R313). -/
def fpTrap (fl : Flags) : Trap := trapOf causeFp 1 (BitVec.ofNat 64 fl.toNat) 0

/-- FP_TRAP for a scale format fault (R61, R313): subcause 2; %TVAL lists no flag. -/
def scaleTrap : Trap := trapOf causeFp 2 0 0

/-- ORs flags into %FPFLAGS (R69). -/
def orFlags (k : Part) (slot : Nat) (fl : Flags) : Part := updSlot k slot (fun s => { s with fpflags := s.fpflags ||| fl })

/-- The slot is not selected for n cycles after the issue (R30, R67, R87). -/
def holdFor (p : Pkg) (core slot n : Nat) : Pkg :=
  updCore p core (fun c => { c with part := updSlot c.part slot (fun s => { s with readyAt := max s.readyAt (c.cycle + n) }) })

/-- The forfeit of R67: 32 cycles where a BF16 subnormal is read or produced in compatibility mode. -/
def forfeit (p : Pkg) (core slot : Nat) (sub : Bool) : Pkg :=
  if sub && bit (slotOf (partOf p core) slot).fpmode 8 then holdFor p core slot 32 else p

end Sys2Proof.Machine
end

