-- ==== Sys2Proof/Machine/MemAcc.lean ====
section
/-!
DEFINITION. Global accesses: the checks of R186 to R192, the bytes they touch, loads (R145, R167, R188, R191), records and
their posting (R138, R141, R142, R193), the journal (R190), releases (R168).
-/
namespace Sys2Proof.Machine

/-- What an instruction comes to in a step. -/
inductive Eff where
  /-- it completes; pc moves past it -/
  | done (p : Pkg)
  /-- it completes and transfers control -/
  | jump (p : Pkg) (target : Int)
  /-- it has not passed its checks or its readiness yet; nothing of it has happened -/
  | stay (p : Pkg)
  /-- it waits in the same way, but in no hold of R310: a trap is taken only after it -/
  | busy (p : Pkg)
  /-- it has issued and stands in a push that comes before what it posts or performs (R310) -/
  | push (p : Pkg) (h : Hold)
  /-- it has issued and holds its slot -/
  | hold (p : Pkg)
  /-- its context or its team has ended, or pc is set -/
  | gone (p : Pkg)
  /-- it raises an exact trap and has no effect -/
  | trap (t : Trap)
  /-- the same, where the trap is none of the checks that come before the end of the text (R27, R85, R189) -/
  | late (t : Trap)
  /-- the same, of an instruction that leaves the pc elsewhere: the end of the text does not concern it (R85) -/
  | raise (t : Trap)
  deriving DecidableEq, Repr, Inhabited

/-- An entry of an ASID's table, or the trap of R134 or R186. -/
def entryOf (k : Part) (asid n : Nat) (w : Word) (spaces : List Nat) : Except Trap Bits512 :=
  match layoutOf k asid n with
  | none => .error (boundsTrap 6 w n)
  | some e =>
    if layOk e = false then .error (boundsTrap 6 w n)
    else if spaces.contains (laySpace e) then .ok e
    else .error (boundsTrap 2 w n)

/-- The entry of an access of the core's team (R186). -/
def entryFor (k : Part) (n : Nat) (w : Word) (spaces : List Nat) : Except Trap Bits512 := entryOf k (asidOf k) n w spaces

/-- The instruction at which a slot stands has issued. -/
def hasIssued (h : Hold) : Bool :=
  match h with
  | .none => false
  | .busy => false
  | _ => true

/-- The entry and the translations that an instruction goes on with which has issued and stands (R202, R290). -/
def capOf (s : Slot) : Option (Bits512 × List Xlat) := if hasIssued s.hold then s.cap else none

/-- The entry of an access of a slot: as captured when it issued, or as the table has it (R186, R202). -/
def entryNow (k : Part) (s : Slot) (n : Nat) (w : Word) (spaces : List Nat) : Except Trap Bits512 :=
  match capOf s with
  | some c => .ok c.1
  | none => entryFor k n w spaces

/-- The current slot captures its entry and its translations: what it stands at has issued (R202, R290). -/
def setCap (p : Pkg) (cx : Cx) (e : Bits512) (xs : List Xlat) : Pkg :=
  updPart p cx.core (fun k => updSlot k cx.slot (fun s => { s with cap := some (e, xs) }))

/-- An element of an access: its place in the register image, and its index after the edge rule; none where a read gives
zero or a write is discarded (R136, R187). -/
abbrev El := Nat × Option (List Int)

/-- The address checks of R137 on an element. -/
def checkAddr (e : Bits512) (w : Word) (n : Nat) (l : Int) (idx : List Int) : Except Trap Unit :=
  let a := elemAddr e idx
  if alignOk (layType e) a = false then .error (alignTrap a)
  else if laySpace e ≠ 0 ∧ scrFits (tySize (layType e)) a = false then .error (boundsTrap 7 (coordsAt w l) n)
  else .ok ()

/-- One element under the edge rule and R137. -/
def checkEl (e : Bits512) (w : Word) (n : Nat) (write : Bool) (base : List Int) (i : Nat) : Except Trap El :=
  let l := vecStep (layType e) * (i : Int)
  let idx := moveIdx base l
  let at' : ReadAt := if write then (if insideLay e idx then .at idx else if layEdge e = 2 then .bounds else .zero)
    else readAt e idx
  match at' with
  | .zero => .ok (i, none)
  | .bounds => .error (boundsTrap 1 (coordsAt w l) n)
  | .at j => (match checkAddr e w n l j with
    | .ok _ => .ok (i, some j)
    | .error t => .error t)

def checkEls (e : Bits512) (w : Word) (n : Nat) (write : Bool) (base : List Int) : List Nat → Except Trap (List El)
  | [] => .ok []
  | i :: rest =>
    match checkEl e w n write base i with
    | .error t => .error t
    | .ok x =>
      match checkEls e w n write base rest with
      | .error t => .error t
      | .ok xs => .ok (x :: xs)

/-- An element of a vector access takes part: a lane that holds it has a true guard (R187; log 22 for F4X). -/
def laneTakesPart (ty : Nat) (g : Mask) (i : Nat) : Bool :=
  if ty = tyF4X then (List.range 5).any (fun l => bit g l) else bit g (vecLane ty i)

/-- The element set of an access and its checks before translation (R187, R188, R124). -/
def accessEls (cx : Cx) (e : Bits512) (w : Word) (n : Nat) (vec write : Bool) (g : Mask) : Except Trap (List El) :=
  let ty := layType e
  let base := elemIndex e w
  let e0 := base.getD 0 0
  if vec then
    if tySize ty = 8 then .error (boundsTrap 4 w n)
    else if ty = tyL8 ∧ e0 % 8 ≠ 0 then
      .error (if write then bareTrap causeLattice cx else alignTrap (elemAddr e base))
    else if ty = tyF4X ∧ e0 % 32 ≠ 0 then .error (alignTrap (elemAddr e base))
    else checkEls e w n write base ((List.range (vecCount ty)).filter (laneTakesPart ty g))
  else if write && decide (ty = tyL8) then .error (bareTrap causeLattice cx)
  else if write && decide (ty = tyF4X) then .error (boundsTrap 4 w n)
  else checkEls e w n write base [0]

/-- The addresses of the elements that are accessed. -/
def elAddrs (e : Bits512) (els : List El) : List Int := els.filterMap (fun x => x.2.map (elemAddr e))

/-- The address of the scale of a scalar access to L8 (R124). -/
def scaleAddrs (e : Bits512) (vec : Bool) (els : List El) : List Int :=
  if !vec && decide (layType e = tyL8) then els.filterMap (fun x => x.2.map (l8ScaleAddr e)) else []

/-- For each granule that some elements touch, the first address of an element in it: what a fault of its translation names. -/
def firstAddrs (addrs : List Int) (size : Nat) : List Int :=
  addrs.foldl (fun acc a =>
    let a' := (a + (size : Int) - 1) / 32 * 32
    let acc := if acc.any (fun x => decide (x / 32 = a / 32)) then acc else acc ++ [a]
    if acc.any (fun x => decide (x / 32 = a' / 32)) then acc else acc ++ [a']) []

/-- The first address of each granule that some bytes touch. -/
def granulesOf (addrs : List Int) (size : Nat) : List Int := (firstAddrs addrs size).map (fun a => a / 32 * 32)

/-- The granules an access touches, its scale included. -/
def accGranules (e : Bits512) (vec : Bool) (els : List El) : List Int :=
  granulesOf (elAddrs e els) (tySize (layType e)) ++ granulesOf (scaleAddrs e vec els) 2

/-- The addresses whose translation an access needs, one for each granule. -/
def accAddrs (e : Bits512) (vec : Bool) (els : List El) : List Int :=
  firstAddrs (elAddrs e els) (tySize (layType e)) ++ firstAddrs (scaleAddrs e vec els) 2

/-- A layered page must be accessed in its layer type (R291). -/
def layerCheck (x : Xlat) (ty va : Nat) : Option Trap :=
  match x.ovl with
  | some (_, lty) => if ty = lty then none
    else some (xlTrap causeAttribute 1 va (if x.size = 2 ^ 30 then 3 else if x.size = 2 ^ 21 then 4 else 5))
  | none => none

/-- Translates the addresses of an access in order, with the layer check (R189, R291). -/
def translateAcc (p : Pkg) (cx : Cx) (write : Bool) (ty : Nat) : List Int → Except XlOut (List Xlat)
  | [] => .ok []
  | va :: rest =>
    match translate p cx va write with
    | .hit x => (match layerCheck x ty va.toNat with
      | some t => .error (.trap t)
      | none => (match translateAcc p cx write ty rest with
        | .ok xs => .ok (if xs.contains x then xs else x :: xs)
        | .error e => .error e))
    | e => .error e

/-- The translation that covers an address. -/
def xlFor (xs : List Xlat) (va : Nat) : Option Xlat := xs.find? (fun x => decide (x.va ≤ va) && decide (va < x.va + x.size))

/-- The translations of an access of the current slot: those that it issued with and holds, or new ones (R189, R290). -/
def translateHeld (p : Pkg) (cx : Cx) (write : Bool) (ty : Nat) (vas : List Int) : Except XlOut (List Xlat) :=
  match capOf (slotOf (partOf p cx.core) cx.slot) with
  | some c => if vas.all (fun a => (xlFor c.2 a.toNat).isSome) then .ok c.2 else translateAcc p cx write ty vas
  | none => translateAcc p cx write ty vas

/-- The context has a store to a granule waiting in the journal (R190), or a load of it outstanding (R165). -/
def granuleBusy (k : Part) (slot : Nat) (gs : List Int) : Bool :=
  let s := slotOf k slot
  let hit := fun (va : Nat) => gs.contains (va : Int)
  k.journal.any (fun e => decide (e.2.ctx = s.ctx) && decide (e.2.status = 1) && (match e.2.body with
    | .store ps _ _ _ => ps.any (fun x => hit x.va)
    | _ => false)) ||
  s.loads.any (fun l =>
    (match accessEls ⟨0, false, 0, 0, 0⟩ l.entry l.coords 0 l.vec false l.guard with
      | .ok els => accGranules l.entry l.vec els
      | .error _ => []).any (fun g => gs.contains g))

/-- The keys of a store's pieces as their pages translate now; none for a page that does not (R190). -/
def keysNow (p : Pkg) (now c : Nat) (va : Nat) : List Nat :=
  let co := coreOf p c
  let k := co.part
  match tlbFind co.tlb (asidOf k) va with
  | some x => [storeKey x va]
  | none => (match walk p now c (asidOf k) va (!supOf k) true with
    | .ok x => [storeKey x va]
    | .error _ => [])

/-- The keys under which earlier accesses of the current context have still to be performed: its outstanding loads, and its
journaled stores as their pages translate now (R165, R190). -/
def pendingKeys (p : Pkg) (cx : Cx) : List Nat :=
  let k := partOf p cx.core
  let s := slotOf k cx.slot
  let ofStore := keysNow p cx.now cx.core
  (k.journal.filter (fun e => decide (e.2.ctx = s.ctx) && decide (e.2.status = 1))).flatMap (fun e => match e.2.body with
    | .store ps _ _ _ => ps.flatMap (fun x => ofStore x.va)
    | _ => []) ++
  s.loads.flatMap (fun l =>
    let gs : List Int := match accessEls ⟨0, false, 0, 0, 0⟩ l.entry l.coords 0 l.vec false l.guard with
      | .ok els => accGranules l.entry l.vec els
      | .error _ => []
    gs.flatMap (fun g => match xlFor l.xl g.toNat with
      | some x => probeKeys x g.toNat
      | none => []))

/-- An earlier access of the context to one of some granules, under another virtual address, is still to be performed (R165). -/
def aliasBusy (p : Pkg) (cx : Cx) (keys : List Nat) : Bool :=
  let pend := pendingKeys p cx
  keys.any (fun k => pend.contains k)

/-- The bytes of a granule that an access reads. -/
def touchMask (addrs : List Int) (size : Nat) (g : Int) : BitVec 32 :=
  addrs.foldl (fun m a => (List.range size).foldl (fun m (j : Nat) =>
    let b : Int := a + j
    if g ≤ b ∧ b < g + 32 then m ||| BitVec.ofNat 32 (2 ^ (b - g).toNat) else m) m) 0

/-- The granules of a load read at one instant (R145, R146): number and bytes, whether an operation was invalid. -/
def readGranules (p : Pkg) (now c lvl : Nat) (xs : List Xlat) (addrs : List Int) (size : Nat) (gs : List Int) :
    SMap Granule × Bool :=
  gs.foldl (fun acc g =>
    match xlFor xs g.toNat with
    | none => acc
    | some x =>
      let v := viewGranule p now c lvl x g.toNat (touchMask addrs size g)
      (mapInsert acc.1 (g.toNat / 32) v.1, acc.2 || v.2)) ([], false)

/-- `n` bytes at an address among the granules read. -/
def granuleBytes (m : SMap Granule) (a n : Nat) : Nat :=
  leNat ((List.range n).map (fun j => BitVec.ofNat 8 ((mapGet 0 m ((a + j) / 32)).toNat >>> (8 * ((a + j) % 32)))))

/-- What a load would consume holds an uncorrectable error: its physical address (R326). -/
def loadBad (p : Pkg) (now c lvl : Nat) (xs : List Xlat) (gs : List Int) : Option Nat :=
  (gs.findSome? (fun g => match xlFor xs g.toNat with
    | some x => viewBad p now c lvl x g.toNat
    | none => none)).map (fun k => 32 * keyGran k)

/-- MACHINE_CHECK of a granule (R313). -/
def memCheck (pa : Nat) : Trap := memCheckAt pa

/-- The scale of an L8 word, a BF16 value: a subnormal is flushed in native mode (R66, R122). -/
def readScale (flush : Bool) (scale : Nat) : FV := decodeF fmtBF16 (flushBits fmtBF16 flush scale)

/-- A scalar register after a load of one element: raw bits, the scale bytes of L8 (R188, R61). -/
def scalarLoadVal (flush : Bool) (e : Bits512) (idx : List Int) (raw scale : Nat) : Except Trap Word :=
  let e0 := (idx.getD 0 0).toNat
  if layType e = tyL8 then
    if l8BadScale scale then .error scaleTrap
    else .ok (BitVec.ofNat 64 (f32Bits (l8Elem raw (e0 % 8) (readScale flush scale))))
  else if layType e = tyF4X then
    if f4xBadScale raw then .error scaleTrap
    else .ok (BitVec.ofNat 64 (f32Bits (f4xElem raw (e0 % 32))))
  else .ok (loadImage (layType e) raw)

/-- The value of a scalar load from the bytes read. -/
def scalarFrom (flush : Bool) (e : Bits512) (els : List El) (rd : Nat → Nat → Nat) : Except Trap Word :=
  match els with
  | (_, some idx) :: _ =>
    let scale := if layType e = tyL8 then rd (l8ScaleAddr e idx).toNat 2 else 0
    scalarLoadVal flush e idx (rd (elemAddr e idx).toNat (tySize (layType e))) scale
  | _ => .ok 0

/-- The register image of a vector load from the bytes read (R187). -/
def vectorFrom (e : Bits512) (els : List El) (rd : Nat → Nat → Nat) : VReg :=
  let s := tySize (layType e)
  BitVec.ofNat 1024 (els.foldl (fun acc x => match x.2 with
    | some idx => acc + rd (elemAddr e idx).toNat s * 2 ^ (8 * s * x.1)
    | none => acc) 0)

/-- A vector access through F4X whose block has the scale code 0xFF (R61, R188). -/
def blockBad (e : Bits512) (els : List El) (rd : Nat → Nat → Nat) : Bool :=
  decide (layType e = tyF4X) && els.any (fun x => match x.2 with
    | some idx => f4xBadScale (rd (elemAddr e idx).toNat 18)
    | none => false)

/-- A load ready to be performed. -/
structure Load where
  e : Bits512
  els : List El
  vec : Bool
  xl : List Xlat
  lvl : Nat
  long : Bool
  /-- native mode (R66) -/
  flush : Bool
  deriving DecidableEq, Repr, Inhabited

/-- What a load reads. -/
inductive Loaded where
  | word (v : Word)
  | vec (v : VReg)
  deriving DecidableEq, Repr, Inhabited

/-- The reply of a load is a message to its core where a granule was not answered by a copy in its M0 (R145, R334). -/
def logReply (p : Pkg) (now c : Nat) (l : Load) (gs : List Int) : Pkg :=
  let near := fun (g : Int) => match xlFor l.xl g.toNat with
    | some x => (probeKeys x g.toNat).all (fun k => (copyAt p now 0 c k).isSome)
    | none => true
  if gs.all near && decide (l.lvl = 0) then p
  else
    let d := gs.map Int.toNat
    logReceive p now c (Config.replaySource d) (18 :: d)

/-- Installs the floor copies that a load leaves, and reads (R145, R147): state, value, whether NV is set. -/
def performLoad (p : Pkg) (cx : Cx) (c : Nat) (l : Load) : Except Trap (Pkg × Loaded × Bool) :=
  let gs := accGranules l.e l.vec l.els
  match loadBad p cx.now c l.lvl l.xl gs with
  | some pa => .error (memCheck pa)
  | none =>
    let (m, nv) := readGranules p cx.now c l.lvl l.xl (elAddrs l.e l.els) (tySize (layType l.e)) gs
    let p1 := gs.foldl (fun q g => match xlFor l.xl g.toNat with
      | some x => (probeKeys x g.toNat).foldl (fun q k => installCopies q cx c l.lvl 3 x.lease l.long k) q
      | none => q) (logReply p cx.now c l gs)
    if l.vec then
      if blockBad l.e l.els (granuleBytes m) then .error scaleTrap
      else .ok (p1, .vec (vectorFrom l.e l.els (granuleBytes m)), nv)
    else match scalarFrom l.flush l.e l.els (granuleBytes m) with
      | .ok v => .ok (p1, .word v, nv)
      | .error t => .error t

/-- Keys that a granule list probes. -/
def probeAll (xs : List Xlat) (gs : List Int) : List Nat :=
  dedupNat (gs.flatMap (fun g => match xlFor xs g.toNat with
    | some x => probeKeys x g.toNat
    | none => []))

/-- The pieces of a store by granule: virtual granule number, with mask and bytes (R193). -/
def addPiece (m : SMap Piece) (va : Nat) (b : Byte) : SMap Piece :=
  let q := mapGet ⟨va / 32 * 32, 0, 0⟩ m (va / 32)
  mapInsert m (va / 32) { q with mask := q.mask ||| BitVec.ofNat 32 (2 ^ (va % 32)),
                                 payload := setFld q.payload (8 * (va % 32)) 8 b.toNat }

/-- The pieces of the elements stored; byte j of element i comes from `val i`, where `keep` admits it. -/
def storePieces (e : Bits512) (els : List El) (val : Nat → Nat) (keep : Nat → Nat → Bool) : List Piece :=
  let s := tySize (layType e)
  (els.foldl (fun m x => match x.2 with
    | some idx =>
      let a := (elemAddr e idx).toNat
      (List.range s).foldl (fun m j =>
        if keep x.1 j then addPiece m (a + j) (BitVec.ofNat 8 (val x.1 >>> (8 * j))) else m) m
    | none => m) ([] : SMap Piece)).map (·.2)

/-- The owner fields that a slot gives its records (R138). -/
def ownRec (p : Pkg) (cx : Cx) (opr ty : Nat) (x : Bool) (ioff : Nat) (seq : BitVec 32) (q : Piece) : Rec :=
  let k := partOf p cx.core
  { opr := opr, ty := ty, x := x, mask := q.mask, payload := q.payload, asid := asidOf k, core := cx.core,
    slot := cx.slot, team := teamNoOf k % 256, iov := true, ioff := ioff, seq := seq, pkg := p.regs.pkgnum, since := cx.now, quiet := false,
    frozen := false, deferred := false, posters := [cx.core], bad := false }

/-- Pieces by key: two pieces of one key come together, the later on top. -/
def keyPieces (xs : List Xlat) (ps : List Piece) : SMap Piece :=
  ps.foldl (fun m q =>
    match xlFor xs q.va with
    | none => m
    | some x =>
      let key := storeKey x q.va
      match mapFind m key with
      | none => mapInsert m key q
      | some o => mapInsert m key { o with mask := o.mask ||| q.mask, payload := overlay q.mask o.payload q.payload }) []

/-- The records of a store in increasing key order, numbered from `seq` (R138, R193, R342). -/
def numberRecs (mk : BitVec 32 → Piece → Rec) : SMap Piece → BitVec 32 → List (Nat × Rec)
  | [], _ => []
  | (key, q) :: rest, seq => (key, mk seq q) :: numberRecs mk rest (seq + 1)

/-- A merge of a whole run starts (R142, R143): every record it holds is taken. -/
def startMerge (i : Inst) : Inst :=
  if i.merging || i.stall.isSome then i
  else { i with merging := true, run := i.run.map (fun e => (e.1, e.2.map (fun r => { r with frozen := true }))) }

/-- The threshold of R142. -/
def mergeAt (lvl : Nat) : Nat :=
  match lvl with
  | 0 => 384
  | 1 => 12288
  | 2 => 6144
  | _ => 196608

/-- Merges start where occupancy has reached the threshold (R142). -/
def startDue (p : Pkg) : Pkg :=
  { p with insts := p.insts.map (fun e =>
      if mergeAt (e.1 / 4096) ≤ occupancy e.2 then (e.1, startMerge e.2) else e) }

/-- Posts records to M0 in order (R141, R142); the rest wait for room or for a forced merge. -/
def postRecs (p : Pkg) (now c limit : Nat) : List (Nat × Rec) → Pkg × List (Nat × Rec)
  | [] => (p, [])
  | (key, u) :: rest =>
    if limit ≤ occupancy (instOf p 0 c) then (p, (key, u) :: rest)
    else
      match arriveChain false (chainOf (instOf p 0 c) key) { u with since := now } with
      | .arrived ch => postRecs (setInst p 0 c (setChain (instOf p 0 c) key ch)) now c limit rest
      | _ =>
        let (p1, ok) := settleBlock p now key (mergeKey p now 0 c key)
        if ok then postRecs (setInst p1 0 c (setChain (instOf p1 0 c) key [{ u with since := now }])) now c limit rest
        else (p1, (key, u) :: rest)

/-- Records at which a store of a slot waits (R142). -/
def postLimit (s : Slot) : Nat := if s.handler then 512 else 496

/-- Inserts the records of a strong store at level(S) (R166); those held by a live horizon or a stalled run are left. -/
def insertRecs (p : Pkg) (now c s : Nat) : List (Nat × Rec) → Pkg × List (Nat × Rec)
  | [] => (p, [])
  | (key, u) :: rest =>
    let lvl := scopeLevel s
    let (p1, ok) := settleBlock p now key (insertAt p now lvl (pathPlace c lvl (keyGran key)) key u)
    let (p2, left) := insertRecs (if ok then evictInner p1 c lvl key else p1) now c s rest
    if ok then (p2, left) else (p2, (key, u) :: left)

/-- A journal entry awaits an outcome of an earlier store of the context, or with `acks` of an earlier message (R168). -/
def journalWaits (k : Part) (slot : Nat) (acks : Bool) : Bool :=
  k.journal.any (fun e => decide (e.2.ctx = (slotOf k slot).ctx) && jAwaits e.2 &&
    (decide (e.2.kind = 0) || (acks && (List.contains [1, 2, 3, 4, 5, 6] e.2.kind))))

/-- The release of R168 at a scope: the state after it and whether it is complete. -/
def releaseAt (p : Pkg) (cx : Cx) (s : Nat) (acks : Bool) : Pkg × Bool :=
  let k := partOf p cx.core
  if journalWaits k cx.slot acks then (p, false)
  else if (slotOf k cx.slot).loads ≠ [] then (p, false)
  else releasePush p cx.now cx.core s

/-- What the releases that the current slot has passed still have to do (R168, R170): the state after it, in which the slot has none left
where all are done. -/
def tryRels (p : Pkg) (cx : Cx) : Pkg :=
  let (q, ok) := (slotOf (partOf p cx.core) cx.slot).rels.foldl (fun acc sc =>
    let (q, ok) := releaseAt acc.1 cx sc true
    (q, acc.2 && ok)) (p, true)
  if ok then updPart q cx.core (fun k => updSlot k cx.slot (fun s => { s with rels := [] })) else q

def setHold (p : Pkg) (cx : Cx) (h : Hold) : Pkg := updPart p cx.core (fun k => updSlot k cx.slot (fun s => { s with hold := h }))

/-- The hold of the current slot. -/
def holdOf (p : Pkg) (cx : Cx) : Hold := (slotOf (partOf p cx.core) cx.slot).hold

/-- Posts the rest of a store's records (R141). -/
def continuePost (p : Pkg) (cx : Cx) (recs : List (Nat × Rec)) : Eff :=
  match postRecs p cx.now cx.core (postLimit (slotOf (partOf p cx.core) cx.slot)) recs with
  | (p1, []) => .done p1
  | (p1, left) => .hold (setHold p1 cx (.posting left))

/-- A free journal entry takes a store or a message of the current slot (R190, R317, R342). -/
def journalise (p : Pkg) (cx : Cx) (kind status addr : Nat) (seq : BitVec 32) (body : Nat → JBody) : Option (Pkg × Nat) :=
  let k := partOf p cx.core
  match jFree k with
  | none => none
  | some n =>
    let s := slotOf k cx.slot
    let uid := k.nextUid
    let e : JEntry :=
      { kind := kind, status := status, cause := 0, addr := addr, asid := asidOf k, team := teamNoOf k % 256, slot := cx.slot, seq := seq, ioff := s.pc, code := 0, ctx := s.ctx, uid := uid, body := body uid }
    some (setPart p cx.core { jPut k n e with nextUid := uid + 1 }, uid)

end Sys2Proof.Machine
end

