-- ==== Sys2Proof/Machine/ScalarVal.lean ====
section
/-!
DEFINITION. The values of the scalar instructions (R88, R89, R91), used where they execute and at the instance of an atomic
region (R201).
-/
namespace Sys2Proof.Machine

/-- What a scalar instruction reads: A, B, its old D, the bit MOD[0], CND of SCMP, lane 0 of p[PS]. -/
structure ScIn where
  a : Word
  b : Word
  d : Word
  u : Bool
  cnd : Nat
  sel : Bool
  deriving DecidableEq, Repr, Inhabited

def saddVal (x : ScIn) : Word := x.a + x.b
def ssubVal (x : ScIn) : Word := x.a - x.b
def smulVal (x : ScIn) : Word := x.a * x.b

/-- The high half of the product, unsigned with U (R88). -/
def smulhVal (x : ScIn) : Word :=
  if x.u then BitVec.ofNat 64 (x.a.toNat * x.b.toNat / 2 ^ 64)
  else BitVec.ofInt 64 (x.a.toInt * x.b.toInt / 2 ^ 64)

/-- Division truncated toward zero; by zero all ones (R88). -/
def sdivVal (x : ScIn) : Word :=
  if x.b = 0 then BitVec.allOnes 64
  else if x.u then BitVec.ofNat 64 (x.a.toNat / x.b.toNat)
  else BitVec.ofInt 64 (x.a.toInt.tdiv x.b.toInt)

/-- The remainder of SDIV; by zero a (R88). -/
def sremVal (x : ScIn) : Word :=
  if x.b = 0 then x.a
  else if x.u then BitVec.ofNat 64 (x.a.toNat % x.b.toNat)
  else BitVec.ofInt 64 (x.a.toInt.tmod x.b.toInt)

def sandVal (x : ScIn) : Word := x.a &&& x.b
def sorVal (x : ScIn) : Word := x.a ||| x.b
def sxorVal (x : ScIn) : Word := x.a ^^^ x.b
def sandnVal (x : ScIn) : Word := x.a &&& ~~~ x.b

/-- A shift takes the low six bits of b (R88). -/
def sshlVal (x : ScIn) : Word := x.a <<< (fld x.b 0 6)
def sshrVal (x : ScIn) : Word := x.a >>> (fld x.b 0 6)
def ssraVal (x : ScIn) : Word := x.a.sshiftRight (fld x.b 0 6)
def srotVal (x : ScIn) : Word := x.a.rotateRight (fld x.b 0 6)

/-- The order of a and b, unsigned with U (R88). -/
def scLt (x : ScIn) : Bool := if x.u then decide (x.a.toNat < x.b.toNat) else decide (x.a.toInt < x.b.toInt)

def sminVal (x : ScIn) : Word := if scLt x then x.a else x.b
def smaxVal (x : ScIn) : Word := if scLt x then x.b else x.a
def sclzVal (x : ScIn) : Word := BitVec.ofNat 64 (leadZeros 64 x.b.toNat)
def spopcVal (x : ScIn) : Word := BitVec.ofNat 64 (popCount 64 x.b.toNat)

/-- The field of SBFX and SBFI: its position and its width cut at bit 63 (R89). -/
def bfPos (x : ScIn) : Nat := fld x.b 0 6
def bfLen (x : ScIn) : Nat := min (bfPos x + fld x.b 6 7) 64 - bfPos x

def sbfxVal (x : ScIn) : Word :=
  if bfLen x = 0 then 0
  else if x.u then BitVec.ofNat 64 (fld x.a (bfPos x) (bfLen x))
  else BitVec.ofInt 64 (asInt (bfLen x) (fld x.a (bfPos x) (bfLen x)))

def sbfiVal (x : ScIn) : Word := setFld x.d (bfPos x) (bfLen x) x.a.toNat

def sselVal (x : ScIn) : Word := if x.sel then x.a else x.b
def smovVal (x : ScIn) : Word := x.b

/-- SLI: the zero-extended imm32, or with HI the upper half of sD (R88). -/
def sliVal (x : ScIn) : Word :=
  if x.u then setFld x.d 32 32 (fld x.b 0 32) else BitVec.ofNat 64 (fld x.b 0 32)

/-- a CND b, unsigned with U (R88, R91). -/
def scmpVal (x : ScIn) : Bool :=
  if x.u then cmpCnd x.cnd x.a.toNat x.b.toNat else cmpCnd x.cnd x.a.toInt x.b.toInt

/-- The value of a scalar instruction 0x020 to 0x036; none for others. -/
def scalarVal : Instr → Option (ScIn → Word)
  | .sadd _ => some saddVal
  | .ssub _ => some ssubVal
  | .smul _ => some smulVal
  | .smulh _ => some smulhVal
  | .sdiv _ => some sdivVal
  | .srem _ => some sremVal
  | .sand _ => some sandVal
  | .sor _ => some sorVal
  | .sxor _ => some sxorVal
  | .sandn _ => some sandnVal
  | .sshl _ => some sshlVal
  | .sshr _ => some sshrVal
  | .ssra _ => some ssraVal
  | .srot _ => some srotVal
  | .smin _ => some sminVal
  | .smax _ => some smaxVal
  | .sclz _ => some sclzVal
  | .spopc _ => some spopcVal
  | .sbfx _ => some sbfxVal
  | .sbfi _ => some sbfiVal
  | .ssel _ => some sselVal
  | .smov _ => some smovVal
  | .sli _ => some sliVal
  | _ => none

end Sys2Proof.Machine
end

