-- ==== Sys2Proof/Machine/Region.lean ====
section
/-!
DEFINITION. Atomic regions: recording the body (R200), and its execution at the instance (R172, R173, R201).
-/
namespace Sys2Proof.Machine

/-- What a scalar instruction reads in a slot. -/
def scIn (p : Pkg) (core : Nat) (s : Slot) (f : Fields) : ScIn :=
  { a := opdScalar s f.a, b := bScalar p core s f.b, d := opdScalar s f.d, u := bit f.md 0, cnd := fld f.md 1 3,
    sel := bit (predOf s (fld f.md 0 3)) 0 }

/-- An access of a region body: whether it stores, and its entry number and coordinate operand. -/
def regionAccess (code : Nat) : Option Bool :=
  if code = 0x0E0 then some false else if code = 0x0E2 then some true else none

def regionCoords (p : Pkg) (core : Nat) (s : Slot) (code : Nat) (f : Fields) : Word :=
  if code = 0x0E2 then opdScalar s f.a else bScalar p core s f.b

/-- The instructions a region body may hold (R200). -/
def regionAllows (code : Nat) (f : Fields) : Bool :=
  decide (code = 0x001) || decide (0x020 ≤ code ∧ code ≤ 0x037) ||
    ((regionAccess code).isSome && decide (f.md.toNat / 128 = 0))

/-- The register or predicate that an operand of a later instruction names is written by a recorded one. -/
def writtenBefore (ops : List RegOp) (o : Opd) : Bool :=
  ops.any (fun r => match r.i.word with
    | some (c, f) => decide (f.d = o) && (decide (0x020 ≤ c ∧ c ≤ 0x037) || decide (c = 0x0E0))
    | none => false)

/-- The line of a virtual address holds a span. -/
def inLine (line : Nat) (a : Int) (n : Nat) : Bool := decide ((line : Int) ≤ a) && decide (a + (n : Int) ≤ line + 128)

/-- The checks of a body element that depend on its coordinates (R200): inside L, inside the line, aligned. DESIGN CHOICE (log 76): ALIGN
comes before the fault of the line. -/
def regionElement (e : Bits512) (w : Word) (n line : Nat) : Except Trap (List Int) :=
  let idx := elemIndex e w
  let a := elemAddr e idx
  if insideLay e idx = false then .error (boundsTrap 1 (coordsAt w 0) n)
  else if alignOk (layType e) a = false then .error (alignTrap a)
  else if inLine line a (tySize (layType e)) = false then .error (boundsTrap 5 (coordsAt w 0) n)
  else .ok idx

/-- The checks of a body LD or ST that come before those of its element (R186, R187, R189). -/
def regionEntry (cx : Cx) (w : Word) (n : Nat) (store : Bool) (ent : Option Bits512) : Except Trap Bits512 :=
  match ent with
  | none => .error (boundsTrap 6 w n)
  | some e =>
    if layOk e = false then .error (boundsTrap 6 w n)
    else if laySpace e ≠ 0 then .error (boundsTrap 2 w n)
    else if store ∧ layType e = tyL8 then .error (bareTrap causeLattice cx)
    else if store ∧ layType e = tyF4X then .error (boundsTrap 4 w n)
    else .ok e

/-- A store of a body to a page with the RO attribute (R193, R200, R288). -/
def roTrap (x : Xlat) (va : Nat) : Trap :=
  xlTrap causePermission 3 va (if x.size = 2 ^ 30 then 3 else if x.size = 2 ^ 21 then 4 else 5)

/-- The checks of a body LD or ST that come after those of its element: operator and type, then the page (R189, R192, R193). -/
def regionOper (x : Xlat) (w : Word) (n va : Nat) (store : Bool) (opr : Nat) (e : Bits512) : Except Trap Unit :=
  if store = false then .ok ()
  else if opTypeOk opr (layType e) = false then .error (boundsTrap 3 w n)
  else if x.lease = 3 then .error (roTrap x va)
  else .ok ()

/-- The guard of a body instruction lets it act: a lane of SCMP's mask, else lane 0 (R28, R91). -/
def bodyActs (s : Slot) (code : Nat) (f : Fields) : Bool :=
  if code = 0x037 then decide (guardMask s f ≠ 0) else guardLane0 s f

/-- The translation of the scale of a body's L8 element: the line's page, or its own (R124, R200; log 23). -/
def scaleXlat (p : Pkg) (cx : Cx) (r : Region) (va : Int) : XlOut :=
  if decide ((r.xl.va : Int) ≤ va) && decide (va < r.xl.va + r.xl.size) then .hit r.xl
  else match translate p cx va false with
    | .hit x => (match layerCheck x tyL8 va.toNat with
      | some t => .trap t
      | none => .hit x)
    | o => o

/-- Records a body LD of an L8 element once the scale translates (R200). -/
def recordScale (p : Pkg) (cx : Cx) (r : Region) (va : Int) (keep : Pkg) : Eff :=
  match scaleXlat p cx r va with
  | .hit _ => .done keep
  | .miss a => .busy (askWalk p cx a false none)
  | .trap t => .trap t

/-- Records a body LD or ST whose guard is true, checked as far as its coordinates are known (R189, R200). -/
def recordAccess (p : Pkg) (cx : Cx) (code : Nat) (f : Fields) (r : Region) (n : Nat) (store late : Bool) (ent : Option Bits512)
    (keep : Pkg) : Eff :=
  let w := regionCoords p cx.core (slotOf (partOf p cx.core) cx.slot) code f
  match regionEntry cx w n store ent with
  | .error t => .trap t
  | .ok e =>
    match (if late then Except.ok none else (regionElement e w n r.line).map some) with
    | .error t => .trap t
    | .ok idx =>
      let va := match idx with
        | some j => wrapInt 57 (elemAddr e j)
        | none => r.line
      match regionOper r.xl w n va store (fld f.md 1 3) e with
      | .error t => .trap t
      | .ok _ => (match idx with
        | some j => if layType e = tyL8 then recordScale p cx r (l8ScaleAddr e j) keep else .done keep
        | none => .done keep)

/-- Records one instruction of an open region (R200). -/
def recordRegion (p : Pkg) (cx : Cx) (i : Instr) (code : Nat) (f : Fields) (r : Region) : Eff :=
  let k := partOf p cx.core
  let s := slotOf k cx.slot
  let accesses := (r.ops.filter (fun o => match o.i.word with
    | some (c, _) => (regionAccess c).isSome
    | none => false)).length
  if regionAllows code f = false ∨ 16 ≤ r.ops.length ∨ ((regionAccess code).isSome ∧ 8 ≤ accesses) then
    .late (bareTrap causeIllegal cx)
  else
    let n := if code = 0x0E2 then opdLay f.d else opdLay f.a
    let ent := if (regionAccess code).isSome then layoutOf k (asidOf k) n else none
    let coordsLate := writtenBefore r.ops (if code = 0x0E2 then f.a else bDesc f.b)
    let keep : Pkg := setPart p cx.core (updSlot k cx.slot (fun s =>
      { s with region := some { r with ops := r.ops ++ [⟨i, s.pc, ent, coordsLate⟩] } }))
    match regionAccess code with
    | none => if bodyActs s code f && !windowOk p cx.core f.b then .trap (bareTrap causeBounds cx) else .done keep
    | some store =>
      if guardLane0 s f = false then .done keep
      else if windowOk p cx.core f.b = false then .trap (bareTrap causeBounds cx)
      else match (if coordsLate then none else scalarCheck s cx.slot (scalarRegs 0 (if store then f.a else bDesc f.b))) with
      | some t => .late t
      | none => recordAccess p cx code f r n store coordsLate ent keep

/-- The state of a body as it executes at the instance (R201): registers, records so far, NV. -/
structure RunState where
  sl : Slot
  recs : List (Nat × Rec)
  nv : Bool
  deriving DecidableEq, Repr, Inhabited

/-- The view of a granule at level(S) with the region's earlier stores applied (R201). -/
def regionView (p : Pkg) (now c lvl : Nat) (x : Xlat) (recs : List (Nat × Rec)) (va : Nat) : Granule × Bool :=
  let key := floorKey x va
  let v := combineFrom p now c lvl key
  applyChain (v.1, v.2.1) ((recs.filter (fun r => r.1 = key)).map (·.2))

/-- That view holds an uncorrectable error (R326). -/
def regionBad (p : Pkg) (now c lvl : Nat) (x : Xlat) (recs : List (Nat × Rec)) (va : Nat) : Bool :=
  let key := floorKey x va
  ((recs.filter (fun r => r.1 = key)).map (·.2)).foldl recLeavesBad (combineBad p now c lvl key)

/-- A trap of a body instruction names it in %TBODY (R201, R312). -/
def atBody (pc : Nat) (t : Trap) : Trap := { t with body := some pc }

/-- The granules that hold the scale of an L8 element, each with its translation, as the body executes: where the coordinates
were not known before, its page is walked then (log 23). -/
def scaleAtRun (p : Pkg) (cx : Cx) (r : Region) (va : Int) : Except Trap (List (Int × Xlat)) :=
  match scaleXlat p cx r va with
  | .hit x => .ok ((granulesOf [va] 2).map (fun g => (g, x)))
  | .trap t => .error t
  | .miss a =>
    match walk p cx.now cx.core r.xl.asid a (!supOf (partOf p cx.core)) false with
    | .error t => .error t
    | .ok x => (match layerCheck x tyL8 a with
      | some t => .error t
      | none => .ok ((granulesOf [va] 2).map (fun g => (g, x))))

/-- A body LD at the instance. -/
def runLoad (p : Pkg) (cx : Cx) (r : Region) (st : RunState) (f : Fields) (pc : Nat) (e : Bits512) :
    Except Trap RunState :=
  let w := bScalar p cx.core st.sl f.b
  match regionElement e w (opdLay f.a) r.line with
  | .error t => .error (atBody pc t)
  | .ok idx =>
    let gs := (granulesOf [elemAddr e idx] (tySize (layType e))).map (fun g => (g, r.xl))
    match (if layType e = tyL8 then scaleAtRun p cx r (l8ScaleAddr e idx) else Except.ok []) with
    | .error t => .error (atBody pc t)
    | .ok sc =>
    match (gs ++ sc).find? (fun g => regionBad p cx.now cx.core (scopeLevel r.scope) g.2 st.recs g.1.toNat) with
    | some g => .error (memCheck (32 * keyGran (floorKey g.2 g.1.toNat)))
    | none =>
      let (m, nv) := (gs ++ sc).foldl (fun acc g =>
        let v := regionView p cx.now cx.core (scopeLevel r.scope) g.2 st.recs g.1.toNat
        (mapInsert acc.1 (g.1.toNat / 32) v.1, acc.2 || v.2)) (([] : SMap Granule), st.nv)
      match scalarFrom (flushes st.sl) e [(0, some idx)] (granuleBytes m) with
      | .error t => .error (atBody pc t)
      | .ok v => .ok { st with nv := nv, sl := (match f.d with
          | .s d => setSreg st.sl d.toNat v
          | _ => st.sl) }

/-- A body ST at the instance: its record joins the region's output. -/
def runStore (p : Pkg) (cx : Cx) (r : Region) (st : RunState) (f : Fields) (pc : Nat) (e : Bits512) :
    Except Trap RunState :=
  let w := opdScalar st.sl f.a
  match regionElement e w (opdLay f.d) r.line with
  | .error t => .error (atBody pc t)
  | .ok idx =>
    match regionOper r.xl w (opdLay f.d) (wrapInt 57 (elemAddr e idx)) true (fld f.md 1 3) e with
    | .error t => .error (atBody pc t)
    | .ok _ =>
    let v := (bScalar p cx.core st.sl f.b).toNat
    let seq := (coreOf p cx.core).postSeq + BitVec.ofNat 32 st.recs.length
    let out := numberRecs (fun sq q => { ownRec p cx (fld f.md 1 3) (layType e) (bit f.md 0) pc sq q with asid := r.xl.asid })
      (keyPieces [r.xl] (storePieces e [(0, some idx)] (fun _ => v) (fun _ _ => true))) seq
    .ok { st with recs := st.recs ++ out }

/-- Executes the body in program order (R201). -/
def runBody (p : Pkg) (cx : Cx) (r : Region) : List RegOp → RunState → Except Trap RunState
  | [], st => .ok st
  | o :: rest, st =>
    let step : Except Trap RunState := match o.i.word with
      | none => .ok st
      | some (code, f) =>
        if bodyActs st.sl code f && !windowOk p cx.core f.b then .error (atBody o.pc (bareTrap causeBounds cx))
        else match regionAccess code with
        | some store =>
          let w := regionCoords p cx.core st.sl code f
          let n := if store then opdLay f.d else opdLay f.a
          if guardLane0 st.sl f = false then .ok st
          else match regionEntry cx w n store o.entry with
            | .error t => .error (atBody o.pc t)
            | .ok e => if store then runStore p cx r st f o.pc e else runLoad p cx r st f o.pc e
        | none =>
          match scalarVal o.i with
          | some v => if guardLane0 st.sl f then (match f.d with
              | .s d => .ok { st with sl := setSreg st.sl d.toNat (v (scIn p cx.core st.sl f)) }
              | _ => .ok st) else .ok st
          | none => if code = 0x037 then (match f.d with
              | .p d =>
                let t := if scmpVal (scIn p cx.core st.sl f) then allTrue else 0
                let m := mergeMask (guardMask st.sl f) (predOf st.sl d.toNat) t
                .ok { st with sl := setPred st.sl d.toNat m }
              | _ => .ok st) else .ok st
    match step with
    | .error t => .error t
    | .ok st1 => runBody p cx r rest st1

/-- Arrivals at a chain without a limit (R172). -/
def arriveAll (c : List Rec) : List Rec → List Rec
  | [] => c
  | u :: rest =>
    let c1 := match c.getLast? with
      | none => [u]
      | some n => if n.frozen then c ++ [u] else match foldRecs n u with
        | .folded r => c.dropLast ++ [r]
        | _ => c ++ [u]
    arriveAll c1 rest

/-- Empties the chains that the region's records would take beyond four (R172). -/
def makeRoom (p : Pkg) (now lvl n : Nat) (recs : List (Nat × Rec)) : List Nat → Pkg × Bool
  | [] => (p, true)
  | k :: rest =>
    let mine := (recs.filter (fun r => r.1 = k)).map (·.2)
    let c := chainOf (instOf p lvl n) k
    if 4 < (arriveAll c mine).length ∧ c ≠ [] then
      let (p1, ok) := settleBlock p now k (mergeKey p now lvl n k)
      if ok then makeRoom p1 now lvl n recs rest else (p1, false)
    else makeRoom p now lvl n recs rest

/-- Records that the region's would add to a run. -/
def regionAdds (i : Inst) (recs : List (Nat × Rec)) (keys : List Nat) : Nat :=
  keys.foldl (fun n k =>
    n + ((arriveAll (chainOf i k) ((recs.filter (fun r => r.1 = k)).map (·.2))).length - (chainOf i k).length)) 0

/-- Room in the run for the region's records: M0 waits at its limit (R142); another run first has the records of its lowest keys merged
outward, as for other arrivals (log 30); a stalled run takes no more than it holds (R143). -/
def makeSpace (now lvl n limit : Nat) (recs : List (Nat × Rec)) (keys : List Nat) : Nat → Pkg → Pkg × Bool
  | 0, p => (p, false)
  | fuel + 1, p =>
    let i := instOf p lvl n
    let adds := regionAdds i recs keys
    if adds = 0 ∨ occupancy i + adds ≤ limit then (p, true)
    else if lvl = 0 then (p, false)
    else match i.run with
      | [] => (p, true)
      | (k0, _) :: _ =>
        let (p1, ok) := settleBlock p now k0 (mergeKey p now lvl n k0)
        if ok then makeSpace now lvl n limit recs keys fuel p1 else (p1, false)

/-- Chains and run have room for the records of a region, or of what arrives as one (R172). -/
def roomFor (p : Pkg) (now lvl n limit : Nat) (recs : List (Nat × Rec)) (keys : List Nat) : Pkg × Bool :=
  let (p1, ok) := makeRoom p now lvl n recs keys
  if ok then makeSpace now lvl n (if lvl = 0 then limit else capacity lvl) recs keys 12 p1 else (p1, false)

/-- Publishes the region's records at one instant (R172); a chain left above four starts its merge at once. -/
def publishRegion (p : Pkg) (now lvl n : Nat) (recs : List (Nat × Rec)) : List Nat → Pkg
  | [] => p
  | k :: rest =>
    let mine := (recs.filter (fun r => r.1 = k)).map (fun r => { r.2 with since := now })
    let i := instOf p lvl n
    let c := arriveAll (chainOf i k) mine
    let c' := if 4 < c.length then c.map (fun r => { r with frozen := true }) else c
    let i' := setChain i k c'
    publishRegion (setInst p lvl n { i' with merging := i'.merging || decide (4 < c.length) }) now lvl n recs rest

/-- Scalar registers whose values are shipped with a body: those it reads before it writes them (R201). -/
def shippedRegs : List RegOp → List RegOp → List Nat
  | _, [] => []
  | before, o :: rest =>
    (match o.i.word with
      | some (code, f) =>
        let reads := readScalars code f ++ (if code = 0x0E2 then scalarRegs 0 f.a else [])
        reads.filter (fun r => !writtenBefore before (.s (BitVec.ofNat 5 r)))
      | none => []) ++ shippedRegs (before ++ [o]) rest

/-- What a region that has its turn comes to: it waits, traps, or is performed. -/
inductive RegionOut where
  | waits (p : Pkg)
  | traps (t : Trap)
  | performed (p : Pkg) (st : RunState)
  deriving DecidableEq, Repr, Inhabited

/-- Regions that reached an instance in one tick contend there: as the first of them is performed, the pointer moves to the port after the
winner's, once; at M0 it never decides (R173). -/
def decideContest (p : Pkg) (me : Shipped) : Pkg :=
  let i := instOf p me.lvl me.place
  let others := (shippedAll p).filter (fun a =>
    decide (a.lvl = me.lvl) && decide (a.place = me.place) && decide (a.since = me.since) && decide (a ≠ me))
  if me.lvl = 0 ∨ others = [] ∨ i.ptrAt = some me.since then p
  else
    let w := others.foldl (fun b a => if shippedBefore i.ptr a b then a else b) me
    setInst p me.lvl me.place { i with ptr := (regionPort w.lvl w.core w.slot + 1) % 17, ptrAt := some me.since }

/-- Performs a shipped region at its instance, or finds what it waits for (R172, R201). `s` is its slot as shipped, and `own` gives its
records their owner. DESIGN CHOICE (log 67): the records take their posting numbers here. -/
def performRegionAs (own : Rec → Rec) (p : Pkg) (cx : Cx) (s : Slot) (r : Region) : RegionOut :=
  let lvl := scopeLevel r.scope
  let g := keyGran (floorKey r.xl r.line)
  let n := pathPlace cx.core lvl g
  let since := match s.hold with
    | .region t => t
    | _ => cx.now
  if staleKey p r.xl then .traps (keyTrap r.xl r.line)
  else if retainedAt p lvl n || readWaits p cx.now cx.core lvl (floorKey r.xl r.line) then .waits p
  else match runBody p cx r r.ops ⟨s, [], false⟩ with
  | .error t => .traps t
  | .ok st =>
    let recs := st.recs.map (fun x => (x.1, own x.2))
    let keys := dedupNat (recs.map (·.1))
    if 0 < lvl ∧ keys.any (fun k => deferredAt p cx.now lvl n (keyGran k) none) then .waits p
    else
      let (p1, ok) := roomFor p cx.now lvl n (postLimit s) recs keys
      if ok then
        let p2 := keys.foldl (fun q k => evictInner q cx.core lvl k) (publishRegion p1 cx.now lvl n recs keys)
        let p3 := decideContest (if lvl = 0 then p2 else logReads p2 cx.now cx.core 22 [g]) ⟨cx.core, cx.slot, lvl, n, g / 4, since⟩
        .performed (updCore p3 cx.core (fun c => { c with postSeq := c.postSeq + BitVec.ofNat 32 recs.length })) st
      else .waits p1

/-- The same for a region of this package: its records have their owner. -/
def performRegion (p : Pkg) (cx : Cx) (s : Slot) (r : Region) : RegionOut := performRegionAs id p cx s r

/-- The slot after a performed region: the registers and predicates of the body, NV, past the ARE (R201). -/
def afterRegion (s : Slot) (st : RunState) : Slot :=
  { s with sregs := st.sl.sregs, preds := st.sl.preds, badRegs := st.sl.badRegs,
           fpflags := if st.nv then s.fpflags ||| fNV else s.fpflags, region := none, hold := .none, cap := none, walkFault := none,
           pc := s.pc + 12 }

end Sys2Proof.Machine
end

