-- ==== Sys2Proof/Machine/Issue.lean ====
section
/-!
DEFINITION. The issue of an instruction word by the current slot: the checks of R27 and R34 in their order, an open region
(R200), readiness (R29, R253), the guard (R28), the effect, and what follows it: the next pc, the end of the text (R85) and
traps (R307).
-/
namespace Sys2Proof.Machine

/-- How a guard acts on an instruction (R28). -/
inductive Guarding where
  /-- a lane mask -/
  | lanes
  /-- lane 0 decides -/
  | lane0
  /-- the instruction says itself what a false guard does -/
  | own
  deriving DecidableEq, Repr, Inhabited

/-- The guard lets the instruction have an effect. -/
def guardPasses (g : Guarding) (s : Slot) (f : Fields) : Bool :=
  match g with
  | .lanes => decide (guardMask s f ≠ 0)
  | .lane0 => guardLane0 s f
  | .own => true

/-- The context of the step in progress. -/
def cxOf (s : State) : Cx := ⟨s.time, s.turn.later, s.turn.install, s.core, s.slot⟩

/-- The instruction has issued: the barrel's last slot, the watchdog, and the cycles until the slot may issue again (R30,
R253, R328). -/
def markIssued (p : Pkg) (cx : Cx) (f : Fields) : Pkg :=
  updCore p cx.core (fun c =>
    { c with last := cx.slot, alive := cx.now, part := updSlot c.part cx.slot (fun s =>
        if s.live then { s with readyAt := max s.readyAt (c.cycle + 4 * (f.yld.toNat + 1)) } else s) })

/-- Sets the next pc; nothing of the instruction remains in its slot. -/
def goTo (p : Pkg) (cx : Cx) (pc : Nat) : Pkg :=
  updPart p cx.core (fun k => updSlot k cx.slot (fun s => { s with pc := pc, hold := .none, cap := none, walkFault := none }))

/-- A transfer may go to a text offset (R25, R85). -/
def targetOk (text : Nat) (t : Int) : Bool := decide (0 ≤ t) && decide (t % 12 = 0) && decide (t < text)

/-- The ALIGN of the text's end comes before this trap: it is no check of R27 or R189 (R85). -/
def afterChecks (t : Trap) : Bool :=
  decide (t.cause = causeTimeout) || decide (t.cause = causeFp) || decide (t.cause = causeMachineCheck)

/-- The trap of a slot, its issue marked. -/
def trapped (p : Pkg) (cx : Cx) (f : Fields) (t : Trap) : Pkg :=
  takeTrap (logCheck (markIssued p cx f) cx.now cx.core t) cx.now cx.core cx.slot t

/-- A hold of an instruction that has not issued, or is still in its push: a new attempt decides what comes of it. -/
def fresh (h : Hold) : Bool :=
  match h with
  | .none => true
  | .busy => true
  | .push _ _ _ => true
  | _ => false

/-- The hold of an instruction that has not completed, where it is fresh. -/
def stand (p : Pkg) (cx : Cx) (h : Hold) : Pkg := if holdOf p cx = h then p else if fresh (holdOf p cx) then setHold p cx h else p

/-- An instruction that leaves the pc elsewhere or retires its context, where it has its effect: BRA, BRX, CALL, RET, AMRET, TEXIT, TRAP,
ERET, BKPT. The end of the text does not concern its traps (R85). -/
def leavesPc (code : Nat) : Bool := [0x002, 0x003, 0x004, 0x005, 0x107, 0x143, 0x160, 0x161, 0x16B].contains code

def leaving (code : Nat) (e : Eff) : Eff :=
  if leavesPc code then
    match e with
    | .trap t => .raise t
    | .late t => .raise t
    | e => e
  else e

/-- What may go on before a FENCE.REL that the slot has passed is done: control transfers, computation, weak loads and accesses to local
scratchpad, which R170 orders behind no release; whatever else waits for it. -/
def passesRelease (code : Nat) (f : Fields) : Bool :=
  decide (code < 0x0C0) || ((decide (code = 0x0E0) || decide (code = 0x0E1)) && decide (fld f.md 7 2 = 0)) ||
    (decide (0x100 ≤ code) && decide (code ≤ 0x103))

/-- What an instruction's outcome makes of the package, from the state before it (R85, R307). -/
def settle (p : Pkg) (cx : Cx) (f : Fields) (e : Eff) : Pkg :=
  let text := textSizeOf p cx.core
  let pc := (slotOf (partOf p cx.core) cx.slot).pc
  let atEnd := decide (text ≤ pc + 12)
  match e with
  | .done q => if atEnd then trapped p cx f (alignTrap text) else goTo (markIssued q cx f) cx (pc + 12)
  | .jump q t => if targetOk text t then goTo (markIssued q cx f) cx t.toNat else trapped p cx f (alignTrap t)
  | .stay q => stand q cx .none
  | .busy q => stand q cx .busy
  | .push q h => if atEnd then trapped p cx f (alignTrap text)
    else stand (if hasIssued (holdOf p cx) then q else markIssued q cx f) cx h
  | .hold q => if atEnd then trapped p cx f (alignTrap text) else if hasIssued (holdOf p cx) then q else markIssued q cx f
  | .gone q => q
  | .trap t => if atEnd && afterChecks t then trapped p cx f (alignTrap text) else trapped p cx f t
  | .late t => if atEnd then trapped p cx f (alignTrap text) else trapped p cx f t
  | .raise t => trapped p cx f t

/-- The checks in their order and the effect (R27, R29, R28). -/
def attempt (p : Pkg) (cx : Cx) (i : Instr) (code : Nat) (f : Fields) (g : Guarding) (body : Cx → Pkg → Eff) : Eff :=
  let k := partOf p cx.core
  let s := slotOf k cx.slot
  match rowOf code with
  | none => .trap (bareTrap causeIllegal cx)
  | some row =>
    if hasRight k s (needOf row (some f.d) (some f.a)) = false then .trap (bareTrap causePrivilege cx)
    else if stateOk k cx.core cx.slot code f = false then .trap (bareTrap causeOperand cx)
    else if scoreboardFree k cx.slot code f = false then .stay p
    else if s.region.isSome ∧ code ≠ 0x0EA then
      match s.region with
      | some r => recordRegion p cx i code f r
      | none => .stay p
    else if operandsReady p cx.core cx.slot f = false then (if ringsAway k cx.slot f then .busy p else .stay p)
    else if guardPasses g s f = false then .done p
    else if s.rels.isEmpty || passesRelease code f then
      leaving code (if windowOk p cx.core f.b = false then .late (bareTrap causeBounds cx)
        else match (if fresh s.hold then regCheck k cx.slot code f else none) with
        | some t => .late t
        | none => body cx p)
    else .stay (tryRels p cx)

/-- The issue of a word by the current slot. A slot that holds no context, or holds for an event, does nothing. -/
def issueP (p : Pkg) (cx : Cx) (i : Instr) (code : Nat) (f : Fields) (g : Guarding) (body : Cx → Pkg → Eff) : Pkg :=
  let s := slotOf (partOf p cx.core) cx.slot
  if s.live = false then p
  else match s.hold with
    | .none => settle p cx f (attempt p cx i code f g body)
    | .busy => settle p cx f (attempt p cx i code f g body)
    | .push _ _ _ => settle p cx f (attempt p cx i code f g body)
    | .wait _ => settle p cx f (attempt p cx i code f g body)
    | .sync => p
    | .tile _ _ => settle p cx f (attempt p cx i code f g body)
    | .words _ _ _ => settle p cx f (attempt p cx i code f g body)
    | .joins _ _ _ _ _ => settle p cx f (attempt p cx i code f g body)
    | .kill _ _ => settle p cx f (attempt p cx i code f g body)
    | .posting recs => settle p cx f (continuePost p cx recs)
    | .strong _ _ _ => p
    | .region _ => p
    | .reply _ => p
    | .stopped => p

/-- The step of an instruction word. -/
def issue (i : Instr) (g : Guarding) (body : Fields → Cx → Pkg → Eff) (s : State) : Host.Outcome State Fault Refusal :=
  match i.word with
  | some (code, f) => .next { s with pkg := issueP s.pkg (cxOf s) i code f g (body f) }
  | none => .next s

/-- The step of an event on the package. -/
def eventStep (ev : Cx → Pkg → Pkg) (s : State) : Host.Outcome State Fault Refusal := .next { s with pkg := ev (cxOf s) s.pkg }

end Sys2Proof.Machine
end

