-- ==== Sys2Proof/Machine/Control.lean ====
section
/-!
DEFINITION. The control group (R84 to R87).
-/
namespace Sys2Proof.Machine

/-- The current slot. -/
def curSlot (p : Pkg) (cx : Cx) : Slot := slotOf (partOf p cx.core) cx.slot

/-- Changes the current slot. -/
def updCur (p : Pkg) (cx : Cx) (f : Slot → Slot) : Pkg := updPart p cx.core (fun k => updSlot k cx.slot f)

/-- B as a signed 64-bit number. -/
def bInt (p : Pkg) (cx : Cx) (f : Fields) : Int := (bScalar p cx.core (curSlot p cx) f.b).toInt

/-- NOP (R84). -/
def execNop (f : Fields) (s : State) : Host.Outcome State Fault Refusal := issue (.nop f) .lane0 (fun _ _ p => .done p) s

/-- BRA (R84): pc + B. -/
def execBra (f : Fields) (s : State) : Host.Outcome State Fault Refusal :=
  issue (.bra f) .lane0 (fun f cx p => .jump p ((curSlot p cx).pc + bInt p cx f)) s

/-- BRX (R84): the text offset in sA. -/
def execBrx (f : Fields) (s : State) : Host.Outcome State Fault Refusal :=
  issue (.brx f) .lane0 (fun f cx p => .jump p (opdScalar (curSlot p cx) f.a).toNat) s

/-- The target of CALL: relative for an immediate, the register's value for a register (R84). -/
def callTarget (p : Pkg) (cx : Cx) (f : Fields) : Int :=
  match f.b with
  | .desc o => (opdScalar (curSlot p cx) o).toNat
  | _ => (curSlot p cx).pc + bInt p cx f

/-- CALL (R84): s31 takes the return offset. DESIGN CHOICE (log 60): `CALL s31` goes to what s31 held before, its source being read
before its result is written (R79). -/
def execCall (f : Fields) (s : State) : Host.Outcome State Fault Refusal :=
  issue (.call f) .lane0 (fun f cx p =>
    .jump (updCur p cx (fun s => setSreg s 31 (BitVec.ofNat 64 (s.pc + 12)))) (callTarget p cx f)) s

/-- RET (R84): pc takes s31. -/
def execRet (f : Fields) (s : State) : Host.Outcome State Fault Refusal :=
  issue (.ret f) .lane0 (fun _ cx p => .jump p (sregOf (curSlot p cx) 31).toNat) s

/-- LOOP (R86). -/
def execLoop (f : Fields) (s : State) : Host.Outcome State Fault Refusal :=
  issue (.loop f) .lane0 (fun f cx p =>
    let s := curSlot p cx
    let fin : Int := s.pc + bInt p cx f
    let n := opdScalar s f.a
    if fin ≤ s.pc ∨ fin % 12 ≠ 0 ∨ (textSizeOf p cx.core : Int) ≤ fin then .trap (alignTrap fin)
    else if n = 0 then .jump p (fin + 12)
    else .done (updCur p cx (fun s => { s with loops := ⟨s.pc + 12, fin.toNat, n⟩ :: s.loops.take 3 }))) s

/-- The loop stack from the topmost entry that ends at an offset (R86). -/
def loopsFrom (pc : Nat) (l : List LoopEntry) : List LoopEntry := l.dropWhile (fun e => decide (e.fin ≠ pc))

/-- LEND (R86). -/
def execLend (f : Fields) (s : State) : Host.Outcome State Fault Refusal :=
  issue (.lend f) .lane0 (fun _ cx p =>
    let s := curSlot p cx
    match loopsFrom s.pc s.loops with
    | [] => .done p
    | e :: rest =>
      if e.count - 1 = 0 then .done (updCur p cx (fun s => { s with loops := rest }))
      else .jump (updCur p cx (fun s => { s with loops := { e with count := e.count - 1 } :: rest })) e.start) s

/-- YIELD (R84, R87): the slot is not selected for 4 × min(n, 65,535) cycles. -/
def execYield (f : Fields) (s : State) : Host.Outcome State Fault Refusal :=
  issue (.yield f) .lane0 (fun f cx p =>
    .done (holdFor p cx.core cx.slot (4 * min (bScalar p cx.core (curSlot p cx) f.b).toNat 65535))) s

end Sys2Proof.Machine
end

