-- ==== Sys2Proof/Machine/Transc.lean ====
section
/-!
DEFINITION. FRCP, FRSQ, FEXP2, FLOG2, FTANH, FSIN and FCOS (R101): the exact function value rounded once. The value is
computed in fixed point to `tp` bits after the point, far more than any format's operand needs to decide its rounding
(log 10).
-/
namespace Sys2Proof.Machine

/-- Bits after the point of the fixed-point computations. -/
def tp : Nat := 720

/-- 1 in fixed point. -/
def tOne : Nat := 2 ^ tp

/-- The sum over k < n of z^(2k+1) / (2k+1), alternating when `alt`: atan z or atanh z for z = 1/d. -/
def atanInv (alt : Bool) (d n : Nat) : Nat :=
  let pos := (List.range n).foldl (fun acc k => acc + if alt && decide (k % 2 = 1) then 0 else tOne / d ^ (2 * k + 1) / (2 * k + 1)) 0
  let neg := (List.range n).foldl (fun acc k => acc + if alt && decide (k % 2 = 1) then tOne / d ^ (2 * k + 1) / (2 * k + 1) else 0) 0
  pos - neg

/-- pi = 16 atan(1/5) - 4 atan(1/239). -/
def tPi : Nat := 16 * atanInv true 5 156 - 4 * atanInv true 239 47

/-- ln 2 = 2 atanh(1/3). -/
def tLn2 : Nat := 2 * atanInv false 3 228

/-- One term of a power series: the next term from the last. -/
def expGo (fuel k term x acc : Nat) : Nat :=
  match fuel with
  | 0 => acc
  | fuel + 1 => expGo fuel (k + 1) (term * x / tOne / k) x (acc + term)

/-- e^x for a fixed-point x below 1. -/
def tExp (x : Nat) : Nat := expGo 140 1 tOne x 0

/-- The alternating series of sin (from term x) or cos (from term 1), k the next factor. -/
def trigGo (fuel k : Nat) (term x2 : Nat) (add : Bool) (acc : Int) : Int :=
  match fuel with
  | 0 => acc
  | fuel + 1 =>
    trigGo fuel (k + 2) (term * x2 / tOne / (k * (k + 1))) x2 (!add) (if add then acc + term else acc - term)

/-- sin x and cos x for a fixed-point x from 0 to pi/2. -/
def tSin (x : Nat) : Nat := (trigGo 75 2 x (x * x / tOne) true 0).toNat
def tCos (x : Nat) : Nat := (trigGo 75 1 tOne (x * x / tOne) true 0).toNat

/-- ln c for a fixed-point c from 1 to 2, by 2 atanh((c-1)/(c+1)). -/
def lnGo (fuel k z2 pw acc : Nat) : Nat :=
  match fuel with
  | 0 => acc
  | fuel + 1 => lnGo fuel (k + 2) z2 (pw * z2 / tOne) (acc + pw / k)

def tLn (c : Nat) : Nat :=
  let z := (c - tOne) * tOne / (c + tOne)
  2 * lnGo 230 1 (z * z / tOne) z 0

/-- A magnitude with as many bits below it as a rounding can look at. -/
def fixMag (v : Nat) (e : Int) : Mag := ⟨v, e - tp, true⟩

/-- The fixed-point value of m * 2^e, cut below the point. -/
def toFix (m : Nat) (e : Int) : Nat :=
  let s := e + tp
  if 0 ≤ s then m * 2 ^ s.toNat else m / 2 ^ (-s).toNat

/-- 2^b for a finite nonzero b (R101). -/
def exp2Rd (F : Fmt) (flush neg : Bool) (m : Nat) (e : Int) : Rd :=
  let x := toFix m e
  if x ≥ 2 ^ (tp + 12) then
    roundMag F .rn false flush false ⟨1, if neg then -100000 else 100000, false⟩
  else
    let n : Nat := x / tOne
    let f := x % tOne
    if f = 0 then roundMag F .rn false flush false ⟨1, if neg then -(n : Int) else n, false⟩
    else
      let (k, g) : Int × Nat := if neg then (-(n : Int) - 1, tOne - f) else (n, f)
      roundMag F .rn false flush false (fixMag (tExp (g * tLn2 / tOne)) k)

/-- log2 b for a positive finite b (R101). -/
def log2Rd (F : Fmt) (flush : Bool) (m : Nat) (e : Int) : Rd :=
  let L := Nat.log2 m
  let E : Int := e + L
  if m = 2 ^ L then roundDy F .rn false flush false ⟨E, 0⟩
  else
    let c := m * 2 ^ (tp - L)
    let v : Int := E * tOne + (tLn c * tOne / tLn2 : Nat)
    roundMag F .rn false flush (decide (v < 0)) (fixMag v.natAbs 0)

/-- tanh b for a finite nonzero b (R101): (E - 1)/(E + 1) with E = e^(2|b|). -/
def tanhRd (F : Fmt) (flush neg : Bool) (m : Nat) (e : Int) : Rd :=
  let x := toFix m (e + 1)
  if x ≥ 512 * tOne then roundMag F .rn false flush neg (fixMag (tOne - 1) 0)
  else
    let n := x / tLn2
    let E := tExp (x - n * tLn2)
    let num := E * 2 ^ n - tOne
    let den := E * 2 ^ n + tOne
    roundMag F .rn false flush neg (fixMag (num * tOne / den) 0)

/-- sin b or cos b for a finite nonzero b in radians, reduced exactly (R101). -/
def trigRd (F : Fmt) (flush isSin neg : Bool) (m : Nat) (e : Int) : Rd :=
  let x := toFix m e
  let q := 2 * x / tPi
  let r := x - q * tPi / 2
  let q4 := q % 4
  let useSin := isSin == decide (q4 % 2 = 0)
  let v := if useSin then tSin r else tCos r
  let flip := if isSin then decide (q4 ≥ 2) else decide (q4 = 1 ∨ q4 = 2)
  roundMag F .rn false flush (flip != (isSin && neg)) (fixMag v 0)

/-- Which function of R101. -/
inductive Fn where
  | rcp
  | rsq
  | exp2
  | log2
  | tanh
  | sin
  | cos
  deriving DecidableEq, Repr, Inhabited

/-- An infinity with DZ (R101). -/
def poleRd (F : Fmt) (neg : Bool) : Rd := ⟨signBit F neg + fmtInf F, fDZ⟩

def oneRd (F : Fmt) (neg : Bool) : Rd := roundDy F .rn false false false ⟨if neg then -1 else 1, 0⟩

/-- The table of R101. -/
def fvFn (F : Fmt) (flush : Bool) (fn : Fn) (b : FV) : Rd :=
  match b with
  | .nan s => if s then invalidRd F else nanRd F
  | .inf n =>
    match fn with
    | .rcp => ⟨signBit F n, 0⟩
    | .rsq => if n then invalidRd F else ⟨0, 0⟩
    | .exp2 => if n then ⟨0, 0⟩ else infRd F false false
    | .log2 => if n then invalidRd F else infRd F false false
    | .tanh => oneRd F n
    | .sin => invalidRd F
    | .cos => invalidRd F
  | .fin n m e =>
    if m = 0 then
      match fn with
      | .rcp => poleRd F n
      | .rsq => poleRd F n
      | .exp2 => oneRd F false
      | .log2 => poleRd F true
      | .tanh => ⟨signBit F n, 0⟩
      | .sin => ⟨signBit F n, 0⟩
      | .cos => oneRd F false
    else
      match fn with
      | .rcp => roundMag F .rn false flush n (magDiv 1 m (-e))
      | .rsq => if n then invalidRd F else roundMag F .rn false flush false (magRsqrt m e)
      | .exp2 => exp2Rd F flush n m e
      | .log2 => if n then invalidRd F else log2Rd F flush m e
      | .tanh => tanhRd F flush n m e
      | .sin => trigRd F flush true n m e
      | .cos => trigRd F flush false n m e

end Sys2Proof.Machine
end

