-- ==== Sys2Proof/Machine/Vector.lean ====
section
/-!
DEFINITION. The shapes that vector instructions share: vector to vector, to a predicate, to a scalar (R28, R71, R79, R81, R83).
-/
namespace Sys2Proof.Machine

/-- What a vector instruction reads: its slot, its lane guard, A, B and the old D. -/
structure VIn where
  sl : Slot
  g : Mask
  a : VReg
  b : VReg
  d : VReg
  deriving DecidableEq, Repr, Inhabited

/-- What it gives: the register, the flags of its guarded lanes, and whether a BF16 subnormal was met (R67). -/
structure VOut where
  v : VReg
  fl : Flags
  sub : Bool
  deriving DecidableEq, Repr, Inhabited

def vIn (p : Pkg) (cx : Cx) (f : Fields) : VIn :=
  { sl := curSlot p cx, g := guardMask (curSlot p cx) f, a := readA p cx.core cx.slot f, b := readB p cx.core cx.slot f,
    d := readVec p cx.core cx.slot 0 f.d }

/-- Flags and forfeit of a completed instruction. -/
def finishFlags (p : Pkg) (cx : Cx) (fl : Flags) (sub : Bool) : Pkg :=
  forfeit (updPart p cx.core (fun k => orFlags k cx.slot fl)) cx.core cx.slot sub

/-- A lane-wise instruction with a vector destination (R28, R71). -/
def issueVec (i : Instr) (comp : Fields → VIn → VOut) (s : State) : Host.Outcome State Fault Refusal :=
  issue i .lanes (fun f cx p =>
    let x := vIn p cx f
    let o := comp f x
    if trapEnabled x.sl o.fl then .trap (fpTrap o.fl)
    else .done (finishFlags (writeVec (popSources p cx.core f) cx.core cx.slot x.g o.v f.d) cx o.fl o.sub)) s

/-- A lane-wise instruction with a predicate destination: the truth of each lane, flags, subnormal. -/
def issueCmp (i : Instr) (comp : Fields → VIn → Mask × Flags × Bool) (s : State) : Host.Outcome State Fault Refusal :=
  issue i .lanes (fun f cx p =>
    let x := vIn p cx f
    let o := comp f x
    if trapEnabled x.sl o.2.1 then .trap (fpTrap o.2.1)
    else .done (finishFlags (updPart (popSources p cx.core f) cx.core (fun k => writePred k cx.slot x.g o.1 f.d)) cx o.2.1
      o.2.2)) s

/-- A reduction of vector lanes to a scalar: it reads every lane, and its flags raise no FP_TRAP, since it is not
lane-wise (R71, R83, R96). -/
def issueReduce (i : Instr) (comp : Fields → VIn → Word × Flags × Bool) (s : State) : Host.Outcome State Fault Refusal :=
  issue i .lane0 (fun f cx p =>
    let o := comp f (vIn p cx f)
    .done (finishFlags (updPart (popSources p cx.core f) cx.core (fun k => writeScalar k cx.slot o.1 f.d)) cx o.2.1
      o.2.2)) s

/-- Elements of width w as results: values, and the flags of each element. -/
def packOut (w : Nat) (g : Mask) (rs : List (Nat × Flags)) (sub : Bool) : VOut :=
  { v := BitVec.ofNat 1024 (rs.foldr (fun r acc => acc * 2 ^ w + r.1 % 2 ^ w) 0),
    fl := (List.range rs.length).foldl (fun acc i => if bit g (i * w / 32) then acc ||| (rs.getD i (0, 0)).2 else acc) 0,
    sub := sub }

/-- A result without flags. -/
def plain (v : VReg) : VOut := ⟨v, 0, false⟩

end Sys2Proof.Machine
end

