-- ==== Sys2Proof/Machine/VecInt.lean ====
section
/-!
DEFINITION. The vector integer group (R98): element-wise on the packed elements of R58, width and sign given by IT.
-/
namespace Sys2Proof.Machine

/-- IT of a vector integer instruction, and the width of its elements (R47). -/
def itOf (f : Fields) : Nat := fld f.md 0 3
def itWidth (it : Nat) : Nat := 8 * tySize it

/-- An element as its type's number. -/
def itVal (it : Nat) (v : VReg) (i : Nat) : Int :=
  if tySigned it then asInt (itWidth it) (elem (itWidth it) v i) else (elem (itWidth it) v i : Int)

/-- An exact result narrowed: wrapped, or clamped with SAT (R98). -/
def itNarrow (it : Nat) (sat : Bool) (x : Int) : Nat × Flags :=
  let w := itWidth it
  let lo := intMin (tySigned it) w
  let hi := intMax (tySigned it) w
  if sat && decide (x < lo) then (wrapInt w lo, fSAT)
  else if sat && decide (hi < x) then (wrapInt w hi, fSAT)
  else (wrapInt w x, 0)

/-- An element-wise instruction given by its exact result (R98). -/
def itMap (it : Nat) (sat : Bool) (x : VIn) (r : Int → Int → Int → Int) : VOut :=
  packOut (itWidth it) x.g ((List.range (1024 / itWidth it)).map (fun i =>
    itNarrow it sat (r (itVal it x.a i) (itVal it x.b i) (itVal it x.d i)))) false

/-- VADD (R98). -/
def execVadd (f : Fields) (s : State) : Host.Outcome State Fault Refusal :=
  issueVec (.vadd f) (fun f x => itMap (itOf f) (bit f.md 3) x (fun a b _ => a + b)) s

/-- VSUB (R98). -/
def execVsub (f : Fields) (s : State) : Host.Outcome State Fault Refusal :=
  issueVec (.vsub f) (fun f x => itMap (itOf f) (bit f.md 3) x (fun a b _ => a - b)) s

/-- VMUL (R98): the low half, or clamped with SAT. -/
def execVmul (f : Fields) (s : State) : Host.Outcome State Fault Refusal :=
  issueVec (.vmul f) (fun f x => itMap (itOf f) (bit f.md 3) x (fun a b _ => a * b)) s

/-- VMULH (R98): the high half of the product. -/
def execVmulh (f : Fields) (s : State) : Host.Outcome State Fault Refusal :=
  issueVec (.vmulh f) (fun f x => itMap (itOf f) false x (fun a b _ => a * b / ((2 ^ itWidth (itOf f) : Nat) : Int))) s

/-- VMAD (R98): d + a × b, exact before it is narrowed. -/
def execVmad (f : Fields) (s : State) : Host.Outcome State Fault Refusal :=
  issueVec (.vmad f) (fun f x => itMap (itOf f) (bit f.md 3) x (fun a b d => d + a * b)) s

/-- VAND (R98). -/
def execVand (f : Fields) (s : State) : Host.Outcome State Fault Refusal :=
  issueVec (.vand f) (fun _ x => plain (x.a &&& x.b)) s

/-- VOR (R98). -/
def execVor (f : Fields) (s : State) : Host.Outcome State Fault Refusal :=
  issueVec (.vor f) (fun _ x => plain (x.a ||| x.b)) s

/-- VXOR (R98). -/
def execVxor (f : Fields) (s : State) : Host.Outcome State Fault Refusal :=
  issueVec (.vxor f) (fun _ x => plain (x.a ^^^ x.b)) s

/-- VANDN (R98). -/
def execVandn (f : Fields) (s : State) : Host.Outcome State Fault Refusal :=
  issueVec (.vandn f) (fun _ x => plain (x.a &&& ~~~ x.b)) s

/-- A shift of each element's bits by b mod the width (R98). -/
def itShift (it : Nat) (x : VIn) (r : Nat → Nat → Nat) : VOut :=
  plain (mkElems (itWidth it) (fun i => r (elem (itWidth it) x.a i) (elem (itWidth it) x.b i % itWidth it)))

/-- VSHL (R98). -/
def execVshl (f : Fields) (s : State) : Host.Outcome State Fault Refusal :=
  issueVec (.vshl f) (fun f x => itShift (itOf f) x (fun a n => a <<< n)) s

/-- VSHR (R98). -/
def execVshr (f : Fields) (s : State) : Host.Outcome State Fault Refusal :=
  issueVec (.vshr f) (fun f x => itShift (itOf f) x (fun a n => a >>> n)) s

/-- VSRA (R98): always sign-filled. -/
def execVsra (f : Fields) (s : State) : Host.Outcome State Fault Refusal :=
  issueVec (.vsra f) (fun f x => itShift (itOf f) x (fun a n =>
    wrapInt (itWidth (itOf f)) (asInt (itWidth (itOf f)) a / ((2 ^ n : Nat) : Int)))) s

/-- VMIN (R98). -/
def execVmin (f : Fields) (s : State) : Host.Outcome State Fault Refusal :=
  issueVec (.vmin f) (fun f x => itMap (itOf f) false x (fun a b _ => min a b)) s

/-- VMAX (R98). -/
def execVmax (f : Fields) (s : State) : Host.Outcome State Fault Refusal :=
  issueVec (.vmax f) (fun f x => itMap (itOf f) false x (fun a b _ => max a b)) s

/-- VABS (R98). -/
def execVabs (f : Fields) (s : State) : Host.Outcome State Fault Refusal :=
  issueVec (.vabs f) (fun f x => itMap (itOf f) (bit f.md 3) x (fun _ b _ => (b.natAbs : Int))) s

/-- VNEG (R98). -/
def execVneg (f : Fields) (s : State) : Host.Outcome State Fault Refusal :=
  issueVec (.vneg f) (fun f x => itMap (itOf f) (bit f.md 3) x (fun _ b _ => -b)) s

/-- A lane mask from the truth of its elements: true where it holds for every element of the lane (R98, R99). -/
def laneAll (w : Nat) (t : Nat → Bool) : Mask :=
  mkMask (fun l => (List.range (32 / w)).all (fun j => t (l * (32 / w) + j)))

/-- VCMP (R98). -/
def execVcmp (f : Fields) (s : State) : Host.Outcome State Fault Refusal :=
  issueCmp (.vcmp f) (fun f x => (laneAll (itWidth (itOf f)) (fun i =>
    cmpCnd (fld f.md 4 3) (itVal (itOf f) x.a i) (itVal (itOf f) x.b i)), 0, false)) s

/-- VSEL (R98): whole lanes of a where p[PS] is true, of b elsewhere. -/
def execVsel (f : Fields) (s : State) : Host.Outcome State Fault Refusal :=
  issueVec (.vsel f) (fun f x => plain (mergeLanes (predOf x.sl (fld f.md 0 3)) x.b x.a)) s

/-- VMOV (R98). -/
def execVmov (f : Fields) (s : State) : Host.Outcome State Fault Refusal :=
  issueVec (.vmov f) (fun _ x => plain x.b) s

/-- VBCAST (R98). -/
def execVbcast (f : Fields) (s : State) : Host.Outcome State Fault Refusal :=
  issueVec (.vbcast f) (fun _ x => plain x.b) s

/-- VCLZ (R98). -/
def execVclz (f : Fields) (s : State) : Host.Outcome State Fault Refusal :=
  issueVec (.vclz f) (fun f x => plain (mkElems (itWidth (itOf f)) (fun i =>
    leadZeros (itWidth (itOf f)) (elem (itWidth (itOf f)) x.b i)))) s

/-- VPOPC (R98). -/
def execVpopc (f : Fields) (s : State) : Host.Outcome State Fault Refusal :=
  issueVec (.vpopc f) (fun f x => plain (mkElems (itWidth (itOf f)) (fun i =>
    popCount (itWidth (itOf f)) (elem (itWidth (itOf f)) x.b i)))) s

end Sys2Proof.Machine
end

