-- ==== Sys2Proof/Machine/VecFloat.lean ====
section
/-!
DEFINITION. The vector float group (R99 to R101): element-wise in FT, BF16 by R66 and R67.
-/
namespace Sys2Proof.Machine

/-- The format of FT (R47). -/
def ftFmt (ft : Nat) : Fmt :=
  match ft with
  | 0 => fmtF32
  | 1 => fmtBF16
  | _ => fmtF16

/-- B of a float instruction: an FP32 immediate is rounded to FT, with no flag, into every element (R82). -/
def floatB (F : Fmt) (f : Fields) (x : VIn) : VReg :=
  match f.b with
  | .fimm v =>
    if F.bits = 32 then x.b
    else
      let r := (fvConvert F .rn false false (decodeF fmtF32 v.toNat)).bits
      mkElems F.bits (fun _ => r)
  | _ => x.b

/-- A BF16 subnormal that a guarded lane reads or produces (R67). -/
def floatSub (F : Fmt) (g : Mask) (es : List (Nat → Nat)) : Bool :=
  F.isBF16 && (List.range (1024 / F.bits)).any (fun i =>
    bit g (i * F.bits / 32) && es.any (fun e => isSubnormal F (e i)))

/-- An element-wise float instruction from its operation on encodings; `reads` are its sources (R99). -/
def floatMap (F : Fmt) (g : Mask) (reads : List (Nat → Nat)) (r : Nat → Rd) : VOut :=
  let rs := (List.range (1024 / F.bits)).map (fun i => ((r i).bits, (r i).fl))
  packOut F.bits g rs (floatSub F g (reads ++ [fun i => (rs.getD i (0, 0)).1]))

/-- Two sources. -/
def floatTwo (F : Fmt) (f : Fields) (x : VIn) (r : FV → FV → Rd) : VOut :=
  let b := floatB F f x
  let ea := elem F.bits x.a
  let eb := elem F.bits b
  floatMap F x.g [ea, eb] (fun i => r (readF F (flushes x.sl) (ea i)) (readF F (flushes x.sl) (eb i)))

/-- One source, B. -/
def floatOne (F : Fmt) (f : Fields) (x : VIn) (r : FV → Rd) : VOut :=
  let eb := elem F.bits (floatB F f x)
  floatMap F x.g [eb] (fun i => r (readF F (flushes x.sl) (eb i)))

/-- FT and RM of a float instruction (R49). -/
def ftOf (f : Fields) : Fmt := ftFmt (fld f.md 0 2)
def frm (f : Fields) : Rm := rmOf (fld f.md 2 2)

/-- FADD (R99). -/
def execFadd (f : Fields) (s : State) : Host.Outcome State Fault Refusal :=
  issueVec (.fadd f) (fun f x => floatTwo (ftOf f) f x (fvAdd (ftOf f) (frm f) (flushes x.sl))) s

/-- FSUB (R99): a + (-b). -/
def execFsub (f : Fields) (s : State) : Host.Outcome State Fault Refusal :=
  issueVec (.fsub f) (fun f x => floatTwo (ftOf f) f x (fun a b =>
    fvAdd (ftOf f) (frm f) (flushes x.sl) a (fvFlip b))) s

/-- FMUL (R99). -/
def execFmul (f : Fields) (s : State) : Host.Outcome State Fault Refusal :=
  issueVec (.fmul f) (fun f x => floatTwo (ftOf f) f x (fvMul (ftOf f) (frm f) (flushes x.sl))) s

/-- FFMA (R99): a × b + d with one rounding. -/
def execFfma (f : Fields) (s : State) : Host.Outcome State Fault Refusal :=
  issueVec (.ffma f) (fun f x =>
    let F := ftOf f
    let ea := elem F.bits x.a
    let eb := elem F.bits (floatB F f x)
    let ed := elem F.bits x.d
    let rd := readF F (flushes x.sl)
    floatMap F x.g [ea, eb, ed] (fun i => fvFma F (frm f) (flushes x.sl) (rd (ea i)) (rd (eb i)) (rd (ed i)))) s

/-- FDIV (R99). -/
def execFdiv (f : Fields) (s : State) : Host.Outcome State Fault Refusal :=
  issueVec (.fdiv f) (fun f x => floatTwo (ftOf f) f x (fvDiv (ftOf f) (frm f) false (flushes x.sl))) s

/-- FSQRT (R99). -/
def execFsqrt (f : Fields) (s : State) : Host.Outcome State Fault Refusal :=
  issueVec (.fsqrt f) (fun f x => floatOne (ftOf f) f x (fvSqrt (ftOf f) (frm f) (flushes x.sl))) s

/-- The operation of FMIN and FMAX on encodings (R99). -/
def floatMinMax (isMin : Bool) (f : Fields) (x : VIn) : VOut :=
  let F := ftOf f
  let ea := elem F.bits x.a
  let eb := elem F.bits (floatB F f x)
  floatMap F x.g [ea, eb] (fun i => fvMinMax F (flushes x.sl) isMin (ea i) (eb i))

/-- FMIN (R99). -/
def execFmin (f : Fields) (s : State) : Host.Outcome State Fault Refusal := issueVec (.fmin f) (floatMinMax true) s

/-- FMAX (R99). -/
def execFmax (f : Fields) (s : State) : Host.Outcome State Fault Refusal := issueVec (.fmax f) (floatMinMax false) s

/-- A sign-bit operation: no flush and no flag, NaNs included (R99). -/
def floatSign (f : Fields) (x : VIn) (r : Nat → Nat → Nat) : VOut :=
  let F := ftOf f
  let eb := elem F.bits x.b
  floatMap F x.g [eb] (fun i => ⟨r (2 ^ (F.bits - 1)) (eb i), 0⟩)

/-- FABS (R99). -/
def execFabs (f : Fields) (s : State) : Host.Outcome State Fault Refusal :=
  issueVec (.fabs f) (fun f x => floatSign f x (fun sg v => v % sg)) s

/-- FNEG (R99). -/
def execFneg (f : Fields) (s : State) : Host.Outcome State Fault Refusal :=
  issueVec (.fneg f) (fun f x => floatSign f x (fun sg v => v ^^^ sg)) s

/-- FCMP (R100). -/
def execFcmp (f : Fields) (s : State) : Host.Outcome State Fault Refusal :=
  issueCmp (.fcmp f) (fun f x =>
    let F := ftOf f
    let ea := elem F.bits x.a
    let eb := elem F.bits (floatB F f x)
    let rs := (List.range (1024 / F.bits)).map (fun i =>
      fvCmp (fld f.md 2 3) (readF F (flushes x.sl) (ea i)) (readF F (flushes x.sl) (eb i)))
    (laneAll F.bits (fun i => (rs.getD i (false, 0)).1),
      (List.range rs.length).foldl (fun acc i =>
        if bit x.g (i * F.bits / 32) then acc ||| (rs.getD i (false, 0)).2 else acc) 0,
      floatSub F x.g [ea, eb])) s

/-- A function of R101. -/
def floatFn (fn : Fn) (f : Fields) (x : VIn) : VOut := floatOne (ftOf f) f x (fvFn (ftOf f) (flushes x.sl) fn)

/-- FRCP (R101). -/
def execFrcp (f : Fields) (s : State) : Host.Outcome State Fault Refusal := issueVec (.frcp f) (floatFn .rcp) s

/-- FRSQ (R101). -/
def execFrsq (f : Fields) (s : State) : Host.Outcome State Fault Refusal := issueVec (.frsq f) (floatFn .rsq) s

/-- FEXP2 (R101). -/
def execFexp2 (f : Fields) (s : State) : Host.Outcome State Fault Refusal := issueVec (.fexp2 f) (floatFn .exp2) s

/-- FLOG2 (R101). -/
def execFlog2 (f : Fields) (s : State) : Host.Outcome State Fault Refusal := issueVec (.flog2 f) (floatFn .log2) s

/-- FTANH (R101). -/
def execFtanh (f : Fields) (s : State) : Host.Outcome State Fault Refusal := issueVec (.ftanh f) (floatFn .tanh) s

/-- FSIN (R101). -/
def execFsin (f : Fields) (s : State) : Host.Outcome State Fault Refusal := issueVec (.fsin f) (floatFn .sin) s

/-- FCOS (R101). -/
def execFcos (f : Fields) (s : State) : Host.Outcome State Fault Refusal := issueVec (.fcos f) (floatFn .cos) s

end Sys2Proof.Machine
end

