-- ==== Sys2Proof/Machine/Convert.lean ====
section
/-!
DEFINITION. Conversions, F4X blocks in registers, and the lattice (R102 to R108, R122, R123).
-/
namespace Sys2Proof.Machine

/-- The format of FT3 (R47). -/
def ft3Fmt (c : Nat) : Fmt :=
  match c with
  | 0 => fmtF32
  | 1 => fmtBF16
  | 2 => fmtF16
  | 3 => fmtE4M3
  | _ => fmtE5M2

/-- A conversion that is exact for every finite source keeps an infinity under SAT too (R102). -/
def exactPair (src dst : Nat) : Bool :=
  decide (src = dst) || decide (dst = 0) || (decide (3 ≤ src) && (decide (dst = 1) || decide (dst = 2)))

/-- FCVT of one element (R102). -/
def fcvtElem (src dst : Nat) (rm : Rm) (sat flush : Bool) (x : Nat) : Rd :=
  match readF (ft3Fmt src) flush x with
  | .inf n => infRd (ft3Fmt dst) (sat && !exactPair src dst) n
  | v => fvConvert (ft3Fmt dst) rm sat flush v

/-- One element per lane: the low bits of each lane of B (R102). -/
def laneMap (w : Nat) (x : VIn) (r : Nat → Nat × Flags) (sub : Nat → Nat → Bool) : VOut :=
  let rs := (List.range 32).map (fun l => r ((lane x.b l).toNat % 2 ^ w))
  let o := packOut 32 x.g rs false
  { o with sub := (List.range 32).any (fun l =>
      bit x.g l && sub ((lane x.b l).toNat % 2 ^ w) ((rs.getD l (0, 0)).1)) }

/-- FCVT (R102). -/
def execFcvt (f : Fields) (s : State) : Host.Outcome State Fault Refusal :=
  issueVec (.fcvt f) (fun f x =>
    let dst := fld f.md 6 3
    let src := fld f.md 3 3
    laneMap (ft3Fmt src).bits x (fun v =>
        let r := fcvtElem src dst (rmOf (fld f.md 1 2)) (bit f.md 0) (flushes x.sl) v
        (r.bits, r.fl))
      (fun v r => (decide (src = 1) && isSubnormal fmtBF16 v) || (decide (dst = 1) && isSubnormal fmtBF16 r))) s

/-- ICVT.I2F of one element (R103). -/
def icvtI2F (it dst : Nat) (rm : Rm) (flush : Bool) (x : Nat) : Nat × Flags :=
  let v : Int := if tySigned it then asInt (itWidth it) x else x
  let r := roundDy (ft3Fmt dst) rm false flush false ⟨v, 0⟩
  (r.bits, r.fl)

/-- ICVT.F2I of one element: sign-extended to 32 bits for I types, zero-extended for N types (R102, R103). -/
def icvtF2I (it src : Nat) (rm : Rm) (flush : Bool) (x : Nat) : Nat × Flags :=
  let (i, fl) := fvToInt rm false (tySigned it) (itWidth it) (readF (ft3Fmt src) flush x)
  (wrapInt 32 i, fl)

/-- ICVT (R103). -/
def execIcvt (f : Fields) (s : State) : Host.Outcome State Fault Refusal :=
  issueVec (.icvt f) (fun f x =>
    let it := fld f.md 5 3
    let ft := fld f.md 2 3
    let rm := rmOf (fld f.md 0 2)
    if bit f.md 8 then
      laneMap (ft3Fmt ft).bits x (icvtF2I it ft rm (flushes x.sl)) (fun v _ => decide (ft = 1) && isSubnormal fmtBF16 v)
    else
      laneMap (itWidth it) x (icvtI2F it ft rm (flushes x.sl)) (fun _ r => decide (ft = 1) && isSubnormal fmtBF16 r)) s

/-- The register i past the one an operand names. -/
def vecPast (p : Pkg) (cx : Cx) (o : Opd) (i : Nat) : VReg :=
  match o with
  | .v r => vregAt (partOf p cx.core) (physReg (partOf p cx.core) cx.slot (r.toNat + i))
  | _ => 0

/-- FQNT of one value: round(a / scale) in FP8 (R104). -/
def fqntElem (dst : Nat) (rm : Rm) (sat : Bool) (scale a : Lane) : Nat × Flags :=
  let r := fvDiv (ft3Fmt dst) rm sat true (decodeF fmtF32 a.toNat) (decodeF fmtF32 scale.toNat)
  (r.bits, r.fl)

/-- FQNT (R104). -/
def execFqnt (f : Fields) (s : State) : Host.Outcome State Fault Refusal :=
  issue (.fqnt f) .lanes (fun f cx p =>
    let x := vIn p cx f
    let scale := low32 (bScalar p cx.core x.sl f.b)
    let rs := (List.range 128).map (fun j =>
      fqntElem (fld f.md 0 3) (rmOf (fld f.md 3 2)) (bit f.md 5) scale (lane (vecPast p cx f.a (j / 32)) (j % 32)))
    let o := packOut 8 x.g rs false
    if trapEnabled x.sl o.fl then .trap (fpTrap o.fl)
    else .done (finishFlags (writeVec p cx.core cx.slot x.g o.v f.d) cx o.fl false)) s

/-- The 32 F32 elements of a register. -/
def f32Lanes (v : VReg) : List FV := (List.range 32).map (fun l => decodeF fmtF32 (lane v l).toNat)

/-- XSCALE (R106): the scale and extra bytes, in lane 4. -/
def execXscale (f : Fields) (s : State) : Host.Outcome State Fault Refusal :=
  issueVec (.xscale f) (fun _ x =>
    let (sc, ex, fl) := f4xScale (f32Lanes x.a)
    { v := BitVec.ofNat 1024 (sc * 2 ^ 128 + ex * 2 ^ 136), fl := if bit x.g 4 then fl else 0, sub := false }) s

/-- XPACK (R107): element i is the code in lane i / 8. -/
def execXpack (f : Fields) (s : State) : Host.Outcome State Fault Refusal :=
  issueVec (.xpack f) (fun _ x =>
    let sc := elem 8 x.b 16
    let ex := elem 8 x.b 17
    let rs := (f32Lanes x.a).map (fun v => f4xCode v sc ex)
    { v := BitVec.ofNat 1024 (packNat 4 32 (fun i => (rs.getD i (0, 0)).1) + sc * 2 ^ 128 + ex * 2 ^ 136),
      fl := laneFlags x.g (fun l => if l < 4 then (List.range 8).foldl (fun acc j =>
        acc ||| (rs.getD (8 * l + j) (0, 0)).2) 0 else 0), sub := false }) s

/-- An exact value rounded by round_rne to FT3, F32 exactly (R108, R123). -/
def decodedRd (ft : Nat) (flush : Bool) (v : FV) : Nat × Flags :=
  let r := fvConvert (ft3Fmt ft) .rn false flush v
  (r.bits, r.fl)

/-- XUNPK (R108). -/
def execXunpk (f : Fields) (s : State) : Host.Outcome State Fault Refusal :=
  issue (.xunpk f) .lanes (fun f cx p =>
    let x := vIn p cx f
    let ft := fld f.md 0 3
    let block := x.a.toNat % 2 ^ 128 + elem 8 x.b 16 * 2 ^ 128 + elem 8 x.b 17 * 2 ^ 136
    if f4xBadScale block then .trap scaleTrap
    else
      let w := (ft3Fmt ft).bits
      let rs := (List.range 32).map (fun i => decodedRd ft (flushes x.sl) (f4xElem block i))
      let o := packOut w x.g rs (decide (ft = 1) && (List.range 32).any (fun i =>
        bit x.g (i / 2) && isSubnormal fmtBF16 (rs.getD i (0, 0)).1))
      if trapEnabled x.sl o.fl then .trap (fpTrap o.fl)
      else .done (finishFlags (writeVec (popSources p cx.core f) cx.core cx.slot x.g o.v f.d) cx o.fl o.sub)) s

/-- The scale of LQNT and LDEC: the FP32 value of B rounded to BF16 without a flag (R122, R123). -/
def latticeScale (flush : Bool) (b : Word) : Nat :=
  flushBits fmtBF16 flush (fvConvert fmtBF16 .rn false flush (decodeF fmtF32 (low32 b).toNat)).bits

/-- NPAD of LQNT: bits 34:32 of a register B (R122). -/
def lqntPad (b : BOpd) (v : Word) : Nat :=
  match b with
  | .desc _ => fld v 32 3
  | _ => 0

/-- LQNT (R122). -/
def execLqnt (f : Fields) (s : State) : Host.Outcome State Fault Refusal :=
  issue (.lqnt f) .lanes (fun f cx p =>
    let x := vIn p cx f
    let b := bScalar p cx.core x.sl f.b
    let sc := latticeScale (flushes x.sl) b
    if l8BadScale sc ∨ fvIsZero (decodeF fmtBF16 sc) then .trap scaleTrap
    else
      let rs := (List.range 32).map (fun l =>
        l8Quantise ((List.range 8).map (fun i => decodeF fmtF32 (lane (vecPast p cx f.a i) l).toNat))
          (decodeF fmtBF16 sc) (lqntPad f.b b))
      let o := packOut 32 x.g rs (isSubnormal fmtBF16 sc)
      if trapEnabled x.sl o.fl then .trap (fpTrap o.fl)
      else .done (finishFlags (writeVec p cx.core cx.slot x.g o.v f.d) cx o.fl o.sub)) s

/-- LDEC of the lanes of a register into output register m: F32 one element a lane, else two (R123). -/
def ldecReg (ft : Nat) (flush : Bool) (a : VReg) (sc : FV) (m : Nat) : List (Nat × Flags) :=
  if ft = 0 then (List.range 32).map (fun l => decodedRd 0 flush (l8Elem (lane a l).toNat m sc))
  else (List.range 64).map (fun i => decodedRd ft flush (l8Elem (lane a (i / 2)).toNat (2 * m + i % 2) sc))

/-- LDEC (R123). -/
def execLdec (f : Fields) (s : State) : Host.Outcome State Fault Refusal :=
  issue (.ldec f) .lanes (fun f cx p =>
    let x := vIn p cx f
    let ft := fld f.md 0 3
    let sc := latticeScale (flushes x.sl) (bScalar p cx.core x.sl f.b)
    if l8BadScale sc then .trap scaleTrap
    else
      let n := if ft = 0 then 8 else 4
      let outs := (List.range n).map (fun m =>
        let rs := ldecReg ft (flushes x.sl) x.a (decodeF fmtBF16 sc) m
        packOut (ft3Fmt ft).bits x.g rs (decide (ft = 1) && (List.range 64).any (fun i =>
          bit x.g (i / 2) && isSubnormal fmtBF16 (rs.getD i (0, 0)).1)))
      let fl := outs.foldl (fun acc o => acc ||| o.fl) 0
      if trapEnabled x.sl fl then .trap (fpTrap fl)
      else
        let p1 := popSources p cx.core f
        let p2 := match f.d with
          | .v r => (List.range n).foldl (fun q m =>
              writeVec q cx.core cx.slot x.g (outs.getD m (plain 0)).v (.v (r + BitVec.ofNat 7 m))) p1
          | _ => p1
        .done (finishFlags p2 cx fl (outs.any (·.sub) || isSubnormal fmtBF16 sc))) s

end Sys2Proof.Machine
end

