-- ==== Sys2Proof/WellFormed.lean ====
section
/-!
DEFINITION. Which instructions are well formed: those that no check of R50 which needs no state refuses.
-/
namespace Sys2Proof

/-- An instruction is well formed when it is an event, or its fields pass the checks of R26, R47 and R45 that need no
state. -/
def Instr.wf (i : Instr) : Bool :=
  match i.word with
  | none => true
  | some (c, f) =>
    match rowOf c with
    | none => false
    | some row => !(f.gneg && f.gp = 7) && modOk c row f.md.toNat && classOk c row f

end Sys2Proof
end

