-- ==== Sys2Proof/Decode.lean ====
section
/-!
DEFINITION. The decoder, total on every 96-bit word (R25-R34, R50, R51), and the encoder, written from the same tables.
-/
namespace Sys2Proof

/-- The operand that 16 descriptor bits name (R33); none for class 9 to 14 and for a nonzero bit the table marks zero. -/
def decodeOpd (w : BitVec 16) : Option Opd :=
  let x := w.toNat % 4096
  match w.toNat / 4096 with
  | 0 => if x < 32 then some (.s (BitVec.ofNat 5 x)) else none
  | 1 => if x < 128 then some (.v (BitVec.ofNat 7 x)) else none
  | 2 => if x < 8 then some (.p (BitVec.ofNat 3 x)) else none
  | 3 => some (.qc (BitVec.ofNat 3 (x / 512)) (BitVec.ofNat 4 (x / 32)) (BitVec.ofNat 5 x))
  | 4 => some (.qp (BitVec.ofNat 3 (x / 512)) (BitVec.ofNat 4 (x / 32)) (BitVec.ofNat 5 x))
  | 5 => if x % 32 = 0 then
           some (.m (BitVec.ofNat 2 (x / 1024)) (decide (x / 512 % 2 = 1)) (BitVec.ofNat 4 (x / 32))) else none
  | 6 => some (.csr (BitVec.ofNat 12 x))
  | 7 => if x < 16 then some (.a (BitVec.ofNat 4 x)) else none
  | 8 => if x < 64 then some (.lay (BitVec.ofNat 6 x)) else none
  | 15 => if x = 0 then some .none else none
  | _ => none

/-- The descriptor bits of an operand (R33). -/
def encodeOpd : Opd → Nat
  | .s r => r.toNat
  | .v r => 0x1000 + r.toNat
  | .p r => 0x2000 + r.toNat
  | .qc q w o => 0x3000 + q.toNat * 512 + w.toNat * 32 + o.toNat
  | .qp q w o => 0x4000 + q.toNat * 512 + w.toNat * 32 + o.toNat
  | .m ch produce w => 0x5000 + ch.toNat * 1024 + (if produce then 512 else 0) + w.toNat * 32
  | .csr n => 0x6000 + n.toNat
  | .a t => 0x7000 + t.toNat
  | .lay e => 0x8000 + e.toNat
  | .none => 0xF000

/-- The B field under its kind (R31); none where a bit that must be zero is not. -/
def decodeB (bk : Nat) (w : Nat) : Option BOpd :=
  match bk with
  | 0 => if w < 65536 then (decodeOpd (BitVec.ofNat 16 w)).map .desc else none
  | 1 => some (.imm (BitVec.ofNat 32 w))
  | 2 => if w < 1048576 then some (.win (BitVec.ofNat 3 (w / 131072)) (BitVec.ofNat 17 w)) else none
  | _ => some (.fimm (BitVec.ofNat 32 w))

/-- The kind and the bits of a B field (R31). -/
def encodeB : BOpd → Nat × Nat
  | .desc o => (0, encodeOpd o)
  | .imm v => (1, v.toNat)
  | .win k off => (2, k.toNat * 131072 + off.toNat)
  | .fimm v => (3, v.toNat)

/-- Reads one 96-bit instruction word. The checks stand in the order of R27: an opcode or reserved encoding first; the
class checks last, with the right that the privilege check between them asks for. -/
def decodeWord (w : BitVec 96) : Except Reject Instr :=
  let n := w.toNat
  let c := n / 2 ^ 87
  let md := n / 2 ^ 78 % 512
  let guard := n / 2 ^ 74 % 16
  match rowOf c with
  | none => .error .illegal
  | some row =>
    if n / 2 ^ 64 % 4 ≠ 0 ∨ guard = 15 ∨ modOk c row md = false then .error .illegal
    else
      let d := decodeOpd (BitVec.ofNat 16 (n / 2 ^ 48))
      let a := decodeOpd (BitVec.ofNat 16 (n / 2 ^ 32))
      match d, a, decodeB (n / 2 ^ 66 % 4) (n % 2 ^ 32) with
      | some d', some a', some b' =>
        let f : Fields :=
          { md := BitVec.ofNat 9 md, gneg := decide (guard / 8 = 1), gp := BitVec.ofNat 3 guard,
            yld := BitVec.ofNat 3 (n / 2 ^ 71), reuseA := decide (n / 2 ^ 70 % 2 = 1),
            reuseB := decide (n / 2 ^ 69 % 2 = 1), long := decide (n / 2 ^ 68 % 2 = 1), d := d', a := a', b := b' }
        if classOk c row f then .ok (row.make f) else .error (.operandClass (needOf row d a))
      | _, _, _ => .error (.operandClass (needOf row d a))

/-- The word of fields under an opcode (R25). -/
def encodeFields (c : Nat) (f : Fields) : BitVec 96 :=
  BitVec.ofNat 96 (c * 2 ^ 87 + f.md.toNat * 2 ^ 78 + (if f.gneg then 2 ^ 77 else 0) + f.gp.toNat * 2 ^ 74 +
    f.yld.toNat * 2 ^ 71 + (if f.reuseA then 2 ^ 70 else 0) + (if f.reuseB then 2 ^ 69 else 0) +
    (if f.long then 2 ^ 68 else 0) + (encodeB f.b).1 * 2 ^ 66 + encodeOpd f.d * 2 ^ 48 + encodeOpd f.a * 2 ^ 32 +
    (encodeB f.b).2)

/-- The word of an instruction; an event of the table has none and answers the all-zero word. -/
def encode (i : Instr) : BitVec 96 :=
  match i.word with
  | some (c, f) => encodeFields c f
  | none => 0

/-- The 96-bit word at the head of a byte list, little-endian parcels at rising addresses (R2, R25). -/
def wordOfBytes (bs : List Byte) : BitVec 96 :=
  BitVec.ofNat 96 ((bs.take 12).foldr (fun b acc => acc * 256 + b.toNat) 0)

/-- The twelve bytes of an instruction word, lowest address first (R25). -/
def bytesOfWord (w : BitVec 96) : List Byte :=
  (List.range 12).map (fun i => BitVec.ofNat 8 (w.toNat / 2 ^ (8 * i)))

/-- The decoder on a byte list. -/
def decode (bs : List Byte) : Except Reject Instr := decodeWord (wordOfBytes bs)

/-- The instruction read from the bits `w` of a table row, parcel 0 lowest; every bit above `nbits` is zero. -/
def decodeTableWord (nbits w : Nat) : Option Instr :=
  match decode (bytesOfWord (BitVec.ofNat 96 (w % 2 ^ nbits))) with
  | .ok i => some i
  | .error _ => none

end Sys2Proof
end

