-- ==== Sys2Proof/Machine/Engine.lean ====
section
/-!
DEFINITION. What the engines of a core share: the range-overlap scoreboard (R114, R220), translation of their global lines,
and the report of their failures (R120, R130, R217, R326).
-/
namespace Sys2Proof.Machine

def spansMeet (a b : List Span) : Bool :=
  a.any (fun x => b.any (fun y => decide (x.1 < y.2) && decide (y.1 < x.2)))

/-- Accesses of these ranges must keep their order with the command of a board. -/
def boardClash (b : Board) (reads writes : List Span) : Bool :=
  spansMeet b.writes (reads ++ writes) || spansMeet b.reads writes

/-- The boards of the commands and accumulator instructions of a core that are not complete. -/
def boards (k : Part) : List Board :=
  k.matq.map (·.board) ++ k.accq.map (·.board) ++ k.seamq.map (·.board) ++ k.smrgq.map (·.board) ++ k.copies.map (·.board) ++
    k.slots.filterMap (fun e => match e.2.hold with
      | .tile _ b => some b
      | _ => none)

/-- A younger access of the core may be performed now (R114). -/
def scrClear (k : Part) (reads writes : List Span) : Bool := !(boards k).any (fun b => boardClash b reads writes)

/-- An access of a slot that stands between its words has still a word to make in some range of a command (R114, R158). -/
def wordsClash (k : Part) (b : Board) : Bool :=
  k.slots.any (fun e => match e.2.hold with
    | .words _ left _ => left.any (fun w => (b.reads ++ b.writes).any (fun s => decide (s.1 < 8 * w + 8) && decide (8 * w < s.2)))
    | _ => false)

/-- Every older command with which a command's ranges clash is complete (R114). -/
def engineMay (k : Part) (b : Board) : Bool :=
  !(boards k).any (fun o => decide (o.ord < b.ord) && boardClash o b.reads b.writes) && !wordsClash k b

/-- The least and the greatest unpermuted byte offset of a box of element indices, corners included. -/
def boxOffsets (e : Bits512) (lo hi : List Int) : Int × Int :=
  (List.range (layRank e)).foldl (fun acc d =>
    let x := layUnit e d (lo.getD d 0) * layStride e d
    let y := layUnit e d (hi.getD d 0) * layStride e d
    (acc.1 + min x y, acc.2 + max x y)) (0, 0)

/-- The scratchpad bytes that a box of elements of a local layout spans, its L8 scales included (R114, R220): one range from
the first to the last, taken to whole 512-byte steps where a bank permutation acts. -/
def boxSpans (e : Bits512) (lo hi : List Int) : List Span :=
  if laySpace e ≠ 1 then []
  else
    let inside := fun (d : Nat) (x : Int) => max 0 (min x ((layExt e d : Int) - 1))
    let lo := (List.range 4).map (fun d => inside d (lo.getD d 0))
    let hi := (List.range 4).map (fun d => inside d (hi.getD d 0))
    let (a, b) := boxOffsets e lo hi
    let (a, b) := if fld e 18 6 = 0 then (a, b + (tySize (layType e) : Int))
      else (a / 512 * 512, b / 512 * 512 + 512 + (tySize (layType e) : Int))
    let base : Int := layBaseAddr e
    let main : Span := ((base + a).toNat, (base + b).toNat)
    if layType e = tyL8 then [main, ((l8ScaleAddr e lo).toNat, (l8ScaleAddr e hi + 2).toNat)] else [main]

/-- The bytes from the first to past the last of some elements. -/
def addrRange (size : Nat) : List Int → List Span
  | [] => []
  | a :: rest => [((rest.foldl min a).toNat, (rest.foldl max a).toNat + size)]

/-- A scratchpad word that would be consumed among some ranges: MACHINE_CHECK (R313, R326). -/
def scrCheck (w : Nat) : Trap := trapOf causeMachineCheck 2 (BitVec.ofNat 64 (8 * w)) (Config.arrayIdent 2 (8 * w))

/-- MACHINE_CHECK of an accumulator tile (R313, R326). -/
def tileCheck (t : Nat) : Trap := trapOf causeMachineCheck 3 (BitVec.ofNat 64 (4096 * t)) (Config.arrayIdent 3 (4096 * t))

def spansBad (k : Part) (l : List Span) : Option Nat :=
  k.badWords.find? (fun w => l.any (fun x => decide (8 * w < x.2) && decide (x.1 < 8 * w + 8)))

/-- The translation of a global line for an engine, by the cluster's walkers (R114, R215). -/
def engineXl (p : Pkg) (now c asid va : Nat) (write : Bool) : Except Trap Xlat :=
  let k := partOf p c
  walk p now c asid va (!(supOf k && decide (asidOf k = asid))) write

/-- The subcause that ENGINE_FAULT gives a translation, permission or attribute fault (R313). -/
def engineTrap (sub ioff : Nat) (info : Word) : Trap :=
  { cause := 0x23, sub := sub, jv := false, jent := 0, tval := BitVec.ofNat 64 ioff, tinfo := info, body := none }

/-- Raises an ENGINE_FAULT to the team of a core, if it is the one the command belongs to; else it is reported (R120, R130, R217). -/
def raiseEngine (p : Pkg) (now c asid team : Nat) (t : Trap) : Pkg :=
  let k := partOf p c
  if k.team.isSome && decide (asidOf k = asid) && decide (teamNoOf k = team) then raiseAsync p now c t
  else report p now (asyncReport c asid t)

/-- The slot in which a context is loaded now; `slot` is where it issued (R263 may have brought it elsewhere). -/
def slotNow (k : Part) (slot ctx : Nat) : Nat :=
  ((liveSlots k).find? (fun n => decide ((slotOf k n).ctx = ctx))).getD slot

/-- Raises a trap that an engine met on the data of a command in the slot that issued the command (R120, R217, R326): its
handler is entered at the slot's next boundary, with %TPC at the instruction of the command, `ioff`, which ERET therefore executes again (R307,
R327; log 33). A slot that must first complete its instruction keeps the engine waiting (none); where the context is no longer loaded, the
report goes to the supervisor. -/
def raiseInSlot (p : Pkg) (now c slot ctx asid ioff : Nat) (t : Trap) : Option Pkg :=
  let n := slotNow (partOf p c) slot ctx
  let s := slotOf (partOf p c) n
  if s.live && decide (s.ctx = ctx) then
    if abandonable s.hold then 
      some (takeTrap (updPart (logCheck p now c t) c (fun k => updSlot k n (fun s => { s with pc := ioff, region := none }))) now c n t)
    else none
  else some (report (logCheck p now c t) now { asyncReport c asid t with slot := slot, tpc := ioff })

/-- ORs flags into %FPFLAGS of the slot that issued a command, where its context still exists (R70, R124, R127). -/
def orFlagsOf (k : Part) (slot ctx : Nat) (fl : Flags) : Part :=
  let n := slotNow k slot ctx
  let s := slotOf k n
  if s.live && decide (s.ctx = ctx) then orFlags k n fl
  else { k with moved := k.moved.map (fun m =>
    if m.sl.ctx = ctx then { m with sl := { m.sl with fpflags := m.sl.fpflags ||| fl } } else m) }

/-- The next place in the core's issue order of scratchpad accesses. -/
def takeOrd (k : Part) : Nat × Part := (k.nextOrd, { k with nextOrd := k.nextOrd + 1 })

end Sys2Proof.Machine
end

