-- ==== Sys2Proof/Machine/Waits.lean ====
section
/-!
DEFINITION. Waits that hold a monitor (R260 to R262): how an instruction waits, and WAIT_TIMEOUT (R313).
-/
namespace Sys2Proof.Machine

/-- The word that a wait watches, by its offset (R313); waits that watch no word give none. -/
def watchedWord : WaitKind → Option Nat
  | .word off _ _ => some off
  | .phase off _ => some off
  | .full w _ _ => some (8 * w)
  | .empty w => some (8 * w)
  | _ => none

/-- WAIT_TIMEOUT of a wait (R261, R313): %TINFO names the watched word; where there is none it is free (log 16). -/
def timeoutTrap (cx : Cx) (sub : Nat) (deadline : Nat) (word : Option (Nat × Nat)) : Trap :=
  trapOf causeTimeout sub (BitVec.ofNat 64 deadline) (match word with
    | some (off, core) => BitVec.ofNat 64 (off % 2 ^ 17 + core % 2 ^ 12 * 2 ^ 17)
    | none => (bareTrap causeTimeout cx).tinfo)

def waitTrap (cx : Cx) (w : Wait) : Trap :=
  timeoutTrap cx 1 w.deadline ((watchedWord w.kind).map (fun o => (o, cx.core)))

/-- The current slot begins to wait; with LIMIT 0 the test just made was the only one (R261). The newcomer counts among the
waits from which one is moved (R262). -/
def startWait (p : Pkg) (cx : Cx) (kind : WaitKind) : Eff :=
  let w : Wait := ⟨kind, cx.now + (curSlot p cx).waitlim.toNat, false, 0⟩
  if (curSlot p cx).waitlim = 0 then .trap (waitTrap cx w)
  else .hold (limitMonitors (setHold p cx (.wait w)) cx.now cx.core)

/-- A waiting instruction: at issue it completes where its condition holds and else waits; once its wait has ended it
completes with the value that it was served. `again` is the condition of a wait that is tested anew at each turn. -/
def waitFor (p : Pkg) (cx : Cx) (kind : WaitKind) (holds again : Bool) (fin : Nat → Eff) : Eff :=
  match holdOf p cx with
  | .wait w => if w.met || again then fin w.value else .hold p
  | _ => if holds then fin 0 else startWait p cx kind

end Sys2Proof.Machine
end

