-- ==== Sys2Proof/Machine/Scratchpad.lean ====
section
/-!
DEFINITION. The local scratchpad group: LDS, STS, LDSV, STSV (R203), and what full/empty words (R204) share.
-/
namespace Sys2Proof.Machine

/-- The scale of an L8 element in scratchpad lies within it (R137). -/
def checkScale (e : Bits512) (w : Word) (n : Nat) (vec : Bool) (els : List El) : Option Trap :=
  if laySpace e = 0 then none
  else ((scaleAddrs e vec els).find? (fun a => !scrFits 2 a)).map (fun _ => boundsTrap 7 w n)

/-- The scratchpad ranges of the elements of an access and of their scales. -/
def elSpans (e : Bits512) (vec : Bool) (els : List El) : List Span :=
  (elAddrs e els).map (fun a => (a.toNat, a.toNat + tySize (layType e))) ++
    (scaleAddrs e vec els).map (fun a => (a.toNat, a.toNat + 2))

/-- The elements of a local access after all its checks (R189). -/
def localEls (k : Part) (cx : Cx) (n : Nat) (w : Word) (vec write : Bool) (g : Mask) : Except Trap (Bits512 × List El) :=
  match entryNow k (slotOf k cx.slot) n w [1] with
  | .error t => .error t
  | .ok e =>
    match accessEls cx e w n vec write g with
    | .error t => .error t
    | .ok els => (match checkScale e w n vec els with
      | some t => .error t
      | none => .ok (e, els))

/-- The words of an access that stands between its words: how many are done, and the bytes read (R158). -/
def wordsDone (s : Slot) : Nat × SMap Byte :=
  match s.hold with
  | .words n _ got => (n, got)
  | _ => (0, [])

/-- LDS and LDSV (R203): the words one after the other, or one now and the rest in later steps (R158). -/
def loadLocal (vec : Bool) (f : Fields) (cx : Cx) (p : Pkg) : Eff :=
  let k := partOf p cx.core
  let s := slotOf k cx.slot
  match localEls k cx (opdLay f.a) (bScalar p cx.core s f.b) vec false (guardMask s f) with
  | .error t => .trap t
  | .ok (e, els) =>
    let spans := elSpans e vec els
    let (pos, got) := wordsDone s
    let ws := spanWords spans
    if pos = 0 ∧ scrClear k spans [] = false then .busy p
    else match spansBad k spans with
      | some w => .trap (scrCheck w)
      | none =>
        if cx.later ∧ pos + 1 < ws.length then
          .hold (setHold (setCap p cx e []) cx (.words (pos + 1) (ws.drop (pos + 1)) (readWord k got (ws.getD pos 0))))
        else if vec && blockBad e els (wordsNat k got) then .trap scaleTrap
        else if vec then .done (writeVec p cx.core cx.slot (guardMask s f) (vectorFrom e els (wordsNat k got)) f.d)
        else match scalarFrom (flushes s) e els (wordsNat k got) with
          | .ok v => .done (updPart p cx.core (fun k => writeScalar k cx.slot v f.d))
          | .error t => .trap t

/-- LDS (R203). -/
def execLds (f : Fields) (s : State) : Host.Outcome State Fault Refusal := issue (.lds f) .lane0 (loadLocal false) s

/-- LDSV (R203). -/
def execLdsv (f : Fields) (s : State) : Host.Outcome State Fault Refusal := issue (.ldsv f) .lanes (loadLocal true) s

/-- The bytes that a store writes: element i from `val i`, those bytes that `keep` admits. -/
def elBytes (e : Bits512) (els : List El) (val : Nat → Nat) (keep : Nat → Nat → Bool) : SMap Byte :=
  byteMap (els.flatMap (fun x => match x.2 with
    | some idx => ((List.range (tySize (layType e))).filter (keep x.1)).map (fun (j : Nat) =>
        ((elemAddr e idx).toNat + j, BitVec.ofNat 8 (val x.1 >>> (8 * j))))
    | none => []))

/-- STS and STSV (R203): the words one after the other, or one now and the rest in later steps (R158). -/
def storeLocal (vec : Bool) (f : Fields) (cx : Cx) (p : Pkg) : Eff :=
  let k := partOf p cx.core
  let s := slotOf k cx.slot
  match localEls k cx (opdLay f.d) (opdScalar s f.a) vec true (guardMask s f) with
  | .error t => .trap t
  | .ok (e, els) =>
    let (pos, got) := wordsDone s
    if pos = 0 ∧ scrClear k [] (elSpans e true els) = false then .busy p
    else
      let sz := tySize (layType e)
      let v := if vec then (readB p cx.core cx.slot f).toNat else (bScalar p cx.core s f.b).toNat
      let m := elBytes e els (fun i => v >>> (8 * sz * i)) (fun i j => !vec || bit (guardMask s f) ((i * sz + j) / 4))
      let m := if pos = 0 then m else got
      let ws := wordsOf m
      if cx.later ∧ pos + 1 < ws.length then
        let w := ws.getD pos 0
        .hold (setHold (setCap (updPart p cx.core (fun k => scrPut k cx.now (m.filter (fun b => decide (b.1 / 8 = w))))) cx e []) cx
          (.words (pos + 1) (ws.drop (pos + 1)) m))
      else
        let left := ws.drop pos
        .done (updPart (popSources p cx.core f) cx.core (fun k =>
          scrPut k cx.now (if pos = 0 then m else m.filter (fun b => left.contains (b.1 / 8)))))

/-- STS (R203). -/
def execSts (f : Fields) (s : State) : Host.Outcome State Fault Refusal := issue (.sts f) .lane0 (storeLocal false) s

/-- STSV (R203). -/
def execStsv (f : Fields) (s : State) : Host.Outcome State Fault Refusal := issue (.stsv f) .lanes (storeLocal true) s

/-- The element of LDSF or STSF, which must lie inside L (R204). -/
def wordElement (k : Part) (cx : Cx) (n : Nat) (w : Word) (write : Bool) : Except Trap (Bits512 × List Int) :=
  match entryFor k n w [1, 2] with
  | .error t => .error t
  | .ok e =>
    if insideLay e (elemIndex e w) = false then .error (boundsTrap 1 w n)
    else match accessEls cx e w n false write allTrue with
      | .error t => .error t
      | .ok els => (match checkScale e w n false els with
        | some t => .error t
        | none => .ok (e, elemIndex e w))

/-- Where the scale of an element lies, for L8. -/
def scaleOff (e : Bits512) (idx : List Int) : Option Nat :=
  if layType e = tyL8 then some (l8ScaleAddr e idx).toNat else none

/-- A scalar register from what a read of an element brought (R188). -/
def elemVal (flush : Bool) (e : Bits512) (idx : List Int) (v : Nat) : Except Trap Word :=
  scalarLoadVal flush e idx (v % 2 ^ 144) (v / 2 ^ 144)

/-- Adds the current slot to the waiters on a word. -/
def addWaiter (p : Pkg) (cx : Cx) (w : Waiter) : Pkg :=
  updPart p cx.core (fun k => { k with waiters := k.waiters ++ [w] })

/-- The waiter of the current slot. -/
def slotWaiter (p : Pkg) (cx : Cx) (take : Bool) (off size : Nat) (scale : Option Nat) (val : Word) : Waiter :=
  let s := curSlot p cx
  { take := take, off := off, size := size, scale := scale, val := val, deadline := cx.now + s.waitlim.toNat,
    slot := some cx.slot, ctx := s.ctx, pkg := p.regs.pkgnum, src := cx.core, asid := asidOf (partOf p cx.core), req := 0, uid := 0,
    moved := false, seen := cx.now }

/-- LDSF ends with what it read (R188, R204). -/
def takeEnd (p : Pkg) (cx : Cx) (f : Fields) (e : Bits512) (idx : List Int) (v : Nat) : Eff :=
  match elemVal (flushes (curSlot p cx)) e idx v with
  | .error t => .trap t
  | .ok x => .done (updPart p cx.core (fun k => writeScalar k cx.slot x f.d))

/-- LDSF on a local word that finds it as it needs it, or begins to wait (R162, R204). -/
def takeLocal (p : Pkg) (cx : Cx) (f : Fields) (e : Bits512) (idx : List Int) : Eff :=
  let k := partOf p cx.core
  let off := (elemAddr e idx).toNat
  let size := tySize (layType e)
  let sc := scaleOff e idx
  if scrClear k (elSpans e false [(0, some idx)]) [] = false then .busy p
  else if tagFree k true (off / 8) then
    match elemBad k off size sc with
    | some w => .trap (scrCheck w)
    | none => takeEnd (serveTag (updPart p cx.core (fun k => setTag k (off / 8) false)) cx.now cx.core (off / 8)) cx f e idx
        (elemRead k off size sc)
  else startWait (addWaiter p cx (slotWaiter p cx true off size sc 0)) cx (.full (off / 8) e idx)

/-- STSF on a local word that finds it as it needs it, or begins to wait (R162, R204). -/
def putLocal (p : Pkg) (cx : Cx) (e : Bits512) (idx : List Int) (v : Word) : Eff :=
  let k := partOf p cx.core
  let off := (elemAddr e idx).toNat
  let size := tySize (layType e)
  if scrClear k [] (elSpans e true [(0, some idx)]) = false then .busy p
  else if tagFree k false (off / 8) then
    .done (serveTag (updPart p cx.core (fun k => setTag (scrWrite k cx.now off (leBytes size v.toNat)) (off / 8) true))
      cx.now cx.core (off / 8))
  else startWait (addWaiter p cx (slotWaiter p cx false off size none v)) cx (.empty (off / 8))

end Sys2Proof.Machine
end

