-- ==== Sys2Proof/Machine/Remote.lean ====
section
/-!
DEFINITION. Full and empty words (R204, R205), remote scratchpad (R206, R210, R211, R366), active messages (R207, R209): the
instructions, and the events that bring them their answers.
-/
namespace Sys2Proof.Machine

/-- The home that a SPACE 2 entry names (R134): package and core. -/
def homeOfEntry (e : Bits512) : Nat × Nat := (fld (BitVec.ofNat 64 (layBase e)) 29 10, fld (BitVec.ofNat 64 (layBase e)) 17 12)

/-- Messages reach a package (R361). -/
def reachable (p : Pkg) (pkg : Nat) : Bool := decide (pkg = p.regs.pkgnum) || !p.unreachable.contains pkg

/-- REMOTE_REFUSED for a read, without a journal entry (R366). -/
def readRefusedTrap (cause addr ioff : Nat) : Trap :=
  { cause := 0x21, sub := cause, jv := false, jent := 0, tval := BitVec.ofNat 64 addr, tinfo := BitVec.ofNat 64 ioff,
    body := none }

/-- A message with a journal entry (R206, R207, R210, R317): sent, or refused at once where its package is unreachable. None
where the journal is full. -/
def sendJournal (p : Pkg) (cx : Cx) (kind pkg dst addr : Nat) (seq : BitVec 32) (body : Nat → MsgBody) : Option Pkg :=
  match journalise p cx kind 2 addr seq (fun uid => .msg dst pkg (body uid)) with
  | none => none
  | some (p1, uid) => some (if reachable p pkg then sendPkg p1 cx.core pkg dst (asidOf (partOf p cx.core)) (body uid)
      else jFail p1 cx.now cx.core uid 4 0x21 0)

/-- The next request number of a core. -/
def takeReq (p : Pkg) (c : Nat) : Nat × Pkg :=
  ((partOf p c).nextUid, updPart p c (fun k => { k with nextUid := k.nextUid + 1 }))

/-- The answers to a remote read of one element end it (R206, R366). -/
def readEnd (p : Pkg) (cx : Cx) (f : Fields) (r : Reply) : Eff :=
  if r.left ≠ 0 then .hold p
  else match r.refused with
    | some (_, cause, addr) => .done (raiseAsync p cx.now cx.core (readRefusedTrap cause addr (curSlot p cx).pc))
    | none => takeEnd p cx f r.entry r.idx (mapGet 0 r.vals 0)

/-- A remote read of one element: its request goes out and the slot holds for the answer (R204, R206). -/
def askElement (p : Pkg) (cx : Cx) (e : Bits512) (idx : List Int) (deadline : Option Nat)
    (body : Nat → Nat → Nat → Option Nat → MsgBody) : Eff :=
  let (pkg, dst) := homeOfEntry e
  let off := (elemAddr e idx).toNat
  let addr := homeAddr pkg dst off
  if reachable p pkg then
    let (req, p1) := takeReq p cx.core
    let r : Reply := { req := req, left := 1, vals := [], refused := none, deadline := deadline,
                       addr := [(0, addr)], timedOut := none, entry := e, idx := idx }
    .hold (setHold (sendPkg p1 cx.core pkg dst (asidOf (partOf p cx.core)) (body req off (tySize (layType e)) (scaleOff e idx)))
      cx (.reply r))
  else .done (raiseAsync p cx.now cx.core (readRefusedTrap 0x21 addr (curSlot p cx).pc))

/-- RLD (R206). -/
def rld (f : Fields) (cx : Cx) (p : Pkg) : Eff :=
  match holdOf p cx with
  | .reply r => readEnd p cx f r
  | _ =>
    let k := partOf p cx.core
    let n := opdLay f.a
    let w := bScalar p cx.core (slotOf k cx.slot) f.b
    match entryFor k n w [2] with
    | .error t => .trap t
    | .ok e => (match accessEls cx e w n false false allTrue with
      | .error t => .trap t
      | .ok els => (match checkScale e w n false els, els with
        | some t, _ => .trap t
        | none, (_, some idx) :: _ => askElement p cx e idx none (fun req off size sc => .load off size sc req 0)
        | none, _ => .done (updPart p cx.core (fun k => writeScalar k cx.slot 0 f.d))))

def execRld (f : Fields) (s : State) : Host.Outcome State Fault Refusal := issue (.rld f) .lane0 rld s

/-- The low bytes of a value that an element of a type takes (R188). -/
def elemOf (e : Bits512) (v : Word) : Word := BitVec.ofNat 64 (v.toNat % 2 ^ (8 * tySize (layType e)))

/-- RST (R206): an element outside L is discarded and nothing is sent. -/
def rst (f : Fields) (cx : Cx) (p : Pkg) : Eff :=
  let k := partOf p cx.core
  let s := slotOf k cx.slot
  let n := opdLay f.d
  let w := opdScalar s f.a
  match entryFor k n w [2] with
  | .error t => .trap t
  | .ok e => (match accessEls cx e w n false true allTrue with
    | .error t => .trap t
    | .ok ((_, some idx) :: _) =>
      let (pkg, dst) := homeOfEntry e
      let off := (elemAddr e idx).toNat
      let v := elemOf e (bScalar p cx.core s f.b)
      (match sendJournal p cx 1 pkg dst (homeAddr pkg dst off) 0 (fun uid => .store off (tySize (layType e)) v uid) with
      | some p1 => .done p1
      | none => .stay p)
    | .ok _ => .done p)

def execRst (f : Fields) (s : State) : Host.Outcome State Fault Refusal := issue (.rst f) .lane0 rst s

/-- The deadline that travels with a remote LDSF or STSF (R205); with LIMIT 0 its one test is at its arrival, written 0. To another
package, whose counter is never compared with this one's, goes what remains (R22). -/
def sentDeadline (p : Pkg) (cx : Cx) (pkg : Nat) : Nat :=
  let lim := (curSlot p cx).waitlim.toNat
  if lim = 0 ∨ pkg ≠ p.regs.pkgnum then lim else cx.now + lim

/-- WAIT_TIMEOUT of a remote LDSF or STSF (R205, R264). -/
def replyTimeout (cx : Cx) (r : Reply) (listFull : Bool) : Trap :=
  let addr := mapGet 0 r.addr 0
  timeoutTrap cx (if listFull then 2 else 1) (r.deadline.getD cx.now) (some (addr / 4 % 2 ^ 17, addr / 2 ^ 19 % 2 ^ 12))

/-- LDSF (R204). -/
def ldsf (f : Fields) (cx : Cx) (p : Pkg) : Eff :=
  match holdOf p cx with
  | .wait w => (match w.kind with
    | .full _ e idx => if w.met then takeEnd p cx f e idx w.value else .hold p
    | _ => .hold p)
  | .reply r => (match r.timedOut with
    | some lf => .trap (replyTimeout cx r lf)
    | none => readEnd p cx f r)
  | _ =>
    let k := partOf p cx.core
    match wordElement k cx (opdLay f.a) (bScalar p cx.core (slotOf k cx.slot) f.b) false with
    | .error t => .trap t
    | .ok (e, idx) =>
      if laySpace e = 1 then takeLocal p cx f e idx
      else askElement p cx e idx (some (cx.now + (curSlot p cx).waitlim.toNat))
        (fun req off size sc => .takeFull off size sc (sentDeadline p cx (homeOfEntry e).1) req)

def execLdsf (f : Fields) (s : State) : Host.Outcome State Fault Refusal := issue (.ldsf f) .lane0 ldsf s

/-- STSF (R204): a remote one holds a journal entry besides its slot. -/
def stsf (f : Fields) (cx : Cx) (p : Pkg) : Eff :=
  match holdOf p cx with
  | .wait w => if w.met then .done p else .hold p
  | .reply r => (match r.timedOut with
    | some lf => .trap (replyTimeout cx r lf)
    | none => if r.left = 0 then .done p else .hold p)
  | _ =>
    let k := partOf p cx.core
    let s := slotOf k cx.slot
    match wordElement k cx (opdLay f.d) (opdScalar s f.a) true with
    | .error t => .trap t
    | .ok (e, idx) =>
      let v := elemOf e (bScalar p cx.core s f.b)
      if laySpace e = 1 then putLocal p cx e idx v
      else
        let (pkg, dst) := homeOfEntry e
        let off := (elemAddr e idx).toNat
        let addr := homeAddr pkg dst off
        let (req, p0) := takeReq p cx.core
        match sendJournal p0 cx 3 pkg dst addr 0 (fun uid => .putEmpty off (tySize (layType e)) v (sentDeadline p cx pkg) req uid) with
        | none => .stay p
        | some p1 =>
          let r : Reply := { req := req, left := 1, vals := [], refused := none,
                             deadline := some (cx.now + s.waitlim.toNat), addr := [(0, addr)], timedOut := none, entry := e,
                             idx := idx }
          if reachable p pkg then .hold (setHold p1 cx (.reply r)) else .done p1

def execStsf (f : Fields) (s : State) : Host.Outcome State Fault Refusal := issue (.stsf f) .lane0 stsf s

/-- A packet of this core with SEQ that is neither acknowledged nor cleared (R160), by its number. -/
def seqOpen (e : JEntry) : Option (BitVec 32) :=
  match e.body with
  | .msg _ _ (.reduce _ _ _ (some q) _) => if e.status = 5 then none else some q
  | _ => none

/-- The window lets a packet numbered s go out (R160): none of 64 or more numbers before it is open, compared modulo 2^32. -/
def seqMayIssue (k : Part) (s : BitVec 32) : Bool :=
  k.journal.all (fun e => match seqOpen e.2 with
    | some q => decide ((s - q).toNat < 64) || decide (2 ^ 31 ≤ (s - q).toNat)
    | none => true)

/-- The elements of an RRED (R187, R192, R210): no operator pairs with L8 or F4X, which is found after the alignment. -/
def rredEls (cx : Cx) (e : Bits512) (w : Word) (n : Nat) (vec : Bool) (g : Mask) : Except Trap (List El) :=
  let ty := layType e
  if ty = tyL8 ∨ ty = tyF4X then
    let base := elemIndex e w
    let e0 := base.getD 0 0
    if vec && decide (e0 % (if ty = tyL8 then 8 else 32) ≠ 0) then .error (alignTrap (elemAddr e base))
    else match checkEls e w n true base (if vec then (List.range (vecCount ty)).filter (laneTakesPart ty g) else [0]) with
      | .error t => .error t
      | .ok _ => .error (boundsTrap 3 w n)
  else accessEls cx e w n vec true g

/-- RRED (R210). DESIGN CHOICE (log 70): ADDR of the journal entry names the first element that the packet carries. -/
def rred (f : Fields) (cx : Cx) (p : Pkg) : Eff :=
  let co := coreOf p cx.core
  let k := co.part
  let s := slotOf k cx.slot
  let n := opdLay f.d
  let w := opdScalar s f.a
  let vec := match f.b with
    | .desc (.v _) => true
    | .desc (.qc _ _ _) => true
    | .desc (.m _ _ _) => true
    | _ => false
  let opr := fld f.md 1 3
  match entryFor k n w [2] with
  | .error t => .trap t
  | .ok e => (match rredEls cx e w n vec (guardMask s f) with
    | .error t => .trap t
    | .ok els =>
      let ty := layType e
      if opTypeOk opr ty = false ∨ 10 < ty then .trap (boundsTrap 3 w n)
      else
        let sz := tySize ty
        let v := if vec then (readB p cx.core cx.slot f).toNat else (bScalar p cx.core s f.b).toNat
        let out := els.filterMap (fun x => x.2.map (fun idx =>
          ((elemAddr e idx).toNat, BitVec.ofNat 64 (v >>> (8 * sz * x.1) % 2 ^ (8 * sz)))))
        if out = [] then .done (popSources p cx.core f)
        else
          let (pkg, dst) := homeOfEntry e
          let off := (out.head?.map (·.1)).getD 0
          let seq := if bit f.md 0 then some co.redSeq else none
          if seq.isSome && !seqMayIssue k co.redSeq then .busy p
          else match sendJournal p cx 2 pkg dst (homeAddr pkg dst off) (seq.getD 0) (fun uid => .reduce out ty opr seq uid) with
            | none => .stay p
            | some p1 => .done (popSources (updCore p1 cx.core (fun c =>
                if seq.isSome then { c with redSeq := c.redSeq + 1 } else c)) cx.core f))

def execRred (f : Fields) (s : State) : Host.Outcome State Fault Refusal :=
  issue (.rred f) (match f.b with
    | .desc (.v _) => .lanes
    | .desc (.qc _ _ _) => .lanes
    | .desc (.m _ _ _) => .lanes
    | _ => .lane0) rred s

/-- One lane of RGATH: zero, or an element of a core (R211). -/
structure GathLane where
  lane : Nat
  core : Nat
  at' : Option (List Int)
  deriving DecidableEq, Repr, Inhabited

/-- The lanes of RGATH under the edge rule and the alignment rule (R211). -/
def gathLanes (e : Bits512) (n : Nat) (b : VReg) : List Nat → Except Trap (List GathLane)
  | [] => .ok []
  | l :: rest =>
    let x := lane b l
    let w : Word := BitVec.ofNat 64 (fld x 0 16)
    let idx := elemIndex e w
    let at' : Except Trap (Option (List Int)) := match readAt e idx with
      | .zero => .ok none
      | .bounds => .error (boundsTrap 1 w n)
      | .at j => (match checkAddr e w n 0 j with
        | .error t => .error t
        | .ok _ => .ok (some j))
    match at' with
    | .error t => .error t
    | .ok o => (match gathLanes e n b rest with
      | .error t => .error t
      | .ok ls => .ok (⟨l, fld x 16 12, o⟩ :: ls))

/-- The request of one lane. -/
def sendLane (p : Pkg) (cx : Cx) (pkg req : Nat) (e : Bits512) (g : GathLane) : Pkg :=
  match g.at' with
  | none => p
  | some idx => sendPkg p cx.core pkg g.core (asidOf (partOf p cx.core))
      (.load (elemAddr e idx).toNat (tySize (layType e)) none req g.lane)

/-- RGATH ends (R211, R366): the lanes that were answered, in lane order; one trap for the lowest that was refused. -/
def gathEnd (p : Pkg) (cx : Cx) (f : Fields) (r : Reply) : Eff :=
  if r.left ≠ 0 then .hold p
  else
    let ty := layType r.entry
    let v := mkLanes (fun l => let x := mapGet 0 r.vals l
      if tySigned ty then BitVec.ofInt 32 (asInt (8 * tySize ty) x) else BitVec.ofNat 32 x)
    let p1 := writeVec p cx.core cx.slot (mkMask (fun l => (mapFind r.vals l).isSome)) v f.d
    match r.refused with
    | some (_, cause, addr) => .done (raiseAsync p1 cx.now cx.core (readRefusedTrap cause addr (curSlot p cx).pc))
    | none => .done p1

/-- RGATH (R211). -/
def rgath (f : Fields) (cx : Cx) (p : Pkg) : Eff :=
  match holdOf p cx with
  | .reply r => gathEnd p cx f r
  | _ =>
    let k := partOf p cx.core
    let s := slotOf k cx.slot
    let n := opdLay f.a
    match entryFor k n 0 [2] with
    | .error t => .trap t
    | .ok e =>
      if 8 ≤ tySize (layType e) ∨ layType e = tyL8 then .trap (boundsTrap 4 0 n)
      else match gathLanes e n (readB p cx.core cx.slot f) ((List.range 32).filter (bit (guardMask s f))) with
        | .error t => .trap t
        | .ok ls =>
          let pkg := (homeOfEntry e).1
          let far := ls.filter (fun g => g.at'.isSome)
          let addrs := far.map (fun g => (g.lane, homeAddr pkg g.core (match g.at' with
            | some idx => (elemAddr e idx).toNat
            | none => 0)))
          let (req, p1) := takeReq (popSources p cx.core f) cx.core
          let zeros := (ls.filter (fun g => g.at'.isNone)).map (fun g => (g.lane, 0))
          let r : Reply := { req := req, left := far.length, vals := zeros, refused := none, deadline := none,
                             addr := addrs, timedOut := none, entry := e, idx := [] }
          if far = [] then gathEnd p1 cx f r
          else if reachable p pkg then
            .hold (setHold (far.foldl (fun q g => sendLane q cx pkg req e g) p1) cx (.reply r))
          else gathEnd p1 cx f { r with left := 0, refused := addrs.head?.map (fun x => (x.1, 0x21, x.2)) }

def execRgath (f : Fields) (s : State) : Host.Outcome State Fault Refusal := issue (.rgath f) .lanes rgath s

/-- AMSG (R207): bits [23:22] of sN refuse the message. -/
def amsg (f : Fields) (cx : Cx) (p : Pkg) : Eff :=
  let s := curSlot p cx
  let x := blockReg s 0 f.a
  let dst := fld x 0 12
  let pkg := fld x 12 10
  let body := fun (uid : Nat) => MsgBody.amsg (fld x 24 8) (blockReg s 1 f.a) (blockReg s 2 f.a) (blockReg s 3 f.a)
    (bScalar p cx.core s f.b) uid
  if fld x 22 2 = 0 then
    match sendJournal p cx 5 pkg dst (homeAddr pkg dst 0) 0 body with
    | some p1 => .done p1
    | none => .stay p
  else match journalise p cx 5 2 (homeAddr pkg dst 0) 0 (fun uid => .msg dst pkg (body uid)) with
    | some (p1, uid) => .done (jFail p1 cx.now cx.core uid 4 0x21 0)
    | none => .stay p

def execAmsg (f : Fields) (s : State) : Host.Outcome State Fault Refusal := issue (.amsg f) .lane0 amsg s

/-- AMRET (R209): its answer goes after the ACCSTs of the handler are performed. -/
def amret (f : Fields) (cx : Cx) (p : Pkg) : Eff :=
  let s := curSlot p cx
  if s.kind ≠ .errand then .trap (bareTrap causeIllegal cx)
  else if (partOf p cx.core).accq.any (fun x => decide (x.slot = cx.slot) && decide (x.ctx = s.ctx)) then .stay p
  else
    let b := bScalar p cx.core s f.b
    .gone (endHandler (markIssued p cx f) cx.now cx.core cx.slot
      (fun uid => if b = 0 then .ack uid else .refusal uid 0x3F (BitVec.ofNat 64 (fld b 0 32))))

def execAmret (f : Fields) (s : State) : Host.Outcome State Fault Refusal := issue (.amret f) .lane0 amret s

/-- The meaning that a slot's held instruction goes on with when its answers have come. -/
def heldBody (code : Nat) : Option (Fields → Cx → Pkg → Eff) :=
  match code with
  | 0x104 => some ldsf
  | 0x105 => some stsf
  | 0x108 => some rld
  | 0x10B => some rgath
  | _ => none

/-- Completes a slot's instruction whose answers have come. -/
def settleReply (p : Pkg) (cx : Cx) (c n : Nat) : Pkg :=
  let cx := { cx with core := c, slot := n }
  match decode (textWord p c (slotOf (partOf p c) n).pc) with
  | .error _ => p
  | .ok i => (match i.word with
    | none => p
    | some (code, f) => (match heldBody code with
      | none => p
      | some b => settle p cx f (b f cx p)))

/-- Changes the answers that a slot of a core waits for under a request number, and completes it where none is left. -/
def onReply (p : Pkg) (cx : Cx) (c req : Nat) (g : Reply → Reply) : Pkg :=
  match (partOf p c).slots.find? (fun e => match e.2.hold with
      | .reply r => decide (r.req = req)
      | _ => false) with
  | none => p
  | some (n, s) => (match s.hold with
    | .reply r => settleReply (updPart p c (fun k => setSlot k n { s with hold := .reply (g r) })) cx c n
    | _ => p)

/-- A lane's answer (R161, R206). -/
def gotLane (lane v : Nat) (r : Reply) : Reply := { r with left := r.left - 1, vals := mapInsert r.vals lane v }

/-- A lane's refusal: the lowest refused lane is reported (R366). -/
def refusedLane (lane cause : Nat) (r : Reply) : Reply :=
  { r with left := r.left - 1, refused := match r.refused with
      | some (l, c, a) => if lane < l then some (lane, cause, mapGet 0 r.addr lane) else some (l, c, a)
      | none => some (lane, cause, mapGet 0 r.addr lane) }

end Sys2Proof.Machine
end

