-- ==== Sys2Proof/Machine/CopyBox.lean ====
section
/-!
DEFINITION. Copies: the box (R213), the checks at issue (R216), conversion (R214).
-/
namespace Sys2Proof.Machine

/-- The element at coordinates w moved by j: exact indices (R135, R213). -/
def layAt (e : Bits512) (w : Word) (j : List Nat) : List Int :=
  (List.range 4).map (fun d => if d < layRank e then layCur e d + coord w d + ((j.getD d 0 : Nat) : Int) else 0)

/-- Coordinates w moved by j, as they stand in a trap record. -/
def coordsPlus (w : Word) (j : List Nat) : Word :=
  BitVec.ofNat 64 (packNat 16 4 (fun d => wrapInt 16 (coord w d + ((j.getD d 0 : Nat) : Int))))

/-- n[k] of R213; 1 at and beyond the rank. -/
def boxSize (d : Bits512) (od : Word) : List Nat :=
  (List.range 4).map (fun k => if k < layRank d then ((layExt d k : Int) - (layCur d k + coord od k)).toNat else 1)

/-- The places of a box, dimension 0 fastest (R213). -/
def boxPlaces (n : List Nat) : List (List Nat) :=
  (List.range (n.getD 3 0)).flatMap (fun x3 => (List.range (n.getD 2 0)).flatMap (fun x2 =>
    (List.range (n.getD 1 0)).flatMap (fun x1 => (List.range (n.getD 0 0)).map (fun x0 => [x0, x1, x2, x3]))))

/-- j of R213 for a place i: XF 1 TRN, 2 REV. -/
def srcPlace (xf : Nat) (n i : List Nat) : List Nat :=
  match xf with
  | 1 => (i.set 0 (i.getD 1 0)).set 1 (i.getD 0 0)
  | 2 => i.set 0 (n.getD 0 0 - 1 - i.getD 0 0)
  | _ => i

/-- An element of a copy in box order: its place, its ordinal, source and destination indices; none for a source that reads
as zero. -/
structure CpyEl where
  place : List Nat
  ord : Nat
  src : Option (List Int)
  dst : List Int
  deriving DecidableEq, Repr, Inhabited

/-- The elements of a copy; a source outside under the fault rule stands as it is, and is refused at issue. -/
def cpyEls (d s : Bits512) (od os : Word) (xf : Nat) : List CpyEl :=
  let n := boxSize d od
  ((boxPlaces n).zipIdx).map (fun x =>
    let idx := layAt s os (srcPlace xf n x.1)
    { place := x.1, ord := x.2, src := (match readAt s idx with
        | .at j => some j
        | _ => none), dst := layAt d od x.1 })

/-- Elements of a block of the destination type along dimension 0. -/
def blockSize (ty : Nat) : Nat := if ty = tyL8 then 8 else if ty = tyF4X then 32 else 1

/-- The elements that one destination element, point or block takes: consecutive ones with one block number. -/
def cpyUnits (d : Bits512) (els : List CpyEl) : List (List CpyEl) :=
  let b : Int := blockSize (layType d)
  els.foldr (fun x acc => match acc with
    | (y :: ys) :: rest => if b ≠ 1 ∧ y.dst.drop 1 = x.dst.drop 1 ∧ y.dst.getD 0 0 / b = x.dst.getD 0 0 / b then
        (x :: y :: ys) :: rest else [x] :: (y :: ys) :: rest
    | _ => [x] :: acc) []

/-- The bytes a copy counts (R223). -/
def cpyBytes (d : Bits512) (els : List CpyEl) : Nat := (cpyUnits d els).length * tySize (layType d)

def isFp8 (ty : Nat) : Bool := decide (ty = 11) || decide (ty = 12)

/-- The scale register is read (R214). -/
def usesScale (td ts : Nat) : Bool := isFp8 td != isFp8 ts

/-- Bounds of one element of an entry (R136, R137, R216). -/
def cpyBounds (e : Bits512) (n : Nat) (w : Word) (idx : List Int) : Option Trap :=
  if laySpace e = 0 then none
  else if scrFits (tySize (layType e)) (elemAddr e idx) = false then some (boundsTrap 7 w n)
  else if layType e = tyL8 ∧ scrFits 2 (l8ScaleAddr e idx) = false then some (boundsTrap 7 w n)
  else none

/-- LAYOUT_BOUNDS of an element of the box (R216). -/
def cpyElBounds (d s : Bits512) (nd ns : Nat) (od os : Word) (xf : Nat) (x : CpyEl) : Option Trap :=
  let j := srcPlace xf (boxSize d od) x.place
  let idx := layAt s os j
  match readAt s idx with
  | .bounds => some (boundsTrap 1 (coordsPlus os j) ns)
  | .zero => cpyBounds d nd (coordsPlus od x.place) x.dst
  | .at q => (match cpyBounds s ns (coordsPlus os j) q with
    | some t => some t
    | none => cpyBounds d nd (coordsPlus od x.place) x.dst)

/-- ALIGN of an element of the box (R137, R216). -/
def cpyElAlign (d s : Bits512) (x : CpyEl) : Option Trap :=
  match x.src with
  | some q => if alignOk (layType s) (elemAddr s q) = false then some (alignTrap (elemAddr s q))
    else if alignOk (layType d) (elemAddr d x.dst) = false then some (alignTrap (elemAddr d x.dst)) else none
  | none => if alignOk (layType d) (elemAddr d x.dst) = false then some (alignTrap (elemAddr d x.dst)) else none

/-- A box that goes from an element on to the extent of an L8 layout starts inside a point that does not reach the extent (R124). -/
def l8Inside (d : Bits512) (e0 : Int) : Bool :=
  decide (e0 % 8 ≠ 0) && decide (e0 / 8 ≠ ((layExt d 0 : Int) - 1) / 8)

/-- A scale that is not positive and finite (R216). -/
def scaleUnfit : FV → Bool
  | .fin neg m _ => neg || decide (m = 0)
  | _ => true

/-- The checks of R216, in the order of its table. DESIGN CHOICE (log 39): TRN with a destination of rank 1 has SUB 1, as a coordinate out
of range has; R313 gives a rank fault none. -/
def cpyChecks (cx : Cx) (d s : Bits512) (nd ns : Nat) (od os : Word) (xf : Nat) (ben : Bool) (off : Nat)
    (scale : BitVec 32) : Option Trap :=
  let els := cpyEls d s od os xf
  let ty := layType d
  if (xf = 1 ∧ layRank d = 1) ∨ (List.range (layRank d)).any (fun k => decide (layCur d k + coord od k < 0)) then
    some (boundsTrap 1 od nd)
  else if 3 ≤ xf ∧ (opTypeOk (xf - 2) ty = false ∨ 10 < ty) then some (boundsTrap 3 od nd)
  else match els.findSome? (cpyElBounds d s nd ns od os xf) with
    | some t => some t
    | none => (match els.findSome? (cpyElAlign d s) with
      | some t => some t
      | none =>
        if ben ∧ off % 16 ≠ 0 then some (alignTrap off)
        else if ty = tyL8 ∧ els ≠ [] ∧ l8Inside d (layCur d 0 + coord od 0) then some (bareTrap causeLattice cx)
        else if usesScale ty (layType s) && scaleUnfit (decodeF fmtF32 scale.toNat) then some scaleTrap
        else none)

/-- A value of R214 by its type: exact, BF16 subnormals flushed (R66). -/
def cpyVal (ty raw : Nat) : FV :=
  if tyIsInt ty then
    let i : Int := if tySigned ty then asInt (8 * tySize ty) raw else raw
    .fin (decide (i < 0)) i.natAbs 0
  else readF (fmtOfTy ty) true raw

/-- v × k where k is the scale (R214): exact. -/
def cpyTimes (v : FV) (scale : FV) : FV :=
  match v, scale with
  | .fin n m e, .fin _ ms es => .fin n (m * ms) (e + es)
  | v, _ => v

/-- convert of R214 for a destination element: bits and flags. `ts` is the source type after decoding. -/
def cpyConvert (td ts : Nat) (scale : BitVec 32) (raw : Nat) : Nat × Flags :=
  if td = ts then (raw, 0)
  else
    let sc := decodeF fmtF32 scale.toNat
    let v := cpyVal ts raw
    if tyIsInt td then
      if tyIsInt ts then
        let lo := intMin (tySigned td) (8 * tySize td)
        let hi := intMax (tySigned td) (8 * tySize td)
        let i : Int := if tySigned ts then asInt (8 * tySize ts) raw else raw
        let c := max lo (min i hi)
        (wrapInt (8 * tySize td) c, if c = i then 0 else fSAT)
      else
        let r := fvToInt .rn true (tySigned td) (8 * tySize td) (if isFp8 ts then cpyTimes v sc else v)
        (wrapInt (8 * tySize td) r.1, r.2)
    else
      let F := fmtOfTy td
      let r := if isFp8 td && !isFp8 ts then fvDiv F .rn true true v sc
        else if isFp8 ts && !isFp8 td then fvConvert F .rn true true (cpyTimes v sc)
        else fvConvert F .rn true true v
      (r.bits, r.fl)

/-- A source value as the F32 that a point is quantised from (R122, R214): an infinity stays one. -/
def cpyToF32 (ts : Nat) (scale : BitVec 32) (raw : Nat) : Nat × Flags :=
  if ts = 8 then (raw, 0)
  else
    let v := cpyVal ts raw
    let r := fvConvert fmtF32 .rn false true (if isFp8 ts then cpyTimes v (decodeF fmtF32 scale.toNat) else v)
    (r.bits, r.fl &&& (fNV ||| fNX))

/-- The source element decoded (R59, R62, R214): type and bits; L8 and F4X give F32. `v` holds the bytes of the scale above
bit 143. None on a scale fault (R61). -/
def cpyDecode (s : Bits512) (idx : List Int) (v : Nat) : Option (Nat × Nat) :=
  let ty := layType s
  if ty = tyL8 ∨ ty = tyF4X then
    match scalarLoadVal true s idx (v % 2 ^ 144) (v / 2 ^ 144) with
    | .ok w => some (8, w.toNat)
    | .error _ => none
  else some (ty, v)

/-- The type of the elements that are put together into a point or a block. -/
def unitTy (td : Nat) : Nat := if td = tyL8 ∨ td = tyF4X then 8 else td

/-- The elements of a destination point or block that are those of one source point or block of the same type, in its order: the element
from which its bits are copied unchanged (R214). -/
def cpyWhole (d s : Bits512) (u : List CpyEl) : Option CpyEl :=
  let b : Int := blockSize (layType d)
  match u with
  | [] => none
  | el :: _ => (match el.src with
    | none => none
    | some q =>
      if layType d = layType s ∧ b ≠ 1 ∧ el.dst.getD 0 0 % b = 0 ∧ q.getD 0 0 % b = 0 ∧
          u.zipIdx.all (fun y => decide (y.1.src = some (q.set 0 (q.getD 0 0 + (y.2 : Int))))) then some el
      else none)

/-- A whole destination point or block from its F32 elements (R60, R122): bytes and flags; none on a scale fault. `first` is
the index of the first element, `scale` the point's BF16 scale. -/
def cpyBlock (d : Bits512) (free ord : Nat) (first : Int) (xs : List Nat) (scale : Nat) : Option (Nat × Flags) :=
  let vs := xs.map (decodeF fmtF32)
  if layType d = tyL8 then
    let sc := readScale true scale
    if l8BadScale scale || fvIsZero sc then none
    else if first % 8 ≠ 0 then some (Config.partialBlock free ord % 2 ^ 32, 0)
    else some (l8Quantise (vs ++ List.replicate (8 - vs.length) (.fin false 0 0)) sc
      (8 - (min 8 ((layExt d 0 : Int) - first)).toNat))
  else if first % 32 ≠ 0 then some (Config.partialBlock free ord % 2 ^ 144, 0)
  else some (f4xCanon (vs ++ List.replicate (32 - vs.length) (.fin false 0 0)))

end Sys2Proof.Machine
end

