-- ==== Sys2Proof/Machine/CopyRun.lean ====
section
/-!
DEFINITION. Copies performed: sources read and destinations written (R213, R215), failures (R217), completion (R174, R218, R223).
-/
namespace Sys2Proof.Machine

/-- Why an element of a copy fails (R217): a subcause of ENGINE_FAULT, or MACHINE_CHECK of its source. -/
inductive CopyFail where
  | engine (sub : Nat)
  | check (t : Trap)
  /-- a home refuses the read of a word in error (R326): the home and the offset -/
  | refused (home off : Nat)
  deriving DecidableEq, Repr, Inhabited

/-- The level whose view a global source gives and at which a streamer serves: M0 for the interface (R215). -/
def cpyLevel (sc : Nat) : Nat := if sc ≤ 2 then 0 else if sc = 3 then 2 else 3

/-- A streamer serves the copy (R215). -/
def streamed (x : Copy) : Bool := decide (laySpace x.src = 0) && decide (3 ≤ x.sc)

/-- n bytes of global memory for an engine, at a level's view (R215, R291). -/
def globalBytes (p : Pkg) (now c asid lvl ty a n : Nat) : Except CopyFail Nat :=
  let gs := granulesOf [(a : Int)] n
  let r : Except CopyFail (SMap Granule) := gs.foldl (fun acc g => match acc with
    | .error e => .error e
    | .ok m => (match engineXl p now c asid g.toNat false with
      | .error t => if t.cause = causeMachineCheck then .error (.check t) else .error (.engine 2)
      | .ok x =>
        if (layerCheck x ty g.toNat).isSome then .error (.engine 2)
        else match viewBad p now c lvl x g.toNat with
        | some k => .error (.check (memCheck (32 * keyGran k)))
        | none => .ok (mapInsert m (g.toNat / 32) (viewGranule p now c lvl x g.toNat (touchMask [(a : Int)] n g)).1))) (.ok [])
  match r with
  | .error e => .error e
  | .ok m => .ok (granuleBytes m a n)

/-- The core of this package whose scratchpad an entry names; none in another package. -/
def scrHome (p : Pkg) (c : Nat) (e : Bits512) : Option Nat :=
  if laySpace e = 1 then some c
  else if (homeOfEntry e).1 = p.regs.pkgnum then some (homeOfEntry e).2 else none

/-- A home of this package that a copy reaches remotely takes its traffic (R297, R328). -/
def copyMay (p : Pkg) (x : Copy) (e : Bits512) (c : Nat) : Bool :=
  match (if laySpace e = 2 then scrHome p c e else none) with
  | some h => (coreOf p h).fenced.isNone && scapOk p h p.regs.pkgnum x.asid
  | none => true

/-- Bytes of scratchpad for a copy: a word in error at another home is refused there, at the own core it is a MACHINE_CHECK
(R326). -/
def scrBytesFor (p : Pkg) (c : Nat) (e : Bits512) (h a n : Nat) : Except CopyFail Nat :=
  let k := partOf p h
  match scrBad k a n with
  | some w => if laySpace e = 1 ∧ h = c then .error (.check (scrCheck w)) else .error (.refused h (8 * w))
  | none => .ok (scrNat k a n)

/-- n bytes at an address of an entry, from where the entry lies; `key` finds another package's answer. A negative global address stands for
one at or above 2^57, which fails its translation (R137, R288). -/
def cpyBytesAt (p : Pkg) (now c : Nat) (x : Copy) (e : Bits512) (key : Nat) (a : Int) (n : Nat) : Except CopyFail Nat :=
  if laySpace e = 0 then
    if a < 0 then .error (.engine 2) else globalBytes p now c x.asid (cpyLevel x.sc) (layType e) a.toNat n
  else match scrHome p c e with
    | some h => scrBytesFor p c e h a.toNat n
    | none => .ok (mapGet 0 x.vals key)

/-- A source element with its scale above bit 143 (R213, R215). -/
def cpyRead (p : Pkg) (now c : Nat) (x : Copy) (el : CpyEl) : Except CopyFail (Option (List Int × Nat)) :=
  match el.src with
  | none => .ok none
  | some idx =>
    if copyMay p x x.src c = false then .error (.engine 3)
    else match cpyBytesAt p now c x x.src (2 * el.ord) (elemAddr x.src idx) (tySize (layType x.src)) with
      | .error e => .error e
      | .ok v =>
        if layType x.src = tyL8 ∧ (laySpace x.src ≠ 2 ∨ (scrHome p c x.src).isSome) then
          (match cpyBytesAt p now c x x.src (2 * el.ord) (l8ScaleAddr x.src idx) 2 with
          | .error e => .error e
          | .ok sc => .ok (some (idx, v + sc * 2 ^ 144)))
        else .ok (some (idx, v))

/-- A source value converted to the type of a destination's elements (R214). -/
def cpyTo (x : Copy) (td ts raw : Nat) : Nat × Flags :=
  if layType x.d = tyL8 then cpyToF32 ts x.scale raw else cpyConvert td ts x.scale raw

/-- An element converted to a type (R214): bits and flags. -/
def cpyElement (p : Pkg) (now c : Nat) (x : Copy) (td : Nat) (el : CpyEl) : Except CopyFail (Nat × Flags) :=
  match cpyRead p now c x el with
  | .error e => .error e
  | .ok none => .ok (cpyTo x td (if layType x.src = tyL8 ∨ layType x.src = tyF4X then 8 else layType x.src) 0)
  | .ok (some (idx, v)) => (match cpyDecode x.src idx v with
    | none => .error (.engine 1)
    | some (ts, raw) => .ok (cpyTo x td ts raw))

def cpyElements (p : Pkg) (now c : Nat) (x : Copy) (td : Nat) : List CpyEl → Except CopyFail (List Nat × Flags)
  | [] => .ok ([], 0)
  | el :: rest =>
    match cpyElement p now c x td el with
    | .error e => .error e
    | .ok (v, fl) => (match cpyElements p now c x td rest with
      | .error e => .error e
      | .ok (vs, fls) => .ok (v :: vs, fl ||| fls))

/-- The value of a unit of the destination: an element, a point or a block (R213, R214). -/
def cpyUnit (p : Pkg) (now c : Nat) (x : Copy) (u : List CpyEl) : Except CopyFail (Nat × Flags) :=
  let td := layType x.d
  match cpyWhole x.d x.src u with
  | some el =>
    if copyMay p x x.src c = false then .error (.engine 3)
    else (cpyBytesAt p now c x x.src (2 * el.ord) (elemAddr x.src (el.src.getD [])) (tySize td)).map
      (fun v => (v % 2 ^ (8 * tySize td), 0))
  | none =>
  match cpyElements p now c x (unitTy td) u, u with
  | .error e, _ => .error e
  | .ok (vs, fl), el :: _ =>
    if td = tyL8 ∨ td = tyF4X then
      let sc := if td = tyL8 then
          cpyBytesAt p now c x x.d (2 * el.ord + 1) (l8ScaleAddr x.d el.dst) 2 else .ok 0
      match sc with
      | .error e => .error e
      | .ok sc => (match cpyBlock x.d p.freeNo (el.ord + 65536 * x.ident) (el.dst.getD 0 0) vs sc with
        | none => .error (.engine 1)
        | some (v, fl') => .ok (v, if td = tyF4X then (fl ||| fl') &&& (fNV ||| fNX ||| fSAT) else fl ||| fl'))
    else .ok (vs.getD 0 0, fl)
  | .ok _, [] => .ok (0, 0)

/-- What a copy has performed so far: the package, the pieces of its global records in order, messages for another package,
how many units it has performed. -/
structure CopySt where
  p : Pkg
  recs : List (Nat × Piece)
  out : List MsgBody
  done : Nat
  fl : Flags
  deriving Repr

/-- Adds bytes to the last piece of a key, or as a new piece where a reducing record already covers one of them. -/
def addRecPiece (reducing : Bool) (key : Nat) (q : Piece) (l : List (Nat × Piece)) : List (Nat × Piece) :=
  match l with
  | [] => [(key, q)]
  | (k', o) :: rest =>
    if k' = key ∧ (reducing = false ∨ o.mask &&& q.mask = 0) ∧ rest.all (fun y => decide (y.1 ≠ key)) then
      (key, { o with mask := o.mask ||| q.mask, payload := overlay q.mask o.payload q.payload }) :: rest
    else (k', o) :: addRecPiece reducing key q rest

/-- The translated pieces of n bytes at a global address, to be written. -/
def writePieces (p : Pkg) (now c asid ty a n v : Nat) : Except CopyFail (List (Nat × Piece)) :=
  let ps := ((List.range n).foldl (fun m j => addPiece m (a + j) (BitVec.ofNat 8 (v >>> (8 * j)))) ([] : SMap Piece)).map (·.2)
  ps.foldl (fun acc q => match acc with
    | .error e => .error e
    | .ok l => (match engineXl p now c asid q.va true with
      | .error t => if t.cause = causeMachineCheck then .error (.check t) else .error (.engine 2)
      | .ok x => if (layerCheck x ty q.va).isSome then .error (.engine 2) else .ok (l ++ [(storeKey x q.va, q)]))) (.ok [])

/-- The number of a packet with SEQ as its home sees it applied (R160). -/
def noteSeq (p : Pkg) (home src : Nat) (s : BitVec 32) : Pkg :=
  updCore p home (fun c =>
    let w := mapGet ((-1 : BitVec 32), (BitVec.allOnes 64)) c.windows src
    let up := s - w.1
    if 0 < up.toNat ∧ up.toNat < 2 ^ 31 then
      { c with windows := mapInsert c.windows src (s, (w.2 <<< up.toNat) ||| 1) }
    else c)

/-- Writes one unit where the destination lies (R213, R215); what goes to a package that no port reaches is refused (R361). -/
def cpyWrite (now c : Nat) (x : Copy) (st : CopySt) (el : CpyEl) (v : Nat) : Except CopyFail CopySt :=
  let ty := layType x.d
  let a := (elemAddr x.d el.dst).toNat
  let n := tySize ty
  let opr := if 3 ≤ x.xf then x.xf - 2 else 0
  if laySpace x.d = 0 then
    match (if 2 ^ 57 ≤ a ∨ elemAddr x.d el.dst < 0 then .error (.engine 2) else writePieces st.p now c x.asid ty a n v) with
    | .error e => .error e
    | .ok l => .ok { st with recs := l.foldl (fun acc q => addRecPiece (decide (opr ≠ 0)) q.1 q.2 acc) st.recs }
  else match scrHome st.p c x.d with
    | some h =>
      if copyMay st.p x x.d c = false then .error (.engine 3)
      else
        let k := partOf st.p h
        if opr ≠ 0 ∧ (scrBad k a n).isSome then scrBytesFor st.p c x.d h a n |>.map (fun _ => st)
        else
          let w := if opr = 0 then v else (foldElem opr ty (scrNat k a n) v).1
          let p1 := setPart st.p h (scrWrite k now a (leBytes n w))
          if x.sequenced ∧ laySpace x.d = 2 then
            let sq := (coreOf p1 c).redSeq
            .ok { st with p := updCore (noteSeq p1 h c sq) c (fun co => { co with redSeq := sq + 1 }) }
          else .ok { st with p := p1 }
    | none =>
      let val := BitVec.ofNat 64 v
      if reachable st.p (homeOfEntry x.d).1 = false then .error (.engine 3)
      else if opr = 0 then .ok { st with out := st.out ++ [.store a n val x.uid] }
      else
        let sq := (coreOf st.p c).redSeq
        let p1 := if x.sequenced then updCore st.p c (fun co => { co with redSeq := sq + 1 }) else st.p
        .ok { st with p := p1, out := st.out ++ [.reduce [(a, val)] ty opr (if x.sequenced then some sq else none) x.uid] }

/-- The units in box order up to the first that fails (R213, R217). -/
def cpyRun (now c : Nat) (x : Copy) : List (List CpyEl) → CopySt → CopySt × Option CopyFail
  | [], st => (st, none)
  | u :: rest, st =>
    match cpyUnit st.p now c x u, u with
    | .error e, _ => (st, some e)
    | .ok _, [] => cpyRun now c x rest st
    | .ok (v, fl), el :: _ => (match cpyWrite now c x st el v with
      | .error e => (st, some e)
      | .ok st1 => cpyRun now c x rest { st1 with fl := st1.fl ||| fl, done := st1.done + 1 })

/-- The record of a copy (R138, R213): no text offset, X clear. -/
def cpyRec (p : Pkg) (now c : Nat) (x : Copy) (seq : BitVec 32) (q : Piece) : Rec :=
  { opr := if 3 ≤ x.xf then x.xf - 2 else 0, ty := layType x.d, x := false, mask := q.mask, payload := q.payload,
    asid := x.asid, core := c, slot := x.slot, team := x.team % 256, iov := false, ioff := 0, seq := seq, pkg := p.regs.pkgnum,
    since := now, quiet := false, frozen := false, deferred := false, posters := [c], bad := false }

/-- The records of a copy, numbered as postings of its core. -/
def cpyRecs (p : Pkg) (now c : Nat) (x : Copy) (l : List (Nat × Piece)) : List (Nat × Rec) :=
  (l.zipIdx).map (fun y => (y.1.1, cpyRec p now c x ((coreOf p c).postSeq + BitVec.ofNat 32 y.2) y.1.2))

/-- Writes waiting records: to M0 by the interface, by a streamer at its level after the key push (R215). -/
def cpyPost (p : Pkg) (now c : Nat) (x : Copy) (recs : List (Nat × Rec)) : Pkg × List (Nat × Rec) :=
  if recs = [] then (p, [])
  else if streamed x then
    let (p1, ok) := pushKeys p now c x.sc (dedupNat (recs.map (·.1)))
    if ok then insertRecs p1 now c x.sc recs else (p1, recs)
  else postRecs p now c 496 recs

def copyOf (k : Part) (ch ident : Nat) : Option Copy :=
  k.copies.find? (fun x => decide (x.ch = ch) && decide (x.ident = ident))

def setCopy (p : Pkg) (c : Nat) (x : Copy) : Pkg :=
  updPart p c (fun k => { k with copies := k.copies.map (fun y => if y.ch = x.ch ∧ y.ident = x.ident then x else y) })

/-- Evaluates the waits of CPYW on a core (R219, R260). -/
def latchCopies (k : Part) (now : Nat) : Part := latchWaits k now (fun w => match w with
  | .copies _ _ => true
  | _ => false)

/-- A copy is complete for its channel, its flags join its slot's, and it counts in its object (R214, R218, R223). -/
def finishCopy (p : Pkg) (now c : Nat) (x : Copy) (failed : Bool) : Pkg :=
  let p1 := updPart p c (fun k =>
    let k1 := { k with copies := k.copies.filter (fun y => !(decide (y.ch = x.ch) && decide (y.ident = x.ident))) }
    latchCopies (orFlagsOf k1 x.slot x.ctx x.fl) now)
  countCopy p1 now c x failed

/-- %TINFO of an ENGINE_FAULT of a copy (R313). -/
def copyInfo (x : Copy) : Word := BitVec.ofNat 64 (x.ident % 2 ^ 48 + x.ch * 2 ^ 48)

/-- Homes of this package that the copy reaches remotely. -/
def copyHomes (p : Pkg) (c : Nat) (x : Copy) : List Nat :=
  ([x.src, x.d].filter (fun e => decide (laySpace e = 2))).filterMap (scrHome p c)

/-- The earlier loads and stores of the issuing context that ACQ waits for are done (R174). -/
def acqReady (k : Part) (x : Copy) : Bool :=
  let s := slotOf k x.slot
  (!(decide (s.ctx = x.ctx)) || decide (s.loads = [])) &&
    !k.journal.any (fun e => decide (e.2.ctx = x.ctx) && jAwaits e.2 && decide (e.2.kind = 0))

/-- The granules of the lines that hold some addresses. -/
def lineGranules (addrs : List Int) (size : Nat) : List Int :=
  (firstAddrs addrs size).flatMap (fun a => (List.range 4).map (fun (i : Nat) => a / 128 * 128 + 32 * (i : Int)))

/-- The keys of every granule of the lines that a copy reads: of its elements, of their scales and of the scales it quantises under
(R174). -/
def acqKeys (p : Pkg) (now c : Nat) (x : Copy) (els : List CpyEl) : List Nat :=
  let src := els.filterMap (fun el => el.src)
  let from' : List Int := if laySpace x.src ≠ 0 then []
    else lineGranules (src.map (elemAddr x.src)) (tySize (layType x.src)) ++
      (if layType x.src = tyL8 then lineGranules (src.map (l8ScaleAddr x.src)) 2 else [])
  let scales : List Int := if laySpace x.d = 0 ∧ layType x.d = tyL8 then lineGranules (els.map (fun el => l8ScaleAddr x.d el.dst)) 2 else []
  dedupNat ((from' ++ scales).flatMap (fun (g : Int) =>
    if g < 0 then [] else match engineXl p now c x.asid g.toNat false with
    | .ok t => probeKeys t g.toNat
    | .error _ => []))

/-- A copy may perform units: its byte addition has been accepted (R223), its turn among the scratchpad accesses has
come (R220), no message of its core to a home it reaches is still kept, on the way or before that home's errand slot (R157, R171), the reads it needs
are in, its packet numbers may issue (R160), and ACQ is met. -/
def copyMayRun (p : Pkg) (c : Nat) (x : Copy) (count : Nat) : Bool :=
  let k := partOf p c
  (!x.ben || decide (x.added = 1)) && engineMay k x.board &&
    !p.net.any (fun m => decide (m.src = c) && (copyHomes p c x).contains m.dst) &&
    !p.parked.any (fun m => decide (m.src = c) && (copyHomes p c x).contains m.dst) &&
    (copyHomes p c x).all (fun h => !behindErrand p h ⟨p.regs.pkgnum, c, x.asid⟩) && (decide (x.left = 0) || decide (0 < x.pos)) &&
    (!(x.sequenced && decide (laySpace x.d = 2)) || seqMayIssue k ((coreOf p c).redSeq + BitVec.ofNat 32 (count - 1))) &&
    (!x.acq || x.begun || acqReady k x)

/-- A home that the copy reaches is not ready (R297). -/
def copyNotReady (p : Pkg) (c : Nat) (x : Copy) : Bool := (copyHomes p c x).any (fun h => !homeReady p h)

/-- Performs at most `limit` units of a copy in box order, as far as they go: the state, the copy with what is left to do (R213, R221). -/
def performCopy (p : Pkg) (now c : Nat) (x : Copy) (limit : Nat) : Pkg × Copy × Option CopyFail :=
  let els := cpyEls x.d x.src x.od x.os x.xf
  let (st, e) := cpyRun now c x (((cpyUnits x.d els).drop x.pos).take limit) ⟨p, [], [], 0, x.fl⟩
  let recs := cpyRecs st.p now c x st.recs
  let pkg := (homeOfEntry x.d).1
  let dst := (homeOfEntry x.d).2
  let p1 := st.out.foldl (fun q m => sendPkg q c pkg dst x.asid m) st.p
  let p2 := updCore p1 c (fun co => { co with postSeq := co.postSeq + BitVec.ofNat 32 recs.length })
  ({ p2 with freeNo := p2.freeNo + 1 },
    { x with todo := x.todo ++ recs, fl := st.fl, left := x.left + st.out.length, pos := x.pos + st.done }, e)

/-- The granules of global memory that a copy has read for its units from `from'` on (R334). -/
def copyReads (x : Copy) (from' : Nat) : List Nat :=
  if laySpace x.src ≠ 0 then []
  else
    let els := (((cpyUnits x.d (cpyEls x.d x.src x.od x.os x.xf)).take x.pos).drop from').flatMap id
    (granulesOf ((els.filterMap (fun el => el.src)).map (elemAddr x.src)) (tySize (layType x.src))).map Int.toNat

/-- The messages by which a copy reads or writes another core's scratchpad, for its units from `from'` on: each home receives the request, its
core the answer (R215, R334). -/
def logCopy (p : Pkg) (now c : Nat) (x : Copy) (from' : Nat) : Pkg :=
  let els := fun (_ : Unit) => (((cpyUnits x.d (cpyEls x.d x.src x.od x.os x.xf)).take x.pos).drop from').flatMap id
  let far := fun (e : Bits512) => if laySpace e = 2 then (scrHome p c e).filter (fun h => decide (h ≠ c)) else none
  let said := fun (kind h : Nat) (q : Pkg) (a : Int) =>
    logReceive (logReceive q now h (BitVec.ofNat 22 (c * 1024 + p.regs.pkgnum)) [kind, a.toNat]) now c
      (BitVec.ofNat 22 (h * 1024 + p.regs.pkgnum)) [kind + 1, a.toNat]
  let p1 := match far x.src with
    | some h => ((els ()).filterMap (fun el => el.src.map (elemAddr x.src))).foldl (said 24 h) p
    | none => p
  match far x.d with
  | some h => ((els ()).map (fun el => elemAddr x.d el.dst)).foldl (said 26 h) p1
  | none => p1

/-- Two units that follow each other share a word of a scratchpad, so that no step of the copy ends between them (R158, R241). -/
def unitsShareWord (x : Copy) (u v : List CpyEl) : Bool :=
  let words := fun (e : Bits512) (as : List Int) => if laySpace e = 0 then []
    else as.flatMap (fun a => [a.toNat / 8, (a.toNat + tySize (layType e) - 1) / 8])
  let meet := fun (a b : List Nat) => a.any b.contains
  let dst := fun (u : List CpyEl) => words x.d (u.map (fun el => elemAddr x.d el.dst))
  let src := fun (u : List CpyEl) => words x.src (u.filterMap (fun el => el.src.map (elemAddr x.src)))
  meet (dst u) (dst v) || meet (src u) (src v)

/-- The units that a copy performs when it is to stop after `n`: no more, and no word is left half done (R158, R241). -/
def copyStop (x : Copy) (n : Nat) : Nat :=
  let us := (cpyUnits x.d (cpyEls x.d x.src x.od x.os x.xf)).drop x.pos
  ((List.range (min n us.length + 1)).reverse.find? (fun m =>
    decide (m = 0) || decide (us.length ≤ m) || !unitsShareWord x (us.getD (m - 1) []) (us.getD m []))).getD 0

/-- Units of the box that are not performed yet. -/
def copyRest (x : Copy) : Nat := (cpyUnits x.d (cpyEls x.d x.src x.od x.os x.xf)).length - x.pos

/-- REL of a copy (R174). -/
def copyRelease (p : Pkg) (now c : Nat) (x : Copy) : Pkg × Bool :=
  if x.rel then releasePush p now c x.sc else (p, true)

/-- Raises the failure of a copy: an ENGINE_FAULT to its team, or a MACHINE_CHECK in the slot that issued it, for which it may have to
wait (R217). -/
def raiseCopy (p : Pkg) (now c : Nat) (x : Copy) (t : Trap) : Option Pkg :=
  if t.cause = causeMachineCheck then raiseInSlot p now c x.slot x.ctx x.asid x.ioff t
  else some (raiseEngine p now c x.asid x.team t)

/-- What is left of a copy whose units are performed, as far as they will be: its records, the answers of its messages, its release or
its failure; then it completes. -/
def continueCopy (p : Pkg) (now c : Nat) (x : Copy) : Pkg :=
  let (p1, left) := cpyPost p now c x x.todo
  let x1 := { x with todo := left }
  if left ≠ [] ∨ x.left ≠ 0 then setCopy p1 c x1
  else match x.fail with
    | some t => (match raiseCopy p1 now c x t with
      | none => setCopy p1 c x1
      | some q => if (copyOf (partOf q c) x.ch x.ident).isSome then finishCopy q now c x1 true else q)
    | none =>
      let (p2, ok) := copyRelease p1 now c x
      if ok then finishCopy p2 now c x1 false else setCopy p2 c x1

/-- The failure of a copy at its first bad unit: the units before it stand (R217). -/
def failCopy (p : Pkg) (now c : Nat) (x : Copy) (e : CopyFail) : Pkg :=
  let t := match e with
    | .engine sub => engineTrap sub x.ioff (copyInfo x)
    | .check t => t
    | .refused _ _ => engineTrap 3 x.ioff (copyInfo x)
  let p := match e with
    | .refused h off => logDetected p now (coreSource h) 2 off
    | _ => p
  let x1 := { x with fail := some t }
  continueCopy (setCopy p c x1) now c x1

/-- The refusal of a part of a copy (R217, R223, R297). -/
def copyRefused (p : Pkg) (now c : Nat) (x : Copy) : Bool :=
  x.refused || (x.ben && decide (x.added = 2)) ||
    (copyNotReady p c x && (match x.first with
      | some t => decide (t + 1000000 ≤ now)
      | none => false))

/-- A copy posts what it has written and performs at most `limit` units more; a home that was not ready is asked again after 1,000 ticks
(R297). After a gang switch has stopped the core it performs none (R221). The state, the copy, and the failure it has met. -/
def copyWork (p : Pkg) (now c : Nat) (x : Copy) (limit : Nat) : Pkg × Copy × Option CopyFail :=
  let (p1, left) := cpyPost p now c x x.todo
  let x1 := { x with todo := left }
  let p2 := setCopy p1 c x1
  let count := min limit (copyRest x)
  if left ≠ [] ∨ count = 0 ∨ (coreOf p c).switching = true then (p2, x1, none)
  else if (match x.first with
    | some _ => decide (now < x.last + 1000)
    | none => false) then (p2, x1, none)
  else if copyNotReady p2 c x1 then
    let x2 := { x1 with first := some (x1.first.getD now), last := now }
    (setCopy p2 c x2, x2, none)
  else if copyMayRun p2 c x1 count = false then (p2, x1, none)
  else if p.retained ≠ [] ∧ (acqKeys p2 now c x1 (cpyEls x.d x.src x.od x.os x.xf)).any (readWaits p2 now c 0) = true then (p2, x1, none)
  else
    let els := cpyEls x.d x.src x.od x.os x.xf
    let (p3, ok) := if x.acq && !x.begun then pushKeys p2 now c x.sc (acqKeys p2 now c x1 els) else (p2, true)
    if ok = false then (p3, x1, none)
    else
      let (q, x2, e) := performCopy p3 now c { x1 with begun := true, first := none } limit
      let (q1, l) := cpyPost (logCopy (logReads q now c 18 (copyReads x2 x.pos)) now c x2 x.pos) now c x2 x2.todo
      let x3 := { x2 with todo := l }
      (setCopy q1 c x3, x3, e)

/-- One event of a copy; `wantFail` is COPY_FAULT. A copy that is not due, or that comes to the other end, is left. -/
def copyEvent (p : Pkg) (now c ch ident : Nat) (wantFail : Bool) : Pkg :=
  match copyOf (partOf p c) ch ident with
  | none => p
  | some x =>
    if (coreOf p c).fenced.isSome then p
    else if x.fail.isSome then (if wantFail then continueCopy p now c x else p)
    else if copyRefused p now c x then
      if wantFail then failCopy p now c { x with ben := x.ben && decide (x.added ≠ 2), left := 0 } (.engine 3) else p
    else match copyWork p now c x (copyRest x) with
      | (q, x1, none) => if wantFail then p
        else if copyRest x1 = 0 ∧ (x1.begun = true ∨ copyMayRun q c x1 0 = true) ∧ (coreOf q c).switching = false
          then continueCopy q now c x1 else q
      | (q, x1, some e) => if wantFail then failCopy q now c x1 e else q

/-- A copy performs some units of its box, in whole words of scratchpad (R158, R213); it comes to no end by that. -/
def copyMove (p : Pkg) (now c ch ident n : Nat) : Pkg :=
  match copyOf (partOf p c) ch ident with
  | none => p
  | some x =>
    if (coreOf p c).fenced.isSome ∨ x.fail.isSome ∨ copyRefused p now c x = true then p
    else (copyWork p now c x (copyStop x n)).1

def execCopyComplete (core ch ident : Nat) (s : State) : Host.Outcome State Fault Refusal :=
  eventStep (fun cx p => copyEvent p cx.now core ch ident false) s

def execCopyFault (core ch ident : Nat) (s : State) : Host.Outcome State Fault Refusal :=
  eventStep (fun cx p => copyEvent p cx.now core ch ident true) s

end Sys2Proof.Machine
end

