-- ==== Sys2Proof/Machine/MatrixUnit.lean ====
section
/-!
DEFINITION. The matrix unit: the checks of a command (R109 to R112, R116), the operands of a K step (R114), the sum order
(R73 to R75), and a command from its progress to its end or its failure (R115, R120).
-/
namespace Sys2Proof.Machine

/-- The K step of a pair of operand types; none for a type-combination fault (R110). -/
def kstepOf (ta tb : Nat) : Option Nat :=
  let fp8 := fun (t : Nat) => decide (t = 11) || decide (t = 12)
  let h16 := fun (t : Nat) => decide (t = 9) || decide (t = 10)
  let four := fun (t : Nat) => decide (t = tyL8) || decide (t = tyF4X)
  if ta = 1 ∧ tb = 1 then some 16
  else if (fp8 ta || h16 ta) && (fp8 tb || h16 tb) then some 16
  else if (fp8 ta && four tb) || (four ta && fp8 tb) || (decide (ta = tyF4X) && decide (tb = tyF4X)) then some 32
  else none

/-- The coordinates of an operand element in row (or column) `row` at step index `kk`, relative to the cursor, as they stand in a trap
record (R109, R313). -/
def matCoords (tf : Bool) (row kk : Nat) : Word :=
  let k := kk % 65536
  if tf then BitVec.ofNat 64 (row + k * 65536) else BitVec.ofNat 64 (k + row * 65536)

/-- The index of that element (R109, R135). -/
def matIndex (e : Bits512) (tf : Bool) (row kk : Nat) : List Int :=
  let move := fun (d : Nat) => if d = 0 then (if tf then row else kk) else if d = 1 then (if tf then kk else row) else 0
  (List.range 4).map (fun d => if d < layRank e then layCur e d + (move d : Int) else 0)

/-- K of a layout operand (R109). -/
def matK (e : Bits512) (tf : Bool) : Int :=
  let d := if tf then 1 else 0
  (layExt e d : Int) - layCur e d

/-- LAYOUT_BOUNDS for a condition that names no element and no one entry (R109, R112, R116; log 16). -/
def pairTrap (cx : Cx) (sub : Nat) : Trap := { bareTrap causeBounds cx with sub := sub }

/-- The entry of an operand and the checks of R109 and R111 on it. -/
def matEntry (k : Part) (asid n : Nat) (tf : Bool) : Except Trap Bits512 :=
  match entryOf k asid n 0 [0, 1] with
  | .error t => .error t
  | .ok e =>
    let u := if layType e = tyL8 then 8 else 32
    if layRank e < 2 ∨ matK e tf < 1 then .error (boundsTrap 1 0 n)
    else if (layType e = tyL8 ∨ layType e = tyF4X) ∧ (tf = true ∨ layCur e 0 % u ≠ 0) then .error (boundsTrap 4 0 n)
    else .ok e

/-- The edge rule, alignment and offsets of the elements at one step index (R109, R136, R137). -/
def checkMatRows (e : Bits512) (n : Nat) (tf : Bool) (kk : Nat) : List Nat → Except Trap Unit
  | [] => .ok ()
  | row :: rest =>
    let w := matCoords tf row kk
    match readAt e (matIndex e tf row kk) with
    | .zero => checkMatRows e n tf kk rest
    | .bounds => .error (boundsTrap 1 w n)
    | .at j => (match checkAddr e w n 0 j with
      | .error t => .error t
      | .ok _ =>
        if layType e = tyL8 ∧ laySpace e ≠ 0 ∧ scrFits 2 (l8ScaleAddr e j) = false then .error (boundsTrap 7 w n)
        else checkMatRows e n tf kk rest)

def checkMatSteps (e : Bits512) (n : Nat) (tf : Bool) : List Nat → Except Trap Unit
  | [] => .ok ()
  | kk :: rest =>
    match checkMatRows e n tf kk (List.range 32) with
    | .error t => .error t
    | .ok _ => checkMatSteps e n tf rest

/-- An operand as the instruction names it: a layout entry with its number, or a ring with its type, wait count, offset and
view. -/
inductive MatArg where
  | lay (n : Nat) (e : Bits512)
  | ring (ty wait off : Nat) (v : RingView)
  deriving DecidableEq, Repr, Inhabited

def argTy : MatArg → Nat
  | .lay _ e => layType e
  | .ring ty _ _ _ => ty

/-- The operand at A or B of MMA (R112): `shift` is the place of its type in %MMRING. -/
def matArg (k : Part) (cx : Cx) (asid shift : Nat) (tf : Bool) (o : Opd) : Except Trap MatArg :=
  match o with
  | .lay n => (match matEntry k asid n.toNat tf with
    | .error t => .error t
    | .ok e => .ok (.lay n.toNat e))
  | .qc q w off =>
    let ty := fld (slotOf k cx.slot).mmring shift 4
    (match ringView k cx.slot q.toNat with
    | none => .error (bareTrap causeOperand cx)
    | some v => if [1, 9, 10, 11, 12].contains ty then .ok (.ring ty w.toNat off.toNat v) else .error (pairTrap cx 4))
  | _ => .error (bareTrap causeOperand cx)

/-- Ring registers of one K step (R112). -/
def ringGroup (kstep ty : Nat) : Nat := kstep * tySize ty / 4

/-- The captured form of an operand: its entry, or its ring registers (R112, R113). -/
def captureArg (k : Part) (kstep steps : Nat) : MatArg → MatSrc
  | .lay _ e => .layout e
  | .ring ty _ off v => .ring ty ((List.range (ringGroup kstep ty * steps)).map (fun i =>
      vregAt k (ringReg k v (v.c + off + i))))

/-- The last slot read lies below the wait count (R112). -/
def ringCovered (kstep steps : Nat) : MatArg → Bool
  | .lay _ _ => true
  | .ring ty w off _ => decide (off + ringGroup kstep ty * steps - 1 < w)

/-- K of a command (R109, R112): of its layouts, which must agree, or one step. -/
def matDepth (tfa tfb : Bool) (kstep : Nat) : MatArg → MatArg → Option Nat
  | .lay _ a, .lay _ b => if matK a tfa = matK b tfb then some (matK a tfa).toNat else none
  | .lay _ a, .ring _ _ _ _ => some (matK a tfa).toNat
  | .ring _ _ _ _, .lay _ b => some (matK b tfb).toNat
  | .ring _ _ _ _, .ring _ _ _ _ => some kstep

def checkMatArg (tf : Bool) (depth : Nat) : MatArg → Except Trap Unit
  | .lay n e => checkMatSteps e n tf (List.range depth)
  | .ring _ _ _ _ => .ok ()

/-- The scratchpad ranges of an operand (R114). -/
def matSpans (tf : Bool) (depth : Nat) : MatArg → List Span
  | .lay _ e => boxSpans e (matIndex e tf 0 0) (matIndex e tf 31 (depth - 1))
  | .ring _ _ _ _ => []

/-- A command that has passed R109 to R112: operands, K, K step and ranges read. -/
structure MatReady where
  a : MatSrc
  b : MatSrc
  depth : Nat
  kstep : Nat
  reads : List Span
  deriving DecidableEq, Repr, Inhabited

/-- The checks of R109 to R112 on two operands. -/
def matCheck (k : Part) (cx : Cx) (tfa tfb : Bool) (a b : MatArg) : Except Trap MatReady :=
  match kstepOf (argTy a) (argTy b) with
  | none => .error (pairTrap cx 4)
  | some ks =>
    match matDepth tfa tfb ks a b with
    | none => .error (pairTrap cx 1)
    | some depth =>
      let steps := ceilDiv depth ks
      if ringCovered ks steps a = false ∨ ringCovered ks steps b = false then .error (bareTrap causeOperand cx)
      else match checkMatArg tfa depth a with
        | .error t => .error t
        | .ok _ => (match checkMatArg tfb depth b with
          | .error t => .error t
          | .ok _ => .ok ⟨captureArg k ks steps a, captureArg k ks steps b, depth, ks,
              matSpans tfa depth a ++ matSpans tfb depth b⟩)

/-- The entries of a skip list that a command of some steps reads (R116). -/
def neededSkips : List Nat → Nat → List Nat
  | [], _ => []
  | e :: rest, left => if left = 0 then [] else e :: neededSkips rest (left - e % 32768)

/-- A step is skipped by a list (R116). -/
def skipAt : List Nat → Nat → Bool
  | [], _ => false
  | e :: rest, st => if st < e % 32768 then decide (e < 32768) else skipAt rest (st - e % 32768)

/-- A type code of a captured operand. -/
def srcTy : MatSrc → Nat
  | .layout e => layType e
  | .ring ty _ => ty

/-- A raw element of an 8- or 16-bit type as its exact value (R55, R57, R66, R67). -/
def typeVal (ty : Nat) (compat : Bool) (raw : Nat) : FV :=
  if ty = 1 then let i := asInt 8 raw; .fin (decide (i < 0)) i.natAbs 0
  else readF (fmtOfTy ty) (!compat) raw

/-- Reads a line of global memory for an operand in the CLU view (R114), with the layer check (R291). -/
def fetchLine (p : Pkg) (now c asid ty line : Nat) : Except Trap (BitVec 1024) :=
  let va := 128 * line
  match engineXl p now c asid va false with
  | .error t => .error t
  | .ok x =>
    match layerCheck x ty va with
    | some t => .error t
    | none =>
      match (List.range 4).findSome? (fun i => viewBad p now c 2 x (va + 32 * i)) with
      | some k => .error (memCheck (32 * keyGran k))
      | none => .ok (BitVec.ofNat 1024 (packNat 256 4 (fun i =>
          (viewGranule p now c 2 x (va + 32 * i) (BitVec.allOnes 32)).1.toNat)))

/-- Lines held by the tile fetch unit. -/
abbrev Lines := SMap (BitVec 1024)

/-- Adds the lines that some bytes need; the first that fails decides. A line below 0 stands for one at or above 2^57 (R137, R288). -/
def needLines (p : Pkg) (now c asid ty : Nat) : List Int → Lines → Except Trap Lines
  | [], m => .ok m
  | l :: rest, m =>
    if l < 0 then .error (xlTrap causeTranslation 1 (wrapInt 64 (128 * l)) 6)
    else match mapFind m l.toNat with
    | some _ => needLines p now c asid ty rest m
    | none => (match fetchLine p now c asid ty l.toNat with
      | .error t => .error t
      | .ok v => needLines p now c asid ty rest (mapInsert m l.toNat v))

/-- The lines that n bytes at some addresses touch, each once. -/
def linesOf (addrs : List Int) (n : Nat) : List Int :=
  (addrs.flatMap (fun a => [a / 128, (a + (n : Int) - 1) / 128])).foldl (fun l x => if l.contains x then l else l ++ [x]) []

/-- n bytes of an operand: from its lines, or from scratchpad, where a bad word is consumed (R326). -/
def matBytes (k : Part) (e : Bits512) (m : Lines) (a : Int) (n : Nat) : Except Trap Nat :=
  if laySpace e = 0 then
    .ok (leNat ((List.range n).map (fun j =>
      BitVec.ofNat 8 ((mapGet (0 : BitVec 1024) m ((a.toNat + j) / 128)).toNat >>> (8 * ((a.toNat + j) % 128))))))
  else match scrBad k a.toNat n with
    | some w => .error (scrCheck w)
    | none => .ok (scrNat k a.toNat n)

/-- The lines of the elements of a step, and those of their scales. -/
def stepLines (e : Bits512) (tf : Bool) (ks : List Nat) : List Int × List Int :=
  if laySpace e ≠ 0 then ([], [])
  else
    let idxs := ks.flatMap (fun kk => (List.range 32).filterMap (fun row =>
      match readAt e (matIndex e tf row kk) with
      | .at j => some j
      | _ => none))
    (linesOf (idxs.map (elemAddr e)) (tySize (layType e)),
      if layType e = tyL8 then linesOf (idxs.map (l8ScaleAddr e)) 2 else [])

/-- One element of a layout operand, exact (R62, R59, R111). -/
def layVal (k : Part) (e : Bits512) (m : Lines) (tf compat : Bool) (row kk : Nat) : Except Trap FV :=
  match readAt e (matIndex e tf row kk) with
  | .at j =>
    (match matBytes k e m (elemAddr e j) (tySize (layType e)) with
    | .error t => .error t
    | .ok raw =>
      let e0 := (j.getD 0 0).toNat
      if layType e = tyL8 then
        (match matBytes k e m (l8ScaleAddr e j) 2 with
        | .error t => .error t
        | .ok sc => if l8BadScale sc then .error scaleTrap else .ok (l8Elem raw (e0 % 8) (readScale (!compat) sc)))
      else if layType e = tyF4X then
        if f4xBadScale raw then .error scaleTrap else .ok (f4xElem raw (e0 % 32))
      else .ok (typeVal (layType e) compat raw))
  | _ => .ok (.fin false 0 0)

/-- One element of a ring operand: row contiguous in k order (R112). -/
def ringVal (kstep ty : Nat) (compat : Bool) (regs : List VReg) (row kk : Nat) : FV :=
  let g := ringGroup kstep ty
  let off := (row * kstep + kk % kstep) * tySize ty
  typeVal ty compat (elem (8 * tySize ty) (regs.getD (kk / kstep * g + off / 128) 0) (off % 128 / tySize ty))

def srcVal (k : Part) (kstep : Nat) (m : Lines) (tf compat : Bool) (src : MatSrc) (row kk : Nat) : Except Trap FV :=
  match src with
  | .layout e => layVal k e m tf compat row kk
  | .ring ty regs => .ok (ringVal kstep ty compat regs row kk)

/-- A list of results, or the first failure. -/
def allOk {α : Type} : List (Except Trap α) → Except Trap (List α)
  | [] => .ok []
  | .error t :: _ => .error t
  | .ok x :: rest => (match allOk rest with
    | .error t => .error t
    | .ok xs => .ok (x :: xs))

/-- The 32 rows (or columns) of an operand over the indices of a step. -/
def stepRows (k : Part) (kstep : Nat) (m : Lines) (tf compat : Bool) (src : MatSrc) (ks : List Nat) :
    Except Trap (List (List FV)) :=
  allOk ((List.range 32).map (fun row => allOk (ks.map (srcVal k kstep m tf compat src row))))

/-- special(prods) of R74: NaN products, and products of both infinite signs. -/
def prodBad (ps : List (FV × FV)) : Bool :=
  ps.any (fun x => fvIsNaN x.1 || fvIsNaN x.2 || fvIsSig x.1 || fvIsSig x.2 || (fvIsInf x.1 && fvIsZero x.2) ||
    (fvIsZero x.1 && fvIsInf x.2)) ||
  (let infs := ps.filter (fun x => fvIsInf x.1 || fvIsInf x.2)
   infs.any (fun x => fvNeg x.1 != fvNeg x.2) && infs.any (fun x => fvNeg x.1 == fvNeg x.2))

/-- Flags that a tile's flag word has (R72). -/
def tileMask (fl : Flags) : Flags := fl &&& (fNV ||| fOF ||| fUF ||| fNX)

/-- c + s into the accumulator (R73, R74). DESIGN CHOICE (log 61): where the accumulator holds a NaN already the step keeps its canonical
NaN, and the rounding flags of its sum still join the tile's; no flag comes of the addition. -/
def accumulate (c : Lane) (s : FV) (fl : Flags) : Lane × Flags :=
  if fvIsNaN (decodeF fmtF32 c.toNat) then (BitVec.ofNat 32 (fmtNaN fmtF32), fl)
  else
    let r := fvAdd fmtF32 .rn false (decodeF fmtF32 c.toNat) s
    (BitVec.ofNat 32 r.bits, fl ||| r.fl)

/-- One output element over one K step (R73, R74). -/
def macStep (c : Lane) (ps : List (FV × FV)) : Lane × Flags :=
  if prodBad ps then (BitVec.ofNat 32 (fmtNaN fmtF32), fNV)
  else match ps.find? (fun x => fvIsInf x.1 || fvIsInf x.2) with
    | some x => accumulate c (.inf (fvNeg x.1 != fvNeg x.2)) 0
    | none =>
      if ps.all (fun x => fvIsZero x.1 || fvIsZero x.2) then (c, 0)
      else
        let s := roundDy fmtF32 .rn false false false (dySum (ps.map (fun x => dyMul (dyOf x.1) (dyOf x.2))))
        accumulate c (decodeF fmtF32 s.bits) s.fl

/-- A whole K step on a tile's 1,024 elements, row by row. -/
def tileStep (tile : List Lane) (as bs : List (List FV)) : List Lane × Flags :=
  let rs := (as.zipIdx).flatMap (fun a => (bs.zipIdx).map (fun b =>
    macStep (tile.getD (32 * a.2 + b.2) 0) (a.1.zip b.1)))
  (rs.map (·.1), tileMask (rs.foldl (fun acc r => acc ||| r.2) 0))

def tileOf (k : Part) (t : Nat) : List Lane := (List.range 1024).map (fun i => mapGet 0 k.acc (t * 1024 + i))

/-- Writes a whole tile. -/
def setTile (k : Part) (t : Nat) (v : List Lane) : Part :=
  let mine := ((v.zipIdx).map (fun x => (t * 1024 + x.2, x.1))).filter (fun e => decide (e.2 ≠ 0))
  let acc := k.acc.filter (fun e => decide (e.1 < t * 1024)) ++ mine ++
    k.acc.filter (fun e => decide (t * 1024 + 1024 ≤ e.1))
  { k with acc := acc, badTiles := k.badTiles.filter (fun x => decide (x ≠ t)) }

/-- The K step of a command in the queue. -/
def cmdStep (x : MatCmd) : Nat := (kstepOf (srcTy x.a) (srcTy x.b)).getD 16
def cmdSteps (x : MatCmd) : Nat := ceilDiv x.k (cmdStep x)

/-- The indices of a step below K: elements beyond K are 0 and are not read (R73, R109). -/
def stepIndices (x : MatCmd) (st : Nat) : List Nat :=
  ((List.range (cmdStep x)).map (fun i => st * cmdStep x + i)).filter (fun i => decide (i < x.k))

/-- Fetches the lines of one operand in one step. -/
def srcLines (p : Pkg) (now c : Nat) (x : MatCmd) (src : MatSrc) (tf : Bool) (st : Nat) (m : Lines) : Except Trap Lines :=
  match src with
  | .ring _ _ => .ok m
  | .layout e =>
    let (ls, ss) := stepLines e tf (stepIndices x st)
    needLines p now c x.asid (layType e) (ls ++ ss) m

def cmdLines (p : Pkg) (now c : Nat) (x : MatCmd) (st : Nat) (m : Lines) : Except Trap Lines :=
  match srcLines p now c x x.a x.tfa st m with
  | .error t => .error t
  | .ok m1 => srcLines p now c x x.b x.tfb st m1

/-- Where a command stands: its tile, the flags so far, its completed steps, the lines held. -/
structure MatRun where
  tile : List Lane
  fl : Flags
  progress : Nat
  lines : Lines
  deriving DecidableEq, Repr, Inhabited

/-- One K step of a command, or what makes it fail (R115, R120). -/
def oneStep (p : Pkg) (now c : Nat) (x : MatCmd) (r : MatRun) : Except Trap MatRun :=
  if skipAt x.skips r.progress then .ok { r with progress := r.progress + 1 }
  else
    let k := partOf p c
    match cmdLines p now c x r.progress r.lines with
    | .error t => .error t
    | .ok m =>
      let ks := stepIndices x r.progress
      match stepRows k (cmdStep x) m x.tfa x.compat x.a ks, stepRows k (cmdStep x) m x.tfb x.compat x.b ks with
      | .ok as, .ok bs =>
        let (tile, fl) := tileStep r.tile as bs
        .ok ⟨tile, r.fl ||| fl, r.progress + 1, m⟩
      | .error t, _ => .error t
      | _, .error t => .error t

/-- Steps in increasing order, as many as are left, up to the first that fails. -/
def runSteps (p : Pkg) (now c : Nat) (x : MatCmd) : Nat → MatRun → MatRun × Option Trap
  | 0, r => (r, none)
  | n + 1, r =>
    match oneStep p now c x r with
    | .error t => (r, some t)
    | .ok r1 => runSteps p now c x n r1

/-- The lines of the next four steps, as far as they can be read (R114). -/
def pinLines (p : Pkg) (now c : Nat) (x : MatCmd) : Lines :=
  ((List.range (min 4 (cmdSteps x - x.progress))).map (· + x.progress)).foldl (fun m st =>
    if skipAt x.skips st then m else
    match cmdLines p now c x st m with
    | .ok m1 => m1
    | .error _ => m) x.lines

/-- A command from its progress on (R73, R113); a tile that holds an uncorrectable error fails it at once. -/
def runCommand (p : Pkg) (now c : Nat) (x : MatCmd) : MatRun × Option Trap :=
  let k := partOf p c
  let r : MatRun := ⟨tileOf k x.tile, 0, x.progress, x.lines⟩
  if k.badTiles.contains x.tile && decide (x.progress < cmdSteps x) then (r, some (tileCheck x.tile))
  else runSteps p now c x (cmdSteps x - x.progress) r

/-- A command that reads global memory waits while an array is in retention mode (R331; log 42). -/
def arrayWaits (p : Pkg) (x : MatCmd) : Bool :=
  let far := fun (o : MatSrc) => match o with
    | .layout e => decide (laySpace e = 0)
    | .ring _ _ => false
  decide (p.retained ≠ []) && (far x.a || far x.b)

/-- The lines that a command has read from global memory since it had others reach its core as replies (R334). -/
def logLines (p : Pkg) (now c : Nat) (old new : Lines) : Pkg :=
  logReads p now c 18 ((new.filter (fun e => (mapFind old e.1).isNone)).map (·.1))

/-- The command in progress performs some K steps, as far as none fails (R113, R115), and may read ahead (R114): its tile, its flags and
its progress stand at a K-step boundary. -/
def moveMatrix (p : Pkg) (now c n : Nat) (ahead : Bool) : Pkg :=
  let k := partOf p c
  match k.matq with
  | [] => p
  | x :: rest =>
    if x.running = false ∨ k.badTiles.contains x.tile = true ∨ (coreOf p c).fenced.isSome ∨ arrayWaits p x = true then p
    else
      let r := (runSteps p now c x (min n (cmdSteps x - x.progress)) ⟨tileOf k x.tile, 0, x.progress, x.lines⟩).1
      let x1 := { x with progress := r.progress, lines := r.lines }
      let x2 := if ahead then { x1 with lines := pinLines p now c x1 } else x1
      let k1 := setTile k x.tile r.tile
      logLines (setPart p c { k1 with
        tileFlags := mapPut 0 k1.tileFlags x.tile (tileFlagsOf k1 x.tile ||| r.fl), matq := x2 :: rest }) now c x.lines x2.lines

/-- The core with a command's tile and flags as far as it came, and the command gone (R72, R120). -/
def leaveQueue (k : Part) (x : MatCmd) (r : MatRun) : Part :=
  let bad := k.badTiles
  let k1 := setTile k x.tile r.tile
  { k1 with badTiles := bad, tileFlags := mapPut 0 k1.tileFlags x.tile (tileFlagsOf k1 x.tile ||| r.fl),
            matq := k1.matq.drop 1 }

/-- An accumulator instruction that issued earlier waits for a tile (R113). -/
def tileHeldBefore (k : Part) (t ord : Nat) : Bool :=
  k.accq.any (fun x => decide (x.tile = t) && decide (x.board.ord < ord)) ||
  k.slots.any (fun e => match e.2.hold with
    | .tile t' b => decide (t' = t) && decide (b.ord < ord)
    | _ => false)

/-- MATRIX_COMMAND_START (R113, R114): the next command starts, and may read up to four K steps ahead. -/
def startMatrix (p : Pkg) (cx : Cx) (c : Nat) : Pkg :=
  let k := partOf p c
  match k.matq with
  | [] => p
  | x :: rest =>
    if x.running || !engineMay k x.board || tileHeldBefore k x.tile x.board.ord || (coreOf p c).switching || arrayWaits p x then p
    else
      let x' := { x with running := true, lines := if cx.later then pinLines p cx.now c x else x.lines }
      logLines (setPart p c { k with matq := x' :: rest }) cx.now c x.lines x'.lines

def execMatrixCommandStart (core : Nat) (s : State) : Host.Outcome State Fault Refusal :=
  eventStep (fun cx p => startMatrix p cx core) s

/-- MATRIX_COMMAND_COMPLETE (R113): the last K step. -/
def completeMatrix (p : Pkg) (now c : Nat) : Pkg :=
  let k := partOf p c
  match k.matq with
  | [] => p
  | x :: _ =>
    if x.running = false ∨ arrayWaits p x = true then p
    else match runCommand p now c x with
      | (r, none) => logLines (setPart p c (leaveQueue k x r)) now c x.lines r.lines
      | (_, some _) => p

def execMatrixCommandComplete (core : Nat) (s : State) : Host.Outcome State Fault Refusal :=
  eventStep (fun cx p => completeMatrix p cx.now core) s

/-- %TINFO of an ENGINE_FAULT of the matrix unit (R313). -/
def matrixInfo (tile steps : Nat) : Word := BitVec.ofNat 64 (tile + steps % 2 ^ 32 * 65536)

/-- MATRIX_ENGINE_FAULT (R120): the tile keeps the steps before the failing one. -/
def failMatrix (p : Pkg) (now c : Nat) : Pkg :=
  let k := partOf p c
  match k.matq with
  | [] => p
  | x :: _ =>
    if x.running = false ∨ arrayWaits p x = true then p
    else match runCommand p now c x with
      | (_, none) => p
      | (r, some t) =>
        let p1 := setPart p c (leaveQueue k x r)
        if t.cause = causeMachineCheck then
          (match raiseInSlot p1 now x.core x.slot x.ctx x.asid x.ioff t with
          | some q => q
          | none => p)
        else raiseEngine p1 now c x.asid x.team
          (engineTrap (if t.cause = causeFp then 1 else 2) x.ioff (matrixInfo x.tile r.progress))

def execMatrixEngineFault (core : Nat) (s : State) : Host.Outcome State Fault Refusal :=
  eventStep (fun cx p => failMatrix p cx.now core) s

end Sys2Proof.Machine
end

