-- ==== Sys2Proof/Machine/Memory.lean ====
section
/-!
DEFINITION. The global memory group: loads (R191), stores (R193), fences (R194), ranges (R195, R196), MSYNC, DRAINST, PREF
(R197 to R199), regions (R200, R201), layout entries (R202), and the events that complete them.
-/
namespace Sys2Proof.Machine

/-- Asks for the walk of a missed address; the instruction has not passed its checks yet. -/
def missed (p : Pkg) (cx : Cx) (write : Bool) (o : XlOut) : Eff :=
  match o with
  | .miss va => .busy (askWalk p cx va write none)
  | .trap t => .trap t
  | .hit _ => .stay p

/-- ORDER and SCOPE of an access, MOD[8:7] and MOD[6:4] (R191, R193). -/
def ordOf (f : Fields) : Nat := fld f.md 7 2
def scopeOf (f : Fields) : Nat := fld f.md 4 3

/-- Writes what a load has read, under its guard, with the NV of its combining (R78, R188, R191). -/
def writeLoaded (p : Pkg) (cx : Cx) (f : Fields) (v : Loaded) (nv : Bool) : Pkg :=
  let p1 := match v with
    | .word w => updPart p cx.core (fun k => writeScalar k cx.slot w f.d)
    | .vec w => writeVec p cx.core cx.slot (guardMask (curSlot p cx) f) w f.d
  if nv then updPart p1 cx.core (fun k => orFlags k cx.slot fNV) else p1

/-- The register in which a load that is still outstanding will write; none for a mesh channel. -/
def loadDest (k : Part) (slot : Nat) (o : Opd) : Option Dest :=
  match o with
  | .s r => some (.sreg r.toNat)
  | .v r => some (.vreg (physReg k slot r.toNat))
  | .qp q _ off => (ringView k slot q.toNat).map (fun v => .vreg (ringReg k v (v.p + off.toNat)))
  | _ => none

/-- A weak load may leave its destination to a later reply: not one whose decoding can fail, since that trap is exact (R61, R189;
log 46). -/
def mayWait (e : Bits512) (vec : Bool) : Bool := !decide (layType e = tyF4X) && (vec || !decide (layType e = tyL8))

/-- A load that has passed its checks and translations (R191). A strong one that a gang switch finds in its push is issued again on resume
(R176, R275). -/
def doLoad (p : Pkg) (cx : Cx) (f : Fields) (w : Word) (l : Load) (scope : Nat) (strong : Bool) : Eff :=
  let k := partOf p cx.core
  let gs := accGranules l.e l.vec l.els
  let keys := probeAll l.xl gs
  let (p1, ok) := if strong then pushKeys p cx.now cx.core scope keys else (p, true)
  if strong && (coreOf p cx.core).switching then .stay p
  else if aliasBusy p cx keys || keys.any (readWaits p cx.now cx.core l.lvl) then .busy p
  else if ok = false ∨ (strong = true ∧ behindRegion p1 cx.core l.lvl keys = true) then .push (setCap p1 cx l.e l.xl) (.push scope false [])
  else
    match loadDest k cx.slot f.d with
    | some d =>
      if !strong && cx.later && mayWait l.e l.vec && (loadBad p cx.now cx.core l.lvl l.xl gs).isNone then
        .done (updCur p1 cx (fun s => { s with loads := s.loads ++
          [⟨l.e, w, l.vec, d, guardMask s f, l.long, l.xl, s.pc⟩] }))
      else (match performLoad p1 cx cx.core l with
        | .error t => .trap t
        | .ok (p2, v, nv) => .done (writeLoaded p2 cx f v nv))
    | none => (match performLoad p1 cx cx.core l with
      | .error t => .trap t
      | .ok (p2, v, nv) => .done (writeLoaded p2 cx f v nv))

/-- LD and LDV (R191). -/
def loadGlobal (vec : Bool) (f : Fields) (cx : Cx) (p : Pkg) : Eff :=
  let k := partOf p cx.core
  let s := slotOf k cx.slot
  let n := opdLay f.a
  let w := bScalar p cx.core s f.b
  match entryNow k s n w [0] with
  | .error t => .trap t
  | .ok e =>
    match accessEls cx e w n vec false (guardMask s f) with
    | .error t => .trap t
    | .ok els =>
      let gs := accGranules e vec els
      if granuleBusy k cx.slot gs then .busy p
      else match translateHeld p cx false (layType e) (accAddrs e vec els) with
        | .error o => missed p cx false o
        | .ok xs =>
          let strong := decide (ordOf f ≠ 0)
          doLoad p cx f w ⟨e, els, vec, xs, if strong then scopeLevel (scopeOf f) else 0, f.long, flushes s⟩ (scopeOf f) strong

/-- LD (R191). -/
def execLd (f : Fields) (s : State) : Host.Outcome State Fault Refusal := issue (.ld f) .lane0 (loadGlobal false) s

/-- LDV (R191). -/
def execLdv (f : Fields) (s : State) : Host.Outcome State Fault Refusal := issue (.ldv f) .lanes (loadGlobal true) s

/-- A store whose pieces are known. -/
structure Store where
  ord : Nat
  scope : Nat
  opr : Nat
  ty : Nat
  x : Bool
  pieces : List Piece
  deriving DecidableEq, Repr, Inhabited

def advanceSeq (p : Pkg) (cx : Cx) (n : Nat) : Pkg :=
  updCore p cx.core (fun c => { c with postSeq := c.postSeq + BitVec.ofNat 32 n })

/-- The records of a store, numbered (R138, R193). -/
def storeRecs (p : Pkg) (cx : Cx) (st : Store) (xs : List Xlat) : List (Nat × Rec) :=
  numberRecs (fun sq q => ownRec p cx st.opr st.ty st.x (curSlot p cx).pc sq q) (keyPieces xs st.pieces)
    (coreOf p cx.core).postSeq

/-- A weak store that hits: its records go to M0 (R141, R165). -/
def postStore (p : Pkg) (cx : Cx) (st : Store) (xs : List Xlat) (f : Fields) : Eff :=
  let recs := storeRecs p cx st xs
  continuePost (popSources (advanceSeq p cx recs.length) cx.core f) cx recs

/-- A weak store that misses takes a journal entry and asks for the walk (R190). -/
def journalStore (p : Pkg) (cx : Cx) (st : Store) (va : Nat) (f : Fields) : Eff :=
  let first := (st.pieces.head?.map (·.va)).getD va
  match journalise p cx 0 1 (first / 65536) (coreOf p cx.core).postSeq (fun _ => .store st.pieces st.opr st.ty st.x) with
  | none => .stay p
  | some (p1, uid) =>
    .done (popSources (askWalk (advanceSeq p1 cx st.pieces.length) cx va true (some uid)) cx.core f)

/-- When a strong access or a region comes to its instance: the tick; at M0 the cycle in which it issued (R173). -/
def cameAt (p : Pkg) (cx : Cx) (scope : Nat) : Nat := if scopeLevel scope = 0 then (coreOf p cx.core).cycle else cx.now

/-- The records of a strong store are inserted at level(S), or wait there (R151, R166, R172). -/
def insertStore (p : Pkg) (cx : Cx) (scope : Nat) (recs : List (Nat × Rec)) : Eff :=
  if behindRegion p cx.core (scopeLevel scope) (recs.map (·.1)) then .hold (setHold p cx (.strong scope (cameAt p cx scope) recs))
  else if scopeLevel scope = 0 then continuePost p cx recs
  else if cx.later then .hold (setHold p cx (.strong scope cx.now recs))
  else match insertRecs p cx.now cx.core scope recs with
    | (p1, []) => .done p1
    | (p1, left) => .hold (setHold p1 cx (.strong scope cx.now left))

/-- An STR, REL or AR store: the release first, the key push, the records (R166, R168). DESIGN CHOICE (log 67): the records take their
posting numbers when the pushes are done. -/
def strongStore (p : Pkg) (cx : Cx) (e : Bits512) (st : Store) (xs : List Xlat) (f : Fields) : Eff :=
  let (p1, ok) := if 2 ≤ st.ord then releaseAt p cx st.scope false else (p, true)
  if ok = false then .push (setCap p1 cx e xs) (.push st.scope true (storeRecs p cx st xs))
  else
    let recs := storeRecs p1 cx st xs
    let (p2, ok2) := pushKeys p1 cx.now cx.core st.scope (recs.map (·.1))
    if ok2 = false then .push (setCap p2 cx e xs) (.push st.scope (decide (2 ≤ st.ord)) recs)
    else insertStore (popSources (advanceSeq p2 cx recs.length) cx.core f) cx st.scope recs

/-- The address of the first byte that a piece covers. -/
def pieceAddr (q : Piece) : Int := (q.va + ((List.range 32).find? (fun i => bit q.mask i)).getD 0 : Nat)

/-- A store with its pieces (R193): nothing is posted where no element remains. -/
def storePiecesGo (p : Pkg) (cx : Cx) (e : Bits512) (st : Store) (f : Fields) : Eff :=
  let k := partOf p cx.core
  let vas := st.pieces.map (fun q => (q.va : Int))
  if st.pieces = [] then .done (popSources p cx.core f)
  else if granuleBusy k cx.slot vas then .busy p
  else match translateHeld p cx true st.ty (st.pieces.map pieceAddr) with
    | .ok xs => if aliasBusy p cx ((keyPieces xs st.pieces).map (·.1)) then .busy p
      else if st.ord = 0 then postStore p cx st xs f else strongStore p cx e st xs f
    | .error (.miss va) =>
      if st.ord = 0 && !(slotOf k cx.slot).handler then
        if aliasBusy p cx (st.pieces.flatMap (fun q => keysNow p cx.now cx.core q.va)) then .busy p else journalStore p cx st va f else .busy (askWalk p cx va true none)
    | .error o => missed p cx true o

/-- The address faults of a store's elements before translation: at or above 2^57 (R137). -/
def storeHigh (e : Bits512) (els : List El) : Option Trap :=
  ((elAddrs e els).find? (fun a => decide (a < 0) || decide ((2 : Int) ^ 57 ≤ a))).map
    (fun a => xlTrap causeTranslation 1 (wrapInt 64 a) 6)

/-- ST and STV (R193). -/
def storeGlobal (vec : Bool) (f : Fields) (cx : Cx) (p : Pkg) : Eff :=
  let k := partOf p cx.core
  let s := slotOf k cx.slot
  let n := opdLay f.d
  let w := opdScalar s f.a
  match entryNow k s n w [0] with
  | .error t => .trap t
  | .ok e =>
    match accessEls cx e w n vec true (guardMask s f) with
    | .error t => .trap t
    | .ok els =>
      let opr := fld f.md 1 3
      let ty := layType e
      if opTypeOk opr ty = false then .trap (boundsTrap 3 w n)
      else match storeHigh e els with
        | some t => .trap t
        | none =>
          let sz := tySize ty
          let v := if vec then (readB p cx.core cx.slot f).toNat else (bScalar p cx.core s f.b).toNat
          let keep := fun (i j : Nat) => !vec || bit (guardMask s f) ((i * sz + j) / 4)
          storePiecesGo p cx e ⟨ordOf f, scopeOf f, opr, ty, bit f.md 0,
            storePieces e els (fun i => v >>> (8 * sz * i)) keep⟩ f

/-- ST (R193). -/
def execSt (f : Fields) (s : State) : Host.Outcome State Fault Refusal := issue (.st f) .lane0 (storeGlobal false) s

/-- STV (R193). -/
def execStv (f : Fields) (s : State) : Host.Outcome State Fault Refusal := issue (.stv f) .lanes (storeGlobal true) s

/-- FENCE (R194, R168, R169): AR 0, ACQ 1, REL 2. A FENCE.REL may be passed before its release is done: what R170 orders behind it waits
for that, and loads do not (R181). -/
def fence (f : Fields) (cx : Cx) (p : Pkg) : Eff :=
  if ordOf f = 1 then
    if (curSlot p cx).loads = [] then .done p else .stay p
  else
    let (p1, ok) := releaseAt p cx (scopeOf f) true
    if ok then .done p1
    else if cx.later ∧ ordOf f = 2 then .done (updCur p1 cx (fun s => { s with rels := s.rels ++ [scopeOf f] }))
    else .push p1 (.push (scopeOf f) true [])

def execFence (f : Fields) (s : State) : Host.Outcome State Fault Refusal := issue (.fence f) .lane0 fence s

/-- The indices of dimension d that a range covers, within the extents. -/
def rangeDim (e : Bits512) (org cnt : Word) (d : Nat) : List Int :=
  if layRank e ≤ d then [0]
  else
    let lo : Int := max 0 (layCur e d + coord org d)
    let hi : Int := min (layExt e d) (layCur e d + coord org d + (fld cnt (16 * d) 16 : Nat))
    (List.range (hi - lo).toNat).map (fun (i : Nat) => lo + (i : Int))

/-- The elements of a range (R195): the box from the origin, without what lies outside the extents. -/
def rangeEls (e : Bits512) (org cnt : Word) : List (List Int) :=
  (rangeDim e org cnt 3).flatMap (fun x3 => (rangeDim e org cnt 2).flatMap (fun x2 =>
    (rangeDim e org cnt 1).flatMap (fun x1 => (rangeDim e org cnt 0).map (fun x0 => [x0, x1, x2, x3]))))

/-- Inserts an address in a rising list that holds one address of each granule, the lowest. -/
def insertAddr (x : Int) : List Int → List Int
  | [] => [x]
  | y :: rest => if x / 32 < y / 32 then x :: y :: rest else if x / 32 = y / 32 then min x y :: rest else y :: insertAddr x rest

/-- The granules of a range in increasing address, each by its first element, or ALIGN (R137, R189). -/
def rangeGranules (e : Bits512) (org cnt : Word) : Except Trap (List Int) :=
  let as := (rangeEls e org cnt).map (elemAddr e)
  match as.find? (fun a => !alignOk (layType e) a) with
  | some a => .error (alignTrap a)
  | none => .ok ((firstAddrs as (tySize (layType e))).foldl (fun acc a => insertAddr a acc) [])

/-- The granules before the first that does not translate, with their keys and translations; and what that one comes to (R195, R291). -/
def rangeKeys (p : Pkg) (cx : Cx) : List Int → List Nat × List Xlat × Option XlOut
  | [] => ([], [], none)
  | g :: rest =>
    match (match (capOf (curSlot p cx)).bind (fun c => xlFor c.2 g.toNat) with
      | some x => XlOut.hit x
      | none => translate p cx g false) with
    | .hit x => let (ks, xs, o) := rangeKeys p cx rest; (probeKeys x g.toNat ++ ks, (if xs.contains x then xs else x :: xs), o)
    | o => ([], [], some o)

/-- Ends a range instruction whose granules up to a fault are dealt with: the fault is taken once nothing is left to do
before it (R195). -/
def rangeEnd (p : Pkg) (cx : Cx) (quiet : Bool) : Option XlOut → Eff
  | none => .done p
  | some (.trap t) => if quiet then .trap t else .busy p
  | some o => missed p cx false o

/-- No record of some keys lies on the core's path inside a level. -/
def pathEmpty (p : Pkg) (c top : Nat) (keys : List Nat) : Bool :=
  keys.all (fun k => (List.range top).all (fun l => decide (chainOf (instOf p l (pathPlace c l (keyGran k))) k = [])))

/-- MPUSH (R195). -/
def mpush (f : Fields) (cx : Cx) (p : Pkg) : Eff :=
  let k := partOf p cx.core
  let s := slotOf k cx.slot
  let org := opdScalar s f.a
  match entryNow k s (opdLay f.d) org [0] with
  | .error t => .trap t
  | .ok e =>
    match rangeGranules e org (bScalar p cx.core s f.b) with
    | .error t => .trap t
    | .ok gs =>
      if journalWaits k cx.slot false then .push (setCap p cx e []) (.push (scopeOf f) false [])
      else if scopeLevel (scopeOf f) = 0 then .done p
      else
        let (keys, xs, o) := rangeKeys p cx gs
        let quiet := pathEmpty p cx.core (scopeLevel (scopeOf f)) keys
        let (p1, ok) := pushKeys p cx.now cx.core (scopeOf f) (dedupNat keys)
        if ok then rangeEnd p1 cx quiet o else .push (setCap p1 cx e xs) (.push (scopeOf f) false [])

def execMpush (f : Fields) (s : State) : Host.Outcome State Fault Refusal := issue (.mpush f) .lane0 mpush s

/-- Drops the floor copies of a line on a core's path inside and at a level (R196). -/
def dropCopies (p : Pkg) (c top k : Nat) : Pkg :=
  (List.range (min top 2 + 1)).foldl (fun q l =>
    let n := pathPlace c l (keyGran k)
    let i := instOf q l n
    setInst q l n { i with copies := mapErase i.copies (lineKey k) }) p

/-- MDROP (R196). -/
def mdrop (f : Fields) (cx : Cx) (p : Pkg) : Eff :=
  let k := partOf p cx.core
  let s := slotOf k cx.slot
  let org := opdScalar s f.a
  match entryFor k (opdLay f.d) org [0] with
  | .error t => .trap t
  | .ok e =>
    match rangeGranules e org (bScalar p cx.core s f.b) with
    | .error t => .trap t
    | .ok gs =>
      let (keys, _, o) := rangeKeys p cx gs
      let top := scopeLevel (scopeOf f)
      let quiet := keys.all (fun k => (List.range (min top 2 + 1)).all (fun l =>
        (mapFind (instOf p l (pathPlace cx.core l (keyGran k))).copies (lineKey k)).isNone))
      rangeEnd (keys.foldl (fun q k => dropCopies q cx.core top k) p) cx quiet o

def execMdrop (f : Fields) (s : State) : Host.Outcome State Fault Refusal := issue (.mdrop f) .lane0 mdrop s

/-- MSYNC (R197). -/
def execMsync (f : Fields) (s : State) : Host.Outcome State Fault Refusal :=
  issue (.msync f) .lane0 (fun _ cx p =>
    let i := instOf p 0 cx.core
    if i.merging && i.stall.isNone then .hold (setHold p cx .sync) else .done p) s

/-- DRAINST (R198). -/
def execDrainst (f : Fields) (s : State) : Host.Outcome State Fault Refusal :=
  issue (.drainst f) .lane0 (fun _ cx p =>
    let k := partOf p cx.core
    if k.journal.any (fun e => decide (e.2.ctx = (slotOf k cx.slot).ctx) && jAwaits e.2) then .stay p else .done p) s

/-- A translation without a trap: the TLB's, or a walk's (R199). -/
def quietXlat (p : Pkg) (cx : Cx) (va : Nat) : Option Xlat :=
  let co := coreOf p cx.core
  let user := !supOf co.part
  match tlbFind co.tlb (asidOf co.part) va with
  | some x => if (accessCheck x user false va).isSome then none else some x
  | none => (match walk p cx.now cx.core (asidOf co.part) va user false with
    | .ok x => some x
    | .error _ => none)

/-- PREF (R199). -/
def pref (f : Fields) (cx : Cx) (p : Pkg) : Eff :=
  let k := partOf p cx.core
  let w := bScalar p cx.core (slotOf k cx.slot) f.b
  match entryFor k (opdLay f.a) w [0] with
  | .error _ => .done p
  | .ok e =>
    let idx := elemIndex e w
    let a := elemAddr e idx
    if insideLay e idx = false ∨ alignOk (layType e) a = false ∨ a < 0 then .done p
    else match quietXlat p cx a.toNat with
      | none => .done p
      | some x => if (layerCheck x (layType e) a.toNat).isSome then .done p
        else
          let g : Int := (a.toNat / 32 * 32 : Nat)
          .done ((probeKeys x g.toNat).foldl (fun q key =>
            installCopies q { cx with install := 15 } cx.core 0 (scopeLevel (scopeOf f)) x.lease f.long key)
              (logReply p cx.now cx.core ⟨e, [], false, [x], 0, f.long, false⟩ [g]))

def execPref (f : Fields) (s : State) : Host.Outcome State Fault Refusal := issue (.pref f) .lane0 pref s

/-- The text offset after the next ARE, or the end of the text (R201). -/
def afterAre (text : List Byte) (pc : Nat) : Nat :=
  let hit := fun (q : Nat) =>
    decide ((wordOfBytes (text.drop (12 * q))).toNat / 2 ^ 87 = 0x0EA) && decide (12 * q + 12 ≤ text.length)
  match ((List.range (text.length / 12)).filter (fun q => decide (pc < 12 * q))).find? hit with
  | some q => 12 * q + 12
  | none => text.length

def textOf (p : Pkg) (c : Nat) : List Byte :=
  match teamOf (partOf p c) with
  | some t => (match imageOf p t with
    | some im => im.text
    | none => [])
  | none => []

/-- ARB (R200). -/
def arb (f : Fields) (cx : Cx) (p : Pkg) : Eff :=
  let k := partOf p cx.core
  let s := slotOf k cx.slot
  if guardLane0 s f = false then .jump p (afterAre (textOf p cx.core) s.pc)
  else
    let n := opdLay f.d
    let w := opdScalar s f.a
    match entryFor k n w [0] with
    | .error t => .trap t
    | .ok e =>
      let idx := elemIndex e w
      let a := elemAddr e idx
      if insideLay e idx = false then .trap (boundsTrap 1 (coordsAt w 0) n)
      else if alignOk (layType e) a = false then .trap (alignTrap a)
      else match translate p cx a false with
        | .hit x =>
          if x.ovl.isSome then
            .trap (xlTrap causeAttribute 1 a.toNat (if x.size = 2 ^ 30 then 3 else if x.size = 2 ^ 21 then 4 else 5))
          else .done (updCur p cx (fun s => { s with region := some ⟨s.pc, a.toNat / 128 * 128, scopeOf f, x, []⟩ }))
        | o => missed p cx false o

def execArb (f : Fields) (s : State) : Host.Outcome State Fault Refusal := issue (.arb f) .own arb s

/-- Scalar registers that a body reads or writes: ARE waits for the loads of them (R191, R201). -/
def bodyRegs (ops : List RegOp) : List Nat :=
  ops.flatMap (fun o => match o.i.word with
    | some (code, f) => usedScalars code f
    | none => [])

/-- A region that comes to its instance now, as it would wait there (R173). -/
def regionAt (p : Pkg) (cx : Cx) (s : Slot) (r : Region) : Option Shipped :=
  shippedOf cx.core cx.slot { s with hold := .region (cameAt p cx r.scope), region := some r }

/-- ARE (R201). -/
def are (f : Fields) (cx : Cx) (p : Pkg) : Eff :=
  let k := partOf p cx.core
  let s := slotOf k cx.slot
  match s.region with
  | none => if guardLane0 s f then .late (bareTrap causeIllegal cx) else .done p
  | some r =>
    if guardLane0 s f = false then .done (updCur p cx (fun s => { s with region := none }))
    else if s.loads.any (fun l => match l.dest with
        | .sreg n => (bodyRegs r.ops).contains n
        | .vreg _ => false) then .stay p
    else match scalarCheck s cx.slot (shippedRegs [] r.ops) with
    | some t => .late t
    | none =>
      let gs := (List.range 4).map (fun i => r.line + 32 * i)
      let keys := gs.map (floorKey r.xl)
      if granuleBusy k cx.slot (gs.map (fun (g : Nat) => (g : Int))) || aliasBusy p cx keys then .busy p
      else
        let (p1, ok) := pushKeys p cx.now cx.core r.scope keys
        if ok = false then .push p1 (.push r.scope false [])
        else if cx.later || (regionAt p1 cx s r).any (regionAhead p1) then
          .hold (setHold p1 cx (.region (cameAt p1 cx r.scope)))
        else match performRegion p1 cx s r with
          | .waits p2 => .hold (setHold p2 cx (.region (cameAt p2 cx r.scope)))
          | .traps t => .trap t
          | .performed p2 st => .done (updCur p2 cx (fun s => afterRegion s st))

def execAre (f : Fields) (s : State) : Host.Outcome State Fault Refusal := issue (.are f) .own are s

/-- LTSET (R202). -/
def execLtset (f : Fields) (s : State) : Host.Outcome State Fault Refusal :=
  issue (.ltset f) .lane0 (fun f cx p =>
    let e : Bits512 := (readA p cx.core cx.slot f).truncate 512
    .done (updPart (popSources p cx.core f) cx.core (fun k =>
      { k with layouts := mapInsert k.layouts (asidOf k * 64 + opdLay f.d) e }))) s

/-- LTGET (R202): an entry that is not valid reads as zero. -/
def execLtget (f : Fields) (s : State) : Host.Outcome State Fault Refusal :=
  issue (.ltget f) .lanes (fun f cx p =>
    let k := partOf p cx.core
    let e := (layoutOf k (asidOf k) (opdLay f.a)).getD 0
    .done (writeVec p cx.core cx.slot (guardMask (slotOf k cx.slot) f) (e.zeroExtend 1024) f.d)) s

/-- Completes the instruction at which a slot holds: the next pc, no hold. -/
def completeSlot (p : Pkg) (c n : Nat) : Pkg :=
  updPart p c (fun k => updSlot k n (fun s => { s with pc := s.pc + 12, hold := .none, cap := none, walkFault := none }))

/-- Writes a delayed load's result in its slot (R191). -/
def writeReply (k : Part) (slot : Nat) (l : OutLoad) (v : Loaded) (nv : Bool) : Part :=
  let k1 := match l.dest, v with
    | .sreg r, .word w => updSlot k slot (fun s => setSreg s r w)
    | .vreg r, .vec w => setVregAt k r (mergeLanes l.guard (vregAt k r) w)
    | _, _ => k
  if nv then orFlags k1 slot fNV else k1

/-- The trap of an outstanding load, at the load: taken where its slot has not issued what it stands at, or may abandon it (R310, R326,
R327). -/
def loadTrap (p : Pkg) (now c n i : Nat) (l : OutLoad) (t : Trap) : Pkg :=
  let s := slotOf (partOf p c) n
  if abandonable s.hold || decide (s.hold = .busy) then
    takeTrap (updPart (logCheck p now c t) c (fun k => updSlot k n (fun s =>
      { s with loads := s.loads.eraseIdx i, pc := l.pc, region := none }))) now c n t
  else p

/-- The translations of a load that is performed: those it was issued with, or, where it is issued again after a gang switch, those in
force now (R176, R290). -/
def replyXlats (p : Pkg) (now c : Nat) (l : OutLoad) : List Int → Except Trap (List Xlat)
  | [] => .ok l.xl
  | va :: rest =>
    let asid := asidOf (partOf p c)
    let user := !supOf (partOf p c)
    match (match xlFor l.xl va.toNat, tlbFind (coreOf p c).tlb asid va.toNat with
      | some x, _ => Except.ok x
      | none, some x => (match accessCheck x user false va.toNat with
        | some t => .error t
        | none => .ok x)
      | none, none => walk p now c asid va.toNat user false) with
    | .error t => .error t
    | .ok x => (match layerCheck x (layType l.entry) va.toNat with
      | some t => .error t
      | none => (match replyXlats p now c l rest with
        | .error t => .error t
        | .ok xs => .ok (if xs.contains x then xs else x :: xs)))

/-- A release of the slot that has issued waits for its loads: it is done before a gang switch saves the core, and they with it (R168,
R176). -/
def releaseWaits (s : Slot) : Bool :=
  decide (s.rels ≠ []) || (match s.hold with
    | .push _ rel _ => rel
    | _ => false)

/-- LOAD_REPLY (R191, R164): the probes are sampled and the destination is written. Uncorrectable data, and a key destroyed since the
load issued, are reported in the slot, at the load (R305, R326, R327). Once a gang switch has stopped the core, the load stays to be
issued again (R176, R275). -/
def loadReply (p : Pkg) (cx : Cx) (c n i : Nat) : Pkg :=
  let k := partOf p c
  let s := slotOf k n
  match s.loads[i]? with
  | none => p
  | some l =>
    let drop := fun (k : Part) => updSlot k n (fun s => { s with loads := s.loads.eraseIdx i })
    match accessEls cx l.entry l.coords 0 l.vec false l.guard with
    | .error _ => updPart p c drop
    | .ok els =>
      if (coreOf p c).switching && !releaseWaits s then p
      else match l.xl.find? (staleKey p) with
      | some x => loadTrap p cx.now c n i l (keyTrap x (((elAddrs l.entry els).head?.getD x.va).toNat))
      | none => (match replyXlats p cx.now c l (accAddrs l.entry l.vec els) with
        | .error t => loadTrap p cx.now c n i l t
        | .ok xs => if (probeAll xs (accGranules l.entry l.vec els)).any (readWaits p cx.now c 0) then p
          else (match performLoad p cx c ⟨l.entry, els, l.vec, xs, 0, l.long, flushes s⟩ with
          | .ok (p1, v, nv) => updPart p1 c (fun k => drop (writeReply k n l v nv))
          | .error t => loadTrap p cx.now c n i l t))

def execLoadReply (core slot idx : Nat) (s : State) : Host.Outcome State Fault Refusal :=
  eventStep (fun cx p => if (slotOf (partOf p core) slot).live then loadReply p cx core slot idx else p) s

/-- STRONG_STORE_PERFORMED (R166): records that reached their instance at a tick are performed as far as nothing defers them and no
region that had come before them waits (R172). -/
def strongDue (p : Pkg) (now c s since limit : Nat) (recs : List (Nat × Rec)) : Option (Pkg × List (Nat × Rec)) :=
  let lvl := scopeLevel s
  if recs.any (fun r => strongBehind p lvl (pathPlace c lvl (keyGran r.1)) (keyGran r.1 / 4) (some since)) then none
  else if lvl = 0 then some (postRecs p now c limit recs)
  else some (insertRecs p now c s recs)

/-- The orphan of a core and slot that still has an operation to be performed (R272). -/
def orphanOf (p : Pkg) (c n : Nat) : Option (Nat × Nat × Slot) :=
  p.orphans.find? (fun o => decide (o.1 = c) && decide (o.2.1 = n))

/-- An orphan store goes on: its hold is what is left of it. -/
def setOrphan (p : Pkg) (o : Nat × Nat × Slot) (h : Hold) : Pkg :=
  { p with orphans := p.orphans.map (fun x => if x = o then (o.1, o.2.1, { o.2.2 with hold := h }) else x) }

/-- A store whose context has ended while it stood in its push: the push, and its records as postings of the core (R166, R168, R272). -/
def orphanPush (p : Pkg) (now c s : Nat) (rel : Bool) (recs : List (Nat × Rec)) : Pkg × Option (List (Nat × Rec)) :=
  let (p1, ok) := if rel then releasePush p now c s else (p, true)
  if ok = false then (p1, none)
  else
    let (p2, ok2) := pushKeys p1 now c s (recs.map (·.1))
    if ok2 = false then (p2, none)
    else
      let out := (recs.zipIdx).map (fun y => (y.1.1, { y.1.2 with seq := (coreOf p2 c).postSeq + BitVec.ofNat 32 y.2 }))
      (updCore p2 c (fun co => { co with postSeq := co.postSeq + BitVec.ofNat 32 recs.length }), some out)

/-- STRONG_STORE_PERFORMED (R166, R272): the store of a slot, or one whose context has ended. -/
def strongPerformed (p : Pkg) (now c n : Nat) : Pkg :=
  match (slotOf (partOf p c) n).hold with
  | .strong s since recs => (match strongDue p now c s since (postLimit (slotOf (partOf p c) n)) recs with
    | none => p
    | some (p1, []) => completeSlot p1 c n
    | some (p1, left) => updPart p1 c (fun k => updSlot k n (fun x => { x with hold := .strong s since left })))
  | _ => (match orphanOf p c n with
    | none => p
    | some o => (match o.2.2.hold with
      | .push s rel recs => (match orphanPush p now c s rel recs with
        | (p1, none) => p1
        | (p1, some out) => setOrphan p1 o (.strong s (if scopeLevel s = 0 then (coreOf p1 c).cycle else now) out))
      | .strong s since recs => (match strongDue p now c s since (postLimit o.2.2) recs with
        | none => p
        | some (p1, []) => { p1 with orphans := p1.orphans.erase o }
        | some (p1, left) => setOrphan p1 o (.strong s since left))
      | _ => p))

def execStrongStorePerformed (core slot : Nat) (s : State) : Host.Outcome State Fault Refusal :=
  eventStep (fun cx p => strongPerformed p cx.now core slot) s

end Sys2Proof.Machine
end

