-- ==== Sys2Proof/Machine/Matrix.lean ====
section
/-!
DEFINITION. The instructions of the matrix unit (R113 to R119) and the arrival of a remote matrix command (R117).
-/
namespace Sys2Proof.Machine

/-- %SKS of MMAS (R116): its checks, and the ranges of its list. -/
def skipList (cx : Cx) (sks : Word) : Except Trap (Nat × Nat) :=
  let off := fld sks 0 17
  let n := fld sks 32 16
  if off % 2 ≠ 0 then .error (alignTrap off)
  else if 131072 < off + 2 * n then .error (pairTrap cx 7)
  else .ok (off, n)

/-- A command enters the queue (R113). -/
def enqueueMat (k : Part) (x : MatCmd) : Part :=
  let (ord, k1) := takeOrd k
  { k1 with matq := k1.matq ++ [{ x with board := { x.board with ord := ord } }] }

/-- The command that a slot issues. -/
def matCmd (k : Part) (cx : Cx) (f : Fields) (r : MatReady) (skips : List Nat) : MatCmd :=
  let s := slotOf k cx.slot
  { tile := opdTile f.d, a := r.a, b := r.b, tfa := bit f.md 0, tfb := bit f.md 1, k := r.depth, skips := skips,
    compat := !flushes s, asid := asidOf k, team := teamNoOf k, core := cx.core, slot := cx.slot, ctx := s.ctx, ioff := s.pc, progress := 0,
    running := false, lines := [], board := ⟨0, r.reads, []⟩ }

/-- The operands of MMA and MMAS, checked (R109 to R112). -/
def matOperands (k : Part) (cx : Cx) (f : Fields) : Except Trap MatReady :=
  match matArg k cx (asidOf k) 0 (bit f.md 0) f.a with
  | .error t => .error t
  | .ok a => (match matArg k cx (asidOf k) 4 (bit f.md 1) (bDesc f.b) with
    | .error t => .error t
    | .ok b => matCheck k cx (bit f.md 0) (bit f.md 1) a b)

/-- MMA (R115). -/
def execMma (f : Fields) (s : State) : Host.Outcome State Fault Refusal :=
  issue (.mma f) .lane0 (fun f cx p =>
    let k := partOf p cx.core
    if 4 ≤ k.matq.length then .stay p
    else match matOperands k cx f with
      | .error t => .trap t
      | .ok r => .done (setPart p cx.core (enqueueMat k (matCmd k cx f r [])))) s

/-- MMAS (R116): the skip list is read at issue, under the scoreboard. -/
def execMmas (f : Fields) (s : State) : Host.Outcome State Fault Refusal :=
  issue (.mmas f) .lane0 (fun f cx p =>
    let k := partOf p cx.core
    if 4 ≤ k.matq.length then .stay p
    else match matOperands k cx f with
      | .error t => .trap t
      | .ok r => (match skipList cx (slotOf k cx.slot).sks with
        | .error t => .trap t
        | .ok (off, n) =>
          let raw := (List.range n).map (fun i => scrNat k (off + 2 * i) 2)
          let need := neededSkips raw (ceilDiv r.depth r.kstep)
          if need ≠ [] ∧ scrClear k [(off, off + 2 * need.length)] [] = false then .busy p
          else match (if need = [] then none else scrBad k off (2 * need.length)) with
            | some w => .trap (scrCheck w)
            | none => .done (setPart p cx.core (enqueueMat k (matCmd k cx f r need))))) s

/-- MMAR (R117): a message to the matrix unit of the target, through a journal entry. -/
def execMmar (f : Fields) (s : State) : Host.Outcome State Fault Refusal :=
  issue (.mmar f) .lane0 (fun f cx p =>
    let s := curSlot p cx
    let x := blockReg s 0 f.a
    let dst := fld x 0 12
    let body := fun (uid : Nat) => MsgBody.mmar (opdTile f.d) (fld x 12 6) (fld x 18 6)
      (BitVec.ofNat 32 (fld (blockReg s 1 f.a) 0 32)) (bit f.md 0) (bit f.md 1) (!flushes s) cx.slot s.ctx s.pc uid
    match journalise p cx 7 2 (homeAddr p.regs.pkgnum dst 0) 0 (fun uid => .msg dst p.regs.pkgnum (body uid)) with
    | none => .stay p
    | some (p1, uid) => .done (send p1 cx.core dst (asidOf (partOf p cx.core)) (body uid))) s

/-- An accumulator instruction in its turn on its tile (R113) and among the scratchpad accesses (R114): `act` is what it does
then. It has issued once it waits. -/
def accTurn (p : Pkg) (cx : Cx) (t : Nat) (reads writes : List Span) (act : Pkg → Eff) : Eff :=
  let k := partOf p cx.core
  let (b, p1) : Board × Pkg := match holdOf p cx with
    | .tile _ b => (b, p)
    | _ => (⟨k.nextOrd, reads, writes⟩, setPart p cx.core (takeOrd k).2)
  if k.matq.any (fun x => decide (x.tile = t) && decide (x.board.ord < b.ord)) || tileHeldBefore k t b.ord ||
      !engineMay k b then .hold (setHold p1 cx (.tile t b))
  else act p1

/-- ACCZ (R119). -/
def execAccz (f : Fields) (s : State) : Host.Outcome State Fault Refusal :=
  issue (.accz f) .lane0 (fun f cx p =>
    let t := opdTile f.d
    accTurn p cx t [] [] (fun p => .done (updPart p cx.core (fun k =>
      let k1 := setTile k t []
      { k1 with tileFlags := mapPut 0 k1.tileFlags t 0 })))) s

/-- Element (o0 + j, o1 + i) for the place i * 32 + j of a tile (R119, R136, R137). -/
def accEl (e : Bits512) (w : Word) (n : Nat) (write : Bool) (pos : Nat) : Except Trap El :=
  let base := elemIndex e w
  let idx := moveIdx base ((pos % 32 : Nat) : Int)
  let idx := if layRank e < 2 then idx else idx.set 1 (idx.getD 1 0 + ((pos / 32 : Nat) : Int))
  let cw := setFld (coordsAt w ((pos % 32 : Nat) : Int)) 16 16 (wrapInt 16 (coord w 1 + ((pos / 32 : Nat) : Int)))
  let at' : ReadAt := if write then (if insideLay e idx then .at idx else if layEdge e = 2 then .bounds else .zero)
    else readAt e idx
  match at' with
  | .zero => .ok (pos, none)
  | .bounds => .error (boundsTrap 1 cw n)
  | .at j =>
    let a := elemAddr e j
    if alignOk (layType e) a = false then .error (alignTrap a)
    else if laySpace e ≠ 0 ∧ scrFits (tySize (layType e)) a = false then .error (boundsTrap 7 cw n)
    else .ok (pos, some j)

/-- The elements of ACCLD or ACCST, checked: types, edge rule, alignment (R119, R186). -/
def accEls (k : Part) (s : Slot) (n : Nat) (w : Word) (write : Bool) : Except Trap (Bits512 × List El) :=
  match entryNow k s n w [0, 1] with
  | .error t => .error t
  | .ok e =>
    if [8, 9, 10, 11, 12].contains (layType e) = false then .error (boundsTrap 4 w n)
    else match allOk ((List.range 1024).map (accEl e w n write)) with
      | .error t => .error t
      | .ok els => .ok (e, els)

/-- The scratchpad range of a tile's elements (R114). -/
def accSpans (e : Bits512) (w : Word) : List Span :=
  let lo := elemIndex e w
  boxSpans e lo ((moveIdx lo 31).set 1 (lo.getD 1 0 + 31))

/-- A tile's elements from the bytes of a layout: converted exactly to F32 (R119). -/
def accValues (e : Bits512) (flush : Bool) (els : List El) (rd : Nat → Nat → Nat) : List Lane :=
  els.map (fun x => match x.2 with
    | some idx => BitVec.ofNat 32 (fvConvert fmtF32 .rn false false
        (readF (fmtOfTy (layType e)) flush (rd (elemAddr e idx).toNat (tySize (layType e))))).bits
    | none => 0)

/-- ACCLD from global memory: a weak load of its granules (R119, R145). -/
def accLoadGlobal (p : Pkg) (cx : Cx) (t : Nat) (e : Bits512) (els : List El) (xs : List Xlat) (long : Bool) : Eff :=
  let gs := accGranules e true els
  match loadBad p cx.now cx.core 0 xs gs with
  | some pa => .trap (memCheck pa)
  | none =>
    let (m, nv) := readGranules p cx.now cx.core 0 xs (elAddrs e els) (tySize (layType e)) gs
    let p1 := gs.foldl (fun q g => match xlFor xs g.toNat with
      | some x => (probeKeys x g.toNat).foldl (fun q k => installCopies q cx cx.core 0 3 x.lease long k) q
      | none => q) (logReply p cx.now cx.core ⟨e, els, true, xs, 0, long, false⟩ gs)
    .done (updPart p1 cx.core (fun k =>
      let k1 := setTile k t (accValues e (flushes (slotOf k cx.slot)) els (granuleBytes m))
      if nv then orFlags k1 cx.slot fNV else k1))

/-- ACCLD (R119). -/
def accld (f : Fields) (cx : Cx) (p : Pkg) : Eff :=
  let k := partOf p cx.core
  let t := opdTile f.d
  let w := bScalar p cx.core (slotOf k cx.slot) f.b
  match accEls k (slotOf k cx.slot) (opdLay f.a) w false with
  | .error t => .trap t
  | .ok (e, els) =>
    if laySpace e = 0 then
      let gs := accGranules e true els
      if granuleBusy k cx.slot gs then .busy p
      else match translateHeld p cx false (layType e) (accAddrs e true els) with
        | .error o => missed p cx false o
        | .ok xs =>
          let keys := probeAll xs gs
          if aliasBusy p cx keys || keys.any (readWaits p cx.now cx.core 0) then .busy p
          else accTurn (setCap p cx e xs) cx t [] [] (fun p => accLoadGlobal p cx t e els xs f.long)
    else accTurn (setCap p cx e []) cx t (accSpans e w) [] (fun p =>
      match (elAddrs e els).findSome? (fun a => scrBad k a.toNat (tySize (layType e))) with
      | some x => .trap (scrCheck x)
      | none => .done (updPart p cx.core (fun k =>
          setTile k t (accValues e (flushes (slotOf k cx.slot)) els (scrNat k)))))

def execAccld (f : Fields) (s : State) : Host.Outcome State Fault Refusal := issue (.accld f) .lane0 accld s

/-- What ACCST writes for each place, and the flags of the places written (R64, R66, R119). -/
def accRound (k : Part) (flush : Bool) (rm : Nat) (sat : Bool) (t : Nat) (e : Bits512) (els : List El) : List Nat × Flags :=
  let tile := tileOf k t
  let rs := els.map (fun x => fvConvert (fmtOfTy (layType e)) (rmOf rm) sat flush
    (decodeF fmtF32 (tile.getD x.1 0).toNat))
  (rs.map (·.bits), (els.zip rs).foldl (fun acc r => if r.1.2.isSome then acc ||| r.2.fl else acc) 0)

/-- The tile's flags and those of the conversion join %FPFLAGS (R72, R119). -/
def accFlags (p : Pkg) (cx : Cx) (t : Nat) (fl : Flags) : Pkg :=
  updPart p cx.core (fun k => orFlags k cx.slot (tileFlagsOf k t ||| fl))

/-- The tile's elements written to local scratchpad. -/
def accWrite (k : Part) (now : Nat) (e : Bits512) (els : List El) (vals : List Nat) : Part :=
  els.foldl (fun q x => match x.2 with
    | some idx => scrWrite q now (elemAddr e idx).toNat (leBytes (tySize (layType e)) (vals.getD x.1 0))
    | none => q) k

/-- The oldest ACCST whose slot has gone on is performed, in its turn on its tile and among the scratchpad accesses (R113, R114): the tile
is stored, and the flags join the context's (R70, R72). A tile in error is reported in the slot that issued it (R326). -/
def moveAcc (p : Pkg) (now c : Nat) : Pkg :=
  let k := partOf p c
  match k.accq with
  | [] => p
  | x :: rest =>
    if k.matq.any (fun y => decide (y.tile = x.tile) && decide (y.board.ord < x.board.ord)) || tileHeldBefore k x.tile x.board.ord ||
        !engineMay k x.board || (coreOf p c).switching || (coreOf p c).fenced.isSome then p
    else
      let k1 := { k with accq := rest }
      if k.badTiles.contains x.tile then (raiseInSlot (setPart p c k1) now c x.slot x.ctx x.asid x.ioff (tileCheck x.tile)).getD p
      else match allOk ((List.range 1024).map (accEl x.e x.w 0 true)) with
        | .error _ => setPart p c k1
        | .ok els =>
          let (vals, fl) := accRound k x.flush x.rm x.sat x.tile x.e els
          setPart p c (orFlagsOf (accWrite k1 now x.e els vals) x.slot x.ctx (tileFlagsOf k x.tile ||| fl))

/-- An ACCST into local scratchpad issues and its slot goes on; the matrix unit's queue holds it until it is performed (R70, R113, R351). -/
def accQueue (p : Pkg) (cx : Cx) (f : Fields) (t : Nat) (e : Bits512) (w : Word) : Eff :=
  let k := partOf p cx.core
  let s := slotOf k cx.slot
  let (ord, k1) := takeOrd k
  .done (setPart p cx.core { k1 with accq := k1.accq ++ [⟨t, e, w, fld f.md 0 2, bit f.md 2, flushes s, asidOf k, teamNoOf k, cx.slot,
    s.ctx, s.pc, ⟨ord, [], accSpans e w⟩⟩] })

/-- ACCST (R119). -/
def accst (f : Fields) (cx : Cx) (p : Pkg) : Eff :=
  let k := partOf p cx.core
  let t := opdTile f.a
  let w := bScalar p cx.core (slotOf k cx.slot) f.b
  match accEls k (slotOf k cx.slot) (opdLay f.d) w true with
  | .error t => .trap t
  | .ok (e, els) =>
    if laySpace e = 0 then
      match storeHigh e els with
      | some t => .trap t
      | none => accTurn (setCap p cx e []) cx t [] [] (fun p =>
        if k.badTiles.contains t then .trap (tileCheck t)
        else
          let (vals, fl) := accRound k (flushes (slotOf k cx.slot)) (fld f.md 0 2) (bit f.md 2) t e els
          let st : Store := ⟨0, 0, 0, layType e, false, storePieces e els (fun i => vals.getD i 0) (fun _ _ => true)⟩
          match storePiecesGo p cx e st { f with a := .none, b := .desc .none } with
          | .done q => .done (accFlags q cx t fl)
          | .hold q => .hold (accFlags q cx t fl)
          | o => o)
    else if cx.later && fresh (holdOf p cx) then accQueue p cx f t e w
    else accTurn (setCap p cx e []) cx t [] (accSpans e w) (fun p =>
      if k.badTiles.contains t then .trap (tileCheck t)
      else
        let (vals, fl) := accRound k (flushes (slotOf k cx.slot)) (fld f.md 0 2) (bit f.md 2) t e els
        .done (accFlags (setPart p cx.core (accWrite (partOf p cx.core) cx.now e els vals)) cx t fl))

def execAccst (f : Fields) (s : State) : Host.Outcome State Fault Refusal := issue (.accst f) .lane0 accst s

end Sys2Proof.Machine
end

