-- ==== Sys2Proof/Machine/Seam.lean ====
section
/-!
DEFINITION. The seam unit (R125 to R131): SEAM.MATCH, SEAM.APPLY, UNSEAM, and the completion of a command.
-/
namespace Sys2Proof.Machine

/-- The value of MAGIC of a valid map (R126). -/
def seamMagic : Nat := 0x5A534D31

/-- An entry of a seam instruction or of SMRG: local scratchpad, one of some types, a rank (R125, R228). DESIGN CHOICE (log 39): another
rank has SUB 1, another type SUB 4; R313 gives a rank fault none. -/
def seamEntry (k : Part) (n : Nat) (types : List Nat) (rank : Nat) : Except Trap Bits512 :=
  match entryFor k n 0 [1] with
  | .error t => .error t
  | .ok e =>
    if types.contains (layType e) = false then .error (boundsTrap 4 0 n)
    else if layRank e ≠ rank then .error (boundsTrap 1 0 n)
    else .ok e

/-- Coordinates of element x of row y. -/
def rowCoords (x y : Nat) : Word := BitVec.ofNat 64 (x + y * 65536)

/-- The elements 0 to d - 1 of a row lie inside an entry and are aligned (R125, R137). -/
def checkRow (e : Bits512) (n d y : Nat) : Except Trap Unit :=
  (List.range d).foldl (fun acc x => match acc with
    | .error t => .error t
    | .ok _ =>
      let idx := elemIndex e (rowCoords x y)
      if insideLay e idx then checkAddr e (rowCoords x y) n 0 idx else .error (boundsTrap 1 (rowCoords x y) n)) (.ok ())

/-- The extents suffice for `rows` rows of d elements (R125). -/
def checkRows (e : Bits512) (n d rows : Nat) : Except Trap Unit :=
  (List.range rows).foldl (fun acc y => match acc with
    | .error t => .error t
    | .ok _ => checkRow e n d y) (.ok ())

/-- The scratchpad range of rows (R114). -/
def rowSpans (e : Bits512) (d rows : Nat) : List Span :=
  if d = 0 ∨ rows = 0 then []
  else boxSpans e (elemIndex e (rowCoords 0 0)) (elemIndex e (rowCoords (d - 1) (rows - 1)))

/-- The byte range of rows, from the first byte to the last, that an output may not share with an input (R125; log 39). -/
def rowRange (e : Bits512) (d rows : Nat) : List Span :=
  addrRange (tySize (layType e)) ((List.range rows).flatMap (fun y => (List.range d).map (fun x => elemAddr e (elemIndex e (rowCoords x y)))))

/-- The bytes of a map of n tokens (R126). -/
def mapSpan (e : Bits512) (n : Nat) : Span := (layBaseAddr e, layBaseAddr e + 16 + 2 * n)

/-- A map of n tokens lies inside its entry and the scratchpad (R126, R137). -/
def checkMap (e : Bits512) (nr n : Nat) : Except Trap Unit :=
  if layExt e 0 < 8 + n then .error (boundsTrap 1 (BitVec.ofNat 64 (layExt e 0)) nr)
  else if alignOk (layType e) (layBaseAddr e) = false then .error (alignTrap (layBaseAddr e))
  else if 131072 < (mapSpan e n).2 then .error (boundsTrap 7 0 nr)
  else .ok ()

/-- r lies within what N and KEEP0 allow (R125). -/
def mergeOk (n r : Nat) (keep0 : Bool) : Bool := if keep0 then decide (r + 1 ≤ (n + 1) / 2) else decide (r ≤ n / 2)

/-- The header of a map (R126). -/
structure MapHead where
  magic : Nat
  gen : Nat
  n : Nat
  r : Nat
  dk : Nat
  keep0 : Bool
  deriving DecidableEq, Repr, Inhabited

def mapHead (k : Part) (base : Nat) : MapHead :=
  let x := BitVec.ofNat 128 (scrNat k base 16)
  ⟨fld x 0 32, fld x 32 32, fld x 64 16, fld x 80 16, fld x 96 16, bit x 112⟩

def mapHeadBits (h : MapHead) : Nat :=
  packFields [(32, h.magic), (32, h.gen), (16, h.n), (16, h.r), (16, h.dk), (1, b2n h.keep0), (15, 0)]

/-- Several checks in order; the first that fails decides. -/
def firstError : List (Except Trap Unit) → Except Trap Unit
  | [] => .ok ()
  | .error t :: _ => .error t
  | .ok _ :: rest => firstError rest

/-- A command enters the queue of the seam unit. -/
def enqueueSeam (k : Part) (x : SeamCmd) : Part :=
  let (ord, k1) := takeOrd k
  { k1 with seamq := k1.seamq ++ [{ x with board := { x.board with ord := ord } }] }

/-- Writes MAGIC := 0 into a map (R127). -/
def clearMagic (k : Part) (now base : Nat) : Part := scrWrite k now base (leBytes 4 0)

/-- SEAM.MATCH: the checks of R125, and the command. The unit clears MAGIC as soon as nothing older keeps it from starting. -/
def seamMatch (p : Pkg) (cx : Cx) (f : Fields) : Eff :=
  let k := partOf p cx.core
  let s := slotOf k cx.slot
  let b := bDesc f.b
  let n := fld (blockReg s 0 b) 0 13
  let dk := fld (blockReg s 0 b) 16 9
  let r := fld (blockReg s 1 b) 0 13
  let keep0 := bit f.md 1
  let nm := opdLay f.d
  let nk := opdLay f.a
  match seamEntry k nm [6] 1, seamEntry k nk [9] 2 with
  | .error t, _ => .trap t
  | _, .error t => .trap t
  | .ok em, .ok ek =>
    if n = 0 ∨ 4096 < n ∨ dk = 0 ∨ 256 < dk ∨ mergeOk n r keep0 = false then .trap (bareTrap causeBounds cx)
    else match firstError [checkMap em nm n, checkRows ek nk dk n] with
      | .error t => .trap t
      | .ok _ =>
        let rs := rowSpans ek dk n
        let ws := [mapSpan em n]
        if spansMeet (rowRange ek dk n) ws then .trap (bareTrap causeBounds cx)
        else
          let free := decide (k.seamq = []) && scrClear k rs ws
          let x : SeamCmd :=
            { op := 0, keep0 := keep0, entries := [em, ek], n := n, dk := dk, r := r,
              gen := BitVec.ofNat 32 (fld (blockReg s 2 b) 0 32), compat := !flushes s, asid := asidOf k, team := teamNoOf k,
              slot := cx.slot, ctx := s.ctx, ioff := s.pc, begun := free, board := ⟨0, rs, ws⟩ }
          let k1 := if free then clearMagic k cx.now (layBaseAddr em) else k
          .done (setPart p cx.core (enqueueSeam k1 x))

/-- The failure of an APPLY or UNSEAM on its map (R130). -/
def seamFault (p : Pkg) (cx : Cx) (sub : Nat) : Eff :=
  .done (raiseEngine p cx.now cx.core (asidOf (partOf p cx.core)) (teamNoOf (partOf p cx.core)) (engineTrap sub (curSlot p cx).pc 0))

/-- APPLY and UNSEAM from the checks of the map on (R128 to R130): `rest` are the checks and ranges that depend on N and r:
checks, ranges read beside the map, ranges written; `ranges` are the byte ranges of inputs and outputs. -/
def seamUse (p : Pkg) (cx : Cx) (nm : Nat) (em : Bits512) (gen : Nat) (mk : MapHead → SeamCmd)
    (rest : MapHead → List (Except Trap Unit) × List Span × List Span) (ranges : MapHead → List Span × List Span) : Eff :=
  let k := partOf p cx.core
  match checkMap em nm 0 with
  | .error t => .trap t
  | .ok _ =>
    if scrClear k [mapSpan em 0] [] = false then .busy p
    else if (scrBad k (layBaseAddr em) 16).isSome then seamFault p cx (bareTrap 0x23 cx).sub
    else
      let h := mapHead k (layBaseAddr em)
      if h.magic ≠ seamMagic then seamFault p cx 4
      else if h.gen ≠ gen then seamFault p cx 5
      else if h.n = 0 ∨ 4096 < h.n ∨ mergeOk h.n h.r h.keep0 = false then .trap (bareTrap causeBounds cx)
      else
        let (checks, rs, ws) := rest h
        match firstError (checkMap em nm h.n :: checks) with
        | .error t => .trap t
        | .ok _ =>
          let rs := mapSpan em h.n :: rs
          if spansMeet (mapSpan em h.n :: (ranges h).1) (ranges h).2 then .trap (bareTrap causeBounds cx)
          else if scrClear k [mapSpan em h.n] [] = false then .busy p
          else if (scrBad k (layBaseAddr em) (16 + 2 * h.n)).isSome then seamFault p cx (bareTrap 0x23 cx).sub
          else
            let x := mk h
            .done (setPart p cx.core (enqueueSeam k { x with board := ⟨0, rs, ws⟩ }))

/-- Types of rows and of sizes (R125). -/
def rowTypes : List Nat := [8, 9, 10]

/-- SEAM.APPLY (R125, R128). -/
def seamApply (p : Pkg) (cx : Cx) (f : Fields) : Eff :=
  let k := partOf p cx.core
  let s := slotOf k cx.slot
  let b := bDesc f.b
  let w := blockReg s 0 b
  let d := fld (blockReg s 1 b) 0 13
  let gen := fld (blockReg s 2 b) 0 32
  let nm := fld w 0 6
  match allOk [seamEntry k nm [6] 1, seamEntry k (opdLay f.a) rowTypes 2, seamEntry k (opdLay f.d) rowTypes 2,
      seamEntry k (fld w 8 6) [8] 1, seamEntry k (fld w 16 6) [8] 1, seamEntry k (fld w 24 6) [8] 1] with
  | .error t => .trap t
  | .ok es =>
    let e := fun (i : Nat) => es.getD i 0
    if d = 0 ∨ 4096 < d then .trap (bareTrap causeBounds cx)
    else seamUse p cx nm (e 0) gen
      (fun h => { op := 1, keep0 := h.keep0, entries := es, n := h.n, dk := d, r := h.r, gen := BitVec.ofNat 32 gen,
                  compat := !flushes s, asid := asidOf k, team := teamNoOf k, slot := cx.slot, ctx := s.ctx, ioff := s.pc,
                  begun := false, board := ⟨0, [], []⟩ })
      (fun h =>
        let m := h.n - h.r
        ([checkRows (e 1) (opdLay f.a) d h.n, checkRows (e 2) (opdLay f.d) d m, checkRow (e 3) (fld w 8 6) h.n 0,
          checkRow (e 4) (fld w 16 6) m 0, checkRow (e 5) (fld w 24 6) m 0],
        rowSpans (e 1) d h.n ++ rowSpans (e 3) h.n 1,
        rowSpans (e 2) d m ++ rowSpans (e 4) m 1 ++ rowSpans (e 5) m 1))
      (fun h =>
        let m := h.n - h.r
        (rowRange (e 1) d h.n ++ rowRange (e 3) h.n 1, rowRange (e 2) d m ++ rowRange (e 4) m 1 ++ rowRange (e 5) m 1))

/-- UNSEAM (R125, R129). -/
def unseam (f : Fields) (cx : Cx) (p : Pkg) : Eff :=
  let k := partOf p cx.core
  let s := slotOf k cx.slot
  let b := bDesc f.b
  let w := blockReg s 0 b
  let d := fld w 16 13
  let gen := fld (blockReg s 1 b) 0 32
  let nm := fld w 0 6
  match allOk [seamEntry k nm [6] 1, seamEntry k (opdLay f.a) rowTypes 2, seamEntry k (opdLay f.d) rowTypes 2] with
  | .error t => .trap t
  | .ok es =>
    let e := fun (i : Nat) => es.getD i 0
    if d = 0 ∨ 4096 < d then .trap (bareTrap causeBounds cx)
    else seamUse p cx nm (e 0) gen
      (fun h => { op := 2, keep0 := h.keep0, entries := es, n := h.n, dk := d, r := h.r, gen := BitVec.ofNat 32 gen,
                  compat := !flushes s, asid := asidOf k, team := teamNoOf k, slot := cx.slot, ctx := s.ctx, ioff := s.pc,
                  begun := false, board := ⟨0, [], []⟩ })
      (fun h => ([checkRows (e 1) (opdLay f.a) d (h.n - h.r), checkRows (e 2) (opdLay f.d) d h.n],
        rowSpans (e 1) d (h.n - h.r), rowSpans (e 2) d h.n))
      (fun h => (rowRange (e 1) d (h.n - h.r), rowRange (e 2) d h.n))

def seam (f : Fields) (cx : Cx) (p : Pkg) : Eff := if bit f.md 0 then seamApply p cx f else seamMatch p cx f

/-- SEAM (R125). -/
def execSeam (f : Fields) (s : State) : Host.Outcome State Fault Refusal := issue (.seam f) .lane0 seam s

/-- UNSEAM (R125). -/
def execUnseam (f : Fields) (s : State) : Host.Outcome State Fault Refusal := issue (.unseam f) .lane0 unseam s

/-- A sum with flags: a state of the unit's arithmetic. -/
abbrev Num := Nat × Flags

/-- round_rne(a * b + c, F32). -/
def seamFma (c : Num) (a b : FV) : Num :=
  let r := fvFma fmtF32 .rn false a b (decodeF fmtF32 c.1)
  (r.bits, c.2 ||| r.fl)

/-- The dot product of two rows, each step rounded once (R127). -/
def seamDot (a b : List FV) : Num := (a.zip b).foldl (fun acc x => seamFma acc x.1 x.2) (0, 0)

/-- The similarity of two tokens (R127). -/
def seamSim (d : Num) (ia ib : Nat) : Num :=
  let x := fvMul fmtF32 .rn false (decodeF fmtF32 d.1) (decodeF fmtF32 ia)
  let y := fvMul fmtF32 .rn false (decodeF fmtF32 x.bits) (decodeF fmtF32 ib)
  (y.bits, d.2 ||| x.fl ||| y.fl)

/-- A similarity is larger than another: a NaN ranks below every number (R127). -/
def simAbove (a b : Nat) : Bool :=
  let x := decodeF fmtF32 a
  let y := decodeF fmtF32 b
  if fvIsNaN x then false else if fvIsNaN y then true else fvLt false y x

/-- The first element with the largest similarity. -/
def simBest (l : List (Nat × Nat)) : Option (Nat × Nat) :=
  match l with
  | [] => none
  | x :: rest => some (rest.foldl (fun b y => if simAbove y.2 b.2 then y else b) x)

/-- The r tokens with the largest similarities, lowest first on ties (R127). -/
def simTop : Nat → List (Nat × Nat) → List Nat
  | 0, _ => []
  | r + 1, l =>
    match simBest l with
    | none => []
    | some x => x.1 :: simTop r (l.filter (fun y => decide (y.1 ≠ x.1)))

/-- The result of a matching: the entries of the map and the flags (R127). -/
def seamMatching (keys : List (List FV)) (r : Nat) (keep0 : Bool) : List Nat × Flags :=
  let n := keys.length
  let norms := keys.map (fun k => seamDot k k)
  let invs := norms.map (fun x => fvFn fmtF32 false .rsq (decodeF fmtF32 x.1))
  let as := (List.range n).filter (fun t => decide (t % 2 = 0) && !(keep0 && decide (t = 0)))
  let bs := (List.range n).filter (fun t => decide (t % 2 = 1))
  let sims := as.map (fun a => (a, bs.map (fun b =>
    (b, seamSim (seamDot (keys.getD a []) (keys.getD b [])) (invs.getD a ⟨0, 0⟩).bits (invs.getD b ⟨0, 0⟩).bits))))
  let best := sims.filterMap (fun x => (simBest (x.2.map (fun y => (y.1, y.2.1)))).map (fun b => (x.1, b)))
  let merged := simTop r (best.map (fun x => (x.1, x.2.2)))
  let kept := (List.range n).filter (fun t => !merged.contains t)
  let pos := fun (t : Nat) => (kept.filter (fun u => decide (u < t))).length
  let entries := (List.range n).map (fun t => if merged.contains t then
    (match best.find? (fun x => decide (x.1 = t)) with
      | some x => pos x.2.1
      | none => pos t) else pos t)
  let fl := norms.foldl (fun acc x => acc ||| x.2) 0 ||| invs.foldl (fun acc x => acc ||| x.fl) 0 |||
    sims.foldl (fun acc x => x.2.foldl (fun acc y => acc ||| y.2.2) acc) 0
  (entries, fl)

/-- Element x of row y of a scratchpad entry, under the flush of its type (R66). -/
def rowVal (k : Part) (compat : Bool) (e : Bits512) (x y : Nat) : FV :=
  readF (fmtOfTy (layType e)) (!compat) (scrNat k (elemAddr e (elemIndex e (rowCoords x y))).toNat (tySize (layType e)))

/-- Writes element x of row y. -/
def rowPut (k : Part) (now : Nat) (e : Bits512) (x y v : Nat) : Part :=
  scrWrite k now (elemAddr e (elemIndex e (rowCoords x y))).toNat (leBytes (tySize (layType e)) v)

/-- What a command writes: the entry, the element, the row, the bits. -/
abbrev RowWrite := Nat × Nat × Nat × Nat

/-- Entry t of the map (R126). -/
def mapEntry (k : Part) (em : Bits512) (t : Nat) : Nat := scrNat k (layBaseAddr em + 16 + 2 * t) 2

/-- The tokens of a row of the merged sequence: the kept one, then the merged (R128). An odd token is always kept. DESIGN CHOICE (log 24):
where a map that no MATCH wrote names a row for several odd tokens, the first of them counts as the kept one, and for even ones alone the
first of those; the others count as merged, in increasing index. -/
def rowGroup (es : List Nat) (y : Nat) : List Nat :=
  let g := (List.range es.length).filter (fun t => decide (es.getD t 0 = y))
  match g.find? (fun t => decide (t % 2 = 1)) with
  | some j => j :: g.filter (fun t => decide (t ≠ j))
  | none => g

/-- One output row of APPLY (R128): entries 2, 4 and 5 are Lo, Ls_out and Lb. -/
def applyRow (k : Part) (x : SeamCmd) (free : Nat) (y : Nat) (g : List Nat) : List RowWrite × Flags :=
  let e := fun (i : Nat) => x.entries.getD i 0
  let D := fmtOfTy (layType (e 2))
  let size := fun (t : Nat) => scrNat k (elemAddr (e 3) (elemIndex (e 3) (rowCoords t 0))).toNat 4
  match g with
  | [] => ((List.range x.dk).map (fun i => (2, i, y, Config.seamFree free y i)) ++
      [(4, y, 0, Config.seamFree free y x.dk), (5, y, 0, Config.seamFree free y (x.dk + 1))], 0)
  | j :: ms =>
    let s : Num := ms.foldl (fun acc a =>
      let r := fvAdd fmtF32 .rn false (decodeF fmtF32 acc.1) (decodeF fmtF32 (size a))
      (r.bits, acc.2 ||| r.fl)) (size j, 0)
    let el := fun (i : Nat) =>
      if ms = [] then
        let r := fvConvert D .rn false (!x.compat) (rowVal k x.compat (e 1) i j)
        (r.bits, r.fl)
      else
        let m := fvMul fmtF32 .rn false (decodeF fmtF32 (size j)) (rowVal k x.compat (e 1) i j)
        let acc := ms.foldl (fun acc a => seamFma acc (decodeF fmtF32 (size a)) (rowVal k x.compat (e 1) i a)) (m.bits, m.fl)
        let q := fvDiv D .rn false (!x.compat) (decodeF fmtF32 acc.1) (decodeF fmtF32 s.1)
        (q.bits, acc.2 ||| q.fl)
    let rs := (List.range x.dk).map el
    let b := fvFn fmtF32 false .log2 (decodeF fmtF32 s.1)
    ((rs.zipIdx).map (fun r => (2, r.2, y, r.1.1)) ++ [(4, y, 0, s.1), (5, y, 0, b.bits)],
      rs.foldl (fun acc r => acc ||| r.2) 0 ||| s.2 ||| b.fl)

/-- One output row of UNSEAM (R129). -/
def unseamRow (k : Part) (x : SeamCmd) (free : Nat) (t y : Nat) : List RowWrite × Flags :=
  let e := fun (i : Nat) => x.entries.getD i 0
  let D := fmtOfTy (layType (e 2))
  let rs := (List.range x.dk).map (fun i =>
    if y < x.n - x.r then
      let r := fvConvert D .rn false (!x.compat) (rowVal k x.compat (e 1) i y)
      (r.bits, r.fl)
    else (Config.seamFree free t i, 0))
  ((rs.zipIdx).map (fun r => (2, r.2, t, r.1.1)), rs.foldl (fun acc r => acc ||| r.2) 0)

/-- A command performed: the core after it, and the flags (R127 to R129). -/
def runSeam (k : Part) (now free : Nat) (x : SeamCmd) : Part × Flags :=
  let em := x.entries.getD 0 0
  if x.op = 0 then
    let ek := x.entries.getD 1 0
    let keys := (List.range x.n).map (fun t => (List.range x.dk).map (fun i => rowVal k x.compat ek i t))
    let (es, fl) := seamMatching keys x.r x.keep0
    let k1 := scrWrite k now (layBaseAddr em + 16) (es.flatMap (leBytes 2))
    let h : MapHead := ⟨seamMagic, x.gen.toNat, x.n, x.r, x.dk, x.keep0⟩
    let bs := leBytes 16 (mapHeadBits h)
    (scrWrite (scrWrite k1 now (layBaseAddr em + 4) (bs.drop 4)) now (layBaseAddr em) (bs.take 4), fl)
  else
    let es := (List.range x.n).map (mapEntry k em)
    let rows := if x.op = 1 then (List.range (x.n - x.r)).map (fun y => applyRow k x free y (rowGroup es y))
      else (es.zipIdx).map (fun t => unseamRow k x free t.2 t.1)
    (rows.foldl (fun q r => r.1.foldl (fun q w => rowPut q now (x.entries.getD w.1 0) w.2.1 w.2.2.1 w.2.2.2) q) k,
      rows.foldl (fun acc r => acc ||| r.2) 0)

/-- A MATCH begins: MAGIC := 0 is written before anything else (R127). -/
def beginMatch (k : Part) (now : Nat) (x : SeamCmd) : Part :=
  if x.op = 0 ∧ x.begun = false then clearMagic k now (layBaseAddr (x.entries.getD 0 0)) else k

/-- The oldest command of the seam unit begins, in its turn among the scratchpad accesses (R114, R127, R131). -/
def moveSeam (p : Pkg) (now c : Nat) : Pkg :=
  let k := partOf p c
  match k.seamq with
  | [] => p
  | x :: rest =>
    if x.begun ∨ engineMay k x.board = false ∨ (coreOf p c).switching = true ∨ (coreOf p c).fenced.isSome then p
    else setPart p c { beginMatch k now x with seamq := { x with begun := true } :: rest }

/-- The bytes of elements 0 to d - 1 of some rows. -/
def rowBytes (e : Bits512) (d : Nat) (rows : List Nat) : List Span :=
  rows.flatMap (fun y => (List.range d).map (fun x =>
    let a := (elemAddr e (elemIndex e (rowCoords x y))).toNat
    (a, a + tySize (layType e))))

/-- The bytes that a command reads: the keys of a MATCH; the map, and of the rows and sizes those that the map names (R127 to R129). -/
def seamReads (k : Part) (x : SeamCmd) : List Span :=
  let e := fun (i : Nat) => x.entries.getD i 0
  let m := x.n - x.r
  let es := (List.range x.n).map (mapEntry k (e 0))
  if x.op = 0 then rowBytes (e 1) x.dk (List.range x.n)
  else if x.op = 1 then
    let ts := (List.range x.n).filter (fun t => decide (es.getD t 0 < m))
    mapSpan (e 0) x.n :: (rowBytes (e 1) x.dk ts ++ rowBytes (e 3) 1 ts)
  else mapSpan (e 0) x.n :: rowBytes (e 1) x.dk (es.filter (fun y => decide (y < m)))

/-- A word in error that a command would consume (R326). -/
def seamBad (k : Part) (x : SeamCmd) : Option Nat := if k.badWords = [] then none else spansBad k (seamReads k x)

/-- SEAM_COMMAND_COMPLETE (R127 to R130): the oldest command, in its turn among the scratchpad accesses. A word in error fails it:
in the map by ENGINE_FAULT (R130), elsewhere by MACHINE_CHECK in the slot that issued it (R326). -/
def completeSeam (p : Pkg) (cx : Cx) (c : Nat) : Pkg :=
  let now := cx.now
  let k := partOf p c
  match k.seamq with
  | [] => p
  | x :: rest =>
    if engineMay k x.board = false ∨ (coreOf p c).switching = true then p
    else match seamBad k x with
      | some w =>
        if x.op ≠ 0 ∧ (scrBad k (layBaseAddr (x.entries.getD 0 0)) (16 + 2 * x.n)).isSome then
          raiseEngine (setPart p c { k with seamq := rest }) now c x.asid x.team (engineTrap (bareTrap 0x23 cx).sub x.ioff 0)
        else (match raiseInSlot (setPart p c { beginMatch k now x with seamq := rest }) now c x.slot x.ctx x.asid x.ioff (scrCheck w) with
        | some q => q
        | none => p)
      | none =>
        let (k1, fl) := runSeam { k with seamq := rest } now p.freeNo x
        { setPart p c (orFlagsOf k1 x.slot x.ctx fl) with freeNo := p.freeNo + 1 }

def execSeamCommandComplete (core : Nat) (s : State) : Host.Outcome State Fault Refusal :=
  eventStep (fun cx p => completeSeam p cx core) s

end Sys2Proof.Machine
end

