-- ==== Sys2Proof/Machine/Sync.lean ====
section
/-!
DEFINITION. Copies issued (R212, R216, R218, R223), CPYW (R219), barrier objects (R222 to R224), HWBAR (R225), sorted lists (R228,
R229), rings (R230, R231), anole lanes (R234, R237).
-/
namespace Sys2Proof.Machine

/-- The sizes of the source box: those of the destination, the first two swapped by TRN (R213). -/
def srcSizes (xf : Nat) (n : List Nat) : List Nat :=
  if xf = 1 then (n.set 0 (n.getD 1 0)).set 1 (n.getD 0 0) else n

/-- The scratchpad bytes that a box of some sizes spans (R220). -/
def sizeSpans (e : Bits512) (o : Word) (n : List Nat) : List Span :=
  if n.any (fun x => decide (x = 0)) then [] else boxSpans e (layAt e o [0, 0, 0, 0]) (layAt e o (n.map (fun x => x - 1)))

/-- The reads that a copy asks of another package: source elements, and scales of the points it writes there (R214, R215). -/
def cpyAsks (p : Pkg) (d s : Bits512) (els : List CpyEl) (uid : Nat) : List (Nat × Nat × MsgBody) :=
  let far := fun (e : Bits512) => decide (laySpace e = 2) && decide ((homeOfEntry e).1 ≠ p.regs.pkgnum)
  let from' := if far s then els.filterMap (fun x => x.src.map (fun idx =>
      ((homeOfEntry s).1, (homeOfEntry s).2, .load (elemAddr s idx).toNat (tySize (layType s))
        (if layType s = tyL8 then some (l8ScaleAddr s idx).toNat else none) uid (2 * x.ord)))) else []
  let scales := if far d && decide (layType d = tyL8) then (cpyUnits d els).filterMap (fun u => u.head?.map (fun x =>
      ((homeOfEntry d).1, (homeOfEntry d).2, .load (l8ScaleAddr d x.dst).toNat 2 none uid (2 * x.ord + 1)))) else []
  from' ++ scales

/-- The copy that a CPY issues, its place in the scoreboard still open. -/
def cpyNew (p : Pkg) (cx : Cx) (f : Fields) (d s : Bits512) (uid : Nat) : Copy :=
  let k := partOf p cx.core
  let sl := slotOf k cx.slot
  let b := bDesc f.b
  let os := blockReg sl 0 b
  let od := blockReg sl 1 b
  let w := blockReg sl 2 b
  let ch := fld w 32 2
  let xf := fld f.md 6 3
  let n := boxSize d od
  { ident := mapGet 0 k.issued ch + 1, ch := ch, slot := cx.slot, ctx := sl.ctx, asid := asidOf k, team := teamNoOf k, ioff := sl.pc, d := d,
    src := s, od := od, os := os, off := fld w 0 17, home := fld w 17 12, ben := bit w 29, narr := bit w 30,
    scale := BitVec.ofNat 32 (fld (blockReg sl 3 b) 0 32), xf := xf, acq := bit f.md 5, rel := bit f.md 4,
    sc := fld f.md 1 3, sequenced := bit f.md 0, bytes := cpyBytes d (cpyEls d s od os xf), added := 0,
    board := ⟨0, sizeSpans s os (srcSizes xf n), sizeSpans d od n⟩, uid := uid, vals := [], left := 0, refused := false,
    first := none, last := 0, begun := false, pos := 0, todo := [], fail := none, fl := 0 }

/-- The byte addition of a new copy: in the core's own scratchpad, or by a message to the object's home (R223). -/
def cpyCount (p : Pkg) (cx : Cx) (x : Copy) : Pkg × Copy :=
  if x.ben = false then (p, x)
  else if x.home = cx.core then
    (updPart p cx.core (fun k => objEvent k cx.now x.off (objAdd x.bytes)), { x with added := 1 })
  else (send p cx.core x.home x.asid (.addBytes x.off x.bytes x.narr x.ch x.ident), x)

/-- A copy takes its identifier and its place; an empty one is complete at once (R213, R218). -/
def cpyIssue (p : Pkg) (cx : Cx) (x : Copy) (els : List CpyEl) : Pkg :=
  let c := cx.core
  let asks := cpyAsks p x.d x.src els x.uid
  let far := [x.src, x.d].any (fun e => decide (laySpace e = 2) && !reachable p (homeOfEntry e).1)
  let p1 := if far then p else asks.foldl (fun q m => sendPkg q c m.1 m.2.1 x.asid m.2.2) p
  let (p2, x1) := cpyCount p1 cx { x with left := if far then 0 else asks.length, refused := far }
  let p3 := updPart p2 c (fun k =>
    let (ord, k1) := takeOrd k
    let k2 := updSlot k1 cx.slot (fun s => { s with xlast := mapPut 0 s.xlast x.ch (BitVec.ofNat 64 (x.ident % 2 ^ 48)) })
    { k2 with issued := mapPut 0 k2.issued x.ch x.ident, nextUid := x.uid + 1,
              copies := k2.copies ++ [{ x1 with board := { x1.board with ord := ord } }] })
  if els = [] ∧ x.rel = false ∧ (x.ben = false ∨ x.home = c) then finishCopy p3 cx.now c x1 false else p3

/-- CPY (R212): the checks of R216, the byte addition, the copy. -/
def cpy (f : Fields) (cx : Cx) (p : Pkg) : Eff :=
  let k := partOf p cx.core
  let sl := slotOf k cx.slot
  let b := bDesc f.b
  let os := blockReg sl 0 b
  let od := blockReg sl 1 b
  let w := blockReg sl 2 b
  let xf := fld f.md 6 3
  let ben := bit w 29
  let off := fld w 0 17
  match entryFor k (opdLay f.d) od [0, 1, 2], entryFor k (opdLay f.a) os [0, 1, 2] with
  | .error t, _ => .trap t
  | _, .error t => .trap t
  | .ok d, .ok s =>
    if 16 ≤ (k.copies.filter (fun x => decide (x.ch = fld w 32 2))).length then .stay p
    else match cpyChecks cx d s (opdLay f.d) (opdLay f.a) od os xf ben off (BitVec.ofNat 32 (fld (blockReg sl 3 b) 0 32)) with
      | some t => .trap t
      | none =>
        let obj : List Span := if ben ∧ fld w 17 12 = cx.core then [(off, off + 16)] else []
        if scrClear k obj obj = false then .busy p
        else match spansBad k obj with
          | some x => .trap (scrCheck x)
          | none => .done (cpyIssue p cx (cpyNew p cx f d s k.nextUid) (cpyEls d s od os xf))

def execCpy (f : Fields) (s : State) : Host.Outcome State Fault Refusal := issue (.cpy f) .lane0 cpy s

/-- CPYW (R219). -/
def cpyw (f : Fields) (cx : Cx) (p : Pkg) : Eff :=
  let k := partOf p cx.core
  let s := slotOf k cx.slot
  let ch := fld (opdScalar s f.a) 0 2
  let ident := fld (bScalar p cx.core s f.b) 0 48
  waitFor p cx (.copies ch ident) (waitHolds k (.copies ch ident)) false (fun _ => .done p)

def execCpyw (f : Fields) (s : State) : Host.Outcome State Fault Refusal := issue (.cpyw f) .lane0 cpyw s

/-- The object that a barrier instruction names (R224): offset and core; `own` where only the issuing core's may be. -/
def barObject (cx : Cx) (s : Slot) (f : Fields) (own : Bool) : Except Trap (Nat × Nat) :=
  let a := opdScalar s f.a
  let off := fld a 0 17
  let core := fld a 17 12
  if own ∧ core ≠ cx.core then .error (pairTrap cx 2)
  else if off % 16 ≠ 0 then .error (alignTrap off)
  else .ok (off, core)

/-- An instruction on an object of the own core: it waits for older accesses, and consumes no word in error (R114, R326). -/
def onObject (p : Pkg) (cx : Cx) (off : Nat) (writes : Bool) (act : Eff) : Eff :=
  let k := partOf p cx.core
  let obj : List Span := [(off, off + 16)]
  if scrClear k obj (if writes then obj else []) = false then .busy p
  else match spansBad k obj with
    | some w => .trap (scrCheck w)
    | none => act

/-- BARI (R223): the object is written whole. -/
def bari (f : Fields) (cx : Cx) (p : Pkg) : Eff :=
  let k := partOf p cx.core
  let s := slotOf k cx.slot
  match barObject cx s f true with
  | .error t => .trap t
  | .ok (off, _) =>
    let b := bScalar p cx.core s f.b
    if scrClear k [] [(off, off + 16)] = false then .busy p
    else
      let o : BarObj := ⟨0, fld b 0 16, 0, fld b 16 24, false, false, 0⟩
      let k1 := objWrite k cx.now off o
      .done (setPart p cx.core { k1 with badWords := k1.badWords.filter (fun w => decide (w ≠ off / 8 ∧ w ≠ off / 8 + 1)) })

def execBari (f : Fields) (s : State) : Host.Outcome State Fault Refusal := issue (.bari f) .lane0 bari s

/-- BARA (R223, R224). -/
def bara (f : Fields) (cx : Cx) (p : Pkg) : Eff :=
  let s := curSlot p cx
  match barObject cx s f false with
  | .error t => .trap t
  | .ok (off, core) =>
    let n := fld (bScalar p cx.core s f.b) 0 24
    if n = 0 then .done p
    else if core = cx.core then
      onObject p cx off true (.done (updPart p cx.core (fun k => objEvent k cx.now off (fun o => objArrive o n))))
    else match sendJournal p cx 4 p.regs.pkgnum core (homeAddr p.regs.pkgnum core off) 0 (.arrive off n) with
      | some p1 => .done p1
      | none => .stay p

def execBara (f : Fields) (s : State) : Host.Outcome State Fault Refusal := issue (.bara f) .lane0 bara s

/-- BART (R224): PHASE against B[15:0], written to the lanes of pD whose guard is true. -/
def bart (f : Fields) (cx : Cx) (p : Pkg) : Eff :=
  let k := partOf p cx.core
  let s := slotOf k cx.slot
  match barObject cx s f true with
  | .error t => .trap t
  | .ok (off, _) =>
    let b := fld (bScalar p cx.core s f.b) 0 16
    onObject p cx off false (.done (updPart p cx.core (fun k =>
      writePred k cx.slot (guardMask s f) (if (objOf k off).phase ≠ b then allTrue else 0) f.d)))

def execBart (f : Fields) (s : State) : Host.Outcome State Fault Refusal := issue (.bart f) .lanes bart s

/-- BARW (R224). -/
def barw (f : Fields) (cx : Cx) (p : Pkg) : Eff :=
  let k := partOf p cx.core
  let s := slotOf k cx.slot
  match barObject cx s f true with
  | .error t => .trap t
  | .ok (off, _) =>
    let b := fld (bScalar p cx.core s f.b) 0 16
    match holdOf p cx with
    | .wait w => if w.met then .done p else .hold p
    | _ => onObject p cx off false (waitFor p cx (.phase off b) (waitHolds k (.phase off b)) false (fun _ => .done p))

def execBarw (f : Fields) (s : State) : Host.Outcome State Fault Refusal := issue (.barw f) .lane0 barw s

/-- HWBAR (R225): the release, the arrival, and the wait for the last participant. -/
def hwbar (f : Fields) (cx : Cx) (p : Pkg) : Eff :=
  match holdOf p cx with
  | .wait w => if w.met then .done p else .hold p
  | _ =>
    let sc := fld f.md 4 3
    let (p1, ok) := releaseAt p cx sc false
    if ok = false then .push p1 (.push sc true [])
    else
      let w : Wait := ⟨.barrier sc, cx.now + (curSlot p cx).waitlim.toNat, false, 0⟩
      let p2 := barrierCheck (setHold (if sc = 6 then podBegin p1 cx.core else p1) cx (.wait w)) cx.now cx.core sc
      match holdOf p2 cx with
      | .wait v => if v.met then .done p2
        else if (curSlot p cx).waitlim = 0 then .trap (waitTrap cx w)
        else .hold (limitMonitors p2 cx.now cx.core)
      | _ => .hold p2

def execHwbar (f : Fields) (s : State) : Host.Outcome State Fault Refusal := issue (.hwbar f) .lane0 hwbar s

/-- The mangle of a core's block has a merge pending: one out of an M0 of the block (R16, R17). -/
def manglePending (p : Pkg) (c : Nat) : Bool :=
  (List.range 16).any (fun i => let m := instOf p 0 (blockOf c * 16 + i); m.merging && m.stall.isNone)

/-- The number of elements of a list: from its cursor to its extent (R228). -/
def listLen (e : Bits512) : Nat := ((layExt e 0 : Int) - layCur e 0).toNat

/-- The elements of a list, under the edge rule and R137. -/
def listEls (e : Bits512) (n : Nat) (write : Bool) : Except Trap (List El) :=
  checkEls e 0 n write (elemIndex e 0) (List.range (listLen e))

def listSpans (e : Bits512) : List Span := sizeSpans e 0 [listLen e, 1, 1, 1]

/-- The byte range of a list's elements, from the first byte to the last (R228; log 39). -/
def listRange (e : Bits512) (els : List El) : List Span := addrRange (tySize (layType e)) (elAddrs e els)

/-- The entry of an SMRG operand (R228). -/
def listEntry (k : Part) (n : Nat) : Except Trap Bits512 := seamEntry k n [6, 4, 7, 0, 3] 1

/-- SMRG (R228): the checks, and the command. -/
def smrg (f : Fields) (cx : Cx) (p : Pkg) : Eff :=
  let k := partOf p cx.core
  let s := slotOf k cx.slot
  let nd := opdLay f.d
  let na := opdLay f.a
  let nb := opdLay (bDesc f.b)
  match allOk [listEntry k nd, listEntry k na, listEntry k nb] with
  | .error t => .trap t
  | .ok es =>
    let d := es.getD 0 0
    let a := es.getD 1 0
    let b := es.getD 2 0
    if layType d ≠ layType a ∨ layType d ≠ layType b then .trap (pairTrap cx 4)
    else match allOk [listEls d nd true, listEls a na false, listEls b nb false] with
      | .error t => .trap t
      | .ok ls =>
        let rs := listSpans a ++ listSpans b
        let ws := listSpans d
        if spansMeet (listRange a (ls.getD 1 []) ++ listRange b (ls.getD 2 [])) (listRange d (ls.getD 0 [])) then .trap (bareTrap causeBounds cx)
        else
          let (ord, k1) := takeOrd k
          let x : SmrgCmd := ⟨fld f.md 0 2, d, a, b, asidOf k, teamNoOf k, cx.slot, s.ctx, s.pc, manglePending p cx.core, ⟨ord, rs, ws⟩⟩
          .done (setPart p cx.core { k1 with smrgq := k1.smrgq ++ [x] })

def execSmrg (f : Fields) (s : State) : Host.Outcome State Fault Refusal := issue (.smrg f) .lane0 smrg s

/-- The values of a list (R136, R228). -/
def listVals (k : Part) (e : Bits512) : List Int :=
  match listEls e 0 false with
  | .error _ => []
  | .ok els => els.map (fun x => match x.2 with
    | some idx =>
      let v := scrNat k (elemAddr e idx).toNat (tySize (layType e))
      if tySigned (layType e) then asInt (8 * tySize (layType e)) v else v
    | none => 0)

/-- MRG of R228. -/
def mergeLists : List Int → List Int → List Int
  | [], ys => ys
  | xs, [] => xs
  | x :: xs, y :: ys => if x ≤ y then x :: mergeLists xs (y :: ys) else y :: mergeLists (x :: xs) ys

/-- UNION of R228. -/
def uniteLists : List Int → List Int → List Int
  | [], ys => ys
  | xs, [] => xs
  | x :: xs, y :: ys =>
    if x < y then x :: uniteLists xs (y :: ys)
    else if y < x then y :: uniteLists (x :: xs) ys
    else x :: uniteLists xs ys

/-- ISECT of R228. -/
def meetLists : List Int → List Int → List Int
  | [], _ => []
  | _, [] => []
  | x :: xs, y :: ys =>
    if x < y then meetLists xs (y :: ys)
    else if y < x then meetLists (x :: xs) ys
    else x :: meetLists xs ys

def rises : List Int → Bool
  | x :: y :: rest => decide (x ≤ y) && rises (y :: rest)
  | _ => true

/-- What SMRG emits (R228); of unsorted lists ISECT gives some of the values common to both (R229; log 12). -/
def smrgOut (mode free : Nat) (xs ys : List Int) : List Int :=
  match mode with
  | 0 => mergeLists xs ys
  | 2 => uniteLists xs ys
  | _ =>
    if rises xs && rises ys then meetLists xs ys
    else ((xs.zipIdx).filter (fun x => ys.contains x.1 && Config.isectPick free x.2)).map (·.1)

/-- Writes %SMRES of the slot that issued a command, where its context still exists (R229). -/
def setSmres (k : Part) (slot ctx : Nat) (v : Word) : Part :=
  let n := slotNow k slot ctx
  let s := slotOf k n
  if s.live && decide (s.ctx = ctx) then setSlot k n { s with smres := v }
  else { k with moved := k.moved.map (fun m => if m.sl.ctx = ctx then { m with sl := { m.sl with smres := v } } else m) }

/-- The command performed: the core and its result word (R228, R229). -/
def runSmrg (k : Part) (now free : Nat) (x : SmrgCmd) : Part :=
  let cap := listLen x.d
  let out := smrgOut x.mode free (listVals k x.a) (listVals k x.b)
  let sz := tySize (layType x.d)
  let els := match listEls x.d 0 true with
    | .ok els => els
    | .error _ => []
  let k1 := ((out.take cap).zip els).foldl (fun q y => match y.2.2 with
    | some idx => scrWrite q now (elemAddr x.d idx).toNat (leBytes sz (wrapInt (8 * sz) y.1))
    | none => q) k
  setSmres k1 x.slot x.ctx (BitVec.ofNat 64 (min cap out.length + b2n (decide (cap < out.length)) * 2 ^ 32))

/-- A word in error that a command would consume: one of an element of its lists (R326). -/
def smrgBad (k : Part) (x : SmrgCmd) : Option Nat :=
  let spans := fun (e : Bits512) => match listEls e 0 false with
    | .error _ => []
    | .ok els => (elAddrs e els).map (fun a => (a.toNat, a.toNat + tySize (layType e)))
  if k.badWords = [] then none else spansBad k (spans x.a ++ spans x.b)

/-- SMRG_COMPLETE (R228, R229): the oldest command, in its turn among the scratchpad accesses; a merge that is pending on the
mangle makes it wait (R17). A word in error is reported in the slot that issued it (R326). -/
def completeSmrg (p : Pkg) (cx : Cx) (c : Nat) : Pkg :=
  let k := partOf p c
  match k.smrgq with
  | [] => p
  | x :: rest =>
    if x.waiting || !engineMay k x.board || (coreOf p c).switching then p
    else if manglePending p c then setPart p c { k with smrgq := { x with waiting := true } :: rest }
    else match smrgBad k x with
      | some w => (match raiseInSlot (setPart p c { k with smrgq := rest }) cx.now c x.slot x.ctx x.asid x.ioff (scrCheck w) with
        | some q => q
        | none => p)
      | none => { setPart p c (runSmrg { k with smrgq := rest } cx.now p.freeNo x) with freeNo := p.freeNo + 1 }

def execSmrgComplete (core : Nat) (s : State) : Host.Outcome State Fault Refusal :=
  eventStep (fun cx p => completeSmrg p cx core) s

/-- SMRG_RESUME (R17). -/
def resumeSmrg (p : Pkg) (c : Nat) : Pkg :=
  if manglePending p c then p
  else updPart p c (fun k => { k with smrgq := k.smrgq.map (fun x => { x with waiting := false }) })

def execSmrgResume (core : Nat) (s : State) : Host.Outcome State Fault Refusal :=
  eventStep (fun _ p => resumeSmrg p core) s

/-- The ring that a bare ring operand names. -/
def ringNo : Opd → Nat
  | .qc q _ _ => q.toNat
  | .qp q _ _ => q.toNat
  | _ => 0

/-- The register that a class 1 descriptor names. -/
def vecNo : Opd → Nat
  | .v r => r.toNat
  | _ => 0

/-- QDEF (R230). -/
def qdef (f : Fields) (cx : Cx) (p : Pkg) : Eff :=
  let k := partOf p cx.core
  let s := slotOf k cx.slot
  let b := bScalar p cx.core s f.b
  let size := fld b 0 6
  let owner := fld b 6 4
  let q := ringNo f.d
  let base := vecNo f.a
  let put := fun (r : Ring) =>
    Eff.done (updPart p cx.core (fun k => updSlot k cx.slot (fun s => { s with rings := mapInsert s.rings q r })))
  if [1, 2, 4, 8, 16, 32].contains size = false ∨ regCount k.mode < base + size then .late (bareTrap causeOperand cx)
  else if bit b 10 = false then put (.own base size 0 0 0)
  else if owner = cx.slot then .late (bareTrap causeOperand cx)
  else match mapFind (slotOf k owner).rings q with
    | some (.own base' size' _ _ _) =>
      if base' = base ∧ size' = size then put (.att owner (slotOf k owner).ctx) else .late (bareTrap causeOperand cx)
    | _ => .late (bareTrap causeOperand cx)

def execQdef (f : Fields) (s : State) : Host.Outcome State Fault Refusal := issue (.qdef f) .lane0 qdef s

/-- Moves a pointer of a ring (R231): n slots consumed, or published. -/
def moveRing (publish : Bool) (f : Fields) (cx : Cx) (p : Pkg) : Eff :=
  let k := partOf p cx.core
  match ringView k cx.slot (ringNo f.d) with
  | none => .stay p
  | some v =>
    let n := (bScalar p cx.core (slotOf k cx.slot) f.b).toNat
    if (if publish then v.size - v.f else v.f) < n then .late (bareTrap causeOperand cx)
    else
      let r : Ring := if publish then .own v.base v.size v.c ((v.p + n) % v.size) (v.f + n)
        else .own v.base v.size ((v.c + n) % v.size) v.p (v.f - n)
      .done (updPart p cx.core (fun k => updSlot k v.owner (fun s => { s with rings := mapInsert s.rings (ringNo f.d) r })))

/-- QADV (R231). -/
def execQadv (f : Fields) (s : State) : Host.Outcome State Fault Refusal := issue (.qadv f) .lane0 (moveRing false) s

/-- QPUB (R231). -/
def execQpub (f : Fields) (s : State) : Host.Outcome State Fault Refusal := issue (.qpub f) .lane0 (moveRing true) s

/-- QCNT (R231). -/
def qcnt (f : Fields) (cx : Cx) (p : Pkg) : Eff :=
  match ringView (partOf p cx.core) cx.slot (ringNo f.a) with
  | none => .stay p
  | some v => .done (updPart p cx.core (fun k => writeScalar k cx.slot (BitVec.ofNat 64 v.f) f.d))

def execQcnt (f : Fields) (s : State) : Host.Outcome State Fault Refusal := issue (.qcnt f) .lane0 qcnt s

/-- FWD: the bundles that carry forward (R233). -/
def linkFwd (l : Link) : Nat := (l.bundles.filter (·.fwd)).length

/-- A bundle of the link is in dead time (R234). -/
def linkBusy (l : Link) (now : Nat) : Bool :=
  l.bundles.any (fun b => match b.dead with
    | some t => decide (now < t)
    | none => false)

/-- What LNSTAT reads (R237). -/
def linkStatus (l : Link) (now : Nat) : Word :=
  BitVec.ofNat 64 (packFields [(4, linkFwd l), (5, l.target), (3, 0), (4, l.queue.length), (1, b2n (linkBusy l now)),
    (1, b2n l.demand), (1, b2n l.refused), (1, 0), (5, l.short), (7, 0), (16, l.turns.toNat), (16, 0)])

/-- The meaning of an instruction is reached: the slot stands at it, its checks pass and its guard is true. -/
def reaches (p : Pkg) (cx : Cx) (i : Instr) (code : Nat) (f : Fields) : Bool :=
  let s := slotOf (partOf p cx.core) cx.slot
  s.live && fresh s.hold && decide (s.pc + 12 < textSizeOf p cx.core) &&
    (match attempt p cx i code f .lane0 (fun _ p => .gone p) with
    | .gone _ => true
    | _ => false)

/-- A link's queue takes a command, or the command is discarded (R234). -/
def queueTurn (l : Link) (allowed : Bool) (b : Word) : Link :=
  if allowed then { l with queue := l.queue ++ [⟨fld b 0 5, bit b 5⟩] } else { l with refused := true }

/-- LNTURN (R234): a link's turn queue of eight. -/
def execLnturn (f : Fields) (s : State) : Host.Outcome State Fault Refusal :=
  let cx := cxOf s
  let k := partOf s.pkg cx.core
  let sl := slotOf k cx.slot
  let n := fld (opdScalar sl f.a) 0 2
  let l := s.site.links.getD n linkReset
  let allowed := supOf k || (s.pkg.regs.lnuser >>> n) % 2 = 1
  let room := !allowed || decide (l.queue.length < 8)
  let site := if room && reaches s.pkg cx (.lnturn f) 0x12C f then
      { s.site with links := s.site.links.set n (queueTurn l allowed (bScalar s.pkg cx.core sl f.b)) } else s.site
  .next { s with site := site,
                 pkg := issueP s.pkg cx (.lnturn f) 0x12C f .lane0 (fun _ p => if room then .done p else .stay p) }

/-- LNSTAT (R237). -/
def execLnstat (f : Fields) (s : State) : Host.Outcome State Fault Refusal :=
  issue (.lnstat f) .lane0 (fun f cx p =>
    let l := s.site.links.getD (fld (opdScalar (curSlot p cx) f.a) 0 2) linkReset
    .done (updPart p cx.core (fun k => writeScalar k cx.slot (linkStatus l cx.now) f.d))) s

end Sys2Proof.Machine
end

