-- ==== Sys2Proof/Machine/Task.lean ====
section
/-!
DEFINITION. Tasks: continuation records and queues (R251, R256 to R258), START, SPAWN, JOIN, TEXIT, WAIT, WAKE, SLEEP, TEAMK,
REPART (R266 to R273), the distributor's events (R257, R258) and the end of a team (R250).
-/
namespace Sys2Proof.Machine

/-- A context that is moved out is tied to its slot (R263). -/
def movedTied (k : Part) (m : Moved) : Bool :=
  decide (m.sl.kind = .started) || decide (m.sl.rings ≠ []) ||
    k.slots.any (fun e => e.2.rings.any (fun r => match r.2 with
      | .att _ ctx => decide (ctx = m.sl.ctx)
      | _ => false))

/-- The helper slots of a team (R248, R249). -/
def helperSlots (k : Part) : List Nat :=
  match k.team with
  | some t => (List.range (min t.slots (slotCount k.mode))).filter (fun n => decide (0 < n) && decide (n ≠ errandSlot k.mode))
  | none => []

/-- A helper slot is idle (R249). -/
def slotIdle (c : Core) (n : Nat) : Bool :=
  !(slotOf c.part n).live && !c.part.moved.any (fun m => decide (m.slotNo = n) && movedTied c.part m) &&
    (match c.sel with
      | some r => decide (r.slot ≠ n)
      | none => true)

def lowestIdle (c : Core) : Option Nat := (helperSlots c.part).find? (slotIdle c)

/-- An ask that stands for a slot that is no longer idle passes to another or is withdrawn (R257). -/
def fixAsk (p : Pkg) (c : Nat) : Pkg :=
  updCore p c (fun x => match x.ask with
    | some n => if (helperSlots x.part).contains n && slotIdle x n then x else { x with ask := lowestIdle x }
    | none => x)

/-- A context starts in a slot with zero vector registers (R252, R266), four cycles after the slot's last issue or later (R253); the
serial number is the model's own. -/
def loadContext (k : Part) (n : Nat) (s : Slot) : Part :=
  let rc := regCount k.mode
  let vregs := k.vregs.filter (fun e => decide (e.1 < n * rc) || decide (n * rc + rc ≤ e.1))
  { setSlot k n { s with live := true, ctx := k.nextCtx, readyAt := (slotOf k n).readyAt } with
      vregs := vregs, nextCtx := k.nextCtx + 1,
      badVregs := k.badVregs.filter (fun r => decide (r < n * rc) || decide (n * rc + rc ≤ r)) }

/-- The target slot of START is one of the team's helper slots (R266). -/
def startTarget (p : Pkg) (cx : Cx) (f : Fields) : Option Nat :=
  let k := partOf p cx.core
  let t := fld (opdScalar (slotOf k cx.slot) f.a) 0 4
  if cx.slot = 0 ∧ (helperSlots k).contains t then some t else none

/-- The entry that START names (R266). -/
def startEntry (p : Pkg) (cx : Cx) (f : Fields) : Int :=
  match f.b with
  | .desc o => (opdScalar (curSlot p cx) o).toNat
  | _ => (curSlot p cx).pc + bInt p cx f

/-- The helper that START loads (R266). -/
def startedSlot (s : Slot) (t pc now : Nat) : Slot :=
  let regs := setSreg (setSreg s 0 (BitVec.ofNat 64 t)) 31 0
  { slotReset with kind := .started, pc := pc, sregs := regs.sregs, fpmode := s.fpmode, waitlim := s.waitlim,
                   loadedAt := now }

/-- START (R266). -/
def start (f : Fields) (cx : Cx) (p : Pkg) : Eff :=
  match startTarget p cx f with
  | none => .late (bareTrap causeIllegal cx)
  | some t =>
    let e := startEntry p cx f
    if targetOk (textSizeOf p cx.core) e = false then .late (alignTrap e)
    else if slotIdle (coreOf p cx.core) t then
      .done (fixAsk (updPart p cx.core (fun k => loadContext k t (startedSlot (slotOf k cx.slot) t e.toNat cx.now))) cx.core)
    else match holdOf p cx with
      | .wait w => .hold (limitMonitors (setHold p cx (.wait { w with met := false })) cx.now cx.core)
      | _ => startWait p cx (.startSlot t)

def execStart (f : Fields) (s : State) : Host.Outcome State Fault Refusal := issue (.start f) .lane0 start s

/-- Fields of a continuation record (R251). -/
def recPrio (r : BitVec 256) : Nat := fld r 0 3
def recCode (r : BitVec 256) : Nat := fld r 64 64
def recAsid (r : BitVec 256) : Nat := fld r 23 9
def recCore (r : BitVec 256) : Nat := fld r 11 12
def recLaunch (r : BitVec 256) : Bool := bit r 4

/-- The target cluster of a record, and its queue scope from a core (R251). -/
def recCluster (c : Nat) (r : BitVec 256) : Nat := if bit r 6 then clusterNo c else fld r 7 4
def recScope (c : Nat) (r : BitVec 256) : Nat :=
  let t := recCluster c r
  if t = clusterNo c then 3 else if t / 4 = dieOf c then 4 else 5

/-- The copy that SPAWN or JOIN enqueues (R251). -/
def taskCopy (r : BitVec 256) (asid : Nat) : BitVec 256 := setFld (setFld (setFld r 3 2 0) 11 12 0) 23 9 asid

def setQueue (p : Pkg) (cl prio : Nat) (q : List QRec) : Pkg :=
  let k := clusterOf p cl
  setCluster p cl { k with queues := mapPut [] k.queues prio q }

def enqueue (p : Pkg) (now cl : Nat) (r : BitVec 256) : Pkg :=
  setQueue p cl (recPrio r) (queueOf p cl (recPrio r) ++ [⟨r, now⟩])

/-- The result of SPAWN or JOIN in each lane of pD whose guard is true (R265). -/
def writeResult (p : Pkg) (cx : Cx) (f : Fields) (v : Bool) : Pkg :=
  updPart p cx.core (fun k => writePred k cx.slot (guardMask (slotOf k cx.slot) f) (if v then allTrue else 0) f.d)

/-- SPAWN (R267). -/
def spawn (f : Fields) (cx : Cx) (p : Pkg) : Eff :=
  let k := partOf p cx.core
  let off := fld (bScalar p cx.core (slotOf k cx.slot) f.b) 0 17
  if off % 32 ≠ 0 then .trap (alignTrap off)
  else if scrClear k [(off, off + 32)] [] = false then .busy p
  else match spansBad k [(off, off + 32)] with
    | some w => .trap (scrCheck w)
    | none =>
      let r : BitVec 256 := BitVec.ofNat 256 (scrNat k off 32)
      let code := recCode r
      if 2 ^ 32 ≤ code ∨ code % 12 ≠ 0 ∨ textSizeOf p cx.core ≤ code then .late (alignTrap code)
      else
        let (p1, ok) := releaseAt p cx (recScope cx.core r) false
        if ok = false then .push p1 (.push (recScope cx.core r) true [])
        else
          let cl := recCluster cx.core r
          if queueFull p1 cl (recPrio r) then .done (writeResult p1 cx f false)
          else .done (writeResult (enqueue p1 cx.now cl (taskCopy r (asidOf k))) cx f true)

def execSpawn (f : Fields) (s : State) : Host.Outcome State Fault Refusal := issue (.spawn f) .lane0 spawn s

/-- The wait at which a slot stands. -/
def standingWait (h : Hold) : Option Wait :=
  match h with
  | .wait w => some w
  | _ => none

/-- What the record held reaches the core as a reply, where its instance is beyond the core (R334). -/
def logJoin (p : Pkg) (cx : Cx) (lvl key : Nat) : Pkg :=
  if lvl = 0 then p else logReads p cx.now cx.core 22 [keyGran key]

/-- What a JOIN that has come to its instance comes to (R268). -/
inductive JoinOut where
  | waits (p : Pkg)
  /-- the counter is 1 and the target queue is full: its cluster and priority -/
  | full (cl prio : Nat)
  /-- the record holds an uncorrectable error (R326) -/
  | bad
  | did (p : Pkg) (result : Bool)
  deriving DecidableEq, Repr, Inhabited

/-- Writes the JOIN field of a record at level(S), as the record of a region (R172, R268); false while that waits. -/
def putJoin (p : Pkg) (cx : Cx) (s : Slot) (asid : Nat) (me : Shipped) (key j : Nat) : Pkg × Bool :=
  let q : Piece := ⟨0, BitVec.ofNat 32 0xF0, BitVec.ofNat 256 (j * 2 ^ 32)⟩
  let u := { ownRec p cx 0 4 false s.pc (coreOf p cx.core).postSeq q with asid := asid }
  if 0 < me.lvl ∧ deferredAt p cx.now me.lvl me.place (keyGran key) none then (p, false)
  else
    let (p1, ok) := roomFor p cx.now me.lvl me.place (postLimit s) [(key, u)] [key]
    if ok = false then (p1, false)
    else
      let p2 := evictInner (publishRegion p1 cx.now me.lvl me.place [(key, u)] [key]) cx.core me.lvl key
      (advanceSeq (decideContest p2 me) cx 1, true)

/-- The indivisible part of JOIN at level(S), in its turn among the regions there (R172, R173, R268). `d` says whether D is given. -/
def joinAt (p : Pkg) (cx : Cx) (s : Slot) (asid : Nat) (me : Shipped) (key : Nat) (d : Bool) : JoinOut :=
  let r : BitVec 256 := (combineFrom p cx.now cx.core me.lvl key).1
  let j := fld r 32 32
  let cl := recCluster cx.core r
  let put := fun (n : Nat) (v : Bool) (fin : Pkg → Pkg) => match putJoin p cx s asid me key n with
    | (p1, true) => JoinOut.did (fin p1) v
    | (p1, false) => .waits p1
  if regionAhead p me || readWaits p cx.now cx.core me.lvl key then .waits p
  else if combineBad p cx.now cx.core me.lvl key then .bad
  else if j = 0 then .did (decideContest p me) false
  else if j = 1 ∧ queueFull p cl (recPrio r) then (if d then put 0 true id else .full cl (recPrio r))
  else put (j - 1) false (fun q =>
    if j = 1 then enqueue q cx.now cl (setFld (taskCopy r asid) 32 32 0) else q)

/-- JOIN at its instance, since when it has come there: it is performed, waits there, or waits for a place in the queue (R260, R268). -/
def joinGo (p : Pkg) (cx : Cx) (f : Fields) (x : Xlat) (since lvl key : Nat) (w : Option Wait) : Eff :=
  let hold := Hold.joins since lvl key (decide (f.d ≠ .none)) w
  match shippedOf cx.core cx.slot { curSlot p cx with hold := hold } with
  | none => .stay p
  | some me =>
    match joinAt p cx (curSlot p cx) (asidOf (partOf p cx.core)) me key (decide (f.d ≠ .none)) with
    | .did q v => .done (writeResult (logJoin q cx lvl key) cx f v)
    | .bad => .trap (memCheck (32 * keyGran key))
    | .waits q => .hold (setHold (setCap q cx 0 [x]) cx hold)
    | .full cl prio => match w with
      | some w => .hold (limitMonitors (setHold (setCap p cx 0 [x]) cx (.wait { w with met := false })) cx.now cx.core)
      | none => startWait (setCap p cx 0 [x]) cx (.room cl prio)

/-- A wait that has not seen its condition by its deadline is over (R261). -/
def waitOver (p : Pkg) (cx : Cx) : Bool :=
  match holdOf p cx with
  | .wait w => !w.met && decide (w.deadline < cx.now)
  | _ => false

/-- The translation of JOIN's record: the one it has issued with, or a new one (R290). -/
def joinXlat (p : Pkg) (cx : Cx) (va : Nat) : XlOut :=
  match capOf (curSlot p cx) with
  | some (_, x :: _) => .hit x
  | _ => translate p cx va true

/-- JOIN (R268). -/
def join (f : Fields) (cx : Cx) (p : Pkg) : Eff :=
  let a := bScalar p cx.core (curSlot p cx) f.b
  let va := fld a 0 57
  let sc := fld a 61 3
  if va % 32 ≠ 0 then .trap (alignTrap va)
  else if 6 ≤ sc then .late (bareTrap causeIllegal cx)
  else if waitOver p cx then .hold p
  else match joinXlat p cx va with
    | .hit x =>
      if x.ovl.isSome then
        .trap (xlTrap causeAttribute 1 va (if x.size = 2 ^ 30 then 3 else if x.size = 2 ^ 21 then 4 else 5))
      else match holdOf p cx with
      | .joins since lvl key _ w => joinGo p cx f x since lvl key w
      | _ =>
        let scope := max sc 1
        let lvl := scopeLevel scope
        let key := storeKey x va
        let line := va / 128 * 128
        let (p1, ok) := releaseAt p cx scope false
        let (p2, ok2) := if ok then pushKeys p1 cx.now cx.core scope ((List.range 4).map (fun i => storeKey x (line + 32 * i)))
          else (p1, false)
        if ok2 = false then .push (setCap p2 cx 0 [x]) (.push scope true [])
        else if cx.later then
          .hold (setHold (setCap p2 cx 0 [x]) cx (.joins (cameAt p2 cx scope) lvl key (decide (f.d ≠ .none)) (standingWait (holdOf p cx))))
        else joinGo p2 cx f x (cameAt p2 cx scope) lvl key (standingWait (holdOf p cx))
    | o => missed p cx true o

def execJoin (f : Fields) (s : State) : Host.Outcome State Fault Refusal := issue (.join f) .lane0 join s

/-- A JOIN whose context has ended is still performed at its instance; one that would wait for a place in the queue is not (R268, R272). -/
def orphanJoin (p : Pkg) (cx : Cx) (o : Nat × Nat × Slot) (me : Shipped) (key : Nat) (d : Bool) : Pkg :=
  let gone := fun (q : Pkg) => { q with orphans := q.orphans.erase o }
  let asid := match o.2.2.cap with
    | some (_, x :: _) => x.asid
    | _ => 0
  match joinAt p cx o.2.2 asid me key d with
  | .did q _ => gone q
  | .waits q => q
  | .full _ _ => gone p
  | .bad =>
    let t := memCheck (32 * keyGran key)
    report (gone (logCheck p cx.now o.1 t)) cx.now { asyncReport o.1 asid t with tpc := o.2.2.pc, slot := o.2.1 }

/-- A region or a JOIN whose context has ended, in its turn (R172, R268, R272); a trap of it is reported. -/
def orphanRegion (p : Pkg) (cx : Cx) (o : Nat × Nat × Slot) : Pkg :=
  match shippedOf o.1 o.2.1 o.2.2 with
  | none => p
  | some me => match o.2.2.hold, o.2.2.region with
    | .joins _ _ key d _, _ => orphanJoin p cx o me key d
    | _, some r =>
      if regionAhead p me then p
      else (match performRegion p cx o.2.2 r with
        | .waits p1 => p1
        | .traps t => report { logCheck p cx.now o.1 t with orphans := p.orphans.erase o } cx.now
          { asyncReport o.1 r.xl.asid t with tpc := r.arbPc, slot := o.2.1 }
        | .performed p1 _ => { p1 with orphans := p1.orphans.erase o })
    | _, none => p

/-- REGION_EXECUTE (R172, R173): a shipped region whose turn it is. -/
def regionExecute (p : Pkg) (cx : Cx) (c n : Nat) : Pkg :=
  let s := slotOf (partOf p c) n
  let cx := { cx with core := c, slot := n }
  match s.hold, s.region with
  | .region _, some r =>
    (match shippedOf c n s with
    | none => p
    | some me =>
      if regionAhead p me then p
      else match performRegion p cx s r with
        | .waits p1 => p1
        | .traps t => takeTrap (logCheck p cx.now c t) cx.now c n t
        | .performed p1 st => updPart p1 c (fun k => updSlot k n (fun x => afterRegion x st)))
  | _, _ =>
    (match orphanOf p c n with
    | none => p
    | some o => orphanRegion p cx o)

def execRegionExecute (core slot : Nat) (s : State) : Host.Outcome State Fault Refusal :=
  eventStep (fun cx p => regionExecute p cx core slot) s

/-- TEXIT (R269): the context's outstanding weak loads complete before it retires, so that its registers hold what they loaded (R340). -/
def texit (f : Fields) (cx : Cx) (p : Pkg) : Eff :=
  let k := partOf p cx.core
  let s := slotOf k cx.slot
  if s.kind = .errand then .trap (bareTrap causeIllegal cx)
  else if k.journal.any (fun e => decide (e.2.ctx = s.ctx) && jAwaits e.2) then .stay p
  else if s.loads ≠ [] then .stay p
  else .gone (retireSlot (markIssued p cx f) cx.now cx.core cx.slot)

def execTexit (f : Fields) (s : State) : Host.Outcome State Fault Refusal := issue (.texit f) .lane0 texit s

/-- WAIT (R270). -/
def waitWord (f : Fields) (cx : Cx) (p : Pkg) : Eff :=
  let k := partOf p cx.core
  let s := slotOf k cx.slot
  let off := fld (opdScalar s f.a) 0 17
  let kind := WaitKind.word off (fld f.md 1 3) (bScalar p cx.core s f.b)
  if off % 8 ≠ 0 then .trap (alignTrap off)
  else match holdOf p cx with
    | .wait w => if w.met then .done p else .hold p
    | _ =>
      if scrClear k [(off, off + 8)] [] = false then .busy p
      else match spansBad k [(off, off + 8)] with
        | some w => .trap (scrCheck w)
        | none => waitFor p cx kind (waitHolds k kind) false (fun _ => .done p)

def execWait (f : Fields) (s : State) : Host.Outcome State Fault Refusal := issue (.wait f) .lane0 waitWord s

/-- WAKE (R271): a request through a journal entry. -/
def wake (f : Fields) (cx : Cx) (p : Pkg) : Eff :=
  let a := opdScalar (curSlot p cx) f.a
  let dst := fld a 0 12
  match sendJournal p cx 6 p.regs.pkgnum dst (homeAddr p.regs.pkgnum dst 0) 0 (.wake (fld a 12 4)) with
  | some p1 => .done p1
  | none => .stay p

def execWake (f : Fields) (s : State) : Host.Outcome State Fault Refusal := issue (.wake f) .lane0 wake s

/-- SLEEP (R271). A wait that the token has ended took the token then. -/
def sleep (f : Fields) (cx : Cx) (p : Pkg) : Eff :=
  match holdOf p cx with
  | .wait w => if w.met then .done p else .hold p
  | _ =>
    let b := fld (bScalar p cx.core (curSlot p cx) f.b) 0 48
    if (curSlot p cx).token then .done (updCur p cx (fun s => { s with token := false }))
    else if b = 0 then .done p
    else startWait p cx (.sleep (cx.now + b))

def execSleep (f : Fields) (s : State) : Host.Outcome State Fault Refusal := issue (.sleep f) .lane0 sleep s

/-- Removes every record of an ASID from every queue (R272). -/
def purgeQueues (p : Pkg) (asid : Nat) : Pkg :=
  let keep := fun (q : SMap (List QRec)) =>
    (q.map (fun x => (x.1, x.2.filter (fun r => decide (recAsid r.task ≠ asid))))).filter (fun x => decide (x.2 ≠ []))
  let clusters := p.clusters.map (fun e => (e.1, { e.2 with queues := keep e.2.queues }))
  { p with clusters := clusters.filter (fun e => decide (e.2 ≠ clusterReset)) }

/-- The cores that TEAMK affects (R272). -/
def teamkCores (p : Pkg) (asid core : Nat) (all : Bool) : List Nat :=
  let of := fun (c : Nat) => match (partOf p c).team with
    | some t => decide (t.asid = asid)
    | none => false
  (if all then mapKeys p.cores else [core]).filter of

/-- A TEAMK waits until the strong operations of the teams it has ended are performed; then it completes, or its own context retires (R272). -/
def teamkWait (p : Pkg) (cx : Cx) (cores : List Nat) (own : Bool) : Eff :=
  if p.orphans.any (fun o => cores.contains o.1) then
    (if own then .gone (setHold p cx (.kill cores own)) else .hold (setHold p cx (.kill cores own)))
  else if own then .gone (freeSlot p cx.now cx.core cx.slot)
  else .done p

/-- The teams that a TEAMK ends (R272): the issuing context's own team ends last, but for that context. -/
def teamkEnd (f : Fields) (cx : Cx) (p : Pkg) : Eff :=
  let a := opdScalar (curSlot p cx) f.a
  let asid := fld a 0 9
  let all := bit a 9
  let cores := teamkCores p asid (fld a 10 12) all
  let own := cores.contains cx.core
  let p1 := (cores.filter (fun c => decide (c ≠ cx.core))).foldl (fun q c => endTeam q cx.now c 2) (markIssued p cx f)
  let p2 := if own then endTeam p1 cx.now cx.core 2 (some cx.slot) else p1
  teamkWait (if all then latchRoom (purgeQueues p2 asid) cx.now else p2) cx cores own

/-- TEAMK (R272). -/
def teamk (f : Fields) (cx : Cx) (p : Pkg) : Eff :=
  match holdOf p cx with
  | .kill cores own => teamkWait p cx cores own
  | _ => teamkEnd f cx p

def execTeamk (f : Fields) (s : State) : Host.Outcome State Fault Refusal := issue (.teamk f) .lane0 teamk s

/-- The core is quiescent but for slot 0 (R273). -/
def quiescent (k : Part) : Bool :=
  k.slots.all (fun e => decide (e.1 = 0) || !e.2.live) && decide (k.moved = []) && decide (k.matq = []) && decide (k.accq = []) &&
    decide (k.copies = []) && decide (k.seamq = []) && decide (k.smrgq = []) && k.waiters.all (fun w => w.slot.isSome)

/-- The change of the partition mode (R273). -/
def changeMode (k : Part) (mode : Nat) : Part :=
  if mode = k.mode then k
  else
    let n := min (regCount k.mode) (regCount mode)
    let keep := fun (r : Nat × Ring) => match r.2 with
      | .own b sz _ _ _ => decide (b + sz ≤ regCount mode)
      | .att _ _ => false
    { updSlot k 0 (fun s => { s with rings := s.rings.filter keep }) with
        mode := mode, vregs := k.vregs.filter (fun e => decide (e.1 < n)),
        team := k.team.map (fun t => { t with slots := min t.slots (slotCount mode) }) }

/-- An ask whose slot the new mode lacks passes on (R257). A record selected for such a slot is bound to the lowest slot that can take it,
or goes back where there is none (DESIGN CHOICE, log 62). -/
def fixSelected (p : Pkg) (c : Nat) : Pkg :=
  let co := coreOf p c
  match co.sel with
  | none => fixAsk p c
  | some r =>
    if (helperSlots co.part).contains r.slot then p
    else match lowestIdle { co with sel := none } with
      | some n => updCore p c (fun x => { x with sel := some { r with slot := n } })
      | none => updCore (returnRecord p c r) c (fun x => { x with sel := none })

/-- REPART (R273): the handlers that arrived meanwhile run after it. -/
def repart (f : Fields) (cx : Cx) (p : Pkg) : Eff :=
  let k := partOf p cx.core
  let mode := fld (bScalar p cx.core (slotOf k cx.slot) f.b) 0 2
  if mode = 3 ∨ cx.slot ≠ 0 then .late (bareTrap causeIllegal cx)
  else if waitOver p cx then .hold p
  else if quiescent k then
    let p1 := setHold (fixSelected (setPart p cx.core (changeMode k mode)) cx.core) cx .none
    .done (runBuiltins (if mode = k.mode then p1 else holdFor p1 cx.core cx.slot 64) cx.now cx.core false)
  else match holdOf p cx with
    | .wait w => .hold (limitMonitors (setHold p cx (.wait { w with met := false })) cx.now cx.core)
    | _ => startWait p cx .quiet

def execRepart (f : Fields) (s : State) : Host.Outcome State Fault Refusal := issue (.repart f) .lane0 repart s

/-- TASK_ASK (R257): one ask, for the lowest idle helper slot. -/
def taskAsk (p : Pkg) (c : Nat) : Pkg :=
  updCore p c (fun x => if x.ask.isSome ∨ x.sel.isSome ∨ x.fenced.isSome ∨ x.switching then x else { x with ask := lowestIdle x })

def execTaskAsk (core : Nat) (s : State) : Host.Outcome State Fault Refusal := eventStep (fun _ p => taskAsk p core) s

/-- The oldest task record of an ASID in the highest priority queue that holds one (R257): priority and place. -/
def bestRecord (p : Pkg) (cl asid : Nat) : Option (Nat × Nat × QRec) :=
  [7, 6, 5, 4, 3, 2, 1, 0].findSome? (fun prio =>
    (((queueOf p cl prio).zipIdx).find? (fun x => decide (recAsid x.1.task = asid) && !recLaunch x.1.task)).map
      (fun x => (prio, x.2, x.1)))

/-- A core's ask finds a record. -/
def askServed (p : Pkg) (c : Nat) : Option (Nat × Nat × Nat × QRec) :=
  let co := coreOf p c
  match co.ask with
  | none => none
  | some slot => (bestRecord p (clusterNo c) (asidOf co.part)).map (fun r => (slot, r))

/-- The core whose ask the distributor serves next: in rotating order over the 256 cores (R257). -/
def nextAsk (p : Pkg) (cl : Nat) : Option Nat :=
  ((List.range 256).map (fun i => cl * 256 + ((clusterOf p cl).rot + i) % 256)).find? (fun c => (askServed p c).isSome)

/-- TASK_SELECT (R257). -/
def taskSelect (p : Pkg) (now c : Nat) : Pkg :=
  let cl := clusterNo c
  if nextAsk p cl = some c then
    match askServed p c with
    | none => p
    | some (slot, prio, i, r) =>
      let p1 := setQueue p cl prio ((queueOf p cl prio).eraseIdx i)
      let p2 := updCore p1 c (fun x => { x with ask := none, sel := some ⟨r.task, slot, prio, r.since⟩ })
      latchRoom (setCluster p2 cl { clusterOf p2 cl with rot := (c % 256 + 1) % 256 }) now
  else p

def execTaskSelect (core : Nat) (s : State) : Host.Outcome State Fault Refusal :=
  eventStep (fun cx p => taskSelect p cx.now core) s

/-- The state in which a task starts (R252). -/
def taskSlot (t : Team) (prio : Nat) (r : BitVec 256) (now : Nat) : Slot :=
  let s := setSreg (setSreg slotReset 1 (BitVec.ofNat 64 (fld r 128 64))) 2 (BitVec.ofNat 64 (fld r 192 64))
  { s with kind := .helper, pc := fld r 64 32, waitlim := t.waitlim, loadedAt := now, task := some (prio, r) }

/-- TASK_BIND (R252, R258): the core makes its next ask (R257). A gang switch does not undo the selection: the task is loaded, and saved
with the partition. -/
def taskBind (p : Pkg) (now c : Nat) : Pkg :=
  let co := coreOf p c
  match co.sel, co.part.team with
  | some r, some t =>
    if co.fenced.isSome then p
    else taskAsk (updCore p c (fun x => { x with sel := none, part := loadContext x.part r.slot (taskSlot t r.prio r.task now) })) c
  | _, _ => p

def execTaskBind (core : Nat) (s : State) : Host.Outcome State Fault Refusal :=
  eventStep (fun cx p => taskBind p cx.now core) s

/-- TASK_AGEING (R257). -/
def taskAgeing (p : Pkg) (now cl prio i : Nat) : Pkg :=
  let q := queueOf p cl prio
  match q[i]? with
  | none => p
  | some r =>
    if bit r.task 5 = false ∨ now < r.since + 64000 then p
    else if 7 ≤ prio ∨ queueFull p cl (prio + 1) then setQueue p cl prio (q.set i { r with since := now })
    else latchRoom (setQueue (setQueue p cl prio (q.eraseIdx i)) cl (prio + 1) (queueOf p cl (prio + 1) ++ [{ r with since := now }])) now

/-- The record with AGE that has waited longest at its priority in a cluster: since when, its priority and place. -/
def oldestAged (k : Cluster) : Option (Nat × Nat × Nat) :=
  let all := k.queues.flatMap (fun q => (q.2.zipIdx).filterMap (fun x => if bit x.1.task 5 then some (x.1.since, q.1, x.2) else none))
  match all with
  | [] => none
  | x :: rest => some (rest.foldl (fun b y => if y.1 < b.1 then y else b) x)

/-- Records of a cluster age in the order in which their 64,000 ticks end (R257). -/
def ageCluster (now cl : Nat) : Nat → Pkg → Pkg
  | 0, p => p
  | fuel + 1, p =>
    match oldestAged (clusterOf p cl) with
    | none => p
    | some (since, prio, i) =>
      if now < since + 64000 then p
      else ageCluster now cl fuel (taskAgeing p (if prio = 7 then since + (now - since) / 64000 * 64000 else since + 64000) cl prio i)

/-- Every ageing that is due has happened by now (R257). -/
def ageDue (p : Pkg) (now : Nat) : Pkg :=
  (mapKeys p.clusters).foldl (fun q cl =>
    ageCluster now cl (8 * (((clusterOf q cl).queues.map (fun x => x.2.length)).sum + 1)) q) p

def execTaskAgeing (cluster prio idx : Nat) (s : State) : Host.Outcome State Fault Refusal :=
  eventStep (fun cx p => taskAgeing p cx.now cluster prio idx) s

/-- Nothing of a core's team is left (R250). -/
def teamDone (p : Pkg) (c : Nat) : Bool :=
  let co := coreOf p c
  let k := co.part
  k.slots.all (fun e => !e.2.live || decide (e.2.kind = .errand)) && decide (k.moved = []) && co.sel.isNone &&
    (List.range 8).all (fun prio => (queueOf p (clusterNo c) prio).all (fun r =>
      recLaunch r.task || decide (recAsid r.task ≠ asidOf k)))

/-- TEAM_END (R250, R43): the team leaves its core; its copies and commands go on (R269), and a handler of it that runs on the errand
slot goes on to its AMRET (R208, R249). The work that waits for the errand slot is refused (log 34). -/
def teamEnd (p : Pkg) (now c : Nat) : Pkg :=
  match (partOf p c).team with
  | none => p
  | some t =>
    if t.started = false ∨ teamDone p c = false ∨ (coreOf p c).switching = true ∨ (coreOf p c).fenced.isSome then p
    else
      let p1 := reportPending (refuseWaiting p c) now c
      let runs := fun (k : Part) => k.slots.filter (fun e => e.2.live && decide (e.2.kind = .errand))
      let mine := fun (k : Part) (e : Nat × JEntry) => decide (e.2.team = t.no % 256) && decide (e.2.asid = t.asid) &&
        !(runs k).any (fun x => decide (x.2.ctx = e.2.ctx))
      let part := fun (k : Part) => { k with
        team := none, past := if runs k = [] then none else some t, journal := k.journal.filter (fun e => !mine k e), errands := [] }
      let p2 := updCore p1 c (fun x => { x with prevAsid := some t.asid, ask := none, part := part x.part })
      let p3 : Pkg := { p2 with groups := p2.groups.map (fun g =>
        if g.asid = t.asid ∧ g.gtag = t.gtag ∧ t.gtag ≠ 0 then { g with ended := g.ended ++ [c] } else g) }
      let p4 := (groupMembers p3 c t).foldl (fun q m => barrierCheckAll q now m) p3
      completionWord (reportFaults p4 now c t) now c t.asid t.done t.dvec t.den t.sup 1

def execTeamEnd (core : Nat) (s : State) : Host.Outcome State Fault Refusal :=
  eventStep (fun cx p => teamEnd p cx.now core) s

end Sys2Proof.Machine
end

