-- ==== Sys2Proof/Machine/System.lean ====
section
/-!
DEFINITION. The system and trap group: TRAP, BKPT, ERET (R315, R316), special registers (R300, R301), TLBINV, KEYSET, KEYKILL
(R302 to R304), merge faults (R322 to R324), the journal (R319, R320).
-/
namespace Sys2Proof.Machine

/-- B as a signed immediate; 0 where it is omitted (R315). -/
def trapImm (p : Pkg) (cx : Cx) (f : Fields) : Word := bScalar p cx.core (curSlot p cx) f.b

/-- TRAP (R315). -/
def execTrap (f : Fields) (s : State) : Host.Outcome State Fault Refusal :=
  issue (.trap f) .lane0 (fun f cx p => .trap (trapOf 0x0A 0 (trapImm p cx f) 0)) s

/-- The offset of a register of a core in the package register space (R355). -/
def coreReg (c k : Nat) : Nat := 0x100000 + 0x100 * c + 8 * k

/-- BKPT (R315): under debug hold the slot stops and the ports are told. -/
def bkpt (f : Fields) (cx : Cx) (p : Pkg) : Eff :=
  if (coreOf p cx.core).dbgHold then
    let p1 := setHold p cx .stopped
    .gone { p1 with portOut := p1.portOut ++ [(coreReg cx.core 7, some (cx.slot * 16 + 3))] }
  else .trap (trapOf 0x09 0 (trapImm p cx f) 0)

def execBkpt (f : Fields) (s : State) : Host.Outcome State Fault Refusal := issue (.bkpt f) .lane0 bkpt s

/-- ERET (R316). -/
def eret (_ : Fields) (cx : Cx) (p : Pkg) : Eff :=
  let s := curSlot p cx
  if s.handler = false then .trap (bareTrap causeIllegal cx)
  else .jump (updCur p cx returnFromTrap) s.tpc.toNat

def execEret (f : Fields) (s : State) : Host.Outcome State Fault Refusal := issue (.eret f) .lane0 eret s

/-- %SELF (R300). -/
def selfWord (p : Pkg) (cx : Cx) : Word :=
  let k := partOf p cx.core
  BitVec.ofNat 64 (packFields [(12, cx.core), (10, p.regs.pkgnum), (9, asidOf k), (4, cx.slot), (2, k.mode), (1, b2n (supOf k))])

/-- %TPEND (R312). -/
def tpendWord (k : Part) : Word :=
  BitVec.ofNat 64 (packFields ((List.range 4).map (fun i => (1, b2n (k.pend.any (fun t => decide (t.cause = 0x20 + i)))))))

/-- %JOCC (R312). -/
def joccWord (k : Part) : Word :=
  BitVec.ofNat 64 (packFields ((List.range 64).map (fun n => (1, b2n (mapFind k.journal n).isSome))))

/-- The merge-fault records that a context sees (R323). -/
def mfSeen (c : Core) : List MergeFault :=
  if supOf c.part then c.mfq else c.mfq.filter (fun m => decide (m.u.asid = asidOf c.part))

/-- The value of a special register (R300, R312). -/
def csrValue (p : Pkg) (cx : Cx) (n : Nat) : Word :=
  let c := coreOf p cx.core
  let k := c.part
  let s := slotOf k cx.slot
  match n with
  | 0x000 => BitVec.ofNat 64 cx.now
  | 0x001 => selfWord p cx
  | 0x002 => BitVec.ofNat 64 (p.regs.fterm % 2 ^ 32)
  | 0x010 => s.fpflags.zeroExtend 64
  | 0x011 => s.fpmode.zeroExtend 64
  | 0x012 => s.waitlim.zeroExtend 64
  | 0x013 => s.mmring.zeroExtend 64
  | 0x014 => s.sks
  | 0x015 => s.smres
  | 0x020 => BitVec.ofNat 64 (xdone k 0 % 2 ^ 48)
  | 0x021 => BitVec.ofNat 64 (xdone k 1 % 2 ^ 48)
  | 0x022 => BitVec.ofNat 64 (xdone k 2 % 2 ^ 48)
  | 0x023 => BitVec.ofNat 64 (xdone k 3 % 2 ^ 48)
  | 0x024 => mapGet 0 s.xlast 0
  | 0x025 => mapGet 0 s.xlast 1
  | 0x026 => mapGet 0 s.xlast 2
  | 0x027 => mapGet 0 s.xlast 3
  | 0x080 => c.mcap
  | 0x081 => c.scap
  | 0x082 => c.runq
  | 0x083 => c.gswtime
  | 0x084 => c.gswctl
  | 0x100 => s.tcause
  | 0x101 => s.tpc
  | 0x102 => s.tval
  | 0x103 => s.tinfo
  | 0x104 => mapGet 0 s.tscr 0
  | 0x105 => mapGet 0 s.tscr 1
  | 0x106 => mapGet 0 s.tscr 2
  | 0x107 => mapGet 0 s.tscr 3
  | 0x108 => k.tvec
  | 0x109 => tpendWord k
  | 0x10A => joccWord k
  | 0x10B => BitVec.ofNat 64 (c.mfq.filter (fun m => decide (m.u.asid = asidOf k))).length
  | 0x10C => s.tbody
  | _ => 0

/-- The number of a special register operand. -/
def csrNo : Opd → Nat
  | .csr n => n.toNat
  | _ => 0

/-- CSRR (R301): %SMRES waits for the slot's older SMRG (R229), %FPFLAGS for its loads in the scoreboard (R70). -/
def csrr (f : Fields) (cx : Cx) (p : Pkg) : Eff :=
  let n := csrNo f.a
  let k := partOf p cx.core
  if n = 0x015 ∧ k.smrgq.any (fun x => decide (x.ctx = (slotOf k cx.slot).ctx)) then .busy p
  else .done (updPart p cx.core (fun k => writeScalar k cx.slot (csrValue p cx n) f.d))

def execCsrr (f : Fields) (s : State) : Host.Outcome State Fault Refusal := issue (.csrr f) .lane0 csrr s

/-- The reserved bits of a special register, as ranges: lowest bit and width. -/
def csrReserved (n : Nat) : List (Nat × Nat) :=
  match n with
  | 0x010 => [(7, 57)]
  | 0x011 => [(5, 3), (9, 55)]
  | 0x012 => [(48, 16)]
  | 0x013 => [(8, 56)]
  | 0x014 => [(17, 15), (48, 16)]
  | 0x080 => [(41, 22)]
  | 0x081 => [(9, 52)]
  | 0x082 => [(52, 12)]
  | 0x084 => [(0, 12), (52, 9)]
  | 0x100 => [(24, 40)]
  | 0x108 => [(32, 31)]
  | _ => []

def reservedSet (n : Nat) (b : Word) : Bool := (csrReserved n).any (fun r => decide (fld b r.1 r.2 ≠ 0))

/-- A write of a register whose area is not wholly inside device memory is ignored and logged (R357, R332). -/
def areaOk (base len : Nat) : Bool := decide (base + len ≤ dramEnd)

/-- Bytes of a wait area (R264). -/
def runqBytes (b : Word) : Nat := 16 * 20480 + fld b 0 16 * 64 * 32

def writeRunq (p : Pkg) (now c : Nat) (b : Word) : Pkg :=
  if areaOk (fld b 16 36 * 65536) (runqBytes b) then updCore p c (fun x => { x with runq := b })
  else logEvent p now 0x0050 (coreSource c) [coreReg c 2, b.toNat]

/-- Writes %GSWCTL (R274): SAVED is read-only. -/
def writeGswctl (p : Pkg) (now c : Nat) (b : Word) : Pkg :=
  if areaOk (fld b 12 40 * 4096) (320 * 1024) then
    updCore p c (fun x => { x with gswctl := setFld (setFld (setFld b 52 9 0) 0 12 0) 62 1 (b2n (bit x.gswctl 62)) })
  else logEvent p now 0x0050 (coreSource c) [coreReg c 1, b.toNat]

/-- The write of a special register that passes its checks (R301). -/
def csrWriteTo (p : Pkg) (cx : Cx) (n : Nat) (b : Word) : Pkg :=
  let core := fun (g : Core → Core) => updCore p cx.core g
  let slot := fun (g : Slot → Slot) => updCur p cx g
  match n with
  | 0x010 => slot (fun s => { s with fpflags := b.truncate 7 })
  | 0x011 => slot (fun s => { s with fpmode := b.truncate 9 })
  | 0x012 => slot (fun s => { s with waitlim := b.truncate 48 })
  | 0x013 => slot (fun s => { s with mmring := b.truncate 8 })
  | 0x014 => slot (fun s => { s with sks := b })
  | 0x080 => core (fun c => { c with mcap := b })
  | 0x081 => core (fun c => { c with scap := b })
  | 0x082 => writeRunq p cx.now cx.core b
  | 0x083 => core (fun c => { c with gswtime := b })
  | 0x084 => writeGswctl p cx.now cx.core b
  | 0x100 => slot (fun s => { s with tcause := b })
  | 0x101 => slot (fun s => { s with tpc := b })
  | 0x102 => slot (fun s => { s with tval := b })
  | 0x103 => slot (fun s => { s with tinfo := b })
  | 0x104 => slot (fun s => { s with tscr := mapPut 0 s.tscr 0 b })
  | 0x105 => slot (fun s => { s with tscr := mapPut 0 s.tscr 1 b })
  | 0x106 => slot (fun s => { s with tscr := mapPut 0 s.tscr 2 b })
  | 0x107 => slot (fun s => { s with tscr := mapPut 0 s.tscr 3 b })
  | 0x108 => updPart p cx.core (fun k => { k with tvec := b })
  | 0x10C => slot (fun s => { s with tbody := b })
  | _ => p

/-- CSRW (R301). -/
def csrw (f : Fields) (cx : Cx) (p : Pkg) : Eff :=
  let n := csrNo f.d
  let b := bScalar p cx.core (curSlot p cx) f.b
  if reservedSet n b then .late (bareTrap causeIllegal cx)
  else .done (csrWriteTo p cx n b)

def execCsrw (f : Fields) (s : State) : Host.Outcome State Fault Refusal := issue (.csrw f) .lane0 csrw s

/-- Drops TLB entries, walkers' ASID-table copies, and results of walks on every core (R302); walks in progress look the tables
up when they end (R290). -/
def dropXlats (p : Pkg) (asids : Nat → Bool) (allVa : Bool) (va : Nat) : Pkg :=
  let keep := fun (x : Xlat) => !(asids x.asid && (allVa || (decide (x.va ≤ va) && decide (va < x.va + x.size))))
  let slot := fun (k : Part) (s : Slot) => if asids (asidOf k) && s.walkFault.isSome then { s with walkFault := none } else s
  let part := fun (k : Part) => { k with slots := k.slots.map (fun e => (e.1, slot k e.2)),
                                         moved := k.moved.map (fun m => { m with sl := slot k m.sl }) }
  let core := fun (c : Core) => { c with tlb := c.tlb.filter keep, part := part c.part }
  let cluster := fun (c : Cluster) => if allVa then { c with asids := c.asids.filter (fun e => !asids e.1) } else c
  { p with cores := p.cores.map (fun e => (e.1, core e.2)), clusters := p.clusters.map (fun e => (e.1, cluster e.2)) }

/-- TLBINV (R302). -/
def tlbinv (f : Fields) (cx : Cx) (p : Pkg) : Eff :=
  let a := opdScalar (curSlot p cx) f.a
  let b := bScalar p cx.core (curSlot p cx) f.b
  .done (dropXlats p (fun n => bit a 9 || decide (n = fld a 0 9)) (bit a 10) (fld b 0 57))

def execTlbinv (f : Fields) (s : State) : Host.Outcome State Fault Refusal := issue (.tlbinv f) .lane0 tlbinv s

/-- KEYSET (R303). -/
def keyset (f : Fields) (cx : Cx) (p : Pkg) : Eff :=
  let k := partOf p cx.core
  let s := slotOf k cx.slot
  let n := fld (opdScalar s f.a) 0 9
  let off := fld (bScalar p cx.core s f.b) 0 17
  let obj : List Span := [(off, off + 64)]
  if off % 64 ≠ 0 then .trap (alignTrap off)
  else if keyFull p n then .late (bareTrap causeAttribute cx)
  else if scrClear k obj obj = false then .busy p
  else match spansBad k obj with
    | some w => .trap (scrCheck w)
    | none =>
      let k1 := scrNat k off 32
      let k2 := scrNat k (off + 32) 32
      if k1 = k2 then .late (bareTrap causeAttribute cx)
      else
        let p1 := updPart p cx.core (fun k => scrWrite k cx.now off (leBytes 64 0))
        .done { p1 with keys := mapInsert p1.keys n (BitVec.ofNat 512 (k1 * 2 ^ 256 + k2)) }

def execKeyset (f : Fields) (s : State) : Host.Outcome State Fault Refusal := issue (.keyset f) .lane0 keyset s

/-- The run is unstalled, and its merge goes on: with the records it had taken, the stalled key's and those of the keys above it
(R324, R339). -/
def unstall (i : Inst) : Inst := { i with stall := none, merging := true }

/-- A fault is resolved: its record leaves its core's queue (R324). -/
def dequeueFault (p : Pkg) (now : Nat) (f : MergeFault) : Pkg :=
  queueWaiting (updCore p f.u.core (fun c => { c with mfq := c.mfq.filter (fun m => decide (m.fid ≠ f.fid)) })) now f.u.core

/-- A pending MERGE_FAULT of an empty queue is withdrawn (R304). -/
def withdrawMf (p : Pkg) (c : Nat) : Pkg :=
  updCore p c (fun x => if x.mfq = [] then
    { x with part := { x.part with pend := x.part.pend.filter (fun t => decide (t.cause ≠ 0x22)) } } else x)

/-- The records and floor copies of a tag leave a level place; a stall on one of them ends (R304). -/
def purgeInst (n : Nat) (i : Inst) : Inst :=
  let i1 := { i with run := i.run.filter (fun e => decide (keyTag e.1 ≠ n)),
                     copies := i.copies.filter (fun e => decide (e.1 % 1024 ≠ n)) }
  match i.stall with
  | some st => if keyTag st.fault.key = n then unstall i1 else i1
  | none => i1

/-- Records of a tag that still wait to arrive are refused (R304). -/
def purgeHold (n : Nat) (s : Slot) : Slot :=
  let keep := fun (r : Nat × Rec) => decide (keyTag r.1 ≠ n)
  let h := match s.hold with
    | .posting rs => .posting (rs.filter keep)
    | .strong sc since rs => .strong sc since (rs.filter keep)
    | .push sc rel rs => .push sc rel (rs.filter keep)
    | h => h
  let region := s.region.map (fun r => if r.xl.tag = n then
    { r with ops := r.ops.filter (fun o => match o.i with
      | .st _ => false
      | _ => true) } else r)
  { s with hold := h, region := match s.hold with
      | .region _ => region
      | _ => s.region }

def purgePart (n : Nat) (k : Part) : Part :=
  let copy := fun (x : Copy) => { x with todo := x.todo.filter (fun r => decide (keyTag r.1 ≠ n)) }
  let slot := fun (s : Slot) => { s with cap := s.cap.filter (fun c => !c.2.any (fun x => decide (x.tag = n))) }
  { k with slots := k.slots.map (fun e => (e.1, slot (purgeHold n e.2))), copies := k.copies.map copy,
           moved := k.moved.map (fun m => { m with sl := slot m.sl }) }

/-- The faults whose record a KEYKILL discards. -/
def faultsOfTag (p : Pkg) (n : Nat) : List MergeFault :=
  p.insts.filterMap (fun e => match e.2.stall with
    | some st => if keyTag st.fault.key = n then some st.fault else none
    | none => none)

/-- KEYKILL (R304). -/
def keykill (f : Fields) (cx : Cx) (p : Pkg) : Eff :=
  let n := fld (opdScalar (curSlot p cx) f.a) 0 9
  let p1 := dropXlats p (fun a => decide (a = n)) true 0
  if keyFull p n = false then .done p1
  else
    let faults := faultsOfTag p1 n
    let insts := p1.insts.map (fun e => (e.1, purgeInst n e.2))
    let p2 : Pkg := { p1 with
      insts := insts
      portWrites := p1.portWrites.filter (fun w => decide (keyTag w.key ≠ n))
      orphans := p1.orphans.map (fun o => (o.1, o.2.1, purgeHold n o.2.2))
      cores := p1.cores.map (fun e => (e.1, { e.2 with part := purgePart n e.2.part }))
      keys := mapErase p1.keys n
      keyGen := mapPut 0 p1.keyGen n (mapGet 0 p1.keyGen n + 1) }
    .done (faults.foldl (fun q m => withdrawMf (dequeueFault q cx.now m) m.u.core) p2)

def execKeykill (f : Fields) (s : State) : Host.Outcome State Fault Refusal := issue (.keykill f) .lane0 keykill s

/-- The 64-byte image of a record (R138). -/
def recImage (r : Rec) (gran : Nat) : Nat :=
  packFields [(256, r.payload.toNat), (32, r.mask.toNat), (47, gran), (1, 0), (3, r.opr), (4, r.ty), (1, b2n r.x), (9, r.asid),
    (12, r.core), (4, r.slot), (8, r.team), (1, b2n r.iov), (6, 0), (32, r.ioff), (32, r.seq.toNat), (10, r.pkg), (54, 0)]

/-- What MFAULT delivers (R323). -/
def mfaultImage (f : MergeFault) (queued : Nat) : VReg :=
  BitVec.ofNat 1024 (packFields [(512, recImage f.u (keyGran f.key)), (256, f.dest.toNat), (32, f.fid.toNat), (2, f.lvl),
    (1, b2n f.mc), (12, f.inst), (17, 0), (5, queued)])

/-- MFAULT (R323). -/
def mfault (f : Fields) (cx : Cx) (p : Pkg) : Eff :=
  let k := partOf p cx.core
  let l := mfSeen (coreOf p cx.core)
  let v := match l with
    | [] => 0
    | m :: _ => mfaultImage m l.length
  .done (writeVec p cx.core cx.slot (guardMask (slotOf k cx.slot) f) v f.d)

def execMfault (f : Fields) (s : State) : Host.Outcome State Fault Refusal := issue (.mfault f) .lanes mfault s

/-- The stalled fault with an identifier, by its level place. -/
def faultByFid (p : Pkg) (fid : Nat) : Option MergeFault :=
  p.insts.findSome? (fun e => match e.2.stall with
    | some st => if st.fault.fid.toNat = fid then some st.fault else none
    | none => none)

/-- The chain of the stalled key after a resolution (R324): DROP 0, QUIET 1, REPLACE 2. -/
def resolveChain (mode : Nat) (u : Rec) (v : Granule) (c : List Rec) : List Rec :=
  match mode with
  | 1 => c.map (fun r => if r = u then { r with quiet := true } else r)
  | 2 => c.map (fun r => if r = u then { r with payload := v, bad := false } else r)
  | _ => c.erase u

/-- MRES (R324). -/
def mres (f : Fields) (cx : Cx) (p : Pkg) : Eff :=
  let k := partOf p cx.core
  let s := slotOf k cx.slot
  let q := popSources p cx.core f
  match faultByFid p (fld (opdScalar s f.a) 0 32) with
  | none => .done q
  | some m =>
    if supOf k = false ∧ m.u.asid ≠ asidOf k then .done q
    else
      let mode := if m.mc ∧ fld f.md 0 2 = 1 then 0 else fld f.md 0 2
      let v : Granule := (readB p cx.core cx.slot f).truncate 256
      let i := instOf q m.lvl m.inst
      let q1 := setInst q m.lvl m.inst (unstall (setChain i m.key (resolveChain mode m.u v (chainOf i m.key))))
      .done (dequeueFault q1 cx.now m)

def execMres (f : Fields) (s : State) : Host.Outcome State Fault Refusal := issue (.mres f) .lane0 mres s

/-- The 16-byte image of a journal entry (R317). -/
def entryImage (e : JEntry) : Nat :=
  packFields [(32, e.seq.toNat), (6, e.cause), (3, e.status), (3, e.kind), (22, e.ioff / 12), (4, e.slot), (8, e.team), (9, e.asid),
    (41, e.addr)]

/-- SJREAD (R319). -/
def sjread (f : Fields) (cx : Cx) (p : Pkg) : Eff :=
  let k := partOf p cx.core
  let s := slotOf k cx.slot
  let v : VReg := match mapFind k.journal (fld (opdScalar s f.a) 0 6) with
    | some e => if supOf k || decide (e.asid = asidOf k) then BitVec.ofNat 1024 (entryImage e + e.ioff % 2 ^ 32 * 2 ^ 128) else 0
    | none => 0
  .done (writeVec p cx.core cx.slot (guardMask s f) v f.d)

def execSjread (f : Fields) (s : State) : Host.Outcome State Fault Refusal := issue (.sjread f) .lanes sjread s

/-- The message of an entry as it is sent anew: a remote STSF waits until a new deadline (R205, R320). -/
def resent (p : Pkg) (cx : Cx) (pkg : Nat) (b : MsgBody) : MsgBody :=
  match b with
  | .putEmpty off size v _ req uid => .putEmpty off size v (sentDeadline p cx pkg) req uid
  | b => b

/-- Reissues an entry as of now (R320): a store takes new posting numbers, since the ones it had reserved are never carried (R342). -/
def reissue (p : Pkg) (cx : Cx) (n : Nat) (e : JEntry) : Pkg :=
  let k := partOf p cx.core
  match e.body with
  | .store ps _ _ _ =>
    let va := (ps.head?.map (·.va)).getD 0
    let seq := (coreOf p cx.core).postSeq
    let p1 := updCore p cx.core (fun c => { c with
      postSeq := seq + BitVec.ofNat 32 ps.length, part := jPut k n { e with status := 1, cause := 0, addr := va / 65536, seq := seq } })
    askWalk p1 cx va true (some e.uid)
  | .msg dst pkg b =>
    let b := resent p cx pkg b
    let p1 := setPart p cx.core (jPut k n { e with status := 2, cause := 0, code := 0, body := .msg dst pkg b })
    if reachable p pkg then sendPkg p1 cx.core pkg dst e.asid b else jFail p1 cx.now cx.core e.uid 4 0x21 0

/-- SJCLR (R320). -/
def sjclr (f : Fields) (cx : Cx) (p : Pkg) : Eff :=
  let k := partOf p cx.core
  let a := opdScalar (slotOf k cx.slot) f.a
  let n := fld a 0 6
  match mapFind k.journal n with
  | none => .done p
  | some e =>
    if supOf k = false ∧ e.asid ≠ asidOf k then .done p
    else if e.status = 5 then .done (setPart p cx.core (jErase k n))
    else if e.status = 3 ∨ e.status = 4 then
      if bit a 8 then .done (reissue p cx n e) else .done (setPart p cx.core (jErase k n))
    else .done p

def execSjclr (f : Fields) (s : State) : Host.Outcome State Fault Refusal := issue (.sjclr f) .lane0 sjclr s

/-- UNASSIGNED_ENCODING_ISSUE (R50, R51): the trap of a word that is no instruction, where it would issue; the PRIVILEGE check
comes before OPERAND_CLASS (R27). The trap is the slot's issue (R253). -/
def badWord (r : Reject) (cx : Cx) (p : Pkg) : Pkg :=
  let k := partOf p cx.core
  let s := slotOf k cx.slot
  if s.live = false ∨ fresh s.hold = false then p
  else
    let cause := match r with
      | .illegal => causeIllegal
      | .operandClass need => if hasRight k s need then causeOperand else causePrivilege
    takeTrap (updCore p cx.core (fun c => { c with
      last := cx.slot, alive := cx.now, part := updSlot c.part cx.slot (fun s => { s with readyAt := max s.readyAt (c.cycle + 4) }) }))
      cx.now cx.core cx.slot (bareTrap cause cx)

def execUnassignedEncodingIssue (r : Reject) (s : State) : Host.Outcome State Fault Refusal := eventStep (badWord r) s

end Sys2Proof.Machine
end

