-- ==== Sys2Proof/Machine/Net.lean ====
section
/-!
DEFINITION. Messages: their arrival and their answers (R117, R157 to R162, R205 to R211, R223, R271, R285, R297, R318, R366),
active-message handlers (R208), and what comes from other packages of the pod (R226, R361).
-/
namespace Sys2Proof.Machine

/-- The partition of an ASID on a core is being saved, or stands saved while no team of that ASID runs there (R275). -/
def switchedOut (p : Pkg) (core asid : Nat) : Bool :=
  let c := coreOf p core
  let other := match c.part.team with
    | some t => decide (t.asid ≠ asid)
    | none => true
  c.switching || (other && p.saves.any (fun e => decide (e.2.core = core) && decide (e.2.asid = asid)))

/-- A message of a partition that a gang switch is saving or has saved is held (R275). -/
def heldBack (p : Pkg) (m : Msg) : Bool :=
  switchedOut p m.src m.asid || switchedOut p m.dst m.asid

def samePair (src dst : Nat) (m : Msg) : Bool := decide (m.src = src) && decide (m.dst = dst)

/-- The message of a source and destination that arrives next (R157): none while an earlier one of the pair is kept by its
sender. -/
def nextMsg (p : Pkg) (src dst : Nat) : Option Msg :=
  match p.net.find? (samePair src dst) with
  | none => none
  | some m => if heldBack p m || p.parked.any (samePair src dst) then none else some m

/-- The arrival of the next message of a pair, where `act` takes it. -/
def onMsg (p : Pkg) (src dst : Nat) (act : Msg → Pkg → Option Pkg) : Pkg :=
  match nextMsg p src dst with
  | none => p
  | some m => (act m { p with net := p.net.erase m }).getD p

def originOf (p : Pkg) (m : Msg) : Origin := ⟨p.regs.pkgnum, m.src, m.asid⟩

/-- A message that reads or changes scratchpad or tags, or asks for a handler, at its home (R297, R328): refused where the home is
fenced or %SCAP refuses, not taken (none) where the home is not ready. -/
def atHome (p : Pkg) (now home : Nat) (o : Origin) (b : MsgBody) (act : Pkg → Pkg) : Option Pkg :=
  if (coreOf p home).fenced.isSome then some (refuse p home o.pkg o.core o.asid 0x31 b)
  else if homeReady p home = false then none
  else
    let p1 := receive p now home o.pkg o.core b
    if scapOk p home o.pkg o.asid then some (act p1) else some (refuse p1 home o.pkg o.core o.asid 0x02 b)

/-- Work for the errand slot (R159): a built-in handler runs as soon as no earlier one is left. -/
def errand (p : Pkg) (now home : Nat) (later : Bool) (o : Origin) (uid entry : Nat) (b : MsgBody) : Pkg :=
  runBuiltins (updPart p home (fun k =>
    { k with errands := k.errands ++ [⟨⟨o.core, o.pkg, o.asid, uid⟩, entry, b, 0, []⟩] })) now home later

/-- RLD, and one lane of RGATH, at its home (R161, R206). -/
def loadArrives (p : Pkg) (now home : Nat) (later : Bool) (o : Origin) (b : MsgBody) : Option Pkg :=
  match b with
  | .load _ _ _ _ _ => atHome p now home o b (fun q => errand q now home later o 0 0 b)
  | _ => none

/-- RST at its home (R206). -/
def storeArrives (p : Pkg) (now home : Nat) (later : Bool) (o : Origin) (b : MsgBody) : Option Pkg :=
  match b with
  | .store _ _ _ uid => atHome p now home o b (fun q => errand q now home later o uid 0 b)
  | _ => none

/-- What the NI of a home performs itself waits behind earlier work of the same source for the errand slot (R157, R171). -/
def inTurn (p : Pkg) (now home : Nat) (later : Bool) (o : Origin) (uid : Nat) (b : MsgBody) : Pkg :=
  let e : Errand := ⟨⟨o.core, o.pkg, o.asid, uid⟩, 0, b, 0, []⟩
  if behindErrand p home o then errand p now home later o uid 0 b
  else match (if later then builtinPart p now home e else none) with
    | some (q, e') => updPart q home (fun k => { k with errands := e' :: k.errands })
    | none => builtin p now home e

/-- RRED at its home (R160, R210). -/
def packetArrives (p : Pkg) (now home : Nat) (later : Bool) (o : Origin) (b : MsgBody) : Option Pkg :=
  match b with
  | .reduce _ _ _ _ uid => atHome p now home o b (fun q => inTurn q now home later o uid b)
  | _ => none

/-- A remote LDSF or STSF at its home (R205). -/
def fullEmptyArrives (p : Pkg) (now home : Nat) (o : Origin) (b : MsgBody) : Option Pkg :=
  match b with
  | .takeFull _ _ _ _ _ => atHome p now home o b (fun q => inTurn q now home false o 0 b)
  | .putEmpty _ _ _ _ _ uid => atHome p now home o b (fun q => inTurn q now home false o uid b)
  | _ => none

/-- The handler that an active message names (R285), or the cause of its refusal. -/
def handlerEntry (p : Pkg) (now home asid h : Nat) : Except Nat Nat :=
  let e := asidEntry p now home asid
  let pa := fld e 21 36 * 65536 + 8 * h
  if (match (partOf p home).team with
    | some t => decide (t.asid ≠ asid)
    | none => true) then .error 0x21
  else if asidOk e = false ∨ fld e 12 9 ≤ h ∨ dramEnd < pa + 8 then .error 0x21
  else if combineBad p now home 3 (runKey (pa / 32) tagNone) then .error 0x30
  else
    let x : Word := BitVec.ofNat 64 (physRead p now home pa 8 tagNone)
    let entry := fld x 0 32
    if bit x 63 = false ∨ fld x 32 31 ≠ 0 ∨ entry % 12 ≠ 0 ∨ textSizeOf p home ≤ entry then .error 0x21 else .ok entry

/-- An active message at its target (R207, R285). -/
def amsgArrives (p : Pkg) (now home : Nat) (o : Origin) (b : MsgBody) : Option Pkg :=
  match b with
  | .amsg h _ _ _ _ uid => atHome p now home o b (fun q => match handlerEntry q now home o.asid h with
      | .ok entry => errand q now home false o uid entry b
      | .error cause => refuse q home o.pkg o.core o.asid cause b)
  | _ => none

/-- A remote BARA at its object's home (R223); an object in error is left and the arrival refused. -/
def barrierArrives (p : Pkg) (now home : Nat) (o : Origin) (b : MsgBody) : Option Pkg :=
  match b with
  | .arrive _ _ uid => atHome p now home o b (fun q => inTurn q now home false o uid b)
  | _ => none

/-- The byte addition of a counted copy at its object's home (R223). -/
def bytesArrive (p : Pkg) (now home : Nat) (o : Origin) (b : MsgBody) : Option Pkg :=
  match b with
  | .addBytes off n narr ch ident => if behindErrand p home o then none else atHome p now home o b (fun q =>
      if (scrBad (partOf q home) off 16).isSome then
        refuse (logDetected q now (coreSource home) 2 off) home o.pkg o.core o.asid 0x30 b
      else sendPkg (updPart q home (fun k => objEvent k now off (objAdd n))) home o.pkg o.core o.asid (.addOk off n narr ch ident))
  | _ => none

/-- The completion or failure of a counted copy at its object's home (R223): %SCAP does not matter any more. -/
def countArrives (p : Pkg) (now home : Nat) (o : Origin) (b : MsgBody) : Option Pkg :=
  match b with
  | .countDone off n narr failed =>
    if (coreOf p home).fenced.isSome then some p
    else if homeReady p home = false ∨ behindErrand p home o = true then none
    else some (updPart (receive p now home o.pkg o.core b) home (fun k => objEvent k now off (objDone n narr failed)))
  | _ => none

/-- The checks of R109 to R112 on a remote command, under the ASID of MCAP (R117). -/
def mmarReady (k : Part) (cx : Cx) (asid a b : Nat) (tfa tfb : Bool) : Except Trap MatReady :=
  match matArg k cx asid 0 tfa (.lay (BitVec.ofNat 6 a)) with
  | .error t => .error t
  | .ok x => (match matArg k cx asid 4 tfb (.lay (BitVec.ofNat 6 b)) with
    | .error t => .error t
    | .ok y => matCheck k cx tfa tfb x y)

/-- The team to which a command belongs that another core sends: the one that runs on its target under the ASID of MCAP; else a number
that no team has, so that a failure goes to the supervisor (R117, R120). DESIGN CHOICE (log 69): it is the team at the acceptance of the
MMAR, and stays that one. -/
def mcapTeam (k : Part) (asid : Nat) : Nat :=
  match k.team with
  | some t => if t.asid = asid then t.no else 2 ^ 64
  | none => 2 ^ 64

/-- A matrix command at its target (R117, R118): it waits while the queue of four is full (R113). -/
def mmarArrives (p : Pkg) (cx : Cx) (home : Nat) (o : Origin) (b : MsgBody) : Option Pkg :=
  match b with
  | .mmar tile la lb cap tfa tfb compat slot ctx ioff uid =>
    let c := coreOf p home
    let asid := fld c.mcap 32 9
    let no := fun (cause : Nat) => some (refuse p home o.pkg o.core o.asid cause b)
    if c.fenced.isSome then no 0x31
    else if bit c.mcap 63 = false ∨ fld c.mcap 0 32 ≠ cap.toNat then no 0x02
    else match mmarReady c.part { cx with core := home } asid la lb tfa tfb with
      | .error _ => no 0x21
      | .ok r =>
        if 4 ≤ c.part.matq.length then none
        else
          let x : MatCmd :=
            { tile := tile, a := r.a, b := r.b, tfa := tfa, tfb := tfb, k := r.depth, skips := [], compat := compat,
              asid := asid, team := mcapTeam c.part asid, core := o.core, slot := slot, ctx := ctx, ioff := ioff, progress := 0, running := false,
              lines := [], board := ⟨0, r.reads, []⟩ }
          let p1 := receive p cx.now home o.pkg o.core b
          some (sendPkg (updPart p1 home (fun k => enqueueMat k x)) home o.pkg o.core o.asid (.ack uid))
  | _ => none

/-- A context's token is set: a SLEEP that still waits takes it at once (R271). -/
def wakeSlot (now : Nat) (s : Slot) : Slot :=
  match s.hold with
  | .wait w => (match w.kind with
    | .sleep u => if !w.met && decide (now ≤ w.deadline) && decide (now ≤ u) then { s with hold := .wait { w with met := true } }
        else { s with token := true }
    | _ => { s with token := true })
  | _ => { s with token := true }

/-- A wake request at its target (R271): the slot's loaded context, or one moved out of it, of the sender's ASID. DESIGN CHOICE (log 63):
the loaded one where there is one, else the one moved out longest ago. -/
def wakeArrives (p : Pkg) (now home : Nat) (o : Origin) (b : MsgBody) : Option Pkg :=
  match b with
  | .wake n uid =>
    if (coreOf p home).fenced.isSome then some (refuse p home o.pkg o.core o.asid 0x31 b)
    else if behindErrand p home o then none
    else
      let p1 := receive p now home o.pkg o.core b
      let k := partOf p1 home
      let mine := k.team.isSome && decide (asidOf k = o.asid)
      let ack := fun (q : Pkg) => some (sendPkg q home o.pkg o.core o.asid (.ack uid))
      if mine && (slotOf k n).live then ack (setPart p1 home (updSlot k n (wakeSlot now)))
      else match k.moved.find? (fun m => mine && decide (m.slotNo = n)) with
        | some m => ack (setPart p1 home { k with moved := k.moved.map (fun x =>
            if x.sl.ctx = m.sl.ctx then { x with sl := { x.sl with token := true } } else x) })
        | none => some (refuse p1 home o.pkg o.core o.asid 0x21 b)
  | _ => none

/-- The copy of a core whose messages to another package carry a serial number. -/
def copyUid (k : Part) (uid : Nat) : Option Copy := k.copies.find? (fun x => decide (x.uid = uid))

/-- An answer to one of a copy's messages (R215, R217). -/
def copyAnswer (p : Pkg) (c uid : Nat) (g : Copy → Copy) : Pkg :=
  match copyUid (partOf p c) uid with
  | none => p
  | some x => setCopy p c (g { x with left := x.left - 1 })

/-- The request of a remote STSF, by its journal entry (R204). -/
def stsfReq (k : Part) (uid : Nat) : Option Nat :=
  match jByUid k uid with
  | some (_, e) => (match e.body with
    | .msg _ _ (.putEmpty _ _ _ _ req _) => some req
    | _ => none)
  | none => none

/-- The journal entry of a remote STSF, by its request. -/
def stsfUid (k : Part) (req : Nat) : Option Nat :=
  (k.journal.find? (fun e => match e.2.body with
    | .msg _ _ (.putEmpty _ _ _ _ r _) => decide (r = req)
    | _ => false)).map (·.2.uid)

/-- A reply to a remote read reaches its core (R206, R211, R366). -/
def replyArrives (p : Pkg) (cx : Cx) (c : Nat) (b : MsgBody) : Option Pkg :=
  match b with
  | .readDone req lane v => some (copyAnswer (onReply p cx c req (gotLane lane v)) c req (fun x =>
      { x with vals := mapInsert x.vals lane v }))
  | .readRefused req lane cause => some (copyAnswer (onReply p cx c req (refusedLane lane cause)) c req (fun x =>
      { x with refused := true }))
  | _ => none

/-- A timeout reply reaches its requester (R205): the journal entry of an STSF is freed. -/
def timeoutArrives (p : Pkg) (cx : Cx) (c : Nat) (b : MsgBody) : Option Pkg :=
  match b with
  | .timeout req _ full =>
    let p1 := match stsfUid (partOf p c) req with
      | some uid => jDrop p c uid
      | none => p
    some (onReply p1 cx c req (fun r => { r with timedOut := some full }))
  | _ => none

/-- An acknowledgement reaches its sender (R318), or a count's acceptance its copy (R223): a copy that is gone has failed. -/
def ackArrives (p : Pkg) (c : Nat) (o : Origin) (b : MsgBody) : Option Pkg :=
  match b with
  | .ack uid => some (copyAnswer (jSuccess p c uid) c uid id)
  | .addOk off n narr ch ident => (match copyOf (partOf p c) ch ident with
    | some x => some (setCopy p c { x with added := 1 })
    | none => some (sendPkg p c o.pkg o.core o.asid (.countDone off n narr true)))
  | _ => none

/-- A refusal reaches its sender (R318, R366): a remote STSF completes without effect. -/
def refusalArrives (p : Pkg) (cx : Cx) (c : Nat) (b : MsgBody) : Option Pkg :=
  match b with
  | .refusal uid cause code =>
    let req := stsfReq (partOf p c) uid
    let p1 := copyAnswer (jFail p cx.now c uid 4 cause code) c uid (fun x => { x with refused := true })
    some (match req with
      | some r => onReply p1 cx c r (fun y => { y with left := 0 })
      | none => p1)
  | .addRefused ch ident => (match copyOf (partOf p c) ch ident with
    | some x => some (setCopy p c { x with added := 2 })
    | none => some p)
  | _ => none

/-- An answer reaches a core: a fenced one takes none (R328). -/
def atSender (p : Pkg) (now c : Nat) (o : Origin) (b : MsgBody) (act : Pkg → Option Pkg) : Option Pkg :=
  if (coreOf p c).fenced.isSome then (act p).map (fun _ => p) else act (receive p now c o.pkg o.core b)

def execRemoteLoadRequest (src dst : Nat) (s : State) : Host.Outcome State Fault Refusal :=
  eventStep (fun cx p => onMsg p src dst (fun m q => loadArrives q cx.now dst cx.later (originOf p m) m.body)) s

def execRemoteStoreRequest (src dst : Nat) (s : State) : Host.Outcome State Fault Refusal :=
  eventStep (fun cx p => onMsg p src dst (fun m q => storeArrives q cx.now dst cx.later (originOf p m) m.body)) s

def execRredPacket (src dst : Nat) (s : State) : Host.Outcome State Fault Refusal :=
  eventStep (fun cx p => onMsg p src dst (fun m q => packetArrives q cx.now dst cx.later (originOf p m) m.body)) s

def execRemoteFullEmptyRequest (src dst : Nat) (s : State) : Host.Outcome State Fault Refusal :=
  eventStep (fun cx p => onMsg p src dst (fun m q => fullEmptyArrives q cx.now dst (originOf p m) m.body)) s

/-- At its home a remote waiter's deadline has passed (R205); a moved one waits for an evaluation (R263). -/
def remoteDeadline (p : Pkg) (now home idx : Nat) : Pkg :=
  match (partOf p home).waiters[idx]? with
  | none => p
  | some w => if w.slot.isSome ∨ w.moved = true ∨ now < w.deadline ∨ (coreOf p home).switching = true ∨
      (coreOf p home).fenced.isSome then p else withdraw p home w false

def execRemoteWaitDeadline (home idx : Nat) (s : State) : Host.Outcome State Fault Refusal :=
  eventStep (fun cx p => remoteDeadline p cx.now home idx) s

def execRemoteWaitTimeoutReply (src dst : Nat) (s : State) : Host.Outcome State Fault Refusal :=
  eventStep (fun cx p => onMsg p src dst (fun m q =>
    atSender q cx.now dst (originOf p m) m.body (fun r => timeoutArrives r cx dst m.body))) s

/-- A message that a home which is not ready does not perform (R297). -/
def needsTeam : MsgBody → Bool
  | .load _ _ _ _ _ => true
  | .store _ _ _ _ => true
  | .reduce _ _ _ _ _ => true
  | .takeFull _ _ _ _ _ => true
  | .putEmpty _ _ _ _ _ _ => true
  | .amsg _ _ _ _ _ _ => true
  | .arrive _ _ _ => true
  | .addBytes _ _ _ _ _ => true
  | .countDone _ _ _ _ => true
  | _ => false

/-- HOME_NOT_READY_ANSWER (R297): the sender keeps the message. -/
def notReadyAnswer (m : Msg) (now : Nat) (q : Pkg) : Option Pkg :=
  if needsTeam m.body && (coreOf q m.dst).fenced.isNone && !homeReady q m.dst then
    let q := logReceive q now m.src (BitVec.ofNat 22 (m.dst * 1024 + q.regs.pkgnum)) (28 :: bodyNats m.body)
    some { q with parked := q.parked ++ [{ m with first := some (m.first.getD now), last := now }] }
  else none

def execHomeNotReadyAnswer (src dst : Nat) (s : State) : Host.Outcome State Fault Refusal :=
  eventStep (fun cx p => onMsg p src dst (fun m q => notReadyAnswer m cx.now q)) s

/-- The deadline and the request of a remote LDSF or STSF. -/
def waitOf : MsgBody → Option (Nat × Nat)
  | .takeFull _ _ _ d req => some (d, req)
  | .putEmpty _ _ _ d req _ => some (d, req)
  | _ => none

/-- The message that a core keeps, by its place among those of the core. -/
def keptBy (p : Pkg) (src idx : Nat) : Option Msg := (p.parked.filter (fun m => decide (m.src = src)))[idx]?

/-- REMOTE_RETRY_TIMER (R205, R297): sent again after 1,000 ticks; a wait whose deadline has passed at its requester times
out. -/
def retryTimer (p : Pkg) (cx : Cx) (src idx : Nat) : Pkg :=
  match keptBy p src idx with
  | none => p
  | some m =>
    if heldBack p m then p else
    let p1 := { p with parked := p.parked.erase m }
    let again := fun (limit : Bool) => if m.last + 1000 ≤ cx.now ∧ limit = false then { p1 with net := m :: p1.net } else p
    match waitOf m.body with
    | some (d, req) => if d ≤ cx.now then (timeoutArrives p1 cx src (.timeout req 0 false)).getD p1 else again false
    | none => again (decide (m.first.getD cx.now + 1000000 ≤ cx.now))

def execRemoteRetryTimer (src idx : Nat) (s : State) : Host.Outcome State Fault Refusal :=
  eventStep (fun cx p => retryTimer p cx src idx) s

/-- REMOTE_RETRY_LIMIT (R297): 1,000,000 ticks after its first arrival a message is refused with CAUSE 0x3D. -/
def retryLimit (p : Pkg) (cx : Cx) (src idx : Nat) : Pkg :=
  match keptBy p src idx with
  | none => p
  | some m =>
    if heldBack p m = true ∨ (waitOf m.body).isSome ∨ cx.now < m.first.getD cx.now + 1000000 then p
    else
      let p1 := { p with parked := p.parked.erase m }
      match refusalOf 0x3D m.body with
      | none => p1
      | some a => (match replyArrives p1 cx src a with
        | some q => q
        | none => (refusalArrives p1 cx src a).getD p1)

def execRemoteRetryLimit (src idx : Nat) (s : State) : Host.Outcome State Fault Refusal :=
  eventStep (fun cx p => retryLimit p cx src idx) s

def execRemoteReadReply (src dst : Nat) (s : State) : Host.Outcome State Fault Refusal :=
  eventStep (fun cx p => onMsg p src dst (fun m q =>
    atSender q cx.now dst (originOf p m) m.body (fun r => replyArrives r cx dst m.body))) s

def execRemoteAck (src dst : Nat) (s : State) : Host.Outcome State Fault Refusal :=
  eventStep (fun cx p => onMsg p src dst (fun m q =>
    atSender q cx.now dst (originOf p m) m.body (fun r => ackArrives r dst (originOf p m) m.body))) s

def execRemoteRefusal (src dst : Nat) (s : State) : Host.Outcome State Fault Refusal :=
  eventStep (fun cx p => onMsg p src dst (fun m q =>
    atSender q cx.now dst (originOf p m) m.body (fun r => refusalArrives r cx dst m.body))) s

def execActiveMessageArrival (src dst : Nat) (s : State) : Host.Outcome State Fault Refusal :=
  eventStep (fun cx p => onMsg p src dst (fun m q => amsgArrives q cx.now dst (originOf p m) m.body)) s

/-- The state in which a handler starts (R208). -/
def handlerSlot (e : Errand) (now : Nat) : Slot :=
  let s5 : Word := BitVec.ofNat 64 (packFields [(12, e.sender.core), (10, e.sender.pkg), (9, e.sender.asid)])
  let args : List Word := match e.body with
    | .amsg _ x1 x2 x3 x4 _ => [x1, x2, x3, x4]
    | _ => []
  let s := (args.zipIdx).foldl (fun (s : Slot) x => setSreg s (x.2 + 1) x.1) (setSreg slotReset 5 s5)
  { s with kind := .errand, pc := e.entry, waitlim := 1000000, loadedAt := now, sender := some e.sender }

/-- HANDLER_START (R159, R208): the oldest accepted message, once the handler before it has ended. -/
def handlerStart (p : Pkg) (now c : Nat) : Pkg :=
  let co := coreOf p c
  let k := co.part
  let n := errandSlot k.mode
  match k.errands with
  | [] => p
  | e :: rest =>
    if (slotOf k n).live || repartWaits k || co.switching || co.fenced.isSome || !isUserWork e || k.team.isNone then p
    else setPart p c (loadContext { k with errands := rest } n (handlerSlot e now))

def execHandlerStart (core : Nat) (s : State) : Host.Outcome State Fault Refusal :=
  eventStep (fun cx p => handlerStart p cx.now core) s

def execMmarCommandArrival (src dst : Nat) (s : State) : Host.Outcome State Fault Refusal :=
  eventStep (fun cx p => onMsg p src dst (fun m q => mmarArrives q cx dst (originOf p m) m.body)) s

def execWakeRequest (src dst : Nat) (s : State) : Host.Outcome State Fault Refusal :=
  eventStep (fun cx p => onMsg p src dst (fun m q => wakeArrives q cx.now dst (originOf p m) m.body)) s

def execRemoteBaraArrival (src dst : Nat) (s : State) : Host.Outcome State Fault Refusal :=
  eventStep (fun cx p => onMsg p src dst (fun m q => barrierArrives q cx.now dst (originOf p m) m.body)) s

def execCopyByteAddition (src dst : Nat) (s : State) : Host.Outcome State Fault Refusal :=
  eventStep (fun cx p => onMsg p src dst (fun m q => bytesArrive q cx.now dst (originOf p m) m.body)) s

def execCopyCountEvent (src dst : Nat) (s : State) : Host.Outcome State Fault Refusal :=
  eventStep (fun cx p => onMsg p src dst (fun m q => countArrives q cx.now dst (originOf p m) m.body)) s

/-- POD_BARRIER_ROUND (R226): the message of a round from the rank 2^m below. -/
def podRound (p : Pkg) (now asid : Nat) (gtag : Word) (lead round rank : Nat) : Pkg :=
  let e := podEpisode p asid gtag lead
  if countersUsed p e.gid || decide ((rank + 2 ^ round) % e.size ≠ e.rank) || decide (podRounds e.size ≤ round) then p
  else podUpdate p now { e with got := e.got ++ [round] }

def execPodBarrierRound (asid : Nat) (gtag : Word) (lead round rank : Nat) (s : State) : Host.Outcome State Fault Refusal :=
  eventStep (fun cx p => podRound p cx.now asid gtag lead round rank) s

/-- SWITCH_BARRIER_COUNTER (R226): the counter of an episode says that every package has arrived. -/
def switchCounter (p : Pkg) (now gid asid : Nat) (gtag : Word) (lead : Nat) : Pkg :=
  match p.pod.find? (podSame asid gtag lead) with
  | none => p
  | some e =>
    if countersUsed p gid && e.arrived && decide (e.gid = gid) && podStands p now e then
      podRelease { p with pod := p.pod.erase e } now e
    else p

def execSwitchBarrierCounter (gid asid : Nat) (gtag : Word) (lead : Nat) (s : State) : Host.Outcome State Fault Refusal :=
  eventStep (fun cx p => switchCounter p cx.now gid asid gtag lead) s

/-- A request of a core of another package to a core of this one; the requests that stay within a package are none. -/
def farRequest (p : Pkg) (now dst : Nat) (o : Origin) (b : MsgBody) : Option Pkg :=
  [loadArrives p now dst false o b, storeArrives p now dst false o b, packetArrives p now dst false o b, fullEmptyArrives p now dst o b,
    amsgArrives p now dst o b].findSome? id

/-- An answer of another package. -/
def farAnswer (p : Pkg) (cx : Cx) (dst : Nat) (o : Origin) (b : MsgBody) : Option Pkg :=
  atSender p cx.now dst o b (fun q =>
    [replyArrives q cx dst b, timeoutArrives q cx dst b, refusalArrives q cx dst b, (match b with
      | .ack _ => ackArrives q dst o b
      | _ => none)].findSome? id)

/-- A body as another package sends it: the instructions that a region admits, at most 16 with at most 8 accesses, each with its captured
entry, behind the ARB at a text offset (R200, R201). -/
def farOps (arb : Nat) (body : List (BitVec 96 × BitVec 512)) : Option (List RegOp) :=
  let ops := (body.zipIdx).filterMap (fun x => match decodeWord x.1.1 with
    | .ok i => (match i.word with
      | some (code, f) => if regionAllows code f then some (⟨i, arb + 12 * (x.2 + 1), some x.1.2, true⟩ : RegOp) else none
      | none => none)
    | .error _ => none)
  let accesses := (ops.filter (fun o => match o.i.word with
    | some (c, _) => (regionAccess c).isSome
    | none => false)).length
  if ops.length = body.length ∧ ops.length ≤ 16 ∧ accesses ≤ 8 then some ops else none

/-- The slot of a region of another package: the registers it sent, in their order. -/
def farSlot (sregs : List Word) (preds : List (BitVec 32)) : Slot :=
  (preds.take 8).zipIdx.foldl (fun s x => setPred s x.2 x.1) ((sregs.take 32).zipIdx.foldl (fun s x => setSreg s x.2 x.1) slotReset)

/-- The page of 64 KiB around a line that another package's region names by a virtual address (R201, R287). -/
def farXlat (p : Pkg) (asid pa va tag : Nat) : Xlat :=
  { asid := asid, va := va / 65536 * 65536, size := 65536, frame := pa / 65536 * 65536, tag := tag, lease := 0, ovl := none, sup := false,
    gen := mapGet 0 p.keyGen tag }

/-- What another package is answered, where a port reaches it (R361). -/
def answerFar (p : Pkg) (pkg dst : Nat) (b : MsgBody) : Pkg :=
  if p.unreachable.contains pkg then p else { p with outbox := p.outbox ++ [(pkg, dst, b)] }

/-- The records of another package's region carry its owner (R138). -/
def farOwner (x : FarRegion) (asid : Nat) (u : Rec) : Rec :=
  { u with pkg := x.pkg, core := x.src, slot := x.slot, team := x.team % 256, asid := asid, seq := u.seq + x.seq, posters := [] }

/-- A region of another package in its turn at its M3 home: performed through the remote-agent port, and answered (R172, R173, R201). -/
def farRegion (p : Pkg) (now : Nat) (x : FarRegion) : Pkg :=
  let c := 4096 + x.pkg
  match shippedOf c x.slot x.sl, x.sl.region with
  | some me, some r =>
    let gone := fun (q : Pkg) => { q with farRegions := q.farRegions.erase x, cores := mapErase q.cores c }
    if regionAhead p me then p
    else (match performRegionAs (farOwner x r.xl.asid) p ⟨now, false, 0, c, x.slot⟩ x.sl r with
      | .waits q => q
      | .traps t => answerFar (gone p) x.pkg x.src (.regionTrap t.cause t.sub (t.body.getD r.arbPc))
      | .performed q st => answerFar (gone q) x.pkg x.src (.regionDone ((List.range 32).map (sregOf st.sl)) ((List.range 8).map (predOf st.sl)) st.nv))
  | _, _ => p

/-- The regions of other packages that wait here go on (R172). -/
def farRegions (p : Pkg) (now : Nat) : Pkg := p.farRegions.foldl (fun q x => farRegion q now x) p

/-- REMOTE_PACKAGE_ACCESS (R15, R19, R361): a global access is performed at the home M3, as a strong operation of another package. One under
a key that has been destroyed is refused (R304); a read that would consume an error is answered so (R326; log 29). -/
def packageAccess (p : Pkg) (cx : Cx) (pkg : Nat) (a : PodAccess) : Pkg :=
  if pkg = p.regs.pkgnum ∨ 1024 ≤ pkg ∨ p.unreachable.contains pkg then p
  else match a with
  | .write pa tag mask bytes =>
    let key := runKey (pa / 32) tag
    if dramEnd ≤ pa ∨ tagNone < tag ∨ keyKilled p tag = true ∨ behindRegion p 0 3 [key] then p
    else
      let u := { portRec p cx.now mask bytes with pkg := pkg }
      let (p1, ok) := settleBlock p cx.now key (insertAt p cx.now 3 (homeOf pa) key u)
      if ok then { p1 with outbox := p1.outbox ++ [(pkg, 0, .memDone pa)] } else p1
  | .read pa tag =>
    let key := runKey (pa / 32) tag
    if dramEnd ≤ pa ∨ tagNone < tag ∨ keyKilled p tag = true ∨ behindRegion p 0 3 [key] ∨ readWaits p cx.now 0 3 key then p
    else if combineBad p cx.now 0 3 key then
      let p1 := logDetected p cx.now (arraySource (3 * 4096 + homeOf pa)) 1 pa
      { p1 with outbox := p1.outbox ++ [(pkg, 0, .refusal pa 0x30 0)] }
    else { p with outbox := p.outbox ++ [(pkg, 0, .memValue pa (combineFrom p cx.now 0 3 key).1)] }
  | .region src slot team asid pa va tag ioff seq body sregs preds =>
    if dramEnd ≤ pa ∨ tagNone < tag ∨ keyKilled p tag = true ∨ pa % 128 ≠ 0 ∨ va % 65536 ≠ pa % 65536 then p
    else (match farOps ioff body with
      | none => p
      | some ops =>
        let r : Region := ⟨ioff, va, 6, farXlat p asid pa va tag, ops⟩
        let sl := { farSlot sregs preds with pc := ioff + 12 * (ops.length + 1), region := some r, hold := .region cx.now }
        let x : FarRegion := ⟨pkg, src, slot, team, seq, cx.now, sl⟩
        let q := { p with farRegions := p.farRegions ++ [x] }
        if cx.later then q else farRegion q cx.now x)
  | .msg src dst asid b =>
    let o : Origin := ⟨pkg, src, asid⟩
    if 4096 ≤ dst ∨ heldBack p ⟨src, dst, asid, b, none, 0⟩ then p
    else match farRequest p cx.now dst o b with
      | some q => q
      | none => (farAnswer p cx dst o b).getD p

def execRemotePackageAccess (pkg : Nat) (access : PodAccess) (s : State) : Host.Outcome State Fault Refusal :=
  eventStep (fun cx p => packageAccess p cx pkg access) s

end Sys2Proof.Machine
end

