-- ==== Sys2Proof/Machine/WaitEvents.lean ====
section
/-!
DEFINITION. The ends of waits (R261, R271), moved waits and the reload of contexts (R262, R263).
-/
namespace Sys2Proof.Machine

/-- The wait of a slot that has not seen its condition. -/
def openWait (s : Slot) : Option Wait :=
  match s.hold with
  | .wait w => if w.met then none else some w
  | _ => none

/-- The core's agents act: it is neither fenced nor stopped by a gang switch (R275, R328). -/
def coreActs (p : Pkg) (c : Nat) : Bool := (coreOf p c).fenced.isNone && !(coreOf p c).switching

def setMet (p : Pkg) (c n : Nat) (w : Wait) : Pkg :=
  updPart p c (fun k => updSlot k n (fun s => { s with hold := .wait { w with met := true } }))

/-- A condition that holds at the deadline, of a wait that is not latched by events: a SLEEP that ends by its own time first, a
core that is quiescent. -/
def holdsAtDeadline (k : Part) (w : Wait) : Bool :=
  match w.kind with
  | .sleep u => decide (u ≤ w.deadline)
  | .quiet => quiescent k
  | _ => false

/-- WAIT_DEADLINE_EXPIRY (R261): WAIT_TIMEOUT, exact, at the waiting instruction. -/
def deadlineExpiry (p : Pkg) (cx : Cx) (c n : Nat) : Pkg :=
  match openWait (slotOf (partOf p c) n) with
  | none => p
  | some w =>
    if cx.now < w.deadline ∨ coreActs p c = false then p
    else if holdsAtDeadline (partOf p c) w then setMet p c n w
    else takeTrap p cx.now c n (waitTrap { cx with core := c, slot := n } w)

def execWaitDeadlineExpiry (core slot : Nat) (s : State) : Host.Outcome State Fault Refusal :=
  eventStep (fun cx p => deadlineExpiry p cx core slot) s

/-- SLEEP_TIME_ELAPSED (R271): the SLEEP returns; the token stays as it is. -/
def sleepElapsed (p : Pkg) (now c n : Nat) : Pkg :=
  match openWait (slotOf (partOf p c) n) with
  | none => p
  | some w => (match w.kind with
    | .sleep u => if u ≤ now ∧ u ≤ w.deadline ∧ coreActs p c then setMet p c n w else p
    | _ => p)

def execSleepTimeElapsed (core slot : Nat) (s : State) : Host.Outcome State Fault Refusal :=
  eventStep (fun cx p => sleepElapsed p cx.now core slot) s

/-- What an evaluation of a moved context's wait finds (R263): the context after it, and whether its wait has ended. DESIGN CHOICE (log 68):
where its deadline has passed before the evaluation, it ends in WAIT_TIMEOUT though its condition holds, or its own time ended. -/
def evalMoved (p : Pkg) (k : Part) (now : Nat) (s : Slot) : Slot × Bool :=
  match s.hold with
  | .wait w =>
    let met := ({ s with hold := .wait { w with met := true } }, true)
    if w.met then (s, true)
    else if w.deadline < now then (s, true)
    else (match w.kind with
      | .sleep u => if s.token then ({ met.1 with token := false }, true)
          else if u ≤ now then met else (s, decide (w.deadline ≤ now))
      | kd => if waitHolds k kd || roomHolds p kd then met else (s, decide (w.deadline ≤ now)))
  | _ => (s, true)

/-- The word on which a moved wait has a waiter. -/
def waitedWord (s : Slot) : Option Nat :=
  match s.hold with
  | .wait w => (match w.kind with
    | .full n _ _ => some n
    | .empty n => some n
    | _ => none)
  | _ => none

/-- One moved context is evaluated: first the waiters on its word in their order (R162), then the rest. -/
def evalContext (p : Pkg) (now c ctx : Nat) : Pkg :=
  let word := ((partOf p c).moved.find? (fun m => decide (m.sl.ctx = ctx))).bind (fun m => waitedWord m.sl)
  let p1 := match word with
    | some w => serveWord ((partOf p c).waiters.length + 1) p now c w true
    | none => p
  updPart p1 c (fun k => { k with moved := k.moved.map (fun m =>
    if m.sl.ctx = ctx ∧ m.ready.isNone then
      let r := evalMoved p1 k now m.sl
      { m with sl := r.1, ready := if r.2 then some now else none, seen := now }
    else m) })

/-- One moved remote wait is evaluated (R263): served in its order, or withdrawn once its deadline has passed. -/
def evalRemote (p : Pkg) (now c : Nat) (w : Waiter) : Pkg :=
  let p1 := serveWord ((partOf p c).waiters.length + 1) p now c (w.off / 8) true
  if (partOf p1 c).waiters.contains w = false then p1
  else if w.deadline ≤ now then withdraw p1 c w false
  else updPart p1 c (fun k => { k with waiters := k.waiters.map (fun v => if v = w then { w with seen := now } else v) })

/-- The moved remote waits of a core. -/
def movedRemotes (k : Part) : List Waiter := k.waiters.filter (fun w => w.slot.isNone && w.moved)

/-- Every moved wait of a core is evaluated (R263). -/
def evalAll (p : Pkg) (now c : Nat) : Pkg :=
  let p1 := (partOf p c).moved.foldl (fun q m => evalContext q now c m.sl.ctx) p
  (movedRemotes (partOf p1 c)).foldl (fun q w => evalRemote q now c w) p1

/-- The wait monitors that a core holds now. -/
def countMonitors (x : Core) : Core := { x with part := { x.part with monitors := monitorList x.part } }

/-- A monitor that a core held when they were last looked at is released: its moved waits are evaluated (R263). -/
def evalReleased (p : Pkg) (now c : Nat) : Pkg :=
  let k := partOf p c
  if coreActs p c = false ∨ k.monitors.all (monitorList k).contains then p else updCore (evalAll p now c) c countMonitors

/-- The tick by which some moved wait of a core must be evaluated (R263). -/
def evalBy (k : Part) : Option Nat :=
  ((k.moved.filter (fun m => m.ready.isNone)).map (·.seen) ++ (movedRemotes k).map (·.seen)).foldl
    (fun acc t => match acc with
      | none => some (t + 500)
      | some b => some (min b (t + 500))) none

/-- Where 500 ticks have passed since a moved wait was evaluated, all are: as of then, and as of now (R263). -/
def evalDue (p : Pkg) (now c : Nat) : Pkg :=
  match evalBy (partOf p c) with
  | none => p
  | some t => if now < t ∨ coreActs p c = false then p else evalAll (evalAll p t c) now c

/-- MOVED_WAIT_EVALUATION (R263): the moved contexts by their place, then the moved remote waits. -/
def movedEvaluation (p : Pkg) (now c idx : Nat) : Pkg :=
  let k := partOf p c
  if coreActs p c = false then p
  else match k.moved[idx]? with
    | some m => evalContext p now c m.sl.ctx
    | none => (match (movedRemotes k)[idx - k.moved.length]? with
      | some w => evalRemote p now c w
      | none => p)

def execMovedWaitEvaluation (core idx : Nat) (s : State) : Host.Outcome State Fault Refusal :=
  eventStep (fun cx p => movedEvaluation p cx.now core idx) s

/-- The slot into which a moved context goes back, where it is idle (R263). -/
def reloadSlot (c : Core) (m : Moved) : Option Nat :=
  if movedTied c.part m then (if (slotOf c.part m.slotNo).live then none else some m.slotNo) else lowestIdle c

/-- An outstanding load of a context that stood in one slot and stands in another. -/
def moveLoad (rc old new : Nat) (l : OutLoad) : OutLoad :=
  match l.dest with
  | .vreg r => { l with dest := .vreg (r - old * rc + new * rc) }
  | .sreg _ => l

/-- A moved context is loaded into a slot (R263). -/
def reload (k : Part) (now n : Nat) (m : Moved) : Part :=
  let rc := regCount k.mode
  let sl := { m.sl with loadedAt := now, loads := m.sl.loads.map (moveLoad rc m.slotNo n) }
  let vregs := (m.vregs.zipIdx).foldl (fun v x => mapPut (0 : VReg) v (n * rc + x.2) x.1) k.vregs
  let back := fun (w : Waiter) =>
    if w.slot.isSome ∧ w.moved = true ∧ w.ctx = m.sl.ctx then { w with slot := some n, moved := false } else w
  setSlot { k with vregs := vregs, badVregs := k.badVregs.filter (fun r => decide (r < n * rc) || decide (n * rc + rc ≤ r)), moved := k.moved.filter (fun x => decide (x.sl.ctx ≠ m.sl.ctx)),
                   waiters := k.waiters.map back } n sl

/-- CONTEXT_RELOAD (R263): an image whose key has been destroyed cannot be decrypted, and stays out (R304; log 47). -/
def contextReload (p : Pkg) (now c idx : Nat) : Pkg :=
  let co := coreOf p c
  match co.part.moved[idx]? with
  | none => p
  | some m =>
    if m.ready.isNone ∨ coreActs p c = false ∨ m.gen ≠ mapGet 0 p.keyGen m.asid then p
    else match reloadSlot co m with
      | none => p
      | some n => fixAsk (updPart p c (fun k => reload k now n m)) c

def execContextReload (core idx : Nat) (s : State) : Host.Outcome State Fault Refusal :=
  eventStep (fun cx p => contextReload p cx.now core idx) s

/-- A context that holds no monitor and no place among memory's accesses: it runs, or stands in a push or an MSYNC, with which it goes on
when it is loaded again. -/
def movable (h : Hold) : Bool :=
  match h with
  | .none => true
  | .busy => true
  | .push _ _ _ => true
  | .sync => true
  | _ => false

/-- The running helper or task that has held its slot longest since it was loaded (R263; log 58). -/
def longestLoaded (k : Part) : Option Nat :=
  let run := k.slots.filter (fun e => e.2.live && (decide (e.2.kind = .helper) || decide (e.2.kind = .started)) && movable e.2.hold)
  match run with
  | [] => none
  | x :: rest => some (rest.foldl (fun (b : Nat × Slot) y => if y.2.loadedAt < b.2.loadedAt then y else b) x).1

/-- RELOAD_STARVATION_MOVE (R263): a context has been ready for 2,000 ticks without a slot. -/
def starvationMove (p : Pkg) (now c : Nat) : Pkg :=
  let co := coreOf p c
  let k := co.part
  let starves := k.moved.any (fun m => (reloadSlot co m).isNone && (match m.ready with
    | some t => decide (t + 2000 ≤ now)
    | none => false))
  if starves = false ∨ coreActs p c = false then p
  else match longestLoaded k with
    | none => p
    | some n =>
      let ctx := (slotOf k n).ctx
      let k1 := moveOut k now n (mapGet 0 p.keyGen (asidOf k))
      fixAsk (setPart (dropWalks p c n) c { k1 with moved := k1.moved.map (fun m => if m.sl.ctx = ctx then { m with ready := some now } else m) }) c

def execReloadStarvationMove (core : Nat) (s : State) : Host.Outcome State Fault Refusal :=
  eventStep (fun cx p => starvationMove p cx.now core) s

end Sys2Proof.Machine
end

