-- ==== Sys2Proof/Machine/Gang.lean ====
section
/-!
DEFINITION. Gang switches (R274 to R276, R121, R131, R176, R221, R304).
-/
namespace Sys2Proof.Machine

def gswArm (c : Core) : Bool := bit c.gswctl 63
def gswResume (c : Core) : Bool := bit c.gswctl 61
/-- AREA, in units of 4 KiB (R274). -/
def gswArea (c : Core) : Nat := fld c.gswctl 12 40

/-- Changes every deadline that a hold carries: wait deadlines alone; the ticks that a SLEEP counts go on (R276). -/
def shiftHold (g : Nat → Nat) : Hold → Hold
  | .wait w => .wait { w with deadline := g w.deadline }
  | .reply r => .reply { r with deadline := r.deadline.map g }
  | h => h

def shiftSlot (g : Nat → Nat) (s : Slot) : Slot := { s with hold := shiftHold g s.hold }

/-- Changes every deadline kept on a core: of its slots, its moved contexts and the waits it serves (R276). -/
def shiftPart (g : Nat → Nat) (k : Part) : Part :=
  { k with slots := k.slots.map (fun e => (e.1, shiftSlot g e.2)), moved := k.moved.map (fun m => { m with sl := shiftSlot g m.sl }),
           waiters := k.waiters.map (fun w => { w with deadline := g w.deadline }) }

/-- Changes the deadline that a remote LDSF or STSF of a core takes along. -/
def shiftMsg (c asid : Nat) (g : Nat → Nat) (m : Msg) : Msg :=
  if m.src = c ∧ m.asid = asid then
    match m.body with
    | .takeFull off size sc d req => { m with body := .takeFull off size sc (g d) req }
    | .putEmpty off size v d req uid => { m with body := .putEmpty off size v (g d) req uid }
    | _ => m
  else m

/-- The request of a remote waiter, to be made again (R276). -/
def requestOf (home : Nat) (w : Waiter) : Msg :=
  { src := w.src, dst := home, asid := w.asid, first := none, last := 0,
    body := if w.take then .takeFull w.off w.size w.scale w.deadline w.req
      else .putEmpty w.off w.size w.val w.deadline w.req w.uid }

/-- The homes outside the switched partition at which a core waits: those that are not stopped at the same time. -/
def outsideHomes (p : Pkg) (c : Nat) : List Nat :=
  let t := (coreOf p c).gswtime
  (mapKeys p.cores).filter (fun h => decide (h ≠ c) && !(coreOf p h).switching &&
    !(gswArm (coreOf p h) && decide ((coreOf p h).gswtime = t)))

/-- A core's waits at homes outside the partition are withdrawn, and are asked for again on resume (R276). -/
def recallWaits (p : Pkg) (c : Nat) : Pkg :=
  (outsideHomes p c).foldl (fun q h =>
    let mine := (partOf q h).waiters.filter (elsewhere p c)
    let q1 := updPart q h (fun k => { k with waiters := k.waiters.filter (fun w => !elsewhere p c w) })
    { q1 with net := mine.map (requestOf h) ++ q1.net }) p

/-- GANG_SWITCH_OUT (R275): selection stops; loads not performed stay to be issued again, and the matrix unit stands at a K-step
boundary without its pinned lines (R121, R176). A record selected for the core stays selected (R258). -/
def switchOut (p : Pkg) (now c : Nat) : Pkg :=
  let co := coreOf p c
  if gswArm co = false ∨ now < co.gswtime.toNat ∨ co.switching = true ∨ co.fenced.isSome then p
  else
    let asid := asidOf co.part
    let p1 := recallWaits p c
    let left := fun (d : Nat) => d - now
    let p2 : Pkg := { p1 with net := p1.net.map (shiftMsg c asid left), parked := p1.parked.map (shiftMsg c asid left) }
    updCore p2 c (fun x => { x with
      switching := true, switchTick := now, ask := none, gswctl := setFld x.gswctl 62 1 0,
      part := { x.part with matq := x.part.matq.map (fun m => { m with running := false, lines := [] }) } })

def execGangSwitchOut (core : Nat) (s : State) : Host.Outcome State Fault Refusal :=
  eventStep (fun cx p => switchOut p cx.now core) s

/-- Stores that had issued post the rest of their records (R275). -/
def finishPosting (p : Pkg) (now c n : Nat) : Pkg :=
  let s := slotOf (partOf p c) n
  match s.hold with
  | .posting recs => (match postRecs p now c (postLimit s) recs with
    | (p1, []) => completeSlot p1 c n
    | (p1, l) => updPart p1 c (fun k => updSlot k n (fun x => { x with hold := .posting l })))
  | _ => p

/-- A release that waits for the acknowledgement of a message, which the switch holds back: it has posted nothing, and is issued again on
resume (R275, R310; log 40). -/
def waitsForAck (k : Part) (n : Nat) (rel : Bool) : Bool := rel && journalWaits k n true && !journalWaits k n false

/-- The releases that wait for nothing but such acknowledgements are done for what they cover (R176): their pushes at their scopes. -/
def pushReleases (p : Pkg) (now c : Nat) : Pkg × Bool :=
  (partOf p c).slots.foldl (fun acc e =>
    let scopes := (match e.2.hold with
      | .push sc true _ => if waitsForAck (partOf acc.1 c) e.1 true then [sc] else []
      | _ => []) ++ e.2.rels
    scopes.foldl (fun acc sc =>
      let (q, ok) := releasePush acc.1 now c sc
      (q, acc.2 && ok)) acc) (p, true)

/-- Nothing that had issued is left to be performed (R275): stores, strong stores, releases, regions, translations of journal entries,
the records of copies; and a selected record is bound (R258). -/
def switchQuiet (p : Pkg) (c : Nat) : Bool :=
  let k := partOf p c
  k.slots.all (fun e => match e.2.hold with
    | .posting _ => false
    | .push _ rel _ => waitsForAck k e.1 rel
    | .strong _ _ _ => false
    | .region _ => false
    | .words _ _ _ => false
    | .joins _ _ _ _ _ => false
    | .kill _ _ => false
    | _ => true) && k.slots.all (fun e => decide (e.2.rels = []) || (decide (e.2.loads = []) && !journalWaits k e.1 false)) &&
  k.journal.all (fun e => decide (e.2.status ≠ 1)) && k.copies.all (fun x => decide (x.todo = [])) &&
  (coreOf p c).sel.isNone && p.orphans.all (fun o => decide (o.1 ≠ c))

/-- What the core's copies have written is posted, and pushed to their scopes; for REL, what the release covers (R174, R221). -/
def pushCopies (p : Pkg) (now c : Nat) : Pkg × Bool :=
  (partOf p c).copies.foldl (fun acc x =>
    let (q, left) := cpyPost acc.1 now c x x.todo
    let q1 := setCopy q c { x with todo := left }
    if left ≠ [] then (q1, false)
    else if x.rel || decide (0 < x.pos) then
      let r := releasePush q1 now c x.sc
      (r.1, acc.2 && r.2)
    else (q1, acc.2)) (p, true)

/-- A slot of the core itself, whatever stands in it: the cycle from which it may issue again (R4). -/
def bareSlots (k : Part) : SMap Slot :=
  (k.slots.map (fun e => (e.1, { slotReset with readyAt := e.2.readyAt }))).filter (fun e => decide (e.2 ≠ slotReset))

/-- What stays on the core when its partition leaves: the memories, whose bytes only a launch clears (R298), and the counters
from which serial numbers are drawn. -/
def leftBehind (k : Part) : Part :=
  { partReset with mode := k.mode, slots := bareSlots k, scr := k.scr, tags := k.tags, acc := k.acc, tileFlags := k.tileFlags,
                   layouts := k.layouts, issued := k.issued, nextCtx := k.nextCtx, nextUid := k.nextUid,
                   nextOrd := k.nextOrd, badWords := k.badWords, badTiles := k.badTiles }

/-- A slot as it is saved: what has not issued, or has posted nothing, is tried again on resume, an open region from its ARB; a load that
is still outstanding is translated afresh, and a walk's fault is found again (R176, R290). -/
def savedSlot (s : Slot) : Slot :=
  let h := match s.hold with
    | .sync => .none
    | .busy => .none
    | .push _ _ _ => .none
    | h => h
  { s with hold := h, cap := none, walkFault := none, loads := s.loads.map (fun l => { l with xl := [] }), region := none,
           pc := match s.region with
             | some r => r.arbPc
             | none => s.pc }

/-- The partition as it is written to AREA: what remains to each deadline (R276). -/
def savedPart (k : Part) (tick : Nat) : Part :=
  let k1 := shiftPart (fun d => d - tick) k
  { k1 with slots := k1.slots.map (fun e => (e.1, savedSlot e.2)),
            moved := k1.moved.map (fun m => { m with sl := savedSlot m.sl }) }

/-- GANG_SWITCH_SAVED (R275): the state is in AREA under the key of the team's ASID, SAVED is set and ARM cleared. DESIGN CHOICE (log 74):
with an empty key slot too the image is written under the current generation of that key. -/
def switchSaved (p : Pkg) (now c : Nat) : Pkg :=
  if (coreOf p c).switching = false ∨ (coreOf p c).fenced.isSome then p
  else
    let p1 := (mapKeys (partOf p c).slots).foldl (fun q n => finishPosting q now c n) p
    let (p2, ok) := pushCopies p1 now c
    let (p2, ok) := if ok && switchQuiet p2 c then pushReleases p2 now c else (p2, false)
    if ok = false ∨ switchQuiet p2 c = false then p2
    else
      let co := coreOf p2 c
      let asid := asidOf co.part
      let sv : Saved := ⟨c, savedPart co.part co.switchTick, asid, mapGet 0 p2.keyGen asid, now⟩
      let cl := clusterOf p2 (clusterNo c)
      let p3 := setCluster p2 (clusterNo c) { cl with walks := cl.walks.filter (fun w => decide (w.core ≠ c)) }
      updCore { p3 with saves := mapInsert p3.saves (gswArea co) sv } c (fun x => { x with
        switching := false, part := leftBehind x.part, prevAsid := some asid,
        gswctl := setFld (setFld x.gswctl 62 1 1) 63 1 0 })

def execGangSwitchSaved (core : Nat) (s : State) : Host.Outcome State Fault Refusal :=
  eventStep (fun cx p => switchSaved p cx.now core) s

/-- The partition as it runs again: deadlines from now on (R276); serial numbers go on from the larger ones. -/
def resumedPart (k : Part) (old : Part) (now : Nat) : Part :=
  let k1 := shiftPart (fun d => d + now) k
  let k2 : Part := { k1 with nextCtx := max k1.nextCtx old.nextCtx, nextUid := max k1.nextUid old.nextUid,
                             nextOrd := max k1.nextOrd old.nextOrd
                             slots := old.slots.foldl (fun m e => if (mapFind m e.1).isNone then mapInsert m e.1 e.2 else m)
                               (k1.slots.map (fun e => (e.1, { e.2 with readyAt := (slotOf old e.1).readyAt }))) }
  latchWaits k2 now (fun _ => true)

/-- GANG_SWITCH_RESUME (R276); an image whose key was destroyed leaves the core without a team, and the event is recorded
(R304). -/
def switchResume (p : Pkg) (now c : Nat) : Pkg :=
  let co := coreOf p c
  if gswResume co = false ∨ now < co.gswtime.toNat ∨ co.part.team.isSome ∨ co.switching = true ∨ co.fenced.isSome then p
  else
    let p1 := updCore p c (fun x => { x with gswctl := setFld x.gswctl 61 1 0 })
    match mapFind p.saves (gswArea co) with
    | none => p1
    | some sv =>
      if mapGet 0 p.keyGen sv.asid ≠ sv.gen then
        { p1 with saves := mapErase p1.saves (gswArea co), lostResumes := p1.lostResumes ++ [(c, gswArea co)] }
      else
        let asid := sv.asid
        let later := fun (d : Nat) => if d = 0 then 0 else d + now
        let p2 : Pkg := { p1 with saves := mapErase p1.saves (gswArea co), net := p1.net.map (shiftMsg c asid later),
                                  parked := p1.parked.map (shiftMsg c asid later) }
        barrierCheckAll (updPart p2 c (fun k => resumedPart sv.part k now)) now c

def execGangSwitchResume (core : Nat) (s : State) : Host.Outcome State Fault Refusal :=
  eventStep (fun cx p => switchResume p cx.now core) s

end Sys2Proof.Machine
end

