-- ==== Sys2Proof/Machine/Lane.lean ====
section
/-!
DEFINITION. The predicate and lane group (R92 to R97).
-/
namespace Sys2Proof.Machine

/-- A predicate instruction: pD takes a mask lane by lane (R92). -/
def issuePred (i : Instr) (v : Part → Nat → Fields → Mask) (s : State) : Host.Outcome State Fault Refusal :=
  issue i .lanes (fun f cx p => .done (updPart p cx.core (fun k =>
    writePred k cx.slot (guardMask (slotOf k cx.slot) f) (v k cx.slot f) f.d))) s

/-- PAND (R92). -/
def execPand (f : Fields) (s : State) : Host.Outcome State Fault Refusal :=
  issuePred (.pand f) (fun k n f => opdPred k n f.a &&& opdPred k n (bDesc f.b)) s

/-- POR (R92). -/
def execPor (f : Fields) (s : State) : Host.Outcome State Fault Refusal :=
  issuePred (.por f) (fun k n f => opdPred k n f.a ||| opdPred k n (bDesc f.b)) s

/-- PXOR (R92). -/
def execPxor (f : Fields) (s : State) : Host.Outcome State Fault Refusal :=
  issuePred (.pxor f) (fun k n f => opdPred k n f.a ^^^ opdPred k n (bDesc f.b)) s

/-- PNOT (R92). -/
def execPnot (f : Fields) (s : State) : Host.Outcome State Fault Refusal :=
  issuePred (.pnot f) (fun k n f => ~~~ (opdPred k n (bDesc f.b))) s

/-- PMOV (R92): a predicate, or bits 31:0 of a scalar or an imm32. -/
def execPmov (f : Fields) (s : State) : Host.Outcome State Fault Refusal :=
  issue (.pmov f) .lanes (fun f cx p =>
    let v := match f.b with
      | .desc (.p r) => opdPred (partOf p cx.core) cx.slot (.p r)
      | b => low32 (bScalar p cx.core (curSlot p cx) b)
    .done (updPart p cx.core (fun k => writePred k cx.slot (guardMask (slotOf k cx.slot) f) v f.d))) s

/-- PANY (R92). -/
def execPany (f : Fields) (s : State) : Host.Outcome State Fault Refusal :=
  issuePred (.pany f) (fun k n f => if opdPred k n (bDesc f.b) = 0 then 0 else allTrue) s

/-- PALL (R92). -/
def execPall (f : Fields) (s : State) : Host.Outcome State Fault Refusal :=
  issuePred (.pall f) (fun k n f => if opdPred k n (bDesc f.b) = allTrue then allTrue else 0) s

/-- A scalar made from a predicate. -/
def issuePredScalar (i : Instr) (v : Mask → Word) (s : State) : Host.Outcome State Fault Refusal :=
  issue i .lane0 (fun f cx p => .done (updPart p cx.core (fun k =>
    writeScalar k cx.slot (v (opdPred k cx.slot (bDesc f.b))) f.d))) s

/-- PCNT (R92): the number of true lanes. -/
def execPcnt (f : Fields) (s : State) : Host.Outcome State Fault Refusal :=
  issuePredScalar (.pcnt f) (fun m => BitVec.ofNat 64 (popCount 32 m.toNat)) s

/-- VBALLOT (R92): the lanes as bits. -/
def execVballot (f : Fields) (s : State) : Host.Outcome State Fault Refusal :=
  issuePredScalar (.vballot f) (fun m => m.zeroExtend 64) s

/-- The source lane of VSHFL for lane l and count n; lane l itself where there is none (R93). -/
def shflSource (mode l n : Nat) : Nat :=
  match mode with
  | 0 => n
  | 1 => if n ≤ l then l - n else l
  | 2 => if l + n ≤ 31 then l + n else l
  | _ => l ^^^ n

/-- VSHFL (R93). -/
def execVshfl (f : Fields) (s : State) : Host.Outcome State Fault Refusal :=
  issueVec (.vshfl f) (fun f x => plain (mkLanes (fun l =>
    lane x.a (shflSource (fld f.md 0 2) l ((lane x.b l).toNat % 32))))) s

/-- VPERM (R94). -/
def execVperm (f : Fields) (s : State) : Host.Outcome State Fault Refusal :=
  issueVec (.vperm f) (fun _ x => plain (mkElems 8 (fun k =>
    let n := elem 8 x.b k
    if 128 ≤ n then 0 else elem 8 x.a n))) s

/-- The rank of lane l among the true lanes of a mask: how many lie below it. -/
def maskRank (m : Mask) (l : Nat) : Nat := popCount l m.toNat

/-- The lane that holds the j-th true lane of a mask (R95). -/
def maskSelect (m : Mask) (j : Nat) : Option Nat :=
  (List.range 32).find? (fun l => bit m l && decide (maskRank m l = j))

/-- VCOMP (R95): the lanes a mask selects, moved together. -/
def execVcomp (f : Fields) (s : State) : Host.Outcome State Fault Refusal :=
  issue (.vcomp f) .lanes (fun f cx p =>
    let x := vIn p cx f
    let m := opdPred (partOf p cx.core) cx.slot (bDesc f.b)
    let v := mkLanes (fun j => match maskSelect m j with
      | some l => lane x.a l
      | none => 0)
    .done (writeVec (popSources p cx.core f) cx.core cx.slot x.g v f.d)) s

/-- VEXPD (R95): consecutive lanes, spread over the lanes a mask selects. -/
def execVexpd (f : Fields) (s : State) : Host.Outcome State Fault Refusal :=
  issue (.vexpd f) .lanes (fun f cx p =>
    let x := vIn p cx f
    let m := opdPred (partOf p cx.core) cx.slot (bDesc f.b)
    let v := mkLanes (fun l => if bit m l then lane x.a (maskRank m l) else 0)
    .done (writeVec (popSources p cx.core f) cx.core cx.slot x.g v f.d)) s

/-- The width of an element of a reduction type (R96). -/
def redWidth (ty : Nat) : Nat := 8 * tySize ty

/-- The elements of a register as their type's encodings. -/
def redElems (ty : Nat) (v : VReg) : List Nat := (List.range (1024 / redWidth ty)).map (elem (redWidth ty) v)

/-- A BF16 subnormal among encodings. -/
def anySub (ty : Nat) (l : List Nat) : Bool := decide (ty = 9) && l.any (isSubnormal fmtBF16)

/-- An element converted exactly to F32, a BF16 subnormal flushed unless compatibility mode keeps it (R96). -/
def redToF32 (ty : Nat) (flush : Bool) (x : Nat) : Nat := f32Bits (readF (fmtOfTy ty) flush x)

/-- One level of the pairwise tree of R96. -/
def pairUp : List Nat → List Nat × Flags
  | a :: b :: rest =>
    let r := fvAdd fmtF32 .rn false (decodeF fmtF32 a) (decodeF fmtF32 b)
    let (l, fl) := pairUp rest
    (r.bits :: l, r.fl ||| fl)
  | l => (l, 0)

/-- The pairwise tree (R96); `fuel` bounds its levels. -/
def pairTree : Nat → List Nat → Flags → Nat × Flags
  | 0, l, fl => (l.getD 0 0, fl)
  | fuel + 1, l, fl =>
    match l with
    | [x] => (x, fl)
    | l => let (l', fl') := pairUp l; pairTree fuel l' (fl ||| fl')

/-- A signalling NaN among elements. -/
def anySig (ty : Nat) (l : List Nat) : Bool := l.any (fun x => fvIsSig (decodeF (fmtOfTy ty) x))

/-- VREDA (R96): the sum of all elements. -/
def vreda (ty : Nat) (flush : Bool) (v : VReg) : Word × Flags × Bool :=
  let xs := redElems ty v
  if ty = 0 then (BitVec.ofInt 64 (xs.foldl (fun acc x => acc + asInt 32 x) 0), 0, false)
  else if ty = 4 then (BitVec.ofNat 64 (xs.foldl (· + ·) 0), 0, false)
  else
    let (r, fl) := pairTree 6 (xs.map (redToF32 ty flush)) (if anySig ty xs then fNV else 0)
    (BitVec.ofNat 64 r, fl, anySub ty xs)

def execVreda (f : Fields) (s : State) : Host.Outcome State Fault Refusal :=
  issueReduce (.vreda f) (fun f x => vreda (fld f.md 0 4) (flushes x.sl) x.a) s

/-- The least or the greatest of a list by an order. -/
def pickBy (better : Nat → Nat → Bool) : List Nat → Nat
  | [] => 0
  | x :: rest => rest.foldl (fun b y => if better y b then y else b) x

/-- VREDM (R96): the minimum or maximum of all elements. -/
def vredm (ty : Nat) (isMin flush : Bool) (v : VReg) : Word × Flags × Bool :=
  let xs := redElems ty v
  if ty = 0 then
    (BitVec.ofInt 64 (asInt 32 (pickBy (fun y b => if isMin then decide (asInt 32 y < asInt 32 b)
      else decide (asInt 32 b < asInt 32 y)) xs)), 0, false)
  else if ty = 4 then (BitVec.ofNat 64 (pickBy (fun y b => if isMin then decide (y < b) else decide (b < y)) xs), 0, false)
  else if anySig ty xs then (BitVec.ofNat 64 (fmtNaN fmtF32), fNV, anySub ty xs)
  else
    let fs := xs.map (redToF32 ty flush)
    let r := (fs.drop 1).foldl (fun b y => (fvMinMax fmtF32 false isMin b y).bits) (fs.getD 0 0)
    (BitVec.ofNat 64 r, 0, anySub ty xs)

def execVredm (f : Fields) (s : State) : Host.Outcome State Fault Refusal :=
  issueReduce (.vredm f) (fun f x => vredm (fld f.md 0 4) (bit f.md 4) (flushes x.sl) x.a) s

/-- The prefix sums of R97 after the first element: result and flags of each step. -/
def scanGo (ty : Nat) (flush : Bool) (acc : Nat) : List Nat → List (Nat × Flags)
  | [] => []
  | x :: rest =>
    let r : Rd := if tyIsInt ty then ⟨(acc + x) % 2 ^ 32, 0⟩
      else fvAdd (fmtOfTy ty) .rn flush (readF (fmtOfTy ty) flush acc) (readF (fmtOfTy ty) flush x)
    (r.bits, r.fl) :: scanGo ty flush r.bits rest

/-- VSCAN (R97): inclusive prefix sums in the type itself. -/
def vscan (ty : Nat) (flush : Bool) (g : Mask) (v : VReg) : VOut :=
  let xs := redElems ty v
  let first := if tyIsInt ty then xs.getD 0 0 else flushBits (fmtOfTy ty) flush (xs.getD 0 0)
  let rs := (first, (0 : Flags)) :: scanGo ty flush first (xs.drop 1)
  let w := redWidth ty
  let sub := (List.range xs.length).any (fun i => bit g (i * w / 32) && anySub ty [xs.getD i 0, (rs.getD i (0, 0)).1])
  packOut w g rs sub

def execVscan (f : Fields) (s : State) : Host.Outcome State Fault Refusal :=
  issueVec (.vscan f) (fun f x => vscan (fld f.md 0 4) (flushes x.sl) x.g x.a) s

end Sys2Proof.Machine
end

