-- ==== Sys2Proof/Machine/Launch.lean ====
section
/-!
DEFINITION. The loader (R39 to R41) and the launch of a team (R42, R43, R249, R259, R298).
-/
namespace Sys2Proof.Machine

/-- A list of at least n bytes: what an image does not hold reads as 0. -/
def padTo (n : Nat) (bs : List Byte) : List Byte := bs ++ List.replicate (n - bs.length) 0

def sliceAt (bs : List Byte) (off n : Nat) : List Byte := padTo n ((bs.drop off).take n)

/-- Bytes written over others from an offset on. -/
def patch (bs : List Byte) (off : Nat) (new : List Byte) : List Byte :=
  (padTo off bs).take off ++ new ++ bs.drop (off + new.length)

/-- The header of an image (R39). -/
def headerOf (bs : List Byte) : Bits512 := BitVec.ofNat 512 (leNat (sliceAt bs 0 64))

def hdTextOff (h : Bits512) : Nat := fld h 64 32
def hdTextSize (h : Bits512) : Nat := fld h 96 32
def hdEntry (h : Bits512) : Nat := fld h 128 32
def hdDataOff (h : Bits512) : Nat := fld h 160 32
def hdDataSize (h : Bits512) : Nat := fld h 192 32
def hdCaps (h : Bits512) : BitVec 32 := BitVec.ofNat 32 (fld h 224 32)
def hdWaitlim (h : Bits512) : Nat := fld h 256 64
def hdParams (h : Bits512) : BitVec 32 := BitVec.ofNat 32 (fld h 320 32)
def hdLayouts (h : Bits512) : Nat := fld h 360 8
def hdRelocs (h : Bits512) : Nat := fld h 368 16
def hdLayOff (h : Bits512) : Nat := fld h 384 32
def hdRelOff (h : Bits512) : Nat := fld h 416 32
def hdConstOff (h : Bits512) : Nat := fld h 448 32

/-- The constant binding of a window (R39). -/
def bindingOf (bs : List Byte) (n : Nat) : BitVec 128 :=
  BitVec.ofNat 128 (leNat (sliceAt bs (hdConstOff (headerOf bs) + 16 * n) 16))

/-- The conditions of LDR_FORMAT on the header, each with its bit position (R41). -/
def headerChecks (h : Bits512) : List (Bool × Nat) :=
  [(decide (fld h 0 32 ≠ 0x5A584B31), 0), (decide (fld h 32 16 ≠ 1), 32), (decide (fld h 48 2 = 3), 48),
   (decide (fld h 50 5 = 0 ∨ slotCount (fld h 48 2) < fld h 50 5), 50), (decide (fld h 55 9 ≠ 0), 55),
   (decide (hdTextOff h % 64 ≠ 0), 64), (decide (hdTextSize h % 12 ≠ 0), 96), (decide (hdEntry h % 12 ≠ 0), 128),
   (decide (hdDataOff h % 64 ≠ 0), 160), (decide (2 ^ 48 ≤ hdWaitlim h), 256), (decide (64 < hdLayouts h), 360),
   (decide (fld h 480 32 ≠ 0), 480)]

/-- A binding that LDR_FORMAT refuses (R41). -/
def bindingBad (bs : List Byte) (n : Nat) : Bool :=
  let h := headerOf bs
  let b := bindingOf bs n
  let off := fld b 0 32
  let len := fld b 32 32
  if bit h (352 + n) then
    decide (off % 4 ≠ 0) || decide (len % 4 ≠ 0) || decide (524288 < len) || decide (hdDataSize h < off + len) ||
      decide (fld b 64 64 ≠ 0)
  else decide (b ≠ 0)

/-- The first condition of LDR_FORMAT that an image meets: what it is reported with (R41). -/
def formatBad (bs : List Byte) : Option Nat :=
  match (headerChecks (headerOf bs)).find? (·.1) with
  | some c => some c.2
  | none => (List.range 8).find? (bindingBad bs)

/-- A refusal of the loader: its code, 1 LDR_FORMAT, 2 LDR_RELOC, 3 LDR_RANGE, 4 LDR_SYMBOL, 5 LDR_CAPS, and what it is reported
with (R41): SITE below KIND, SYM or the index. -/
abbrev LdrRefusal := Nat × Nat

/-- A relocation entry (R40). -/
def relocOf (bs : List Byte) (i : Nat) : BitVec 128 :=
  BitVec.ofNat 128 (leNat (sliceAt bs (hdRelOff (headerOf bs) + 16 * i) 16))

/-- The value of a symbol (R40); `va` is the address of the header. DESIGN CHOICE (log 64): SYM 16 names the first entry of the runtime's
symbol table. -/
def symbolValue (bs : List Byte) (va : Nat) (symbols : List Int) (sym : Nat) : Option Int :=
  let h := headerOf bs
  let data := va + hdDataOff h
  if sym = 0 then some (va + hdTextOff h : Nat)
  else if sym = 1 then some data
  else if sym < 10 then
    if bit h (352 + (sym - 2)) then some (data + fld (bindingOf bs (sym - 2)) 0 32 : Nat) else none
  else symbols[sym - 16]?

/-- LDR_RELOC (R41). -/
def relocBad (h : Bits512) (kind sym site rsv : Nat) : Bool :=
  decide (5 ≤ kind) || decide (10 ≤ sym ∧ sym < 16) || decide (rsv ≠ 0) ||
    (match kind with
      | 0 => decide (site % 12 ≠ 0) || decide (hdTextSize h ≤ site)
      | 1 => decide (site % 12 ≠ 0) || decide (hdTextSize h ≤ site)
      | 2 => decide (hdLayouts h ≤ site)
      | 3 => decide (site % 4 ≠ 0) || decide (hdDataSize h < site + 4)
      | _ => decide (site % 8 ≠ 0) || decide (hdDataSize h < site + 8))

/-- One relocation of the bytes of an image (R40); `orig` are the bytes as they came. -/
def relocate (orig : List Byte) (va : Nat) (symbols : List Int) (i : Nat) (bs : List Byte) : Except LdrRefusal (List Byte) :=
  let h := headerOf orig
  let r := relocOf orig i
  let site := fld r 0 32
  let kind := fld r 32 4
  let sym := fld r 40 24
  if relocBad h kind sym site (fld r 36 4) then .error (2, site + kind * 2 ^ 32 + i * 2 ^ 36)
  else match symbolValue orig va symbols sym with
    | none => .error (4, site + sym * 2 ^ 32)
    | some s =>
      let v := s + asInt 64 (fld r 64 64)
      let put := fun (ok : Bool) (off n width : Nat) =>
        if ok then Except.ok (patch bs off (leBytes n (wrapInt width v))) else .error (3, site + kind * 2 ^ 32)
      match kind with
      | 0 => put (decide (-(2 ^ 31 : Int) ≤ v ∧ v < 2 ^ 31)) (hdTextOff h + site) 4 32
      | 1 =>
        let b := BitVec.ofNat 32 (leNat (sliceAt bs (hdTextOff h + site) 4))
        let k := fld b 17 3
        let words := if bit h (352 + k) then fld (bindingOf orig k) 32 32 / 4 else 0
        if 0 ≤ v ∧ v < 2 ^ 17 ∧ v < words then .ok (patch bs (hdTextOff h + site) (leBytes 4 (setFld b 0 17 v.toNat).toNat))
        else .error (3, site + kind * 2 ^ 32)
      | 2 =>
        let e := BitVec.ofNat 512 (leNat (sliceAt bs (hdLayOff h + 64 * site) 64))
        put (decide (0 ≤ v) && baseOk (laySpace e) v.toNat) (hdLayOff h + 64 * site + 16) 8 64
      | 3 => put (decide (0 ≤ v ∧ v < 2 ^ 32)) (hdDataOff h + site) 4 32
      | _ => put true (hdDataOff h + site) 8 64

def relocateAll (orig : List Byte) (va : Nat) (symbols : List Int) : List Nat → List Byte → Except LdrRefusal (List Byte)
  | [], bs => .ok bs
  | i :: rest, bs =>
    match relocate orig va symbols i bs with
    | .error e => .error e
    | .ok b => relocateAll orig va symbols rest b

/-- The image that relocated bytes hold (R39); its header and its bindings are those of the bytes as they came. -/
def imageFrom (asid va : Nat) (orig bs : List Byte) : Image :=
  let h := headerOf orig
  let win := fun (n : Nat) => if bit h (352 + n) then
      some (n, sliceAt bs (hdDataOff h + fld (bindingOf orig n) 0 32) (fld (bindingOf orig n) 32 32))
    else none
  { asid := asid, va := va, text := sliceAt bs (hdTextOff h) (hdTextSize h), entry := hdEntry h, mode := fld h 48 2,
    slots := fld h 50 5, waitlim := BitVec.ofNat 48 (hdWaitlim h), params := hdParams h, caps := hdCaps h,
    layouts := (List.range (hdLayouts h)).map (fun n =>
      BitVec.ofNat 512 (leNat (sliceAt bs (hdLayOff h + 64 * n) 64))),
    windows := (List.range 8).filterMap win }

/-- The capabilities an address space holds (R284); one whose entry is not valid holds none. -/
def capsOf (p : Pkg) (now c asid : Nat) : BitVec 32 :=
  let e := asidEntry p now c asid
  if asidOk e then BitVec.ofNat 32 (fld e 96 32) else 0

/-- Accepts or refuses an image whole (R41): the image and the bytes to be placed. -/
def loadImageOf (p : Pkg) (now asid va : Nat) (bytes : List Byte) (symbols : List Int) :
    Except LdrRefusal (Image × List Byte) :=
  match formatBad bytes with
  | some d => .error (1, d)
  | none =>
    match relocateAll bytes va symbols (List.range (hdRelocs (headerOf bytes))) bytes with
    | .error e => .error e
    | .ok bs =>
      let missing := hdCaps (headerOf bytes) &&& ~~~ (capsOf p now 0 asid)
      if missing ≠ 0 then .error (5, missing.toNat) else .ok (imageFrom asid va bytes bs, bs)

/-- Bytes of an image in memory, at their addresses under its ASID; a page that is not mapped takes none, nor does for window contents one
without the RO lease (R32; log 7). -/
def placePieces (p : Pkg) (now asid : Nat) (ro : Bool) (bs : List (Nat × Byte)) : Pkg :=
  let pieces := bs.foldl (fun m x => addPiece m x.1 x.2) ([] : SMap Piece)
  pieces.foldl (fun q e => match walk q now 0 asid e.2.va false false with
    | .ok x => if ro && decide (x.lease ≠ 3) then q
        else portWrite q now (floorKey x e.2.va) (portRec q now e.2.mask e.2.payload) none 0
    | .error _ => q) p

/-- The spans of an image's bytes that hold the contents of bound windows (R32, R39). -/
def windowSpans (bs : List Byte) : List Span :=
  let h := headerOf bs
  ((List.range 8).filter (fun n => bit h (352 + n))).map (fun n =>
    let off := hdDataOff h + fld (bindingOf bs n) 0 32
    (off, off + fld (bindingOf bs n) 32 32))

/-- The bytes of an image in memory, its windows in RO pages (R32). -/
def placeBytes (p : Pkg) (now asid va : Nat) (wins : List Span) (bs : List Byte) : Pkg :=
  let inWin := fun (x : Byte × Nat) => wins.any (fun w => decide (w.1 ≤ x.2) && decide (x.2 < w.2))
  let at' := fun (x : Byte × Nat) => (va + x.2, x.1)
  placePieces (placePieces p now asid false ((bs.zipIdx.filter (fun x => !inWin x)).map at')) now asid true
    ((bs.zipIdx.filter inWin).map at')

/-- The place of an image among the loaded ones. -/
def imageKey (asid va : Nat) : Nat := va * 512 + asid

/-- IMAGE_LOAD (R41). -/
def imageLoad (p : Pkg) (now asid va : Nat) (bytes : List Byte) (symbols : List Int) : Pkg :=
  match loadImageOf p now asid va bytes symbols with
  | .error e => { p with loader := p.loader ++ [e] }
  | .ok (im, bs) => placeBytes { p with images := mapInsert p.images (imageKey asid va) im } now asid va (windowSpans bytes) bs

def execImageLoad (asid va : Nat) (bytes : List Byte) (symbols : List Int) (s : State) : Host.Outcome State Fault Refusal :=
  eventStep (fun cx p => if asid < 512 ∧ va < 2 ^ 57 then imageLoad p cx.now asid va bytes symbols else p) s

/-- The launch record that a core takes (R257, R259): priority and place. -/
def launchRecord (p : Pkg) (c : Nat) : Option (Nat × Nat × QRec) :=
  [7, 6, 5, 4, 3, 2, 1, 0].findSome? (fun prio =>
    (((queueOf p (clusterNo c) prio).zipIdx).find? (fun x => recLaunch x.1.task && decide (recCore x.1.task = c))).map
      (fun x => (prio, x.2, x.1)))

/-- Why a launch does not create its team: it waits for what holds a read, or is abandoned (R43). -/
inductive LaunchStop where
  | held (p : Pkg)
  | bad (t : Trap) (idx : Nat)
  deriving DecidableEq, Repr, Inhabited

/-- The descriptor itself, in a report (R43). -/
def descIdx : Nat := 0xFFFFFFFF

/-- A granule read as a strong load at PKG (R43, R167). -/
def readGran (p : Pkg) (now c asid : Nat) (user : Bool) (idx va : Nat) : Except LaunchStop (Pkg × Granule) :=
  match walk p now c asid va user false with
  | .error t => .error (.bad t idx)
  | .ok x =>
    let (p1, ok) := pushKeys p now c 5 (probeKeys x va)
    if ok = false ∨ behindRegion p1 c 3 (probeKeys x va) = true ∨ (probeKeys x va).any (readWaits p1 now c 3) = true then .error (.held p1)
    else match viewBad p1 now c 3 x va with
      | some k => .error (.bad (memCheck (32 * keyGran k)) idx)
      | none => .ok (logReads p1 now c 18 [va / 32], (viewGranule p1 now c 3 x va (BitVec.allOnes 32)).1)

def readGrans (p : Pkg) (now c asid : Nat) (user : Bool) (idx : Nat) : List Nat → Except LaunchStop (Pkg × List Byte)
  | [] => .ok (p, [])
  | va :: rest =>
    match readGran p now c asid user idx va with
    | .error e => .error e
    | .ok (p1, g) =>
      match readGrans p1 now c asid user idx rest with
      | .error e => .error e
      | .ok (p2, bs) => .ok (p2, leBytes 32 g.toNat ++ bs)

/-- n bytes at a virtual address. -/
def readSpan (p : Pkg) (now c asid : Nat) (user : Bool) (idx va n : Nat) : Except LaunchStop (Pkg × List Byte) :=
  if n = 0 then .ok (p, [])
  else
    let first := va / 32
    let count := (va + n - 1) / 32 - first + 1
    match readGrans p now c asid user idx ((List.range count).map (fun i => 32 * (first + i))) with
    | .error e => .error e
    | .ok (p1, bs) => .ok (p1, (bs.drop (va % 32)).take n)

/-- A launch descriptor (R43). -/
structure LaunchDesc where
  gtag : Word
  ptab : Nat
  pcnt : Nat
  den : Bool
  dvec : Nat
  done : Nat
  members : List Nat
  deriving DecidableEq, Repr, Inhabited

/-- ARG 0: no descriptor. -/
def noDesc : LaunchDesc := ⟨0, 0, 0, false, 0, 0, []⟩

/-- The group of a descriptor. A group all of whose members have ended is no more. -/
def groupOf (p : Pkg) (asid : Nat) (gtag : Word) : Option Group :=
  p.groups.find? (fun g => decide (g.asid = asid) && decide (g.gtag = gtag) &&
    (decide (g.members = []) || g.members.any (fun m => !g.ended.contains m && !g.abandoned.contains m)))

/-- Puts a group among the groups in the place of the one with its ASID and GTAG. -/
def putGroup (p : Pkg) (g : Group) : Pkg :=
  { p with groups := p.groups.filter (fun x => !(decide (x.asid = g.asid) && decide (x.gtag = g.gtag))) ++ [g] }

/-- The MEMBERS conditions of R43. -/
def membersBad (p : Pkg) (c asid : Nat) (d : LaunchDesc) : Bool :=
  decide (d.gtag ≠ 0) && (!d.members.contains c || (match groupOf p asid d.gtag with
    | some g => (decide (g.members ≠ []) && decide (g.members ≠ d.members)) || d.members.any (fun m => g.ended.contains m)
    | none => false))

/-- The fields of a descriptor as they stand. -/
def descFields (b : BitVec 4608) : LaunchDesc :=
  { gtag := BitVec.ofNat 64 (fld b 0 64), ptab := fld b 64 64, pcnt := fld b 128 16, den := bit b 159, dvec := fld b 144 6,
    done := fld b 192 64, members := (List.range 4096).filter (fun n => bit b (512 + n)) }

/-- The conditions on a descriptor, in the order of its fields (R43): the trap that each comes to. -/
def descChecks (p : Pkg) (c asid : Nat) (b : BitVec 4608) : Option Trap :=
  let d := descFields b
  let align := fun (a : Nat) => some (trapOf causeAlign 0 (BitVec.ofNat 64 a) 0)
  let bounds := some (trapOf causeBounds 6 0 0)
  if d.pcnt ≠ 0 ∧ d.ptab % 16 ≠ 0 then align d.ptab
  else if 256 < d.pcnt then bounds
  else if d.den = true ∧ d.dvec < 4 then bounds
  else if fld b 150 9 ≠ 0 ∨ fld b 160 32 ≠ 0 then bounds
  else if d.done % 8 ≠ 0 then align d.done
  else if fld b 256 256 ≠ 0 then bounds
  else if membersBad p c asid d then bounds
  else none

/-- A preload entry: source, destination, bytes (R43). -/
def preloadChecks (b : BitVec 128) : Option Trap :=
  let align := fun (a : Nat) => some (trapOf causeAlign 0 (BitVec.ofNat 64 a) 0)
  if fld b 0 57 % 8 ≠ 0 then align (fld b 0 57)
  else if fld b 57 7 ≠ 0 then some (trapOf causeBounds 6 0 0)
  else if fld b 64 17 % 8 ≠ 0 then align (fld b 64 17)
  else if fld b 81 15 ≠ 0 then some (trapOf causeBounds 6 0 0)
  else if fld b 96 32 % 8 ≠ 0 then align (fld b 96 32)
  else if 131072 < fld b 64 17 + fld b 96 32 then some (trapOf causeBounds 7 0 0)
  else none

/-- Reads the preload table, entry by entry (R43): a fault of an entry's read, or a condition on it, carries its index. -/
def readTable (p : Pkg) (now c asid : Nat) (user : Bool) (ptab : Nat) : List Nat → Except LaunchStop (Pkg × List (BitVec 128))
  | [] => .ok (p, [])
  | i :: rest =>
    match readSpan p now c asid user i (ptab + 16 * i) 16 with
    | .error e => .error e
    | .ok (p1, bs) =>
      let b := BitVec.ofNat 128 (leNat bs)
      match preloadChecks b with
      | some t => .error (.bad t i)
      | none =>
        match readTable p1 now c asid user ptab rest with
        | .error e => .error e
        | .ok (p2, l) => .ok (p2, b :: l)

/-- Reads the source bytes of the preload entries in order (R43): destination and bytes. -/
def preloadRead (p : Pkg) (now c asid : Nat) (user : Bool) :
    List (BitVec 128) → Nat → Except LaunchStop (Pkg × List (Nat × List Byte))
  | [], _ => .ok (p, [])
  | b :: rest, i =>
    match readSpan p now c asid user i (fld b 0 57) (fld b 96 32) with
    | .error e => .error e
    | .ok (p1, bs) =>
      match preloadRead p1 now c asid user rest (i + 1) with
      | .error e => .error e
      | .ok (p2, l) => .ok (p2, (fld b 64 17, bs) :: l)

/-- What a launch has read: the package after the pushes, its preload and its parameters. -/
structure LaunchRead where
  p : Pkg
  pre : List (Nat × List Byte)
  params : List Byte
  deriving DecidableEq, Repr, Inhabited

/-- Reads the descriptor of a launch (R43). -/
def readDesc (p : Pkg) (now c asid : Nat) (user : Bool) (arg : Nat) : Except LaunchStop (Pkg × BitVec 4608) :=
  if arg = 0 then .ok (p, 0)
  else if arg % 64 ≠ 0 then .error (.bad (trapOf causeAlign 0 (BitVec.ofNat 64 arg) 0) descIdx)
  else match readSpan p now c asid user descIdx arg 576 with
    | .error e => .error e
    | .ok (p1, bs) => .ok (p1, BitVec.ofNat 4608 (leNat bs))

/-- Reads the rest: the preload table, what it names, and the parameter block (R42, R43). -/
def readLaunch (p : Pkg) (now c asid : Nat) (user : Bool) (b : BitVec 4608) (im : Image) (frame : Nat) :
    Except LaunchStop LaunchRead :=
  let d := descFields b
  match descChecks p c asid b with
  | some t => .error (.bad t descIdx)
  | none =>
    match readTable p now c asid user d.ptab (List.range d.pcnt) with
    | .error e => .error e
    | .ok (p1, tab) =>
      match preloadRead p1 now c asid user tab 0 with
      | .error e => .error e
      | .ok (p2, pre) =>
        match readSpan p2 now c asid user descIdx frame (8 * popCount 32 im.params.toNat) with
        | .error e => .error e
        | .ok (p3, ps) => .ok ⟨p3, pre, ps⟩

/-- A launch is abandoned (R43): a report, the completion word, and its core takes no part in the group's barriers (R225). -/
def abandonLaunch (p : Pkg) (now c asid : Nat) (sup : Bool) (d : LaunchDesc) (t : Trap) (idx : Nat) : Pkg :=
  let r : Report := ⟨t.cause, t.sub, BitVec.ofNat 64 idx, 0, 0, false, true, 0, asid, c⟩
  let p1 := report p now r
  let p2 := completionWord p1 now c asid d.done d.dvec d.den sup 4
  if d.gtag = 0 then p2
  else
    let g := (groupOf p2 asid d.gtag).getD ⟨asid, d.gtag, [], [], []⟩
    g.members.foldl (fun q m => barrierCheckAll q now m) (putGroup p2 { g with abandoned := g.abandoned ++ [c] })

/-- The registers of the control context that receive parameters, in ascending order (R42). -/
def paramRegs (params : BitVec 32) (bs : List Byte) : SMap Word :=
  (((List.range 32).filter (fun n => bit params n)).zipIdx).foldl (fun m x =>
    mapPut (0 : Word) m x.1 (BitVec.ofNat 64 (leNat (sliceAt bs (8 * x.2) 8)))) []

/-- The state in which the control context starts (R42). -/
def controlSlot (im : Image) (params : List Byte) (now : Nat) : Slot :=
  { slotReset with kind := .control, pc := im.entry, waitlim := im.waitlim, loadedAt := now, sregs := paramRegs im.params params }

/-- Zeroes the memories of a core where another address space had them (R298); every tag is empty at a launch (R162). -/
def zeroMemories (k : Part) (other : Bool) : Part :=
  if other then { k with scr := [], acc := [], tileFlags := [], badWords := [], badTiles := [], tags := [] }
  else { k with tags := [] }

/-- The initial layout entries of a team (R42). -/
def initialLayouts (k : Part) (asid : Nat) (ls : List Bits512) : Part :=
  let rest := k.layouts.filter (fun e => decide (e.1 / 64 ≠ asid))
  { k with layouts := (ls.zipIdx).foldl (fun m x => mapInsert m (asid * 64 + x.2) x.1) rest }

/-- The core with its new team (R42, R43, R249). -/
def launchedCore (x : Core) (now asid img : Nat) (sup : Bool) (caps : BitVec 32) (im : Image) (d : LaunchDesc)
    (rd : LaunchRead) : Core :=
  let t : Team :=
    { no := x.nextTeam, asid := asid, img := img, slots := im.slots, gtag := d.gtag, done := d.done, den := d.den,
      dvec := d.dvec, started := true, sup := sup, caps := caps, waitlim := im.waitlim }
  let k1 := initialLayouts (zeroMemories (changeMode x.part im.mode) (decide (x.prevAsid ≠ some asid))) asid im.layouts
  let k2 := rd.pre.foldl (fun k e => scrWrite k now e.1 e.2) k1
  let k3 := loadContext { k2 with team := some t, tvec := 0 } 0 (controlSlot im rd.params now)
  { x with part := k3, alive := now, nextTeam := x.nextTeam + 1, scap := setFld x.scap 63 1 1 }

/-- Every tag of the core has become empty: the STSFs of other cores that wait there are served (R162). -/
def serveEmptied (p : Pkg) (now c : Nat) : Pkg :=
  (dedupNat ((partOf p c).waiters.map (fun w => w.off / 8))).foldl (fun q w => serveTag q now c w) p

/-- Registers a team as a member of its group (R43, R225). -/
def registerGroup (p : Pkg) (c asid : Nat) (d : LaunchDesc) : Pkg :=
  if d.gtag = 0 then p
  else
    let g := (groupOf p asid d.gtag).getD ⟨asid, d.gtag, [], [], []⟩
    putGroup p { g with members := d.members, abandoned := g.abandoned.filter (fun m => decide (m ≠ c)) }

/-- The launch of an image that is loaded, under an address space that holds its capabilities. `take` takes the record out of
its queue. -/
def launchImage (take : Pkg → Pkg) (p : Pkg) (now c asid : Nat) (r : BitVec 256) (im : Image) (e : BitVec 256) : Pkg :=
  let sup := bit e 2
  let stop := fun (d : LaunchDesc) (s : LaunchStop) => match s with
    | .held q => q
    | .bad t i => abandonLaunch (take p) now c asid sup d t i
  match readDesc p now c asid (!sup) (fld r 192 64) with
  | .error s => stop noDesc s
  | .ok (p1, b) =>
    let d := descFields b
    match readLaunch p1 now c asid (!sup) b im (fld r 128 64) with
    | .error s => stop d s
    | .ok rd =>
      let q := updCore (take rd.p) c (fun x =>
        launchedCore x now asid (imageKey asid (recCode r)) sup (BitVec.ofNat 32 (fld e 96 32)) im d rd)
      registerGroup (serveEmptied q now c) c asid d

/-- A core may take a launch record (R249, R259): it holds no team, and no handler runs on its errand slot. -/
def launchable (c : Core) : Bool :=
  c.part.team.isNone && c.fenced.isNone && !c.switching && c.part.slots.all (fun e => !e.2.live)

/-- TEAM_LAUNCH (R42). A record that names no loaded image, or an address space that is not valid or does not hold the image's
capabilities, is refused by the loader (R284). -/
def teamLaunch (p : Pkg) (now c : Nat) : Pkg :=
  if launchable (coreOf p c) = false then p
  else match launchRecord p c with
    | none => p
    | some (prio, i, q) =>
      let r := q.task
      let asid := recAsid r
      let take := fun (z : Pkg) => latchRoom (setQueue z (clusterNo c) prio ((queueOf z (clusterNo c) prio).eraseIdx i)) now
      let p1 := take p
      let e := asidEntry p now c asid
      match mapFind p.images (imageKey asid (recCode r)) with
      | none => { p1 with loader := p1.loader ++ [(1, 0)] }
      | some im =>
        let missing := im.caps &&& ~~~ (capsOf p now c asid)
        if asidOk e = false ∨ missing ≠ 0 then { p1 with loader := p1.loader ++ [(5, missing.toNat)] }
        else launchImage take p now c asid r im e

def execTeamLaunch (core : Nat) (s : State) : Host.Outcome State Fault Refusal :=
  eventStep (fun cx p => teamLaunch p cx.now core) s

end Sys2Proof.Machine
end

