-- ==== Sys2Proof/Machine/Barrel.lean ====
section
/-!
DEFINITION. The barrel: fetching a slot's instruction (R25, R42), which slots are ready (R253) and which issues (R254).
-/
namespace Sys2Proof.Machine

/-- The instruction word at a slot's pc, decoded (R25). -/
def fetch (p : Pkg) (core slot : Nat) : Except Reject Instr :=
  decode (textWord p core (slotOf (partOf p core) slot).pc)

/-- The unit that an instruction needs can accept it: a matrix queue of four (R113), a copy channel of 16 (R218), a free
journal entry for a message (R190, R317), a turn queue of eight (R234). -/
def unitAccepts (s : State) (k : Part) (sl : Slot) (code : Nat) (f : Fields) : Bool :=
  if code = 0x0C0 ∨ code = 0x0C1 then decide (k.matq.length < 4)
  else if code = 0x0C2 ∨ code = 0x106 ∨ code = 0x109 ∨ code = 0x10A ∨ code = 0x145 then (jFree k).isSome
  else if code = 0x120 then
    decide ((k.copies.filter (fun x => decide (x.ch = fld (blockReg sl 2 (bDesc f.b)) 32 2))).length < 16)
  else if code = 0x12C then
    decide (((s.site.links.getD (fld (opdScalar sl f.a) 0 2) linkReset).queue.length) < 8)
  else true

/-- The slot's next instruction can issue as far as its operands, the scoreboard and its unit go (R253); one that a check of
R27 or R34 refuses issues at once, as its trap. -/
def wordReady (s : State) (core slot : Nat) : Bool :=
  let k := partOf s.pkg core
  let sl := slotOf k slot
  match fetch s.pkg core slot with
  | .error _ => true
  | .ok i =>
    match i.word with
    | none => true
    | some (code, f) =>
      !stateOk k core slot code f || (sl.region.isSome && scoreboardFree k slot code f) ||
        (scoreboardFree k slot code f && operandsReady s.pkg core slot f && unitAccepts s k sl code f)

/-- What a slot stands at lets it be selected: no event is awaited, or the awaited condition has been seen. -/
def holdReady (s : State) (core slot : Nat) : Bool :=
  match (slotOf (partOf s.pkg core) slot).hold with
  | .none => wordReady s core slot
  | .busy => wordReady s core slot
  | .push _ _ _ => true
  | .wait w => w.met || decide (w.kind = .quiet)
  | .posting _ => true
  | .sync => false
  | .tile _ _ => true
  | .words _ _ _ => true
  | .joins _ _ _ _ _ => true
  | .kill _ _ => true
  | .strong _ _ _ => false
  | .region _ => false
  | .reply _ => false
  | .stopped => false

/-- The slot is 0, its control context has an asynchronous trap to take at this boundary (R310). -/
def asyncReady (k : Part) (slot : Nat) : Bool :=
  let sl := slotOf k slot
  decide (slot = 0) && controlLive k && decide (k.pend ≠ []) && !sl.handler && abandonable sl.hold

/-- The core selects slots: it is not fenced (R328), stopped by a gang switch (R275) or held (R334, R355). -/
def selects (c : Core) : Bool := c.fenced.isNone && !c.switching && !c.dbgHeld

/-- What a slot stands at is an instruction that has issued and has still to act: it goes on while a gang switch stops selection (R275). -/
def inPush (h : Hold) : Bool :=
  match h with
  | .push _ _ _ => true
  | .words _ _ _ => true
  | .joins _ _ _ _ _ => true
  | .kill _ _ => true
  | _ => false

/-- A slot is ready (R253). Four cycles between its issues and the holds of R30, R67 and R87 stand in `readyAt`; a unit's
latency in the step's choice (log 3). -/
def slotReady (s : State) (core slot : Nat) : Bool :=
  let c := coreOf s.pkg core
  let sl := slotOf c.part slot
  sl.live && !(bit s.turn.stalled slot) && decide (sl.readyAt ≤ c.cycle) &&
    (if selects c then asyncReady c.part slot || holdReady s core slot
     else c.fenced.isNone && c.switching && inPush sl.hold)

/-- The slot that issues: the first ready one after the last that issued (R254). -/
def pickSlot (s : State) (core : Nat) : Option Nat :=
  let c := coreOf s.pkg core
  let n := slotCount c.part.mode
  ((List.range n).map (fun i => (c.last + 1 + i) % n)).find? (slotReady s core)

end Sys2Proof.Machine
end

