-- ==== Sys2Proof/Machine/MemEvents.lean ====
section
/-!
DEFINITION. Events of the memory system: merges (R142, R143, R151), horizons and floor copies (R147 to R150), walks (R190, R289,
R290), and the asynchronous trap of a control context (R310).
-/
namespace Sys2Proof.Machine

/-- The drain interval of a level, in ticks (R142). -/
def drainTicks : Nat := 8000

/-- The level place exists (R12), and is not the M0 of a fenced core, whose records move only by the darn pass (R328, R329). -/
def runMoves (p : Pkg) (lvl n : Nat) : Bool := decide (n < placeCount lvl) && !(decide (lvl = 0) && (coreOf p n).fenced.isSome)

/-- DRAIN_INTERVAL_EXPIRY (R142): a record that has been in a run for the drain interval starts a merge, of its key. -/
def drainExpiry (p : Pkg) (now lvl n k : Nat) : Pkg :=
  let i := instOf p lvl n
  let c := chainOf i k
  if lvl < 3 ∧ i.merging = false ∧ i.stall.isNone ∧ runMoves p lvl n ∧
      c.any (fun r => !r.deferred && decide (r.since + drainTicks ≤ now)) then
    let i' := setChain i k (c.map (fun r => { r with frozen := true }))
    setInst p lvl n { i' with merging := true }
  else p

def execDrainIntervalExpiry (lvl inst key : Nat) (s : State) : Host.Outcome State Fault Refusal :=
  eventStep (fun cx p => drainExpiry p cx.now lvl inst key) s

/-- An MSYNC of a core whose merge has been published or has stalled returns (R197), that of a moved context as well. -/
def endSync (p : Pkg) (c : Nat) : Pkg :=
  let p1 := ((partOf p c).slots.filter (fun e => decide (e.2.hold = .sync))).foldl (fun q e => completeSlot q c e.1) p
  updPart p1 c (fun k => { k with moved := k.moved.map (fun m =>
    if m.sl.hold = .sync then { m with sl := { m.sl with pc := m.sl.pc + 12, hold := .none } } else m) })

/-- MERGE_PUBLICATION (R143). -/
def mergePublication (p : Pkg) (now lvl n : Nat) : Pkg :=
  let i := instOf p lvl n
  if runMoves p lvl n = false then p
  else
    let p1 :=
      if i.merging && i.stall.isNone then
        let keys := (i.run.filter (fun e => e.2.any (·.frozen))).map (·.1)
        let (q, stalled) := publishKeys now lvl n keys p
        if stalled then q else endMerge q lvl n
      else p
    if lvl = 0 then endSync p1 n else p1

def execMergePublication (lvl inst : Nat) (s : State) : Host.Outcome State Fault Refusal :=
  eventStep (fun cx p => mergePublication p cx.now lvl inst) s

/-- DEFERRAL_EXPIRY (R151): a deferred key is published once nothing defers it at the next level, one that a darn pass left as well (R329). -/
def deferralExpiry (p : Pkg) (now lvl n k : Nat) : Pkg :=
  let i := instOf p lvl n
  if lvl < 3 ∧ i.stall.isNone ∧ (runMoves p lvl n || (decide (lvl = 0) && (coreOf p n).darned)) ∧ (chainOf i k).any (·.deferred) ∧
      deferredAt p now (lvl + 1) (outerPlace lvl n (keyGran k)) (keyGran k) (some (childOf lvl n)) = false then
    (settleBlock p now k (mergeKey p now lvl n k)).1
  else p

def execDeferralExpiry (lvl inst key : Nat) (s : State) : Host.Outcome State Fault Refusal :=
  eventStep (fun cx p => deferralExpiry p cx.now lvl inst key) s

/-- HORIZON_EXPIRY (R150): a horizon that is no longer live is cleared. -/
def horizonExpiry (p : Pkg) (now lvl n line : Nat) : Pkg :=
  let i := instOf p lvl n
  match mapFind i.horizons line with
  | none => p
  | some h => if horizonLive p now h then p else setInst p lvl n { i with horizons := mapErase i.horizons line }

def execHorizonExpiry (lvl inst line : Nat) (s : State) : Host.Outcome State Fault Refusal :=
  eventStep (fun cx p => horizonExpiry p cx.now lvl inst line) s

/-- FLOOR_COPY_EXPIRY (R148): a copy whose expiry is reached is absent. `line` is the line under its key tag. -/
def copyExpiry (p : Pkg) (now lvl n line : Nat) : Pkg :=
  let i := instOf p lvl n
  match (mapFind i.copies line).bind (·.expiry) with
  | none => p
  | some e => if e ≤ now then setInst p lvl n { i with copies := mapErase i.copies line } else p

def execFloorCopyExpiry (lvl inst line : Nat) (s : State) : Host.Outcome State Fault Refusal :=
  eventStep (fun cx p => copyExpiry p cx.now lvl inst line) s

/-- FLOOR_COPY_EVICTION (R147). -/
def copyEviction (p : Pkg) (lvl n line : Nat) : Pkg :=
  let i := instOf p lvl n
  setInst p lvl n { i with copies := mapErase i.copies line }

def execFloorCopyEviction (lvl inst line : Nat) (s : State) : Host.Outcome State Fault Refusal :=
  eventStep (fun _ p => copyEviction p lvl inst line) s

/-- The walkers keep a copy of an ASID-table entry that is valid (R289). -/
def cacheAsid (p : Pkg) (now c asid : Nat) : Pkg :=
  let k := clusterOf p (clusterNo c)
  let e := asidEntry p now c asid
  if asidOk e then setCluster p (clusterNo c) { k with asids := mapInsert k.asids asid e } else p

/-- A translation enters a core's TLB (R289). -/
def fillTlb (p : Pkg) (c : Nat) (x : Xlat) : Pkg :=
  updCore p c (fun k => if (tlbFind k.tlb x.asid x.va).isSome then k else { k with tlb := tlbFill k.tlb x })

/-- A walker, which reads at M3 (R289), waits for the exit of a home in retention mode (R331). -/
def walkWaits (p : Pkg) : Bool := p.retained.any (fun a => decide (a / 4096 = 3))

/-- PAGE_WALK_DONE (R288, R289): the translation enters the TLB, or the fault waits for the instruction that asked. -/
def pageWalkDone (p : Pkg) (now c i : Nat) : Pkg :=
  let cl := clusterOf p (clusterNo c)
  match (cl.walks.filter (fun w => decide (w.core = c) && w.uid.isNone))[i]? with
  | none => p
  | some w =>
    let p1 := setCluster p (clusterNo c) { cl with walks := cl.walks.erase w }
    let k := partOf p c
    if walkWaits p then p
    else if (teamOf k).isNone ∨ asidOf k ≠ w.asid then p1
    else match walk p1 now c w.asid w.va (!supOf k) w.write with
      | .ok x => fillTlb (cacheAsid (logReads p1 now c 23 [w.va]) now c w.asid) c x
      | .error t => updPart p1 c (fun k => updSlot k w.slot (fun s => { s with walkFault := some (w.va, t) }))

def execPageWalkDone (core idx : Nat) (s : State) : Host.Outcome State Fault Refusal :=
  eventStep (fun cx p => pageWalkDone p cx.now core idx) s

/-- Translates every page of a journaled store afresh (R190, R290): its translations, or the fault with its address. -/
def journalXlats (p : Pkg) (now c asid ty : Nat) (user : Bool) : List Piece → Except (Trap × Nat) (List Xlat)
  | [] => .ok []
  | q :: rest =>
    let r := match tlbFind (coreOf p c).tlb asid q.va with
      | some x => (match accessCheck x user true q.va with
        | some t => Except.error t
        | none => .ok x)
      | none => walk p now c asid q.va user true
    match r with
    | .error t => .error (t, q.va)
    | .ok x =>
      match layerCheck x ty q.va with
      | some t => .error (t, q.va)
      | none =>
        match journalXlats p now c asid ty user rest with
        | .error e => .error e
        | .ok xs => .ok (if xs.contains x then xs else x :: xs)

/-- The record of a journaled store, with the owner fields of its entry (R138, R317). -/
def entryRec (p : Pkg) (now c : Nat) (e : JEntry) (opr ty : Nat) (x : Bool) (sq : BitVec 32) (q : Piece) : Rec :=
  { portRec p now q.mask q.payload with
      opr := opr, ty := ty, x := x, asid := e.asid, core := c, slot := e.slot, team := e.team, iov := true, ioff := e.ioff,
      seq := sq, posters := [c] }

/-- The walks asked for an entry are done. -/
def dropEntryWalks (p : Pkg) (c uid : Nat) : Pkg :=
  let k := clusterOf p (clusterNo c)
  setCluster p (clusterNo c) { k with walks := k.walks.filter (fun w => !(decide (w.core = c) && decide (w.uid = some uid))) }

/-- A journaled store with its translations: its records are posted to M0 in one step, as soon as all have room there (R190). -/
def postEntry (p : Pkg) (now c : Nat) (e : JEntry) (ps : List Piece) (opr ty : Nat) (x : Bool) (xs : List Xlat) : Pkg :=
  let recs := numberRecs (entryRec p now c e opr ty x) (keyPieces xs ps) e.seq
  match postRecs p now c 496 recs with
  | (p1, []) => jSuccess (xs.foldl (fun q t => fillTlb q c t) (dropEntryWalks (cacheAsid p1 now c e.asid) c e.uid)) c e.uid
  | _ => p

/-- A walk for a journaled store reads an uncorrectable error: a MACHINE_CHECK in the slot that issued the store (R326). DEDUCED (log 65): the
entry goes on waiting, and is walked again once the handler is over. -/
def walkCheck (p : Pkg) (now c : Nat) (e : JEntry) (t : Trap) : Option Pkg :=
  let s := slotOf (partOf p c) (slotNow (partOf p c) e.slot e.ctx)
  if t.cause ≠ causeMachineCheck ∨ s.live = false ∨ s.ctx ≠ e.ctx then none
  else if s.handler then some p
  else some ((raiseInSlot p now c e.slot e.ctx e.asid e.ioff t).getD p)

/-- JOURNAL_WALK_RESULT (R190). -/
def journalWalk (p : Pkg) (now c n : Nat) : Pkg :=
  let k := partOf p c
  match mapFind k.journal n with
  | none => p
  | some e => (match e.body with
    | .store ps opr ty x =>
      if e.status ≠ 1 ∨ (coreOf p c).fenced.isSome ∨ walkWaits p = true then p
      else (match journalXlats p now c e.asid ty (!supOf k) ps with
        | .ok xs => postEntry p now c e ps opr ty x xs
        | .error (t, va) => (match walkCheck p now c e t with
          | some q => q
          | none =>
            let p1 := setPart (dropEntryWalks p c e.uid) c (jPut k n { e with addr := va / 65536 })
            jFail p1 now c e.uid 3 t.cause 0))
    | .msg _ _ _ => p)

def execJournalWalkResult (core entry : Nat) (s : State) : Host.Outcome State Fault Refusal :=
  eventStep (fun cx p => journalWalk p cx.now core entry) s

/-- ASYNC_TRAP_TAKE (R310). -/
def asyncTake (p : Pkg) (now c : Nat) : Pkg :=
  if selects (coreOf p c) && asyncReady (partOf p c) 0 then takeAsync p now c else p

def execAsyncTrapTake (core : Nat) (s : State) : Host.Outcome State Fault Refusal :=
  eventStep (fun cx p => asyncTake p cx.now core) s

end Sys2Proof.Machine
end

