-- ==== Sys2Proof/Machine/Links.lean ====
section
/-!
DEFINITION. The anole links (R233 to R237, R365), and the Roneel ports (R361).
-/
namespace Sys2Proof.Machine

/-- The step of an event on the Ombex complex, the links and the module. -/
def siteStep (ev : Nat → Site → Site) (s : State) : Host.Outcome State Fault Refusal := .next { s with site := ev s.time s.site }

/-- The step of an event on both. -/
def bothStep (ev : Cx → Pkg × Site → Pkg × Site) (s : State) : Host.Outcome State Fault Refusal :=
  let r := ev (cxOf s) (s.pkg, s.site)
  .next { s with pkg := r.1, site := r.2 }

/-- Changes one link of the four. -/
def updLink (x : Site) (n : Nat) (g : Link → Link) : Site :=
  match x.links[n]? with
  | some l => { x with links := x.links.set n (g l) }
  | none => x

/-- A bundle may turn (R234, R365): its last turn is 2,000 ticks ago, and it is not being recalibrated. -/
def eligible (now : Nat) (b : Bundle) : Bool :=
  (match b.lastTurn with
    | some t => decide (t + 2000 ≤ now)
    | none => true) && b.recal.isNone

/-- Turns the first `n` eligible bundles that carry a direction (R234), lowest number first: the bundles after it, and how many
turned. -/
def turnBundles (now : Nat) (fwd : Bool) : Nat → List Bundle → List Bundle × Nat
  | _, [] => ([], 0)
  | 0, bs => (bs, 0)
  | n + 1, b :: rest =>
    if b.fwd = fwd ∧ eligible now b = true then
      let r := turnBundles now fwd n rest
      ({ b with fwd := !b.fwd, lastTurn := some now, dead := some (now + 48) } :: r.1, r.2 + 1)
    else
      let r := turnBundles now fwd (n + 1) rest
      (b :: r.1, r.2)

/-- A bundle carries traffic: it is neither in dead time nor out of service (R18, R234, R365). -/
def carries (now : Nat) (b : Bundle) : Bool :=
  b.recal.isNone && (match b.dead with
    | some t => decide (t ≤ now)
    | none => true)

/-- Bundles that carry a direction. -/
def carriers (now : Nat) (fwd : Bool) (bs : List Bundle) : Nat := (bs.filter (fun b => decide (b.fwd = fwd) && carries now b)).length

/-- Brings FWD toward a target that lies between 2 and 14 (R234): two bundles go on carrying the direction that is turned from (R18). -/
def turnToward (now t : Nat) (l : Link) : Link :=
  let f := linkFwd l
  let r := if f < t then turnBundles now false (min (t - f) (carriers now false l.bundles - 2)) l.bundles
    else turnBundles now true (min (f - t) (carriers now true l.bundles - 2)) l.bundles
  { l with bundles := r.1, turns := l.turns + BitVec.ofNat 16 r.2 }

/-- The floor of two bundles in each direction (R18, R234). -/
def clampTarget (t : Nat) : Nat := min (max t 2) 14

/-- A turn command that runs (R234). -/
def runTurn (now : Nat) (c : LinkCmd) (l : Link) : Link :=
  if c.auto then { l with demand := true, refused := false }
  else
    let l1 := turnToward now (clampTarget c.t) { l with demand := false, refused := false }
    { l1 with target := c.t, short := min ((c.t - linkFwd l1) + (linkFwd l1 - c.t)) 31 }

/-- TURN_COMMAND_RUN (R234): the head of the queue runs once no bundle of the link is in dead time. -/
def runQueue (now : Nat) (l : Link) : Link :=
  match l.queue with
  | [] => l
  | c :: rest => if linkBusy l now then l else runTurn now c { l with queue := rest }

def execTurnCommandRun (link : Nat) (s : State) : Host.Outcome State Fault Refusal :=
  siteStep (fun now x => updLink x link (runQueue now)) s

/-- Changes one bundle of a link. -/
def updBundle (l : Link) (n : Nat) (g : Bundle → Bundle) : Link :=
  match l.bundles[n]? with
  | some b => { l with bundles := l.bundles.set n (g b) }
  | none => l

/-- The dead time of a bundle is over (R234). -/
def endDead (now : Nat) (b : Bundle) : Bundle :=
  match b.dead with
  | some t => if t ≤ now then { b with dead := none } else b
  | none => b

/-- BUNDLE_DEAD_TIME_END (R234). -/
def execBundleDeadTimeEnd (link bundle : Nat) (s : State) : Host.Outcome State Fault Refusal :=
  siteStep (fun now x => updLink x link (fun l => updBundle l bundle (endDead now))) s

/-- DEMAND_SPLIT_CHECK (R235): one bundle turns toward the direction in which more than twice the bytes wait. -/
def demandCheck (now fwdBytes revBytes : Nat) (l : Link) : Link :=
  if l.demand = false ∨ now < l.checked + 4000 then l
  else
    let l1 := { l with checked := now }
    if linkBusy l now then l1
    else if 2 * revBytes < fwdBytes then turnToward now (clampTarget (linkFwd l + 1)) l1
    else if 2 * fwdBytes < revBytes then turnToward now (clampTarget (linkFwd l - 1)) l1
    else l1

def execDemandSplitCheck (link fwdBytes revBytes : Nat) (s : State) : Host.Outcome State Fault Refusal :=
  siteStep (fun now x => updLink x link (demandCheck now fwdBytes revBytes)) s

/-- The other bundles that carry the direction of a bundle (R365). -/
def sharers (now : Nat) (l : Link) (n : Nat) : Nat :=
  match l.bundles[n]? with
  | some b => carriers now b.fwd (l.bundles.eraseIdx n)
  | none => 0

/-- BUNDLE_RECALIBRATION (R365): out of service, while at least two other bundles carry its direction. -/
def recalibrate (now n : Nat) (l : Link) : Link :=
  if sharers now l n < 2 then l
  else updBundle l n (fun b => if b.recal.isSome then b else { b with recal := some now })

def execBundleRecalibration (link bundle : Nat) (s : State) : Host.Outcome State Fault Refusal :=
  siteStep (fun now x => updLink x link (recalibrate now bundle)) s

/-- BUNDLE_RECALIBRATION_END (R365): back in service after 30 microseconds. -/
def endRecal (now : Nat) (b : Bundle) : Bundle :=
  match b.recal with
  | some t => if t + 30000 ≤ now then { b with recal := none } else b
  | none => b

def execBundleRecalibrationEnd (link bundle : Nat) (s : State) : Host.Outcome State Fault Refusal :=
  siteStep (fun now x => updLink x link (fun l => updBundle l bundle (endRecal now))) s

/-- The package that an address in the ADDR form names (R317). -/
def addrPkg (a : Nat) : Nat := a / 2 ^ 31 % 1024

/-- The lowest lane of a remote read that has had no value. -/
def lowestOpen (r : Reply) : Option Nat := (r.addr.find? (fun e => (mapFind r.vals e.1).isNone)).map (·.1)

/-- What is still asked of a package that no port reaches is refused (R361, R366). -/
def refuseOpen (pkg : Nat) (r : Reply) : Reply :=
  match lowestOpen r with
  | none => r
  | some n =>
    if addrPkg (mapGet 0 r.addr n) ≠ pkg then r
    else { r with left := 0, refused := match r.refused with
        | some (l, c, a) => if l ≤ n then some (l, c, a) else some (n, 0x21, mapGet 0 r.addr n)
        | none => some (n, 0x21, mapGet 0 r.addr n) }

/-- A copy has a part in a package. -/
def copyReaches (pkg : Nat) (x : Copy) : Bool :=
  [x.src, x.d].any (fun e => decide (laySpace e = 2) && decide ((homeOfEntry e).1 = pkg))

/-- The messages of a core to a package that no port reaches are refused (R361): its journal entries, its reads, its copies. -/
def refuseSender (p : Pkg) (cx : Cx) (pkg c : Nat) : Pkg :=
  let uids := (partOf p c).journal.filterMap (fun e => match e.2.body with
    | .msg _ q _ => if q = pkg ∧ e.2.status = 2 then some e.2.uid else none
    | _ => none)
  let p1 := uids.foldl (fun q u => (refusalArrives q cx c (.refusal u 0x21 0)).getD q) p
  let reqs := (partOf p1 c).slots.filterMap (fun e => match e.2.hold with
    | .reply r => if r.left ≠ 0 ∧ refuseOpen pkg r ≠ r then some r.req else none
    | _ => none)
  let p2 := reqs.foldl (fun q r => onReply q cx c r (refuseOpen pkg)) p1
  updPart p2 c (fun k => { k with copies := k.copies.map (fun x =>
    if x.left ≠ 0 ∧ copyReaches pkg x = true then { x with left := 0, refused := true } else x) })

/-- The same for a partition that a gang switch has saved: what its messages ask for is refused while it is out. -/
def refuseSaved (p : Pkg) (cx : Cx) (pkg : Nat) (e : Nat × Saved) : Pkg :=
  let c := e.2.core
  let here := partOf p c
  let p1 := refuseSender (setPart p c e.2.part) cx pkg c
  setPart { p1 with saves := p1.saves.map (fun x => if x.1 = e.1 then (x.1, { x.2 with part := partOf p1 c }) else x) } c here

/-- A package becomes unreachable (R361): the waits held for it are withdrawn, messages to it refused. -/
def losePackage (p : Pkg) (cx : Cx) (pkg : Nat) : Pkg :=
  if pkg = p.regs.pkgnum then p
  else
    let part := fun (k : Part) => { k with waiters := k.waiters.filter (fun w => !(w.slot.isNone && decide (w.pkg = pkg))) }
    let p1 : Pkg := { p with
      unreachable := dedupNat (p.unreachable ++ [pkg])
      cores := p.cores.map (fun e => (e.1, { e.2 with part := part e.2.part }))
      saves := p.saves.map (fun e => (e.1, { e.2 with part := part e.2.part })) }
    let p2 := (mapKeys p1.cores).foldl (fun q c => refuseSender q cx pkg c) p1
    p2.saves.foldl (fun q e => refuseSaved q cx pkg e) p2

/-- RONEEL_LINK_LOSS (R361): the port is retrained, its traffic moves to the other ports; `lost` are the packages that no port
reaches any more, with the last port every other package. -/
def linkLoss (cx : Cx) (port : Nat) (lost : List Nat) (x : Pkg × Site) : Pkg × Site :=
  if 16 ≤ port then x
  else
    let down := dedupNat (x.1.portsDown ++ [port])
    let gone := if down.length = 16 then List.range 1024 else lost.filter (fun q => decide (q < 1024))
    (gone.foldl (fun q g => losePackage q cx g) { x.1 with portsDown := down }, x.2)

def execRoneelLinkLoss (port : Nat) (lost : List Nat) (s : State) : Host.Outcome State Fault Refusal :=
  bothStep (fun cx x => linkLoss cx port lost x) s

/-- RONEEL_PORT_RETRAINED (R361): the port carries traffic again; `reached` are the packages it reaches. -/
def portRetrained (port : Nat) (reached : List Nat) (x : Pkg × Site) : Pkg × Site :=
  if x.1.portsDown.contains port then
    ({ x.1 with unreachable := x.1.unreachable.filter (fun q => !reached.contains q), portsDown := x.1.portsDown.erase port }, x.2)
  else x

def execRoneelPortRetrained (port : Nat) (reached : List Nat) (s : State) : Host.Outcome State Fault Refusal :=
  bothStep (fun _ x => portRetrained port reached x) s

end Sys2Proof.Machine
end

