-- ==== Sys2Proof/Machine/Module.lean ====
section
/-!
DEFINITION. Fencing, the darn pass and spares (R328 to R330), and the module: boot, clocks, heat, maintenance (R20, R331, R333,
R362 to R365).
-/
namespace Sys2Proof.Machine

/-- The records that a core's teams took from their distributor and have not retired (R328): of loaded and moved-out tasks. -/
def takenRecords (k : Part) : List (Nat × BitVec 256) :=
  k.slots.filterMap (fun e => e.2.task) ++ k.moved.filterMap (fun m => m.sl.task)

/-- They return to the heads of their queues (R328). -/
def returnTaken (p : Pkg) (now c : Nat) : Pkg :=
  let co := coreOf p c
  let p1 := match co.sel with
    | some r => returnRecord p c r
    | none => p
  (takenRecords co.part).foldl (fun q r => returnRecord q c ⟨r.2, 0, r.1, now⟩) p1

/-- The tasks of a core are no longer its own. -/
def forgetTasks (k : Part) : Part :=
  { k with slots := k.slots.map (fun e => (e.1, { e.2 with task := none })),
           moved := k.moved.map (fun m => { m with sl := { m.sl with task := none } }) }

/-- The core leaves every barrier network (R328). -/
def leaveBarriers (p : Pkg) (now c : Nat) : Pkg :=
  let mine := p.groups.filter (fun g => g.members.contains c)
  let p1 : Pkg := { p with groups := p.groups.map (fun g =>
    if g.members.contains c then { g with abandoned := g.abandoned ++ [c] } else g) }
  mine.foldl (fun q g => (g.members.filter (fun m => decide (m ≠ c))).foldl (fun z m => barrierCheckAll z now m) q) p1

/-- The report of a fenced core (R307, R314, R328); R313 states no SUB for it (log 16). -/
def fencedReport (p : Pkg) (now c : Nat) : Report :=
  let d := Config.trapDetail 0x31 [now, c]
  ⟨0x31, d.1.toNat, d.2.1, 0, 0, false, false, 0, asidOf (partOf p c), c⟩

/-- A core is fenced (R328), by a trigger: 0 an uncorrectable error, 1 its watchdog, 2 a port. -/
def fenceCore (p : Pkg) (now c trigger : Nat) : Pkg :=
  if (coreOf p c).fenced.isSome ∨ 4096 ≤ c then p
  else
    let p := if trigger = 0 then logDetected p now (coreSource c) 0 c else p
    let p1 := returnTaken p now c
    let p2 := updCore p1 c (fun x => { x with fenced := some now, ask := none, sel := none, part := forgetTasks x.part })
    let p3 := withdrawElsewhere { p2 with parked := p2.parked.filter (fun m => decide (m.src ≠ c)) } c
    let p4 := leaveBarriers p3 now c
    let p5 := report p4 now (fencedReport p4 now c)
    logEvent p5 now 0x0020 (coreSource c) [c, trigger]

/-- CORE_WATCHDOG_EXPIRY (R328): throughout the fence interval a slot was ready or a message waited (`due`), and no instruction issued
and no message was accepted. -/
def watchdog (s : State) (c : Nat) : Pkg :=
  let co := coreOf s.pkg c
  match co.due with
  | some t => if selects co && decide (max t co.alive + s.pkg.regs.fenceint ≤ s.time) then fenceCore s.pkg s.time c 1 else s.pkg
  | none => s.pkg

def execCoreWatchdogExpiry (core : Nat) (s : State) : Host.Outcome State Fault Refusal :=
  .next { s with pkg := watchdog s core }

/-- UNCORRECTABLE_CORE_ERROR (R328). -/
def execUncorrectableCoreError (core : Nat) (s : State) : Host.Outcome State Fault Refusal :=
  eventStep (fun cx p => fenceCore p cx.now core 0) s

/-- The records of a run by the darn pass, `at'` the place of the first: those whose ECC checks, and the keys of the others (R329). A record
fails that holds an error, or whose place is among `bad`. -/
def darnChain (bad : List Nat) (at' : Nat) (c : List Rec) : List Rec :=
  (c.zipIdx.filter (fun x => !(x.1.bad || bad.contains (at' + x.2)))).map (·.1)

/-- The keys of the M0 run of a fenced core, each published into M1 without the records whose ECC fails (R329): the state, how many
records were recovered, and the keys of those discarded. -/
def darnKeys (now c : Nat) (bad : List Nat) : Nat → List Nat → Pkg × Nat × List Nat → Pkg × Nat × List Nat
  | _, [], a => a
  | at', k :: rest, (p, n, lost) =>
    let i := instOf p 0 c
    let ch := chainOf i k
    let keep := darnChain bad at' ch
    let lost' := lost ++ List.replicate (ch.length - keep.length) k
    let p1 := setInst p 0 c (setChain i k keep)
    match settleBlock p1 now k (mergeKey p1 now 0 c k) with
    | (p2, true) => darnKeys now c bad (at' + ch.length) rest (p2, n + keep.length, lost')
    | (p2, false) => darnKeys now c bad (at' + ch.length) rest (setInst p2 0 c (setChain (instOf p2 0 c) k
        ((chainOf (instOf p2 0 c) k).map (fun r => { r with deferred := true }))), n, lost')

/-- The journal of a fenced core after the pass (R329): entries that await translation are discarded. -/
def darnJournal (k : Part) : Part := { k with journal := k.journal.filter (fun e => decide (e.2.status ≠ 1)) }

/-- DARN_PASS (R329): `bad` are the places, in the run's order, of records whose ECC is found to fail. -/
def darnPass (p : Pkg) (now c : Nat) (bad : List Nat) : Pkg :=
  let co := coreOf p c
  if co.fenced.isNone ∨ co.darned = true then p
  else
    let keys := mapKeys (instOf p 0 c).run
    let unknown := co.part.journal.filterMap (fun e =>
      if e.2.status = 2 then some (BitVec.ofNat 128 (entryImage e.2)) else none)
    let (p1, n, lost) := darnKeys now c bad 0 keys (p, 0, [])
    let p2 := updCore p1 c (fun x => { x with darned := true, part := darnJournal x.part })
    let p3 : Pkg := { p2 with darns := p2.darns ++ [⟨c, n, lost, unknown⟩] }
    if lost = [] ∧ unknown = [] then p3 else logEvent p3 now 0x0022 (coreSource c) [lost.length, unknown.length]

def execDarnPass (core : Nat) (bad : List Nat) (s : State) : Host.Outcome State Fault Refusal :=
  eventStep (fun cx p => darnPass p cx.now core bad) s

/-- SPARE_REMAP (R330): cold but for the SEQ counter, once the darn pass is made and its records have left. -/
def spareRemap (p : Pkg) (now c : Nat) : Pkg :=
  let co := coreOf p c
  let cl := clusterOf p (clusterNo c)
  match co.fenced with
  | none => p
  | some t =>
    if co.darned = false ∨ now < t + 4000 + guardBand p.regs.fterm true ∨ cl.spares = 0 ∨ (instOf p 0 c).run ≠ [] then p
    else
      let phys := nextSpare cl
      let p1 := match co.part.team with
        | some t => reportFaults (reportPending p now c) now c t
        | none => reportPending p now c
      let p2 := setCluster p1 (clusterNo c) { clusterOf p1 (clusterNo c) with
        spares := cl.spares - 1, table := mapInsert cl.table c phys }
      let p3 := setInst p2 0 c instReset
      let p4 := setCore p3 c { coreReset with redSeq := co.redSeq, alive := now }
      logEvent p4 now 0x0021 (coreSource c) [c, phys]

def execSpareRemap (core : Nat) (s : State) : Host.Outcome State Fault Refusal :=
  eventStep (fun cx p => spareRemap p cx.now core) s

/-- The event source of a die, of a memory device (R332 names no kinds; log 15). -/
def dieSource (d : Nat) : Nat := d % 4 * 2 ^ 14 + 2 * 2 ^ 10
def deviceSource (d : Nat) : Nat := 3 * 2 ^ 10 + d % 1024

/-- RETENTION_ENTRY (R331, R332): an idle array, no merge of which is in preparation. -/
def retain (p : Pkg) (now array mib : Nat) : Pkg :=
  if p.retained.contains array ∨ array < 4096 ∨ (instOf p (array / 4096) (array % 4096)).merging = true then p
  else { logEvent p now 0x0010 (arraySource array) [array, mib] with retained := p.retained ++ [array] }

def execRetentionEntry (array mib : Nat) (s : State) : Host.Outcome State Fault Refusal :=
  eventStep (fun cx p => retain p cx.now array mib) s

/-- RETENTION_EXIT (R331, R332). -/
def release (p : Pkg) (now array mib : Nat) : Pkg :=
  if p.retained.contains array then
    { logEvent p now 0x0011 (arraySource array) [array, mib] with retained := p.retained.erase array }
  else p

def execRetentionExit (array mib : Nat) (s : State) : Host.Outcome State Fault Refusal :=
  eventStep (fun cx p => release p cx.now array mib) s

/-- AGEING_ESTIMATE (R333). -/
def ageing (p : Pkg) (now die hours : Nat) : Pkg :=
  if 4 ≤ die then p
  else
    let p1 : Pkg := { p with regs := { p.regs with eolh := mapPut 0 p.regs.eolh die (BitVec.ofNat 64 hours) } }
    logEvent p1 now 0x0040 (dieSource die) [hours]

def execAgeingEstimate (die hours : Nat) (s : State) : Host.Outcome State Fault Refusal :=
  eventStep (fun cx p => ageing p cx.now die hours) s

/-- ROW_SPARING (R365), of one of the 96 GDDR 7 devices (R8) or, from number 96 on, of the stacked SRAM of a die (log 15): the row's data has
been moved, so that nothing else changes. -/
def spareRow (now device row : Nat) (x : Pkg × Site) : Pkg × Site :=
  if deviceCount + 4 ≤ device then x
  else (logEvent x.1 now 0x0030 (deviceSource device) [device, row], { x.2 with spared := x.2.spared ++ [(device, row)] })

def execRowSparing (device row : Nat) (s : State) : Host.Outcome State Fault Refusal :=
  bothStep (fun cx x => spareRow cx.now device row x) s

/-- FIRMWARE_UPDATE (R364): the inactive slot is written, and is marked active only where its signature holds. -/
def updateFirmware (slotB signed : Bool) (x : Site) : Site :=
  if slotB = x.slotB then x
  else
    let y := if slotB then { x with signedB := signed } else { x with signedA := signed }
    if signed then { y with slotB := slotB } else y

def execFirmwareUpdate (slotB signed : Bool) (s : State) : Host.Outcome State Fault Refusal :=
  siteStep (fun _ x => updateFirmware slotB signed x) s

/-- An arithmetic clock that R20 allows, in MHz. -/
def clockOk (mhz : Nat) : Bool := decide (800 ≤ mhz) && decide (mhz ≤ 2200) && decide (mhz % 25 = 0)

/-- A frequency change of a die begins, and FTERM is published (R20, R149). -/
def changeClock (now die mhz fterm : Nat) (x : Pkg × Site) : Pkg × Site :=
  ({ x.1 with regs := { x.1.regs with fterm := fterm } },
   { x.2 with mhz := x.2.mhz.set die mhz, changing := x.2.changing.set die (some now) })

/-- FTERM while a clock domain changes frequency: a nonzero field of 32 bits (R149). -/
def ftermOk (fterm : Nat) : Bool := decide (0 < fterm) && decide (fterm < 2 ^ 32)

/-- CLOCK_FREQUENCY_CHANGE (R20). -/
def execClockFrequencyChange (die mhz fterm : Nat) (s : State) : Host.Outcome State Fault Refusal :=
  bothStep (fun cx x => if clockOk mhz && ftermOk fterm && decide (die < 4) then changeClock cx.now die mhz fterm x else x) s

/-- FREQUENCY_CHANGE_END (R149, R363): FTERM returns to zero with the last change. -/
def endChange (die : Nat) (x : Pkg × Site) : Pkg × Site :=
  let y := { x.2 with changing := x.2.changing.set die none }
  (if y.changing.all (·.isNone) then { x.1 with regs := { x.1.regs with fterm := 0 } } else x.1, y)

def execFrequencyChangeEnd (die : Nat) (s : State) : Host.Outcome State Fault Refusal := bothStep (fun _ x => endChange die x) s

/-- THERMAL_THROTTLE (R363): above 105 degrees, one step of 25 MHz a millisecond. -/
def throttle (now die celsius fterm : Nat) (x : Pkg × Site) : Pkg × Site :=
  let mhz := x.2.mhz.getD die 0
  let due := match x.2.throttled.getD die none with
    | some t => decide (t + 1000000 ≤ now)
    | none => true
  if 105 < celsius ∧ due = true ∧ 825 ≤ mhz ∧ ftermOk fterm = true ∧ die < 4 then
    let y := changeClock now die (mhz - 25) fterm x
    (y.1, { y.2 with throttled := y.2.throttled.set die (some now) })
  else x

def execThermalThrottle (die celsius fterm : Nat) (s : State) : Host.Outcome State Fault Refusal :=
  bothStep (fun cx x => throttle cx.now die celsius fterm x) s

/-- THERMAL_SHUTDOWN (R363): the module powers off without a save, and logs it. -/
def shutdown (now celsius : Nat) (x : Site) : Site :=
  if 115 ≤ celsius then { x with powered := false, booted := false, shutdowns := x.shutdowns ++ [now] } else x

def execThermalShutdown (_ celsius : Nat) (s : State) : Host.Outcome State Fault Refusal :=
  siteStep (fun now x => shutdown now celsius x) s

/-- The slot whose image the package starts from (R362): the active one, else the other; none where both signatures fail. -/
def bootSlot (active signedA signedB : Bool) : Option Bool :=
  let ok := fun (b : Bool) => if b then signedB else signedA
  if ok active then some active else if ok (!active) then some (!active) else none

/-- POWER_ON_RESET (R362): every die at reset, the number and the time written once; the package holds at step 3 where no signature
holds. What the management keeps stands. DESIGN CHOICE (log 75): the slot that the package boots from becomes the active one. -/
def powerOn (pkgnum startTick : Nat) (signedA signedB : Bool) (s : State) : State :=
  let kept : Site := { siteReset with
    signedA := signedA, signedB := signedB, slotB := s.site.slotB, shutdowns := s.site.shutdowns,
    bootFailures := s.site.bootFailures, spared := s.site.spared }
  match bootSlot s.site.slotB signedA signedB with
  | some b =>
    { s with time := startTick % 2 ^ 64, pkg := { pkgReset with regs := { regsReset with pkgnum := pkgnum % 1024 } },
             site := { kept with slotB := b } }
  | none =>
    { s with time := 0, pkg := pkgReset, site := { kept with booted := false, bootFailures := kept.bootFailures + 1 } }

def execPowerOnReset (pkgnum startTick : Nat) (signatureA signatureB : Bool) (s : State) : Host.Outcome State Fault Refusal :=
  .next (powerOn pkgnum startTick signatureA signatureB s)

end Sys2Proof.Machine
end

