-- ==== Sys2Proof/Machine/PortRegs.lean ====
section
/-!
DEFINITION. The two control ports: the package register space (R299, R354 to R360), the BAR2 aperture (R356 to R358), host
launches (R359), debug and replay (R334), MSI-X (R354).
-/
namespace Sys2Proof.Machine

/-- The event source of the ports and their registers (R332 names no kinds; log 15). -/
def portSource : Nat := 4 * 2 ^ 10

/-- A write, or a BAR2 access, outside device memory is ignored and logged (R332, R357). -/
def outsideLog (p : Pkg) (now at' val : Nat) : Pkg := logEvent p now 0x0050 portSource [at', val]

/-- Changes the package registers. -/
def updRegs (p : Pkg) (g : Regs → Regs) : Pkg := { p with regs := g p.regs }

/-- Bits [lo + len - 1 : lo] of a word in their place. -/
def keepBits (v : Word) (lo len : Nat) : Word := BitVec.ofNat 64 (fld v lo len * 2 ^ lo)

/-- A write of a register that holds the base of an area (R357): the write, or the old value and an event. -/
def writeArea (p : Pkg) (now off : Nat) (v : Word) (base len : Nat) (g : Pkg → Pkg) : Pkg :=
  if areaOk base len then g p else outsideLog p now off v.toNat

/-- The registers of a cluster's queues and of a core by their offsets (R355). -/
def ovfBaseOff (cl prio : Nat) : Nat := 0x20000 + 0x80 * cl + 16 * prio
def coreOff (off : Nat) : Nat × Nat := ((off - 0x100000) / 0x100, (off - 0x100000) % 0x100)
def isCoreReg (off : Nat) : Bool := decide (0x100000 ≤ off) && decide (off < 0x200000)
def isOvfReg (off : Nat) : Bool := decide (0x20000 ≤ off) && decide (off < 0x20800)

/-- OVFBASE (R256, R355, R357). -/
def writeOvfBase (p : Pkg) (now cl prio : Nat) (v : Word) : Pkg :=
  let k := clusterOf p cl
  writeArea p now (ovfBaseOff cl prio) v (fld v 5 47 * 32) (mapGet 0 k.ovfcap prio * 32) (fun q =>
    setCluster q cl { k with ovfbase := mapPut 0 k.ovfbase prio (keepBits v 5 47) })

/-- RPLCTL (R334, R355, R357): FULL is read-only. -/
def writeRplctl (p : Pkg) (now c : Nat) (v : Word) : Pkg :=
  writeArea p now (coreReg c 4) v (fld v 12 40 * 4096) ((coreOf p c).rplcap * 16) (fun q => updCore q c (fun x =>
    { x with rplctl := keepBits v 63 1 ||| keepBits x.rplctl 62 1 ||| keepBits v 12 40 }))

/-- %RUNQ through a port: reserved bits read zero (R264, R355). -/
def writeRunqPort (p : Pkg) (now c : Nat) (v : Word) : Pkg := writeRunq p now c (keepBits v 0 52)

/-- The registers that hold a physical address (R357); any other offset is left. -/
def writePa (p : Pkg) (now off : Nat) (v : Word) : Pkg :=
  if off = 0x08 then writeArea p now off v (fld v 14 38 * 2 ^ 14) (2 ^ 14) (fun q => updRegs q (fun r => { r with asidtab := keepBits v 14 38 }))
  else if off = 0x30 then writeArea p now off v (fld v 17 35 * 2 ^ 17) (2 ^ 17) (fun q => updRegs q (fun r => { r with fqbase := keepBits v 17 35 }))
  else if off = 0x50 then writeArea p now off v (fld v 21 31 * 2 ^ 21) (2 ^ 21) (fun q => updRegs q (fun r => { r with elbase := keepBits v 21 31 }))
  else if isOvfReg off && decide (off % 16 = 0) then writeOvfBase p now ((off - 0x20000) / 0x80) (off % 0x80 / 16) v
  else if isCoreReg off then
    match (coreOff off).2 with
    | 0x08 => writeGswctl p now (coreOff off).1 v
    | 0x10 => writeRunqPort p now (coreOff off).1 v
    | 0x20 => writeRplctl p now (coreOff off).1 v
    | _ => p
  else p

/-- PA_REGISTER_WRITE (R357). -/
def execPaRegisterWrite (offset : Nat) (val : Word) (s : State) : Host.Outcome State Fault Refusal :=
  eventStep (fun cx p => writePa p cx.now offset val) s

/-- OVFCAP (R256, R355): a write while the area holds records is ignored, as is one above 2^20. -/
def writeOvfcap (p : Pkg) (now cl prio : Nat) (v : Word) : Pkg :=
  let n := fld v 0 21
  if 128 < (queueOf p cl prio).length ∨ 2 ^ 20 < n ∨ 16 ≤ cl ∨ 8 ≤ prio then p
  else
    let k := clusterOf p cl
    latchRoom (setCluster p cl { k with ovfcap := mapPut 0 k.ovfcap prio n }) now

def execOvfcapWrite (cluster prio : Nat) (val : Word) (s : State) : Host.Outcome State Fault Refusal :=
  eventStep (fun cx p => writeOvfcap p cx.now cluster prio val) s

/-- FQOVF and ELOVF: a write of 0 clears them (R355). -/
def clearFqovf (p : Pkg) (v : Word) : Pkg := if v = 0 then updRegs p (fun r => { r with fqovf := 0 }) else p
def clearElovf (p : Pkg) (v : Word) : Pkg := if v = 0 then updRegs p (fun r => { r with elovf := 0 }) else p

def execFqovfClear (val : Word) (s : State) : Host.Outcome State Fault Refusal := eventStep (fun _ p => clearFqovf p val) s
def execElovfClear (val : Word) (s : State) : Host.Outcome State Fault Refusal := eventStep (fun _ p => clearElovf p val) s

/-- RPLCNT: a write of 0 clears it and FULL (R334, R355). -/
def clearRplcnt (p : Pkg) (c : Nat) (v : Word) : Pkg :=
  if v = 0 then updCore p c (fun x => { x with rplcnt := 0, rplctl := setFld x.rplctl 62 1 0 }) else p

def execRplcntClear (core : Nat) (val : Word) (s : State) : Host.Outcome State Fault Refusal :=
  eventStep (fun _ p => clearRplcnt p core val) s

/-- WINCTL (R356); one with the reserved KSEL 3 is ignored. -/
def writeWinctl (p : Pkg) (v : Word) : Pkg :=
  if fld v 61 2 = 3 then p else updRegs p (fun r => { r with winctl := keepBits v 52 12 ||| keepBits v 0 16 })

def execWinctlWrite (val : Word) (s : State) : Host.Outcome State Fault Refusal := eventStep (fun _ p => writeWinctl p val) s

/-- PODGRP (R360): SIZE from 1 to 1,024, RANK below it; another value is ignored. -/
def writePodgrp (p : Pkg) (v : Word) : Pkg :=
  let size := fld v 10 11
  if size = 0 ∨ 1024 < size ∨ size ≤ fld v 0 10 then p
  else updRegs p (fun r => { r with podgrp := keepBits v 32 10 ||| keepBits v 0 21 })

/-- A pending vector that is no longer masked sends its message (R354). -/
def unmaskSend (p : Pkg) (v : Nat) : Pkg :=
  if vecMasked p v = false ∧ bit p.regs.pba v = true then
    updRegs p (fun r => { r with pba := setFld r.pba v 1 0, sent := r.sent ++ [v] })
  else p

/-- A half of an MSI-X table entry (R354). -/
def writeMsix (p : Pkg) (v half : Nat) (w : Word) : Pkg :=
  let e := setFld (mapGet msixEntryReset p.regs.msix v) (64 * half) 64 w.toNat
  unmaskSend (updRegs p (fun r => { r with msix := mapPut msixEntryReset r.msix v e })) v

/-- MSIX_UNMASK (R354): the mask bit of the vector is cleared. -/
def unmask (p : Pkg) (v : Nat) : Pkg :=
  if 64 ≤ v then p
  else
    let e := setFld (mapGet msixEntryReset p.regs.msix v) 96 1 0
    unmaskSend (updRegs p (fun r => { r with msix := mapPut msixEntryReset r.msix v e })) v

def execMsixUnmask (vec : Nat) (s : State) : Host.Outcome State Fault Refusal := eventStep (fun _ p => unmask p vec) s

/-- MSIX_VECTOR_RAISE (R354): its data is performed at M3. -/
def vectorRaise (p : Pkg) (v : Nat) : Pkg :=
  if p.regs.due.contains v then raiseVec (updRegs p (fun r => { r with due := r.due.erase v })) v else p

def execMsixVectorRaise (vec : Nat) (s : State) : Host.Outcome State Fault Refusal := eventStep (fun _ p => vectorRaise p vec) s

/-- DBG.HOLD (R334, R355). -/
def setHoldBit (p : Pkg) (c : Nat) (h : Bool) : Pkg := updCore p c (fun x => { x with dbgHold := h, dbgHeld := x.dbgHeld && h })

def execDbgHold (core : Nat) (hold : Bool) (s : State) : Host.Outcome State Fault Refusal :=
  eventStep (fun _ p => setHoldBit p core hold) s

/-- The release of a slot that stopped at BKPT: it resumes at the BKPT (R315, R355). -/
def releaseStopped (p : Pkg) (c n : Nat) : Pkg :=
  if (slotOf (partOf p c) n).hold = .stopped then updPart p c (fun k => updSlot k n (fun s => { s with hold := .none })) else p

def execDbgRelease (core slot : Nat) (s : State) : Host.Outcome State Fault Refusal :=
  eventStep (fun _ p => releaseStopped p core slot) s

/-- DBG (R355). -/
def writeDbg (p : Pkg) (c : Nat) (v : Word) : Pkg :=
  let p1 := setHoldBit p c (bit v 0)
  if bit v 2 then releaseStopped p1 c (fld v 4 4) else p1

/-- FENCE: a write of 1 to bit 0 (R328, R355). -/
def fenceCommand (p : Pkg) (now c : Nat) (v : Word) : Pkg := if bit v 0 then fenceCore p now c 2 else p

def execFenceCommandWrite (core : Nat) (val : Word) (s : State) : Host.Outcome State Fault Refusal :=
  eventStep (fun cx p => fenceCommand p cx.now core val) s

/-- GSWCTL_ARM (R274). -/
def execGswctlArm (core : Nat) (val : Word) (s : State) : Host.Outcome State Fault Refusal :=
  eventStep (fun cx p => if bit val 63 then writeGswctl p cx.now core val else p) s

/-- GSWCTL_RESUME (R274). -/
def execGswctlResume (core : Nat) (val : Word) (s : State) : Host.Outcome State Fault Refusal :=
  eventStep (fun cx p => if bit val 61 then writeGswctl p cx.now core val else p) s

/-- Why an LQPORT refuses a record (R359): 1 KIND, 2 CORE, 3 PRIO, 4 ASID, 5 full, 6 partial write. -/
def lqWhy (p : Pkg) (now cl prio : Nat) (r : BitVec 256) (whole : Bool) : Option Nat :=
  if whole = false then some 6
  else if recLaunch r = false then some 1
  else if clusterNo (recCore r) ≠ cl then some 2
  else if recPrio r ≠ prio then some 3
  else if bit (asidEntry p now (cl * 256) (recAsid r)) 0 = false then some 4
  else if queueFull p cl prio then some 5
  else none

/-- A record at an LQPORT (R359): enqueued at the tail, or refused and vector 2 raised (R354). -/
def lqWrite (p : Pkg) (now cl prio : Nat) (r : BitVec 256) (whole : Bool) : Pkg :=
  if p.portWrites ≠ [] ∨ 16 ≤ cl ∨ 8 ≤ prio then p
  else match lqWhy p now cl prio r whole with
    | none =>
      let p1 := setQueue p cl prio (queueOf p cl prio ++ [⟨setFld r 3 1 0, now⟩])
      setCluster p1 cl { clusterOf p1 cl with acc := (clusterOf p1 cl).acc + 1 }
    | some w =>
      let k := clusterOf p cl
      updRegs (setCluster p cl { k with ref := k.ref + 1, why := w }) (fun x => { x with due := x.due ++ [2] })

/-- The record that the management port enqueued last at an LQPORT, in this tick: its place in the queue. -/
def lqTied (p : Pkg) (now cl prio : Nat) : Option (Nat × QRec) :=
  let q := queueOf p cl prio
  let mine := (q.zipIdx).filter (fun x => recLaunch x.1.task && decide (x.1.since = now))
  match (clusterOf p cl).lqTie with
  | some (pr, t, n) => if pr = prio ∧ t = now ∧ n = mine.length then mine.getLast?.map (fun x => (x.2, x.1)) else none
  | none => none

/-- A write of one port, in the order of the writes of a tick. Where the host's comes in the same cycle as the management's before it, the
host's record is enqueued first: as if the management's were written after it (R359). -/
def lqPort (p : Pkg) (now : Nat) (port : Port) (same : Bool) (cl prio : Nat) (r : BitVec 256) (whole : Bool) : Pkg :=
  let mark := fun (t : Option (Nat × Nat × Nat)) (q : Pkg) => setCluster q cl { clusterOf q cl with lqTie := t }
  match port with
  | .management =>
    let q := lqWrite p now cl prio r whole
    if (clusterOf q cl).acc = (clusterOf p cl).acc then q
    else mark (some (prio, now, ((queueOf q cl prio).filter (fun x => recLaunch x.task && decide (x.since = now))).length)) q
  | .host =>
    match (if same then lqTied p now cl prio else none) with
    | some (i, m) =>
      let p0 := setQueue p cl prio ((queueOf p cl prio).eraseIdx i)
      let p1 := mark none (setCluster p0 cl { clusterOf p0 cl with acc := (clusterOf p0 cl).acc - 1 })
      lqWrite (lqWrite p1 now cl prio r whole) now cl prio m.task true
    | none =>
      let q := lqWrite p now cl prio r whole
      if (clusterOf q cl).lqTie.isSome then mark none q else q

/-- LQPORT_WRITE (R358, R359): only after every earlier BAR2 write has been performed. -/
def execLqportWrite (port : Port) (cluster prio : Nat) (record : BitVec 256) (whole : Bool) (s : State) :
    Host.Outcome State Fault Refusal :=
  eventStep (fun cx p => lqPort p cx.now port cx.later cluster prio record whole) s

/-- The registers of a core (R355). -/
def writeCoreReg (p : Pkg) (now c k : Nat) (v : Word) : Pkg :=
  match k with
  | 0x00 => updCore p c (fun x => { x with gswtime := v })
  | 0x08 => writeGswctl p now c v
  | 0x10 => writeRunqPort p now c v
  | 0x18 => fenceCommand p now c v
  | 0x20 => writeRplctl p now c v
  | 0x28 => updCore p c (fun x => { x with rplcap := fld v 0 32 })
  | 0x30 => clearRplcnt p c v
  | 0x38 => writeDbg p c v
  | _ => p

/-- CRGNn_LO and CRGNn_HI (R154). -/
def writeCrgn (p : Pkg) (i : Nat) (v : Word) : Pkg :=
  let w := if i % 2 = 0 then keepBits v 62 2 ||| keepBits v 0 36 else keepBits v 0 36
  updRegs p (fun r => { r with crgn := mapPut 0 r.crgn i w })

/-- A write of 8 bytes at an offset of the register space (R355). A write to an unlisted offset, or to a read-only register, is
ignored; CPSEM takes its writes by their port (R299). -/
def writeReg (p : Pkg) (now off : Nat) (v : Word) : Pkg :=
  if off % 8 ≠ 0 then p
  else if isCoreReg off then writeCoreReg p now (coreOff off).1 (coreOff off).2 v
  else if isOvfReg off then
    if off % 16 = 0 then writePa p now off v else writeOvfcap p now ((off - 0x20000) / 0x80) (off % 0x80 / 16) v
  else if 0x10000 ≤ off ∧ off < 0x11000 then lqWrite p now ((off - 0x10000) / 0x100) (off % 0x100 / 0x20) 0 false
  else if 0x8000 ≤ off ∧ off < 0x8400 then writeMsix p ((off - 0x8000) / 16) (off % 16 / 8) v
  else if 0x100 ≤ off ∧ off < 0x200 then writeCrgn p ((off - 0x100) / 8) v
  else match off with
    | 0x08 => writePa p now off v
    | 0x18 => writePodgrp p v
    | 0x20 => writeWinctl p v
    | 0x28 => updRegs p (fun r => { r with fenceint := fld v 0 48 })
    | 0x30 => writePa p now off v
    | 0x40 => updRegs p (fun r => { r with fqtail := fld v 0 12 })
    | 0x48 => clearFqovf p v
    | 0x50 => writePa p now off v
    | 0x60 => updRegs p (fun r => { r with eltail := fld v 0 16 })
    | 0x68 => clearElovf p v
    | 0x200 => updRegs p (fun r => { r with lnuser := fld v 0 4 })
    | _ => p

/-- REGISTER_WRITE (R355). -/
def execRegisterWrite (offset : Nat) (val : Word) (s : State) : Host.Outcome State Fault Refusal :=
  eventStep (fun cx p => writeReg p cx.now offset val) s

/-- A half of a 16-byte table entry. -/
def halfOf (e : BitVec 128) (half : Nat) : Word := BitVec.ofNat 64 (fld e (64 * half) 64)

/-- LQSTAT (R359). -/
def lqstatWord (k : Cluster) : Word := BitVec.ofNat 64 (packFields [(3, k.why), (5, 0), (24, k.ref.toNat), (32, k.acc.toNat)])

/-- The registers of a core as they read (R355): FENCED and HELD say what is so; the bits that only command read zero. -/
def readCoreReg (x : Core) (k : Nat) : Word :=
  match k with
  | 0x00 => x.gswtime
  | 0x08 => x.gswctl
  | 0x10 => x.runq
  | 0x18 => BitVec.ofNat 64 (2 * b2n x.fenced.isSome)
  | 0x20 => x.rplctl
  | 0x28 => BitVec.ofNat 64 x.rplcap
  | 0x30 => BitVec.ofNat 64 x.rplcnt
  | 0x38 => BitVec.ofNat 64 (b2n x.dbgHold + 2 * b2n x.dbgHeld)
  | _ => 0

/-- A read of 8 bytes at an offset of the register space (R355); an unlisted offset reads zero, as does LQPORT. CPSEM, whose read takes
the semaphore, has an event of its own (R299). -/
def readReg (p : Pkg) (off : Nat) : Word :=
  let r := p.regs
  if off % 8 ≠ 0 then 0
  else if isCoreReg off then readCoreReg (coreOf p (coreOff off).1) (coreOff off).2
  else if isOvfReg off then
    let k := clusterOf p ((off - 0x20000) / 0x80)
    if off % 16 = 0 then mapGet 0 k.ovfbase (off % 0x80 / 16) else BitVec.ofNat 64 (mapGet 0 k.ovfcap (off % 0x80 / 16))
  else if 0x11000 ≤ off ∧ off < 0x11080 then lqstatWord (clusterOf p ((off - 0x11000) / 8))
  else if 0x8000 ≤ off ∧ off < 0x8400 then halfOf (mapGet msixEntryReset r.msix ((off - 0x8000) / 16)) (off % 16 / 8)
  else if 0x100 ≤ off ∧ off < 0x200 then mapGet 0 r.crgn ((off - 0x100) / 8)
  else if 0x208 ≤ off ∧ off < 0x228 then mapGet 0 r.eolh ((off - 0x208) / 8)
  else match off with
    | 0x08 => r.asidtab
    | 0x10 => BitVec.ofNat 64 r.pkgnum
    | 0x18 => r.podgrp
    | 0x20 => r.winctl
    | 0x28 => BitVec.ofNat 64 r.fenceint
    | 0x30 => r.fqbase
    | 0x38 => BitVec.ofNat 64 r.fqhead
    | 0x40 => BitVec.ofNat 64 r.fqtail
    | 0x48 => r.fqovf.zeroExtend 64
    | 0x50 => r.elbase
    | 0x58 => BitVec.ofNat 64 r.elhead
    | 0x60 => BitVec.ofNat 64 r.eltail
    | 0x68 => r.elovf.zeroExtend 64
    | 0x200 => BitVec.ofNat 64 r.lnuser
    | 0x8400 => r.pba
    | _ => 0

/-- A port reads a register (R355): it is given the value. -/
def portRead (p : Pkg) (off : Nat) : Pkg :=
  if off = 0 then p else { p with portOut := p.portOut ++ [(off, some (readReg p off).toNat)] }

/-- The ports as OWNER codes (R299). -/
def portNo : Port → Nat
  | .host => 1
  | .management => 2

/-- The value of CPSEM (R299). -/
def cpsemWord (owner : Nat) : Nat := if owner = 0 then 0 else 2 ^ 63 + owner

/-- A read of CPSEM by a port: the value, and the semaphore taken if it was free (R299). -/
def cpsemTake (p : Pkg) (port : Nat) : Pkg :=
  let p1 : Pkg := { p with portOut := p.portOut ++ [(0, some (cpsemWord p.regs.cpsem))] }
  if p.regs.cpsem = 0 then updRegs p1 (fun r => { r with cpsem := port }) else p1

/-- CPSEM_READ (R299): of two reads in one cycle the port goes first that did not win the tie before. -/
def cpsemRead (p : Pkg) (host management : Bool) : Pkg :=
  match host, management with
  | true, true =>
    let first := if p.regs.tieWinner = 1 then 2 else 1
    let p1 := if p.regs.cpsem = 0 then updRegs p (fun r => { r with tieWinner := first }) else p
    cpsemTake (cpsemTake p1 first) (3 - first)
  | true, false => cpsemTake p 1
  | false, true => cpsemTake p 2
  | false, false => p

def execCpsemRead (host management : Bool) (s : State) : Host.Outcome State Fault Refusal :=
  eventStep (fun _ p => cpsemRead p host management) s

/-- CPSEM_WRITE (R299, R354): a write of 0 by the owner. -/
def cpsemWrite (p : Pkg) (port : Port) (v : Word) : Pkg :=
  if v = 0 ∧ p.regs.cpsem = portNo port then updRegs p (fun r => { r with cpsem := 0, due := r.due ++ [3] }) else p

def execCpsemWrite (port : Port) (val : Word) (s : State) : Host.Outcome State Fault Refusal :=
  eventStep (fun _ p => cpsemWrite p port val) s

/-- The bytes of a request lie in the aperture (R354, R356). -/
def inAperture (addr len : Nat) : Bool := decide (addr + len ≤ 2 ^ 36)

/-- The physical address of byte b of BAR2, and the key tag of the requests of now (R356). -/
def winAddr (p : Pkg) (addr : Nat) : Nat := fld p.regs.winctl 0 16 * 2 ^ 36 + addr
def winTag (p : Pkg) : Nat :=
  match fld p.regs.winctl 61 2 with
  | 0 => fld p.regs.winctl 52 9
  | 1 => tagPkg
  | _ => tagNone

/-- BAR2_WRITE (R356 to R358): one OVW record for each granule, performed at M3 in order. -/
def bar2Write (p : Pkg) (now addr : Nat) (bytes : List Byte) : Pkg :=
  let pa := winAddr p addr
  if bit p.regs.winctl 63 = false ∨ inAperture addr bytes.length = false then p
  else if dramEnd < pa + bytes.length then outsideLog p now addr (leNat bytes)
  else
    let pieces := (bytes.zipIdx).foldl (fun m x => addPiece m (pa + x.2) x.1) ([] : SMap Piece)
    let tag := winTag p
    pieces.foldl (fun q e => portWrite q now (runKey (e.2.va / 32) tag) (portRec q now e.2.mask e.2.payload) none 0) p

def execBar2Write (addr : Nat) (bytes : List Byte) (s : State) : Host.Outcome State Fault Refusal :=
  eventStep (fun cx p => bar2Write p cx.now addr bytes) s

/-- The granules of a physical span. -/
def paGranules (pa len : Nat) : List Nat := if len = 0 then [] else (List.range ((pa + len - 1) / 32 - pa / 32 + 1)).map (fun i => pa / 32 + i)

/-- The bytes of a strong load at POD (R167, R358). -/
def bar2Value (p : Pkg) (now pa len : Nat) : Nat :=
  let gs := (paGranules pa len).map (fun g => leBytes 32 (combineFrom p now 0 3 (runKey g (winTag p))).1.toNat)
  leNat ((gs.flatten.drop (pa % 32)).take len)

/-- BAR2_READ (R356 to R358): after every earlier write; all ones where the aperture is off or the address is not backed; an abort
where a granule holds an uncorrectable error. -/
def bar2Read (p : Pkg) (now addr len : Nat) : Pkg :=
  let pa := winAddr p addr
  let say := fun (q : Pkg) (v : Option Nat) => { q with portOut := q.portOut ++ [(addr, v)] }
  if p.portWrites ≠ [] ∨ inAperture addr len = false then p
  else if bit p.regs.winctl 63 = false then say p (some (2 ^ (8 * len) - 1))
  else if dramEnd < pa + len then say (outsideLog p now addr 0) (some (2 ^ (8 * len) - 1))
  else if behindRegion p 0 3 ((paGranules pa len).map (fun g => runKey g (winTag p))) ||
      (paGranules pa len).any (fun g => readWaits p now 0 3 (runKey g (winTag p))) then p
  else match (paGranules pa len).find? (fun g => combineBad p now 0 3 (runKey g (winTag p))) with
    | some g => say (logDetected p now (arraySource (3 * 4096 + homeOf (32 * g))) 1 (32 * g)) none
    | none => say p (some (bar2Value p now pa len))

def execBar2Read (addr len : Nat) (s : State) : Host.Outcome State Fault Refusal :=
  eventStep (fun cx p => bar2Read p cx.now addr len) s

end Sys2Proof.Machine
end

