-- ==== Sys2Proof/Machine/Scalar.lean ====
section
/-!
DEFINITION. The scalar group (R79, R83, R88 to R91).
-/
namespace Sys2Proof.Machine

/-- A scalar instruction: sD takes the value (R88). -/
def issueScalar (i : Instr) (v : ScIn → Word) (s : State) : Host.Outcome State Fault Refusal :=
  issue i .lane0 (fun f cx p => .done (updPart p cx.core (fun k =>
    writeScalar k cx.slot (v (scIn p cx.core (slotOf k cx.slot) f)) f.d))) s

/-- SADD (R88): a + b. -/
def execSadd (f : Fields) (s : State) : Host.Outcome State Fault Refusal := issueScalar (.sadd f) saddVal s

/-- SSUB (R88): a - b. -/
def execSsub (f : Fields) (s : State) : Host.Outcome State Fault Refusal := issueScalar (.ssub f) ssubVal s

/-- SMUL (R88): a × b, low half. -/
def execSmul (f : Fields) (s : State) : Host.Outcome State Fault Refusal := issueScalar (.smul f) smulVal s

/-- SMULH (R88): a × b, high half. -/
def execSmulh (f : Fields) (s : State) : Host.Outcome State Fault Refusal := issueScalar (.smulh f) smulhVal s

/-- SDIV (R88): a / b truncated toward zero. -/
def execSdiv (f : Fields) (s : State) : Host.Outcome State Fault Refusal := issueScalar (.sdiv f) sdivVal s

/-- SREM (R88): the remainder of SDIV. -/
def execSrem (f : Fields) (s : State) : Host.Outcome State Fault Refusal := issueScalar (.srem f) sremVal s

/-- SAND (R88): a & b. -/
def execSand (f : Fields) (s : State) : Host.Outcome State Fault Refusal := issueScalar (.sand f) sandVal s

/-- SOR (R88): a | b. -/
def execSor (f : Fields) (s : State) : Host.Outcome State Fault Refusal := issueScalar (.sor f) sorVal s

/-- SXOR (R88): a ^ b. -/
def execSxor (f : Fields) (s : State) : Host.Outcome State Fault Refusal := issueScalar (.sxor f) sxorVal s

/-- SANDN (R88): a & ~b. -/
def execSandn (f : Fields) (s : State) : Host.Outcome State Fault Refusal := issueScalar (.sandn f) sandnVal s

/-- SSHL (R88): shift left. -/
def execSshl (f : Fields) (s : State) : Host.Outcome State Fault Refusal := issueScalar (.sshl f) sshlVal s

/-- SSHR (R88): logical shift right. -/
def execSshr (f : Fields) (s : State) : Host.Outcome State Fault Refusal := issueScalar (.sshr f) sshrVal s

/-- SSRA (R88): arithmetic shift right. -/
def execSsra (f : Fields) (s : State) : Host.Outcome State Fault Refusal := issueScalar (.ssra f) ssraVal s

/-- SROT (R88): rotate right. -/
def execSrot (f : Fields) (s : State) : Host.Outcome State Fault Refusal := issueScalar (.srot f) srotVal s

/-- SMIN (R88): the smaller. -/
def execSmin (f : Fields) (s : State) : Host.Outcome State Fault Refusal := issueScalar (.smin f) sminVal s

/-- SMAX (R88): the larger. -/
def execSmax (f : Fields) (s : State) : Host.Outcome State Fault Refusal := issueScalar (.smax f) smaxVal s

/-- SCLZ (R88): leading zeros. -/
def execSclz (f : Fields) (s : State) : Host.Outcome State Fault Refusal := issueScalar (.sclz f) sclzVal s

/-- SPOPC (R88): set bits. -/
def execSpopc (f : Fields) (s : State) : Host.Outcome State Fault Refusal := issueScalar (.spopc f) spopcVal s

/-- SBFX (R88): bit-field extract (R89). -/
def execSbfx (f : Fields) (s : State) : Host.Outcome State Fault Refusal := issueScalar (.sbfx f) sbfxVal s

/-- SBFI (R88): bit-field insert (R89). -/
def execSbfi (f : Fields) (s : State) : Host.Outcome State Fault Refusal := issueScalar (.sbfi f) sbfiVal s

/-- SSEL (R88): select by lane 0 of p[PS]. -/
def execSsel (f : Fields) (s : State) : Host.Outcome State Fault Refusal := issueScalar (.ssel f) sselVal s

/-- SMOV (R88): move. -/
def execSmov (f : Fields) (s : State) : Host.Outcome State Fault Refusal := issueScalar (.smov f) smovVal s

/-- SLI (R88): load immediate. -/
def execSli (f : Fields) (s : State) : Host.Outcome State Fault Refusal := issueScalar (.sli f) sliVal s

/-- SCMP (R88, R91): every guarded lane of pD takes the truth of a CND b. -/
def execScmp (f : Fields) (s : State) : Host.Outcome State Fault Refusal :=
  issue (.scmp f) .lanes (fun f cx p => .done (updPart p cx.core (fun k =>
    let sl := slotOf k cx.slot
    writePred k cx.slot (guardMask sl f) (if scmpVal (scIn p cx.core sl f) then allTrue else 0) f.d))) s

/-- The address SLEA returns, by SPACE (R90). -/
def sleaVal (e : Bits512) (w : Word) : Word :=
  let o := layOffset e (elemIndex e w)
  if laySpace e = 2 then
    BitVec.ofNat 64 (layBase e / 2 ^ 17 * 2 ^ 17 + wrapInt 17 ((layBase e % 2 ^ 17 : Nat) + o))
  else BitVec.ofInt 64 ((layBaseAddr e : Int) + o)

/-- SLEA (R90): the address of an element, without access or edge rule. -/
def execSlea (f : Fields) (s : State) : Host.Outcome State Fault Refusal :=
  issue (.slea f) .lane0 (fun f cx p =>
    let k := partOf p cx.core
    let w := bScalar p cx.core (slotOf k cx.slot) f.b
    match entryFor k (opdLay f.a) w [0, 1, 2] with
    | .error t => .trap t
    | .ok e => .done (setPart p cx.core (writeScalar k cx.slot (sleaVal e w) f.d))) s

end Sys2Proof.Machine
end

