-- ==== Sys2Proof/Machine/Dispatch.lean ====
section
/-!
DEFINITION. One arm for each constructor of Instr: a direct call of its meaning.
-/
namespace Sys2Proof.Machine

/-- The meaning of an instruction or an event in a state. -/
def exec (i : Instr) (s : State) : Host.Outcome State Fault Refusal :=
  match i with
  | .nop f => Sys2Proof.Machine.execNop f s
  | .bra f => Sys2Proof.Machine.execBra f s
  | .brx f => Sys2Proof.Machine.execBrx f s
  | .call f => Sys2Proof.Machine.execCall f s
  | .ret f => Sys2Proof.Machine.execRet f s
  | .loop f => Sys2Proof.Machine.execLoop f s
  | .lend f => Sys2Proof.Machine.execLend f s
  | .yield f => Sys2Proof.Machine.execYield f s
  | .sadd f => Sys2Proof.Machine.execSadd f s
  | .ssub f => Sys2Proof.Machine.execSsub f s
  | .smul f => Sys2Proof.Machine.execSmul f s
  | .smulh f => Sys2Proof.Machine.execSmulh f s
  | .sdiv f => Sys2Proof.Machine.execSdiv f s
  | .srem f => Sys2Proof.Machine.execSrem f s
  | .sand f => Sys2Proof.Machine.execSand f s
  | .sor f => Sys2Proof.Machine.execSor f s
  | .sxor f => Sys2Proof.Machine.execSxor f s
  | .sandn f => Sys2Proof.Machine.execSandn f s
  | .sshl f => Sys2Proof.Machine.execSshl f s
  | .sshr f => Sys2Proof.Machine.execSshr f s
  | .ssra f => Sys2Proof.Machine.execSsra f s
  | .srot f => Sys2Proof.Machine.execSrot f s
  | .smin f => Sys2Proof.Machine.execSmin f s
  | .smax f => Sys2Proof.Machine.execSmax f s
  | .sclz f => Sys2Proof.Machine.execSclz f s
  | .spopc f => Sys2Proof.Machine.execSpopc f s
  | .sbfx f => Sys2Proof.Machine.execSbfx f s
  | .sbfi f => Sys2Proof.Machine.execSbfi f s
  | .ssel f => Sys2Proof.Machine.execSsel f s
  | .smov f => Sys2Proof.Machine.execSmov f s
  | .sli f => Sys2Proof.Machine.execSli f s
  | .scmp f => Sys2Proof.Machine.execScmp f s
  | .slea f => Sys2Proof.Machine.execSlea f s
  | .pand f => Sys2Proof.Machine.execPand f s
  | .por f => Sys2Proof.Machine.execPor f s
  | .pxor f => Sys2Proof.Machine.execPxor f s
  | .pnot f => Sys2Proof.Machine.execPnot f s
  | .pmov f => Sys2Proof.Machine.execPmov f s
  | .pany f => Sys2Proof.Machine.execPany f s
  | .pall f => Sys2Proof.Machine.execPall f s
  | .pcnt f => Sys2Proof.Machine.execPcnt f s
  | .vshfl f => Sys2Proof.Machine.execVshfl f s
  | .vperm f => Sys2Proof.Machine.execVperm f s
  | .vreda f => Sys2Proof.Machine.execVreda f s
  | .vredm f => Sys2Proof.Machine.execVredm f s
  | .vscan f => Sys2Proof.Machine.execVscan f s
  | .vcomp f => Sys2Proof.Machine.execVcomp f s
  | .vexpd f => Sys2Proof.Machine.execVexpd f s
  | .vballot f => Sys2Proof.Machine.execVballot f s
  | .vadd f => Sys2Proof.Machine.execVadd f s
  | .vsub f => Sys2Proof.Machine.execVsub f s
  | .vmul f => Sys2Proof.Machine.execVmul f s
  | .vmulh f => Sys2Proof.Machine.execVmulh f s
  | .vmad f => Sys2Proof.Machine.execVmad f s
  | .vand f => Sys2Proof.Machine.execVand f s
  | .vor f => Sys2Proof.Machine.execVor f s
  | .vxor f => Sys2Proof.Machine.execVxor f s
  | .vandn f => Sys2Proof.Machine.execVandn f s
  | .vshl f => Sys2Proof.Machine.execVshl f s
  | .vshr f => Sys2Proof.Machine.execVshr f s
  | .vsra f => Sys2Proof.Machine.execVsra f s
  | .vmin f => Sys2Proof.Machine.execVmin f s
  | .vmax f => Sys2Proof.Machine.execVmax f s
  | .vabs f => Sys2Proof.Machine.execVabs f s
  | .vneg f => Sys2Proof.Machine.execVneg f s
  | .vcmp f => Sys2Proof.Machine.execVcmp f s
  | .vsel f => Sys2Proof.Machine.execVsel f s
  | .vmov f => Sys2Proof.Machine.execVmov f s
  | .vbcast f => Sys2Proof.Machine.execVbcast f s
  | .vclz f => Sys2Proof.Machine.execVclz f s
  | .vpopc f => Sys2Proof.Machine.execVpopc f s
  | .fadd f => Sys2Proof.Machine.execFadd f s
  | .fsub f => Sys2Proof.Machine.execFsub f s
  | .fmul f => Sys2Proof.Machine.execFmul f s
  | .ffma f => Sys2Proof.Machine.execFfma f s
  | .fdiv f => Sys2Proof.Machine.execFdiv f s
  | .fsqrt f => Sys2Proof.Machine.execFsqrt f s
  | .fmin f => Sys2Proof.Machine.execFmin f s
  | .fmax f => Sys2Proof.Machine.execFmax f s
  | .fabs f => Sys2Proof.Machine.execFabs f s
  | .fneg f => Sys2Proof.Machine.execFneg f s
  | .fcmp f => Sys2Proof.Machine.execFcmp f s
  | .frcp f => Sys2Proof.Machine.execFrcp f s
  | .frsq f => Sys2Proof.Machine.execFrsq f s
  | .fexp2 f => Sys2Proof.Machine.execFexp2 f s
  | .flog2 f => Sys2Proof.Machine.execFlog2 f s
  | .ftanh f => Sys2Proof.Machine.execFtanh f s
  | .fsin f => Sys2Proof.Machine.execFsin f s
  | .fcos f => Sys2Proof.Machine.execFcos f s
  | .fcvt f => Sys2Proof.Machine.execFcvt f s
  | .icvt f => Sys2Proof.Machine.execIcvt f s
  | .fqnt f => Sys2Proof.Machine.execFqnt f s
  | .xpack f => Sys2Proof.Machine.execXpack f s
  | .xunpk f => Sys2Proof.Machine.execXunpk f s
  | .xscale f => Sys2Proof.Machine.execXscale f s
  | .lqnt f => Sys2Proof.Machine.execLqnt f s
  | .ldec f => Sys2Proof.Machine.execLdec f s
  | .mma f => Sys2Proof.Machine.execMma f s
  | .mmas f => Sys2Proof.Machine.execMmas f s
  | .mmar f => Sys2Proof.Machine.execMmar f s
  | .accz f => Sys2Proof.Machine.execAccz f s
  | .accld f => Sys2Proof.Machine.execAccld f s
  | .accst f => Sys2Proof.Machine.execAccst f s
  | .seam f => Sys2Proof.Machine.execSeam f s
  | .unseam f => Sys2Proof.Machine.execUnseam f s
  | .ld f => Sys2Proof.Machine.execLd f s
  | .ldv f => Sys2Proof.Machine.execLdv f s
  | .st f => Sys2Proof.Machine.execSt f s
  | .stv f => Sys2Proof.Machine.execStv f s
  | .fence f => Sys2Proof.Machine.execFence f s
  | .mpush f => Sys2Proof.Machine.execMpush f s
  | .mdrop f => Sys2Proof.Machine.execMdrop f s
  | .msync f => Sys2Proof.Machine.execMsync f s
  | .drainst f => Sys2Proof.Machine.execDrainst f s
  | .arb f => Sys2Proof.Machine.execArb f s
  | .are f => Sys2Proof.Machine.execAre f s
  | .pref f => Sys2Proof.Machine.execPref f s
  | .ltset f => Sys2Proof.Machine.execLtset f s
  | .ltget f => Sys2Proof.Machine.execLtget f s
  | .lds f => Sys2Proof.Machine.execLds f s
  | .sts f => Sys2Proof.Machine.execSts f s
  | .ldsv f => Sys2Proof.Machine.execLdsv f s
  | .stsv f => Sys2Proof.Machine.execStsv f s
  | .ldsf f => Sys2Proof.Machine.execLdsf f s
  | .stsf f => Sys2Proof.Machine.execStsf f s
  | .amsg f => Sys2Proof.Machine.execAmsg f s
  | .amret f => Sys2Proof.Machine.execAmret f s
  | .rld f => Sys2Proof.Machine.execRld f s
  | .rst f => Sys2Proof.Machine.execRst f s
  | .rred f => Sys2Proof.Machine.execRred f s
  | .rgath f => Sys2Proof.Machine.execRgath f s
  | .cpy f => Sys2Proof.Machine.execCpy f s
  | .cpyw f => Sys2Proof.Machine.execCpyw f s
  | .smrg f => Sys2Proof.Machine.execSmrg f s
  | .bari f => Sys2Proof.Machine.execBari f s
  | .bara f => Sys2Proof.Machine.execBara f s
  | .bart f => Sys2Proof.Machine.execBart f s
  | .barw f => Sys2Proof.Machine.execBarw f s
  | .hwbar f => Sys2Proof.Machine.execHwbar f s
  | .qdef f => Sys2Proof.Machine.execQdef f s
  | .qadv f => Sys2Proof.Machine.execQadv f s
  | .qpub f => Sys2Proof.Machine.execQpub f s
  | .qcnt f => Sys2Proof.Machine.execQcnt f s
  | .lnturn f => Sys2Proof.Machine.execLnturn f s
  | .lnstat f => Sys2Proof.Machine.execLnstat f s
  | .start f => Sys2Proof.Machine.execStart f s
  | .spawn f => Sys2Proof.Machine.execSpawn f s
  | .join f => Sys2Proof.Machine.execJoin f s
  | .texit f => Sys2Proof.Machine.execTexit f s
  | .wait f => Sys2Proof.Machine.execWait f s
  | .wake f => Sys2Proof.Machine.execWake f s
  | .sleep f => Sys2Proof.Machine.execSleep f s
  | .teamk f => Sys2Proof.Machine.execTeamk f s
  | .repart f => Sys2Proof.Machine.execRepart f s
  | .trap f => Sys2Proof.Machine.execTrap f s
  | .eret f => Sys2Proof.Machine.execEret f s
  | .csrr f => Sys2Proof.Machine.execCsrr f s
  | .csrw f => Sys2Proof.Machine.execCsrw f s
  | .tlbinv f => Sys2Proof.Machine.execTlbinv f s
  | .keyset f => Sys2Proof.Machine.execKeyset f s
  | .keykill f => Sys2Proof.Machine.execKeykill f s
  | .mfault f => Sys2Proof.Machine.execMfault f s
  | .mres f => Sys2Proof.Machine.execMres f s
  | .sjread f => Sys2Proof.Machine.execSjread f s
  | .sjclr f => Sys2Proof.Machine.execSjclr f s
  | .bkpt f => Sys2Proof.Machine.execBkpt f s
  | .unassignedEncodingIssue r => Sys2Proof.Machine.execUnassignedEncodingIssue r s
  | .imageLoad asid va bytes symbols => Sys2Proof.Machine.execImageLoad asid va bytes symbols s
  | .teamLaunch core => Sys2Proof.Machine.execTeamLaunch core s
  | .teamEnd core => Sys2Proof.Machine.execTeamEnd core s
  | .msixVectorRaise vec => Sys2Proof.Machine.execMsixVectorRaise vec s
  | .msixUnmask vec => Sys2Proof.Machine.execMsixUnmask vec s
  | .drainIntervalExpiry lvl inst key => Sys2Proof.Machine.execDrainIntervalExpiry lvl inst key s
  | .mergePublication lvl inst => Sys2Proof.Machine.execMergePublication lvl inst s
  | .deferralExpiry lvl inst key => Sys2Proof.Machine.execDeferralExpiry lvl inst key s
  | .horizonExpiry lvl inst line => Sys2Proof.Machine.execHorizonExpiry lvl inst line s
  | .floorCopyExpiry lvl inst line => Sys2Proof.Machine.execFloorCopyExpiry lvl inst line s
  | .floorCopyEviction lvl inst line => Sys2Proof.Machine.execFloorCopyEviction lvl inst line s
  | .loadReply core slot idx => Sys2Proof.Machine.execLoadReply core slot idx s
  | .strongStorePerformed core slot => Sys2Proof.Machine.execStrongStorePerformed core slot s
  | .regionExecute core slot => Sys2Proof.Machine.execRegionExecute core slot s
  | .pageWalkDone core idx => Sys2Proof.Machine.execPageWalkDone core idx s
  | .journalWalkResult core entry => Sys2Proof.Machine.execJournalWalkResult core entry s
  | .asyncTrapTake core => Sys2Proof.Machine.execAsyncTrapTake core s
  | .remoteLoadRequest src dst => Sys2Proof.Machine.execRemoteLoadRequest src dst s
  | .remoteStoreRequest src dst => Sys2Proof.Machine.execRemoteStoreRequest src dst s
  | .rredPacket src dst => Sys2Proof.Machine.execRredPacket src dst s
  | .remoteFullEmptyRequest src dst => Sys2Proof.Machine.execRemoteFullEmptyRequest src dst s
  | .remoteWaitDeadline home idx => Sys2Proof.Machine.execRemoteWaitDeadline home idx s
  | .remoteWaitTimeoutReply src dst => Sys2Proof.Machine.execRemoteWaitTimeoutReply src dst s
  | .homeNotReadyAnswer src dst => Sys2Proof.Machine.execHomeNotReadyAnswer src dst s
  | .remoteRetryTimer src idx => Sys2Proof.Machine.execRemoteRetryTimer src idx s
  | .remoteRetryLimit src idx => Sys2Proof.Machine.execRemoteRetryLimit src idx s
  | .remoteReadReply src dst => Sys2Proof.Machine.execRemoteReadReply src dst s
  | .remoteAck src dst => Sys2Proof.Machine.execRemoteAck src dst s
  | .remoteRefusal src dst => Sys2Proof.Machine.execRemoteRefusal src dst s
  | .activeMessageArrival src dst => Sys2Proof.Machine.execActiveMessageArrival src dst s
  | .handlerStart core => Sys2Proof.Machine.execHandlerStart core s
  | .mmarCommandArrival src dst => Sys2Proof.Machine.execMmarCommandArrival src dst s
  | .wakeRequest src dst => Sys2Proof.Machine.execWakeRequest src dst s
  | .remoteBaraArrival src dst => Sys2Proof.Machine.execRemoteBaraArrival src dst s
  | .copyByteAddition src dst => Sys2Proof.Machine.execCopyByteAddition src dst s
  | .copyCountEvent src dst => Sys2Proof.Machine.execCopyCountEvent src dst s
  | .copyComplete core ch ident => Sys2Proof.Machine.execCopyComplete core ch ident s
  | .copyFault core ch ident => Sys2Proof.Machine.execCopyFault core ch ident s
  | .matrixCommandStart core => Sys2Proof.Machine.execMatrixCommandStart core s
  | .matrixCommandComplete core => Sys2Proof.Machine.execMatrixCommandComplete core s
  | .matrixEngineFault core => Sys2Proof.Machine.execMatrixEngineFault core s
  | .seamCommandComplete core => Sys2Proof.Machine.execSeamCommandComplete core s
  | .smrgComplete core => Sys2Proof.Machine.execSmrgComplete core s
  | .smrgResume core => Sys2Proof.Machine.execSmrgResume core s
  | .taskAsk core => Sys2Proof.Machine.execTaskAsk core s
  | .taskSelect core => Sys2Proof.Machine.execTaskSelect core s
  | .taskBind core => Sys2Proof.Machine.execTaskBind core s
  | .taskAgeing cluster prio idx => Sys2Proof.Machine.execTaskAgeing cluster prio idx s
  | .waitDeadlineExpiry core slot => Sys2Proof.Machine.execWaitDeadlineExpiry core slot s
  | .movedWaitEvaluation core idx => Sys2Proof.Machine.execMovedWaitEvaluation core idx s
  | .contextReload core idx => Sys2Proof.Machine.execContextReload core idx s
  | .reloadStarvationMove core => Sys2Proof.Machine.execReloadStarvationMove core s
  | .gangSwitchOut core => Sys2Proof.Machine.execGangSwitchOut core s
  | .gangSwitchSaved core => Sys2Proof.Machine.execGangSwitchSaved core s
  | .gangSwitchResume core => Sys2Proof.Machine.execGangSwitchResume core s
  | .turnCommandRun link => Sys2Proof.Machine.execTurnCommandRun link s
  | .bundleDeadTimeEnd link bundle => Sys2Proof.Machine.execBundleDeadTimeEnd link bundle s
  | .demandSplitCheck link fwdBytes revBytes => Sys2Proof.Machine.execDemandSplitCheck link fwdBytes revBytes s
  | .bundleRecalibration link bundle => Sys2Proof.Machine.execBundleRecalibration link bundle s
  | .podBarrierRound asid gtag lead round rank => Sys2Proof.Machine.execPodBarrierRound asid gtag lead round rank s
  | .remotePackageAccess pkg access => Sys2Proof.Machine.execRemotePackageAccess pkg access s
  | .roneelLinkLoss port lost => Sys2Proof.Machine.execRoneelLinkLoss port lost s
  | .powerOnReset pkgnum startTick signatureA signatureB => Sys2Proof.Machine.execPowerOnReset pkgnum startTick signatureA signatureB s
  | .clockFrequencyChange die mhz fterm => Sys2Proof.Machine.execClockFrequencyChange die mhz fterm s
  | .thermalThrottle die celsius fterm => Sys2Proof.Machine.execThermalThrottle die celsius fterm s
  | .thermalShutdown die celsius => Sys2Proof.Machine.execThermalShutdown die celsius s
  | .coreWatchdogExpiry core => Sys2Proof.Machine.execCoreWatchdogExpiry core s
  | .uncorrectableCoreError core => Sys2Proof.Machine.execUncorrectableCoreError core s
  | .darnPass core bad => Sys2Proof.Machine.execDarnPass core bad s
  | .spareRemap core => Sys2Proof.Machine.execSpareRemap core s
  | .retentionEntry array mib => Sys2Proof.Machine.execRetentionEntry array mib s
  | .retentionExit array mib => Sys2Proof.Machine.execRetentionExit array mib s
  | .ageingEstimate die hours => Sys2Proof.Machine.execAgeingEstimate die hours s
  | .rowSparing device row => Sys2Proof.Machine.execRowSparing device row s
  | .firmwareUpdate slotB signed => Sys2Proof.Machine.execFirmwareUpdate slotB signed s
  | .bar2Write addr bytes => Sys2Proof.Machine.execBar2Write addr bytes s
  | .bar2Read addr len => Sys2Proof.Machine.execBar2Read addr len s
  | .lqportWrite port cluster prio record whole => Sys2Proof.Machine.execLqportWrite port cluster prio record whole s
  | .cpsemRead host management => Sys2Proof.Machine.execCpsemRead host management s
  | .cpsemWrite port val => Sys2Proof.Machine.execCpsemWrite port val s
  | .fenceCommandWrite core val => Sys2Proof.Machine.execFenceCommandWrite core val s
  | .dbgHold core hold => Sys2Proof.Machine.execDbgHold core hold s
  | .dbgRelease core slot => Sys2Proof.Machine.execDbgRelease core slot s
  | .rplcntClear core val => Sys2Proof.Machine.execRplcntClear core val s
  | .fqovfClear val => Sys2Proof.Machine.execFqovfClear val s
  | .elovfClear val => Sys2Proof.Machine.execElovfClear val s
  | .ovfcapWrite cluster prio val => Sys2Proof.Machine.execOvfcapWrite cluster prio val s
  | .paRegisterWrite offset val => Sys2Proof.Machine.execPaRegisterWrite offset val s
  | .winctlWrite val => Sys2Proof.Machine.execWinctlWrite val s
  | .gswctlArm core val => Sys2Proof.Machine.execGswctlArm core val s
  | .gswctlResume core val => Sys2Proof.Machine.execGswctlResume core val s
  | .registerWrite offset val => Sys2Proof.Machine.execRegisterWrite offset val s
  | .sleepTimeElapsed core slot => Sys2Proof.Machine.execSleepTimeElapsed core slot s
  | .bundleRecalibrationEnd link bundle => Sys2Proof.Machine.execBundleRecalibrationEnd link bundle s
  | .roneelPortRetrained port reached => Sys2Proof.Machine.execRoneelPortRetrained port reached s
  | .frequencyChangeEnd die => Sys2Proof.Machine.execFrequencyChangeEnd die s
  | .switchBarrierCounter gid asid gtag lead => Sys2Proof.Machine.execSwitchBarrierCounter gid asid gtag lead s

end Sys2Proof.Machine
end

