-- ==== Sys2Proof/Machine/Prepare.lean ====
section
/-!
DEFINITION. What comes before the step of a turn: time passes, errors arise (R326, R331), engines and ports move (R113, R213, R355),
moved waits are evaluated (R263), what waits for its turn goes on.
-/
namespace Sys2Proof.Machine

/-- An error in the record at a place of a key's chain (R326). -/
def upsetChain (i : Nat) (c : List Rec) : List Rec := (c.zipIdx).map (fun x => if x.2 = i then { x.1 with bad := true } else x.1)

/-- An error arises (R326); one that its code corrects changes nothing, and is logged (R331, R332). -/
def applyUpset (now : Nat) (p : Pkg) (u : Upset) : Pkg :=
  match u with
  | .granule g => { p with badGran := dedupNat (p.badGran ++ [g]) }
  | .word c w => updPart p c (fun k => { k with badWords := dedupNat (k.badWords ++ [w]) })
  | .tile c t => updPart p c (fun k => { k with badTiles := dedupNat (k.badTiles ++ [t]) })
  | .sreg c n r => updPart p c (fun k => updSlot k n (fun s => { s with badRegs := dedupNat (s.badRegs ++ [r]) }))
  | .vreg c r => updPart p c (fun k => { k with badVregs := dedupNat (k.badVregs ++ [r]) })
  | .record lvl n k i =>
    let x := instOf p lvl n
    setInst p lvl n (setChain x k (upsetChain i (chainOf x k)))
  | .corrected src array off => logEvent p now 0x0001 src [array, off]
  | .copy lvl n line g =>
    let x := instOf p lvl n
    match mapFind x.copies line with
    | none => p
    | some f => setInst p lvl n { x with copies := mapInsert x.copies line { f with bad := setFld f.bad (g % 4) 1 1 } }

/-- An engine or a port does something. -/
def applyMove (now : Nat) (ahead : Bool) (p : Pkg) (m : Move) : Pkg :=
  match m with
  | .matrix c n => moveMatrix p now c n ahead
  | .seam c => moveSeam p now c
  | .acc c => moveAcc p now c
  | .copy c ch ident n => copyMove p now c ch ident n
  | .read off => portRead p off
  | .config => p

/-- A slot of a core is ready, or a message waits for the core (R328). -/
def coreDue (s : State) (c : Nat) : Bool :=
  (liveSlots (partOf s.pkg c)).any (holdReady s c) || s.pkg.net.any (fun m => decide (m.dst = c))

/-- Since when that has been so. -/
def stillDue (s : State) (c : Nat) (x : Core) : Option Nat :=
  if coreDue s c then some (x.due.getD s.time) else none

/-- An opportunity to issue is a cycle of the core after the last (R11, R254); under debug hold selection stops, in some cycle (R355). -/
def nextCycle (t : Turn) (x : Core) : Core :=
  { x with cycle := x.cycle + t.cycles + 1, dbgHeld := x.dbgHeld || (x.dbgHold && !t.later) }

/-- The oldest waiting write of the ports meets an invalid fold with X set, or an error: the run at its home stalls (R143, R322). -/
def stallPorts (p : Pkg) (now : Nat) : Pkg :=
  match p.portWrites with
  | [] => p
  | w :: _ =>
    if strongBehind p 3 (homeOf (keyGran w.key * 32)) (keyGran w.key / 4) none then p
    else match insertAt p now 3 (homeOf (keyGran w.key * 32)) w.key w.u with
      | .error (.invalid u dest lvl n mc) => stallRun p now lvl n w.key u dest mc
      | _ => p

/-- Work that waits for the errand slot of a core. -/
def goOn (now : Nat) (later : Bool) (p : Pkg) (c : Nat) : Pkg := if (partOf p c).errands = [] then p else runBuiltins p now c later

/-- Outstanding loads that would read a granule are performed before an error arises in it: what they meet, they meet exactly (R191, R327). -/
def loadsBefore (now : Nat) (hit : Nat → Bool) (p : Pkg) : Pkg :=
  p.cores.foldl (fun p e => e.2.part.slots.foldl (fun p x => (List.range x.2.loads.length).reverse.foldl (fun p i =>
    let touches := match x.2.loads[i]? with
      | some l => (match accessEls ⟨0, false, 0, 0, 0⟩ l.entry l.coords 0 l.vec false l.guard with
        | .ok els => (probeAll l.xl (accGranules l.entry l.vec els)).any (fun k => hit (keyGran k))
        | .error _ => false)
      | none => false
    if touches then loadReply p ⟨now, false, 0, e.1, x.1⟩ e.1 x.1 i else p) p) p) p

/-- The granules that an error in memory touches. -/
def upsetHits (u : Upset) (g : Nat) : Bool :=
  match u with
  | .granule h => decide (h = g)
  | .record _ _ k _ => decide (keyGran k = g)
  | .copy _ _ line i => decide (keyGran line * 4 + i % 4 = g)
  | _ => false

/-- A core that is armed stops selecting slots at its T, or where it is armed later, at once (R275). -/
def switchDue (p : Pkg) (last now c : Nat) : Pkg :=
  let t := max (coreOf p c).gswtime.toNat last
  if t ≤ now then switchOut p t c else p

/-- The package before the step of a turn. -/
def preparePkg (s : State) (t : Turn) : Pkg :=
  let now := s.time + t.dt
  let cs := mapKeys s.pkg.cores
  let p0 : Pkg := { s.pkg with cores := s.pkg.cores.map (fun e => (e.1, { e.2 with due := stillDue s e.1 e.2 })) }
  let p0 := cs.foldl (fun p c => switchDue p s.time now c) (ageDue p0 now)
  let p1 := cs.foldl (fun p c => evalDue (evalReleased p s.time c) now c) p0
  let p2 := t.upsets.foldl (fun p u => applyUpset now (loadsBefore now (upsetHits u) p) u) p1
  let p3 := match t.act with
    | .issue c => updCore p2 c (nextCycle t)
    | .event _ => p2
  let p4 := t.moves.foldl (applyMove now t.later) p3
  let p5 := cs.foldl (goOn now t.later) p4
  let p6 := fitCopies (startDue (stallPorts (flushPorts (farRegions p5 now) now) now))
  let p7 := cs.foldl (fun p c => evalReleased p now c) p6
  { p7 with cores := p7.cores.map (fun e => (e.1, countMonitors e.2)) }

/-- The host's configuration requests of a turn: until step 6 of boot each gets Configuration Request Retry Status (R362). -/
def answerConfigs (x : Site) (t : Turn) : Site :=
  { x with configs := x.configs ++ (t.moves.filter (fun m => decide (m = .config))).map (fun _ => x.booted) }

/-- What comes before the step of a turn. -/
def prepare (s : State) (t : Turn) : State :=
  { s with time := s.time + t.dt, turn := t, pkg := preparePkg s t, site := answerConfigs s.site t }

end Sys2Proof.Machine
end

