-- ==== Sys2Proof/Machine/Turn.lean ====
section
/-!
DEFINITION. A turn: it is taken from the inputs or free, and the slot that the barrel selects issues its instruction, or an
event happens; and the image and the team that run a placed word.
-/
namespace Sys2Proof.Machine

/-- The turn to be taken, and the state without it (log 1). -/
def takeTurn (s : State) : Turn × State :=
  match s.inputs with
  | t :: rest => (t, { s with inputs := rest })
  | [] => (Config.freeTurn s.turnNo, { s with turnNo := s.turnNo + 1 })

/-- A slot that is selected has its turn: the barrel goes on behind it, and it has none in the next three cycles (R4, R254, R255). -/
def spendTurn (p : Pkg) (core slot : Nat) : Pkg :=
  updCore p core (fun c => { c with
    last := slot
    part := updSlot c.part slot (fun s => { s with readyAt := max s.readyAt (c.cycle + 4) }) })

/-- The selected slot takes its asynchronous trap, or issues the instruction at its pc. -/
def issueSlot (s : State) (core slot : Nat) : Host.Outcome State Fault Refusal :=
  let s1 := { s with core := core, slot := slot, pkg := spendTurn s.pkg core slot }
  if selects (coreOf s.pkg core) && asyncReady (partOf s.pkg core) slot then .next { s1 with pkg := takeAsync s1.pkg s.time core }
  else
    match fetch s.pkg core slot with
    | .ok i => exec i s1
    | .error r => exec (.unassignedEncodingIssue r) s1

/-- UNASSIGNED_ENCODING_ISSUE comes of the barrel alone: as a slot's turn finds such a word at its pc (R51). -/
def badEncoding : Instr → Bool
  | .unassignedEncodingIssue _ => true
  | _ => false

/-- The step of a prepared turn. -/
def act (s : State) : Host.Outcome State Fault Refusal :=
  match s.turn.act with
  | .issue core =>
    match pickSlot s core with
    | some slot => issueSlot s core slot
    | none => .next s
  | .event e => if e.isWord || badEncoding e then .next s else exec e s

/-- A power-on needs no power (R362); nothing else happens without it (R363), and nothing that is modelled while the package
holds at step 3 of boot (R362). -/
def isPowerOn : Act → Bool
  | .event (.powerOnReset _ _ _ _) => true
  | _ => false

/-- The image of a placed word: its text, followed by a zero word (log 8). -/
def placedImage (nbits w : Nat) : Image :=
  { asid := 0, va := 0, text := bytesOfWord (BitVec.ofNat 96 (w % 2 ^ nbits)) ++ List.replicate 12 0, entry := 0,
    mode := 0, slots := 1, waitlim := 0, params := 0, caps := 0, layouts := [], windows := [] }

/-- The team that runs a placed word. -/
def placedTeam : Team :=
  { no := 0, asid := 0, img := 0, slots := 1, gtag := 0, done := 0, den := false, dvec := 0, started := true, sup := false,
    caps := 0, waitlim := 0 }

end Sys2Proof.Machine
end

