-- ==== Sys2Proof/Machine/Step.lean ====
section
/-!
DEFINITION. One step of the machine, and the machine with an instruction placed where its next step fetches.
-/
namespace Sys2Proof.Machine

/-- One step. -/
def step (s : State) : Host.Outcome State Fault Refusal :=
  let t := takeTurn s
  if !s.site.powered && !isPowerOn t.1.act then .fault .poweredOff
  else if !s.site.booted && !isPowerOn t.1.act then .next { t.2 with site := answerConfigs s.site t.1 }
  else act (prepare t.2 t.1)

/-- The machine with an instruction placed where the next step fetches: it stands for the load of an image and the launch of
its team on core 0, slot 0, and the next turn is an issue of that core (log 8). -/
def State.withFetchWord (s : State) (nbits w : Nat) : State :=
  let c := coreOf s.pkg 0
  let k := c.part
  let sl := { slotOf k 0 with live := true, kind := .control, pc := 0, hold := .none, cap := none, rels := [], region := none, handler := false,
                              readyAt := 0 }
  let p1 := setCore s.pkg 0 { c with part := { setSlot k 0 sl with team := some placedTeam, pend := [] }, fenced := none,
                                     switching := false, dbgHold := false, dbgHeld := false, last := slotCount k.mode - 1 }
  { s with pkg := { p1 with images := mapInsert p1.images 0 (placedImage nbits w) }, site := { s.site with powered := true, booted := true },
           inputs := ⟨0, 0, false, 0, 0, [], [], .issue 0⟩ :: s.inputs }

end Sys2Proof.Machine
end

