-- ==== Sys2Proof/Safety.lean ====
section
/-!
DEFINITION. What a safe run is, and the words in which statements are made: the slot whose turn it is, when its instruction
has its own effect, and the state after that effect.
-/
namespace Sys2Proof.Machine

/-- A step goes on. -/
def Goes (s : State) : Prop := ∃ t, step s = .next t

/-- The canonical form of device memory: addresses strictly rise, and no byte listed reads as an unlisted one. -/
abbrev Memory.wf (m : List Host.Cell) : Prop := mapWf (0 : Byte) m = true

/-- A run of n steps is safe: every step goes on, and device memory keeps its canonical form. -/
def SafeFor : Nat → State → Prop
  | 0, s => Memory.wf s.pkg.dram
  | n + 1, s => Memory.wf s.pkg.dram ∧ ∃ t, step s = .next t ∧ SafeFor n t

/-- The core and the slot whose turn it is. -/
def State.part (s : State) : Part := partOf s.pkg s.core
def State.cur (s : State) : Slot := slotOf s.part s.slot

/-- The values of the scalar operands A and B (R31, R33). -/
def State.aVal (s : State) (f : Fields) : Word := opdScalar s.cur f.a
def State.bVal (s : State) (f : Fields) : Word := bScalar s.pkg s.core s.cur f.b

/-- The right that a word asks for is held (R27). -/
def rightHeld (s : State) (code : Nat) (f : Fields) : Bool :=
  match rowOf code with
  | some row => hasRight s.part s.cur (needOf row (some f.d) (some f.a))
  | none => false

/-- A slot with a context that holds for nothing, outside an atomic region or at its ARE, whose instruction passes the checks of
R27 and R34, finds its registers, rings and mesh channels ready (R29, R253), reads no register that holds an error (R326), and need not
wait for a FENCE.REL that the slot has passed (R170). -/
def readyWord (s : State) (code : Nat) (f : Fields) : Bool :=
  s.cur.live && decide (s.cur.hold = .none) && (s.cur.region.isNone || decide (code = 0x0EA)) && rightHeld s code f &&
    stateOk s.part s.core s.slot code f && scoreboardFree s.part s.slot code f && operandsReady s.pkg s.core s.slot f &&
    (regCheck s.part s.slot code f).isNone && (s.cur.rels.isEmpty || passesRelease code f)

/-- The instruction is a word that is ready. -/
def ready (i : Instr) (s : State) : Bool :=
  match i.word with
  | some (c, f) => readyWord s c f
  | none => false

/-- Its window reference lies inside the window (R32), and another word follows it in the text (R85). -/
def inBounds (s : State) (f : Fields) : Bool :=
  windowOk s.pkg s.core f.b && decide (s.cur.pc + 12 < textSizeOf s.pkg s.core)

/-- A ready instruction whose guard lets it have its effect (R28) and whose window reference lies inside the window (R32), wherever it stands
in the text: enough for one that leaves the pc elsewhere (R85). -/
def going (i : Instr) (g : Guarding) (s : State) : Bool :=
  match i.word with
  | some (c, f) => readyWord s c f && guardPasses g s.cur f && windowOk s.pkg s.core f.b
  | none => false

/-- A ready instruction whose guard lets it have its effect (R28), that ends neither the text nor leaves its window. -/
def runs (i : Instr) (g : Guarding) (s : State) : Bool :=
  match i.word with
  | some (c, f) => readyWord s c f && guardPasses g s.cur f && inBounds s f
  | none => false

/-- The state with another package. -/
def State.with (s : State) (q : Pkg) : State := { s with pkg := q }

/-- The state after an instruction that makes the package `q`: it is marked as issued, and the slot stands at the next word. -/
def advance (s : State) (f : Fields) (q : Pkg) : State := s.with (goTo (markIssued q (cxOf s) f) (cxOf s) (s.cur.pc + 12))

/-- The state after an instruction that goes to the next word: `advance`, or ALIGN and no effect where its word ends the text (R85). -/
def nextOrAlign (s : State) (f : Fields) (q : Pkg) : State :=
  if s.cur.pc + 12 < textSizeOf s.pkg s.core then advance s f q
  else s.with (trapped s.pkg (cxOf s) f (alignTrap (textSizeOf s.pkg s.core)))

/-- The state after a transfer to a text offset. -/
def transfer (s : State) (f : Fields) (q : Pkg) (pc : Nat) : State := s.with (goTo (markIssued q (cxOf s) f) (cxOf s) pc)

/-- The state after an exact trap of the slot (R309). -/
def trapState (s : State) (f : Fields) (t : Trap) : State := s.with (trapped s.pkg (cxOf s) f t)

/-- The package with the scalar destination D of the current slot written. -/
def writeD (s : State) (f : Fields) (v : Word) : Pkg := updPart s.pkg s.core (fun k => writeScalar k s.slot v f.d)

/-- The package with the current slot changed. -/
def changeCur (s : State) (g : Slot → Slot) : Pkg := updPart s.pkg s.core (fun k => updSlot k s.slot g)

end Sys2Proof.Machine
end

