-- ==== Sys2Proof/Certificates/Slice0/Obligations.lean ====
section
/-!
DEFINITION. The statements for the provers, and the words they are made in.
-/
open Sys2Proof Sys2Proof.Machine

namespace Sys2Proof.Claims

/-- The scalar instruction `i` runs to the end and writes `r` to sD, and nothing else but its issue and the next pc. -/
def scalarRow (i : Fields → Instr) (r : State → Fields → Word) : Prop :=
  ∀ (s : State) (f : Fields), runs (i f) .lane0 s = true → exec (i f) s = .next (advance s f (writeD s f (r s f)))

/-- MOD[0]: U of a scalar instruction, HI of SLI (R49). -/
def u (f : Fields) : Bool := bit f.md 0

/-- The field of SBFX and SBFI: pos = b[5:0], and top = min(pos + b[12:6], 64) (R89). -/
def fieldPos (b : Word) : Nat := b.toNat % 64
def fieldTop (b : Word) : Nat := min (b.toNat % 64 + b.toNat / 64 % 128) 64

/-- The truth of a CND b from a < b and a = b (R47, R91). -/
def cndTrue (c : Nat) (lt eq : Bool) : Bool :=
  match c with
  | 0 => eq
  | 1 => !eq
  | 2 => lt
  | 3 => lt || eq
  | 4 => !(lt || eq)
  | _ => !lt

/-- sD of SLEA for an entry and the offset o of R135, by SPACE (R90). -/
def sleaAddress (e : Bits512) (o : Int) : Word :=
  match laySpace e with
  | 0 => BitVec.ofInt 64 ((layBase e : Int) + o)
  | 1 => BitVec.ofInt 64 ((layBase e % 2 ^ 17 : Nat) + o)
  | _ => BitVec.ofNat 64 (layBase e / 2 ^ 17 * 2 ^ 17 + (((layBase e % 2 ^ 17 : Nat) + o) % (2 ^ 17 : Int)).toNat)

/-- The target of a relative transfer: pc + sext(B) (R84). -/
def relTarget (s : State) (f : Fields) : Int := (s.cur.pc : Int) + (s.bVal f).toInt

/-- What a transfer to `t` makes of the state: pc at it, or ALIGN, exact, where it is negative, no multiple of 12 or at or beyond
TEXTSIZE (R85). `q` is the package after the instruction's other effect. -/
def transferOrAlign (s : State) (f : Fields) (q : Pkg) (t : Int) : State :=
  if 0 ≤ t ∧ t % 12 = 0 ∧ t < textSizeOf s.pkg s.core then transfer s f q t.toNat else trapState s f (alignTrap t)

/-- The vector sources A and B, and the old value of a vector D (R28, R31). -/
def vA (s : State) (f : Fields) : VReg := readA s.pkg s.core s.slot f
def vB (s : State) (f : Fields) : VReg := readB s.pkg s.core s.slot f
def vD (s : State) (f : Fields) : VReg := readVec s.pkg s.core s.slot 0 f.d

/-- Predicate sources. -/
def pA (s : State) (f : Fields) : Mask := opdPred s.part s.slot f.a
def pB (s : State) (f : Fields) : Mask := opdPred s.part s.slot (bDesc f.b)

/-- The lane guard of a word (R28). -/
def lanesOf (s : State) (f : Fields) : Mask := guardMask s.cur f

/-- The package with the guarded lanes of the predicate destination written (R28, R92). -/
def writeP (s : State) (f : Fields) (v : Mask) : Pkg := updPart s.pkg s.core (fun k => writePred k s.slot (lanesOf s f) v f.d)

/-- The package after a reduction: sources popped, sD written, flags ORed in (R83, R96). -/
def reduced (s : State) (f : Fields) (v : Word) (fl : Flags) (sub : Bool) : Pkg :=
  finishFlags (updPart (popSources s.pkg s.core f) s.core (fun k => writeScalar k s.slot v f.d)) (cxOf s) fl sub

/-- The package after vD takes `v` in the guarded lanes, its sources popped, and the flags ORed in (R28, R69, R81). -/
def vecWritten (s : State) (f : Fields) (v : VReg) (fl : Flags) (sub : Bool) : Pkg :=
  finishFlags (writeVec (popSources s.pkg s.core f) s.core s.slot (lanesOf s f) v f.d) (cxOf s) fl sub

/-- The flags of the first `n` elements of width `w` that lie in guarded lanes (R69, R71). -/
def guardedFlags (g : Mask) (w n : Nat) (fl : Nat → Flags) : Flags :=
  (List.range n).foldl (fun acc j => if bit g (j * w / 32) then acc ||| fl j else acc) 0

/-- A lane-wise instruction whose result has elements of width `w`, element j with bits and flags `el`, for j < n, and zeros past
them: where an enabled flag is among those of the guarded elements it raises FP_TRAP and writes nothing, else vD takes the
result and %FPFLAGS the flags (R28, R69, R71). -/
def vecRow (i : Fields → Instr) (w n : Fields → Nat) (el : State → Fields → Nat → Nat × Flags) : Prop :=
  ∀ (s : State) (f : Fields), runs (i f) .lanes s = true → ∃ (v : VReg) (sub : Bool),
    (∀ j < 1024 / w f, elem (w f) v j = if j < n f then (el s f j).1 % 2 ^ w f else 0) ∧
    exec (i f) s = .next (if trapEnabled s.cur (guardedFlags (lanesOf s f) (w f) (n f) (fun j => (el s f j).2)) then
        trapState s f (fpTrap (guardedFlags (lanesOf s f) (w f) (n f) (fun j => (el s f j).2)))
      else advance s f (vecWritten s f v (guardedFlags (lanesOf s f) (w f) (n f) (fun j => (el s f j).2)) sub))

/-- A lane-wise instruction whose whole result is given and that sets no flag. -/
def vecPlain (i : Fields → Instr) (r : State → Fields → VReg) : Prop :=
  ∀ (s : State) (f : Fields), runs (i f) .lanes s = true → exec (i f) s = .next (advance s f (vecWritten s f (r s f) 0 false))

/-- An integer narrowed to w bits: wrapped, or with SAT clamped to the type's range with SAT set (R98). -/
def narrow (signed : Bool) (w : Nat) (sat : Bool) (x : Int) : Nat × Flags :=
  let lo : Int := if signed then -(2 ^ (w - 1)) else 0
  let hi : Int := if signed then 2 ^ (w - 1) - 1 else 2 ^ w - 1
  if sat && decide (x < lo) then ((lo % 2 ^ w).toNat, fSAT)
  else if sat && decide (hi < x) then ((hi % 2 ^ w).toNat, fSAT)
  else ((x % 2 ^ w).toNat, 0)

/-- Element j of a vector as a number of the integer type IT (R47, R58). -/
def intEl (it : Nat) (v : VReg) (j : Nat) : Int := itVal it v j

/-- An element-wise integer instruction by its exact result on a, b and d (R98); `sat` where MOD[3] is SAT. -/
def intRow (i : Fields → Instr) (sat : Bool) (r : Nat → Int → Int → Int → Int) : Prop :=
  vecRow i (fun f => itWidth (itOf f)) (fun f => 1024 / itWidth (itOf f)) (fun s f j =>
    narrow (tySigned (itOf f)) (itWidth (itOf f)) (sat && bit f.md 3)
      (r (itWidth (itOf f)) (intEl (itOf f) (vA s f) j) (intEl (itOf f) (vB s f) j) (intEl (itOf f) (vD s f) j)))

/-- An element-wise float instruction in FT by its operation on the encodings of a, b and d (R99); B is an FP32 immediate rounded
to FT (R82). -/
def floatRow (i : Fields → Instr) (r : State → Fields → Nat → Nat → Nat → Rd) : Prop :=
  vecRow i (fun f => (ftOf f).bits) (fun f => 1024 / (ftOf f).bits) (fun s f j =>
    let F := ftOf f
    let x := r s f (elem F.bits (vA s f) j) (elem F.bits (floatB F f (vIn s.pkg (cxOf s) f)) j) (elem F.bits (vD s f) j)
    (x.bits, x.fl))

/-- A BF16 element as the instruction reads it: a subnormal is +0 or -0 in native mode (R66, R67). -/
def rdEl (s : State) (f : Fields) (x : Nat) : FV := readF (ftOf f) (flushes s.cur) x

/-- The instruction `i` runs to its end with the package `q`, where `pre` holds. -/
def doneAs (i : Fields → Instr) (g : Guarding) (pre : State → Fields → Prop) (q : State → Fields → Pkg) : Prop :=
  ∀ (s : State) (f : Fields), runs (i f) g s = true → pre s f → exec (i f) s = .next (advance s f (q s f))

/-- It raises an exact trap where `pre` holds. -/
def trapsAs (i : Fields → Instr) (g : Guarding) (pre : State → Fields → Trap → Prop) : Prop :=
  ∀ (s : State) (f : Fields) (t : Trap), runs (i f) g s = true → pre s f t → exec (i f) s = .next (trapState s f t)

/-- The same, wherever it stands in the text: for an instruction that leaves the pc elsewhere (R85). -/
def trapsAnywhere (i : Fields → Instr) (g : Guarding) (pre : State → Fields → Trap → Prop) : Prop :=
  ∀ (s : State) (f : Fields) (t : Trap), going (i f) g s = true → pre s f t → exec (i f) s = .next (trapState s f t)

/-- A word of the current slot that has issued and stands, and whose turn has come to go on. -/
def goesOn (i : Instr) (g : Guarding) (s : State) : Prop :=
  ∃ (c : Nat) (f : Fields), i.word = some (c, f) ∧ s.cur.live = true ∧ s.cur.region = none ∧ rightHeld s c f = true ∧
    stateOk s.part s.core s.slot c f = true ∧ scoreboardFree s.part s.slot c f = true ∧
    operandsReady s.pkg s.core s.slot f = true ∧ guardPasses g s.cur f = true ∧ inBounds s f = true ∧ s.cur.rels = []

/-- It waits for its next turn, and nothing has happened, where `pre` holds. -/
def waitsAs (i : Fields → Instr) (g : Guarding) (pre : State → Fields → Prop) : Prop :=
  ∀ (s : State) (f : Fields), runs (i f) g s = true → pre s f → exec (i f) s = .next s

/-- The matrix command that a slot puts in the queue (R113): its operands captured, no progress yet. -/
def commandOf (s : State) (f : Fields) (r : MatReady) (x : MatCmd) : Prop :=
  x.tile = opdTile f.d ∧ x.a = r.a ∧ x.b = r.b ∧ x.tfa = bit f.md 0 ∧ x.tfb = bit f.md 1 ∧ x.k = r.depth ∧
  x.compat = bit s.cur.fpmode 8 ∧ x.asid = asidOf s.part ∧ x.team = teamNoOf s.part ∧ x.core = s.core ∧ x.slot = s.slot ∧ x.ctx = s.cur.ctx ∧
  x.ioff = s.cur.pc ∧ x.progress = 0 ∧ x.running = false ∧ x.lines = [] ∧ x.board.ord = s.part.nextOrd ∧
  x.board.reads = r.reads

/-- The core with a command behind the others in its matrix queue, numbered in the core's order. -/
def queued (k : Part) (x : MatCmd) : Part := { k with nextOrd := k.nextOrd + 1, matq := k.matq ++ [x] }

/-- What MMAS reads of its skip list: the entries that a command of its steps needs (R116). -/
def skipEntries (s : State) (r : MatReady) : List Nat :=
  neededSkips ((List.range (fld s.cur.sks 32 16)).map (fun i => scrNat s.part (fld s.cur.sks 0 17 + 2 * i) 2))
    (ceilDiv r.depth r.kstep)

/-- A journal entry of a message that the current slot sends (R317). -/
def entryOfMsg (s : State) (e : JEntry) (kind addr : Nat) (dst pkg : Nat) (b : MsgBody) : Prop :=
  e.kind = kind ∧ e.status = 2 ∧ e.addr = addr ∧ e.asid = asidOf s.part ∧ e.slot = s.slot ∧ e.ioff = s.cur.pc ∧
  e.ctx = s.cur.ctx ∧ e.uid = s.part.nextUid ∧ e.body = .msg dst pkg b

/-- The package with a journal entry of the current core taken. -/
def journalled (s : State) (n : Nat) (e : JEntry) : Pkg :=
  setPart s.pkg s.core { jPut s.part n e with nextUid := s.part.nextUid + 1 }

/-- The package after the current core has given out the next place in its order of scratchpad accesses (R114). -/
def ordered (s : State) : Pkg := setPart s.pkg s.core { s.part with nextOrd := s.part.nextOrd + 1 }

/-- No command and no accumulator instruction is ahead on a tile, and no older scratchpad access clashes (R113, R114). -/
def tileTurn (s : State) (t : Nat) (reads writes : List Span) : Prop :=
  s.part.matq.all (fun x => decide (x.tile ≠ t)) = true ∧ tileHeldBefore s.part t s.part.nextOrd = false ∧
  engineMay s.part ⟨s.part.nextOrd, reads, writes⟩ = true

/-- The state in which an instruction that has issued stands in the push that comes before its own effect (R166, R310): `q` is the
package so far. -/
def pushState (s : State) (f : Fields) (q : Pkg) (h : Hold) : State := s.with (stand (markIssued q (cxOf s) f) (cxOf s) h)

/-- The state in which an instruction that has not issued waits, with a hold or without one. -/
def busyState (s : State) (q : Pkg) : State := s.with (stand q (cxOf s) .busy)

/-- What an event makes of the package. -/
def eventTo (i : Instr) (s : State) (q : Pkg) : Prop := exec i s = .next (s.with q)

/-- The next message of a pair is `m`, and `r` is the package once it is taken from the network. -/
def arrives (s : State) (src dst : Nat) (m : Msg) (r : Pkg) : Prop :=
  nextMsg s.pkg src dst = some m ∧ r = { s.pkg with net := s.pkg.net.erase m }

/-- No earlier access of the context to these keys is still to be performed under another address, and no array that answers a probe of
them from level `lvl` outward is in retention mode (R165, R331). -/
def keysFree (s : State) (lvl : Nat) (keys : List Nat) : Prop :=
  aliasBusy s.pkg (cxOf s) keys = false ∧ keys.any (readWaits s.pkg s.time s.core lvl) = false




/-- The state of a slot that has issued and holds, the package being `q`. -/
def heldState (s : State) (f : Fields) (q : Pkg) : State := s.with (markIssued q (cxOf s) f)

/-- A command in the queue of the seam unit, as its slot issued it (R125). -/
def seamOf (s : State) (x : SeamCmd) (op n dk r gen : Nat) (keep0 : Bool) (es : List Bits512) : Prop :=
  x.op = op ∧ x.n = n ∧ x.dk = dk ∧ x.r = r ∧ x.gen = BitVec.ofNat 32 gen ∧ x.keep0 = keep0 ∧ x.entries = es ∧
  x.asid = asidOf s.part ∧ x.team = teamNoOf s.part ∧ x.slot = s.slot ∧ x.ctx = s.cur.ctx ∧ x.ioff = s.cur.pc ∧
  x.compat = bit s.cur.fpmode 8

/-- The core with a command behind the others in the queue of the seam unit. -/
def seamQueued (k : Part) (x : SeamCmd) : Part :=
  { k with nextOrd := k.nextOrd + 1, seamq := k.seamq ++ [{ x with board := { x.board with ord := k.nextOrd } }] }

/-- The limit of R125 on the tokens to merge. -/
def mergeLimit (n r : Nat) (keep0 : Bool) : Prop := if keep0 then r + 1 ≤ (n + 1) / 2 else r ≤ n / 2

/-- The map of an APPLY or UNSEAM may be read now, and no word of the core is in error. -/
def mapReadable (s : State) (nm : Nat) (em : Bits512) : Prop :=
  checkMap em nm 0 = .ok () ∧ scrClear s.part [mapSpan em 0] [] = true ∧ s.part.badWords = []

/-- Its header is valid, names this generation and passes the checks of R125. -/
def mapValid (s : State) (nm : Nat) (em : Bits512) (gen : Nat) (h : MapHead) : Prop :=
  h = mapHead s.part (layBaseAddr em) ∧ h.magic = 0x5A534D31 ∧ h.gen = gen ∧ 1 ≤ h.n ∧ h.n ≤ 4096 ∧
  mergeLimit h.n h.r h.keep0 ∧ checkMap em nm h.n = .ok () ∧ scrClear s.part [mapSpan em h.n] [] = true

/-- What an instruction on a map comes to where its header is wrong (R128, R130): ENGINE_FAULT to the team. -/
def mapRefused (s : State) (f : Fields) (sub : Nat) : State :=
  advance s f (raiseEngine s.pkg s.time s.core (asidOf s.part) (teamNoOf s.part)
    { cause := 0x23, sub := sub, jv := false, jent := 0, tval := BitVec.ofNat 64 s.cur.pc, tinfo := 0, body := none })

/-- The element set of a global access of the current slot (R187): its entry and its elements, checked and translated. -/
structure Access where
  e : Bits512
  els : List El
  xs : List Xlat

/-- The package with the entry and the translations captured with which the current slot goes on (R202, R290). -/
def capped (s : State) (e : Bits512) (xs : List Xlat) : State := s.with (setCap s.pkg (cxOf s) e xs)

/-- A readable global access (R187, R189): its entry, its elements, no older access to its granules pending, its translations, and no
deferred key on its path. -/
def globalRead (s : State) (f : Fields) (vec : Bool) (lvl : Nat) (a : Access) : Prop :=
  entryFor s.part (opdLay f.a) (s.bVal f) [0] = .ok a.e ∧
  accessEls (cxOf s) a.e (s.bVal f) (opdLay f.a) vec false (lanesOf s f) = .ok a.els ∧
  granuleBusy s.part s.slot (accGranules a.e vec a.els) = false ∧
  translateAcc s.pkg (cxOf s) false (layType a.e) (accAddrs a.e vec a.els) = .ok a.xs ∧
  keysFree s lvl (probeAll a.xs (accGranules a.e vec a.els))

/-- The clauses of LD and LDV (R145, R191). -/
def loadRow (i : Fields → Instr) (g : Guarding) (vec : Bool) : Prop :=
  trapsAs i g (fun s f t => entryFor s.part (opdLay f.a) (s.bVal f) [0] = .error t) ∧
  (∀ (s : State) (f : Fields) (a : Access), runs (i f) g s = true →
    let lvl := if ordOf f = 0 then 0 else scopeLevel (scopeOf f)
    let l : Load := ⟨a.e, a.els, vec, a.xs, lvl, f.long, flushes s.cur⟩
    globalRead s f vec lvl a →
    (∀ (p : Pkg) (v : Loaded) (nv : Bool), ordOf f = 0 → s.turn.later = false →
      performLoad s.pkg (cxOf s) s.core l = .ok (p, v, nv) →
      exec (i f) s = .next (advance s f (writeLoaded p (cxOf s) f v nv))) ∧
    (∀ d : Dest, ordOf f = 0 → s.turn.later = true → mayWait a.e vec = true → loadDest s.part s.slot f.d = some d →
      loadBad s.pkg s.time s.core 0 a.xs (accGranules a.e vec a.els) = none →
      exec (i f) s = .next (advance s f (changeCur s (fun x => { x with
        loads := x.loads ++ [⟨a.e, s.bVal f, vec, d, lanesOf s f, f.long, a.xs, s.cur.pc⟩] })))) ∧
    (∀ t : Trap, ordOf f = 0 → s.turn.later = false → performLoad s.pkg (cxOf s) s.core l = .error t →
      exec (i f) s = .next (trapState s f t)) ∧
    (∀ (p1 p : Pkg) (v : Loaded) (nv : Bool), ordOf f ≠ 0 → (coreOf s.pkg s.core).switching = false →
      pushKeys s.pkg s.time s.core (scopeOf f) (probeAll a.xs (accGranules a.e vec a.els)) = (p1, true) →
      behindRegion p1 s.core lvl (probeAll a.xs (accGranules a.e vec a.els)) = false →
      performLoad p1 (cxOf s) s.core l = .ok (p, v, nv) →
      exec (i f) s = .next (advance s f (writeLoaded p (cxOf s) f v nv))))

/-- The store of a slot: its pieces by granule, of the bytes that the guard lets through (R193). -/
def storeOf (s : State) (f : Fields) (vec : Bool) (e : Bits512) (els : List El) : Store :=
  let v := if vec then (vB s f).toNat else (s.bVal f).toNat
  ⟨ordOf f, scopeOf f, fld f.md 1 3, layType e, bit f.md 0,
    storePieces e els (fun i => v / 2 ^ (8 * tySize (layType e) * i))
      (fun i j => !vec || bit (lanesOf s f) ((i * tySize (layType e) + j) / 4))⟩

def globalWrite (s : State) (f : Fields) (vec : Bool) (e : Bits512) (els : List El) : Prop :=
  entryFor s.part (opdLay f.d) (s.aVal f) [0] = .ok e ∧
  accessEls (cxOf s) e (s.aVal f) (opdLay f.d) vec true (lanesOf s f) = .ok els ∧
  opTypeOk (fld f.md 1 3) (layType e) = true ∧ storeHigh e els = none

/-- The numbered records of a store (R138, R193): one for each key of its pieces, in rising order, with the mask and the payload of that
key's piece, and the owner, order and operator of each. -/
def recsOf (s : State) (f : Fields) (e : Bits512) (pieces : SMap Piece) (recs : List (Nat × Rec)) : Prop :=
  recs.map (·.1) = pieces.map (·.1) ∧
  ∀ (j key : Nat) (u : Rec), recs[j]? = some (key, u) → (∃ q : Piece, pieces[j]? = some (key, q) ∧ u.mask = q.mask ∧ u.payload = q.payload) ∧
    u.opr = fld f.md 1 3 ∧ u.ty = layType e ∧ u.x = bit f.md 0 ∧ u.core = s.core ∧ u.slot = s.slot ∧ u.asid = asidOf s.part ∧
    u.iov = true ∧ u.ioff = s.cur.pc ∧ u.seq = (coreOf s.pkg s.core).postSeq + BitVec.ofNat 32 j ∧ u.frozen = false ∧ u.quiet = false ∧
    u.deferred = false ∧ u.bad = false ∧ u.pkg = s.pkg.regs.pkgnum

/-- The package once a store of the current slot has its sequence numbers and its sources are popped. -/
def numbered (s : State) (f : Fields) (p : Pkg) (n : Nat) : Pkg :=
  popSources (updCore p s.core (fun c => { c with postSeq := c.postSeq + BitVec.ofNat 32 n })) s.core f

/-- What an STR, REL or AR store does once its release is done, the package being `p0` then (R166, R168, R172): it pushes its keys; then its
records join the run of level(S), at once or in their turn behind a region of their line; at CORE that is the core's own run. -/
def strongRow (i : Fields → Instr) (s : State) (f : Fields) (recs : List (Nat × Rec)) (p0 : Pkg) : Prop :=
  ∀ p1 p2 : Pkg, pushKeys p0 s.time s.core (scopeOf f) (recs.map (·.1)) = (p2, true) → p1 = numbered s f p2 recs.length →
    (behindRegion p1 s.core (scopeLevel (scopeOf f)) (recs.map (·.1)) = true →
      exec (i f) s = .next (heldState s f (setHold p1 (cxOf s) (.strong (scopeOf f) (cameAt p1 (cxOf s) (scopeOf f)) recs)))) ∧
    (behindRegion p1 s.core (scopeLevel (scopeOf f)) (recs.map (·.1)) = false →
      (∀ p : Pkg, scopeLevel (scopeOf f) = 0 →
        postRecs p1 s.time s.core (postLimit (slotOf (partOf p1 s.core) s.slot)) recs = (p, []) → exec (i f) s = .next (advance s f p)) ∧
      (∀ p : Pkg, scopeLevel (scopeOf f) ≠ 0 → s.turn.later = false → insertRecs p1 s.time s.core (scopeOf f) recs = (p, []) →
        exec (i f) s = .next (advance s f p)) ∧
      (scopeLevel (scopeOf f) ≠ 0 → s.turn.later = true →
        exec (i f) s = .next (heldState s f (setHold p1 (cxOf s) (.strong (scopeOf f) s.time recs)))))

/-- The clauses of ST and STV (R141, R166, R168, R190, R193). -/
def storeRow (i : Fields → Instr) (g : Guarding) (vec : Bool) : Prop :=
  trapsAs i g (fun s f t => entryFor s.part (opdLay f.d) (s.aVal f) [0] = .error t) ∧
  (∀ (s : State) (f : Fields) (e : Bits512) (els : List El), runs (i f) g s = true → globalWrite s f vec e els →
    let st := storeOf s f vec e els
    (st.pieces = [] → exec (i f) s = .next (advance s f (popSources s.pkg s.core f))) ∧
    (st.pieces ≠ [] → granuleBusy s.part s.slot (st.pieces.map (fun q => (q.va : Int))) = false →
      (∀ xs : List Xlat, translateAcc s.pkg (cxOf s) true st.ty (st.pieces.map pieceAddr) = .ok xs →
        aliasBusy s.pkg (cxOf s) ((keyPieces xs st.pieces).map (·.1)) = false →
        ∃ recs : List (Nat × Rec), recsOf s f e (keyPieces xs st.pieces) recs ∧
        (∀ p : Pkg, ordOf f = 0 → postRecs (numbered s f s.pkg recs.length) s.time s.core
            (postLimit (slotOf (partOf (numbered s f s.pkg recs.length) s.core) s.slot)) recs = (p, []) →
          exec (i f) s = .next (advance s f p)) ∧
        (ordOf f = 1 → strongRow i s f recs s.pkg) ∧
        (∀ p0 : Pkg, 2 ≤ ordOf f → releaseAt s.pkg (cxOf s) (scopeOf f) false = (p0, true) → storeRecs p0 (cxOf s) st xs = recs →
          strongRow i s f recs p0) ∧
        (∀ p0 : Pkg, 2 ≤ ordOf f → releaseAt s.pkg (cxOf s) (scopeOf f) false = (p0, false) →
          exec (i f) s = .next (pushState s f (setCap p0 (cxOf s) e xs) (.push (scopeOf f) true recs)))) ∧
      (∀ va n : Nat, ordOf f = 0 → s.cur.handler = false → jFree s.part = some n →
        aliasBusy s.pkg (cxOf s) (st.pieces.flatMap (fun q => keysNow s.pkg s.time s.core q.va)) = false →
        translateAcc s.pkg (cxOf s) true st.ty (st.pieces.map pieceAddr) = .error (.miss va) → ∃ en : JEntry,
        en.kind = 0 ∧ en.status = 1 ∧ en.seq = (coreOf s.pkg s.core).postSeq ∧ en.ioff = s.cur.pc ∧ en.ctx = s.cur.ctx ∧
        en.slot = s.slot ∧ en.asid = asidOf s.part ∧ en.body = .store st.pieces st.opr st.ty st.x ∧
        exec (i f) s = .next (advance s f (popSources (askWalk (updCore (journalled s n en) s.core (fun c =>
          { c with postSeq := c.postSeq + BitVec.ofNat 32 st.pieces.length })) (cxOf s) va true (some s.part.nextUid))
          s.core f)))))




/-- The current slot reads and writes nothing of the core but its own state: every other part of the package stands. -/
def onlyCores (s : State) (q : Pkg) : Prop := q = { s.pkg with cores := q.cores }

/-- The granules of MPUSH and MDROP (R195): the entry, the granules of the box in rising address, their keys, and no fault. -/
def rangeOf (s : State) (f : Fields) (gs : List Int) : Prop :=
  ∃ e : Bits512, entryFor s.part (opdLay f.d) (s.aVal f) [0] = .ok e ∧ rangeGranules e (s.aVal f) (s.bVal f) = .ok gs

/-- An access of the local group: its entry and its elements, after all its checks (R189, R203). -/
def localRead (s : State) (f : Fields) (vec : Bool) (e : Bits512) (els : List El) : Prop :=
  localEls s.part (cxOf s) (opdLay f.a) (s.bVal f) vec false (lanesOf s f) = .ok (e, els) ∧
  scrClear s.part (elSpans e vec els) [] = true

def localWrite (s : State) (f : Fields) (vec : Bool) (e : Bits512) (els : List El) : Prop :=
  localEls s.part (cxOf s) (opdLay f.d) (s.aVal f) vec true (lanesOf s f) = .ok (e, els) ∧
  scrClear s.part [] (elSpans e true els) = true

/-- The bytes of element number i of a local store. -/
def storedElement (s : State) (f : Fields) (vec : Bool) (e : Bits512) (i : Nat) : Nat :=
  (if vec then (vB s f).toNat else (s.bVal f).toNat) / 2 ^ (8 * tySize (layType e) * i) % 2 ^ (8 * tySize (layType e))

/-- An access to n words of scratchpad is made in one step: it has one word, or the step's free choice does not spread it (R158). -/
def atOnce (s : State) (n : Nat) : Prop := s.turn.later = false ∨ n ≤ 1

/-- The bytes that STS or STSV writes, by address (R203). -/
def storeBytes (s : State) (f : Fields) (vec : Bool) (e : Bits512) (els : List El) : SMap Byte :=
  elBytes e els (fun i => (if vec then (vB s f).toNat else (s.bVal f).toNat) >>> (8 * tySize (layType e) * i))
    (fun i j => !vec || bit (lanesOf s f) ((i * tySize (layType e) + j) / 4))

/-- The clauses of STS and STSV (R203): every byte of every element stored, in lanes whose guard is true, and no other byte of
scratchpad. -/
def localStoreRow (i : Fields → Instr) (g : Guarding) (vec : Bool) : Prop :=
  trapsAs i g (fun s f t => localEls s.part (cxOf s) (opdLay f.d) (s.aVal f) vec true (lanesOf s f) = .error t) ∧
  (∀ (s : State) (f : Fields) (e : Bits512) (els : List El), runs (i f) g s = true → localWrite s f vec e els →
    atOnce s (wordsOf (storeBytes s f vec e els)).length → mapSorted 0 (partOf (popSources s.pkg s.core f) s.core).scr = true → ∃ k : Part,
    exec (i f) s = .next (advance s f (setPart (popSources s.pkg s.core f) s.core k)) ∧
    (∀ a : Nat, (∀ x ∈ els, ∀ idx : List Int, x.2 = some idx →
        ¬ ((elemAddr e idx).toNat ≤ a ∧ a < (elemAddr e idx).toNat + tySize (layType e))) →
      scrByte k a = scrByte (partOf (popSources s.pkg s.core f) s.core) a) ∧
    (∀ (n : Nat) (idx : List Int), els = [(n, some idx)] → ∀ j < tySize (layType e),
      scrByte k ((elemAddr e idx).toNat + j) =
        if !vec || bit (lanesOf s f) ((n * tySize (layType e) + j) / 4) then
          BitVec.ofNat 8 (storedElement s f vec e n / 2 ^ (8 * j))
        else scrByte (partOf (popSources s.pkg s.core f) s.core) ((elemAddr e idx).toNat + j)) ∧
    k.vregs = (partOf (popSources s.pkg s.core f) s.core).vregs ∧ k.acc = (partOf (popSources s.pkg s.core f) s.core).acc ∧
    k.tags = (partOf (popSources s.pkg s.core f) s.core).tags ∧
    k.layouts = (partOf (popSources s.pkg s.core f) s.core).layouts)

/-- The operands of a local access as R134 to R137 and R203 ask for them: a valid entry of SPACE 1 whose type is not decoded, and every
element of the access inside L, aligned and within scratchpad. -/
def scratchOperands (s : State) (n : Nat) (w : Word) (vec : Bool) (g : Mask) (e : Bits512) : Prop :=
  let ty := layType e
  layoutOf s.part (asidOf s.part) n = some e ∧ layOk e = true ∧ laySpace e = 1 ∧ ty ≠ tyL8 ∧ ty ≠ tyF4X ∧
  (vec = true → tySize ty ≠ 8) ∧
  ∀ i ∈ (if vec then (List.range (vecCount ty)).filter (laneTakesPart ty g) else [0]),
    let idx := moveIdx (elemIndex e w) (vecStep ty * ((i : Nat) : Int))
    insideLay e idx = true ∧ alignOk ty (elemAddr e idx) = true ∧ scrFits (tySize ty) (elemAddr e idx) = true

/-- It completes, in one step where that is not spread (R158), where its operands are as R203 asks, no engine command uses scratchpad (R114)
and no word of it is in error (R326). -/
def localCompletes (i : Fields → Instr) (g : Guarding) (vec : Bool) (n : Fields → Nat) (w : State → Fields → Word) : Prop :=
  ∀ (s : State) (f : Fields) (e : Bits512), runs (i f) g s = true → scratchOperands s (n f) (w s f) vec (lanesOf s f) e →
    boards s.part = [] → s.part.badWords = [] → s.turn.later = false → ∃ q : Pkg, exec (i f) s = .next (advance s f q) ∧
      q = { s.pkg with cores := q.cores }


/-- The word of LDSF or STSF, local or of another core, after its checks (R204). -/
def fullWord (s : State) (f : Fields) (write : Bool) (e : Bits512) (idx : List Int) : Prop :=
  wordElement s.part (cxOf s) (opdLay (if write then f.d else f.a)) (if write then s.aVal f else s.bVal f) write = .ok (e, idx)

/-- The value that an LDSF of a word not decoded gives (R188, R204). -/
def plainType (e : Bits512) : Prop := layType e ≠ tyL8 ∧ layType e ≠ tyF4X

/-- A slot after its region (R201): the body's registers and predicates, NV, past the ARE. -/
def performedSlot (st : RunState) (y : Slot) : Slot :=
  { y with
    sregs := st.sl.sregs
    preds := st.sl.preds
    badRegs := st.sl.badRegs
    fpflags := if st.nv then y.fpflags ||| fNV else y.fpflags
    region := none
    hold := .none
    cap := none
    walkFault := none
    pc := y.pc + 12 }

/-- A body instruction as ARB's region records it (R200): the word, its place, the entry of an access as it stands, and whether its
coordinates are known only at the instance. -/
def recordedOp (s : State) (i : Instr) (c : Nat) (f : Fields) (r : Region) : RegOp :=
  { i := i
    pc := s.cur.pc
    entry := if c = 0x0E0 then layoutOf s.part (asidOf s.part) (opdLay f.a)
      else if c = 0x0E2 then layoutOf s.part (asidOf s.part) (opdLay f.d) else none
    late := writtenBefore r.ops (if c = 0x0E2 then f.a else bDesc f.b) }

/-- The state once the open region has recorded it. -/
def recordedState (s : State) (i : Instr) (c : Nat) (f : Fields) (r : Region) : State :=
  advance s f (changeCur s (fun y => { y with region := some { r with ops := r.ops ++ [recordedOp s i c f r] } }))

/-- A word comes to its turn in an open region, before its own checks (R27, R34, R200). -/
def inRegion (s : State) (i : Instr) (c : Nat) (f : Fields) (r : Region) : Prop :=
  i.word = some (c, f) ∧ s.cur.live = true ∧ s.cur.hold = .none ∧ s.cur.region = some r ∧ c ≠ 0x0EA ∧ rightHeld s c f = true ∧
    stateOk s.part s.core s.slot c f = true ∧ scoreboardFree s.part s.slot c f = true ∧ s.cur.pc + 12 < textSizeOf s.pkg s.core

/-- The accesses that a region has recorded. -/
def accessesOf (r : Region) : Nat := (r.ops.filter (fun o => match o.i.word with
  | some (c, _) => (regionAccess c).isSome
  | none => false)).length

/-- What a region body may hold (R200): NOP, the scalar instructions to SCMP, and a weak LD or ST. -/
def bodyWord (c : Nat) (f : Fields) : Prop :=
  c = 0x001 ∨ (0x020 ≤ c ∧ c ≤ 0x037) ∨ ((c = 0x0E0 ∨ c = 0x0E2) ∧ ordOf f = 0)

/-- The layout number and the coordinates of a body access. -/
def bodyLay (c : Nat) (f : Fields) : Nat := if c = 0x0E2 then opdLay f.d else opdLay f.a
def bodyCoords (s : State) (c : Nat) (f : Fields) : Word := if c = 0x0E2 then s.aVal f else s.bVal f

/-- A body LD or ST that the region may still hold, with a true guard and its window reference in the window (R200). -/
def bodyAccess (s : State) (i : Instr) (c : Nat) (f : Fields) (r : Region) : Prop :=
  inRegion s i c f r ∧ (c = 0x0E0 ∨ c = 0x0E2) ∧ ordOf f = 0 ∧ r.ops.length < 16 ∧ accessesOf r < 8 ∧ guardLane0 s.cur f = true ∧
    windowOk s.pkg s.core f.b = true

/-- Its coordinates are known when it is recorded, and no register that holds them is in error (R200, R326). -/
def coordsKnown (s : State) (c : Nat) (f : Fields) (r : Region) : Prop :=
  writtenBefore r.ops (if c = 0x0E2 then f.a else bDesc f.b) = false ∧
    scalarCheck s.cur s.slot (scalarRegs 0 (if c = 0x0E2 then f.a else bDesc f.b)) = none

/-- The checks of its entry, and those that come after the checks of its element (R189, R200). -/
def bodyEntry (s : State) (c : Nat) (f : Fields) : Except Trap Bits512 :=
  regionEntry (cxOf s) (bodyCoords s c f) (bodyLay c f) (decide (c = 0x0E2)) (layoutOf s.part (asidOf s.part) (bodyLay c f))
def bodyOper (s : State) (c : Nat) (f : Fields) (r : Region) (va : Nat) (e : Bits512) : Except Trap Unit :=
  regionOper r.xl (bodyCoords s c f) (bodyLay c f) va (decide (c = 0x0E2)) (fld f.md 1 3) e

/-- A body instruction that acts at the instance: its word, its guard, its window reference (R28, R32). -/
def bodyRuns (p : Pkg) (cx : Cx) (st : RunState) (o : RegOp) (c : Nat) (f : Fields) : Prop :=
  o.i.word = some (c, f) ∧ (if c = 0x037 then guardMask st.sl f ≠ 0 else guardLane0 st.sl f = true) ∧ windowOk p cx.core f.b = true

/-- The line of a region lies in its page. -/
def lineInPage (r : Region) : Prop := r.line % 128 = 0 ∧ r.xl.va ≤ r.line ∧ r.line + 128 ≤ r.xl.va + r.xl.size

/-- A load's value from a granule of bytes (R188): the element at an address. -/
def granuleElement (e : Bits512) (v : Granule) (a : Nat) : Word :=
  loadImage (layType e) (granuleBytes [(a / 32, v)] a (tySize (layType e)))

/-- The words of a load that the step spreads, one after the other (R158, R203): each is read by itself, and the element is made of what
was read. -/
def loadWordsRow (i : Fields → Instr) (g : Guarding) (vec : Bool) : Prop :=
  ∀ (s : State) (f : Fields) (e : Bits512) (els : List El),
    localEls s.part (cxOf s) (opdLay f.a) (s.bVal f) vec false (lanesOf s f) = .ok (e, els) → spansBad s.part (elSpans e vec els) = none →
    let ws := spanWords (elSpans e vec els)
    (runs (i f) g s = true → scrClear s.part (elSpans e vec els) [] = true → s.turn.later = true → 1 < ws.length →
      exec (i f) s = .next (heldState s f (setHold (setCap s.pkg (cxOf s) e []) (cxOf s)
        (.words 1 (ws.drop 1) (readWord s.part [] (ws.getD 0 0)))))) ∧
    (∀ (n : Nat) (left : List Nat) (got : SMap Byte), goesOn (i f) g s → s.cur.hold = .words n left got → 0 < n →
      (s.turn.later = true → n + 1 < ws.length →
        exec (i f) s = .next (s.with (setHold (setCap s.pkg (cxOf s) e []) (cxOf s)
          (.words (n + 1) (ws.drop (n + 1)) (readWord s.part got (ws.getD n 0)))))) ∧
      (s.turn.later = false ∨ ws.length ≤ n + 1 →
        (vec = true → blockBad e els (wordsNat s.part got) = false → exec (i f) s = .next (advance s f
          (writeVec s.pkg s.core s.slot (lanesOf s f) (vectorFrom e els (wordsNat s.part got)) f.d))) ∧
        (∀ v : Word, vec = false → scalarFrom (flushes s.cur) e els (wordsNat s.part got) = .ok v →
          exec (i f) s = .next (advance s f (writeD s f v)))))

/-- The same of a store: each word is written by itself, in rising address. -/
def storeWordsRow (i : Fields → Instr) (g : Guarding) (vec : Bool) : Prop :=
  ∀ (s : State) (f : Fields) (e : Bits512) (els : List El),
    localEls s.part (cxOf s) (opdLay f.d) (s.aVal f) vec true (lanesOf s f) = .ok (e, els) →
    let put := fun (m : SMap Byte) (n : Nat) => setHold (setCap (updPart s.pkg s.core (fun k =>
      scrPut k s.time (m.filter (fun b => decide (b.1 / 8 = (wordsOf m).getD n 0))))) (cxOf s) e []) (cxOf s)
        (.words (n + 1) ((wordsOf m).drop (n + 1)) m)
    (runs (i f) g s = true → scrClear s.part [] (elSpans e true els) = true → s.turn.later = true →
      1 < (wordsOf (storeBytes s f vec e els)).length → exec (i f) s = .next (heldState s f (put (storeBytes s f vec e els) 0))) ∧
    (∀ (n : Nat) (left : List Nat) (m : SMap Byte), goesOn (i f) g s → s.cur.hold = .words n left m → 0 < n →
      (s.turn.later = true → n + 1 < (wordsOf m).length → exec (i f) s = .next (s.with (put m n))) ∧
      (s.turn.later = false ∨ (wordsOf m).length ≤ n + 1 → exec (i f) s = .next (advance s f
        (updPart (popSources s.pkg s.core f) s.core (fun k =>
          scrPut k s.time (m.filter (fun b => ((wordsOf m).drop n).contains (b.1 / 8))))))))




/-- An element of another core's scratchpad that an instruction names (R134, R206): entry, place in the register, index. -/
def remoteEl (s : State) (f : Fields) (write : Bool) (e : Bits512) (o : Option (List Int)) : Prop :=
  let n := opdLay (if write then f.d else f.a)
  let w := if write then s.aVal f else s.bVal f
  entryFor s.part n w [2] = .ok e ∧ accessEls (cxOf s) e w n false write allTrue = .ok [(0, o)] ∧
  checkScale e w n false [(0, o)] = none

/-- The reply that a slot waits for when it has asked one element of a core (R206). -/
def replyOf (s : State) (r : Reply) (e : Bits512) (idx : List Int) (deadline : Option Nat) : Prop :=
  r = { req := s.part.nextUid, left := 1, vals := [], refused := none, deadline := deadline,
        addr := [(0, homeAddr (homeOfEntry e).1 (homeOfEntry e).2 (elemAddr e idx).toNat)], timedOut := none, entry := e,
        idx := idx }

/-- The package once the current core has given out a request number. -/
def requested (s : State) : Pkg := updPart s.pkg s.core (fun k => { k with nextUid := k.nextUid + 1 })

/-- The elements that RRED sends: scratchpad offsets and values (R210). -/
def packetOf (s : State) (f : Fields) (vec : Bool) (e : Bits512) (els : List El) : List (Nat × Word) :=
  let sz := tySize (layType e)
  let v := if vec then (vB s f).toNat else (s.bVal f).toNat
  els.filterMap (fun x => x.2.map (fun idx =>
    ((elemAddr e idx).toNat, BitVec.ofNat 64 (v / 2 ^ (8 * sz * x.1) % 2 ^ (8 * sz)))))

/-- B of RRED is a vector. -/
def vecB (f : Fields) : Bool :=
  match f.b with
  | .desc (.v _) => true
  | .desc (.qc _ _ _) => true
  | .desc (.m _ _ _) => true
  | _ => false

/-- What a home makes of the next message of a pair, where `may` holds (R297, R328): a fenced core refuses it, one that is not ready leaves it
where it is, %SCAP refuses it, or it is taken. -/
def homeRowWhere (may : State → Nat → Msg → Prop) (ev : Nat → Nat → Instr) (is : MsgBody → Prop)
    (act : Pkg → Nat → Bool → Nat → Msg → Pkg) : Prop :=
  ∀ (s : State) (src dst : Nat) (m : Msg) (q : Pkg), arrives s src dst m q → is m.body → may s dst m →
    let r := receive q s.time dst s.pkg.regs.pkgnum m.src m.body
    ((coreOf s.pkg dst).fenced.isSome = true →
      eventTo (ev src dst) s (refuse q dst s.pkg.regs.pkgnum m.src m.asid 0x31 m.body)) ∧
    ((coreOf s.pkg dst).fenced = none → homeReady s.pkg dst = false → eventTo (ev src dst) s s.pkg) ∧
    ((coreOf s.pkg dst).fenced = none → homeReady s.pkg dst = true →
      scapOk s.pkg dst s.pkg.regs.pkgnum m.asid = false →
      eventTo (ev src dst) s (refuse r dst s.pkg.regs.pkgnum m.src m.asid 0x02 m.body)) ∧
    ((coreOf s.pkg dst).fenced = none → homeReady s.pkg dst = true → scapOk s.pkg dst s.pkg.regs.pkgnum m.asid = true →
      eventTo (ev src dst) s (act r s.time s.turn.later dst m))

/-- The same in every state. -/
def homeRow (ev : Nat → Nat → Instr) (is : MsgBody → Prop) (act : Pkg → Nat → Bool → Nat → Msg → Pkg) : Prop :=
  homeRowWhere (fun _ _ _ => True) ev is act

/-- No work of the same source waits before the home's errand slot, behind which a message of its kind would act (R157, R171). -/
def nothingBefore (s : State) (dst : Nat) (m : Msg) : Prop := behindErrand s.pkg dst ⟨s.pkg.regs.pkgnum, m.src, m.asid⟩ = false

/-- A piece of work of a message of this package for the errand slot, of which nothing is done yet (R159). -/
def errandOf (r : Pkg) (uid entry : Nat) (m : Msg) : Errand := ⟨⟨m.src, r.regs.pkgnum, m.asid, uid⟩, entry, m.body, 0, []⟩

/-- Work for the errand slot, behind what waits for it (R159); with `later`, the first of it may be done word by word (R158). -/
def errandAdded (r : Pkg) (now : Nat) (later : Bool) (dst : Nat) (uid entry : Nat) (m : Msg) : Pkg :=
  runBuiltins (updPart r dst (fun k => { k with errands := k.errands ++ [errandOf r uid entry m] })) now dst later

/-- The bytes of a remote store of one element, by address. -/
def elementBytes (off size : Nat) (v : Word) : SMap Byte := byteMap (((leBytes size v.toNat).zipIdx).map (fun x => (off + x.2, x.1)))

def isLoad (b : MsgBody) : Prop := ∃ off size sc req lane, b = .load off size sc req lane
def isStore (b : MsgBody) : Prop := ∃ off size v uid, b = .store off size v uid
def isPacket (b : MsgBody) : Prop := ∃ els ty opr seq uid, b = .reduce els ty opr seq uid
def isAmsg (b : MsgBody) : Prop := ∃ h x1 x2 x3 x4 uid, b = .amsg h x1 x2 x3 x4 uid

/-- The answer to the next message of a pair reaches a core that is not fenced (R328). -/
def answers (s : State) (src dst : Nat) (m : Msg) (r : Pkg) : Prop :=
  ∃ q : Pkg, arrives s src dst m q ∧ (coreOf s.pkg dst).fenced = none ∧
    r = receive q s.time dst s.pkg.regs.pkgnum m.src m.body




/-- The two entries, the four registers and the checks of a CPY (R212, R216). -/
structure CpyArgs where
  d : Bits512
  src : Bits512
  od : Word
  os : Word
  w : Word
  scale : BitVec 32
  xf : Nat

def cpyOf (s : State) (f : Fields) (a : CpyArgs) : Prop :=
  entryFor s.part (opdLay f.d) a.od [0, 1, 2] = .ok a.d ∧ entryFor s.part (opdLay f.a) a.os [0, 1, 2] = .ok a.src ∧
  a.os = blockReg s.cur 0 (bDesc f.b) ∧ a.od = blockReg s.cur 1 (bDesc f.b) ∧ a.w = blockReg s.cur 2 (bDesc f.b) ∧
  a.scale = (blockReg s.cur 3 (bDesc f.b)).extractLsb' 0 32 ∧ a.xf = fld f.md 6 3

/-- The copy that a CPY issues (R212 to R218, R223): its arguments and modifiers, its identifier, nothing performed. -/
def newCopy (s : State) (f : Fields) (a : CpyArgs) (x : Copy) : Prop :=
  x.ident = mapGet 0 s.part.issued (fld a.w 32 2) + 1 ∧ x.ch = fld a.w 32 2 ∧ x.slot = s.slot ∧ x.ctx = s.cur.ctx ∧
  x.asid = asidOf s.part ∧ x.team = teamNoOf s.part ∧ x.ioff = s.cur.pc ∧ x.d = a.d ∧ x.src = a.src ∧ x.od = a.od ∧ x.os = a.os ∧
  x.off = fld a.w 0 17 ∧ x.home = fld a.w 17 12 ∧ x.ben = bit a.w 29 ∧ x.narr = bit a.w 30 ∧ x.scale = a.scale ∧ x.xf = a.xf ∧
  x.acq = bit f.md 5 ∧ x.rel = bit f.md 4 ∧ x.sc = fld f.md 1 3 ∧ x.sequenced = bit f.md 0 ∧ x.uid = s.part.nextUid ∧
  x.bytes = (cpyUnits a.d (cpyEls a.d a.src a.od a.os a.xf)).length * tySize (layType a.d) ∧ x.vals = [] ∧ x.todo = [] ∧ x.pos = 0 ∧
  x.begun = false ∧ x.fail = none ∧ x.first = none ∧ x.fl = 0

/-- Every other package that a copy reads or writes is reached (R361). -/
def copyReachable (s : State) (a : CpyArgs) : Bool :=
  [a.src, a.d].all (fun e => decide (laySpace e ≠ 2) || reachable s.pkg (homeOfEntry e).1)

/-- The package once a copy has asked another package for its sources (R215). -/
def copyAsked (s : State) (a : CpyArgs) : Pkg :=
  if copyReachable s a then (cpyAsks s.pkg a.d a.src (cpyEls a.d a.src a.od a.os a.xf) s.part.nextUid).foldl
    (fun q m => sendPkg q s.core m.1 m.2.1 (asidOf s.part) m.2.2) s.pkg
  else s.pkg

/-- Its byte addition to a barrier object, here or by message (R223). -/
def copyCounted (s : State) (x : Copy) (p : Pkg) : Pkg :=
  if x.ben = false then p
  else if x.home = s.core then updPart p s.core (fun k =>
    objWrite k s.time x.off (objPhase { objOf k x.off with pend := ((objOf k x.off).pend + x.bytes) % 2 ^ 56 }))
  else send p s.core x.home x.asid (.addBytes x.off x.bytes x.narr x.ch x.ident)

/-- The package with the copy taken: its number in the channel, %XLAST of its slot, the copy behind the others. -/
def copyTaken (s : State) (x : Copy) (p : Pkg) : Pkg :=
  updPart p s.core (fun k => { updSlot k s.slot (fun y => { y with xlast := mapPut 0 y.xlast x.ch (BitVec.ofNat 64 (x.ident % 2 ^ 48)) }) with
    nextOrd := k.nextOrd + 1
    issued := mapPut 0 k.issued x.ch x.ident
    nextUid := x.uid + 1
    copies := k.copies ++ [x] })

/-- The unit of a copy that is to be performed next is the one element `el`, of types that are not decoded (R213, R214). -/
def nextElement (x : Copy) (el : CpyEl) : Prop :=
  layType x.d ≠ tyL8 ∧ layType x.d ≠ tyF4X ∧ layType x.src ≠ tyL8 ∧ layType x.src ≠ tyF4X ∧
  ((cpyUnits x.d (cpyEls x.d x.src x.od x.os x.xf)).drop x.pos).take 1 = [[el]]

/-- The command that an SMRG puts in the queue (R228, R114). -/
def smrgCmdOf (s : State) (f : Fields) (d a b : Bits512) : SmrgCmd :=
  { mode := fld f.md 0 2
    d := d
    a := a
    b := b
    asid := asidOf s.part
    team := teamNoOf s.part
    slot := s.slot
    ctx := s.cur.ctx
    ioff := s.cur.pc
    waiting := manglePending s.pkg s.core
    board := ⟨s.part.nextOrd, listSpans a ++ listSpans b, listSpans d⟩ }

/-- The core with that command behind the others. -/
def smrgQueued (s : State) (x : SmrgCmd) : Pkg :=
  setPart s.pkg s.core { s.part with
    nextOrd := s.part.nextOrd + 1
    smrgq := s.part.smrgq ++ [x] }

/-- Element j of a list lies at an address. -/
def elementAt (e : Bits512) (els : List El) (j a : Nat) : Prop := ∃ (n : Nat) (idx : List Int),
  els[j]? = some (n, some idx) ∧ a = (elemAddr e idx).toNat

/-- Its elements do not overlap. -/
def elementsApart (e : Bits512) (els : List El) : Prop := ∀ i j a b : Nat, i < j → elementAt e els i a → elementAt e els j b →
  a + tySize (layType e) ≤ b ∨ b + tySize (layType e) ≤ a

/-- The value of n bytes in the type of a list (R228). -/
def listValue (e : Bits512) (v : Nat) : Int := if tySigned (layType e) then asInt (8 * tySize (layType e)) v else v

/-- Copies of a channel that are not complete. -/
def inChannel (k : Part) (ch : Nat) : Nat := (k.copies.filter (fun x => decide (x.ch = ch))).length

/-- A wait of the current slot with its deadline (R261). -/
def waitOfCur (s : State) (kind : WaitKind) : Wait := { kind := kind, deadline := s.time + s.cur.waitlim.toNat, met := false, value := 0 }

/-- The state of a slot that begins to wait. -/
def waitState (s : State) (f : Fields) (kind : WaitKind) : State :=
  heldState s f (limitMonitors (setHold s.pkg (cxOf s) (.wait (waitOfCur s kind))) s.time s.core)

/-- What an instruction that waits does when its condition does not hold at issue (R260, R261). -/
def waitRow (i : Fields → Instr) (g : Guarding) (pre : State → Fields → WaitKind → Prop) : Prop :=
  ∀ (s : State) (f : Fields) (kind : WaitKind), runs (i f) g s = true → pre s f kind →
    exec (i f) s = .next (if s.cur.waitlim = 0 then trapState s f (waitTrap (cxOf s) (waitOfCur s kind)) else waitState s f kind)

/-- A copy with nothing left to be posted, and the package in which it stands so. -/
def idleCopy (x : Copy) : Copy := { x with todo := [] }
def idlePkg (s : State) (c : Nat) (x : Copy) : Pkg := setCopy s.pkg c (idleCopy x)

/-- A copy that may perform units now (R213, R221, R297, R331): nothing of it waits to be posted, its homes are ready, and it may run. -/
def copyDue (s : State) (c : Nat) (x : Copy) : Prop :=
  x.todo = [] ∧ x.fail = none ∧ copyRefused s.pkg s.time c x = false ∧ 0 < copyRest x ∧ (coreOf s.pkg c).switching = false ∧
  (∀ t, x.first = some t → x.last + 1000 ≤ s.time) ∧ copyNotReady (idlePkg s c x) c (idleCopy x) = false ∧
  copyMayRun (idlePkg s c x) c (idleCopy x) (copyRest x) = true ∧ s.pkg.retained = [] ∧ (x.acq = false ∨ x.begun = true)

/-- A copy after a move: what it read is logged, and the records of what it performed are posted as far as they go. -/
def copyMoved (s : State) (c : Nat) (x y : Copy) (q : Pkg) : Pkg × Copy :=
  let r := cpyPost (logCopy (logReads q s.time c 18 (copyReads y x.pos)) s.time c y x.pos) s.time c y y.todo
  (setCopy r.1 c { y with todo := r.2 }, { y with todo := r.2 })

/-- The operand of a list (R228): a valid entry of SPACE 1 and rank 1, of one of the five integer types, with every element from the
cursor to the extent inside L, aligned and within scratchpad. -/
def listOperand (s : State) (n : Nat) (e : Bits512) : Prop :=
  layoutOf s.part (asidOf s.part) n = some e ∧ layOk e = true ∧ laySpace e = 1 ∧ layRank e = 1 ∧ layType e ∈ [6, 4, 7, 0, 3] ∧
  ∀ i < listLen e, let idx := moveIdx (elemIndex e 0) (vecStep (layType e) * ((i : Nat) : Int))
    insideLay e idx = true ∧ alignOk (layType e) (elemAddr e idx) = true ∧ scrFits (tySize (layType e)) (elemAddr e idx) = true

/-- The bytes of a list, from its first to past its last. -/
def listBytes (e : Bits512) : List Span := addrRange (tySize (layType e)) ((List.range (listLen e)).map (fun i =>
  elemAddr e (moveIdx (elemIndex e 0) (vecStep (layType e) * ((i : Nat) : Int)))))

/-- The object that BARI, BARA, BART and BARW name (R224): offset and core. -/
def objectAt (s : State) (f : Fields) : Nat × Nat := (fld (s.aVal f) 0 17, fld (s.aVal f) 17 12)

/-- It lies on the issuing core, aligned, and older scratchpad accesses leave it alone. -/
def ownObject (s : State) (f : Fields) (writes : Bool) : Prop :=
  (objectAt s f).2 = s.core ∧ (objectAt s f).1 % 16 = 0 ∧ s.part.badWords = [] ∧
  scrClear s.part [((objectAt s f).1, (objectAt s f).1 + 16)]
    (if writes then [((objectAt s f).1, (objectAt s f).1 + 16)] else []) = true

/-- A barrier object after n arrivals (R223). -/
def arrivals (n : Nat) (o : BarObj) : BarObj :=
  let o1 : BarObj := if o.expect < o.arrive + n then { o with arrive := o.expect, ovr := true } else { o with arrive := o.arrive + n }
  if o1.arrive = o1.expect ∧ o1.pend = 0 then { o1 with phase := (o1.phase + 1) % 65536, arrive := 0 } else o1

/-- A ring of the current slot's own that an operand names (R230). -/
def ownRing (s : State) (q base size c p n : Nat) : Prop := mapFind s.cur.rings q = some (.own base size c p n)

def ringWritten (s : State) (q : Nat) (r : Ring) : Pkg := changeCur s (fun x => { x with rings := mapInsert x.rings q r })

def isArrive (b : MsgBody) : Prop := ∃ off n uid, b = .arrive off n uid
def isAddBytes (b : MsgBody) : Prop := ∃ off n narr ch ident, b = .addBytes off n narr ch ident

/-- The state with another link n. -/
def withLink (s : State) (n : Nat) (l : Link) : State := { s with site := { s.site with links := s.site.links.set n l } }

/-- An event on one anole link: nothing else of the machine changes. -/
def linkTo (i : Instr) (s : State) (n : Nat) (l : Link) : Prop := exec i s = .next (withLink s n l)

/-- A bundle before and after a turn command (R234): it stands, or it has turned, eligible, in dead time for 48 ticks. -/
def turnedOr (now : Nat) (b c : Bundle) : Prop :=
  c = b ∨ (eligible now b = true ∧ c = { b with fwd := !b.fwd, lastTurn := some now, dead := some (now + 48) })




/-- The record that SPAWN reads from scratchpad (R251, R267). -/
def recordAt (s : State) (off : Nat) : BitVec 256 := BitVec.ofNat 256 (scrNat s.part off 32)

/-- Where SPAWN's record lies, and the record passes the checks of R267. -/
def spawnable (s : State) (off : Nat) (r : BitVec 256) : Prop :=
  off % 32 = 0 ∧ scrClear s.part [(off, off + 32)] [] = true ∧ s.part.badWords = [] ∧ r = recordAt s off ∧
  recCode r < 2 ^ 32 ∧ recCode r % 12 = 0 ∧ recCode r < textSizeOf s.pkg s.core

/-- The scope of a JOIN and the address that it names (R268). -/
def joinScope (s : State) (f : Fields) : Nat := max (fld (s.bVal f) 61 3) 1
def joinAddr (s : State) (f : Fields) : Nat := fld (s.bVal f) 0 57

/-- A JOIN that comes to level(S): its translation, and the package after the release push and the key pushes of its line (R268). -/
def joinReaches (s : State) (f : Fields) (x : Xlat) (p : Pkg) : Prop :=
  joinAddr s f % 32 = 0 ∧ fld (s.bVal f) 61 3 < 6 ∧ translate s.pkg (cxOf s) (joinAddr s f) true = .hit x ∧ x.ovl = none ∧
  ∃ q : Pkg, releaseAt s.pkg (cxOf s) (joinScope s f) false = (q, true) ∧
    pushKeys q s.time s.core (joinScope s f) ((List.range 4).map (fun i => storeKey x (joinAddr s f / 128 * 128 + 32 * i))) = (p, true)

/-- How it stands there, in turn with the regions of the line (R172, R173). -/
def joinShipped (s : State) (since lvl key : Nat) : Shipped :=
  ⟨s.core, s.slot, lvl, pathPlace s.core lvl (keyGran key), keyGran key / 4, since⟩

/-- How it holds there. -/
def joinHold (f : Fields) (since lvl key : Nat) : Hold := .joins since lvl key (decide (f.d ≠ .none)) none

/-- What a JOIN comes to at its instance, in its turn and with no error met (R268): the counter of the record decides. -/
def joinRow (s : State) (f : Fields) (p : Pkg) (since lvl key : Nat) : Prop :=
  let me := joinShipped s since lvl key
  let sl := slotOf (partOf p s.core) s.slot
  let asid := asidOf (partOf p s.core)
  let r := (combineFrom p s.time s.core lvl key).1
  let j := fld r 32 32
  let full := queueFull p (recCluster s.core r) (recPrio r)
  let ends := fun (q : Pkg) (v : Bool) => exec (.join f) s = .next (advance s f (writeResult (logJoin q (cxOf s) lvl key) (cxOf s) f v))
  regionAhead p me = false → readWaits p s.time s.core lvl key = false →
    (combineBad p s.time s.core lvl key = true → exec (.join f) s = .next (trapState s f (memCheck (32 * keyGran key)))) ∧
    (combineBad p s.time s.core lvl key = false →
      (j = 0 → ends (decideContest p me) false) ∧
      (∀ q : Pkg, 2 ≤ j → putJoin p (cxOf s) sl asid me key (j - 1) = (q, true) → ends q false) ∧
      (∀ q : Pkg, j = 1 → full = false → putJoin p (cxOf s) sl asid me key 0 = (q, true) →
        ends (enqueue q s.time (recCluster s.core r) (setFld (taskCopy r asid) 32 32 0)) false) ∧
      (∀ q : Pkg, j = 1 → full = true → f.d ≠ .none → putJoin p (cxOf s) sl asid me key 0 = (q, true) → ends q true))

/-- The handlers of a core that still run (R208). -/
def runningHandlers (k : Part) : List (Nat × Slot) := k.slots.filter (fun e => e.2.live && decide (e.2.kind = .errand))

/-- Strong operations of contexts of some cores are still to be performed (R272). -/
def strongLeft (p : Pkg) (cs : List Nat) : Prop := ∃ o ∈ p.orphans, o.1 ∈ cs

/-- The cores other than the issuing one are ended first (R272). -/
def othersEnded (s : State) (f : Fields) (cs : List Nat) : Pkg :=
  (cs.filter (fun c => decide (c ≠ s.core))).foldl (fun q c => endTeam q s.time c 2) (markIssued s.pkg (cxOf s) f)

/-- A slot waits and has not seen its condition. -/
def openWaitOf (s : State) (c n : Nat) (w : Wait) : Prop := (slotOf (partOf s.pkg c) n).hold = .wait w ∧ w.met = false

/-- Its condition has been seen. -/
def seenBy (s : State) (c n : Nat) (w : Wait) : Pkg :=
  updPart s.pkg c (fun k => updSlot k n (fun x => { x with hold := .wait { w with met := true } }))

/-- A context that TEXIT retires still owes something: a journal entry of its own, or a load that is not performed (R269). -/
def owes (s : State) : Prop := (∃ e ∈ s.part.journal, e.2.ctx = s.cur.ctx ∧ (e.2.status = 1 ∨ e.2.status = 2)) ∨ s.cur.loads ≠ []

/-- The package once the core has changed its mode (R273): what was asked for a slot that is gone passes on, the slot holds for 16 issues
of its own, and the handlers that arrived meanwhile run. -/
def repartDone (s : State) (f : Fields) : Pkg :=
  let m := fld (s.bVal f) 0 2
  let p := setHold (fixSelected (setPart s.pkg s.core (changeMode s.part m)) s.core) (cxOf s) .none
  runBuiltins (if m = s.part.mode then p else holdFor p s.core s.slot 64) s.time s.core false

/-- The core is neither fenced nor stopped by a gang switch. -/
def acting (s : State) (c : Nat) : Prop := (coreOf s.pkg c).fenced = none ∧ (coreOf s.pkg c).switching = false




/-- CSRR of a special register gives `r`, in sD alone (R301). -/
def csrrRow (n : Nat) (r : State → Word) : Prop :=
  ∀ (s : State) (f : Fields), runs (.csrr f) .lane0 s = true → csrNo f.a = n → exec (.csrr f) s = .next (advance s f (writeD s f (r s)))

/-- CSRW of a special register of the slot makes the slot `g` (R301). -/
def csrwSlot (n : Nat) (g : Word → Slot → Slot) : Prop :=
  ∀ (s : State) (f : Fields), runs (.csrw f) .lane0 s = true → csrNo f.d = n → reservedSet n (s.bVal f) = false →
    exec (.csrw f) s = .next (advance s f (changeCur s (g (s.bVal f))))

/-- CSRW of a special register of the core. -/
def csrwCore (n : Nat) (g : Word → Core → Core) : Prop :=
  ∀ (s : State) (f : Fields), runs (.csrw f) .lane0 s = true → csrNo f.d = n → reservedSet n (s.bVal f) = false →
    exec (.csrw f) s = .next (advance s f (updCore s.pkg s.core (g (s.bVal f))))

/-- A CSRW that sets one of the bits [lo + w - 1 : lo], which are reserved, raises ILLEGAL_INSTRUCTION (R300, R301). -/
def csrwReserved (n lo w : Nat) : Prop :=
  ∀ (s : State) (f : Fields), runs (.csrw f) .lane0 s = true → csrNo f.d = n → fld (s.bVal f) lo w ≠ 0 →
    exec (.csrw f) s = .next (trapState s f (bareTrap causeIllegal (cxOf s)))

/-- The package after an encoding that is no instruction has issued as its trap (R50, R51). -/
def badIssued (s : State) (cause : Nat) : Pkg :=
  takeTrap (updCore s.pkg s.core (fun c => { c with
    last := s.slot, alive := s.time, part := updSlot c.part s.slot (fun x => { x with readyAt := max x.readyAt (c.cycle + 4) }) }))
    s.time s.core s.slot (bareTrap cause (cxOf s))

/-- The package once a merge fault is resolved (R324): the chain of its key, the run unstalled, the record out of its queue. -/
def resolved (s : State) (f : Fields) (m : MergeFault) (g : List Rec → List Rec) : Pkg :=
  let q := popSources s.pkg s.core f
  let i := instOf q m.lvl m.inst
  dequeueFault (setInst q m.lvl m.inst (unstall (setChain i m.key (g (chainOf i m.key))))) s.time m

/-- The current team may see something of an address space. -/
def mayRead (s : State) (asid : Nat) : Prop := supOf s.part = true ∨ asid = asidOf s.part

/-- An entry of the journal that SJCLR names. -/
def namedEntry (s : State) (f : Fields) (e : JEntry) : Prop := mapFind s.part.journal (fld (s.aVal f) 0 6) = some e




/-- A level place exists, and is not the M0 of a fenced core (R12, R328). -/
def placeMoves (s : State) (lvl n : Nat) : Prop := n < placeCount lvl ∧ (lvl = 0 → (coreOf s.pkg n).fenced = none)

/-- A level place whose run may begin a merge: below M3, none in preparation, not stalled. -/
def mayMerge (s : State) (lvl n : Nat) : Prop :=
  lvl < 3 ∧ (instOf s.pkg lvl n).merging = false ∧ (instOf s.pkg lvl n).stall = none ∧ placeMoves s lvl n

/-- What an end of a merge at a level leaves: at M0 the MSYNCs of the core that waited for it have returned too (R197). -/
def afterMerge (lvl n : Nat) (q : Pkg) : Pkg := if lvl = 0 then endSync q n else q

/-- The walk of a core that a PAGE_WALK_DONE ends, and the package without it. -/
def walkEnds (s : State) (c i : Nat) (w : Walk) (q : Pkg) : Prop :=
  let cl := clusterOf s.pkg (clusterNo c)
  (cl.walks.filter (fun w => decide (w.core = c) && w.uid.isNone))[i]? = some w ∧
  q = setCluster s.pkg (clusterNo c) { cl with walks := cl.walks.erase w }

/-- The launch record that a core takes: its priority, its place, the record, and the package without it (R257, R259). -/
def launchTaken (s : State) (c prio i : Nat) (r : QRec) (take : Pkg → Pkg) : Prop :=
  launchable (coreOf s.pkg c) = true ∧ launchRecord s.pkg c = some (prio, i, r) ∧
  take = fun z => latchRoom (setQueue z (clusterNo c) prio ((queueOf z (clusterNo c) prio).eraseIdx i)) s.time

/-- Its image is loaded, and its address space is valid and holds the image's capabilities (R284). -/
def launchImageOf (s : State) (c : Nat) (r : QRec) (im : Image) : Prop :=
  mapFind s.pkg.images (imageKey (recAsid r.task) (recCode r.task)) = some im ∧
  asidOk (asidEntry s.pkg s.time c (recAsid r.task)) = true ∧ im.caps &&& ~~~ (capsOf s.pkg s.time c (recAsid r.task)) = 0

/-- The supervisor bit of the address space of a launch. -/
def launchSup (s : State) (c : Nat) (r : QRec) : Bool := bit (asidEntry s.pkg s.time c (recAsid r.task)) 2

/-- A gang switch of a core is due. -/
def switchDue (s : State) (c : Nat) : Prop :=
  gswArm (coreOf s.pkg c) = true ∧ (coreOf s.pkg c).gswtime.toNat ≤ s.time ∧ acting s c

/-- A resume of a core is due, and its request is withdrawn. -/
def resumeDue (s : State) (c : Nat) (q : Pkg) : Prop :=
  gswResume (coreOf s.pkg c) = true ∧ (coreOf s.pkg c).gswtime.toNat ≤ s.time ∧ (partOf s.pkg c).team = none ∧ acting s c ∧
  q = updCore s.pkg c (fun x => { x with gswctl := setFld x.gswctl 61 1 0 })

/-- What GANG_SWITCH_SAVED has done before it writes the image: stores posted, copies pushed, nothing left to be performed. -/
def switchReady (s : State) (c : Nat) (q : Pkg) : Prop :=
  (coreOf s.pkg c).switching = true ∧ (coreOf s.pkg c).fenced = none ∧
  ∃ q0 : Pkg, pushCopies ((mapKeys (partOf s.pkg c).slots).foldl (fun q n => finishPosting q s.time c n) s.pkg) s.time c = (q0, true) ∧
    switchQuiet q0 c = true ∧ pushReleases q0 s.time c = (q, true) ∧ switchQuiet q c = true

/-- A write of %GSWCTL whose area lies in device memory: SAVED stands, reserved bits read 0 (R274). -/
def gswWritten (s : State) (c : Nat) (b v : Word) : Prop :=
  bit v 62 = bit (coreOf s.pkg c).gswctl 62 ∧ fld v 0 12 = 0 ∧ fld v 52 9 = 0 ∧ fld v 12 40 = fld b 12 40 ∧
  bit v 61 = bit b 61 ∧ bit v 63 = bit b 63




/-- What an event makes of the package and the site. -/
def siteTo (i : Instr) (s : State) (q : Pkg) (x : Site) : Prop := exec i s = .next { s with
  pkg := q
  site := x }

/-- The package after the fencing of a core (R328): its records back in their queues, selection stopped, its waits elsewhere withdrawn, the
barriers left, CORE_FENCED reported and the event logged; an uncorrectable error is logged as detected first (R332). -/
def fencedBy (s : State) (c trigger : Nat) (q : Pkg) : Prop :=
  ∃ p1 p2 p3 p4 : Pkg, p1 = (if trigger = 0 then logDetected s.pkg s.time (coreSource c) 0 c else s.pkg) ∧
    p2 = updCore (returnTaken p1 s.time c) c (fun x => { x with
      fenced := some s.time
      ask := none
      sel := none
      part := forgetTasks x.part }) ∧
    p3 = withdrawElsewhere { p2 with parked := p2.parked.filter (fun m => decide (m.src ≠ c)) } c ∧
    p4 = leaveBarriers p3 s.time c ∧
    q = logEvent (report p4 s.time (fencedReport p4 s.time c)) s.time 0x0020 (coreSource c) [c, trigger]

/-- A core that is a fenced one's spare would be: remapped and cold but for its SEQ counter (R330). -/
def coldCore (s : State) (c : Nat) : Core := { coreReset with
  redSeq := (coreOf s.pkg c).redSeq
  alive := s.time }

/-- What the compute dies are after a power-on that starts them (R362). -/
def freshPkg (n : Nat) : Pkg := { pkgReset with regs := { regsReset with pkgnum := n % 1024 } }

/-- The site after a power-on: what the management store keeps stands. -/
def freshSite (s : State) (a b : Bool) : Site := { siteReset with
  signedA := a
  signedB := b
  slotB := s.site.slotB
  shutdowns := s.site.shutdowns
  bootFailures := s.site.bootFailures
  spared := s.site.spared }

/-- The state after another package of registers. -/
def regsTo (i : Instr) (s : State) (g : Regs → Regs) : Prop := eventTo i s { s.pkg with regs := g s.pkg.regs }

/-- An answer of the ports. -/
def answered (p : Pkg) (at' : Nat) (v : Option Nat) : Pkg := { p with portOut := p.portOut ++ [(at', v)] }

/-- The package with what an LQPORT knows of the record that the management port enqueued last (R359). -/
def lqMarked (q : Pkg) (cl : Nat) (t : Option (Nat × Nat × Nat)) : Pkg := setCluster q cl { clusterOf q cl with lqTie := t }

/-- How many launch records of a tick a queue holds. -/
def launchesAt (q : Pkg) (cl prio now : Nat) : Nat :=
  ((queueOf q cl prio).filter (fun x => recLaunch x.task && decide (x.since = now))).length

/-- The region of another package as it stands at its M3 home (R172, R173, R201). -/
def farStanding (s : State) (pk src slot team asid pa va tag ioff : Nat) (seq : BitVec 32) (ops : List RegOp) (x : Slot) : FarRegion :=
  { pkg := pk, src := src, slot := slot, team := team, seq := seq, since := s.time, sl := { x with
    pc := ioff + 12 * (ops.length + 1)
    region := some { arbPc := ioff, line := va, scope := 6, xl := farXlat s.pkg asid pa va tag, ops := ops }
    hold := .region s.time } }

/-- BAR2 reaches device memory with a request (R356, R357). -/
def bar2Reaches (s : State) (addr len : Nat) : Prop :=
  bit s.pkg.regs.winctl 63 = true ∧ addr + len ≤ 2 ^ 36 ∧ fld s.pkg.regs.winctl 0 16 * 2 ^ 36 + addr + len ≤ 0x6000000000




/-- An instruction word from its three parcels, parcel 2 first (R25, R35). -/
def word (p2 p1 p0 : Nat) : BitVec 96 := BitVec.ofNat 96 (p2 * 2 ^ 64 + p1 * 2 ^ 32 + p0)

/-- The fields of a word with GUARD p7 and no hint. -/
def fieldsOf (md : BitVec 9) (d a : Opd) (b : BOpd) : Fields := ⟨md, false, 7, 0, false, false, false, d, a, b⟩

/-- An anole link as R18, R233 and R234 allow it: sixteen bundles, at least two in each direction, a turn queue of eight. -/
def linkLegal (l : Link) : Prop :=
  l.bundles.length = 16 ∧ 2 ≤ linkFwd l ∧ linkFwd l ≤ 14 ∧ l.queue.length ≤ 8

def linksLegal (s : State) : Prop := s.site.links.length = 4 ∧ ∀ l ∈ s.site.links, linkLegal l

/-- What a register-only instruction leaves of the machine, but for the core it runs on: everything; of that core, but for its part:
everything but the slot issued last and the tick of it; of the other slots: everything. `k` and `x` are the part and the slot after. -/
def onlySlot (s t : State) (k : Part) (x : Slot) : Prop :=
  t.site = s.site ∧ t.time = s.time ∧ t.pkg = { s.pkg with cores := t.pkg.cores } ∧
  (∀ c : Nat, c ≠ s.core → coreOf t.pkg c = coreOf s.pkg c) ∧
  coreOf t.pkg s.core = { coreOf s.pkg s.core with
    part := k
    last := s.slot
    alive := s.time } ∧
  (∀ n : Nat, n ≠ s.slot → slotOf k n = slotOf s.part n) ∧ slotOf k s.slot = x

/-- The frame of a scalar instruction: sD, an error that lay in it, the pc and the hold of its issue. -/
def scalarFrame (i : Fields → Instr) : Prop :=
  ∀ (s : State) (f : Fields) (t : State), runs (i f) .lane0 s = true → exec (i f) s = .next t → ∃ (k : Part) (x : Slot),
    onlySlot s t k x ∧ k = { s.part with slots := k.slots } ∧
    x = { s.cur with
      sregs := x.sregs
      badRegs := x.badRegs
      pc := x.pc
      readyAt := x.readyAt
      cap := none
      walkFault := none } ∧
    ∀ r : BitVec 5, f.d ≠ .s r → sregOf x r.toNat = sregOf s.cur r.toNat ∧ (r.toNat ∈ x.badRegs ↔ r.toNat ∈ s.cur.badRegs)

/-- The lane-wise instructions (R28): their destination, or the source they store, is a vector register, a vector-shaped ring slot or a
predicate; RRED is one where B is such a vector. The others go by lane 0 of their guard. -/
def laneWise (c : Nat) (f : Fields) : Bool :=
  c == 0x37 || (0x40 ≤ c && c ≤ 0x46) || (0x48 ≤ c && c ≤ 0x49) || (0x4C ≤ c && c ≤ 0x4E) || (0x60 ≤ c && c ≤ 0x75) ||
    (0x80 ≤ c && c ≤ 0x91) || (0xA0 ≤ c && c ≤ 0xA7) ||
    [0x0E1, 0x0E3, 0x0ED, 0x102, 0x103, 0x10B, 0x125, 0x167, 0x169].contains c ||
    (c == 0x10A && (match f.b with
      | .desc (.v _) => true
      | .desc (.qc _ _ _) => true
      | .desc (.m _ _ _) => true
      | _ => false))

/-- No mesh channel stands at an operand, so that it is read without being popped (R232). -/
def noMesh (o : Opd) : Prop := ∀ ch b w, o ≠ .m ch b w

/-- The frame of a lane-wise instruction with a register vD, where no trap is enabled and COMPAT is clear: the lanes of vD whose guard
is true, an error that lay in vD, %FPFLAGS, which only grows, the pc and the hold. -/
def vectorFrame (i : Fields → Instr) : Prop :=
  ∀ (s : State) (f : Fields) (t : State) (r : BitVec 7), runs (i f) .lanes s = true → exec (i f) s = .next t → f.d = .v r →
    noMesh f.a → noMesh (bDesc f.b) → s.cur.fpmode = 0 → mapSorted 0 s.part.vregs = true → ∃ (k : Part) (x : Slot),
    onlySlot s t k x ∧ k = { s.part with
      slots := k.slots
      vregs := k.vregs
      badVregs := k.badVregs } ∧
    x = { s.cur with
      fpflags := x.fpflags
      pc := x.pc
      readyAt := x.readyAt
      cap := none
      walkFault := none } ∧ s.cur.fpflags ||| x.fpflags = x.fpflags ∧
    (∀ n : Nat, n ≠ physReg s.part s.slot r.toNat → vregAt k n = vregAt s.part n ∧ (n ∈ k.badVregs ↔ n ∈ s.part.badVregs)) ∧
    ∀ l < 32, bit (lanesOf s f) l = false →
      lane (vregAt k (physReg s.part s.slot r.toNat)) l = lane (vregAt s.part (physReg s.part s.slot r.toNat)) l

/-- The frame of an instruction that writes a predicate: pD, %FPFLAGS of a float compare, the pc and the hold. -/
def predFrame (i : Fields → Instr) : Prop :=
  ∀ (s : State) (f : Fields) (t : State) (r : BitVec 3), runs (i f) .lanes s = true → exec (i f) s = .next t → f.d = .p r →
    noMesh f.a → noMesh (bDesc f.b) → s.cur.fpmode = 0 → ∃ (k : Part) (x : Slot),
    onlySlot s t k x ∧ k = { s.part with slots := k.slots } ∧
    x = { s.cur with
      preds := x.preds
      fpflags := x.fpflags
      pc := x.pc
      readyAt := x.readyAt
      cap := none
      walkFault := none } ∧ s.cur.fpflags ||| x.fpflags = x.fpflags ∧
    ∀ q : BitVec 3, q ≠ r → predOf x q.toNat = predOf s.cur q.toNat

end Sys2Proof.Claims

open Sys2Proof.Claims

/-- R88: the results of the scalar arithmetic and logic instructions, modulo 2^64. -/
def Obligations.ScalarArithmeticResults : Prop :=
  scalarRow .sadd (fun s f => s.aVal f + s.bVal f) ∧
  scalarRow .ssub (fun s f => s.aVal f - s.bVal f) ∧
  scalarRow .smul (fun s f => s.aVal f * s.bVal f) ∧
  scalarRow .smulh (fun s f => if u f then BitVec.ofNat 64 ((s.aVal f).toNat * (s.bVal f).toNat / 2 ^ 64)
    else BitVec.ofInt 64 ((s.aVal f).toInt * (s.bVal f).toInt / 2 ^ 64)) ∧
  scalarRow .sdiv (fun s f => if s.bVal f = 0 then BitVec.allOnes 64
    else if u f then s.aVal f / s.bVal f else (s.aVal f).sdiv (s.bVal f)) ∧
  scalarRow .srem (fun s f => if s.bVal f = 0 then s.aVal f
    else if u f then s.aVal f % s.bVal f else (s.aVal f).srem (s.bVal f)) ∧
  scalarRow .sand (fun s f => s.aVal f &&& s.bVal f) ∧
  scalarRow .sor (fun s f => s.aVal f ||| s.bVal f) ∧
  scalarRow .sxor (fun s f => s.aVal f ^^^ s.bVal f) ∧
  scalarRow .sandn (fun s f => s.aVal f &&& ~~~ (s.bVal f)) ∧
  scalarRow .sshl (fun s f => s.aVal f <<< ((s.bVal f).toNat % 64)) ∧
  scalarRow .sshr (fun s f => s.aVal f >>> ((s.bVal f).toNat % 64)) ∧
  scalarRow .ssra (fun s f => (s.aVal f).sshiftRight ((s.bVal f).toNat % 64)) ∧
  scalarRow .srot (fun s f => (s.aVal f).rotateRight ((s.bVal f).toNat % 64)) ∧
  scalarRow .smin (fun s f => if u f then (if (s.aVal f).ult (s.bVal f) then s.aVal f else s.bVal f)
    else (if (s.aVal f).slt (s.bVal f) then s.aVal f else s.bVal f)) ∧
  scalarRow .smax (fun s f => if u f then (if (s.bVal f).ult (s.aVal f) then s.aVal f else s.bVal f)
    else (if (s.bVal f).slt (s.aVal f) then s.aVal f else s.bVal f))

/-- R88, R89: the results of the scalar instructions that count, select, move and take bit fields. -/
def Obligations.ScalarBitAndMoveResults : Prop :=
  scalarRow .spopc (fun s f => BitVec.ofNat 64 (((List.range 64).filter (fun i => (s.bVal f).getLsbD i)).length)) ∧
  scalarRow .sclz (fun s f => BitVec.ofNat 64
    (((List.range 64).find? (fun i => (s.bVal f).getLsbD (63 - i))).getD 64)) ∧
  scalarRow .ssel (fun s f => if (predOf s.cur (f.md.toNat % 8)).getLsbD 0 then s.aVal f else s.bVal f) ∧
  scalarRow .smov (fun s f => s.bVal f) ∧
  scalarRow .sli (fun s f => if u f then
      (s.bVal f).extractLsb' 0 32 ++ (opdScalar s.cur f.d).extractLsb' 0 32
    else ((s.bVal f).extractLsb' 0 32).zeroExtend 64) ∧
  (∀ (s : State) (f : Fields), runs (.sbfx f) .lane0 s = true → ∃ v : Word,
    exec (.sbfx f) s = .next (advance s f (writeD s f v)) ∧
    ∀ i < 64, v.getLsbD i =
      (if i < fieldTop (s.bVal f) - fieldPos (s.bVal f) then (s.aVal f).getLsbD (fieldPos (s.bVal f) + i)
       else !u f && decide (fieldPos (s.bVal f) < fieldTop (s.bVal f)) && (s.aVal f).getLsbD (fieldTop (s.bVal f) - 1))) ∧
  (∀ (s : State) (f : Fields), runs (.sbfi f) .lane0 s = true → ∃ v : Word,
    exec (.sbfi f) s = .next (advance s f (writeD s f v)) ∧
    ∀ i < 64, v.getLsbD i =
      (if fieldPos (s.bVal f) ≤ i ∧ i < fieldTop (s.bVal f) then (s.aVal f).getLsbD (i - fieldPos (s.bVal f))
       else (opdScalar s.cur f.d).getLsbD i))

/-- R90, R91: SCMP sets every guarded lane of pD to the truth of a CND b; SLEA gives the address of an element by SPACE. -/
def Obligations.ScalarCompareAndAddress : Prop :=
  (∀ (s : State) (f : Fields), runs (.scmp f) .lanes s = true → exec (.scmp f) s = .next (advance s f
    (updPart s.pkg s.core (fun k => writePred k s.slot (lanesOf s f)
      (if cndTrue (fld f.md 1 3)
          (if u f then (s.aVal f).ult (s.bVal f) else (s.aVal f).slt (s.bVal f)) (s.aVal f == s.bVal f)
        then allTrue else 0) f.d)))) ∧
  (∀ (s : State) (f : Fields) (e : Bits512), runs (.slea f) .lane0 s = true →
    entryFor s.part (opdLay f.a) (s.bVal f) [0, 1, 2] = .ok e →
    exec (.slea f) s = .next (advance s f (writeD s f (sleaAddress e (layOffset e (elemIndex e (s.bVal f))))))) ∧
  (∀ (s : State) (f : Fields) (t : Trap), runs (.slea f) .lane0 s = true →
    entryFor s.part (opdLay f.a) (s.bVal f) [0, 1, 2] = .error t → exec (.slea f) s = .next (trapState s f t))

/-- R84, R85: the control transfers, the target checked at the transferring instruction, wherever that stands in the text.
The model's choices that it rests on: log 60 (CALL through s31). -/
def Obligations.ControlTransfers : Prop :=
  (∀ (s : State) (f : Fields), runs (.nop f) .lane0 s = true → exec (.nop f) s = .next (advance s f s.pkg)) ∧
  (∀ (s : State) (f : Fields), going (.bra f) .lane0 s = true →
    exec (.bra f) s = .next (transferOrAlign s f s.pkg (relTarget s f))) ∧
  (∀ (s : State) (f : Fields), going (.brx f) .lane0 s = true →
    exec (.brx f) s = .next (transferOrAlign s f s.pkg (s.aVal f).toNat)) ∧
  (∀ (s : State) (f : Fields), going (.call f) .lane0 s = true →
    exec (.call f) s = .next (transferOrAlign s f
      (changeCur s (fun x => setSreg x 31 (BitVec.ofNat 64 (s.cur.pc + 12))))
      (match f.b with
        | .desc o => (opdScalar s.cur o).toNat
        | _ => relTarget s f))) ∧
  (∀ (s : State) (f : Fields), going (.ret f) .lane0 s = true →
    exec (.ret f) s = .next (transferOrAlign s f s.pkg (sregOf s.cur 31).toNat)) ∧
  (∀ (s : State) (f : Fields), runs (.yield f) .lane0 s = true →
    exec (.yield f) s = .next (advance s f (updCore s.pkg s.core (fun c => { c with
      part := updSlot c.part s.slot (fun x => { x with readyAt := max x.readyAt (c.cycle + 4 * min (s.bVal f).toNat 65535) }) }))))

/-- R85, R86: LOOP opens a counted loop on a stack of four, and LEND closes the topmost that ends at it; a loop that goes on, or is left
out, may stand at the last word of the text, which otherwise ends in ALIGN. -/
def Obligations.LoopStack : Prop :=
  (∀ (s : State) (f : Fields), going (.loop f) .lane0 s = true →
    let fin := relTarget s f
    exec (.loop f) s = .next (
      if fin ≤ s.cur.pc ∨ fin % 12 ≠ 0 ∨ (textSizeOf s.pkg s.core : Int) ≤ fin then trapState s f (alignTrap fin)
      else if s.aVal f = 0 then transferOrAlign s f s.pkg (fin + 12)
      else nextOrAlign s f (changeCur s (fun x => { x with loops := ⟨x.pc + 12, fin.toNat, s.aVal f⟩ :: x.loops.take 3 })))) ∧
  (∀ (s : State) (f : Fields), going (.lend f) .lane0 s = true →
    (s.cur.loops.all (fun e => decide (e.fin ≠ s.cur.pc)) = true → exec (.lend f) s = .next (nextOrAlign s f s.pkg)) ∧
    (∀ (above : List LoopEntry) (e : LoopEntry) (rest : List LoopEntry), s.cur.loops = above ++ e :: rest →
      above.all (fun x => decide (x.fin ≠ s.cur.pc)) = true → e.fin = s.cur.pc →
      exec (.lend f) s = .next (
        if e.count - 1 = 0 then nextOrAlign s f (changeCur s (fun x => { x with loops := rest }))
        else transferOrAlign s f (changeCur s (fun x => { x with loops := { e with count := e.count - 1 } :: rest })) e.start)))

/-- R92: the predicate instructions write the guarded lanes of pD, PCNT and VBALLOT a scalar. -/
def Obligations.PredicateResults : Prop :=
  (∀ (s : State) (f : Fields), runs (.pand f) .lanes s = true → exec (.pand f) s = .next (advance s f (writeP s f (pA s f &&& pB s f)))) ∧
  (∀ (s : State) (f : Fields), runs (.por f) .lanes s = true → exec (.por f) s = .next (advance s f (writeP s f (pA s f ||| pB s f)))) ∧
  (∀ (s : State) (f : Fields), runs (.pxor f) .lanes s = true → exec (.pxor f) s = .next (advance s f (writeP s f (pA s f ^^^ pB s f)))) ∧
  (∀ (s : State) (f : Fields), runs (.pnot f) .lanes s = true → exec (.pnot f) s = .next (advance s f (writeP s f (~~~ pB s f)))) ∧
  (∀ (s : State) (f : Fields), runs (.pmov f) .lanes s = true → exec (.pmov f) s = .next (advance s f (writeP s f
    (match f.b with
      | .desc (.p r) => predOf s.cur r.toNat
      | _ => (s.bVal f).extractLsb' 0 32)))) ∧
  (∀ (s : State) (f : Fields), runs (.pany f) .lanes s = true → exec (.pany f) s = .next (advance s f (writeP s f
    (if (List.range 32).any (fun l => (pB s f).getLsbD l) then BitVec.allOnes 32 else 0)))) ∧
  (∀ (s : State) (f : Fields), runs (.pall f) .lanes s = true → exec (.pall f) s = .next (advance s f (writeP s f
    (if (List.range 32).all (fun l => (pB s f).getLsbD l) then BitVec.allOnes 32 else 0)))) ∧
  (∀ (s : State) (f : Fields), runs (.pcnt f) .lane0 s = true → exec (.pcnt f) s = .next (advance s f (writeD s f
    (BitVec.ofNat 64 ((List.range 32).filter (fun l => (pB s f).getLsbD l)).length)))) ∧
  (∀ (s : State) (f : Fields), runs (.vballot f) .lane0 s = true → exec (.vballot f) s = .next (advance s f (writeD s f
    ((pB s f).zeroExtend 64))))

/-- R93, R94, R95: the instructions that move lanes and bytes. -/
def Obligations.LaneMoveResults : Prop :=
  vecRow .vshfl (fun _ => 32) (fun _ => 32) (fun s f l =>
    let n := (lane (vB s f) l).toNat % 32
    let src := match fld f.md 0 2 with
      | 0 => n
      | 1 => if n ≤ l then l - n else l
      | 2 => if l + n ≤ 31 then l + n else l
      | _ => l ^^^ n
    ((lane (vA s f) src).toNat, 0)) ∧
  vecRow .vperm (fun _ => 8) (fun _ => 128) (fun s f k =>
    let x := elem 8 (vB s f) k
    (if 128 ≤ x then 0 else elem 8 (vA s f) x, 0)) ∧
  (∀ (s : State) (f : Fields), runs (.vcomp f) .lanes s = true → ∃ v : VReg,
    exec (.vcomp f) s = .next (advance s f (writeVec (popSources s.pkg s.core f) s.core s.slot (lanesOf s f) v f.d)) ∧
    ∀ j < 32, lane v j = match ((List.range 32).filter (fun l => bit (pB s f) l))[j]? with
      | some l => lane (vA s f) l
      | none => 0) ∧
  (∀ (s : State) (f : Fields), runs (.vexpd f) .lanes s = true → ∃ v : VReg,
    exec (.vexpd f) s = .next (advance s f (writeVec (popSources s.pkg s.core f) s.core s.slot (lanesOf s f) v f.d)) ∧
    ∀ l < 32, lane v l = if bit (pB s f) l then
      lane (vA s f) ((List.range l).filter (fun x => bit (pB s f) x)).length else 0)

/-- R96, R97: the integer reductions give the exact sum, minimum or maximum; the float sum follows the pairwise tree; the float minimum
or maximum is that of the elements that are no NaN, -0 below +0, and the default NaN where none is; VSCAN gives the inclusive prefix, each
step in the type itself.
The model's choices that it rests on: log 32. -/
def Obligations.ReductionResults : Prop :=
  (∀ (s : State) (f : Fields), runs (.vreda f) .lane0 s = true →
    let ty := fld f.md 0 4
    let x := (List.range 32).map (fun l => (lane (vA s f) l))
    let r := pairTree 6 ((redElems ty (vA s f)).map (redToF32 ty (flushes s.cur)))
      (if (redElems ty (vA s f)).any (fun y => fvIsSig (decodeF (fmtOfTy ty) y)) then fNV else 0)
    exec (.vreda f) s = .next (advance s f (
      if ty = 0 then reduced s f (BitVec.ofInt 64 ((x.map BitVec.toInt).sum)) 0 false
      else if ty = 4 then reduced s f (BitVec.ofNat 64 ((x.map BitVec.toNat).sum)) 0 false
      else reduced s f (BitVec.ofNat 64 r.1) r.2 (anySub ty (redElems ty (vA s f)))))) ∧
  (∀ (s : State) (f : Fields), runs (.vredm f) .lane0 s = true → ∃ (v : Word) (fl : Flags) (sub : Bool),
    exec (.vredm f) s = .next (advance s f (reduced s f v fl sub)) ∧
    (fld f.md 0 4 = 0 → fl = 0 ∧ (∃ l < 32, v.toInt = (lane (vA s f) l).toInt) ∧
      ∀ l < 32, if bit f.md 4 then v.toInt ≤ (lane (vA s f) l).toInt else (lane (vA s f) l).toInt ≤ v.toInt) ∧
    (fld f.md 0 4 = 4 → fl = 0 ∧ (∃ l < 32, v.toNat = (lane (vA s f) l).toNat) ∧
      ∀ l < 32, if bit f.md 4 then v.toNat ≤ (lane (vA s f) l).toNat else (lane (vA s f) l).toNat ≤ v.toNat) ∧
    (8 ≤ fld f.md 0 4 → anySig (fld f.md 0 4) (redElems (fld f.md 0 4) (vA s f)) = true →
      v = BitVec.ofNat 64 (fmtNaN fmtF32) ∧ fl = fNV) ∧
    (8 ≤ fld f.md 0 4 → fld f.md 0 4 ≤ 10 → anySig (fld f.md 0 4) (redElems (fld f.md 0 4) (vA s f)) = false →
      let xs := (redElems (fld f.md 0 4) (vA s f)).map (redToF32 (fld f.md 0 4) (flushes s.cur))
      let val := fun (x : Nat) => readF fmtF32 false x
      fl = 0 ∧ ((∀ x ∈ xs, fvIsNaN (val x) = true) → v = BitVec.ofNat 64 (fmtNaN fmtF32)) ∧
      ((∃ x ∈ xs, fvIsNaN (val x) = false) → ∃ x ∈ xs, fvIsNaN (val x) = false ∧ v = BitVec.ofNat 64 x ∧
        ∀ y ∈ xs, fvIsNaN (val y) = false →
          if bit f.md 4 then fvLt true (val y) (val x) = false else fvLt true (val x) (val y) = false))) ∧
  (∀ (s : State) (f : Fields), runs (.vscan f) .lanes s = true →
    let ty := fld f.md 0 4
    let w := redWidth ty
    ∃ (v : VReg) (d : Nat → Nat) (fls : Nat → Flags) (sub : Bool),
      (∀ j < 1024 / w, elem w v j = d j % 2 ^ w) ∧
      d 0 = (if tyIsInt ty then elem w (vA s f) 0 else flushBits (fmtOfTy ty) (flushes s.cur) (elem w (vA s f) 0)) ∧ fls 0 = 0 ∧
      (∀ j, j + 1 < 1024 / w →
        let r : Rd := if tyIsInt ty then ⟨(d j + elem w (vA s f) (j + 1)) % 2 ^ 32, 0⟩
          else fvAdd (fmtOfTy ty) .rn (flushes s.cur) (readF (fmtOfTy ty) (flushes s.cur) (d j))
            (readF (fmtOfTy ty) (flushes s.cur) (elem w (vA s f) (j + 1)))
        d (j + 1) = r.bits ∧ fls (j + 1) = r.fl) ∧
      exec (.vscan f) s = .next (if trapEnabled s.cur (guardedFlags (lanesOf s f) w (1024 / w) fls) then
          trapState s f (fpTrap (guardedFlags (lanesOf s f) w (1024 / w) fls))
        else advance s f (vecWritten s f v (guardedFlags (lanesOf s f) w (1024 / w) fls) sub)))

/-- R98: the element-wise integer arithmetic, exact and then wrapped, or clamped with SAT. -/
def Obligations.VectorIntegerArithmetic : Prop :=
  intRow .vadd true (fun _ a b _ => a + b) ∧
  intRow .vsub true (fun _ a b _ => a - b) ∧
  intRow .vmul true (fun _ a b _ => a * b) ∧
  intRow .vmad true (fun _ a b d => d + a * b) ∧
  intRow .vabs true (fun _ _ b _ => (b.natAbs : Int)) ∧
  intRow .vneg true (fun _ _ b _ => -b) ∧
  intRow .vmulh false (fun w a b _ => a * b / 2 ^ w) ∧
  intRow .vmin false (fun _ a b _ => min a b) ∧
  intRow .vmax false (fun _ a b _ => max a b)

/-- R98: the bit, shift, select and move instructions, whose shifts take b mod the width, and VCMP, true in a lane where the
comparison holds for every element of the lane. -/
def Obligations.VectorIntegerBitsAndCompare : Prop :=
  vecPlain .vand (fun s f => vA s f &&& vB s f) ∧
  vecPlain .vor (fun s f => vA s f ||| vB s f) ∧
  vecPlain .vxor (fun s f => vA s f ^^^ vB s f) ∧
  vecPlain .vandn (fun s f => vA s f &&& ~~~ (vB s f)) ∧
  vecPlain .vmov vB ∧ vecPlain .vbcast vB ∧
  vecRow .vsel (fun _ => 32) (fun _ => 32) (fun s f l =>
    ((lane (if bit (predOf s.cur (f.md.toNat % 8)) l then vA s f else vB s f) l).toNat, 0)) ∧
  vecRow .vshl (fun f => itWidth (itOf f)) (fun f => 1024 / itWidth (itOf f)) (fun s f j =>
    (elem (itWidth (itOf f)) (vA s f) j * 2 ^ (elem (itWidth (itOf f)) (vB s f) j % itWidth (itOf f)), 0)) ∧
  vecRow .vshr (fun f => itWidth (itOf f)) (fun f => 1024 / itWidth (itOf f)) (fun s f j =>
    (elem (itWidth (itOf f)) (vA s f) j / 2 ^ (elem (itWidth (itOf f)) (vB s f) j % itWidth (itOf f)), 0)) ∧
  vecRow .vsra (fun f => itWidth (itOf f)) (fun f => 1024 / itWidth (itOf f)) (fun s f j =>
    ((asInt (itWidth (itOf f)) (elem (itWidth (itOf f)) (vA s f) j) /
      2 ^ (elem (itWidth (itOf f)) (vB s f) j % itWidth (itOf f)) % 2 ^ itWidth (itOf f) : Int).toNat, 0)) ∧
  vecRow .vclz (fun f => itWidth (itOf f)) (fun f => 1024 / itWidth (itOf f)) (fun s f j =>
    (((List.range (itWidth (itOf f))).find? (fun i =>
      (elem (itWidth (itOf f)) (vB s f) j).testBit (itWidth (itOf f) - 1 - i))).getD (itWidth (itOf f)), 0)) ∧
  vecRow .vpopc (fun f => itWidth (itOf f)) (fun f => 1024 / itWidth (itOf f)) (fun s f j =>
    (((List.range (itWidth (itOf f))).filter (fun i => (elem (itWidth (itOf f)) (vB s f) j).testBit i)).length, 0)) ∧
  (∀ (s : State) (f : Fields), runs (.vcmp f) .lanes s = true → ∃ m : Mask,
    (∀ l < 32, bit m l = (List.range (32 / itWidth (itOf f))).all (fun j =>
      let a := intEl (itOf f) (vA s f) (l * (32 / itWidth (itOf f)) + j)
      let b := intEl (itOf f) (vB s f) (l * (32 / itWidth (itOf f)) + j)
      cndTrue (fld f.md 4 3) (decide (a < b)) (decide (a = b)))) ∧
    exec (.vcmp f) s = .next (advance s f (finishFlags
      (updPart (popSources s.pkg s.core f) s.core (fun k => writePred k s.slot (lanesOf s f) m f.d)) (cxOf s) 0 false)))

/-- R99: element-wise float arithmetic in FT, each result one rounding of the exact value in the mode RM, with FABS and FNEG on
the sign bit alone. -/
def Obligations.FloatArithmeticResults : Prop :=
  floatRow .fadd (fun s f a b _ => fvAdd (ftOf f) (frm f) (flushes s.cur) (rdEl s f a) (rdEl s f b)) ∧
  floatRow .fsub (fun s f a b _ => fvAdd (ftOf f) (frm f) (flushes s.cur) (rdEl s f a) (fvFlip (rdEl s f b))) ∧
  floatRow .fmul (fun s f a b _ => fvMul (ftOf f) (frm f) (flushes s.cur) (rdEl s f a) (rdEl s f b)) ∧
  floatRow .ffma (fun s f a b d => fvFma (ftOf f) (frm f) (flushes s.cur) (rdEl s f a) (rdEl s f b) (rdEl s f d)) ∧
  floatRow .fdiv (fun s f a b _ => fvDiv (ftOf f) (frm f) false (flushes s.cur) (rdEl s f a) (rdEl s f b)) ∧
  floatRow .fsqrt (fun s f _ b _ => fvSqrt (ftOf f) (frm f) (flushes s.cur) (rdEl s f b)) ∧
  floatRow .fmin (fun s f a b _ => fvMinMax (ftOf f) (flushes s.cur) true a b) ∧
  floatRow .fmax (fun s f a b _ => fvMinMax (ftOf f) (flushes s.cur) false a b) ∧
  vecRow .fabs (fun f => (ftOf f).bits) (fun f => 1024 / (ftOf f).bits) (fun s f j =>
    (elem (ftOf f).bits (vB s f) j % 2 ^ ((ftOf f).bits - 1), 0)) ∧
  vecRow .fneg (fun f => (ftOf f).bits) (fun f => 1024 / (ftOf f).bits) (fun s f j =>
    (elem (ftOf f).bits (vB s f) j ^^^ 2 ^ ((ftOf f).bits - 1), 0))

/-- R100, R101: FCMP sets a lane where the comparison holds for every element of it; the functions give each element the value of
the function in FT, and raise FP_TRAP for an enabled flag.
The model's choices that it rests on: log 10. -/
def Obligations.FloatCompareAndFunctions : Prop :=
  (∀ (s : State) (f : Fields), runs (.fcmp f) .lanes s = true → ∃ (m : Mask) (sub : Bool),
    let w := (ftOf f).bits
    let t := fun j => fvCmp (fld f.md 2 3) (rdEl s f (elem w (vA s f) j))
      (rdEl s f (elem w (floatB (ftOf f) f (vIn s.pkg (cxOf s) f)) j))
    let fl := guardedFlags (lanesOf s f) w (1024 / w) (fun j => (t j).2)
    (∀ l < 32, bit m l = (List.range (32 / w)).all (fun j => (t (l * (32 / w) + j)).1)) ∧
    exec (.fcmp f) s = .next (if trapEnabled s.cur fl then trapState s f (fpTrap fl) else advance s f (finishFlags
      (updPart (popSources s.pkg s.core f) s.core (fun k => writePred k s.slot (lanesOf s f) m f.d)) (cxOf s) fl sub))) ∧
  floatRow .frcp (fun s f _ b _ => fvFn (ftOf f) (flushes s.cur) .rcp (rdEl s f b)) ∧
  floatRow .frsq (fun s f _ b _ => fvFn (ftOf f) (flushes s.cur) .rsq (rdEl s f b)) ∧
  floatRow .fexp2 (fun s f _ b _ => fvFn (ftOf f) (flushes s.cur) .exp2 (rdEl s f b)) ∧
  floatRow .flog2 (fun s f _ b _ => fvFn (ftOf f) (flushes s.cur) .log2 (rdEl s f b)) ∧
  floatRow .ftanh (fun s f _ b _ => fvFn (ftOf f) (flushes s.cur) .tanh (rdEl s f b)) ∧
  floatRow .fsin (fun s f _ b _ => fvFn (ftOf f) (flushes s.cur) .sin (rdEl s f b)) ∧
  floatRow .fcos (fun s f _ b _ => fvFn (ftOf f) (flushes s.cur) .cos (rdEl s f b))

/-- R102, R103, R104: the conversions round each exact source value once into the destination type.
The model's choices that it rests on: log 32. -/
def Obligations.ConversionResults : Prop :=
  vecRow .fcvt (fun _ => 32) (fun _ => 32) (fun s f l =>
    let r := fcvtElem (fld f.md 3 3) (fld f.md 6 3) (rmOf (fld f.md 1 2)) (bit f.md 0) (flushes s.cur)
      ((lane (vB s f) l).toNat % 2 ^ (ft3Fmt (fld f.md 3 3)).bits)
    (r.bits, r.fl)) ∧
  vecRow .icvt (fun _ => 32) (fun _ => 32) (fun s f l =>
    let it := fld f.md 5 3
    let ft := ft3Fmt (fld f.md 2 3)
    let rm := rmOf (fld f.md 0 2)
    if bit f.md 8 then
      let r := fvToInt rm false (tySigned it) (itWidth it) (readF ft (flushes s.cur) ((lane (vB s f) l).toNat % 2 ^ ft.bits))
      ((r.1 % 2 ^ 32 : Int).toNat, r.2)
    else
      let x := (lane (vB s f) l).toNat % 2 ^ itWidth it
      let r := roundDy ft rm false (flushes s.cur) false ⟨if tySigned it then asInt (itWidth it) x else x, 0⟩
      (r.bits, r.fl)) ∧
  (∀ (s : State) (f : Fields) (r : BitVec 7), runs (.fqnt f) .lanes s = true → f.a = .v r → ∃ v : VReg,
    let el := fun j => fvDiv (ft3Fmt (fld f.md 0 3)) (rmOf (fld f.md 3 2)) (bit f.md 5) true
      (decodeF fmtF32 (lane (vregAt s.part (physReg s.part s.slot (r.toNat + j / 32))) (j % 32)).toNat)
      (decodeF fmtF32 ((s.bVal f).toNat % 2 ^ 32))
    let fl := guardedFlags (lanesOf s f) 8 128 (fun j => (el j).fl)
    (∀ j < 128, elem 8 v j = (el j).bits % 2 ^ 8) ∧
    exec (.fqnt f) s = .next (if trapEnabled s.cur fl then trapState s f (fpTrap fl) else advance s f
      (finishFlags (writeVec s.pkg s.core s.slot (lanesOf s f) v f.d) (cxOf s) fl false)))

/-- R106, R107, R108: XSCALE and XPACK make the block image of R105, and XUNPK decodes one, under FP_TRAP for a scale of 0xFF.
The model's choices that it rests on: log 32. -/
def Obligations.BlockFormatResults : Prop :=
  (∀ (s : State) (f : Fields), runs (.xscale f) .lanes s = true →
    let x := f4xScale ((List.range 32).map (fun l => decodeF fmtF32 (lane (vA s f) l).toNat))
    let fl := if bit (lanesOf s f) 4 then x.2.2 else 0
    exec (.xscale f) s = .next (if trapEnabled s.cur fl then trapState s f (fpTrap fl)
      else advance s f (vecWritten s f (BitVec.ofNat 1024 (x.1 * 2 ^ 128 + x.2.1 * 2 ^ 136)) fl false))) ∧
  (∀ (s : State) (f : Fields), runs (.xpack f) .lanes s = true → ∃ v : VReg,
    let code := fun i => f4xCode (decodeF fmtF32 (lane (vA s f) i).toNat) (elem 8 (vB s f) 16) (elem 8 (vB s f) 17)
    let fl := guardedFlags (lanesOf s f) 4 32 (fun i => (code i).2)
    (∀ i < 32, elem 4 v i = (code i).1 % 16) ∧ elem 8 v 16 = elem 8 (vB s f) 16 ∧ elem 8 v 17 = elem 8 (vB s f) 17 ∧
    (∀ j < 128, 18 ≤ j → elem 8 v j = 0) ∧
    exec (.xpack f) s = .next (if trapEnabled s.cur fl then trapState s f (fpTrap fl) else advance s f (vecWritten s f v fl false))) ∧
  (∀ (s : State) (f : Fields), runs (.xunpk f) .lanes s = true →
    let block := (vA s f).toNat % 2 ^ 128 + elem 8 (vB s f) 16 * 2 ^ 128 + elem 8 (vB s f) 17 * 2 ^ 136
    let w := (ft3Fmt (fld f.md 0 3)).bits
    (elem 8 (vB s f) 16 = 0xFF → exec (.xunpk f) s = .next (trapState s f (trapOf causeFp 2 0 0))) ∧
    (elem 8 (vB s f) 16 ≠ 0xFF → ∃ (v : VReg) (sub : Bool),
      let el := fun i => fvConvert (ft3Fmt (fld f.md 0 3)) .rn false (flushes s.cur) (f4xElem block i)
      let fl := guardedFlags (lanesOf s f) w 32 (fun i => (el i).fl)
      (∀ i < 1024 / w, elem w v i = if i < 32 then (el i).bits % 2 ^ w else 0) ∧
      exec (.xunpk f) s = .next (if trapEnabled s.cur fl then trapState s f (fpTrap fl)
        else advance s f (vecWritten s f v fl sub))))

/-- R122, R123, R61: LQNT quantises eight values a lane to an E8 word under the BF16 scale, LDEC decodes the words; a scale that is
no valid one raises FP_TRAP with subcause 2.
The model's choices that it rests on: log 32. -/
def Obligations.LatticeResults : Prop :=
  (∀ (s : State) (f : Fields) (r : BitVec 7), runs (.lqnt f) .lanes s = true → f.a = .v r →
    let sc := latticeScale (flushes s.cur) (s.bVal f)
    (l8BadScale sc = true ∨ fvIsZero (decodeF fmtBF16 sc) = true →
      exec (.lqnt f) s = .next (trapState s f (trapOf causeFp 2 0 0))) ∧
    (l8BadScale sc = false → fvIsZero (decodeF fmtBF16 sc) = false → ∃ (v : VReg) (sub : Bool),
      let el := fun l => l8Quantise ((List.range 8).map (fun i =>
        decodeF fmtF32 (lane (vregAt s.part (physReg s.part s.slot (r.toNat + i))) l).toNat)) (decodeF fmtBF16 sc) (lqntPad f.b (s.bVal f))
      let fl := guardedFlags (lanesOf s f) 32 32 (fun l => (el l).2)
      (∀ l < 32, (lane v l).toNat = (el l).1 % 2 ^ 32) ∧
      exec (.lqnt f) s = .next (if trapEnabled s.cur fl then trapState s f (fpTrap fl)
        else advance s f (finishFlags (writeVec s.pkg s.core s.slot (lanesOf s f) v f.d) (cxOf s) fl sub)))) ∧
  (∀ (s : State) (f : Fields), runs (.ldec f) .lanes s = true →
    let sc := latticeScale (flushes s.cur) (s.bVal f)
    (l8BadScale sc = true → exec (.ldec f) s = .next (trapState s f (trapOf causeFp 2 0 0))) ∧
    (∀ r : BitVec 7, l8BadScale sc = false → f.d = .v r → fld f.md 0 3 = 0 → ∃ (v : Nat → VReg) (sub : Bool),
      let el := fun m l => fvConvert fmtF32 .rn false (flushes s.cur) (l8Elem (lane (vA s f) l).toNat m (decodeF fmtBF16 sc))
      let fl := (List.range 8).foldl (fun acc m => acc ||| guardedFlags (lanesOf s f) 32 32 (fun l => (el m l).fl)) 0
      (∀ m < 8, ∀ l < 32, (lane (v m) l).toNat = (el m l).bits % 2 ^ 32) ∧
      exec (.ldec f) s = .next (if trapEnabled s.cur fl then trapState s f (fpTrap fl) else advance s f (finishFlags
        ((List.range 8).foldl (fun q m => writeVec q s.core s.slot (lanesOf s f) (v m) (.v (r + BitVec.ofNat 7 m)))
          (popSources s.pkg s.core f)) (cxOf s) fl sub))) ∧
    (∀ r : BitVec 7, l8BadScale sc = false → f.d = .v r → fld f.md 0 3 ≠ 0 → ∃ (v : Nat → VReg) (fl : Flags) (sub : Bool),
      let el := fun m i => fvConvert (ft3Fmt (fld f.md 0 3)) .rn false (flushes s.cur)
        (l8Elem (lane (vA s f) (i / 2)).toNat (2 * m + i % 2) (decodeF fmtBF16 sc))
      ((ft3Fmt (fld f.md 0 3)).bits = 16 → (∀ m < 4, ∀ i < 64, elem 16 (v m) i = (el m i).bits % 2 ^ 16) ∧
        fl = (List.range 4).foldl (fun acc m => acc ||| guardedFlags (lanesOf s f) 16 64 (fun i => (el m i).fl)) 0) ∧
      exec (.ldec f) s = .next (if trapEnabled s.cur fl then trapState s f (fpTrap fl) else advance s f (finishFlags
        ((List.range 4).foldl (fun q m => writeVec q s.core s.slot (lanesOf s f) (v m) (.v (r + BitVec.ofNat 7 m)))
          (popSources s.pkg s.core f)) (cxOf s) fl sub))))

/-- R113, R115, R116, R117: MMA and MMAS put a command in the queue of four, or wait for room; MMAS with the skip list it reads at
issue; MMAR sends its command through a journal entry. -/
def Obligations.MatrixCommandsIssue : Prop :=
  (∀ (s : State) (f : Fields) (r : MatReady), runs (.mma f) .lane0 s = true → s.part.matq.length < 4 →
    matOperands s.part (cxOf s) f = .ok r → ∃ x : MatCmd, commandOf s f r x ∧ x.skips = [] ∧
      exec (.mma f) s = .next (advance s f (setPart s.pkg s.core (queued s.part x)))) ∧
  trapsAs .mma .lane0 (fun s f t => s.part.matq.length < 4 ∧ matOperands s.part (cxOf s) f = .error t) ∧
  waitsAs .mma .lane0 (fun s _ => 4 ≤ s.part.matq.length) ∧
  (∀ (s : State) (f : Fields) (r : MatReady), runs (.mmas f) .lane0 s = true → s.part.matq.length < 4 →
    matOperands s.part (cxOf s) f = .ok r →
    let off := fld s.cur.sks 0 17
    let need := skipEntries s r
    (off % 2 = 1 → exec (.mmas f) s = .next (trapState s f (alignTrap off))) ∧
    (off % 2 = 0 → 131072 < off + 2 * fld s.cur.sks 32 16 →
      exec (.mmas f) s = .next (trapState s f { bareTrap causeBounds (cxOf s) with sub := 7 })) ∧
    (off % 2 = 0 → off + 2 * fld s.cur.sks 32 16 ≤ 131072 → scrClear s.part [(off, off + 2 * need.length)] [] = true →
      scrBad s.part off (2 * need.length) = none → ∃ x : MatCmd, commandOf s f r x ∧ x.skips = need ∧
        exec (.mmas f) s = .next (advance s f (setPart s.pkg s.core (queued s.part x))))) ∧
  waitsAs .mmas .lane0 (fun s _ => 4 ≤ s.part.matq.length) ∧
  (∀ (s : State) (f : Fields) (n : Nat), runs (.mmar f) .lane0 s = true → jFree s.part = some n →
    let x := blockReg s.cur 0 f.a
    let b := MsgBody.mmar (opdTile f.d) (fld x 12 6) (fld x 18 6) ((blockReg s.cur 1 f.a).extractLsb' 0 32) (bit f.md 0)
      (bit f.md 1) (bit s.cur.fpmode 8) s.slot s.cur.ctx s.cur.pc s.part.nextUid
    ∃ e : JEntry, entryOfMsg s e 7 (homeAddr s.pkg.regs.pkgnum (fld x 0 12) 0) (fld x 0 12) s.pkg.regs.pkgnum b ∧
      exec (.mmar f) s = .next (advance s f (send (journalled s n e) s.core (fld x 0 12) (asidOf s.part) b))) ∧
  waitsAs .mmar .lane0 (fun s _ => jFree s.part = none)

/-- R113, R119: ACCZ zeroes a tile and its flag word, ACCLD loads its 1,024 elements, converted exactly to F32, ACCST stores them
under RM, SAT and the flags of R64; each in its turn on the tile. An ACCST into local scratchpad may issue and be performed later, in its turn
(R70, R113, R351).
The model's choices that it rests on: log 32, 66. -/
def Obligations.AccumulatorInstructions : Prop :=
  (∀ (k : Part) (t : Nat) (v : List Lane),
    (∀ j < 1024, mapGet 0 (setTile k t v).acc (t * 1024 + j) = v.getD j 0) ∧
    (v.length ≤ 1024 → ∀ j, j < t * 1024 ∨ t * 1024 + 1024 ≤ j → mapGet 0 (setTile k t v).acc j = mapGet 0 k.acc j)) ∧
  doneAs .accz .lane0 (fun s f => tileTurn s (opdTile f.d) [] []) (fun s f =>
    updPart (ordered s) s.core (fun k =>
      { setTile k (opdTile f.d) [] with tileFlags := mapPut 0 k.tileFlags (opdTile f.d) 0 })) ∧
  trapsAs .accld .lane0 (fun s f t => accEls s.part s.cur (opdLay f.a) (s.bVal f) false = .error t) ∧
  (∀ (s : State) (f : Fields) (e : Bits512) (els : List El), runs (.accld f) .lane0 s = true →
    accEls s.part s.cur (opdLay f.a) (s.bVal f) false = .ok (e, els) →
    (laySpace e = 1 → tileTurn s (opdTile f.d) (accSpans e (s.bVal f)) [] → s.part.badWords = [] →
      exec (.accld f) s = .next (advance s f (updPart (ordered (capped s e [])) s.core (fun k => setTile k (opdTile f.d)
        (els.map (fun x => match x.2 with
          | some idx => BitVec.ofNat 32 (fvConvert fmtF32 .rn false false (readF (fmtOfTy (layType e))
              (flushes (slotOf k s.slot)) (scrNat k (elemAddr e idx).toNat (tySize (layType e))))).bits
          | none => 0)))))) ∧
    (∀ xs : List Xlat, laySpace e = 0 → granuleBusy s.part s.slot (accGranules e true els) = false →
      translateAcc s.pkg (cxOf s) false (layType e) (accAddrs e true els) = .ok xs →
      keysFree s 0 (probeAll xs (accGranules e true els)) → tileTurn s (opdTile f.d) [] [] →
      let p := ordered (capped s e xs)
      loadBad p s.time s.core 0 xs (accGranules e true els) = none → ∃ copies : SMap Inst,
        let r := readGranules p s.time s.core 0 xs (elAddrs e els) (tySize (layType e)) (accGranules e true els)
        let q : Pkg := { logReply p s.time s.core ⟨e, els, true, xs, 0, f.long, false⟩ (accGranules e true els) with
          insts := copies }
        exec (.accld f) s = .next (advance s f (updPart q s.core (fun k =>
          let k1 := setTile k (opdTile f.d) (accValues e (flushes (slotOf k s.slot)) els (granuleBytes r.1))
          if r.2 then orFlags k1 s.slot fNV else k1))))) ∧
  trapsAs .accst .lane0 (fun s f t => accEls s.part s.cur (opdLay f.d) (s.bVal f) true = .error t) ∧
  (∀ (s : State) (f : Fields) (e : Bits512) (els : List El), runs (.accst f) .lane0 s = true →
    accEls s.part s.cur (opdLay f.d) (s.bVal f) true = .ok (e, els) → s.part.badTiles.contains (opdTile f.a) = false →
    let el := fun (i : Nat) => fvConvert (fmtOfTy (layType e)) (rmOf (fld f.md 0 2)) (bit f.md 2) (flushes s.cur)
      (decodeF fmtF32 (accOf s.part (opdTile f.a) (i / 32) (i % 32)).toNat)
    let fl := (els.filter (fun x => x.2.isSome)).foldl (fun acc x => acc ||| (el x.1).fl) 0
    (laySpace e = 1 → s.turn.later = false → tileTurn s (opdTile f.a) [] (accSpans e (s.bVal f)) → exec (.accst f) s = .next (advance s f
      (updPart (setPart (ordered (capped s e [])) s.core (els.foldl (fun q x => match x.2 with
        | some idx => scrWrite q s.time (elemAddr e idx).toNat (leBytes (tySize (layType e)) (el x.1).bits)
        | none => q) (partOf (ordered (capped s e [])) s.core))) s.core
        (fun k => orFlags k s.slot (tileFlagsOf k (opdTile f.a) ||| fl))))) ∧
    (laySpace e = 1 → s.turn.later = true → exec (.accst f) s = .next (advance s f (setPart s.pkg s.core
      { s.part with nextOrd := s.part.nextOrd + 1, accq := s.part.accq ++ [⟨opdTile f.a, e, s.bVal f, fld f.md 0 2, bit f.md 2,
          flushes s.cur, asidOf s.part, teamNoOf s.part, s.slot, s.cur.ctx, s.cur.pc,
          ⟨s.part.nextOrd, [], accSpans e (s.bVal f)⟩⟩] }))) ∧
    (∀ q : Pkg, laySpace e = 0 → storeHigh e els = none → tileTurn s (opdTile f.a) [] [] →
      storePiecesGo (ordered (capped s e [])) (cxOf s) e ⟨0, 0, 0, layType e, false, storePieces e els (fun i => (el i).bits) (fun _ _ => true)⟩
        { f with a := .none, b := .desc .none } = .done q →
      exec (.accst f) s = .next (advance s f (updPart q s.core
        (fun k => orFlags k s.slot (tileFlagsOf k (opdTile f.a) ||| fl)))))) ∧
  (∀ (p : Pkg) (now c : Nat) (x : AccCmd) (rest : List AccCmd) (els : List El), (partOf p c).accq = x :: rest →
    (partOf p c).matq.all (fun y => decide (y.tile ≠ x.tile) || decide (x.board.ord ≤ y.board.ord)) = true →
    tileHeldBefore (partOf p c) x.tile x.board.ord = false → engineMay (partOf p c) x.board = true →
    (coreOf p c).switching = false → (coreOf p c).fenced = none → (partOf p c).badTiles.contains x.tile = false →
    allOk ((List.range 1024).map (accEl x.e x.w 0 true)) = .ok els →
    let el := fun (i : Nat) => fvConvert (fmtOfTy (layType x.e)) (rmOf x.rm) x.sat x.flush
      (decodeF fmtF32 (accOf (partOf p c) x.tile (i / 32) (i % 32)).toNat)
    let fl := (els.filter (fun y => y.2.isSome)).foldl (fun acc y => acc ||| (el y.1).fl) 0
    moveAcc p now c = setPart p c (orFlagsOf (els.foldl (fun q y => match y.2 with
      | some idx => scrWrite q now (elemAddr x.e idx).toNat (leBytes (tySize (layType x.e)) (el y.1).bits)
      | none => q) { partOf p c with accq := rest }) x.slot x.ctx (tileFlagsOf (partOf p c) x.tile ||| fl)))

/-- R113, R114, R115, R117, R118, R120: the matrix unit starts the first command of its queue, ends it with the tile and the flags of
its steps, or fails it with those before the failing step; a command of another core enters the queue where MCAP admits it.
The model's choices that it rests on: log 35. -/
def Obligations.MatrixUnitEvents : Prop :=
  (∀ (s : State) (c : Nat) (x : MatCmd) (rest : List MatCmd), (partOf s.pkg c).matq = x :: rest →
    (x.running = false → engineMay (partOf s.pkg c) x.board = true → tileHeldBefore (partOf s.pkg c) x.tile x.board.ord = false →
      (coreOf s.pkg c).switching = false → arrayWaits s.pkg x = false →
      let ahead := if s.turn.later then pinLines s.pkg s.time c x else x.lines
      eventTo (.matrixCommandStart c) s (logLines (setPart s.pkg c { partOf s.pkg c with matq :=
        { x with running := true, lines := ahead } :: rest }) s.time c x.lines ahead)) ∧
    (x.running = true → eventTo (.matrixCommandStart c) s s.pkg) ∧
    (∀ r : MatRun, x.running = true → arrayWaits s.pkg x = false → runCommand s.pkg s.time c x = (r, none) → ∃ k : Part,
      eventTo (.matrixCommandComplete c) s (logLines (setPart s.pkg c k) s.time c x.lines r.lines) ∧ k.matq = rest ∧
      (∀ j < 1024, mapGet 0 k.acc (x.tile * 1024 + j) = r.tile.getD j 0) ∧
      k.tileFlags = mapPut 0 (partOf s.pkg c).tileFlags x.tile (tileFlagsOf (partOf s.pkg c) x.tile ||| r.fl) ∧
      k = { partOf s.pkg c with acc := k.acc, tileFlags := k.tileFlags, matq := k.matq }) ∧
    (∀ (r : MatRun) (t : Trap), x.running = true → arrayWaits s.pkg x = false → runCommand s.pkg s.time c x = (r, some t) → t.cause ≠ causeMachineCheck →
      ∃ k : Part, k.matq = rest ∧ (∀ j < 1024, mapGet 0 k.acc (x.tile * 1024 + j) = r.tile.getD j 0) ∧
      eventTo (.matrixEngineFault c) s (raiseEngine (setPart s.pkg c k) s.time c x.asid x.team
        { cause := 0x23, sub := if t.cause = causeFp then 1 else 2, jv := false, jent := 0, tval := BitVec.ofNat 64 x.ioff,
          tinfo := BitVec.ofNat 64 (x.tile + r.progress % 2 ^ 32 * 65536), body := none }))) ∧
  (∀ (s : State) (src dst tile la lb : Nat) (cap : BitVec 32) (fa fb cp : Bool) (sl ctx ioff uid : Nat) (m : Msg) (q : Pkg),
    arrives s src dst m q → m.body = .mmar tile la lb cap fa fb cp sl ctx ioff uid →
    let ev := Instr.mmarCommandArrival src dst
    let c := coreOf s.pkg dst
    let no := fun (cause : Nat) => sendPkg q dst s.pkg.regs.pkgnum m.src m.asid (.refusal uid cause 0)
    (c.fenced.isSome = true → eventTo ev s (no 0x31)) ∧
    (c.fenced = none → (bit c.mcap 63 = false ∨ fld c.mcap 0 32 ≠ cap.toNat) → eventTo ev s (no 0x02)) ∧
    (c.fenced = none → bit c.mcap 63 = true → fld c.mcap 0 32 = cap.toNat →
      (∀ t : Trap, mmarReady c.part { cxOf s with core := dst } (fld c.mcap 32 9) la lb fa fb = .error t →
        eventTo ev s (no 0x21)) ∧
      (∀ r : MatReady, mmarReady c.part { cxOf s with core := dst } (fld c.mcap 32 9) la lb fa fb = .ok r →
        (4 ≤ c.part.matq.length → eventTo ev s s.pkg) ∧
        (c.part.matq.length < 4 → ∃ x : MatCmd, x.tile = tile ∧ x.a = r.a ∧ x.b = r.b ∧ x.k = r.depth ∧ x.skips = [] ∧
          x.asid = fld c.mcap 32 9 ∧ x.team = mcapTeam c.part (fld c.mcap 32 9) ∧ x.core = m.src ∧ x.ioff = ioff ∧ x.progress = 0 ∧ x.running = false ∧
          eventTo ev s (sendPkg (updPart (receive q s.time dst s.pkg.regs.pkgnum m.src m.body) dst
            (fun k => queued k { x with board := { x.board with ord := k.nextOrd } }))
            dst s.pkg.regs.pkgnum m.src m.asid (.ack uid))))))

/-- R125, R127 to R130: SEAM.MATCH, SEAM.APPLY and UNSEAM put a command in the queue of the seam unit, under the checks of R125 and,
for the two that use a map, its MAGIC and GEN; the unit performs the oldest command: MATCH writes the entries and the header,
MAGIC last, UNSEAM writes row t as row entry[t] rounded once.
The model's choices that it rests on: log 24, 27, 39. -/
def Obligations.SeamInstructions : Prop :=
  (∀ (s : State) (f : Fields), runs (.seam f) .lane0 s = true → bit f.md 0 = false →
    let b := bDesc f.b
    let n := fld (blockReg s.cur 0 b) 0 13
    let dk := fld (blockReg s.cur 0 b) 16 9
    let r := fld (blockReg s.cur 1 b) 0 13
    (∀ t : Trap, seamEntry s.part (opdLay f.d) [6] 1 = .error t → exec (.seam f) s = .next (trapState s f t)) ∧
    (∀ em ek : Bits512, seamEntry s.part (opdLay f.d) [6] 1 = .ok em → seamEntry s.part (opdLay f.a) [9] 2 = .ok ek →
      (¬ (1 ≤ n ∧ n ≤ 4096 ∧ 1 ≤ dk ∧ dk ≤ 256 ∧ mergeLimit n r (bit f.md 1)) →
        exec (.seam f) s = .next (trapState s f (bareTrap causeBounds (cxOf s)))) ∧
      (1 ≤ n → n ≤ 4096 → 1 ≤ dk → dk ≤ 256 → mergeLimit n r (bit f.md 1) → checkMap em (opdLay f.d) n = .ok () →
        checkRows ek (opdLay f.a) dk n = .ok () → spansMeet (rowRange ek dk n) [mapSpan em n] = false →
        ∃ x : SeamCmd, seamOf s x 0 n dk r (fld (blockReg s.cur 2 b) 0 32) (bit f.md 1) [em, ek] ∧
          x.begun = (decide (s.part.seamq = []) && scrClear s.part (rowSpans ek dk n) [mapSpan em n]) ∧
          exec (.seam f) s = .next (advance s f (setPart s.pkg s.core (seamQueued
            (if x.begun then scrWrite s.part s.time (layBaseAddr em) (leBytes 4 0) else s.part) x)))))) ∧
  (∀ (p : Pkg) (now c : Nat) (x : SeamCmd) (rest : List SeamCmd), (partOf p c).seamq = x :: rest → x.op = 0 → x.begun = false →
    engineMay (partOf p c) x.board = true → (coreOf p c).switching = false → (coreOf p c).fenced = none →
    moveSeam p now c = setPart p c
      { scrWrite (partOf p c) now (layBaseAddr (x.entries.getD 0 0)) (leBytes 4 0) with seamq := { x with begun := true } :: rest }) ∧
  (∀ (s : State) (f : Fields) (es : List Bits512), runs (.seam f) .lane0 s = true → bit f.md 0 = true →
    let b := bDesc f.b
    let w := blockReg s.cur 0 b
    let d := fld (blockReg s.cur 1 b) 0 13
    let gen := fld (blockReg s.cur 2 b) 0 32
    let nm := fld w 0 6
    let e := fun (i : Nat) => es.getD i 0
    allOk [seamEntry s.part nm [6] 1, seamEntry s.part (opdLay f.a) [8, 9, 10] 2, seamEntry s.part (opdLay f.d) [8, 9, 10] 2,
      seamEntry s.part (fld w 8 6) [8] 1, seamEntry s.part (fld w 16 6) [8] 1, seamEntry s.part (fld w 24 6) [8] 1] = .ok es →
    1 ≤ d → d ≤ 4096 → mapReadable s nm (e 0) →
    ((mapHead s.part (layBaseAddr (e 0))).magic ≠ 0x5A534D31 → exec (.seam f) s = .next (mapRefused s f 4)) ∧
    ((mapHead s.part (layBaseAddr (e 0))).magic = 0x5A534D31 → (mapHead s.part (layBaseAddr (e 0))).gen ≠ gen →
      exec (.seam f) s = .next (mapRefused s f 5)) ∧
    (∀ h : MapHead, mapValid s nm (e 0) gen h → checkRows (e 1) (opdLay f.a) d h.n = .ok () →
      checkRows (e 2) (opdLay f.d) d (h.n - h.r) = .ok () → checkRow (e 3) (fld w 8 6) h.n 0 = .ok () →
      checkRow (e 4) (fld w 16 6) (h.n - h.r) 0 = .ok () → checkRow (e 5) (fld w 24 6) (h.n - h.r) 0 = .ok () →
      spansMeet (mapSpan (e 0) h.n :: (rowRange (e 1) d h.n ++ rowRange (e 3) h.n 1))
        (rowRange (e 2) d (h.n - h.r) ++ rowRange (e 4) (h.n - h.r) 1 ++ rowRange (e 5) (h.n - h.r) 1) = false →
      ∃ x : SeamCmd, seamOf s x 1 h.n d h.r gen h.keep0 es ∧
        exec (.seam f) s = .next (advance s f (setPart s.pkg s.core (seamQueued s.part x))))) ∧
  (∀ (s : State) (f : Fields) (es : List Bits512), runs (.unseam f) .lane0 s = true →
    let b := bDesc f.b
    let w := blockReg s.cur 0 b
    let d := fld w 16 13
    let gen := fld (blockReg s.cur 1 b) 0 32
    let nm := fld w 0 6
    let e := fun (i : Nat) => es.getD i 0
    allOk [seamEntry s.part nm [6] 1, seamEntry s.part (opdLay f.a) [8, 9, 10] 2, seamEntry s.part (opdLay f.d) [8, 9, 10] 2] =
      .ok es → 1 ≤ d → d ≤ 4096 → mapReadable s nm (e 0) →
    ((mapHead s.part (layBaseAddr (e 0))).magic ≠ 0x5A534D31 → exec (.unseam f) s = .next (mapRefused s f 4)) ∧
    ((mapHead s.part (layBaseAddr (e 0))).magic = 0x5A534D31 → (mapHead s.part (layBaseAddr (e 0))).gen ≠ gen →
      exec (.unseam f) s = .next (mapRefused s f 5)) ∧
    (∀ h : MapHead, mapValid s nm (e 0) gen h → checkRows (e 1) (opdLay f.a) d (h.n - h.r) = .ok () →
      checkRows (e 2) (opdLay f.d) d h.n = .ok () →
      spansMeet (mapSpan (e 0) h.n :: rowRange (e 1) d (h.n - h.r)) (rowRange (e 2) d h.n) = false →
      ∃ x : SeamCmd, seamOf s x 2 h.n d h.r gen h.keep0 es ∧
        exec (.unseam f) s = .next (advance s f (setPart s.pkg s.core (seamQueued s.part x))))) ∧
  (∀ (s : State) (c : Nat) (x : SeamCmd) (rest : List SeamCmd), (partOf s.pkg c).seamq = x :: rest →
    engineMay (partOf s.pkg c) x.board = true → (coreOf s.pkg c).switching = false → (partOf s.pkg c).badWords = [] →
    let k : Part := { partOf s.pkg c with seamq := rest }
    let em := x.entries.getD 0 0
    let keys := (List.range x.n).map (fun t => (List.range x.dk).map (fun i => rowVal k x.compat (x.entries.getD 1 0) i t))
    let m := seamMatching keys x.r x.keep0
    let head := leBytes 16 (0x5A534D31 + x.gen.toNat * 2 ^ 32 + x.n % 2 ^ 16 * 2 ^ 64 + x.r % 2 ^ 16 * 2 ^ 80 +
      x.dk % 2 ^ 16 * 2 ^ 96 + (if x.keep0 then 2 ^ 112 else 0))
    (x.op = 0 → eventTo (.seamCommandComplete c) s { setPart s.pkg c (orFlagsOf
      (scrWrite (scrWrite (scrWrite k s.time (layBaseAddr em + 16) (m.1.flatMap (leBytes 2))) s.time (layBaseAddr em + 4)
        (head.drop 4)) s.time (layBaseAddr em) (head.take 4)) x.slot x.ctx m.2) with freeNo := s.pkg.freeNo + 1 }) ∧
    (x.op = 1 → ∃ (k1 : Part) (fl : Flags), (k1, fl) = runSeam k s.time s.pkg.freeNo x ∧
      eventTo (.seamCommandComplete c) s
        { setPart s.pkg c (orFlagsOf k1 x.slot x.ctx fl) with freeNo := s.pkg.freeNo + 1 }) ∧
    (x.op = 2 → (∀ t < x.n, mapEntry k em t < x.n - x.r) → ∃ fl : Flags, eventTo (.seamCommandComplete c) s
      { setPart s.pkg c (orFlagsOf ((List.range x.n).foldl (fun q t => (List.range x.dk).foldl (fun q i =>
        rowPut q s.time (x.entries.getD 2 0) i t (fvConvert (fmtOfTy (layType (x.entries.getD 2 0))) .rn false (!x.compat)
          (rowVal k x.compat (x.entries.getD 1 0) i (mapEntry k em t))).bits) q) k) x.slot x.ctx fl) with
        freeNo := s.pkg.freeNo + 1 }))

/-- R145, R187, R191: a weak LD or LDV reads at once or leaves its destination to its reply, a strong one pushes its keys and reads at
level(S); a vector image holds each element at its place and zeros elsewhere; the reply writes the destination.
The model's choices that it rests on: log 9. -/
def Obligations.LoadResults : Prop :=
  loadRow .ld .lane0 false ∧ loadRow .ldv .lanes true ∧
  (∀ (e : Bits512) (els : List El) (m : SMap Granule) (i : Nat), (els.map (·.1)).Nodup →
    i < 128 / tySize (layType e) → layType e ≠ tyF4X → (∀ x ∈ els, x.1 < 128 / tySize (layType e)) →
    elem (8 * tySize (layType e)) (vectorFrom e els (granuleBytes m)) i =
      match els.find? (fun x => decide (x.1 = i)) with
      | some (_, some idx) => granuleBytes m (elemAddr e idx).toNat (tySize (layType e))
      | _ => 0) ∧
  (∀ (s : State) (c n i : Nat) (l : OutLoad) (els : List El) (p : Pkg) (v : Loaded) (nv : Bool),
    (slotOf (partOf s.pkg c) n).live = true → (slotOf (partOf s.pkg c) n).loads[i]? = some l →
    accessEls (cxOf s) l.entry l.coords 0 l.vec false l.guard = .ok els →
    (coreOf s.pkg c).switching = false → (∀ x ∈ l.xl, staleKey s.pkg x = false) →
    ∀ xs : List Xlat, replyXlats s.pkg s.time c l (accAddrs l.entry l.vec els) = .ok xs →
    (probeAll xs (accGranules l.entry l.vec els)).any (readWaits s.pkg s.time c 0) = false →
    performLoad s.pkg (cxOf s) c ⟨l.entry, els, l.vec, xs, 0, l.long, flushes (slotOf (partOf s.pkg c) n)⟩ = .ok (p, v, nv) →
    eventTo (.loadReply c n i) s (updPart p c (fun k =>
      let k1 := match l.dest, v with
        | .sreg r, .word w => updSlot k n (fun x => setSreg x r w)
        | .vreg r, .vec w => setVregAt k r (mergeLanes l.guard (vregAt k r) w)
        | _, _ => k
      updSlot (if nv then orFlags k1 n fNV else k1) n (fun x => { x with loads := x.loads.eraseIdx i }))))

/-- R141, R165, R166, R168, R172, R190, R193: a store makes one record for each granule it writes, with the bytes and the mask of that
granule. A weak ST or STV that hits posts them to M0, one that misses takes a journal entry and a walk; an STR one pushes its keys, a REL or AR
one releases first, and their records join the run of level(S), at once or when STRONG_STORE_PERFORMED comes.
The model's choices that it rests on: log 31, 67. -/
def Obligations.StoreResults : Prop :=
  storeRow .st .lane0 false ∧ storeRow .stv .lanes true ∧
  (∀ (p : Pkg) (now c limit key : Nat) (u : Rec), occupancy (instOf p 0 c) < limit → chainOf (instOf p 0 c) key = [] →
    postRecs p now c limit [(key, u)] =
      (setInst p 0 c (setChain (instOf p 0 c) key [{ u with since := now }]), [])) ∧
  (∀ (s : State) (c n sc since : Nat) (recs : List (Nat × Rec)) (p : Pkg) (left : List (Nat × Rec)),
    (slotOf (partOf s.pkg c) n).hold = .strong sc since recs → (if scopeLevel sc = 0 then
        postRecs s.pkg s.time c (postLimit (slotOf (partOf s.pkg c) n)) recs else insertRecs s.pkg s.time c sc recs) = (p, left) →
    (∀ r ∈ recs, strongBehind s.pkg (scopeLevel sc) (pathPlace c (scopeLevel sc) (keyGran r.1)) (keyGran r.1 / 4) (some since) = false) →
    eventTo (.strongStorePerformed c n) s (updPart p c (fun k => updSlot k n (fun x =>
      if left = [] then { x with
        pc := x.pc + 12
        hold := .none
        cap := none
        walkFault := none } else { x with hold := .strong sc since left })))) ∧
  (∀ (e : Bits512) (n : Nat) (idx : List Int) (v : Nat) (keep : Nat → Nat → Bool) (q : Piece), 0 ≤ elemAddr e idx →
    q ∈ storePieces e [(n, some idx)] (fun _ => v) keep → q.va % 32 = 0 ∧ q.mask ≠ 0 ∧ ∀ i < 32,
      let a := (elemAddr e idx).toNat
      q.mask.getLsbD i = (decide (a ≤ q.va + i) && decide (q.va + i < a + tySize (layType e)) && keep n (q.va + i - a)) ∧
      (q.mask.getLsbD i = true → fld q.payload (8 * i) 8 = v / 2 ^ (8 * (q.va + i - a)) % 256))

/-- R168 to R170, R181, R194 to R198: FENCE.ACQ waits for the loads of its slot, FENCE.REL and AR release; a FENCE.REL may be passed before its
release is done, by what R170 orders behind no release, and what it orders waits for that; MPUSH pushes and MDROP drops the
granules of a range; MSYNC waits for a merge that has started, DRAINST for the journal entries of its context.
The model's choices that it rests on: log 45. -/
def Obligations.FencesAndRanges : Prop :=
  doneAs .fence .lane0 (fun s f => ordOf f = 1 ∧ s.cur.loads = []) (fun s _ => s.pkg) ∧
  waitsAs .fence .lane0 (fun s f => ordOf f = 1 ∧ s.cur.loads ≠ []) ∧
  (∀ (s : State) (f : Fields) (p : Pkg) (ok : Bool), runs (.fence f) .lane0 s = true → ordOf f ≠ 1 →
    let waits := fun (q : Pkg) => if s.turn.later = true ∧ ordOf f = 2 then
        advance s f (updPart q s.core (fun k => updSlot k s.slot (fun x => { x with rels := x.rels ++ [scopeOf f] })))
      else pushState s f q (.push (scopeOf f) true [])
    (journalWaits s.part s.slot true = true ∨ s.cur.loads ≠ [] → exec (.fence f) s = .next (waits s.pkg)) ∧
    (journalWaits s.part s.slot true = false → s.cur.loads = [] → releasePush s.pkg s.time s.core (scopeOf f) = (p, ok) →
      exec (.fence f) s = .next (if ok then advance s f p else waits p))) ∧
  (∀ (s : State) (f : Fields) (n : Nat), s.cur.live = true → s.cur.hold = .none → s.cur.region = none → rightHeld s 0x0E2 f = true →
    stateOk s.part s.core s.slot 0x0E2 f = true → scoreboardFree s.part s.slot 0x0E2 f = true →
    operandsReady s.pkg s.core s.slot f = true → guardLane0 s.cur f = true → s.cur.rels = [n] →
    let r := releaseAt s.pkg (cxOf s) n true
    exec (.st f) s = .next (s.with (stand (if r.2 then updPart r.1 s.core (fun k => updSlot k s.slot (fun x => { x with rels := [] }))
      else r.1) (cxOf s) .none))) ∧
  trapsAs .mpush .lane0 (fun s f t => entryFor s.part (opdLay f.d) (s.aVal f) [0] = .error t) ∧
  doneAs .mpush .lane0 (fun s f => (∃ gs, rangeOf s f gs) ∧ journalWaits s.part s.slot false = false ∧ scopeOf f ≤ 1)
    (fun s _ => s.pkg) ∧
  (∀ (s : State) (f : Fields) (e : Bits512) (gs : List Int) (keys : List Nat) (xs : List Xlat) (p : Pkg) (ok : Bool),
    runs (.mpush f) .lane0 s = true → entryFor s.part (opdLay f.d) (s.aVal f) [0] = .ok e →
    rangeGranules e (s.aVal f) (s.bVal f) = .ok gs → journalWaits s.part s.slot false = false → 2 ≤ scopeOf f →
    rangeKeys s.pkg (cxOf s) gs = (keys, xs, none) → pushKeys s.pkg s.time s.core (scopeOf f) (dedupNat keys) = (p, ok) →
    exec (.mpush f) s = .next (if ok then advance s f p else
      pushState s f (setCap p (cxOf s) e xs) (.push (scopeOf f) false []))) ∧
  trapsAs .mdrop .lane0 (fun s f t => entryFor s.part (opdLay f.d) (s.aVal f) [0] = .error t) ∧
  (∀ (s : State) (f : Fields) (gs : List Int) (keys : List Nat) (xs : List Xlat), runs (.mdrop f) .lane0 s = true → rangeOf s f gs →
    rangeKeys s.pkg (cxOf s) gs = (keys, xs, none) → ∃ q : Pkg, exec (.mdrop f) s = .next (advance s f q) ∧
      q = { s.pkg with insts := q.insts } ∧
      q = keys.foldl (fun q k => dropCopies q s.core (scopeLevel (scopeOf f)) k) s.pkg) ∧
  (∀ (p : Pkg) (c top lvl n key : Nat), mapSorted 0 p.insts = true → (instOf (dropCopies p c top key) lvl n).run = (instOf p lvl n).run) ∧
  doneAs .msync .lane0 (fun s _ => (instOf s.pkg 0 s.core).merging = false ∨ (instOf s.pkg 0 s.core).stall.isSome = true)
    (fun s _ => s.pkg) ∧
  (∀ (s : State) (f : Fields), runs (.msync f) .lane0 s = true → (instOf s.pkg 0 s.core).merging = true →
    (instOf s.pkg 0 s.core).stall = none → exec (.msync f) s = .next (heldState s f (setHold s.pkg (cxOf s) .sync))) ∧
  doneAs .drainst .lane0 (fun s _ => ∀ e ∈ s.part.journal, e.2.ctx = s.cur.ctx → e.2.status ≠ 1 ∧ e.2.status ≠ 2)
    (fun s _ => s.pkg) ∧
  waitsAs .drainst .lane0 (fun s _ => ∃ e ∈ s.part.journal, e.2.ctx = s.cur.ctx ∧ (e.2.status = 1 ∨ e.2.status = 2))

/-- R199: PREF writes no register, holds no slot and raises no fault, whatever its entry, its element and its translation; what it leaves
is copies, and an entry of the replay log where that runs (R334). -/
def Obligations.PrefHasNoFault : Prop :=
  ∀ (s : State) (f : Fields), runs (.pref f) .lane0 s = true → ∃ q r : Pkg, exec (.pref f) s = .next (advance s f q) ∧
    q = { r with insts := q.insts } ∧ (bit (coreOf s.pkg s.core).rplctl 63 = false → r = s.pkg) ∧
    (r = s.pkg ∨ ∃ detail : List Nat, r = logReceive s.pkg s.time s.core (Config.replaySource (detail.drop 1)) detail)

/-- R172, R173, R200, R201: ARB opens a region, a false guard goes past its ARE; every instruction that a body may hold is recorded, and an
access checked as far as its coordinates are known, and any other is ILLEGAL_INSTRUCTION; ARE pushes the line's keys and has the body performed,
at once or at its turn, and then the slot has the body's registers and predicates. The body runs in program order: scalar results as outside, a
load from the view of its granule, a store as a record.
The model's choices that it rests on: log 23, 46, 67. -/
def Obligations.AtomicRegions : Prop :=
  (∀ (s : State) (f : Fields), runs (.arb f) .own s = true →
    (guardLane0 s.cur f = false →
      exec (.arb f) s = .next (transferOrAlign s f s.pkg (afterAre (textOf s.pkg s.core) s.cur.pc))) ∧
    (∀ t : Trap, guardLane0 s.cur f = true → entryFor s.part (opdLay f.d) (s.aVal f) [0] = .error t →
      exec (.arb f) s = .next (trapState s f t)) ∧
    (∀ (e : Bits512) (x : Xlat), guardLane0 s.cur f = true → entryFor s.part (opdLay f.d) (s.aVal f) [0] = .ok e →
      insideLay e (elemIndex e (s.aVal f)) = true → alignOk (layType e) (elemAddr e (elemIndex e (s.aVal f))) = true →
      translate s.pkg (cxOf s) (elemAddr e (elemIndex e (s.aVal f))) false = .hit x → x.ovl = none →
      exec (.arb f) s = .next (advance s f (changeCur s (fun y => { y with
        region := some ⟨y.pc, (elemAddr e (elemIndex e (s.aVal f))).toNat / 128 * 128, scopeOf f, x, []⟩ }))))) ∧
  (∀ (s : State) (i : Instr) (c : Nat) (f : Fields) (r : Region), inRegion s i c f r →
    (¬ bodyWord c f ∨ 16 ≤ r.ops.length ∨ ((c = 0x0E0 ∨ c = 0x0E2) ∧ 8 ≤ accessesOf r) →
      exec i s = .next (trapState s f (bareTrap causeIllegal (cxOf s)))) ∧
    (bodyWord c f → r.ops.length < 16 → c ≠ 0x0E0 → c ≠ 0x0E2 → exec i s = .next (
      if (if c = 0x037 then lanesOf s f ≠ 0 else guardLane0 s.cur f = true) ∧ windowOk s.pkg s.core f.b = false then
        trapState s f (bareTrap causeBounds (cxOf s)) else recordedState s i c f r)) ∧
    (bodyWord c f → r.ops.length < 16 → (c = 0x0E0 ∨ c = 0x0E2) → accessesOf r < 8 → guardLane0 s.cur f = false →
      exec i s = .next (recordedState s i c f r))) ∧
  (∀ (s : State) (i : Instr) (c : Nat) (f : Fields) (r : Region), bodyAccess s i c f r →
    (∀ t : Trap, bodyEntry s c f = .error t →
      (coordsKnown s c f r ∨ writtenBefore r.ops (if c = 0x0E2 then f.a else bDesc f.b) = true) → exec i s = .next (trapState s f t)) ∧
    (∀ e : Bits512, bodyEntry s c f = .ok e →
      (writtenBefore r.ops (if c = 0x0E2 then f.a else bDesc f.b) = true →
        (bodyOper s c f r r.line e = .ok () → exec i s = .next (recordedState s i c f r)) ∧
        (∀ t : Trap, bodyOper s c f r r.line e = .error t → exec i s = .next (trapState s f t))) ∧
      (coordsKnown s c f r →
        (∀ t : Trap, regionElement e (bodyCoords s c f) (bodyLay c f) r.line = .error t → exec i s = .next (trapState s f t)) ∧
        (∀ idx : List Int, regionElement e (bodyCoords s c f) (bodyLay c f) r.line = .ok idx →
          (∀ t : Trap, bodyOper s c f r (wrapInt 57 (elemAddr e idx)) e = .error t → exec i s = .next (trapState s f t)) ∧
          (bodyOper s c f r (wrapInt 57 (elemAddr e idx)) e = .ok () → layType e ≠ tyL8 →
            exec i s = .next (recordedState s i c f r)))))) ∧
  (∀ (s : State) (f : Fields), runs (.are f) .own s = true →
    (s.cur.region = none → guardLane0 s.cur f = true →
      exec (.are f) s = .next (trapState s f (bareTrap causeIllegal (cxOf s)))) ∧
    (s.cur.region = none → guardLane0 s.cur f = false → exec (.are f) s = .next (advance s f s.pkg)) ∧
    (∀ r : Region, s.cur.region = some r →
      (guardLane0 s.cur f = false → exec (.are f) s = .next (advance s f (changeCur s (fun y => { y with region := none })))) ∧
      (guardLane0 s.cur f = true →
        (∀ l ∈ s.cur.loads, ∀ n ∈ bodyRegs r.ops, l.dest ≠ .sreg n) → scalarCheck s.cur s.slot (shippedRegs [] r.ops) = none →
        granuleBusy s.part s.slot ((List.range 4).map (fun i => ((r.line + 32 * i : Nat) : Int))) = false →
        aliasBusy s.pkg (cxOf s) ((List.range 4).map (fun i => floorKey r.xl (r.line + 32 * i))) = false → ∀ p : Pkg,
        pushKeys s.pkg s.time s.core r.scope ((List.range 4).map (fun i => floorKey r.xl (r.line + 32 * i))) = (p, true) →
        (s.turn.later = true → exec (.are f) s = .next (heldState s f (setHold p (cxOf s) (.region (cameAt p (cxOf s) r.scope))))) ∧
        (∀ (p2 : Pkg) (st : RunState), s.turn.later = false →
          (regionAt p (cxOf s) s.cur r).any (regionAhead p) = false →
          performRegion p (cxOf s) s.cur r = .performed p2 st → ∃ q : Pkg,
          q = updPart p2 s.core (fun k => updSlot k s.slot (performedSlot st)) ∧ exec (.are f) s = .next (advance s f q))))) ∧
  (∀ (s : State) (c n since : Nat) (r : Region) (me : Shipped) (p : Pkg) (st : RunState),
    (slotOf (partOf s.pkg c) n).hold = .region since → (slotOf (partOf s.pkg c) n).region = some r →
    shippedOf c n (slotOf (partOf s.pkg c) n) = some me → regionAhead s.pkg me = false →
    (performRegion s.pkg { cxOf s with core := c, slot := n } (slotOf (partOf s.pkg c) n) r = .performed p st →
      eventTo (.regionExecute c n) s (updPart p c (fun k => updSlot k n (performedSlot st)))) ∧
    (∀ t : Trap, performRegion s.pkg { cxOf s with core := c, slot := n } (slotOf (partOf s.pkg c) n) r = .traps t →
      eventTo (.regionExecute c n) s (takeTrap (logCheck s.pkg s.time c t) s.time c n t))) ∧
  (∀ (p : Pkg) (cx : Cx) (r : Region) (st : RunState), runBody p cx r [] st = .ok st) ∧
  (∀ (p : Pkg) (cx : Cx) (r : Region) (o : RegOp) (rest : List RegOp) (st : RunState) (c : Nat) (f : Fields), o.i.word = some (c, f) →
    (c ≠ 0x037 → guardLane0 st.sl f = false → runBody p cx r (o :: rest) st = runBody p cx r rest st) ∧
    ((if c = 0x037 then guardMask st.sl f ≠ 0 else guardLane0 st.sl f = true) → windowOk p cx.core f.b = false →
      runBody p cx r (o :: rest) st = .error (atBody o.pc (bareTrap causeBounds cx)))) ∧
  (∀ (p : Pkg) (cx : Cx) (r : Region) (o : RegOp) (rest : List RegOp) (st : RunState) (c : Nat) (f : Fields), bodyRuns p cx st o c f →
    (c = 0x001 → runBody p cx r (o :: rest) st = runBody p cx r rest st) ∧
    (∀ (v : ScIn → Word) (d : BitVec 5), scalarVal o.i = some v → f.d = .s d → runBody p cx r (o :: rest) st = runBody p cx r rest
      { st with sl := setSreg st.sl d.toNat (v (scIn p cx.core st.sl f)) }) ∧
    (∀ d : BitVec 3, c = 0x037 → f.d = .p d → ∃ m : Mask,
      runBody p cx r (o :: rest) st = runBody p cx r rest { st with sl := setPred st.sl d.toNat m } ∧
      ∀ l < 32, bit m l = (if bit (guardMask st.sl f) l then
          let a := opdScalar st.sl f.a
          let b := bScalar p cx.core st.sl f.b
          cndTrue (fld f.md 1 3) (if u f then a.ult b else a.slt b) (a == b)
        else bit (predOf st.sl d.toNat) l)) ∧
    (∀ (e : Bits512) (t : Trap), c = 0x0E0 → regionEntry cx (bScalar p cx.core st.sl f.b) (opdLay f.a) false o.entry = .ok e →
      regionElement e (bScalar p cx.core st.sl f.b) (opdLay f.a) r.line = .error t →
      runBody p cx r (o :: rest) st = .error (atBody o.pc t)) ∧
    (∀ (e : Bits512) (idx : List Int) (d : BitVec 5), c = 0x0E0 → f.d = .s d →
      regionEntry cx (bScalar p cx.core st.sl f.b) (opdLay f.a) false o.entry = .ok e →
      regionElement e (bScalar p cx.core st.sl f.b) (opdLay f.a) r.line = .ok idx → plainType e →
      let a := (elemAddr e idx).toNat
      let v := regionView p cx.now cx.core (scopeLevel r.scope) r.xl st.recs (a / 32 * 32)
      regionBad p cx.now cx.core (scopeLevel r.scope) r.xl st.recs (a / 32 * 32) = false →
      runBody p cx r (o :: rest) st = runBody p cx r rest
        { st with nv := st.nv || v.2, sl := setSreg st.sl d.toNat (granuleElement e v.1 a) }) ∧
    (∀ (e : Bits512) (idx : List Int), c = 0x0E2 → regionEntry cx (opdScalar st.sl f.a) (opdLay f.d) true o.entry = .ok e →
      regionElement e (opdScalar st.sl f.a) (opdLay f.d) r.line = .ok idx →
      regionOper r.xl (opdScalar st.sl f.a) (opdLay f.d) (wrapInt 57 (elemAddr e idx)) true (fld f.md 1 3) e = .ok () → lineInPage r →
      let a := (elemAddr e idx).toNat
      ∃ w : Rec, runBody p cx r (o :: rest) st = runBody p cx r rest
          { st with recs := st.recs ++ [(storeKey r.xl (a / 32 * 32), w)] } ∧
        w.opr = fld f.md 1 3 ∧ w.ty = layType e ∧ w.x = bit f.md 0 ∧ w.asid = r.xl.asid ∧ w.core = cx.core ∧ w.slot = cx.slot ∧
        w.ioff = o.pc ∧ w.seq = (coreOf p cx.core).postSeq + BitVec.ofNat 32 st.recs.length ∧
        ∀ i < 32, w.mask.getLsbD i = (decide (a % 32 ≤ i) && decide (i < a % 32 + tySize (layType e))) ∧
          (w.mask.getLsbD i = true → fld w.payload (8 * i) 8 = (bScalar p cx.core st.sl f.b).toNat / 2 ^ (8 * (i - a % 32)) % 256))) ∧
  (∀ (i : Instr) (v : ScIn → Word) (s : State) (c : Nat) (f : Fields), scalarVal i = some v → i.word = some (c, f) →
    runs i .lane0 s = true → exec i s = .next (advance s f (writeD s f (v (scIn s.pkg s.core s.cur f)))))

/-- R134, R202: LTSET makes the low 512 bits of A the valid entry of the team's ASID; LTGET reads it, or zero where it is not valid. -/
def Obligations.LayoutEntries : Prop :=
  doneAs .ltset .lane0 (fun _ _ => True) (fun s f => updPart (popSources s.pkg s.core f) s.core (fun k =>
    { k with layouts := mapInsert k.layouts (asidOf k * 64 + opdLay f.d) ((vA s f).extractLsb' 0 512) })) ∧
  doneAs .ltget .lanes (fun _ _ => True) (fun s f => writeVec s.pkg s.core s.slot (lanesOf s f)
    (match mapFind s.part.layouts (asidOf s.part * 64 + opdLay f.a) with
      | some e => e.zeroExtend 1024
      | none => 0) f.d) ∧
  (∀ (k : Part) (asid n : Nat) (e : Bits512),
    layoutOf { k with layouts := mapInsert k.layouts (asid * 64 + n) e } asid n = some e)

/-- R136, R187, R188, R203: LDS and LDSV read scratchpad, LDS with sign extension by the type; STS and STSV write exactly the bytes of
their elements; no register changes in a store, and no memory in a load; each completes where its operands are as R203 asks. An access to several
words may be made word by word, in rising address (R158). -/
def Obligations.ScratchpadAccesses : Prop :=
  trapsAs .lds .lane0 (fun s f t => localEls s.part (cxOf s) (opdLay f.a) (s.bVal f) false false (lanesOf s f) = .error t) ∧
  (∀ (s : State) (f : Fields) (e : Bits512) (n : Nat) (idx : List Int), runs (.lds f) .lane0 s = true →
    localRead s f false e [(n, some idx)] → spansBad s.part (elSpans e false [(n, some idx)]) = none → plainType e →
    atOnce s (spanWords (elSpans e false [(n, some idx)])).length → exec (.lds f) s = .next (advance s f (writeD s f
      (let x := scrNat s.part (elemAddr e idx).toNat (tySize (layType e))
       if tySigned (layType e) then BitVec.ofInt 64 (asInt (8 * tySize (layType e)) x) else BitVec.ofNat 64 x)))) ∧
  (∀ (s : State) (f : Fields) (e : Bits512) (n : Nat), runs (.lds f) .lane0 s = true → localRead s f false e [(n, none)] →
    exec (.lds f) s = .next (advance s f (writeD s f 0))) ∧
  (∀ (s : State) (f : Fields) (e : Bits512) (els : List El) (v : Word), runs (.lds f) .lane0 s = true → localRead s f false e els →
    spansBad s.part (elSpans e false els) = none → atOnce s (spanWords (elSpans e false els)).length →
    scalarFrom (flushes s.cur) e els (scrNat s.part) = .ok v →
    exec (.lds f) s = .next (advance s f (writeD s f v))) ∧
  (∀ (s : State) (f : Fields) (e : Bits512) (els : List El) (t : Trap), runs (.lds f) .lane0 s = true → localRead s f false e els →
    spansBad s.part (elSpans e false els) = none → atOnce s (spanWords (elSpans e false els)).length →
    scalarFrom (flushes s.cur) e els (scrNat s.part) = .error t →
    exec (.lds f) s = .next (trapState s f t)) ∧
  localCompletes .lds .lane0 false (fun f => opdLay f.a) (fun s f => s.bVal f) ∧
  trapsAs .ldsv .lanes (fun s f t => localEls s.part (cxOf s) (opdLay f.a) (s.bVal f) true false (lanesOf s f) = .error t) ∧
  (∀ (s : State) (f : Fields) (e : Bits512) (els : List El), runs (.ldsv f) .lanes s = true → localRead s f true e els →
    spansBad s.part (elSpans e true els) = none → atOnce s (spanWords (elSpans e true els)).length → blockBad e els (scrNat s.part) = true →
    exec (.ldsv f) s = .next (trapState s f scaleTrap)) ∧
  (∀ (s : State) (f : Fields) (e : Bits512) (els : List El), runs (.ldsv f) .lanes s = true → localRead s f true e els →
    spansBad s.part (elSpans e true els) = none → atOnce s (spanWords (elSpans e true els)).length →
    blockBad e els (scrNat s.part) = false → exec (.ldsv f) s = .next (advance s f
      (writeVec s.pkg s.core s.slot (lanesOf s f) (vectorFrom e els (scrNat s.part)) f.d))) ∧
  (∀ (s : State) (f : Fields) (e : Bits512) (els : List El), runs (.ldsv f) .lanes s = true → localRead s f true e els →
    spansBad s.part (elSpans e true els) = none → atOnce s (spanWords (elSpans e true els)).length → layType e ≠ tyF4X → ∃ v : VReg,
    exec (.ldsv f) s = .next (advance s f (writeVec s.pkg s.core s.slot (lanesOf s f) v f.d)) ∧
    ∀ i < 128 / tySize (layType e), elem (8 * tySize (layType e)) v i =
      match els.find? (fun x => decide (x.1 = i)) with
      | some (_, some idx) => scrNat s.part (elemAddr e idx).toNat (tySize (layType e))
      | _ => 0) ∧
  localCompletes .ldsv .lanes true (fun f => opdLay f.a) (fun s f => s.bVal f) ∧
  localStoreRow .sts .lane0 false ∧ localCompletes .sts .lane0 false (fun f => opdLay f.d) (fun s f => s.aVal f) ∧
  localStoreRow .stsv .lanes true ∧ localCompletes .stsv .lanes true (fun f => opdLay f.d) (fun s f => s.aVal f) ∧
  loadWordsRow .lds .lane0 false ∧ loadWordsRow .ldsv .lanes true ∧ storeWordsRow .sts .lane0 false ∧ storeWordsRow .stsv .lanes true

/-- R162, R204: LDSF on a full local word empties it and gives its element, STSF on an empty one writes it and fills it; otherwise the
slot waits under %WAITLIM, or times out at once with LIMIT 0; a remote one asks its home and holds for the answer.
The model's choices that it rests on: log 58 (of waits with one deadline, which is moved). -/
def Obligations.FullEmptyWords : Prop :=
  trapsAs .ldsf .lane0 (fun s f t => wordElement s.part (cxOf s) (opdLay f.a) (s.bVal f) false = .error t) ∧
  (∀ (s : State) (f : Fields) (e : Bits512) (idx : List Int), runs (.ldsf f) .lane0 s = true → fullWord s f false e idx →
    let off := (elemAddr e idx).toNat
    (laySpace e = 1 → scrClear s.part (elSpans e false [(0, some idx)]) [] = true →
      (tagFree s.part true (off / 8) = true → s.part.badWords = [] → plainType e →
        exec (.ldsf f) s = .next (advance s f (updPart
          (serveTag (updPart s.pkg s.core (fun k => setTag k (off / 8) false)) s.time s.core (off / 8)) s.core
          (fun k => writeScalar k s.slot (loadImage (layType e) (scrNat s.part off (tySize (layType e)))) f.d)))) ∧
      (tagFree s.part true (off / 8) = false → s.cur.waitlim = 0 → exec (.ldsf f) s = .next (trapState s f
        (timeoutTrap (cxOf s) 1 s.time (some (8 * (off / 8), s.core))))) ∧
      (tagFree s.part true (off / 8) = false → s.cur.waitlim ≠ 0 → ∃ w : Waiter, w.take = true ∧ w.off = off ∧
        w.slot = some s.slot ∧ w.ctx = s.cur.ctx ∧ w.deadline = s.time + s.cur.waitlim.toNat ∧
        exec (.ldsf f) s = .next (heldState s f (limitMonitors (setHold (addWaiter s.pkg (cxOf s) w) (cxOf s)
          (.wait { kind := .full (off / 8) e idx, deadline := s.time + s.cur.waitlim.toNat, met := false, value := 0 }))
          s.time s.core)))) ∧
    (laySpace e = 2 → reachable s.pkg (homeOfEntry e).1 = true → ∃ r : Reply, r.req = s.part.nextUid ∧ r.left = 1 ∧
      r.entry = e ∧ r.idx = idx ∧ r.deadline = some (s.time + s.cur.waitlim.toNat) ∧
      exec (.ldsf f) s = .next (heldState s f (setHold (sendPkg
        (updPart s.pkg s.core (fun k => { k with nextUid := k.nextUid + 1 })) s.core (homeOfEntry e).1 (homeOfEntry e).2
        (asidOf s.part) (.takeFull off (tySize (layType e)) (scaleOff e idx)
          (if s.cur.waitlim = 0 then 0 else if (homeOfEntry e).1 = s.pkg.regs.pkgnum then s.time + s.cur.waitlim.toNat
            else s.cur.waitlim.toNat) s.part.nextUid)) (cxOf s) (.reply r))))) ∧
  trapsAs .stsf .lane0 (fun s f t => wordElement s.part (cxOf s) (opdLay f.d) (s.aVal f) true = .error t) ∧
  (∀ (s : State) (f : Fields) (e : Bits512) (idx : List Int), runs (.stsf f) .lane0 s = true → fullWord s f true e idx →
    let off := (elemAddr e idx).toNat
    let v : Word := BitVec.ofNat 64 ((s.bVal f).toNat % 2 ^ (8 * tySize (layType e)))
    (laySpace e = 1 → scrClear s.part [] (elSpans e true [(0, some idx)]) = true → tagFree s.part false (off / 8) = true →
      exec (.stsf f) s = .next (advance s f (serveTag (updPart s.pkg s.core (fun k =>
        setTag (scrWrite k s.time off (leBytes (tySize (layType e)) v.toNat)) (off / 8) true)) s.time s.core (off / 8)))) ∧
    (∀ n : Nat, laySpace e = 2 → reachable s.pkg (homeOfEntry e).1 = true →
      jFree (partOf (takeReq s.pkg s.core).2 s.core) = some n → ∃ (p : Pkg) (r : Reply), r.req = s.part.nextUid ∧ r.left = 1 ∧
      sendJournal (takeReq s.pkg s.core).2 (cxOf s) 3 (homeOfEntry e).1 (homeOfEntry e).2
        (homeAddr (homeOfEntry e).1 (homeOfEntry e).2 off) 0 (fun uid => .putEmpty off (tySize (layType e)) v
          (sentDeadline s.pkg (cxOf s) (homeOfEntry e).1) s.part.nextUid uid) = some p ∧
      exec (.stsf f) s = .next (heldState s f (setHold p (cxOf s) (.reply r)))))

/-- R204, R206, R207, R209 to R211: the remote instructions send their messages, those that change something through a journal entry;
RLD and RGATH hold their slot for the answers.
The model's choices that it rests on: log 29. -/
def Obligations.RemoteRequests : Prop :=
  (∀ (s : State) (f : Fields) (n : Nat), runs (.amsg f) .lane0 s = true → jFree s.part = some n →
    let x := blockReg s.cur 0 f.a
    let dst := fld x 0 12
    let pkg := fld x 12 10
    let b := MsgBody.amsg (fld x 24 8) (blockReg s.cur 1 f.a) (blockReg s.cur 2 f.a) (blockReg s.cur 3 f.a) (s.bVal f)
      s.part.nextUid
    ∃ e : JEntry, entryOfMsg s e 5 (homeAddr pkg dst 0) dst pkg b ∧
      (fld x 22 2 = 0 → reachable s.pkg pkg = true →
        exec (.amsg f) s = .next (advance s f (sendPkg (journalled s n e) s.core pkg dst (asidOf s.part) b))) ∧
      (fld x 22 2 ≠ 0 →
        exec (.amsg f) s = .next (advance s f (jFail (journalled s n e) s.time s.core s.part.nextUid 4 0x21 0)))) ∧
  waitsAs .amsg .lane0 (fun s _ => jFree s.part = none) ∧
  trapsAs .rld .lane0 (fun s f t => entryFor s.part (opdLay f.a) (s.bVal f) [2] = .error t) ∧
  (∀ (s : State) (f : Fields) (e : Bits512), runs (.rld f) .lane0 s = true →
    (remoteEl s f false e none → exec (.rld f) s = .next (advance s f (writeD s f 0))) ∧
    (∀ (idx : List Int) (r : Reply), remoteEl s f false e (some idx) → reachable s.pkg (homeOfEntry e).1 = true →
      replyOf s r e idx none → exec (.rld f) s = .next (heldState s f (setHold (sendPkg (requested s) s.core
        (homeOfEntry e).1 (homeOfEntry e).2 (asidOf s.part)
        (.load (elemAddr e idx).toNat (tySize (layType e)) (scaleOff e idx) s.part.nextUid 0)) (cxOf s) (.reply r))))) ∧
  trapsAs .rst .lane0 (fun s f t => entryFor s.part (opdLay f.d) (s.aVal f) [2] = .error t) ∧
  (∀ (s : State) (f : Fields) (e : Bits512), runs (.rst f) .lane0 s = true →
    (remoteEl s f true e none → exec (.rst f) s = .next (advance s f s.pkg)) ∧
    (∀ (idx : List Int) (n : Nat), remoteEl s f true e (some idx) → jFree s.part = some n →
      reachable s.pkg (homeOfEntry e).1 = true →
      let off := (elemAddr e idx).toNat
      let b := MsgBody.store off (tySize (layType e)) (BitVec.ofNat 64 ((s.bVal f).toNat % 2 ^ (8 * tySize (layType e))))
        s.part.nextUid
      ∃ en : JEntry, entryOfMsg s en 1 (homeAddr (homeOfEntry e).1 (homeOfEntry e).2 off) (homeOfEntry e).2
          (homeOfEntry e).1 b ∧
        exec (.rst f) s = .next (advance s f
          (sendPkg (journalled s n en) s.core (homeOfEntry e).1 (homeOfEntry e).2 (asidOf s.part) b)))) ∧
  (∀ (s : State) (f : Fields) (e : Bits512) (els : List El) (n : Nat),
    runs (.rred f) (if vecB f then .lanes else .lane0) s = true →
    entryFor s.part (opdLay f.d) (s.aVal f) [2] = .ok e →
    (∀ t : Trap, rredEls (cxOf s) e (s.aVal f) (opdLay f.d) (vecB f) (lanesOf s f) = .error t →
      exec (.rred f) s = .next (trapState s f t)) ∧
    (rredEls (cxOf s) e (s.aVal f) (opdLay f.d) (vecB f) (lanesOf s f) = .ok els →
    ((opTypeOk (fld f.md 1 3) (layType e) = false ∨ 10 < layType e) →
      exec (.rred f) s = .next (trapState s f (boundsTrap 3 (s.aVal f) (opdLay f.d)))) ∧
    (opTypeOk (fld f.md 1 3) (layType e) = true → layType e ≤ 10 →
      let out := packetOf s f (vecB f) e els
      (out = [] → exec (.rred f) s = .next (advance s f (popSources s.pkg s.core f))) ∧
      (∀ a v rest, out = (a, v) :: rest → jFree s.part = some n → reachable s.pkg (homeOfEntry e).1 = true →
        (bit f.md 0 = true → seqMayIssue s.part (coreOf s.pkg s.core).redSeq = true) →
        let seq := if bit f.md 0 then some (coreOf s.pkg s.core).redSeq else none
        let b := MsgBody.reduce out (layType e) (fld f.md 1 3) seq s.part.nextUid
        ∃ en : JEntry, entryOfMsg s en 2 (homeAddr (homeOfEntry e).1 (homeOfEntry e).2 a) (homeOfEntry e).2 (homeOfEntry e).1 b ∧
          en.seq = seq.getD 0 ∧ exec (.rred f) s = .next (advance s f (popSources (updCore
            (sendPkg (journalled s n en) s.core (homeOfEntry e).1 (homeOfEntry e).2 (asidOf s.part) b) s.core
            (fun c => if bit f.md 0 then { c with redSeq := c.redSeq + 1 } else c)) s.core f)))))) ∧
  (∀ (s : State) (f : Fields) (e : Bits512) (ls : List GathLane), runs (.rgath f) .lanes s = true →
    entryFor s.part (opdLay f.a) 0 [2] = .ok e →
    ((8 ≤ tySize (layType e) ∨ layType e = tyL8) →
      exec (.rgath f) s = .next (trapState s f (boundsTrap 4 0 (opdLay f.a)))) ∧
    (tySize (layType e) < 8 → layType e ≠ tyL8 →
      gathLanes e (opdLay f.a) (vB s f) ((List.range 32).filter (bit (lanesOf s f))) = .ok ls →
      reachable s.pkg (homeOfEntry e).1 = true → ls.any (fun g => g.at'.isSome) = true → ∃ r : Reply,
      r.left = (ls.filter (fun g => g.at'.isSome)).length ∧ r.refused = none ∧
      (∀ l v : Nat, mapFind r.vals l = some v → v = 0) ∧
      exec (.rgath f) s = .next (heldState s f (setHold ((ls.filter (fun g => g.at'.isSome)).foldl
        (fun q g => sendLane q (cxOf s) (homeOfEntry e).1 r.req e g)
        (takeReq (popSources s.pkg s.core f) s.core).2) (cxOf s) (.reply r)))))

/-- R159, R160, R161, R204 to R206, R210: remote loads, stores, packets and full/empty requests at their home. A packet of a source
core is applied once: the window of R160 says which, and a duplicate is acknowledged without effect. An access to several words may be performed
word by word (R158).
The model's choices that it rests on: log 4, 29. -/
def Obligations.RemoteArrivals : Prop :=
  homeRow .remoteLoadRequest isLoad (fun r now later dst m => errandAdded r now later dst 0 0 m) ∧
  homeRow .remoteStoreRequest isStore (fun r now later dst m => errandAdded r now later dst (match m.body with
    | .store _ _ _ uid => uid
    | _ => 0) 0 m) ∧
  (∀ (p : Pkg) (now home n off size req lane : Nat) (sd : Sender), (partOf p home).badWords = [] →
    builtin p now home ⟨sd, n, .load off size none req lane, 0, []⟩ =
      sendPkg p home sd.pkg sd.core sd.asid (.readDone req lane (scrNat (partOf p home) off size))) ∧
  (∀ (p : Pkg) (now home n off size uid : Nat) (v : Word) (sd : Sender),
    builtin p now home ⟨sd, n, .store off size v uid, 0, []⟩ =
      sendPkg (updPart p home (fun k => scrPut k now (elementBytes off size v))) home sd.pkg sd.core sd.asid (.ack uid)) ∧
  (∀ (p : Pkg) (now home : Nat) (e : Errand) (off size req lane uid : Nat) (v : Word),
    (e.body = .load off size none req lane → (partOf p home).badWords = [] →
      let ws := spanWords [(off, off + size)]
      (e.pos + 1 < ws.length → builtinPart p now home e =
        some (p, { e with pos := e.pos + 1, got := readWord (partOf p home) e.got (ws.getD e.pos 0) })) ∧
      builtin p now home e = sendPkg p home e.sender.pkg e.sender.core e.sender.asid
        (.readDone req lane (wordsNat (partOf p home) e.got off size))) ∧
    (e.body = .store off size v uid →
      let m := elementBytes off size v
      (e.pos + 1 < (wordsOf m).length → builtinPart p now home e = some (setPart p home (scrPut (partOf p home) now
        (m.filter (fun b => decide (b.1 / 8 = (wordsOf m).getD e.pos 0)))), { e with pos := e.pos + 1 })) ∧
      (e.pos ≠ 0 → builtin p now home e = sendPkg (updPart p home (fun k =>
        scrPut k now (m.filter (fun b => ((wordsOf m).drop e.pos).contains (b.1 / 8))))) home e.sender.pkg e.sender.core e.sender.asid
          (.ack uid))) ∧
    (∀ (q : Pkg) (e' : Errand) (rest : List Errand), (partOf p home).errands = e :: rest → isUserWork e = false →
      (slotOf (partOf p home) (errandSlot (partOf p home).mode)).live = false → repartWaits (partOf p home) = false →
      (coreOf p home).switching = false → builtinPart p now home e = some (q, e') →
      runBuiltins p now home true = updPart q home (fun k => { k with errands := e' :: k.errands.drop 1 }))) ∧
  homeRow .rredPacket isPacket (fun r now later dst m => match m.body with
    | .reduce els ty opr seq uid =>
      let fold := fun (q : Pkg) => sendPkg (updPart q dst (fun k => els.foldl (fun k x => scrWrite k now x.1
        (leBytes (tySize ty) (foldElem opr ty (scrNat k x.1 (tySize ty)) x.2.toNat).1)) k)) dst r.regs.pkgnum m.src m.asid (.ack uid)
      let no := fun (cause : Nat) => sendPkg (if cause = 0x30 then
          logDetected r now (coreSource dst) 2 ((els.head?.map (·.1)).getD 0) else r)
        dst r.regs.pkgnum m.src m.asid (.refusal uid cause 0)
      let bad := els.any (fun x => (scrBad (partOf r dst) x.1 (tySize ty)).isSome)
      if behindErrand r dst ⟨r.regs.pkgnum, m.src, m.asid⟩ then errandAdded r now later dst uid 0 m
      else match (if later then builtinPart r now dst (errandOf r uid 0 m) else none) with
      | some (q, e') => updPart q dst (fun k => { k with errands := e' :: k.errands })
      | none => (match seq with
        | none => if bad then no 0x30 else fold r
        | some n =>
          let w := windowOf (coreOf r dst) m.src
          let up := (n - w.1).toNat
          let down := (w.1 - n).toNat
          if 0 < up ∧ up < 2 ^ 31 then
            (if bad then no 0x30 else fold (updCore r dst (fun c =>
              { c with windows := mapInsert c.windows m.src (n, (w.2 <<< up) ||| 1) })))
          else if 64 ≤ down then no 0x21
          else if bit w.2 down then sendPkg r dst r.regs.pkgnum m.src m.asid (.ack uid)
          else if bad then no 0x30
          else fold (updCore r dst (fun c =>
              { c with windows := mapInsert c.windows m.src (w.1, w.2 ||| BitVec.ofNat 64 (2 ^ down)) })))
    | _ => r) ∧
  (∀ (s : State) (src dst off size d req : Nat) (sc : Option Nat) (m : Msg) (q : Pkg), arrives s src dst m q →
    m.body = .takeFull off size sc d req → (coreOf s.pkg dst).fenced = none → homeReady s.pkg dst = true →
    scapOk s.pkg dst s.pkg.regs.pkgnum m.asid = true →
    let r := receive q s.time dst s.pkg.regs.pkgnum m.src m.body
    (behindErrand r dst ⟨s.pkg.regs.pkgnum, m.src, m.asid⟩ = true →
      eventTo (.remoteFullEmptyRequest src dst) s (errandAdded r s.time false dst 0 0 m)) ∧
    (behindErrand r dst ⟨s.pkg.regs.pkgnum, m.src, m.asid⟩ = false →
    (stillAsked r ⟨s.pkg.regs.pkgnum, m.src, m.asid⟩ req = false → eventTo (.remoteFullEmptyRequest src dst) s r) ∧
    (stillAsked r ⟨s.pkg.regs.pkgnum, m.src, m.asid⟩ req = true → ∃ w : Waiter, w.take = true ∧ w.off = off ∧ w.size = size ∧
      w.scale = sc ∧ w.slot = none ∧ w.src = m.src ∧ w.req = req ∧ w.deadline = d ∧ w.moved = false ∧
      eventTo (.remoteFullEmptyRequest src dst) s (remoteWait r s.time dst w)))) ∧
  (∀ (s : State) (home i : Nat) (w : Waiter), (partOf s.pkg home).waiters[i]? = some w → w.slot = none → w.moved = false →
    (s.time < w.deadline → eventTo (.remoteWaitDeadline home i) s s.pkg) ∧
    (w.deadline ≤ s.time → (coreOf s.pkg home).switching = false → (coreOf s.pkg home).fenced = none →
      eventTo (.remoteWaitDeadline home i) s (sendPkg (updPart s.pkg home (fun k => { k with waiters := k.waiters.erase w }))
        home w.pkg w.src w.asid (.timeout w.req w.uid false))))

/-- R205, R297, R318, R334, R366: the answers to remote requests reach their sender: read data and refusals to the slot that asked,
acknowledgements and refusals to the journal entry; a home that is not ready has the message kept and sent again after 1,000 ticks,
and refused with CAUSE 0x3D a million ticks after its first arrival.
The model's choices that it rests on: log 29. -/
def Obligations.RemoteAnswers : Prop :=
  (∀ (s : State) (src dst req lane v : Nat) (m : Msg) (r : Pkg), answers s src dst m r → m.body = .readDone req lane v →
    copyUid (partOf (onReply r (cxOf s) dst req (gotLane lane v)) dst) req = none →
    eventTo (.remoteReadReply src dst) s (onReply r (cxOf s) dst req (fun y =>
      { y with left := y.left - 1, vals := mapInsert y.vals lane v }))) ∧
  (∀ (s : State) (src dst req uid : Nat) (full : Bool) (m : Msg) (r : Pkg), answers s src dst m r → m.body = .timeout req uid full →
    stsfUid (partOf r dst) req = none →
    eventTo (.remoteWaitTimeoutReply src dst) s (onReply r (cxOf s) dst req (fun y => { y with timedOut := some full }))) ∧
  (∀ (s : State) (src dst uid n : Nat) (e : JEntry) (m : Msg) (r : Pkg), answers s src dst m r → m.body = .ack uid →
    copyUid (partOf (jSuccess r dst uid) dst) uid = none → jByUid (partOf r dst) uid = some (n, e) →
    eventTo (.remoteAck src dst) s (setPart r dst
      (if (partOf r dst).journal.any (fun x => decide (x.2.ctx = e.ctx) && (decide (x.2.status = 3) || decide (x.2.status = 4)))
       then { partOf r dst with journal := mapInsert (partOf r dst).journal n { e with status := 5 } }
       else { partOf r dst with journal := mapErase (partOf r dst).journal n }))) ∧
  (∀ (s : State) (src dst uid cause n : Nat) (code : Word) (e : JEntry) (m : Msg) (r : Pkg), answers s src dst m r →
    m.body = .refusal uid cause code → jByUid (partOf r dst) uid = some (n, e) → stsfReq (partOf r dst) uid = none →
    let e' : JEntry := { e with status := 4, cause := cause, code := code }
    let p := raiseAsync (setPart r dst { partOf r dst with journal := mapInsert (partOf r dst).journal n e' }) s.time dst
      { cause := 0x21, sub := cause, jv := true, jent := n,
        tval := if cause = 0x3E ∨ cause = 0x3F then code else BitVec.ofNat 64 e.addr, tinfo := e.seq.zeroExtend 64, body := none }
    copyUid (partOf p dst) uid = none → eventTo (.remoteRefusal src dst) s p) ∧
  (∀ (s : State) (src dst : Nat) (m : Msg) (q : Pkg), arrives s src dst m q →
    (needsTeam m.body = true → (coreOf s.pkg dst).fenced = none → homeReady s.pkg dst = false →
      eventTo (.homeNotReadyAnswer src dst) s
        (let r := logReceive q s.time m.src (BitVec.ofNat 22 (m.dst * 1024 + s.pkg.regs.pkgnum)) (28 :: bodyNats m.body)
         { r with parked := r.parked ++ [{ m with first := some (m.first.getD s.time), last := s.time }] })) ∧
    (homeReady s.pkg dst = true → eventTo (.homeNotReadyAnswer src dst) s s.pkg)) ∧
  (∀ (s : State) (src i first : Nat) (m : Msg), keptBy s.pkg src i = some m → heldBack s.pkg m = false → waitOf m.body = none →
    m.first = some first →
    (s.time < m.last + 1000 → eventTo (.remoteRetryTimer src i) s s.pkg) ∧
    (m.last + 1000 ≤ s.time → s.time < first + 1000000 → eventTo (.remoteRetryTimer src i) s
      { s.pkg with parked := s.pkg.parked.erase m, net := m :: s.pkg.net }) ∧
    (s.time < first + 1000000 → eventTo (.remoteRetryLimit src i) s s.pkg) ∧
    (∀ (uid off size : Nat) (v : Word), first + 1000000 ≤ s.time → m.body = .store off size v uid →
      stsfReq (partOf s.pkg src) uid = none →
      let p := jFail { s.pkg with parked := s.pkg.parked.erase m } s.time src uid 4 0x3D 0
      copyUid (partOf p src) uid = none → eventTo (.remoteRetryLimit src i) s p))

/-- R207 to R209, R285: an active message is accepted where its handler entry is valid and refused with CAUSE 0x21 where it is not; its
handler starts on the errand slot with the sender in s5 and the four values in s1 to s4; AMRET ends it with the answer, wherever it stands in the text,
once the accumulator stores of the handler are performed.
The model's choices that it rests on: log 29, 34. -/
def Obligations.ActiveMessages : Prop :=
  homeRow .activeMessageArrival isAmsg (fun r now _ dst m => match m.body with
    | .amsg h _ _ _ _ uid => (match handlerEntry r now dst m.asid h with
      | .ok entry => errandAdded r now false dst uid entry m
      | .error cause => sendPkg r dst r.regs.pkgnum m.src m.asid (.refusal uid cause 0))
    | _ => r) ∧
  (∀ (p : Pkg) (now home asid h : Nat), (partOf p home).team = none → handlerEntry p now home asid h = .error 0x21) ∧
  (∀ (s : State) (c : Nat) (e : Errand) (rest : List Errand) (h uid : Nat) (x1 x2 x3 x4 : Word),
    let k := partOf s.pkg c
    k.errands = e :: rest → e.body = .amsg h x1 x2 x3 x4 uid → (slotOf k (errandSlot k.mode)).live = false →
    repartWaits k = false → (coreOf s.pkg c).switching = false → (coreOf s.pkg c).fenced = none → k.team.isSome = true →
    ∃ y : Slot, y.kind = .errand ∧ y.pc = e.entry ∧ y.waitlim = 1000000 ∧ y.sender = some e.sender ∧ sregOf y 1 = x1 ∧
      sregOf y 2 = x2 ∧ sregOf y 3 = x3 ∧ sregOf y 4 = x4 ∧
      sregOf y 5 = BitVec.ofNat 64 (e.sender.core % 2 ^ 12 + e.sender.pkg % 2 ^ 10 * 2 ^ 12 + e.sender.asid % 2 ^ 9 * 2 ^ 22) ∧
      eventTo (.handlerStart c) s (setPart s.pkg c (loadContext { k with errands := rest } (errandSlot k.mode) y))) ∧
  trapsAnywhere .amret .lane0 (fun s _ t => s.cur.kind ≠ .errand ∧ t = bareTrap causeIllegal (cxOf s)) ∧
  (∀ (s : State) (f : Fields) (sd : Sender), going (.amret f) .lane0 s = true → s.cur.kind = .errand → s.cur.sender = some sd →
    (∀ x ∈ s.part.accq, ¬ (x.slot = s.slot ∧ x.ctx = s.cur.ctx)) →
    exec (.amret f) s = .next (s.with (runBuiltins (sendPkg (freeSlot (markIssued s.pkg (cxOf s) f) s.time s.core s.slot) s.core
      sd.pkg sd.core sd.asid (if s.bVal f = 0 then .ack sd.uid
        else .refusal sd.uid 0x3F (((s.bVal f).extractLsb' 0 32).zeroExtend 64))) s.time s.core false))) ∧
  waitsAs .amret .lane0 (fun s _ => s.cur.kind = .errand ∧ ∃ x ∈ s.part.accq, x.slot = s.slot ∧ x.ctx = s.cur.ctx)

/-- R212 to R220, R223: CPY takes the next identifier of its channel, or waits for one of 16; its elements are performed and it
completes, or fails with ENGINE_FAULT; CPYW waits for an identifier. A copy to its own type leaves the bits. At issue it asks other packages
for its sources and adds its bytes to its barrier object; an element is its converted value at its destination address, in scratchpad, as a record
of global memory, or as a store at another package.
The model's choices that it rests on: log 25, 28, 39. -/
def Obligations.CopyInstructions : Prop :=
  (∀ (s : State) (f : Fields) (a : CpyArgs), runs (.cpy f) .lane0 s = true → cpyOf s f a →
    (16 ≤ inChannel s.part (fld a.w 32 2) → exec (.cpy f) s = .next s) ∧
    (inChannel s.part (fld a.w 32 2) < 16 →
      (∀ t : Trap, cpyChecks (cxOf s) a.d a.src (opdLay f.d) (opdLay f.a) a.od a.os a.xf (bit a.w 29) (fld a.w 0 17) a.scale = some t →
        exec (.cpy f) s = .next (trapState s f t)) ∧
      (cpyChecks (cxOf s) a.d a.src (opdLay f.d) (opdLay f.a) a.od a.os a.xf (bit a.w 29) (fld a.w 0 17) a.scale = none →
        bit a.w 29 = false → laySpace a.d ≠ 2 → laySpace a.src ≠ 2 → cpyEls a.d a.src a.od a.os a.xf ≠ [] →
        ∃ (x : Copy) (k : Part), x.ident = mapGet 0 s.part.issued (fld a.w 32 2) + 1 ∧ x.ch = fld a.w 32 2 ∧ x.slot = s.slot ∧
          x.ctx = s.cur.ctx ∧ x.asid = asidOf s.part ∧ x.team = teamNoOf s.part ∧ x.ioff = s.cur.pc ∧ x.d = a.d ∧ x.src = a.src ∧ x.od = a.od ∧ x.os = a.os ∧
          x.scale = a.scale ∧ x.xf = a.xf ∧ x.acq = bit f.md 5 ∧ x.rel = bit f.md 4 ∧ x.sc = fld f.md 1 3 ∧ x.left = 0 ∧
          x.todo = [] ∧ x.pos = 0 ∧ x.begun = false ∧ x.fail = none ∧ k.copies = s.part.copies ++ [x] ∧ k.issued = mapPut 0 s.part.issued x.ch x.ident ∧
          k.slots = (updSlot s.part s.slot (fun y => { y with
            xlast := mapPut 0 y.xlast x.ch (BitVec.ofNat 64 (x.ident % 2 ^ 48)) })).slots ∧ k.scr = s.part.scr ∧ k.vregs = s.part.vregs ∧
          exec (.cpy f) s = .next (advance s f (setPart s.pkg s.core k))))) ∧
  (∀ (s : State) (f : Fields) (a : CpyArgs), runs (.cpy f) .lane0 s = true → cpyOf s f a → inChannel s.part (fld a.w 32 2) < 16 →
    cpyChecks (cxOf s) a.d a.src (opdLay f.d) (opdLay f.a) a.od a.os a.xf (bit a.w 29) (fld a.w 0 17) a.scale = none →
    (bit a.w 29 = true → fld a.w 17 12 = s.core → s.part.badWords = [] ∧
      scrClear s.part [(fld a.w 0 17, fld a.w 0 17 + 16)] [(fld a.w 0 17, fld a.w 0 17 + 16)] = true) →
    ∃ x : Copy, newCopy s f a x ∧
      let els := cpyEls a.d a.src a.od a.os a.xf
      let counted := copyCounted s x (copyAsked s a)
      x.left = (if copyReachable s a then (cpyAsks s.pkg a.d a.src els s.part.nextUid).length else 0) ∧ x.refused = !copyReachable s a ∧
      x.added = (if x.ben = true ∧ x.home = s.core then 1 else 0) ∧ x.board.ord = (partOf counted s.core).nextOrd ∧
      exec (.cpy f) s = .next (advance s f (if els = [] ∧ x.rel = false ∧ (x.ben = false ∨ x.home = s.core) then
        finishCopy (copyTaken s x counted) s.time s.core x false else copyTaken s x counted))) ∧
  (∀ (p : Pkg) (now c : Nat) (x : Copy) (el : CpyEl) (idx : List Int), el.src = some idx → copyMay p x x.src c = true →
    layType x.src ≠ tyL8 → ∀ h : Nat, laySpace x.src ≠ 0 → scrHome p c x.src = some h → (partOf p h).badWords = [] →
    cpyRead p now c x el = .ok (some (idx, scrNat (partOf p h) (elemAddr x.src idx).toNat (tySize (layType x.src))))) ∧
  (∀ (p : Pkg) (now c : Nat) (x : Copy) (el : CpyEl) (idx : List Int) (raw : Nat), nextElement x el →
    cpyRead p now c x el = .ok (some (idx, raw)) →
    let v := cpyConvert (layType x.d) (layType x.src) x.scale raw
    let a := (elemAddr x.d el.dst).toNat
    let n := tySize (layType x.d)
    (∀ h : Nat, laySpace x.d ≠ 0 → scrHome p c x.d = some h → copyMay p x x.d c = true → mapSorted 0 (partOf p h).scr = true →
      (partOf p h).badWords = [] → ∃ (q : Pkg) (y : Copy), performCopy p now c x 1 = (q, y, none) ∧ y.pos = x.pos + 1 ∧ y.fl = x.fl ||| v.2 ∧
        y.todo = x.todo ∧ y.left = x.left ∧
        scrNat (partOf q h) a n = (if 3 ≤ x.xf then (foldElem (x.xf - 2) (layType x.d) (scrNat (partOf p h) a n) v.1).1 else v.1) % 2 ^ (8 * n) ∧
        ∀ b : Nat, b < a ∨ a + n ≤ b → scrByte (partOf q h) b = scrByte (partOf p h) b) ∧
    (∀ t : Xlat, laySpace x.d = 0 → 0 ≤ elemAddr x.d el.dst → a < 2 ^ 57 → n ∈ [1, 2, 4, 8] → a % n = 0 →
      engineXl p now c x.asid (a / 32 * 32) true = .ok t → layerCheck t (layType x.d) (a / 32 * 32) = none →
      ∃ (q : Pkg) (y : Copy) (u : Rec), performCopy p now c x 1 = (q, y, none) ∧ y.pos = x.pos + 1 ∧ y.fl = x.fl ||| v.2 ∧ y.left = x.left ∧
        y.todo = x.todo ++ [(storeKey t (a / 32 * 32), u)] ∧ u.opr = (if 3 ≤ x.xf then x.xf - 2 else 0) ∧ u.ty = layType x.d ∧ u.x = false ∧
        u.asid = x.asid ∧ u.core = c ∧ u.iov = false ∧ u.seq = (coreOf p c).postSeq ∧ (∀ i < 32,
          u.mask.getLsbD i = (decide (a % 32 ≤ i) && decide (i < a % 32 + n)) ∧
          (u.mask.getLsbD i = true → fld u.payload (8 * i) 8 = v.1 / 2 ^ (8 * (i - a % 32)) % 256)) ∧
        (partOf q c).scr = (partOf p c).scr) ∧
    (laySpace x.d = 2 → scrHome p c x.d = none → reachable p (homeOfEntry x.d).1 = true → x.xf < 3 →
      ∃ (q : Pkg) (y : Copy), performCopy p now c x 1 = (q, y, none) ∧ y.pos = x.pos + 1 ∧ y.fl = x.fl ||| v.2 ∧ y.left = x.left + 1 ∧
        q.outbox = p.outbox ++ [((homeOfEntry x.d).1, (homeOfEntry x.d).2, .store a n (BitVec.ofNat 64 v.1) x.uid)])) ∧
  (∀ (t raw : Nat) (sc : BitVec 32), cpyConvert t t sc raw = (raw, 0)) ∧
  doneAs .cpyw .lane0 (fun s f => fld (s.bVal f) 0 48 < xdone s.part (fld (s.aVal f) 0 2)) (fun s _ => s.pkg) ∧
  waitRow .cpyw .lane0 (fun s f kind => xdone s.part (fld (s.aVal f) 0 2) ≤ fld (s.bVal f) 0 48 ∧
    kind = .copies (fld (s.aVal f) 0 2) (fld (s.bVal f) 0 48)) ∧
  (∀ (s : State) (c ch ident : Nat) (x : Copy), copyOf (partOf s.pkg c) ch ident = some x → (coreOf s.pkg c).fenced = none →
    (x.todo = [] → x.left = 0 → x.fail = none → x.rel = false → x.ben = false → x.begun = true → copyRest x = 0 →
      x.refused = false → copyNotReady s.pkg c x = false → (coreOf s.pkg c).switching = false →
      eventTo (.copyComplete c ch ident) s (updPart (idlePkg s c x) c (fun k => latchCopies (orFlagsOf { k with
        copies := k.copies.filter (fun y => !(decide (y.ch = x.ch) && decide (y.ident = x.ident))) } x.slot x.ctx x.fl) s.time))) ∧
    (∀ (q : Pkg) (y : Copy), copyDue s c x → let go := { idleCopy x with begun := true, first := none }
      (performCopy (idlePkg s c x) s.time c go (copyRest x) = (q, y, none) →
        let m := copyMoved s c x y q
        (copyRest m.2 = 0 → m.2.begun = true → (coreOf m.1 c).switching = false →
          eventTo (.copyComplete c ch ident) s (continueCopy m.1 s.time c m.2)) ∧
        eventTo (.copyFault c ch ident) s s.pkg) ∧
      (∀ e : CopyFail, performCopy (idlePkg s c x) s.time c go (copyRest x) = (q, y, some e) →
        let m := copyMoved s c x y q
        eventTo (.copyFault c ch ident) s (failCopy m.1 s.time c m.2 e) ∧ eventTo (.copyComplete c ch ident) s m.1)) ∧
    (∀ (n : Nat) (q : Pkg) (y : Copy) (e : Option CopyFail), copyDue s c x → n = copyRest x →
      performCopy (idlePkg s c x) s.time c { idleCopy x with begun := true, first := none } n = (q, y, e) →
      copyMove s.pkg s.time c ch ident n = (copyMoved s c x y q).1) ∧
    (∀ t : Trap, x.todo = [] → x.left = 0 → x.fail = some t → t.cause ≠ causeMachineCheck →
      let p := raiseEngine s.pkg s.time c x.asid x.team t
      (copyOf (partOf p c) ch ident).isSome = true → eventTo (.copyFault c ch ident) s (finishCopy p s.time c (idleCopy x) true)))

/-- R222 to R224: a barrier object is written whole by BARI and changed whole by each event; BARA counts arrivals, and the phase
completes where ARRIVE equals EXPECT with nothing pending; BART tests the phase, BARW waits for it to pass; the same events come to a
home by message.
The model's choices that it rests on: log 57 (a sum beyond PEND). -/
def Obligations.BarrierObjects : Prop :=
  (∀ (k : Part) (now off : Nat) (o : BarObj), mapSorted 0 k.scr = true → o.pend < 2 ^ 56 → o.phase < 2 ^ 16 → o.arrive < 2 ^ 24 →
    o.expect < 2 ^ 24 → o.rest < 2 ^ 6 → objOf (objWrite k now off o) off = o) ∧
  doneAs .bari .lane0 (fun s f => (objectAt s f).2 = s.core ∧ (objectAt s f).1 % 16 = 0 ∧
      scrClear s.part [] [((objectAt s f).1, (objectAt s f).1 + 16)] = true) (fun s f =>
    let k := objWrite s.part s.time (objectAt s f).1 ⟨0, fld (s.bVal f) 0 16, 0, fld (s.bVal f) 16 24, false, false, 0⟩
    setPart s.pkg s.core { k with
      badWords := k.badWords.filter (fun w => decide (w ≠ (objectAt s f).1 / 8 ∧ w ≠ (objectAt s f).1 / 8 + 1)) }) ∧
  trapsAs .bari .lane0 (fun s f t => (objectAt s f).2 = s.core ∧ (objectAt s f).1 % 16 ≠ 0 ∧ t = alignTrap (objectAt s f).1) ∧
  trapsAs .bari .lane0 (fun s f t => (objectAt s f).2 ≠ s.core ∧ t = { bareTrap causeBounds (cxOf s) with sub := 2 }) ∧
  doneAs .bara .lane0 (fun s f => (objectAt s f).1 % 16 = 0 ∧ fld (s.bVal f) 0 24 = 0) (fun s _ => s.pkg) ∧
  doneAs .bara .lane0 (fun s f => ownObject s f true ∧ fld (s.bVal f) 0 24 ≠ 0) (fun s f => updPart s.pkg s.core (fun k =>
    objWrite k s.time (objectAt s f).1 (arrivals (fld (s.bVal f) 0 24) (objOf k (objectAt s f).1)))) ∧
  (∀ (s : State) (f : Fields) (n : Nat), runs (.bara f) .lane0 s = true → (objectAt s f).1 % 16 = 0 → fld (s.bVal f) 0 24 ≠ 0 →
    (objectAt s f).2 ≠ s.core → jFree s.part = some n → ∃ e : JEntry,
    entryOfMsg s e 4 (homeAddr s.pkg.regs.pkgnum (objectAt s f).2 (objectAt s f).1) (objectAt s f).2 s.pkg.regs.pkgnum
      (.arrive (objectAt s f).1 (fld (s.bVal f) 0 24) s.part.nextUid) ∧
    exec (.bara f) s = .next (advance s f (send (journalled s n e) s.core (objectAt s f).2 (asidOf s.part)
      (.arrive (objectAt s f).1 (fld (s.bVal f) 0 24) s.part.nextUid)))) ∧
  doneAs .bart .lanes (fun s f => ownObject s f false) (fun s f => updPart s.pkg s.core (fun k => writePred k s.slot (lanesOf s f)
    (if (objOf k (objectAt s f).1).phase ≠ fld (s.bVal f) 0 16 then BitVec.allOnes 32 else 0) f.d)) ∧
  doneAs .barw .lane0 (fun s f => ownObject s f false ∧ (objOf s.part (objectAt s f).1).phase ≠ fld (s.bVal f) 0 16)
    (fun s _ => s.pkg) ∧
  waitRow .barw .lane0 (fun s f kind => ownObject s f false ∧ (objOf s.part (objectAt s f).1).phase = fld (s.bVal f) 0 16 ∧
    kind = .phase (objectAt s f).1 (fld (s.bVal f) 0 16)) ∧
  homeRow .remoteBaraArrival isArrive (fun r now _ dst m => match m.body with
    | .arrive off n uid => if behindErrand r dst ⟨r.regs.pkgnum, m.src, m.asid⟩ then errandAdded r now false dst uid 0 m
      else if (scrBad (partOf r dst) off 16).isSome then
        sendPkg (logDetected r now (coreSource dst) 2 off) dst r.regs.pkgnum m.src m.asid (.refusal uid 0x30 0)
      else sendPkg (updPart r dst (fun k => objWrite k now off (arrivals n (objOf k off)))) dst r.regs.pkgnum m.src m.asid (.ack uid)
    | _ => r) ∧
  homeRowWhere nothingBefore .copyByteAddition isAddBytes (fun r now _ dst m => match m.body with
    | .addBytes off n narr ch ident => if (scrBad (partOf r dst) off 16).isSome then
        sendPkg (logDetected r now (coreSource dst) 2 off) dst r.regs.pkgnum m.src m.asid (.addRefused ch ident)
      else sendPkg (updPart r dst (fun k => objWrite k now off (objPhase
        { objOf k off with pend := ((objOf k off).pend + n) % 2 ^ 56 }))) dst r.regs.pkgnum m.src m.asid (.addOk off n narr ch ident)
    | _ => r) ∧
  (∀ (s : State) (src dst off n : Nat) (narr failed : Bool) (m : Msg) (q : Pkg), arrives s src dst m q →
    (isAddBytes m.body → ¬ nothingBefore s dst m → eventTo (.copyByteAddition src dst) s s.pkg) ∧
    (m.body = .countDone off n narr failed → (coreOf s.pkg dst).fenced.isSome = true → eventTo (.copyCountEvent src dst) s q) ∧
    (m.body = .countDone off n narr failed → (coreOf s.pkg dst).fenced = none → homeReady s.pkg dst = true → nothingBefore s dst m → eventTo (.copyCountEvent src dst) s
      (updPart (receive q s.time dst s.pkg.regs.pkgnum m.src m.body) dst (fun k =>
        objWrite k s.time off (objPhase (objDone n narr failed (objOf k off)))))))

/-- R225, R226: HWBAR releases its stores, arrives and waits; the last participant's arrival releases the scope. At POD with several
packages an episode ends with the message of its last round, or by the switch's counter.
The model's choices that it rests on: log 11, 34, 58 (of waits with one deadline, which is moved). -/
def Obligations.HardwareBarriers : Prop :=
  (∀ (s : State) (f : Fields) (p1 : Pkg), runs (.hwbar f) .lane0 s = true → journalWaits s.part s.slot false = false →
    s.cur.loads = [] → releasePush s.pkg s.time s.core (fld f.md 4 3) = (p1, true) →
    let w := waitOfCur s (.barrier (fld f.md 4 3))
    let p2 := barrierCheck (setHold (if fld f.md 4 3 = 6 then podBegin p1 s.core else p1) (cxOf s) (.wait w)) s.time s.core (fld f.md 4 3)
    (∀ v : Wait, holdOf p2 (cxOf s) = .wait v → v.met = true → exec (.hwbar f) s = .next (advance s f p2)) ∧
    (∀ v : Wait, holdOf p2 (cxOf s) = .wait v → v.met = false → s.cur.waitlim = 0 →
      exec (.hwbar f) s = .next (trapState s f (waitTrap (cxOf s) w))) ∧
    (∀ v : Wait, holdOf p2 (cxOf s) = .wait v → v.met = false → s.cur.waitlim ≠ 0 →
      exec (.hwbar f) s = .next (heldState s f (limitMonitors p2 s.time s.core)))) ∧
  (∀ (s : State) (f : Fields), runs (.hwbar f) .lane0 s = true → (journalWaits s.part s.slot false = true ∨ s.cur.loads ≠ []) →
    exec (.hwbar f) s = .next (pushState s f s.pkg (.push (fld f.md 4 3) true []))) ∧
  (∀ (p : Pkg) (now c scope : Nat) (t : Team), (partOf p c).team = some t → scope ≤ 1 →
    barrierCheck p now c scope = if memberArrived p t now scope c then releaseCore p now scope c else p) ∧
  (∀ (p : Pkg) (now c scope : Nat) (t : Team), (partOf p c).team = some t → 2 ≤ scope → scope ≤ 5 →
    barrierCheck p now c scope =
      if ((groupMembers p c t).filter (withinScope scope c)).all (memberArrived p t now scope) then
        ((groupMembers p c t).filter (withinScope scope c)).foldl (fun q m => releaseCore q now scope m) p else p) ∧
  (∀ (s : State) (asid lead round rank : Nat) (gtag : Word) (e : PodEpisode), s.pkg.pod.find? (podSame asid gtag lead) = some e →
    e.arrived = true → e.got = [] → e.round = round → countersUsed s.pkg e.gid = false →
    (rank + 2 ^ round) % e.size = e.rank → podStands s.pkg s.time e = true →
    (round + 1 = podRounds e.size → eventTo (.podBarrierRound asid gtag lead round rank) s
      { podRelease s.pkg s.time e with pod := s.pkg.pod.filter (fun x => !podSame e.asid e.gtag e.lead x) }) ∧
    (round + 1 < podRounds e.size → s.pkg.unreachable.contains ((e.rank + 2 ^ (round + 1)) % e.size) = false → eventTo (.podBarrierRound asid gtag lead round rank) s { s.pkg with
      outbox := s.pkg.outbox ++ [((e.rank + 2 ^ (round + 1)) % e.size, 0, .podRound e.asid e.gtag e.lead (round + 1) e.rank)],
      pod := s.pkg.pod.filter (fun x => !podSame e.asid e.gtag e.lead x) ++ [{ e with round := round + 1 }] })) ∧
  (∀ (s : State) (gid asid lead : Nat) (gtag : Word) (e : PodEpisode), s.pkg.pod.find? (podSame asid gtag lead) = some e →
    countersUsed s.pkg gid = true → e.arrived = true → e.gid = gid → podStands s.pkg s.time e = true →
    eventTo (.switchBarrierCounter gid asid gtag lead) s (podRelease { s.pkg with pod := s.pkg.pod.erase e } s.time e))

/-- R17, R114, R228, R229: SMRG queues a command on three lists of one type, or raises LAYOUT_BOUNDS; it is performed in its turn, when no merge
is pending on the mangle, and waits for one that is. Element j of Ld takes the j-th value of what the lists give, up to the length of Ld, every
other byte of scratchpad stands, and %SMRES of the slot has COUNT and TRUNC. MRG gives both lists merged, UNION those of either, ISECT those of
both, by the rule's own steps; of rising lists the result rises, and of other ones ISECT gives values of both in the order of the first.
The model's choices that it rests on: log 12, 39. -/
def Obligations.SortedLists : Prop :=
  (∀ (s : State) (f : Fields) (d a b : Bits512), runs (.smrg f) .lane0 s = true →
    (listEntry s.part (opdLay f.d) = .ok d → listEntry s.part (opdLay f.a) = .ok a → listEntry s.part (opdLay (bDesc f.b)) = .ok b →
    ((layType d ≠ layType a ∨ layType d ≠ layType b) →
      exec (.smrg f) s = .next (trapState s f { bareTrap causeBounds (cxOf s) with sub := 4 })) ∧
    (∀ e1 e2 e3 : List El, layType d = layType a → layType d = layType b → listEls d (opdLay f.d) true = .ok e1 →
      listEls a (opdLay f.a) false = .ok e2 → listEls b (opdLay (bDesc f.b)) false = .ok e3 →
      exec (.smrg f) s = .next (
        if spansMeet (listRange a e2 ++ listRange b e3) (listRange d e1) = true then trapState s f (bareTrap causeBounds (cxOf s))
        else advance s f (smrgQueued s (smrgCmdOf s f d a b))))) ∧
    (∀ t : Trap, listEntry s.part (opdLay f.d) = .error t → exec (.smrg f) s = .next (trapState s f t)) ∧
    (listOperand s (opdLay f.d) d → listOperand s (opdLay f.a) a → listOperand s (opdLay (bDesc f.b)) b →
      layType d = layType a → layType d = layType b → spansMeet (listBytes a ++ listBytes b) (listBytes d) = false →
      exec (.smrg f) s = .next (advance s f (smrgQueued s (smrgCmdOf s f d a b))))) ∧
  (∀ (s : State) (c : Nat) (x : SmrgCmd) (rest : List SmrgCmd), (partOf s.pkg c).smrgq = x :: rest →
    (x.waiting = true → eventTo (.smrgComplete c) s s.pkg) ∧
    (x.waiting = false → engineMay (partOf s.pkg c) x.board = true → (coreOf s.pkg c).switching = false →
      (manglePending s.pkg c = true → eventTo (.smrgComplete c) s (setPart s.pkg c
        { partOf s.pkg c with smrgq := { x with waiting := true } :: rest })) ∧
      (manglePending s.pkg c = false → (partOf s.pkg c).badWords = [] → eventTo (.smrgComplete c) s
        { setPart s.pkg c (runSmrg { partOf s.pkg c with smrgq := rest } s.time s.pkg.freeNo x) with freeNo := s.pkg.freeNo + 1 }))) ∧
  (∀ (s : State) (c : Nat), eventTo (.smrgResume c) s (if manglePending s.pkg c = true then s.pkg
    else updPart s.pkg c (fun k => { k with smrgq := k.smrgq.map (fun x => { x with waiting := false }) }))) ∧
  (∀ (k : Part) (now free : Nat) (x : SmrgCmd) (els : List El), listEls x.d 0 true = .ok els → elementsApart x.d els →
    mapSorted 0 k.scr = true → ∃ k1 : Part,
    let out := smrgOut x.mode free (listVals k x.a) (listVals k x.b)
    let n := min (listLen x.d) out.length
    runSmrg k now free x = setSmres k1 x.slot x.ctx (BitVec.ofNat 64 (n + (if listLen x.d < out.length then 2 ^ 32 else 0))) ∧
    (∀ j a : Nat, j < n → elementAt x.d els j a →
      scrNat k1 a (tySize (layType x.d)) = wrapInt (8 * tySize (layType x.d)) (out.getD j 0)) ∧
    (∀ b : Nat, (∀ j a : Nat, j < n → elementAt x.d els j a → ¬ (a ≤ b ∧ b < a + tySize (layType x.d))) → scrByte k1 b = scrByte k b) ∧
    k1.smrgq = k.smrgq ∧ k1.vregs = k.vregs ∧ k1.acc = k.acc) ∧
  (∀ (k : Part) (slot ctx : Nat) (v : Word), (setSmres k slot ctx v).scr = k.scr ∧
    ((slotOf k (slotNow k slot ctx)).live = true → (slotOf k (slotNow k slot ctx)).ctx = ctx →
      slotOf (setSmres k slot ctx v) (slotNow k slot ctx) = { slotOf k (slotNow k slot ctx) with smres := v })) ∧
  (∀ (k : Part) (e : Bits512) (els : List El), listEls e 0 false = .ok els → (listVals k e).length = listLen e ∧
    ∀ j a : Nat, elementAt e els j a → (listVals k e)[j]? = some (listValue e (scrNat k a (tySize (layType e))))) ∧
  (∀ (free : Nat) (xs ys : List Int), smrgOut 0 free xs ys = mergeLists xs ys ∧ smrgOut 2 free xs ys = uniteLists xs ys ∧
    (rises xs = true → rises ys = true → smrgOut 1 free xs ys = meetLists xs ys) ∧
    (smrgOut 1 free xs ys).Sublist xs ∧ ∀ v ∈ smrgOut 1 free xs ys, v ∈ ys) ∧
  (∀ (x y : Int) (xs ys : List Int),
    mergeLists xs [] = xs ∧ mergeLists [] ys = ys ∧ uniteLists xs [] = xs ∧ uniteLists [] ys = ys ∧ meetLists xs [] = [] ∧ meetLists [] ys = [] ∧
    mergeLists (x :: xs) (y :: ys) = (if x ≤ y then x :: mergeLists xs (y :: ys) else y :: mergeLists (x :: xs) ys) ∧
    uniteLists (x :: xs) (y :: ys) = (if x < y then x :: uniteLists xs (y :: ys) else if y < x then y :: uniteLists (x :: xs) ys
      else x :: uniteLists xs ys) ∧
    meetLists (x :: xs) (y :: ys) = (if x < y then meetLists xs (y :: ys) else if y < x then meetLists (x :: xs) ys
      else x :: meetLists xs ys)) ∧
  (∀ xs ys : List Int, (mergeLists xs ys).Perm (xs ++ ys)) ∧
  (∀ xs ys : List Int, rises xs = true → rises ys = true → rises (mergeLists xs ys) = true ∧
    (∀ x : Int, x ∈ uniteLists xs ys ↔ x ∈ xs ∨ x ∈ ys) ∧ (∀ x : Int, x ∈ meetLists xs ys ↔ x ∈ xs ∧ x ∈ ys) ∧
    rises (uniteLists xs ys) = true ∧ rises (meetLists xs ys) = true)

/-- R230, R231: QDEF makes a ring of the slot's own or attaches to one of another slot; QPUB and QADV move its pointers modulo its size,
within what is free or filled; QCNT reads the number of filled slots.
The model's choices that it rests on: log 37. -/
def Obligations.RingInstructions : Prop :=
  (∀ (s : State) (f : Fields), runs (.qdef f) .lane0 s = true →
    let size := fld (s.bVal f) 0 6
    let owner := fld (s.bVal f) 6 4
    let q := ringNo f.d
    let base := vecNo f.a
    (¬ (size ∈ [1, 2, 4, 8, 16, 32] ∧ base + size ≤ regCount s.part.mode) →
      exec (.qdef f) s = .next (trapState s f (bareTrap causeOperand (cxOf s)))) ∧
    (size ∈ [1, 2, 4, 8, 16, 32] → base + size ≤ regCount s.part.mode →
      (bit (s.bVal f) 10 = false → exec (.qdef f) s = .next (advance s f (ringWritten s q (.own base size 0 0 0)))) ∧
      (∀ c p n : Nat, bit (s.bVal f) 10 = true → owner ≠ s.slot →
        mapFind (slotOf s.part owner).rings q = some (.own base size c p n) →
        exec (.qdef f) s = .next (advance s f (ringWritten s q (.att owner (slotOf s.part owner).ctx)))))) ∧
  (∀ (s : State) (f : Fields) (base size c p n : Nat), ownRing s (ringNo f.d) base size c p n →
    (runs (.qpub f) .lane0 s = true →
      (size - n < (s.bVal f).toNat → exec (.qpub f) s = .next (trapState s f (bareTrap causeOperand (cxOf s)))) ∧
      ((s.bVal f).toNat ≤ size - n → exec (.qpub f) s = .next (advance s f (ringWritten s (ringNo f.d)
        (.own base size c ((p + (s.bVal f).toNat) % size) (n + (s.bVal f).toNat)))))) ∧
    (runs (.qadv f) .lane0 s = true →
      (n < (s.bVal f).toNat → exec (.qadv f) s = .next (trapState s f (bareTrap causeOperand (cxOf s)))) ∧
      ((s.bVal f).toNat ≤ n → exec (.qadv f) s = .next (advance s f (ringWritten s (ringNo f.d)
        (.own base size ((c + (s.bVal f).toNat) % size) p (n - (s.bVal f).toNat))))))) ∧
  (∀ (s : State) (f : Fields) (v : RingView), runs (.qcnt f) .lane0 s = true → ringView s.part s.slot (ringNo f.a) = some v →
    exec (.qcnt f) s = .next (advance s f (writeD s f (BitVec.ofNat 64 v.f)))) ∧
  (∀ (s : State) (q base size c p n : Nat), ownRing s q base size c p n →
    ringView s.part s.slot q = some ⟨s.slot, base, size, c, p, n⟩)

/-- R233 to R237, R365: LNTURN queues a command or sets REFUSED, LNSTAT reads a link; a command runs once no bundle is in dead time and
turns eligible bundles toward its target, between 2 and 14; the demand split turns one; recalibration takes a bundle out of service
while two others carry its direction, and a turn leaves two carrying the direction that it takes from.
The model's choices that it rests on: log 50. -/
def Obligations.AnoleLinks : Prop :=
  (∀ (s : State) (f : Fields), runs (.lnturn f) .lane0 s = true →
    let n := fld (s.aVal f) 0 2
    let l := s.site.links.getD n linkReset
    let allowed := supOf s.part = true ∨ s.pkg.regs.lnuser / 2 ^ n % 2 = 1
    (allowed → l.queue.length < 8 → exec (.lnturn f) s = .next (withLink (advance s f s.pkg) n
      { l with queue := l.queue ++ [⟨fld (s.bVal f) 0 5, bit (s.bVal f) 5⟩] })) ∧
    (allowed → 8 ≤ l.queue.length → exec (.lnturn f) s = .next s) ∧
    (¬ allowed → exec (.lnturn f) s = .next (withLink (advance s f s.pkg) n { l with refused := true }))) ∧
  doneAs .lnstat .lane0 (fun _ _ => True) (fun s f =>
    let l := s.site.links.getD (fld (s.aVal f) 0 2) linkReset
    let b := fun (x : Bool) (n : Nat) => if x then 2 ^ n else 0
    writeD s f (BitVec.ofNat 64 (linkFwd l % 16 + l.target % 32 * 2 ^ 4 + l.queue.length % 16 * 2 ^ 12 +
      b (linkBusy l s.time) 16 + b l.demand 17 + b l.refused 18 + l.short % 32 * 2 ^ 20 + l.turns.toNat * 2 ^ 32))) ∧
  (∀ (s : State) (n : Nat) (l : Link) (x : LinkCmd) (rest : List LinkCmd), s.site.links[n]? = some l → l.queue = x :: rest →
    (linkBusy l s.time = true → linkTo (.turnCommandRun n) s n l) ∧
    (linkBusy l s.time = false → x.auto = true → linkTo (.turnCommandRun n) s n { l with queue := rest, demand := true, refused := false }) ∧
    (linkBusy l s.time = false → x.auto = false → ∃ m : Link, linkTo (.turnCommandRun n) s n m ∧ m.queue = rest ∧
      m.demand = false ∧ m.refused = false ∧ m.target = x.t ∧ m.bundles.length = l.bundles.length ∧
      (∀ (i : Nat) (b c : Bundle), l.bundles[i]? = some b → m.bundles[i]? = some c → turnedOr s.time b c) ∧
      m.short = min (((x.t : Int) - linkFwd m).natAbs) 31 ∧
      (l.bundles.length = 16 → (∀ b ∈ l.bundles, eligible s.time b = true) → linkFwd m = min (max x.t 2) 14))) ∧
  (∀ (s : State) (n fb rb : Nat) (l : Link), s.site.links[n]? = some l → l.demand = true → l.checked + 4000 ≤ s.time →
    linkBusy l s.time = false →
    (fb ≤ 2 * rb → rb ≤ 2 * fb → linkTo (.demandSplitCheck n fb rb) s n { l with checked := s.time }) ∧
    (2 * rb < fb → linkTo (.demandSplitCheck n fb rb) s n (turnToward s.time (min (max (linkFwd l + 1) 2) 14) { l with checked := s.time })) ∧
    (2 * fb < rb → linkTo (.demandSplitCheck n fb rb) s n (turnToward s.time (min (max (linkFwd l - 1) 2) 14) { l with checked := s.time }))) ∧
  (∀ (s : State) (n i t : Nat) (l : Link) (b : Bundle), s.site.links[n]? = some l → l.bundles[i]? = some b →
    (b.dead = some t → t ≤ s.time → linkTo (.bundleDeadTimeEnd n i) s n { l with bundles := l.bundles.set i { b with dead := none } }) ∧
    (2 ≤ sharers s.time l i → b.recal = none →
      linkTo (.bundleRecalibration n i) s n { l with bundles := l.bundles.set i { b with recal := some s.time } }) ∧
    (sharers s.time l i < 2 → linkTo (.bundleRecalibration n i) s n l) ∧
    (b.recal = some t → t + 30000 ≤ s.time →
      linkTo (.bundleRecalibrationEnd n i) s n { l with bundles := l.bundles.set i { b with recal := none } }))

/-- R251, R266 to R269, R272, R273: START loads a helper or waits for its slot; SPAWN enqueues a record behind a release push, or finds
its queue full; JOIN counts down in its turn among the regions of its line, and enqueues at the last decrement; TEXIT retires its context,
wherever it stands in the text, once its journal entries and its loads are done; TEAMK ends teams, the issuing one last, and waits for the strong
operations that they had issued; REPART changes the mode of a quiescent core.
The model's choices that it rests on: log 34, 38, 62, 58 (of waits with one deadline, which is moved). -/
def Obligations.TaskInstructions : Prop :=
  (∀ (s : State) (f : Fields) (t : Nat), runs (.start f) .lane0 s = true → startTarget s.pkg (cxOf s) f = some t →
    let e : Int := match f.b with
      | .desc o => (opdScalar s.cur o).toNat
      | _ => relTarget s f
    (¬ (0 ≤ e ∧ e % 12 = 0 ∧ e < textSizeOf s.pkg s.core) → exec (.start f) s = .next (trapState s f (alignTrap e))) ∧
    (0 ≤ e → e % 12 = 0 → e < textSizeOf s.pkg s.core → slotIdle (coreOf s.pkg s.core) t = true →
      exec (.start f) s = .next (advance s f (fixAsk (updPart s.pkg s.core (fun k =>
        loadContext k t (startedSlot s.cur t e.toNat s.time))) s.core)))) ∧
  waitRow .start .lane0 (fun s f kind => ∃ t : Nat, startTarget s.pkg (cxOf s) f = some t ∧
    targetOk (textSizeOf s.pkg s.core) (startEntry s.pkg (cxOf s) f) = true ∧
    slotIdle (coreOf s.pkg s.core) t = false ∧ kind = .startSlot t) ∧
  trapsAs .start .lane0 (fun s f t => startTarget s.pkg (cxOf s) f = none ∧ t = bareTrap causeIllegal (cxOf s)) ∧
  (∀ (x : Slot) (t pc now : Nat), (startedSlot x t pc now).kind = .started ∧ (startedSlot x t pc now).pc = pc ∧
    (0 < t → t < 16 → sregOf (startedSlot x t pc now) 0 = BitVec.ofNat 64 t) ∧
    (∀ r : Nat, 1 ≤ r → r ≤ 30 → sregOf (startedSlot x t pc now) r = sregOf x r) ∧
    (startedSlot x t pc now).preds = [] ∧ (startedSlot x t pc now).rings = [] ∧ (startedSlot x t pc now).loops = [] ∧
    (startedSlot x t pc now).fpmode = x.fpmode ∧ (startedSlot x t pc now).waitlim = x.waitlim ∧
    (startedSlot x t pc now).fpflags = 0) ∧
  (∀ (s : State) (f : Fields) (off : Nat) (r : BitVec 256), runs (.spawn f) .lane0 s = true → off = fld (s.bVal f) 0 17 →
    (off % 32 ≠ 0 → exec (.spawn f) s = .next (trapState s f (alignTrap off))) ∧
    (∀ p : Pkg, spawnable s off r → releaseAt s.pkg (cxOf s) (recScope s.core r) false = (p, true) →
      (queueFull p (recCluster s.core r) (recPrio r) = true →
        exec (.spawn f) s = .next (advance s f (writeResult p (cxOf s) f false))) ∧
      (queueFull p (recCluster s.core r) (recPrio r) = false → exec (.spawn f) s = .next (advance s f
        (writeResult (enqueue p s.time (recCluster s.core r) (taskCopy r (asidOf s.part))) (cxOf s) f true)))) ∧
    (∀ p : Pkg, spawnable s off r → releaseAt s.pkg (cxOf s) (recScope s.core r) false = (p, false) →
      exec (.spawn f) s = .next (pushState s f p (.push (recScope s.core r) true [])))) ∧
  (∀ (s : State) (f : Fields) (x : Xlat) (p : Pkg), runs (.join f) .lane0 s = true → joinReaches s f x p →
    let lvl := scopeLevel (joinScope s f)
    let key := storeKey x (joinAddr s f)
    let since := cameAt p (cxOf s) (joinScope s f)
    let me := joinShipped s since lvl key
    let r := (combineFrom p s.time s.core lvl key).1
    let stands := exec (.join f) s = .next (heldState s f (setHold (setCap p (cxOf s) 0 [x]) (cxOf s) (joinHold f since lvl key)))
    (s.turn.later = false → joinRow s f p since lvl key) ∧ (s.turn.later = true → stands) ∧
    (s.turn.later = false → (regionAhead p me = true ∨ readWaits p s.time s.core lvl key = true) → stands) ∧
    (s.turn.later = false → regionAhead p me = false → readWaits p s.time s.core lvl key = false →
      combineBad p s.time s.core lvl key = false → fld r 32 32 = 1 → queueFull p (recCluster s.core r) (recPrio r) = true → f.d = .none →
      let w : Wait := { kind := .room (recCluster s.core r) (recPrio r), met := false, value := 0,
                        deadline := s.time + (slotOf (partOf p s.core) s.slot).waitlim.toNat }
      exec (.join f) s = .next (if (slotOf (partOf p s.core) s.slot).waitlim = 0 then trapState s f (waitTrap (cxOf s) w)
        else heldState s f (limitMonitors (setHold (setCap p (cxOf s) 0 [x]) (cxOf s) (.wait w)) s.time s.core)))) ∧
  (∀ (s : State) (f : Fields) (since lvl key : Nat) (d : Bool) (w : Option Wait) (e : Bits512) (x : Xlat) (xs : List Xlat),
    goesOn (.join f) .lane0 s → s.cur.hold = .joins since lvl key d w → s.cur.cap = some (e, x :: xs) → x.ovl = none →
    joinAddr s f % 32 = 0 → fld (s.bVal f) 61 3 < 6 → joinRow s f s.pkg since lvl key) ∧
  trapsAs .join .lane0 (fun s f t => fld (s.bVal f) 0 57 % 32 ≠ 0 ∧ t = alignTrap (fld (s.bVal f) 0 57)) ∧
  trapsAnywhere .texit .lane0 (fun s _ t => s.cur.kind = .errand ∧ t = bareTrap causeIllegal (cxOf s)) ∧
  (∀ (s : State) (f : Fields), going (.texit f) .lane0 s = true → s.cur.kind ≠ .errand →
    (¬ owes s → exec (.texit f) s = .next (s.with (retireSlot (markIssued s.pkg (cxOf s) f) s.time s.core s.slot))) ∧
    (owes s → exec (.texit f) s = .next s)) ∧
  (∀ (s : State) (f : Fields), runs (.teamk f) .lane0 s = true →
    let cs := teamkCores s.pkg (fld (s.aVal f) 0 9) (fld (s.aVal f) 10 12) (bit (s.aVal f) 9)
    let q := if s.core ∈ cs then endTeam (othersEnded s f cs) s.time s.core 2 (some s.slot) else othersEnded s f cs
    let r := if bit (s.aVal f) 9 then latchRoom (purgeQueues q (fld (s.aVal f) 0 9)) s.time else q
    (¬ strongLeft r cs → (s.core ∈ cs → exec (.teamk f) s = .next (s.with (freeSlot r s.time s.core s.slot))) ∧
      (s.core ∉ cs → exec (.teamk f) s = .next (advance s f r))) ∧
    (strongLeft r cs → (s.core ∈ cs → exec (.teamk f) s = .next (s.with (setHold r (cxOf s) (.kill cs true)))) ∧
      (s.core ∉ cs → exec (.teamk f) s = .next (heldState s f (setHold r (cxOf s) (.kill cs false)))))) ∧
  (∀ (s : State) (f : Fields) (cs : List Nat) (own : Bool), goesOn (.teamk f) .lane0 s → s.cur.hold = .kill cs own →
    (strongLeft s.pkg cs → exec (.teamk f) s = .next (s.with (setHold s.pkg (cxOf s) (.kill cs own)))) ∧
    (¬ strongLeft s.pkg cs → exec (.teamk f) s = .next (
      if own then s.with (freeSlot s.pkg s.time s.core s.slot) else advance s f s.pkg))) ∧
  trapsAs .repart .lane0 (fun s f t => (fld (s.bVal f) 0 2 = 3 ∨ s.slot ≠ 0) ∧ t = bareTrap causeIllegal (cxOf s)) ∧
  doneAs .repart .lane0 (fun s f => fld (s.bVal f) 0 2 ≠ 3 ∧ s.slot = 0 ∧ quiescent s.part = true) repartDone ∧
  waitRow .repart .lane0 (fun s f kind => fld (s.bVal f) 0 2 ≠ 3 ∧ s.slot = 0 ∧ quiescent s.part = false ∧ kind = .quiet) ∧
  (∀ (k : Part) (m r : Nat), r < min (regCount k.mode) (regCount m) →
    (changeMode k m).mode = m ∧ mapGet 0 (changeMode k m).vregs r = mapGet 0 k.vregs r)

/-- R257, R258: a core asks for work for its lowest idle helper slot; the distributor gives the oldest task record of the highest
priority; the record starts as a task; a record that may age rises after 64,000 ticks. R250, R43: a team ends when nothing of it is
left: its core has no team, the group counts it as ended, and the completion word says 1; a handler that runs goes on to its AMRET.
The model's choices that it rests on: log 34, 38. The core makes its next ask when it has bound a record. -/
def Obligations.TaskEvents : Prop :=
  (∀ (s : State) (c : Nat),
    ((coreOf s.pkg c).ask = none → (coreOf s.pkg c).sel = none → acting s c →
      eventTo (.taskAsk c) s (updCore s.pkg c (fun x => { x with ask := lowestIdle x })))) ∧
  (∀ (s : State) (c slot prio i : Nat) (r : QRec), nextAsk s.pkg (clusterNo c) = some c →
    askServed s.pkg c = some (slot, prio, i, r) →
    let p1 := setQueue s.pkg (clusterNo c) prio ((queueOf s.pkg (clusterNo c) prio).eraseIdx i)
    let p2 := updCore p1 c (fun x => { x with ask := none, sel := some ⟨r.task, slot, prio, r.since⟩ })
    eventTo (.taskSelect c) s (latchRoom (setCluster p2 (clusterNo c)
      { clusterOf p2 (clusterNo c) with rot := (c % 256 + 1) % 256 }) s.time)) ∧
  (∀ (s : State) (c : Nat), nextAsk s.pkg (clusterNo c) ≠ some c → eventTo (.taskSelect c) s s.pkg) ∧
  (∀ (p : Pkg) (cl asid prio i : Nat) (r : QRec), bestRecord p cl asid = some (prio, i, r) →
    (queueOf p cl prio)[i]? = some r ∧ recAsid r.task = asid ∧ recLaunch r.task = false ∧
    (∀ (j : Nat) (x : QRec), j < i → (queueOf p cl prio)[j]? = some x → recAsid x.task = asid → recLaunch x.task = true) ∧
    (∀ (m : Nat), prio < m → m < 8 → ∀ x ∈ queueOf p cl m, recAsid x.task = asid → recLaunch x.task = true)) ∧
  (∀ (s : State) (c : Nat) (r : Selected) (t : Team), (coreOf s.pkg c).sel = some r → (coreOf s.pkg c).part.team = some t →
    (coreOf s.pkg c).fenced = none → eventTo (.taskBind c) s (taskAsk (updCore s.pkg c (fun x =>
      { x with sel := none, part := loadContext x.part r.slot (taskSlot t r.prio r.task s.time) })) c)) ∧
  (∀ (p : Pkg) (c : Nat), (coreOf p c).ask = none → (coreOf p c).sel = none → acting { State.reset with pkg := p } c →
    taskAsk p c = updCore p c (fun x => { x with ask := lowestIdle x })) ∧
  (∀ (t : Team) (prio now : Nat) (r : BitVec 256), (taskSlot t prio r now).pc = fld r 64 32 ∧
    (∀ n : Nat, n ≠ 1 → n ≠ 2 → sregOf (taskSlot t prio r now) n = 0) ∧
    sregOf (taskSlot t prio r now) 1 = BitVec.ofNat 64 (fld r 128 64) ∧
    sregOf (taskSlot t prio r now) 2 = BitVec.ofNat 64 (fld r 192 64) ∧
    (taskSlot t prio r now).waitlim = t.waitlim ∧ (taskSlot t prio r now).fpmode = 0 ∧ (taskSlot t prio r now).kind = .helper) ∧
  (∀ (s : State) (cl prio i : Nat) (r : QRec), (queueOf s.pkg cl prio)[i]? = some r →
    ((bit r.task 5 = false ∨ s.time < r.since + 64000) → eventTo (.taskAgeing cl prio i) s s.pkg) ∧
    (bit r.task 5 = true → r.since + 64000 ≤ s.time → (7 ≤ prio ∨ queueFull s.pkg cl (prio + 1) = true) →
      eventTo (.taskAgeing cl prio i) s (setQueue s.pkg cl prio ((queueOf s.pkg cl prio).set i { r with since := s.time }))) ∧
    (bit r.task 5 = true → r.since + 64000 ≤ s.time → prio < 7 → queueFull s.pkg cl (prio + 1) = false →
      eventTo (.taskAgeing cl prio i) s (latchRoom (setQueue (setQueue s.pkg cl prio ((queueOf s.pkg cl prio).eraseIdx i))
        cl (prio + 1) (queueOf s.pkg cl (prio + 1) ++ [{ r with since := s.time }])) s.time))) ∧
  (∀ (s : State) (c : Nat) (t : Team), (partOf s.pkg c).team = some t →
    ((t.started = false ∨ teamDone s.pkg c = false ∨ ¬ acting s c) → eventTo (.teamEnd c) s s.pkg) ∧
    (t.started = true → teamDone s.pkg c = true → acting s c →
      let p1 := reportPending (refuseWaiting s.pkg c) s.time c
      let p2 := updCore p1 c (fun x => { x with prevAsid := some t.asid, ask := none, part := { x.part with
        team := none, past := (if runningHandlers x.part = [] then none else some t), errands := [],
        journal := x.part.journal.filter (fun e => !(decide (e.2.team = t.no % 256) && decide (e.2.asid = t.asid) &&
          !(runningHandlers x.part).any (fun h => decide (h.2.ctx = e.2.ctx)))) } })
      let p3 : Pkg := { p2 with groups := p2.groups.map (fun g =>
        if g.asid = t.asid ∧ g.gtag = t.gtag ∧ t.gtag ≠ 0 then { g with ended := g.ended ++ [c] } else g) }
      eventTo (.teamEnd c) s (completionWord (reportFaults ((groupMembers p3 c t).foldl (fun q m => barrierCheckAll q s.time m) p3)
        s.time c t) s.time c t.asid t.done t.dvec t.den t.sup 1)) ∧
    (teamDone s.pkg c = true ↔ (∀ e ∈ (partOf s.pkg c).slots, e.2.live = true → e.2.kind = .errand) ∧ (partOf s.pkg c).moved = [] ∧
      (coreOf s.pkg c).sel = none ∧ (∀ prio < 8, ∀ r ∈ queueOf s.pkg (clusterNo c) prio,
        recLaunch r.task = true ∨ recAsid r.task ≠ asidOf (partOf s.pkg c))))

/-- R260, R261, R270, R271: WAIT and SLEEP go on where their condition holds at issue, and else wait to their deadline; WAKE sends a
wake request, which ends a SLEEP or leaves its token.
The model's choices that it rests on: log 63 (the loaded context), 58 (of waits with one deadline, which is moved). -/
def Obligations.WaitInstructions : Prop :=
  trapsAs .wait .lane0 (fun s f t => fld (s.aVal f) 0 17 % 8 ≠ 0 ∧ t = alignTrap (fld (s.aVal f) 0 17)) ∧
  doneAs .wait .lane0 (fun s f => fld (s.aVal f) 0 17 % 8 = 0 ∧ s.part.badWords = [] ∧
    scrClear s.part [(fld (s.aVal f) 0 17, fld (s.aVal f) 0 17 + 8)] [] = true ∧
    cmpCnd (fld f.md 1 3) (asInt 64 (scrNat s.part (fld (s.aVal f) 0 17) 8)) (s.bVal f).toInt = true) (fun s _ => s.pkg) ∧
  waitRow .wait .lane0 (fun s f kind => fld (s.aVal f) 0 17 % 8 = 0 ∧ s.part.badWords = [] ∧
    scrClear s.part [(fld (s.aVal f) 0 17, fld (s.aVal f) 0 17 + 8)] [] = true ∧
    cmpCnd (fld f.md 1 3) (asInt 64 (scrNat s.part (fld (s.aVal f) 0 17) 8)) (s.bVal f).toInt = false ∧
    kind = .word (fld (s.aVal f) 0 17) (fld f.md 1 3) (s.bVal f)) ∧
  doneAs .sleep .lane0 (fun s _ => s.cur.token = true) (fun s _ => changeCur s (fun x => { x with token := false })) ∧
  doneAs .sleep .lane0 (fun s f => s.cur.token = false ∧ fld (s.bVal f) 0 48 = 0) (fun s _ => s.pkg) ∧
  waitRow .sleep .lane0 (fun s f kind => s.cur.token = false ∧ fld (s.bVal f) 0 48 ≠ 0 ∧
    kind = .sleep (s.time + fld (s.bVal f) 0 48)) ∧
  (∀ (s : State) (f : Fields) (n : Nat), runs (.wake f) .lane0 s = true → jFree s.part = some n → ∃ e : JEntry,
    entryOfMsg s e 6 (homeAddr s.pkg.regs.pkgnum (fld (s.aVal f) 0 12) 0) (fld (s.aVal f) 0 12) s.pkg.regs.pkgnum
      (.wake (fld (s.aVal f) 12 4) s.part.nextUid) ∧
    exec (.wake f) s = .next (advance s f (send (journalled s n e) s.core (fld (s.aVal f) 0 12) (asidOf s.part)
      (.wake (fld (s.aVal f) 12 4) s.part.nextUid)))) ∧
  waitsAs .wake .lane0 (fun s _ => jFree s.part = none) ∧
  (∀ (s : State) (src dst n uid : Nat) (m : Msg) (q : Pkg), arrives s src dst m q → m.body = .wake n uid →
    let r := receive q s.time dst s.pkg.regs.pkgnum m.src m.body
    ((coreOf s.pkg dst).fenced.isSome = true →
      eventTo (.wakeRequest src dst) s (refuse q dst s.pkg.regs.pkgnum m.src m.asid 0x31 m.body)) ∧
    ((coreOf s.pkg dst).fenced = none → ¬ nothingBefore s dst m → eventTo (.wakeRequest src dst) s s.pkg) ∧
    ((coreOf s.pkg dst).fenced = none → nothingBefore s dst m → (partOf r dst).team.isSome = true → asidOf (partOf r dst) = m.asid →
      (slotOf (partOf r dst) n).live = true → eventTo (.wakeRequest src dst) s
        (sendPkg (setPart r dst (updSlot (partOf r dst) n (wakeSlot s.time))) dst s.pkg.regs.pkgnum m.src m.asid (.ack uid))) ∧
    ((coreOf s.pkg dst).fenced = none → nothingBefore s dst m → asidOf (partOf r dst) ≠ m.asid → eventTo (.wakeRequest src dst) s
      (refuse r dst s.pkg.regs.pkgnum m.src m.asid 0x21 m.body))) ∧
  (∀ (now : Nat) (x : Slot), (∀ w : Wait, x.hold ≠ .wait w) → wakeSlot now x = { x with token := true })

/-- R261 to R263, R271: the ends of waits: at the deadline WAIT_TIMEOUT, exact, at the waiting instruction; a SLEEP by its own time; a
moved context is evaluated, all of them when a monitor of the core is released and once 500 ticks have passed, and once its wait has
ended it is loaded into an idle slot, unless its key has been destroyed; the context longest loaded may make room for it after 2,000
ticks.
The model's choices that it rests on: log 47, 52, 58, 68. -/
def Obligations.WaitEvents : Prop :=
  (∀ (s : State) (c n : Nat) (w : Wait), openWaitOf s c n w → acting s c →
    (s.time < w.deadline → eventTo (.waitDeadlineExpiry c n) s s.pkg) ∧
    (w.deadline ≤ s.time → holdsAtDeadline (partOf s.pkg c) w = false → eventTo (.waitDeadlineExpiry c n) s
      (takeTrap s.pkg s.time c n (waitTrap { cxOf s with core := c, slot := n } w))) ∧
    (w.deadline ≤ s.time → holdsAtDeadline (partOf s.pkg c) w = true →
      eventTo (.waitDeadlineExpiry c n) s (seenBy s c n w))) ∧
  (∀ (s : State) (c n u : Nat) (w : Wait), openWaitOf s c n w → w.kind = .sleep u → acting s c →
    (u ≤ s.time → u ≤ w.deadline → eventTo (.sleepTimeElapsed c n) s (seenBy s c n w)) ∧
    (s.time < u → eventTo (.sleepTimeElapsed c n) s s.pkg)) ∧
  (∀ (s : State) (c i : Nat) (m : Moved), (partOf s.pkg c).moved[i]? = some m → acting s c →
    eventTo (.movedWaitEvaluation c i) s (evalContext s.pkg s.time c m.sl.ctx)) ∧
  (∀ (p : Pkg) (now c : Nat), coreActs p c = true →
    ((∃ m ∈ (partOf p c).monitors, m ∉ monitorList (partOf p c)) → evalReleased p now c = updCore (evalAll p now c) c countMonitors) ∧
    ((∀ m ∈ (partOf p c).monitors, m ∈ monitorList (partOf p c)) → evalReleased p now c = p) ∧
    (∀ t : Nat, evalBy (partOf p c) = some t →
      (∀ m ∈ (partOf p c).moved, m.ready = none → t ≤ m.seen + 500) ∧
      (t ≤ now → evalDue p now c = evalAll (evalAll p t c) now c) ∧ (now < t → evalDue p now c = p))) ∧
  (∀ (p : Pkg) (k : Part) (now : Nat) (x : Slot) (w : Wait), x.hold = .wait w → w.met = false →
    (w.deadline < now → (evalMoved p k now x).2 = true) ∧
    (now < w.deadline → (∀ u, w.kind ≠ .sleep u) → waitHolds k w.kind = false → roomHolds p w.kind = false →
      evalMoved p k now x = (x, false)) ∧
    (now ≤ w.deadline → waitHolds k w.kind = true → (∀ u, w.kind ≠ .sleep u) →
      evalMoved p k now x = ({ x with hold := .wait { w with met := true } }, true))) ∧
  (∀ (s : State) (c i : Nat) (m : Moved), (partOf s.pkg c).moved[i]? = some m → acting s c →
    (m.ready = none → eventTo (.contextReload c i) s s.pkg) ∧
    (m.gen ≠ mapGet 0 s.pkg.keyGen m.asid → eventTo (.contextReload c i) s s.pkg) ∧
    (∀ t n : Nat, m.gen = mapGet 0 s.pkg.keyGen m.asid → m.ready = some t → reloadSlot (coreOf s.pkg c) m = some n → eventTo (.contextReload c i) s
      (fixAsk (updPart s.pkg c (fun k => reload k s.time n m)) c)) ∧
    (∀ n : Nat, (reload (partOf s.pkg c) s.time n m).moved = (partOf s.pkg c).moved.filter (fun x => decide (x.sl.ctx ≠ m.sl.ctx)) ∧
      (reload (partOf s.pkg c) s.time n m).scr = (partOf s.pkg c).scr)) ∧
  (∀ (s : State) (c : Nat), acting s c →
    ((∀ m ∈ (partOf s.pkg c).moved, ∀ t, m.ready = some t → s.time < t + 2000) →
      eventTo (.reloadStarvationMove c) s s.pkg) ∧
    (∀ (m : Moved) (t n : Nat), m ∈ (partOf s.pkg c).moved → m.ready = some t → t + 2000 ≤ s.time →
      reloadSlot (coreOf s.pkg c) m = none → longestLoaded (partOf s.pkg c) = some n →
      let k1 := moveOut (partOf s.pkg c) s.time n (mapGet 0 s.pkg.keyGen (asidOf (partOf s.pkg c)))
      eventTo (.reloadStarvationMove c) s (fixAsk (setPart (dropWalks s.pkg c n) c { k1 with moved := k1.moved.map (fun x =>
        if x.sl.ctx = (slotOf (partOf s.pkg c) n).ctx then { x with ready := some s.time } else x) }) c)))

/-- R50, R51, R85, R315, R316: TRAP and BKPT raise SOFTWARE and BREAKPOINT with sext(imm), wherever they stand in the text; under debug hold BKPT stops the slot; ERET goes to
%TPC and leaves handler mode; an encoding that is no instruction raises its trap.
The model's choices that it rests on: log 16, 44. -/
def Obligations.TrapInstructions : Prop :=
  trapsAnywhere .trap .lane0 (fun s f t => t = { cause := 0x0A, sub := 0, jv := false, jent := 0, tval := s.bVal f, tinfo := 0, body := none }) ∧
  trapsAnywhere .bkpt .lane0 (fun s f t => (coreOf s.pkg s.core).dbgHold = false ∧
    t = { cause := 0x09, sub := 0, jv := false, jent := 0, tval := s.bVal f, tinfo := 0, body := none }) ∧
  (∀ (s : State) (f : Fields), going (.bkpt f) .lane0 s = true → (coreOf s.pkg s.core).dbgHold = true → ∃ q : Pkg,
    q.cores = (changeCur s (fun x => { x with hold := .stopped })).cores ∧ q.insts = s.pkg.insts ∧ q.dram = s.pkg.dram ∧
    q.portOut.length = s.pkg.portOut.length + 1 ∧ exec (.bkpt f) s = .next (s.with q)) ∧
  trapsAnywhere .eret .lane0 (fun s _ t => s.cur.handler = false ∧ t = bareTrap causeIllegal (cxOf s)) ∧
  (∀ (s : State) (f : Fields), going (.eret f) .lane0 s = true → s.cur.handler = true →
    exec (.eret f) s = .next (transferOrAlign s f
      (changeCur s (fun x => { x with pc := x.tpc.toNat, handler := false })) s.cur.tpc.toNat)) ∧
  (∀ s : State, s.cur.live = true → s.cur.hold = .none →
    eventTo (.unassignedEncodingIssue .illegal) s (badIssued s causeIllegal) ∧
    (∀ need : Need, hasRight s.part s.cur need = true →
      eventTo (.unassignedEncodingIssue (.operandClass need)) s (badIssued s causeOperand)) ∧
    (∀ need : Need, hasRight s.part s.cur need = false →
      eventTo (.unassignedEncodingIssue (.operandClass need)) s (badIssued s causePrivilege)))

/-- R307 to R313: handler entry saves the trap in the trap registers, enters handler mode and goes to the vector, every register,
predicate and ring as it was; without a valid vector, or in handler mode, the team ends with a report; an asynchronous trap is taken
in the control context, the lowest cause first and within one cause the oldest.
The model's choices that it rests on: log 36. -/
def Obligations.TrapEntry : Prop :=
  (∀ (p : Pkg) (now c n : Nat) (t : Trap), (slotOf (partOf p c) n).handler = false → (slotOf (partOf p c) n).kind ≠ .errand →
    let k := partOf p c
    let x := slotOf k n
    (vectorOk k.tvec (textSizeOf p c) = true → ∃ h : Part, takeTrap p now c n t = setPart (dropWalks p c n) c h ∧
      let y := slotOf h n
      y.pc = fld k.tvec 0 32 ∧ y.handler = true ∧ y.tcause = tcauseWord t ∧ y.tval = t.tval ∧ y.tinfo = t.tinfo ∧
      (x.region = none → y.tpc = BitVec.ofNat 64 x.pc ∧ y.tbody = 0) ∧
      (∀ r : Region, x.region = some r → y.tpc = BitVec.ofNat 64 r.arbPc ∧
        (t.body = none → x.pc < 2 ^ 32 → bit y.tbody 63 = true ∧ fld y.tbody 0 32 = x.pc)) ∧
      y.sregs = x.sregs ∧ y.preds = x.preds ∧ y.rings = x.rings ∧ y.loops = x.loops ∧ y.fpflags = x.fpflags ∧
      y.fpmode = x.fpmode ∧ y.tscr = x.tscr ∧ y.token = x.token ∧ y.region = none ∧ y.hold = .none ∧
      h.vregs = k.vregs ∧ h.scr = k.scr ∧ h.acc = k.acc ∧ h.tvec = k.tvec ∧ h.journal = k.journal ∧
      (∀ m : Nat, m ≠ n → slotOf h m = slotOf k m)) ∧
    (vectorOk k.tvec (textSizeOf p c) = false →
      takeTrap p now c n t = endTeam (report p now (trapReport k c n t false true)) now c 3)) ∧
  (∀ (p : Pkg) (now c n : Nat) (t : Trap), (slotOf (partOf p c) n).handler = true →
    takeTrap p now c n t = endTeam (report p now (trapReport (partOf p c) c n t true true)) now c 3) ∧
  (∀ t : Trap, fld (tcauseWord t) 0 8 = t.cause % 256 ∧ fld (tcauseWord t) 8 6 = t.jent % 64 ∧
    bit (tcauseWord t) 14 = decide (0x20 ≤ t.cause ∧ t.cause ≤ 0x23) ∧ bit (tcauseWord t) 15 = t.jv ∧
    fld (tcauseWord t) 16 8 = t.sub % 256 ∧ fld (tcauseWord t) 24 40 = 0) ∧
  (∀ (v : Word) (text : Nat), vectorOk v text = true ↔ bit v 63 = true ∧ fld v 0 32 % 12 = 0 ∧ fld v 0 32 < text) ∧
  (∀ (s : State) (c : Nat) (t : Trap), selects (coreOf s.pkg c) = true → asyncReady (partOf s.pkg c) 0 = true →
    firstPending (partOf s.pkg c).pend = some t →
    (∃ l m : List Trap, (partOf s.pkg c).pend = l ++ t :: m ∧ (∀ x ∈ l, t.cause < x.cause) ∧ (∀ x ∈ m, t.cause ≤ x.cause)) ∧
    eventTo (.asyncTrapTake c) s (takeTrap (setPart s.pkg c { partOf s.pkg c with pend := (partOf s.pkg c).pend.erase t }) s.time c 0
      (if t.cause = 0x22 then { t with tinfo := BitVec.ofNat 64 (coreOf s.pkg c).mfq.length } else t))) ∧
  (∀ (s : State) (c : Nat), asyncReady (partOf s.pkg c) 0 = false → eventTo (.asyncTrapTake c) s s.pkg) ∧
  (∀ (k : Part), asyncReady k 0 = true ↔ (slotOf k 0).live = true ∧ (slotOf k 0).kind = .control ∧ k.pend ≠ [] ∧
    (slotOf k 0).handler = false ∧ abandonable (slotOf k 0).hold = true)

/-- R300, R301, R308, R312: what CSRR reads and CSRW writes of every special register; read-only registers and reserved bits trap.
The model's choices that it rests on: log 16, 33. -/
def Obligations.SpecialRegisters : Prop :=
  csrrRow 0x000 (fun s => BitVec.ofNat 64 s.time) ∧ csrrRow 0x001 (fun s => selfWord s.pkg (cxOf s)) ∧
  (∀ (p : Pkg) (cx : Cx), fld (selfWord p cx) 0 12 = cx.core % 2 ^ 12 ∧ fld (selfWord p cx) 12 10 = p.regs.pkgnum % 2 ^ 10 ∧
    fld (selfWord p cx) 22 9 = asidOf (partOf p cx.core) % 2 ^ 9 ∧ fld (selfWord p cx) 31 4 = cx.slot % 2 ^ 4 ∧
    fld (selfWord p cx) 35 2 = (partOf p cx.core).mode % 4 ∧ bit (selfWord p cx) 37 = supOf (partOf p cx.core)) ∧
  csrrRow 0x002 (fun s => BitVec.ofNat 64 (s.pkg.regs.fterm % 2 ^ 32)) ∧
  csrrRow 0x010 (fun s => s.cur.fpflags.zeroExtend 64) ∧ csrrRow 0x011 (fun s => s.cur.fpmode.zeroExtend 64) ∧
  csrrRow 0x012 (fun s => s.cur.waitlim.zeroExtend 64) ∧ csrrRow 0x013 (fun s => s.cur.mmring.zeroExtend 64) ∧
  csrrRow 0x014 (fun s => s.cur.sks) ∧
  (∀ (s : State) (f : Fields), runs (.csrr f) .lane0 s = true → csrNo f.a = 0x015 →
    ((∀ x ∈ s.part.smrgq, x.ctx ≠ s.cur.ctx) → exec (.csrr f) s = .next (advance s f (writeD s f s.cur.smres))) ∧
    ((∃ x ∈ s.part.smrgq, x.ctx = s.cur.ctx) → exec (.csrr f) s = .next (busyState s s.pkg))) ∧
  (∀ i < 4, csrrRow (0x020 + i) (fun s => BitVec.ofNat 64 (xdone s.part i % 2 ^ 48))) ∧
  (∀ i < 4, csrrRow (0x024 + i) (fun s => mapGet 0 s.cur.xlast i)) ∧
  csrrRow 0x080 (fun s => (coreOf s.pkg s.core).mcap) ∧ csrrRow 0x081 (fun s => (coreOf s.pkg s.core).scap) ∧
  csrrRow 0x082 (fun s => (coreOf s.pkg s.core).runq) ∧ csrrRow 0x083 (fun s => (coreOf s.pkg s.core).gswtime) ∧
  csrrRow 0x084 (fun s => (coreOf s.pkg s.core).gswctl) ∧
  csrrRow 0x100 (fun s => s.cur.tcause) ∧ csrrRow 0x101 (fun s => s.cur.tpc) ∧ csrrRow 0x102 (fun s => s.cur.tval) ∧
  csrrRow 0x103 (fun s => s.cur.tinfo) ∧ (∀ i < 4, csrrRow (0x104 + i) (fun s => mapGet 0 s.cur.tscr i)) ∧
  csrrRow 0x108 (fun s => s.part.tvec) ∧ csrrRow 0x109 (fun s => tpendWord s.part) ∧
  (∀ (k : Part), ∀ i < 4, bit (tpendWord k) i = k.pend.any (fun t => decide (t.cause = 0x20 + i))) ∧
  csrrRow 0x10A (fun s => joccWord s.part) ∧ (∀ (k : Part), ∀ n < 64, bit (joccWord k) n = (mapFind k.journal n).isSome) ∧
  csrrRow 0x10B (fun s => BitVec.ofNat 64
    ((coreOf s.pkg s.core).mfq.filter (fun m => decide (m.u.asid = asidOf s.part))).length) ∧
  csrrRow 0x10C (fun s => s.cur.tbody) ∧
  (∀ (s : State) (f : Fields) (n : BitVec 12), s.cur.live = true → s.cur.hold = .none → rightHeld s 0x163 f = true → f.d = .csr n →
    n.toNat ∈ [0x000, 0x001, 0x002, 0x015, 0x020, 0x021, 0x022, 0x023, 0x024, 0x025, 0x026, 0x027, 0x109, 0x10A, 0x10B] →
    exec (.csrw f) s = .next (trapState s f (bareTrap causeOperand (cxOf s)))) ∧
  csrwReserved 0x010 7 57 ∧ csrwReserved 0x011 5 3 ∧ csrwReserved 0x011 9 55 ∧ csrwReserved 0x012 48 16 ∧
  csrwReserved 0x013 8 56 ∧ csrwReserved 0x014 17 15 ∧ csrwReserved 0x014 48 16 ∧ csrwReserved 0x080 41 22 ∧
  csrwReserved 0x081 9 52 ∧ csrwReserved 0x082 52 12 ∧ csrwReserved 0x084 0 12 ∧ csrwReserved 0x084 52 9 ∧
  csrwReserved 0x100 24 40 ∧ csrwReserved 0x108 32 31 ∧
  csrwSlot 0x010 (fun b x => { x with fpflags := b.truncate 7 }) ∧ csrwSlot 0x011 (fun b x => { x with fpmode := b.truncate 9 }) ∧
  csrwSlot 0x012 (fun b x => { x with waitlim := b.truncate 48 }) ∧ csrwSlot 0x013 (fun b x => { x with mmring := b.truncate 8 }) ∧
  csrwSlot 0x014 (fun b x => { x with sks := b }) ∧ csrwSlot 0x100 (fun b x => { x with tcause := b }) ∧
  csrwSlot 0x101 (fun b x => { x with tpc := b }) ∧ csrwSlot 0x102 (fun b x => { x with tval := b }) ∧
  csrwSlot 0x103 (fun b x => { x with tinfo := b }) ∧
  (∀ i < 4, csrwSlot (0x104 + i) (fun b x => { x with tscr := mapPut 0 x.tscr i b })) ∧
  csrwSlot 0x10C (fun b x => { x with tbody := b }) ∧
  csrwCore 0x080 (fun b c => { c with mcap := b }) ∧ csrwCore 0x081 (fun b c => { c with scap := b }) ∧
  csrwCore 0x083 (fun b c => { c with gswtime := b }) ∧
  csrwCore 0x108 (fun b c => { c with part := { c.part with tvec := b } }) ∧
  (∀ (s : State) (f : Fields), runs (.csrw f) .lane0 s = true → csrNo f.d = 0x082 → fld (s.bVal f) 52 12 = 0 →
    (fld (s.bVal f) 16 36 * 65536 + (16 * 20480 + fld (s.bVal f) 0 16 * 64 * 32) ≤ 0x6000000000 →
      exec (.csrw f) s = .next (advance s f (updCore s.pkg s.core (fun c => { c with runq := s.bVal f })))) ∧
    (0x6000000000 < fld (s.bVal f) 16 36 * 65536 + (16 * 20480 + fld (s.bVal f) 0 16 * 64 * 32) →
      exec (.csrw f) s = .next (advance s f (logEvent s.pkg s.time 0x0050 (coreSource s.core)
        [coreReg s.core 2, (s.bVal f).toNat])))) ∧
  (∀ (s : State) (f : Fields), runs (.csrw f) .lane0 s = true → csrNo f.d = 0x084 →
    fld (s.bVal f) 0 12 = 0 → fld (s.bVal f) 52 9 = 0 → fld (s.bVal f) 12 40 * 4096 + 320 * 1024 ≤ 0x6000000000 → ∃ v : Word,
      exec (.csrw f) s = .next (advance s f (updCore s.pkg s.core (fun c => { c with gswctl := v }))) ∧
      bit v 62 = bit (coreOf s.pkg s.core).gswctl 62 ∧ ∀ i < 64, i ≠ 62 → bit v i = bit (s.bVal f) i)

/-- R302 to R304: TLBINV drops translations; KEYSET fills an empty key slot from scratchpad and clears the 64 bytes; KEYKILL drops the
translations of an ASID and, where its slot is full, discards what is held under its tag, and the key.
The model's choices that it rests on: log 47. -/
def Obligations.SupervisorInstructions : Prop :=
  doneAs .tlbinv .lane0 (fun _ _ => True) (fun s f => dropXlats s.pkg
    (fun n => bit (s.aVal f) 9 || decide (n = fld (s.aVal f) 0 9)) (bit (s.aVal f) 10) (fld (s.bVal f) 0 57)) ∧
  (∀ (p : Pkg) (asids : Nat → Bool) (allVa : Bool) (va : Nat), ∀ e ∈ (dropXlats p asids allVa va).cores, ∀ x ∈ e.2.tlb,
    asids x.asid = true → allVa = false ∧ ¬ (x.va ≤ va ∧ va < x.va + x.size)) ∧
  (∀ (p : Pkg) (asids : Nat → Bool) (va : Nat), ∀ e ∈ (dropXlats p asids true va).clusters, ∀ x ∈ e.2.asids, asids x.1 = false) ∧
  (∀ (p : Pkg) (asids : Nat → Bool) (allVa : Bool) (va : Nat), (dropXlats p asids allVa va).insts = p.insts ∧
    (dropXlats p asids allVa va).dram = p.dram ∧ (dropXlats p asids allVa va).keys = p.keys) ∧
  trapsAs .keyset .lane0 (fun s f t => fld (s.bVal f) 0 17 % 64 ≠ 0 ∧ t = alignTrap (fld (s.bVal f) 0 17)) ∧
  trapsAs .keyset .lane0 (fun s f t => fld (s.bVal f) 0 17 % 64 = 0 ∧ keyFull s.pkg (fld (s.aVal f) 0 9) = true ∧
    t = bareTrap causeAttribute (cxOf s)) ∧
  (∀ (s : State) (f : Fields) (off : Nat), runs (.keyset f) .lane0 s = true → off = fld (s.bVal f) 0 17 → off % 64 = 0 →
    keyFull s.pkg (fld (s.aVal f) 0 9) = false → scrClear s.part [(off, off + 64)] [(off, off + 64)] = true → s.part.badWords = [] →
    (scrNat s.part off 32 = scrNat s.part (off + 32) 32 →
      exec (.keyset f) s = .next (trapState s f (bareTrap causeAttribute (cxOf s)))) ∧
    (scrNat s.part off 32 ≠ scrNat s.part (off + 32) 32 → ∃ q : Pkg, exec (.keyset f) s = .next (advance s f q) ∧
      q = { updPart s.pkg s.core (fun k => scrWrite k s.time off (leBytes 64 0)) with keys := q.keys } ∧
      mapFind q.keys (fld (s.aVal f) 0 9) =
        some (BitVec.ofNat 512 (scrNat s.part off 32 * 2 ^ 256 + scrNat s.part (off + 32) 32)) ∧
      ∀ m : Nat, m ≠ fld (s.aVal f) 0 9 → mapFind q.keys m = mapFind s.pkg.keys m)) ∧
  doneAs .keykill .lane0 (fun s f => keyFull s.pkg (fld (s.aVal f) 0 9) = false) (fun s f =>
    dropXlats s.pkg (fun a => decide (a = fld (s.aVal f) 0 9)) true 0) ∧
  doneAs .keykill .lane0 (fun s f => keyFull s.pkg (fld (s.aVal f) 0 9) = true ∧ faultsOfTag s.pkg (fld (s.aVal f) 0 9) = [])
    (fun s f =>
      let n := fld (s.aVal f) 0 9
      let p := dropXlats s.pkg (fun a => decide (a = n)) true 0
      { p with
        insts := p.insts.map (fun e => (e.1, purgeInst n e.2))
        portWrites := p.portWrites.filter (fun w => decide (keyTag w.key ≠ n))
        orphans := p.orphans.map (fun o => (o.1, o.2.1, purgeHold n o.2.2))
        cores := p.cores.map (fun e => (e.1, { e.2 with part := purgePart n e.2.part }))
        keys := mapErase p.keys n
        keyGen := mapPut 0 p.keyGen n (mapGet 0 p.keyGen n + 1) }) ∧
  (∀ (n : Nat) (i : Inst), (∀ e ∈ (purgeInst n i).run, keyTag e.1 ≠ n) ∧ (∀ e ∈ (purgeInst n i).copies, e.1 % 1024 ≠ n) ∧
    (∀ k : Nat, keyTag k ≠ n → chainOf (purgeInst n i) k = chainOf i k) ∧ (purgeInst n i).horizons = i.horizons)

/-- R319, R320, R323, R324: MFAULT delivers the oldest merge fault the context may see, SJREAD a journal entry; MRES resolves a fault by
DROP, QUIET or REPLACE and lets its run go on; SJCLR frees an entry, or reissues it.
The model's choices that it rests on: log 31, 48. -/
def Obligations.FaultRecovery : Prop :=
  doneAs .mfault .lanes (fun _ _ => True) (fun s f => writeVec s.pkg s.core s.slot (lanesOf s f)
    (match mfSeen (coreOf s.pkg s.core) with
      | [] => 0
      | m :: rest => mfaultImage m (rest.length + 1)) f.d) ∧
  (∀ (c : Core) (m : MergeFault), m ∈ mfSeen c ↔ m ∈ c.mfq ∧ (supOf c.part = true ∨ m.u.asid = asidOf c.part)) ∧
  (∀ (m : MergeFault) (n : Nat), fld (mfaultImage m n) 0 256 = m.u.payload.toNat ∧ fld (mfaultImage m n) 256 32 = m.u.mask.toNat ∧
    fld (mfaultImage m n) 512 256 = m.dest.toNat ∧ fld (mfaultImage m n) 768 32 = m.fid.toNat ∧
    fld (mfaultImage m n) 800 2 = m.lvl % 4 ∧ bit (mfaultImage m n) 802 = m.mc ∧ fld (mfaultImage m n) 803 12 = m.inst % 4096 ∧
    fld (mfaultImage m n) 832 5 = n % 32) ∧
  doneAs .mres .lane0 (fun s f => ∀ m, faultByFid s.pkg (fld (s.aVal f) 0 32) = some m → ¬ mayRead s m.u.asid)
    (fun s f => popSources s.pkg s.core f) ∧
  (∀ (s : State) (f : Fields) (m : MergeFault), runs (.mres f) .lane0 s = true →
    faultByFid s.pkg (fld (s.aVal f) 0 32) = some m → mayRead s m.u.asid →
    (fld f.md 0 2 = 0 ∨ (m.mc = true ∧ fld f.md 0 2 = 1) →
      exec (.mres f) s = .next (advance s f (resolved s f m (fun c => c.erase m.u)))) ∧
    (fld f.md 0 2 = 1 → m.mc = false → exec (.mres f) s = .next (advance s f (resolved s f m (fun c =>
      c.map (fun r => if r = m.u then { r with quiet := true } else r))))) ∧
    (fld f.md 0 2 = 2 → exec (.mres f) s = .next (advance s f (resolved s f m (fun c =>
      c.map (fun r => if r = m.u then { r with payload := (vB s f).truncate 256, bad := false } else r)))))) ∧
  (∀ i : Inst, (unstall i).stall = none ∧ (unstall i).merging = true ∧ (unstall i).run = i.run) ∧
  (∀ (s : State) (f : Fields), runs (.sjread f) .lanes s = true →
    (∀ e : JEntry, namedEntry s f e → mayRead s e.asid → exec (.sjread f) s = .next (advance s f
      (writeVec s.pkg s.core s.slot (lanesOf s f)
        (BitVec.ofNat 1024 (entryImage e + e.ioff % 2 ^ 32 * 2 ^ 128)) f.d))) ∧
    ((∀ e : JEntry, namedEntry s f e → ¬ mayRead s e.asid) →
      exec (.sjread f) s = .next (advance s f (writeVec s.pkg s.core s.slot (lanesOf s f) 0 f.d)))) ∧
  (∀ (e : JEntry), let v : BitVec 128 := BitVec.ofNat 128 (entryImage e)
    fld v 0 32 = e.seq.toNat ∧ fld v 32 6 = e.cause % 64 ∧ fld v 38 3 = e.status % 8 ∧ fld v 41 3 = e.kind % 8 ∧
    fld v 44 22 = e.ioff / 12 % 2 ^ 22 ∧ fld v 66 4 = e.slot % 16 ∧ fld v 70 8 = e.team % 256 ∧ fld v 78 9 = e.asid % 512 ∧
    fld v 87 41 = e.addr % 2 ^ 41) ∧
  (∀ (s : State) (f : Fields) (e : JEntry), runs (.sjclr f) .lane0 s = true → namedEntry s f e →
    (¬ mayRead s e.asid → exec (.sjclr f) s = .next (advance s f s.pkg)) ∧
    (mayRead s e.asid → (e.status = 5 ∨ ((e.status = 3 ∨ e.status = 4) ∧ bit (s.aVal f) 8 = false)) →
      exec (.sjclr f) s = .next (advance s f (setPart s.pkg s.core (jErase s.part (fld (s.aVal f) 0 6))))) ∧
    (mayRead s e.asid → e.status = 1 ∨ e.status = 2 → exec (.sjclr f) s = .next (advance s f s.pkg)) ∧
    (∀ (dst : Nat) (b : MsgBody), mayRead s e.asid → e.status = 3 ∨ e.status = 4 → bit (s.aVal f) 8 = true →
      e.body = .msg dst s.pkg.regs.pkgnum b → exec (.sjclr f) s = .next (advance s f (send (setPart s.pkg s.core (jPut s.part
        (fld (s.aVal f) 0 6) { e with
          status := 2
          cause := 0
          code := 0
          body := .msg dst s.pkg.regs.pkgnum (resent s.pkg (cxOf s) s.pkg.regs.pkgnum b) })) s.core dst e.asid
        (resent s.pkg (cxOf s) s.pkg.regs.pkgnum b)))) ∧
    (∀ (ps : List Piece) (opr ty : Nat) (x : Bool), mayRead s e.asid → e.status = 3 → bit (s.aVal f) 8 = true →
      e.body = .store ps opr ty x → ∀ q : Piece, ps.head? = some q → exec (.sjclr f) s = .next (advance s f
        (askWalk (updCore s.pkg s.core (fun c => { c with
          postSeq := c.postSeq + BitVec.ofNat 32 ps.length
          part := jPut c.part (fld (s.aVal f) 0 6) { e with
            status := 1
            cause := 0
            addr := q.va / 65536
            seq := (coreOf s.pkg s.core).postSeq } })) (cxOf s) q.va true (some e.uid))))) ∧
  doneAs .sjclr .lane0 (fun s f => mapFind s.part.journal (fld (s.aVal f) 0 6) = none) (fun s _ => s.pkg)

/-- R142, R143, R147, R148, R150, R151, R190, R288 to R290: a record that has been in a run for 8,000 ticks starts a merge; a
publication merges its keys in order, leaves out the deferred ones and ends the merge or stalls the run; a deferred key is published
when nothing defers it; horizons and floor copies end; a walk gives a translation or a fault, or waits for a home in retention mode
(R331), and a journaled store is posted or fails.
The model's choices that it rests on: log 20, 30. -/
def Obligations.MemoryEvents : Prop :=
  (∀ (s : State) (lvl n k : Nat), mayMerge s lvl n →
    let i := instOf s.pkg lvl n
    ((∃ r ∈ chainOf i k, r.deferred = false ∧ r.since + 8000 ≤ s.time) → eventTo (.drainIntervalExpiry lvl n k) s
      (setInst s.pkg lvl n { setChain i k ((chainOf i k).map (fun r => { r with frozen := true })) with merging := true })) ∧
    ((∀ r ∈ chainOf i k, s.time < r.since + 8000) → eventTo (.drainIntervalExpiry lvl n k) s s.pkg)) ∧
  (∀ (s : State) (lvl n : Nat) (q : Pkg), lvl ≤ 3 → placeMoves s lvl n →
    ((instOf s.pkg lvl n).merging = false ∨ (instOf s.pkg lvl n).stall.isSome = true →
      eventTo (.mergePublication lvl n) s (afterMerge lvl n s.pkg)) ∧
    ((instOf s.pkg lvl n).merging = true → (instOf s.pkg lvl n).stall = none →
      let keys := ((instOf s.pkg lvl n).run.filter (fun e => e.2.any (·.frozen))).map (·.1)
      (publishKeys s.time lvl n keys s.pkg = (q, false) → eventTo (.mergePublication lvl n) s (afterMerge lvl n (endMerge q lvl n))) ∧
      (publishKeys s.time lvl n keys s.pkg = (q, true) → eventTo (.mergePublication lvl n) s (afterMerge lvl n q)))) ∧
  (∀ (q : Pkg) (n m : Nat), (afterMerge 0 n q).insts = q.insts ∧ (afterMerge 0 n q).dram = q.dram ∧
    ((slotOf (partOf q n) m).hold = .sync → mapSorted 0 (partOf q n).slots = true → mapSorted 0 q.cores = true →
      let y := slotOf (partOf (afterMerge 0 n q) n) m
      y.pc = (slotOf (partOf q n) m).pc + 12 ∧ y.hold = .none) ∧
    ((slotOf (partOf q n) m).hold ≠ .sync → mapSorted 0 (partOf q n).slots = true → mapSorted 0 q.cores = true →
      slotOf (partOf (afterMerge 0 n q) n) m = slotOf (partOf q n) m)) ∧
  (∀ (p p1 : Pkg) (now lvl n k : Nat) (rest : List Nat),
    (mergeFrozen p now lvl n k = .ok p1 → publishKeys now lvl n (k :: rest) p = publishKeys now lvl n rest p1) ∧
    (mergeFrozen p now lvl n k = .error .deferred →
      publishKeys now lvl n (k :: rest) p = publishKeys now lvl n rest (leaveOut p lvl n k true)) ∧
    (∀ (u : Rec) (dest : Granule) (mc : Bool), mergeFrozen p now lvl n k = .error (.invalid u dest lvl n mc) →
      publishKeys now lvl n (k :: rest) p = (stallRun p now lvl n k u dest mc, true))) ∧
  (∀ (s : State) (lvl n k : Nat), lvl < 3 → placeMoves s lvl n ∨ (lvl = 0 ∧ (coreOf s.pkg n).darned = true) → (instOf s.pkg lvl n).stall = none →
    (chainOf (instOf s.pkg lvl n) k).any (·.deferred) = true →
    (deferredAt s.pkg s.time (lvl + 1) (outerPlace lvl n (keyGran k)) (keyGran k) (some (childOf lvl n)) = false →
      eventTo (.deferralExpiry lvl n k) s (settleBlock s.pkg s.time k (mergeKey s.pkg s.time lvl n k)).1) ∧
    (deferredAt s.pkg s.time (lvl + 1) (outerPlace lvl n (keyGran k)) (keyGran k) (some (childOf lvl n)) = true →
      eventTo (.deferralExpiry lvl n k) s s.pkg)) ∧
  (∀ (s : State) (lvl n line : Nat) (h : Horizon), mapFind (instOf s.pkg lvl n).horizons line = some h →
    (s.time < h.e + guardBand s.pkg.regs.fterm h.nl → eventTo (.horizonExpiry lvl n line) s s.pkg) ∧
    (h.e + guardBand s.pkg.regs.fterm h.nl ≤ s.time → eventTo (.horizonExpiry lvl n line) s
      (setInst s.pkg lvl n { instOf s.pkg lvl n with horizons := mapErase (instOf s.pkg lvl n).horizons line }))) ∧
  (∀ (s : State) (lvl n line t : Nat) (fc : FloorCopy), mapFind (instOf s.pkg lvl n).copies line = some fc → fc.expiry = some t →
    (s.time < t → eventTo (.floorCopyExpiry lvl n line) s s.pkg) ∧
    (t ≤ s.time → eventTo (.floorCopyExpiry lvl n line) s
      (setInst s.pkg lvl n { instOf s.pkg lvl n with copies := mapErase (instOf s.pkg lvl n).copies line }))) ∧
  (∀ (s : State) (lvl n line : Nat) (fc : FloorCopy), mapFind (instOf s.pkg lvl n).copies line = some fc → fc.expiry = none →
    eventTo (.floorCopyExpiry lvl n line) s s.pkg) ∧
  (∀ (s : State) (lvl n line : Nat), eventTo (.floorCopyEviction lvl n line) s
    (setInst s.pkg lvl n { instOf s.pkg lvl n with copies := mapErase (instOf s.pkg lvl n).copies line })) ∧
  (∀ (s : State) (c i : Nat) (w : Walk) (q : Pkg), walkEnds s c i w q →
    walkWaits s.pkg = false → (teamOf (partOf s.pkg c)).isSome = true → asidOf (partOf s.pkg c) = w.asid →
    (∀ x : Xlat, walk q s.time c w.asid w.va (!supOf (partOf s.pkg c)) w.write = .ok x →
      eventTo (.pageWalkDone c i) s (fillTlb (cacheAsid (logReads q s.time c 23 [w.va]) s.time c w.asid) c x)) ∧
    (∀ t : Trap, walk q s.time c w.asid w.va (!supOf (partOf s.pkg c)) w.write = .error t →
      eventTo (.pageWalkDone c i) s (updPart q c (fun k => updSlot k w.slot (fun x => { x with walkFault := some (w.va, t) }))))) ∧
  (∀ (s : State) (c i : Nat), walkWaits s.pkg = true → eventTo (.pageWalkDone c i) s s.pkg) ∧
  (∀ (p : Pkg), walkWaits p = true ↔ ∃ a ∈ p.retained, a / 4096 = 3) ∧
  (∀ (p : Pkg) (now c asid va : Nat) (user write : Bool), 2 ^ 57 ≤ va →
    walk p now c asid va user write = .error (xlTrap causeTranslation 1 va 6)) ∧
  (∀ (p : Pkg) (now c asid va : Nat) (write : Bool) (x : Xlat), walk p now c asid va true write = .ok x → x.sup = false) ∧
  (∀ (p : Pkg) (now c asid va : Nat) (user : Bool) (x : Xlat), walk p now c asid va user true = .ok x → x.lease ≠ 3) ∧
  (∀ (s : State) (c n : Nat) (e : JEntry) (ps : List Piece) (opr ty : Nat) (x : Bool),
    mapFind (partOf s.pkg c).journal n = some e → e.body = .store ps opr ty x → (coreOf s.pkg c).fenced = none →
    (e.status ≠ 1 → eventTo (.journalWalkResult c n) s s.pkg) ∧
    (∀ xs : List Xlat, e.status = 1 → walkWaits s.pkg = false →
      journalXlats s.pkg s.time c e.asid ty (!supOf (partOf s.pkg c)) ps = .ok xs →
      eventTo (.journalWalkResult c n) s (postEntry s.pkg s.time c e ps opr ty x xs)) ∧
    (∀ (t : Trap) (va : Nat), e.status = 1 → walkWaits s.pkg = false → t.cause ≠ causeMachineCheck →
      journalXlats s.pkg s.time c e.asid ty (!supOf (partOf s.pkg c)) ps = .error (t, va) →
      eventTo (.journalWalkResult c n) s (jFail (setPart (dropEntryWalks s.pkg c e.uid) c
        (jPut (partOf s.pkg c) n { e with addr := va / 65536 })) s.time c e.uid 3 t.cause 0)))

/-- R39 to R43, R249, R259, R298: the loader refuses an image whole or places it; a core without a team takes its launch record, reads
what it names, and its control context starts at the entry; a launch that fails is abandoned, one whose reads are held waits.
The model's choices that it rests on: log 7, 17, 18. -/
def Obligations.ImageAndLaunch : Prop :=
  (∀ (s : State) (asid va : Nat) (bs : List Byte) (sy : List Int), asid < 512 → va < 2 ^ 57 →
    (∀ e : LdrRefusal, loadImageOf s.pkg s.time asid va bs sy = .error e →
      eventTo (.imageLoad asid va bs sy) s { s.pkg with loader := s.pkg.loader ++ [e] }) ∧
    (∀ (im : Image) (out : List Byte), loadImageOf s.pkg s.time asid va bs sy = .ok (im, out) →
      eventTo (.imageLoad asid va bs sy) s (placeBytes { s.pkg with images := mapInsert s.pkg.images (imageKey asid va) im }
        s.time asid va (windowSpans bs) out))) ∧
  (∀ (p : Pkg) (now asid va : Nat) (bs : List Byte) (sy : List Int), fld (headerOf bs) 0 32 ≠ 0x5A584B31 →
    loadImageOf p now asid va bs sy = .error (1, 0)) ∧
  (∀ (p : Pkg) (now asid va : Nat) (bs : List Byte) (sy : List Int) (im : Image) (out : List Byte),
    loadImageOf p now asid va bs sy = .ok (im, out) → im.asid = asid ∧ im.va = va ∧ im.entry % 12 = 0 ∧ im.mode ≠ 3 ∧
      1 ≤ im.slots ∧ im.slots ≤ slotCount im.mode ∧ im.layouts.length ≤ 64 ∧ im.caps &&& ~~~ (capsOf p now 0 asid) = 0) ∧
  (∀ (s : State) (c : Nat), (launchable (coreOf s.pkg c) = false ∨ launchRecord s.pkg c = none) → eventTo (.teamLaunch c) s s.pkg) ∧
  (∀ (s : State) (c prio i : Nat) (r : QRec) (take : Pkg → Pkg), launchTaken s c prio i r take →
    (mapFind s.pkg.images (imageKey (recAsid r.task) (recCode r.task)) = none →
      eventTo (.teamLaunch c) s { take s.pkg with loader := (take s.pkg).loader ++ [(1, 0)] }) ∧
    (∀ (im : Image) (p1 : Pkg) (b : BitVec 4608) (rd : LaunchRead), launchImageOf s c r im →
      readDesc s.pkg s.time c (recAsid r.task) (!launchSup s c r) (fld r.task 192 64) = .ok (p1, b) →
      (readLaunch p1 s.time c (recAsid r.task) (!launchSup s c r) b im (fld r.task 128 64) = .ok rd →
        eventTo (.teamLaunch c) s (registerGroup (serveEmptied (updCore (take rd.p) c (fun x => launchedCore x s.time (recAsid r.task)
          (imageKey (recAsid r.task) (recCode r.task)) (launchSup s c r)
          (BitVec.ofNat 32 (fld (asidEntry s.pkg s.time c (recAsid r.task)) 96 32)) im (descFields b) rd)) s.time c) c (recAsid r.task)
          (descFields b))) ∧
      (∀ q : Pkg, readLaunch p1 s.time c (recAsid r.task) (!launchSup s c r) b im (fld r.task 128 64) = .error (.held q) →
        eventTo (.teamLaunch c) s q) ∧
      (∀ (t : Trap) (j : Nat),
        readLaunch p1 s.time c (recAsid r.task) (!launchSup s c r) b im (fld r.task 128 64) = .error (.bad t j) →
        eventTo (.teamLaunch c) s
          (abandonLaunch (take s.pkg) s.time c (recAsid r.task) (launchSup s c r) (descFields b) t j)))) ∧
  (∀ (x : Core) (now asid img : Nat) (sup : Bool) (caps : BitVec 32) (im : Image) (d : LaunchDesc) (rd : LaunchRead),
    let y := launchedCore x now asid img sup caps im d rd
    y.nextTeam = x.nextTeam + 1 ∧ bit y.scap 63 = true ∧ y.part.tvec = 0 ∧ y.part.mode = im.mode ∧
    (∃ t : Team, y.part.team = some t ∧ t.asid = asid ∧ t.gtag = d.gtag ∧ t.done = d.done ∧ t.sup = sup ∧ t.caps = caps ∧
      t.slots = im.slots ∧ t.no = x.nextTeam) ∧
    (slotOf y.part 0).live = true ∧ (slotOf y.part 0).kind = .control ∧ (slotOf y.part 0).pc = im.entry ∧
    (slotOf y.part 0).waitlim = im.waitlim ∧ (slotOf y.part 0).preds = [] ∧ (slotOf y.part 0).fpmode = 0 ∧
    (slotOf y.part 0).sregs = paramRegs im.params rd.params ∧
    (rd.pre = [] → y.part.tags = [] ∧ (x.prevAsid ≠ some asid → y.part.scr = [] ∧ y.part.acc = [] ∧ y.part.tileFlags = [])))

/-- R274 to R276, R121, R258, R304: at GSWTIME an armed core stops selection, and a record selected for it stays selected; its partition is
written to AREA under the key of its address space once nothing it has issued is left, and SAVED is set; a resume brings it back with deadlines
counted on, or finds its key destroyed.
The model's choices that it rests on: log 40, 51. -/
def Obligations.GangSwitches : Prop :=
  (∀ (s : State) (c : Nat), (gswArm (coreOf s.pkg c) = false ∨ s.time < (coreOf s.pkg c).gswtime.toNat) →
    eventTo (.gangSwitchOut c) s s.pkg) ∧
  (∀ (s : State) (c : Nat), switchDue s c → ∃ q : Pkg, eventTo (.gangSwitchOut c) s q ∧
    let x := coreOf s.pkg c
    let y := coreOf q c
    y.switching = true ∧ y.switchTick = s.time ∧ y.sel = x.sel ∧ y.ask = none ∧ bit y.gswctl 62 = false ∧
    (∀ i < 64, i ≠ 62 → bit y.gswctl i = bit x.gswctl i) ∧ y.part = { x.part with matq := y.part.matq } ∧
    y.part.matq = x.part.matq.map (fun m => { m with
      running := false
      lines := [] })) ∧
  (∀ (s : State) (c : Nat), (coreOf s.pkg c).switching = false → eventTo (.gangSwitchSaved c) s s.pkg) ∧
  (∀ (s : State) (c : Nat) (q : Pkg), switchReady s c q →
    let x := coreOf q c
    let cl := clusterOf q (clusterNo c)
    let sv : Saved := { core := c, part := savedPart x.part x.switchTick, asid := asidOf x.part,
                        gen := mapGet 0 q.keyGen (asidOf x.part), tick := s.time }
    let r := setCluster q (clusterNo c) { cl with walks := cl.walks.filter (fun w => decide (w.core ≠ c)) }
    eventTo (.gangSwitchSaved c) s (updCore { r with saves := mapInsert r.saves (gswArea x) sv } c (fun y => { y with
      switching := false
      part := leftBehind y.part
      prevAsid := some (asidOf x.part)
      gswctl := setFld (setFld y.gswctl 62 1 1) 63 1 0 }))) ∧
  (∀ (k : Part), mapSorted 0 k.slots = true → ∀ n : Nat, slotOf (leftBehind k) n = { slotReset with readyAt := (slotOf k n).readyAt }) ∧
  (∀ (k : Part), (leftBehind k).team = none ∧ (leftBehind k).journal = [] ∧ (leftBehind k).matq = [] ∧
    (leftBehind k).copies = [] ∧ (leftBehind k).vregs = []) ∧
  (∀ (s : State) (c : Nat), (gswResume (coreOf s.pkg c) = false ∨ s.time < (coreOf s.pkg c).gswtime.toNat ∨
    (partOf s.pkg c).team ≠ none) → eventTo (.gangSwitchResume c) s s.pkg) ∧
  (∀ (s : State) (c : Nat) (q : Pkg) (sv : Saved), resumeDue s c q →
    mapFind s.pkg.saves (gswArea (coreOf s.pkg c)) = some sv →
    (mapGet 0 s.pkg.keyGen sv.asid ≠ sv.gen → eventTo (.gangSwitchResume c) s { q with
      saves := mapErase q.saves (gswArea (coreOf s.pkg c))
      lostResumes := q.lostResumes ++ [(c, gswArea (coreOf s.pkg c))] }) ∧
    (mapGet 0 s.pkg.keyGen sv.asid = sv.gen →
      let later := fun (d : Nat) => if d = 0 then 0 else d + s.time
      let r : Pkg := { q with
        saves := mapErase q.saves (gswArea (coreOf s.pkg c))
        net := q.net.map (shiftMsg c sv.asid later)
        parked := q.parked.map (shiftMsg c sv.asid later) }
      eventTo (.gangSwitchResume c) s (barrierCheckAll (updPart r c (fun k => resumedPart sv.part k s.time)) s.time c))) ∧
  (∀ (s : State) (c : Nat) (b : Word),
    (bit b 63 = false → eventTo (.gswctlArm c b) s s.pkg) ∧ (bit b 61 = false → eventTo (.gswctlResume c b) s s.pkg) ∧
    (fld b 12 40 * 4096 + 320 * 1024 ≤ 0x6000000000 → ∃ v : Word, gswWritten s c b v ∧
      (bit b 63 = true → eventTo (.gswctlArm c b) s (updCore s.pkg c (fun x => { x with gswctl := v }))) ∧
      (bit b 61 = true → eventTo (.gswctlResume c b) s (updCore s.pkg c (fun x => { x with gswctl := v })))))

/-- R328 to R330: an uncorrectable error, the watchdog after FENCEINT or a port fences a core; the darn pass publishes its M0 but for the
records that fail, and reports what is lost; a spare takes the core's place, cold but for the SEQ counter.
The model's choices that it rests on: log 4, 16, 41. -/
def Obligations.FencingAndSpares : Prop :=
  (∀ (s : State) (c : Nat), c < 4096 → (coreOf s.pkg c).fenced = none →
    (∃ q : Pkg, fencedBy s c 0 q ∧ eventTo (.uncorrectableCoreError c) s q) ∧
    (∀ v : Word, bit v 0 = true → ∃ q : Pkg, fencedBy s c 2 q ∧ eventTo (.fenceCommandWrite c v) s q) ∧
    (∀ t : Nat, selects (coreOf s.pkg c) = true → (coreOf s.pkg c).due = some t →
      t + s.pkg.regs.fenceint ≤ s.time → (coreOf s.pkg c).alive + s.pkg.regs.fenceint ≤ s.time → ∃ q : Pkg, fencedBy s c 1 q ∧ eventTo (.coreWatchdogExpiry c) s q)) ∧
  (∀ (s : State) (c : Nat), (coreOf s.pkg c).fenced.isSome = true → eventTo (.uncorrectableCoreError c) s s.pkg) ∧
  (∀ (s : State) (c : Nat) (v : Word), bit v 0 = false → eventTo (.fenceCommandWrite c v) s s.pkg) ∧
  (∀ (s : State) (c : Nat), (s.time < (coreOf s.pkg c).alive + s.pkg.regs.fenceint ∨ (coreOf s.pkg c).due = none) →
    eventTo (.coreWatchdogExpiry c) s s.pkg) ∧
  (∀ (s : State) (c : Nat) (bad : List Nat), (coreOf s.pkg c).fenced.isSome = true → (coreOf s.pkg c).darned = false →
    let keys := mapKeys (instOf s.pkg 0 c).run
    let unknown := (partOf s.pkg c).journal.filterMap (fun e =>
      if e.2.status = 2 then some (BitVec.ofNat 128 (entryImage e.2)) else none)
    ∀ (p1 : Pkg) (n : Nat) (lost : List Nat), darnKeys s.time c bad 0 keys (s.pkg, 0, []) = (p1, n, lost) →
      let p2 := updCore p1 c (fun x => { x with
        darned := true
        part := { x.part with journal := x.part.journal.filter (fun e => decide (e.2.status ≠ 1)) } })
      let p3 : Pkg := { p2 with darns := p2.darns ++ [{ core := c, recovered := n, discarded := lost, unknown := unknown }] }
      (lost = [] ∧ unknown = [] → eventTo (.darnPass c bad) s p3) ∧
      (lost ≠ [] ∨ unknown ≠ [] → eventTo (.darnPass c bad) s (logEvent p3 s.time 0x0022 (coreSource c) [lost.length, unknown.length]))) ∧
  (∀ (bad : List Nat) (at' : Nat) (ch : List Rec),
    darnChain bad at' ch = (ch.zipIdx.filter (fun x => decide (x.1.bad = false) && decide (at' + x.2 ∉ bad))).map (·.1)) ∧
  (∀ (s : State) (c : Nat) (bad : List Nat), ((coreOf s.pkg c).fenced = none ∨ (coreOf s.pkg c).darned = true) →
    eventTo (.darnPass c bad) s s.pkg) ∧
  (∀ (s : State) (c t : Nat), (coreOf s.pkg c).fenced = some t →
    let cl := clusterOf s.pkg (clusterNo c)
    (((coreOf s.pkg c).darned = false ∨ s.time < t + 4000 + guardBand s.pkg.regs.fterm true ∨ cl.spares = 0 ∨
        (instOf s.pkg 0 c).run ≠ []) → eventTo (.spareRemap c) s s.pkg) ∧
    ((coreOf s.pkg c).darned = true → t + 4000 + guardBand s.pkg.regs.fterm true ≤ s.time → 0 < cl.spares →
      (instOf s.pkg 0 c).run = [] →
      let phys := nextSpare cl
      let told := match (partOf s.pkg c).team with
        | some t => reportFaults (reportPending s.pkg s.time c) s.time c t
        | none => reportPending s.pkg s.time c
      let p := setInst (setCluster told (clusterNo c) { clusterOf told (clusterNo c) with
        spares := cl.spares - 1
        table := mapInsert cl.table c phys }) 0 c instReset
      eventTo (.spareRemap c) s (logEvent (setCore p c (coldCore s c)) s.time 0x0021 (coreSource c) [c, phys]))) ∧
  (∀ (s : State) (c : Nat), (coreOf s.pkg c).fenced = none → eventTo (.spareRemap c) s s.pkg) ∧
  (∀ k : Cluster, 0 < k.spares → k.spares ≤ 8 → 256 ≤ nextSpare k ∧ nextSpare k < 264)

/-- R20, R149, R331, R333, R362 to R365: power-on starts from the active firmware slot, or the other, or holds at step 3; clocks change
within R20 and publish FTERM; above 105 degrees a die slows by 25 MHz a millisecond, at 115 the module powers off; retention, ageing,
sparing and firmware updates are recorded.
The model's choices that it rests on: log 15, 42. -/
def Obligations.ModuleEvents : Prop :=
  (∀ (s : State) (n t : Nat) (a b : Bool),
    ((if s.site.slotB then b else a) = true → exec (.powerOnReset n t a b) s = .next { s with
      time := t % 2 ^ 64
      pkg := freshPkg n
      site := freshSite s a b }) ∧
    ((if s.site.slotB then b else a) = false → (if s.site.slotB then a else b) = true →
      exec (.powerOnReset n t a b) s = .next { s with
        time := t % 2 ^ 64
        pkg := freshPkg n
        site := { freshSite s a b with slotB := !s.site.slotB } }) ∧
    (a = false → b = false → exec (.powerOnReset n t a b) s = .next { s with
      time := 0
      pkg := pkgReset
      site := { freshSite s a b with
        booted := false
        bootFailures := s.site.bootFailures + 1 } })) ∧
  (∀ (s : State) (die mhz ft : Nat),
    (800 ≤ mhz → mhz ≤ 2200 → mhz % 25 = 0 → 0 < ft → ft < 2 ^ 32 → die < 4 →
      siteTo (.clockFrequencyChange die mhz ft) s { s.pkg with regs := { s.pkg.regs with fterm := ft } } { s.site with
        mhz := s.site.mhz.set die mhz
        changing := s.site.changing.set die (some s.time) }) ∧
    ((mhz < 800 ∨ 2200 < mhz ∨ mhz % 25 ≠ 0 ∨ ft = 0) → siteTo (.clockFrequencyChange die mhz ft) s s.pkg s.site)) ∧
  (∀ (s : State) (die : Nat),
    let ch := s.site.changing.set die none
    ((∀ x ∈ ch, x = none) → siteTo (.frequencyChangeEnd die) s { s.pkg with regs := { s.pkg.regs with fterm := 0 } }
      { s.site with changing := ch }) ∧
    ((∃ x ∈ ch, x ≠ none) → siteTo (.frequencyChangeEnd die) s s.pkg { s.site with changing := ch })) ∧
  (∀ (s : State) (die deg ft mhz : Nat), s.site.mhz[die]? = some mhz → die < 4 → 0 < ft → ft < 2 ^ 32 →
    (105 < deg → 825 ≤ mhz → s.site.throttled[die]? = some none →
      siteTo (.thermalThrottle die deg ft) s { s.pkg with regs := { s.pkg.regs with fterm := ft } } { s.site with
        mhz := s.site.mhz.set die (mhz - 25)
        changing := s.site.changing.set die (some s.time)
        throttled := s.site.throttled.set die (some s.time) }) ∧
    (deg ≤ 105 → siteTo (.thermalThrottle die deg ft) s s.pkg s.site) ∧
    (∀ t : Nat, s.site.throttled[die]? = some (some t) → s.time < t + 1000000 →
      siteTo (.thermalThrottle die deg ft) s s.pkg s.site)) ∧
  (∀ (s : State) (die deg : Nat),
    (115 ≤ deg → siteTo (.thermalShutdown die deg) s s.pkg { s.site with
      powered := false
      booted := false
      shutdowns := s.site.shutdowns ++ [s.time] }) ∧
    (deg < 115 → siteTo (.thermalShutdown die deg) s s.pkg s.site)) ∧
  (∀ (s : State) (die hours : Nat), die < 4 → eventTo (.ageingEstimate die hours) s
    (logEvent { s.pkg with regs := { s.pkg.regs with eolh := mapPut 0 s.pkg.regs.eolh die (BitVec.ofNat 64 hours) } } s.time 0x0040
      (dieSource die) [hours])) ∧
  (∀ (s : State) (d row : Nat), 100 ≤ d → siteTo (.rowSparing d row) s s.pkg s.site) ∧
  (∀ (s : State) (d row : Nat), d < 100 → siteTo (.rowSparing d row) s (logEvent s.pkg s.time 0x0030 (deviceSource d) [d, row])
    { s.site with spared := s.site.spared ++ [(d, row)] }) ∧
  (∀ (s : State) (b : Bool),
    siteTo (.firmwareUpdate s.site.slotB b) s s.pkg s.site ∧
    (s.site.slotB = false → siteTo (.firmwareUpdate true true) s s.pkg { s.site with
      signedB := true
      slotB := true }) ∧
    (s.site.slotB = true → siteTo (.firmwareUpdate false true) s s.pkg { s.site with
      signedA := true
      slotB := false }) ∧
    (s.site.slotB = false → siteTo (.firmwareUpdate true false) s s.pkg { s.site with signedB := false }) ∧
    (s.site.slotB = true → siteTo (.firmwareUpdate false false) s s.pkg { s.site with signedA := false })) ∧
  (∀ (s : State) (n mib : Nat),
    (n ∉ s.pkg.retained → 4096 ≤ n → (instOf s.pkg (n / 4096) (n % 4096)).merging = false → eventTo (.retentionEntry n mib) s
      { logEvent s.pkg s.time 0x0010 (arraySource n) [n, mib] with retained := s.pkg.retained ++ [n] }) ∧
    (n ∈ s.pkg.retained ∨ n < 4096 ∨ (instOf s.pkg (n / 4096) (n % 4096)).merging = true →
      eventTo (.retentionEntry n mib) s s.pkg) ∧
    (n ∈ s.pkg.retained → eventTo (.retentionExit n mib) s
      { logEvent s.pkg s.time 0x0011 (arraySource n) [n, mib] with retained := s.pkg.retained.erase n }) ∧
    (n ∉ s.pkg.retained → eventTo (.retentionExit n mib) s s.pkg))

/-- R15, R299, R354, R356 to R361: BAR2 reads and writes device memory through the window, writes in order before every later read and
launch; an LQPORT enqueues a launch record or says why not, the host's first
where both ports write in one cycle; CPSEM is taken by a read and released by its owner; vectors are raised,
or pend while they are masked; other packages read and write at the home, and ship regions to it; a lost link makes packages unreachable until a port is
retrained. A read waits for an array in retention mode (R331) and gives no value that holds an error (R326).
The model's choices that it rests on: log 11, 29, 43. -/
def Obligations.PortAccesses : Prop :=
  (∀ (s : State) (a : Nat) (bs : List Byte),
    (bar2Reaches s a bs.length → eventTo (.bar2Write a bs) s
      (((bs.zipIdx).foldl (fun m x => addPiece m (winAddr s.pkg a + x.2) x.1) ([] : SMap Piece)).foldl (fun q e =>
        portWrite q s.time (runKey (e.2.va / 32) (winTag s.pkg)) (portRec q s.time e.2.mask e.2.payload) none 0) s.pkg)) ∧
    (bit s.pkg.regs.winctl 63 = false → eventTo (.bar2Write a bs) s s.pkg)) ∧
  (∀ (s : State) (a len : Nat), a + len ≤ 2 ^ 36 →
    (s.pkg.portWrites ≠ [] → eventTo (.bar2Read a len) s s.pkg) ∧
    (s.pkg.portWrites = [] → bit s.pkg.regs.winctl 63 = false →
      eventTo (.bar2Read a len) s (answered s.pkg a (some (2 ^ (8 * len) - 1)))) ∧
    (s.pkg.portWrites = [] → bar2Reaches s a len →
      let keys := (paGranules (winAddr s.pkg a) len).map (fun g => runKey g (winTag s.pkg))
      behindRegion s.pkg 0 3 keys = false → (∀ k ∈ keys, readWaits s.pkg s.time 0 3 k = false) →
      ((∀ k ∈ keys, combineBad s.pkg s.time 0 3 k = false) →
        eventTo (.bar2Read a len) s (answered s.pkg a (some (bar2Value s.pkg s.time (winAddr s.pkg a) len)))) ∧
      ((∃ k ∈ keys, combineBad s.pkg s.time 0 3 k = true) → ∃ g ∈ paGranules (winAddr s.pkg a) len,
        eventTo (.bar2Read a len) s
          (answered (logDetected s.pkg s.time (arraySource (3 * 4096 + homeOf (32 * g))) 1 (32 * g)) a none)))) ∧
  (∀ (p : Pkg) (now cl prio : Nat) (r : BitVec 256) (whole : Bool), p.portWrites = [] → cl < 16 → prio < 8 →
    (∀ w : Nat, lqWhy p now cl prio r whole = some w →
      let q := setCluster p cl { clusterOf p cl with
        ref := (clusterOf p cl).ref + 1
        why := w }
      lqWrite p now cl prio r whole = { q with regs := { q.regs with due := q.regs.due ++ [2] } }) ∧
    (lqWhy p now cl prio r whole = none →
      let q := setQueue p cl prio (queueOf p cl prio ++ [⟨setFld r 3 1 0, now⟩])
      lqWrite p now cl prio r whole = setCluster q cl { clusterOf q cl with acc := (clusterOf q cl).acc + 1 })) ∧
  (∀ (s : State) (cl prio : Nat) (r : BitVec 256) (whole : Bool), s.pkg.portWrites = [] → cl < 16 → prio < 8 →
    let q := lqWrite s.pkg s.time cl prio r whole
    ((lqWhy s.pkg s.time cl prio r whole).isSome = true → eventTo (.lqportWrite .management cl prio r whole) s q) ∧
    (lqWhy s.pkg s.time cl prio r whole = none → eventTo (.lqportWrite .management cl prio r whole) s
      (lqMarked q cl (some (prio, s.time, launchesAt q cl prio s.time)))) ∧
    (s.turn.later = false ∨ lqTied s.pkg s.time cl prio = none → eventTo (.lqportWrite .host cl prio r whole) s
      (if (clusterOf q cl).lqTie.isSome then lqMarked q cl none else q)) ∧
    (∀ (i : Nat) (m : QRec), s.turn.later = true → lqTied s.pkg s.time cl prio = some (i, m) →
      let p0 := setQueue s.pkg cl prio ((queueOf s.pkg cl prio).eraseIdx i)
      let p1 := lqMarked (setCluster p0 cl { clusterOf p0 cl with acc := (clusterOf p0 cl).acc - 1 }) cl none
      eventTo (.lqportWrite .host cl prio r whole) s
        (lqWrite (lqWrite p1 s.time cl prio r whole) s.time cl prio m.task true))) ∧
  (∀ (p : Pkg) (now cl prio : Nat) (r : BitVec 256), lqWhy p now cl prio r true = none →
    bit r 4 = true ∧ clusterNo (fld r 11 12) = cl ∧ fld r 0 3 = prio ∧ queueFull p cl prio = false) ∧
  (∀ (s : State),
    (s.pkg.regs.cpsem = 0 → eventTo (.cpsemRead true false) s
      { answered s.pkg 0 (some 0) with regs := { s.pkg.regs with cpsem := 1 } }) ∧
    (s.pkg.regs.cpsem = 0 → eventTo (.cpsemRead false true) s
      { answered s.pkg 0 (some 0) with regs := { s.pkg.regs with cpsem := 2 } }) ∧
    (s.pkg.regs.cpsem ≠ 0 → eventTo (.cpsemRead true false) s (answered s.pkg 0 (some (2 ^ 63 + s.pkg.regs.cpsem)))) ∧
    (s.pkg.regs.cpsem = 1 → regsTo (.cpsemWrite .host 0) s (fun r => { r with
      cpsem := 0
      due := r.due ++ [3] })) ∧
    (s.pkg.regs.cpsem = 2 → regsTo (.cpsemWrite .management 0) s (fun r => { r with
      cpsem := 0
      due := r.due ++ [3] })) ∧
    (s.pkg.regs.cpsem ≠ 1 → eventTo (.cpsemWrite .host 0) s s.pkg)) ∧
  (∀ (s : State) (v : Nat),
    (v ∉ s.pkg.regs.due → eventTo (.msixVectorRaise v) s s.pkg) ∧
    (v ∈ s.pkg.regs.due → vecMasked s.pkg v = false → regsTo (.msixVectorRaise v) s (fun r => { r with
      due := r.due.erase v
      sent := r.sent ++ [v] })) ∧
    (v ∈ s.pkg.regs.due → vecMasked s.pkg v = true → regsTo (.msixVectorRaise v) s (fun r => { r with
      due := r.due.erase v
      pba := r.pba ||| BitVec.ofNat 64 (2 ^ v) }))) ∧
  (∀ (s : State) (v : Nat), 64 ≤ v → eventTo (.msixUnmask v) s s.pkg) ∧
  (∀ (s : State) (v : Nat), v < 64 → ∃ q : Pkg, eventTo (.msixUnmask v) s q ∧
    vecMasked q v = false ∧ bit q.regs.pba v = false ∧
    q.regs.sent = (if bit s.pkg.regs.pba v then s.pkg.regs.sent ++ [v] else s.pkg.regs.sent)) ∧
  (∀ (s : State) (pk : Nat) (a : PodAccess), 1024 ≤ pk → eventTo (.remotePackageAccess pk a) s s.pkg) ∧
  (∀ (s : State) (pk pa tag : Nat), pk < 1024 → pk ≠ s.pkg.regs.pkgnum → pk ∉ s.pkg.unreachable → pa < 0x6000000000 →
    tag ≤ tagNone → keyKilled s.pkg tag = false → behindRegion s.pkg 0 3 [runKey (pa / 32) tag] = false →
    (readWaits s.pkg s.time 0 3 (runKey (pa / 32) tag) = false →
      (combineBad s.pkg s.time 0 3 (runKey (pa / 32) tag) = false → eventTo (.remotePackageAccess pk (.read pa tag)) s
        { s.pkg with outbox := s.pkg.outbox ++ [(pk, 0, .memValue pa (combineFrom s.pkg s.time 0 3 (runKey (pa / 32) tag)).1)] }) ∧
      (combineBad s.pkg s.time 0 3 (runKey (pa / 32) tag) = true →
        let q := logDetected s.pkg s.time (arraySource (3 * 4096 + homeOf pa)) 1 pa
        eventTo (.remotePackageAccess pk (.read pa tag)) s { q with outbox := q.outbox ++ [(pk, 0, .refusal pa 0x30 0)] })) ∧
    (∀ (m : BitVec 32) (v : Granule) (q : Pkg), settleBlock s.pkg s.time (runKey (pa / 32) tag)
        (insertAt s.pkg s.time 3 (homeOf pa) (runKey (pa / 32) tag) { portRec s.pkg s.time m v with pkg := pk }) = (q, true) →
      eventTo (.remotePackageAccess pk (.write pa tag m v)) s { q with outbox := q.outbox ++ [(pk, 0, .memDone pa)] })) ∧
  (∀ (s : State) (port : Nat) (lost : List Nat), port < 16 →
    let down := dedupNat (s.pkg.portsDown ++ [port])
    let q : Pkg := { s.pkg with portsDown := down }
    (down.length ≠ 16 → eventTo (.roneelLinkLoss port lost) s
      ((lost.filter (fun g => decide (g < 1024))).foldl (fun q g => losePackage q (cxOf s) g) q)) ∧
    (down.length = 16 → eventTo (.roneelLinkLoss port lost) s ((List.range 1024).foldl (fun q g => losePackage q (cxOf s) g) q))) ∧
  (∀ (s : State) (port : Nat) (reached : List Nat), port ∈ s.pkg.portsDown → eventTo (.roneelPortRetrained port reached) s { s.pkg with
    unreachable := s.pkg.unreachable.filter (fun q => !reached.contains q)
    portsDown := s.pkg.portsDown.erase port }) ∧
  (∀ (s : State) (pk src slot team asid pa va tag ioff : Nat) (seq : BitVec 32) (body : List (BitVec 96 × BitVec 512))
      (sregs : List Word) (preds : List Mask), pk < 1024 → pk ≠ s.pkg.regs.pkgnum → pk ∉ s.pkg.unreachable → pa < 0x6000000000 →
    tag ≤ tagNone → keyKilled s.pkg tag = false → pa % 128 = 0 → va % 65536 = pa % 65536 →
    (farOps ioff body = none →
      eventTo (.remotePackageAccess pk (.region src slot team asid pa va tag ioff seq body sregs preds)) s s.pkg) ∧
    (∀ ops : List RegOp, farOps ioff body = some ops → s.turn.later = true →
      eventTo (.remotePackageAccess pk (.region src slot team asid pa va tag ioff seq body sregs preds)) s { s.pkg with
        farRegions := s.pkg.farRegions ++
          [farStanding s pk src slot team asid pa va tag ioff seq ops (farSlot sregs preds)] }))

/-- R154, R256, R315, R328, R334, R354 to R357, R360: what the ports' writes of the package register space do; a base whose area is not
wholly in device memory is ignored and logged; what its reads give, zero at an unlisted offset.
The model's choices that it rests on: log 19, 43. -/
def Obligations.PortRegisters : Prop :=
  (∀ (s : State) (c : Nat) (h : Bool), eventTo (.dbgHold c h) s (updCore s.pkg c (fun x => { x with
    dbgHold := h
    dbgHeld := x.dbgHeld && h }))) ∧
  (∀ (s : State) (c n : Nat),
    ((slotOf (partOf s.pkg c) n).hold = .stopped → eventTo (.dbgRelease c n) s
      (updPart s.pkg c (fun k => updSlot k n (fun x => { x with hold := .none })))) ∧
    ((slotOf (partOf s.pkg c) n).hold ≠ .stopped → eventTo (.dbgRelease c n) s s.pkg)) ∧
  (∀ (s : State) (c : Nat) (v : Word), (v ≠ 0 → eventTo (.rplcntClear c v) s s.pkg) ∧
    eventTo (.rplcntClear c 0) s (updCore s.pkg c (fun x => { x with
      rplcnt := 0
      rplctl := setFld x.rplctl 62 1 0 }))) ∧
  (∀ (s : State) (v : Word), regsTo (.fqovfClear 0) s (fun r => { r with fqovf := 0 }) ∧
    regsTo (.elovfClear 0) s (fun r => { r with elovf := 0 }) ∧
    (v ≠ 0 → eventTo (.fqovfClear v) s s.pkg ∧ eventTo (.elovfClear v) s s.pkg)) ∧
  (∀ (s : State) (cl prio : Nat) (v : Word), cl < 16 → prio < 8 →
    (128 < (queueOf s.pkg cl prio).length → eventTo (.ovfcapWrite cl prio v) s s.pkg) ∧
    ((queueOf s.pkg cl prio).length ≤ 128 → fld v 0 21 ≤ 2 ^ 20 → eventTo (.ovfcapWrite cl prio v) s
      (latchRoom (setCluster s.pkg cl { clusterOf s.pkg cl with
        ovfcap := mapPut 0 (clusterOf s.pkg cl).ovfcap prio (fld v 0 21) }) s.time))) ∧
  (∀ (s : State) (v : Word),
    (fld v 14 38 * 2 ^ 14 + 2 ^ 14 ≤ 0x6000000000 →
      regsTo (.paRegisterWrite 0x08 v) s (fun r => { r with asidtab := BitVec.ofNat 64 (fld v 14 38 * 2 ^ 14) })) ∧
    (0x6000000000 < fld v 14 38 * 2 ^ 14 + 2 ^ 14 →
      eventTo (.paRegisterWrite 0x08 v) s (logEvent s.pkg s.time 0x0050 portSource [0x08, v.toNat])) ∧
    (fld v 17 35 * 2 ^ 17 + 2 ^ 17 ≤ 0x6000000000 →
      regsTo (.paRegisterWrite 0x30 v) s (fun r => { r with fqbase := BitVec.ofNat 64 (fld v 17 35 * 2 ^ 17) })) ∧
    (fld v 21 31 * 2 ^ 21 + 2 ^ 21 ≤ 0x6000000000 →
      regsTo (.paRegisterWrite 0x50 v) s (fun r => { r with elbase := BitVec.ofNat 64 (fld v 21 31 * 2 ^ 21) }))) ∧
  (∀ (s : State) (v : Word), (fld v 61 2 = 3 → eventTo (.winctlWrite v) s s.pkg) ∧
    (fld v 61 2 ≠ 3 → ∃ w : Word, regsTo (.winctlWrite v) s (fun r => { r with winctl := w }) ∧
      fld w 52 12 = fld v 52 12 ∧ fld w 0 16 = fld v 0 16 ∧ fld w 16 36 = 0)) ∧
  (∀ (s : State) (v : Word),
    regsTo (.registerWrite 0x28 v) s (fun r => { r with fenceint := fld v 0 48 }) ∧
    regsTo (.registerWrite 0x40 v) s (fun r => { r with fqtail := fld v 0 12 }) ∧
    regsTo (.registerWrite 0x60 v) s (fun r => { r with eltail := fld v 0 16 }) ∧
    regsTo (.registerWrite 0x200 v) s (fun r => { r with lnuser := fld v 0 4 }) ∧
    (1 ≤ fld v 10 11 → fld v 10 11 ≤ 1024 → fld v 0 10 < fld v 10 11 → ∃ w : Word,
      regsTo (.registerWrite 0x18 v) s (fun r => { r with podgrp := w }) ∧ fld w 0 10 = fld v 0 10 ∧ fld w 10 11 = fld v 10 11 ∧
      fld w 32 10 = fld v 32 10) ∧
    (∀ n < 16, ∃ lo : Word, regsTo (.registerWrite (0x100 + 16 * n) v) s (fun r => { r with crgn := mapPut 0 r.crgn (2 * n) lo }) ∧
      fld lo 0 36 = fld v 0 36 ∧ fld lo 62 2 = fld v 62 2 ∧ fld lo 36 26 = 0) ∧
    (∀ n < 16, regsTo (.registerWrite (0x108 + 16 * n) v) s (fun r => { r with
      crgn := mapPut 0 r.crgn (2 * n + 1) (BitVec.ofNat 64 (fld v 0 36)) })) ∧
    (∀ c < 4096, eventTo (.registerWrite (0x100000 + 0x100 * c) v) s (updCore s.pkg c (fun x => { x with gswtime := v }))) ∧
    (∀ c < 4096, eventTo (.registerWrite (0x100028 + 0x100 * c) v) s (updCore s.pkg c (fun x => { x with rplcap := fld v 0 32 })))) ∧
  (∀ (s : State) (off : Nat) (v : Word), off % 8 ≠ 0 → eventTo (.registerWrite off v) s s.pkg) ∧
  (∀ (p : Pkg) (off : Nat), (off ≠ 0 → portRead p off = answered p off (some (readReg p off).toNat)) ∧
    (off % 8 ≠ 0 → readReg p off = 0) ∧ (0x10000 ≤ off → off < 0x11000 → readReg p off = 0) ∧
    (0x11080 ≤ off → off < 0x20000 → readReg p off = 0)) ∧
  (∀ (p : Pkg) (cl : Nat), cl < 16 → readReg p (0x11000 + 8 * cl) = lqstatWord (clusterOf p cl) ∧
    (∀ prio < 8, readReg p (0x20000 + 0x80 * cl + 16 * prio) = mapGet 0 (clusterOf p cl).ovfbase prio)) ∧
  (∀ (k : Cluster), fld (lqstatWord k) 0 3 = k.why % 8 ∧ fld (lqstatWord k) 8 24 = k.ref.toNat ∧ fld (lqstatWord k) 32 32 = k.acc.toNat) ∧
  (∀ (p : Pkg) (c : Nat), c < 4096 → readReg p (coreReg c 0) = (coreOf p c).gswtime ∧
    readReg p (coreReg c 1) = (coreOf p c).gswctl ∧ readReg p (coreReg c 2) = (coreOf p c).runq ∧
    readReg p (coreReg c 3) = (if (coreOf p c).fenced.isSome then 2 else 0) ∧
    bit (readReg p (coreReg c 7)) 0 = (coreOf p c).dbgHold ∧ bit (readReg p (coreReg c 7)) 1 = (coreOf p c).dbgHeld)

/-- R27 to R29, R34, R85: what every instruction of the catalogue does before its own effect: nothing in a slot without a context;
PRIVILEGE without the right it asks for, then OPERAND_CLASS for an operand the state refuses, both exact; it waits for its operands;
with its guard false in every lane, or in lane 0 where the instruction is not lane-wise, only the pc moves on, but for ARB and ARE. -/
def Obligations.IssueRules : Prop :=
  (∀ (i : Instr) (s : State) (c : Nat) (f : Fields), i.word = some (c, f) → s.cur.live = false → exec i s = .next s) ∧
  (∀ (i : Instr) (s : State) (c : Nat) (f : Fields), i.word = some (c, f) → s.cur.live = true → s.cur.hold = .none →
    (rightHeld s c f = false → exec i s = .next (trapState s f (bareTrap causePrivilege (cxOf s)))) ∧
    (rightHeld s c f = true → stateOk s.part s.core s.slot c f = false →
      exec i s = .next (trapState s f (bareTrap causeOperand (cxOf s)))) ∧
    (rightHeld s c f = true → stateOk s.part s.core s.slot c f = true → scoreboardFree s.part s.slot c f = false →
      exec i s = .next s) ∧
    (rightHeld s c f = true → stateOk s.part s.core s.slot c f = true → s.cur.region = none →
      scoreboardFree s.part s.slot c f = true → operandsReady s.pkg s.core s.slot f = false →
      exec i s = .next (if ringsAway s.part s.slot f then busyState s s.pkg else s)) ∧
    (readyWord s c f = true → guardMask s.cur f = 0 → c ≠ 0x0E9 → c ≠ 0x0EA → s.cur.pc + 12 < textSizeOf s.pkg s.core →
      exec i s = .next (advance s f s.pkg)) ∧
    (readyWord s c f = true → laneWise c f = false → guardLane0 s.cur f = false → c ≠ 0x0E9 → c ≠ 0x0EA →
      s.cur.pc + 12 < textSizeOf s.pkg s.core → exec i s = .next (advance s f s.pkg))) ∧
  (∀ (s : State) (c : Nat) (f : Fields), rightHeld s c f = true ↔
    ∃ row : Row, rowOf c = some row ∧ hasRight s.part s.cur (needOf row (some f.d) (some f.a)) = true) ∧
  (∀ (k : Part) (x : Slot) (n : BitVec 12),
    hasRight k x .supervisor = supOf k ∧ hasRight k x .eret = (supOf k || x.handler) ∧
    (∀ r : BitVec 5, hasRight k x (.teamk (some r)) =
      (supOf k || (x.handler && decide (fld (sregOf x r.toNat) 0 9 = asidOf k)))) ∧
    (0x100 ≤ n.toNat → n.toNat ≤ 0x107 → hasRight k x (.csrRead n) = (supOf k || x.handler)) ∧
    (0x80 ≤ n.toNat → n.toNat ≤ 0x84 → hasRight k x (.csrRead n) = supOf k ∧ hasRight k x (.csrWrite n) = supOf k) ∧
    (n.toNat < 0x80 → hasRight k x (.csrRead n) = true) ∧
    (0x10 ≤ n.toNat → n.toNat ≤ 0x14 → hasRight k x (.csrWrite n) = true)) ∧
  (∀ (s : State) (f : Fields), readyWord s 0x001 f = true → guardLane0 s.cur f = true → windowOk s.pkg s.core f.b = true →
    textSizeOf s.pkg s.core ≤ s.cur.pc + 12 → exec (.nop f) s = .next (trapState s f (alignTrap (textSizeOf s.pkg s.core))))

/-- R79, R88, R92, R98, R99: the frames of the register-only instructions: a scalar instruction leaves all but sD, a lane-wise one all
but the guarded lanes of vD and %FPFLAGS, a compare or predicate instruction all but pD and %FPFLAGS; memory, scratchpad, the trap
registers, the accumulators and every other core and slot stand. -/
def Obligations.RegisterFrames : Prop :=
  scalarFrame .nop ∧ scalarFrame .sadd ∧ scalarFrame .ssub ∧ scalarFrame .smul ∧ scalarFrame .smulh ∧ scalarFrame .sdiv ∧
  scalarFrame .srem ∧ scalarFrame .sand ∧ scalarFrame .sor ∧ scalarFrame .sxor ∧ scalarFrame .sandn ∧ scalarFrame .sshl ∧
  scalarFrame .sshr ∧ scalarFrame .ssra ∧ scalarFrame .srot ∧ scalarFrame .smin ∧ scalarFrame .smax ∧ scalarFrame .spopc ∧
  scalarFrame .sclz ∧ scalarFrame .ssel ∧ scalarFrame .smov ∧ scalarFrame .sli ∧ scalarFrame .sbfx ∧ scalarFrame .sbfi ∧
  scalarFrame .pcnt ∧ scalarFrame .vballot ∧
  vectorFrame .vshfl ∧ vectorFrame .vperm ∧ vectorFrame .vadd ∧ vectorFrame .vsub ∧ vectorFrame .vmul ∧ vectorFrame .vmad ∧
  vectorFrame .vabs ∧ vectorFrame .vneg ∧ vectorFrame .vmulh ∧ vectorFrame .vmin ∧ vectorFrame .vmax ∧ vectorFrame .vand ∧
  vectorFrame .vor ∧ vectorFrame .vxor ∧ vectorFrame .vandn ∧ vectorFrame .vmov ∧ vectorFrame .vbcast ∧ vectorFrame .vsel ∧
  vectorFrame .vshl ∧ vectorFrame .vshr ∧ vectorFrame .vsra ∧ vectorFrame .vclz ∧ vectorFrame .vpopc ∧ vectorFrame .fadd ∧
  vectorFrame .fsub ∧ vectorFrame .fmul ∧ vectorFrame .ffma ∧ vectorFrame .fdiv ∧ vectorFrame .fsqrt ∧ vectorFrame .fmin ∧
  vectorFrame .fmax ∧ vectorFrame .fabs ∧ vectorFrame .fneg ∧ vectorFrame .fcvt ∧ vectorFrame .icvt ∧
  predFrame .scmp ∧ predFrame .pand ∧ predFrame .por ∧ predFrame .pxor ∧ predFrame .pnot ∧ predFrame .pmov ∧ predFrame .pany ∧
  predFrame .pall ∧ predFrame .vcmp ∧ predFrame .fcmp

/-- R4, R25, R51, R253, R254, R310, R362, R363: a step takes a turn; an issue turn of a core lets the slot that the barrel picks run the instruction that
its word decodes to, an encoding that is none be its trap, or a pending asynchronous trap be taken first; an event turn is its event.
A slot that is selected spends its turn, and has none in the next three cycles; until the compute dies are released a turn gives nothing but
Configuration Request Retry Status, and without power the machine stops.
A core's cycle rises with every such turn, and a slot issues only from its own ready cycle on (R11); while a gang switch stops
selection, only what stands in a push goes on (R275).
The model's choices that it rests on: log 1. -/
def Obligations.StepRunsDecodedInstruction : Prop :=
  (∀ (s : State) (t : Turn) (rest : List Turn) (c n : Nat), s.site.powered = true → s.site.booted = true →
    s.inputs = t :: rest → t.act = .issue c →
    let q := prepare { s with inputs := rest } t
    let r := { q with
      core := c
      slot := n
      pkg := spendTurn q.pkg c n }
    (pickSlot q c = none → step s = .next q) ∧
    (pickSlot q c = some n → (asyncReady (partOf q.pkg c) n = false ∨ selects (coreOf q.pkg c) = false) →
      (∀ i : Instr, decode (textWord q.pkg c (slotOf (partOf q.pkg c) n).pc) = .ok i → step s = exec i r) ∧
      (∀ e : Reject, decode (textWord q.pkg c (slotOf (partOf q.pkg c) n).pc) = .error e →
        step s = exec (.unassignedEncodingIssue e) r)) ∧
    (pickSlot q c = some n → asyncReady (partOf q.pkg c) n = true → selects (coreOf q.pkg c) = true →
      step s = .next { r with pkg := takeAsync r.pkg q.time c })) ∧
  (∀ (s : State) (t : Turn) (rest : List Turn) (e : Instr), s.site.powered = true → s.site.booted = true →
    s.inputs = t :: rest → t.act = .event e →
    (e.isWord = false → badEncoding e = false → step s = exec e (prepare { s with inputs := rest } t)) ∧
    (e.isWord = true ∨ badEncoding e = true → step s = .next (prepare { s with inputs := rest } t))) ∧
  (∀ (s : State) (t : Turn) (rest : List Turn), s.inputs = t :: rest → isPowerOn t.act = false →
    (s.site.powered = false → step s = .fault .poweredOff) ∧
    (s.site.powered = true → s.site.booted = false → step s = .next { s with
      inputs := rest
      site := answerConfigs s.site t })) ∧
  (∀ (x : Site) (t : Turn), ∃ l : List Bool, answerConfigs x t = { x with configs := x.configs ++ l } ∧
    l.length = (t.moves.filter (fun m => decide (m = .config))).length ∧ ∀ b ∈ l, b = x.booted) ∧
  (∀ (p : Pkg) (c n : Nat),
    let x := coreOf p c
    let y := coreOf (spendTurn p c n) c
    y.last = n ∧ x.cycle + 4 ≤ (slotOf y.part n).readyAt ∧ y.part = { x.part with slots := y.part.slots } ∧
    ∀ m : Nat, m ≠ n → slotOf y.part m = slotOf x.part m) ∧
  (∀ (s : State) (t : Turn), (prepare s t).time = s.time + t.dt ∧ (prepare s t).turn = t ∧ (prepare s t).site = answerConfigs s.site t) ∧
  (∀ (t : Turn) (x : Core), x.cycle < (nextCycle t x).cycle) ∧
  (∀ (s : State) (c n : Nat), pickSlot s c = some n → slotReady s c n = true ∧ n < slotCount (partOf s.pkg c).mode ∧
    (slotOf (partOf s.pkg c) n).live = true ∧ (slotOf (partOf s.pkg c) n).readyAt ≤ (coreOf s.pkg c).cycle ∧
    (coreOf s.pkg c).fenced = none ∧ (selects (coreOf s.pkg c) = true ∨
      ((coreOf s.pkg c).switching = true ∧ inPush (slotOf (partOf s.pkg c) n).hold = true)))

/-- R25, R26, R31, R33, R35: decoding and encoding agree: every well-formed instruction decodes from its word with every operand and
field, and a word that decodes is the word of what it decodes to. -/
def Obligations.DecodeOfEncode : Prop :=
  (∀ i : Instr, i.isWord = true → i.wf = true →
    decodeWord (encode i) = .ok i ∧ decode (bytesOfWord (encode i)) = .ok i) ∧
  (∀ (w : BitVec 96) (i : Instr), decodeWord w = .ok i → i.isWord = true ∧ i.wf = true ∧ encode i = w)

/-- R35, R44 and the worked encodings of chapters 2, 3, 5, 6 and 9: their words decode to the instructions they stand for; the three
refused words of chapter 3 are refused as it says. -/
def Obligations.WorkedWordsDecode : Prop :=
  decodeWord (word 0x10002D04 0x00050006 0xFFFFFFE8) =
    .ok (.sadd ⟨0, true, 3, 2, false, false, false, .s 5, .s 6, .imm 0xFFFFFFE8⟩) ∧
  wordOfBytes [0xE8, 0xFF, 0xFF, 0xFF, 0x06, 0x00, 0x05, 0x00, 0x04, 0x2D, 0x00, 0x10] = word 0x10002D04 0x00050006 0xFFFFFFE8 ∧
  decodeWord (word 0x1A801C08 0x0003F000 0) = .ok (.smov (fieldsOf 0 (.s 3) .none (.win 0 0))) ∧
  decodeWord (word 0x71809C00 0x80030007 0x1004) = .ok (.stv (fieldsOf 2 (.lay 3) (.s 7) (.desc (.v 4)))) ∧
  decodeWord (word 0x714C1C00 0x80050008 9) = .ok (.st (fieldsOf 0x130 (.lay 5) (.s 8) (.desc (.s 9)))) ∧
  decodeWord (word 0x04801C00 0xF000F000 0xF000) = .error .illegal ∧
  decodeWord (word 0x70601C00 0x00038002 4) = .error .illegal ∧
  decodeWord (word 0xB3001C00 0xF0001002 0xF000) = .error (.operandClass .supervisor) ∧
  decodeWord (word 0x01001C04 0xF000F000 0xFFFFFFDC) = .ok (.bra (fieldsOf 0 .none .none (.imm 0xFFFFFFDC))) ∧
  decodeWord (word 0x39801C0C 0x1000F000 0x3E000000) = .ok (.vbcast (fieldsOf 0 (.v 0) .none (.fimm 0x3E000000))) ∧
  decodeWord (word 0x45021C0C 0x20021003 0) = .ok (.fcmp (fieldsOf 8 (.p 2) (.v 3) (.fimm 0))) ∧
  decodeWord (word 0x4100080C 0x10031003 0x3C23D70A) =
    .ok (.fmul ⟨0, false, 2, 0, false, false, false, .v 3, .v 3, .fimm 0x3C23D70A⟩) ∧
  decodeWord (word 0x25021C00 0x00051000 0xF000) = .ok (.vreda (fieldsOf 8 (.s 5) (.v 0) (.desc .none))) ∧
  decodeWord (word 0x50305C00 0x1003F000 0x1000) = .ok (.fcvt (fieldsOf 0xC1 (.v 3) .none (.desc (.v 0)))) ∧
  decodeWord (word 0x53001C00 0x10081000 3) = .ok (.lqnt (fieldsOf 0 (.v 8) (.v 0) (.desc (.s 3)))) ∧
  decodeWord (word 0x60001C00 0x70008000 0x8001) = .ok (.mma (fieldsOf 0 (.a 0) (.lay 0) (.desc (.lay 1)))) ∧
  decodeWord (word 0x63005C00 0x80098008 0x14) = .ok (.seam (fieldsOf 1 (.lay 9) (.lay 8) (.desc (.s 20)))) ∧
  decodeWord (word 0x70541C00 0x00048004 12) = .ok (.ld (fieldsOf 0x150 (.s 4) (.lay 4) (.desc (.s 12)))) ∧
  decodeWord (word 0x720C1C00 0xF000F000 0xF000) = .ok (.fence (fieldsOf 0x030 .none .none (.desc .none))) ∧
  decodeWord (word 0x8500DC00 0x80030005 0x1006) = .ok (.rred (fieldsOf 3 (.lay 3) (.s 5) (.desc (.v 6)))) ∧
  decodeWord (word 0x83001C04 0xF0000010 7) = .ok (.amsg (fieldsOf 0 .none (.s 16) (.imm 7)))

/-- R18, R233, R234, R365: the links stay legal over every step: each keeps its sixteen bundles, at least two of them in each direction,
and a turn queue of at most eight commands. -/
def Obligations.LinksStayLegal : Prop :=
  ∀ s t : State, linksLegal s → step s = .next t → linksLegal t

/-- R21, R154, R233, R237, R249, R256, R284, R299, R335, R355, R360, R362: the machine after reset: the counter at 0, no team on any core and no context in any slot, no
record at any level, nothing in flight; the package registers at the values that the rules give; eight bundles of each link in each
direction, under the demand split; device memory in its canonical form.
The model's choices that it rests on: log 4 (the key slots are empty), log 8. -/
def Obligations.ResetState : Prop :=
  (∀ c n : Nat, (partOf State.reset.pkg c).team = none ∧ (slotOf (partOf State.reset.pkg c) n).live = false ∧
    (coreOf State.reset.pkg c).fenced = none ∧ (coreOf State.reset.pkg c).nextTeam = 0) ∧
  (∀ lvl n k : Nat, chainOf (instOf State.reset.pkg lvl n) k = [] ∧ (instOf State.reset.pkg lvl n).copies = [] ∧
    (instOf State.reset.pkg lvl n).horizons = []) ∧
  State.reset.time = 0 ∧ State.reset.pkg.regs.asidtab = 0 ∧
  (∀ n q : Nat, mapGet 0 (clusterOf State.reset.pkg n).ovfcap q = 0 ∧ queueOf State.reset.pkg n q = []) ∧
  State.reset.pkg.net = [] ∧ State.reset.pkg.retained = [] ∧ State.reset.pkg.portWrites = [] ∧ (∀ n : Nat, keyFull State.reset.pkg n = false) ∧
  State.reset.pkg.nextFid = 1 ∧
  State.reset.pkg.regs.fenceint = 10000000 ∧ State.reset.pkg.regs.lnuser = 15 ∧ State.reset.pkg.regs.cpsem = 0 ∧
  podSize State.reset.pkg = 1 ∧ (∀ n : Nat, mapGet 0 State.reset.pkg.regs.crgn n = 0) ∧
  (∀ l ∈ State.reset.site.links, linkFwd l = 8 ∧ l.demand = true ∧ l.queue = []) ∧ linksLegal State.reset ∧
  Memory.wf State.reset.pkg.dram
end

