-- ==== Sys2Proof/Laws/Codec.lean ====
section
/-!
SUPPORT. The decoder undoes the encoder on operands and on B fields.
-/
namespace Sys2Proof

theorem encodeOpd_lt (o : Opd) : encodeOpd o < 65536 := by
  cases o with
  | s r => have := r.isLt; simp only [encodeOpd]; omega
  | v r => have := r.isLt; simp only [encodeOpd]; omega
  | p r => have := r.isLt; simp only [encodeOpd]; omega
  | qc q w o => have := q.isLt; have := w.isLt; have := o.isLt; simp only [encodeOpd]; omega
  | qp q w o => have := q.isLt; have := w.isLt; have := o.isLt; simp only [encodeOpd]; omega
  | m ch b w => have := ch.isLt; have := w.isLt; simp only [encodeOpd]; split <;> omega
  | csr n => have := n.isLt; simp only [encodeOpd]; omega
  | a t => have := t.isLt; simp only [encodeOpd]; omega
  | lay e => have := e.isLt; simp only [encodeOpd]; omega
  | none => simp [encodeOpd]

/-- R33: an operand decodes from its descriptor bits. -/
theorem decodeOpd_encodeOpd (o : Opd) : decodeOpd (BitVec.ofNat 16 (encodeOpd o)) = some o := by
  cases o with
  | s r => revert r; decide
  | v r => revert r; decide
  | p r => revert r; decide
  | qc q w o =>
    have hq := q.isLt; have hw := w.isLt; have ho := o.isLt
    have h1 : (0x3000 + q.toNat * 512 + w.toNat * 32 + o.toNat) % 2 ^ 16 / 4096 = 3 := by omega
    have h2 : (0x3000 + q.toNat * 512 + w.toNat * 32 + o.toNat) % 2 ^ 16 % 4096 = q.toNat * 512 + w.toNat * 32 + o.toNat := by omega
    simp only [decodeOpd, encodeOpd, BitVec.toNat_ofNat, h1, h2, Option.some.injEq, Opd.qc.injEq]
    refine ⟨?_, ?_, ?_⟩ <;> apply BitVec.eq_of_toNat_eq <;> simp only [BitVec.toNat_ofNat] <;> omega
  | qp q w o =>
    have hq := q.isLt; have hw := w.isLt; have ho := o.isLt
    have h1 : (0x4000 + q.toNat * 512 + w.toNat * 32 + o.toNat) % 2 ^ 16 / 4096 = 4 := by omega
    have h2 : (0x4000 + q.toNat * 512 + w.toNat * 32 + o.toNat) % 2 ^ 16 % 4096 = q.toNat * 512 + w.toNat * 32 + o.toNat := by omega
    simp only [decodeOpd, encodeOpd, BitVec.toNat_ofNat, h1, h2, Option.some.injEq, Opd.qp.injEq]
    refine ⟨?_, ?_, ?_⟩ <;> apply BitVec.eq_of_toNat_eq <;> simp only [BitVec.toNat_ofNat] <;> omega
  | m ch b w => revert ch b w; decide
  | csr n =>
    have hn := n.isLt
    have h1 : (0x6000 + n.toNat) % 2 ^ 16 / 4096 = 6 := by omega
    have h2 : (0x6000 + n.toNat) % 2 ^ 16 % 4096 = n.toNat := by omega
    simp only [decodeOpd, encodeOpd, BitVec.toNat_ofNat, h1, h2, Option.some.injEq, Opd.csr.injEq]
    simp
  | a t => revert t; decide
  | lay e => revert e; decide
  | none => decide

/-- R31: a B field decodes from its kind and its bits. -/
theorem decodeB_encodeB (b : BOpd) : decodeB (encodeB b).1 (encodeB b).2 = some b := by
  cases b with
  | desc o => simp [decodeB, encodeB, encodeOpd_lt o, decodeOpd_encodeOpd o]
  | imm v => simp [decodeB, encodeB]
  | win k off =>
    have hk := k.isLt; have ho := off.isLt
    have h1 : k.toNat * 131072 + off.toNat < 1048576 := by omega
    simp only [decodeB, encodeB, h1, if_true, Option.some.injEq, BOpd.win.injEq]
    refine ⟨?_, ?_⟩ <;> apply BitVec.eq_of_toNat_eq <;> simp only [BitVec.toNat_ofNat] <;> omega
  | fimm v => simp [decodeB, encodeB]

end Sys2Proof
end

