-- ==== Sys2Proof/Laws/Issue.lean ====
section
/-!
SUPPORT. What the issue of an instruction word can do, said once: a ready word whose guard passes has its effect; a false guard
only advances; a refused check traps; what follows each outcome.
-/
namespace Sys2Proof.Machine

theorem cxOf_core (s : State) : (cxOf s).core = s.core := rfl
theorem cxOf_slot (s : State) : (cxOf s).slot = s.slot := rfl
theorem cxOf_now (s : State) : (cxOf s).now = s.time := rfl

theorem curSlot_eq (s : State) : curSlot s.pkg (cxOf s) = s.cur := rfl

/-- Before the end of the text an instruction that leaves the pc elsewhere settles as any other (R85). -/
theorem settle_leaving {p : Pkg} {cx : Cx} {f : Fields} (c : Nat) (e : Eff)
    (h : (slotOf (partOf p cx.core) cx.slot).pc + 12 < textSizeOf p cx.core) :
    settle p cx f (leaving c e) = settle p cx f e := by
  cases e <;> simp only [leaving] <;> split <;> simp [settle, Nat.not_le.mpr h]

/-- A word that is ready comes to its guard. -/
theorem issue_of_ready {i : Instr} {c : Nat} {f : Fields} {g : Guarding} {body : Fields → Cx → Pkg → Eff} {s : State}
    (hw : i.word = some (c, f)) (hr : readyWord s c f = true) :
    issue i g body s = .next (s.with (settle s.pkg (cxOf s) f
      (if guardPasses g s.cur f = false then .done s.pkg
       else leaving c (if windowOk s.pkg s.core f.b = false then .late (bareTrap causeBounds (cxOf s))
         else body f (cxOf s) s.pkg)))) := by
  simp only [readyWord, Bool.and_eq_true, Bool.or_eq_true, decide_eq_true_eq, Option.isNone_iff_eq_none, rightHeld] at hr
  obtain ⟨⟨⟨⟨⟨⟨⟨⟨hl, hh⟩, hreg⟩, hri⟩, hst⟩, hsb⟩, hop⟩, hck⟩, hrel⟩ := hr
  rcases hrow : rowOf c with _ | row
  · simp [hrow] at hri
  rw [hrow] at hri
  simp only [State.cur, State.part] at hl hh hreg hri hst hsb hop hck hrel
  have hreg' : ¬ ((slotOf (partOf s.pkg s.core) s.slot).region.isSome = true ∧ c ≠ 0x0EA) := by
    rintro ⟨h1, h2⟩
    rcases hreg with h | h
    · simp [h] at h1
    · exact h2 h
  have hrel' : ((slotOf (partOf s.pkg s.core) s.slot).rels.isEmpty || passesRelease c f) = true := by
    simpa only [Bool.or_eq_true] using hrel
  simp only [issue, hw, issueP, attempt, cxOf_core, cxOf_slot, State.with, State.cur, State.part, hl, hh, hrow, hri,
    hst, hsb, hop, fresh, hck, if_neg hreg', hrel', if_true]
  rfl

/-- A word that runs has its effect. -/
theorem issue_of_runs {i : Instr} {c : Nat} {f : Fields} {g : Guarding} {body : Fields → Cx → Pkg → Eff} {s : State}
    (hw : i.word = some (c, f)) (h : runs i g s = true) :
    issue i g body s = .next (s.with (settle s.pkg (cxOf s) f (body f (cxOf s) s.pkg))) := by
  simp only [runs, hw, Bool.and_eq_true, inBounds] at h
  rw [issue_of_ready hw h.1.1, if_neg (by simp [h.1.2]), settle_leaving (p := s.pkg) (cx := cxOf s) c _ (decide_eq_true_eq.mp h.2.2)]
  simp [h.2.1]

theorem settle_done {p q : Pkg} {cx : Cx} {f : Fields} (h : (slotOf (partOf p cx.core) cx.slot).pc + 12 < textSizeOf p cx.core) :
    settle p cx f (.done q) = goTo (markIssued q cx f) cx ((slotOf (partOf p cx.core) cx.slot).pc + 12) := by
  simp [settle, Nat.not_le.mpr h]

theorem inText_of_runs {i : Instr} {c : Nat} {f : Fields} {g : Guarding} {s : State}
    (hw : i.word = some (c, f)) (h : runs i g s = true) : s.cur.pc + 12 < textSizeOf s.pkg s.core := by
  simp only [runs, hw, Bool.and_eq_true, inBounds, decide_eq_true_eq] at h
  exact h.2.2

/-- A word that runs and is done makes the state `advance`. -/
theorem issue_done {i : Instr} {c : Nat} {f : Fields} {g : Guarding} {body : Fields → Cx → Pkg → Eff} {s : State} {q : Pkg}
    (hw : i.word = some (c, f)) (h : runs i g s = true) (hb : body f (cxOf s) s.pkg = .done q) :
    issue i g body s = .next (advance s f q) := by
  rw [issue_of_runs hw h, hb, settle_done (p := s.pkg) (cx := cxOf s) (inText_of_runs hw h)]
  rfl

/-- A false guard leaves the package as it is, but for the next pc. -/
theorem issue_guard_false {i : Instr} {c : Nat} {f : Fields} {g : Guarding} {body : Fields → Cx → Pkg → Eff} {s : State}
    (hw : i.word = some (c, f)) (hr : readyWord s c f = true) (hg : guardPasses g s.cur f = false)
    (ht : s.cur.pc + 12 < textSizeOf s.pkg s.core) : issue i g body s = .next (advance s f s.pkg) := by
  rw [issue_of_ready hw hr, if_pos hg, settle_done (p := s.pkg) (cx := cxOf s) ht]
  rfl

end Sys2Proof.Machine
end

