-- ==== Sys2Proof/Laws/SMap.lean ====
section
/-!
SUPPORT. The laws of sparse maps: a write is read back, leaves every other key alone, and keeps the canonical form.
-/
namespace Sys2Proof.Machine

variable {β : Type}

@[simp] theorem mapFind_nil (k : Nat) : mapFind ([] : SMap β) k = none := rfl

@[simp] theorem mapFind_cons (k' : Nat) (v : β) (m : SMap β) (k : Nat) :
    mapFind ((k', v) :: m) k = if k' = k then some v else mapFind m k := rfl

@[simp] theorem mapFind_insert_self (m : SMap β) (k : Nat) (v : β) : mapFind (mapInsert m k v) k = some v := by
  induction m with
  | nil => simp [mapInsert]
  | cons e m ih =>
    obtain ⟨k', v'⟩ := e
    rcases lt_trichotomy k k' with h | rfl | h
    · simp [mapInsert, h]
    · simp [mapInsert]
    · have h1 : ¬ k < k' := by omega
      have h2 : k ≠ k' := by omega
      simp [mapInsert, h1, h2, h2.symm, ih]

theorem mapFind_insert_other (m : SMap β) {k j : Nat} (v : β) (h : j ≠ k) :
    mapFind (mapInsert m k v) j = mapFind m j := by
  induction m with
  | nil => simp [mapInsert, h.symm]
  | cons e m ih =>
    obtain ⟨k', v'⟩ := e
    simp only [mapInsert]
    split
    · simp [h.symm]
    · split
      · rename_i h1 h2; subst h2; simp [h.symm]
      · simp [ih]

theorem mapFind_erase_other (m : SMap β) {k j : Nat} (h : j ≠ k) : mapFind (mapErase m k) j = mapFind m j := by
  induction m with
  | nil => rfl
  | cons e m ih =>
    obtain ⟨k', v'⟩ := e
    simp only [mapErase]
    split
    · rename_i h1; subst h1; simp [h.symm]
    · simp [ih]

@[simp] theorem mapGet_insert_self (d : β) (m : SMap β) (k : Nat) (v : β) : mapGet d (mapInsert m k v) k = v := by
  simp [mapGet]

theorem mapGet_insert_other (d : β) (m : SMap β) {k j : Nat} (v : β) (h : j ≠ k) :
    mapGet d (mapInsert m k v) j = mapGet d m j := by simp [mapGet, mapFind_insert_other m v h]

theorem mapGet_put_other [DecidableEq β] (d : β) (m : SMap β) {k j : Nat} (v : β) (h : j ≠ k) :
    mapGet d (mapPut d m k v) j = mapGet d m j := by
  simp only [mapPut]
  split
  · simp [mapGet, mapFind_erase_other m h]
  · exact mapGet_insert_other d m v h

theorem mapFind_of_sorted_lt {m : SMap β} {lo k : Nat} (h : mapSorted lo m = true) (hk : k < lo) : mapFind m k = none := by
  induction m generalizing lo with
  | nil => rfl
  | cons e m ih =>
    obtain ⟨k', v'⟩ := e
    simp only [mapSorted, Bool.and_eq_true, decide_eq_true_eq] at h
    have : k' ≠ k := by omega
    simp [this, ih h.2 (by omega)]

theorem mapFind_erase_self {m : SMap β} {lo : Nat} (h : mapSorted lo m = true) (k : Nat) :
    mapFind (mapErase m k) k = none := by
  induction m generalizing lo with
  | nil => rfl
  | cons e m ih =>
    obtain ⟨k', v'⟩ := e
    simp only [mapSorted, Bool.and_eq_true, decide_eq_true_eq] at h
    simp only [mapErase]
    split
    · rename_i h1; subst h1; exact mapFind_of_sorted_lt h.2 (by omega)
    · rename_i h1; simp [h1, ih h.2]

/-- A value written is read back. -/
theorem mapGet_put_self [DecidableEq β] (d : β) {m : SMap β} {lo : Nat} (h : mapSorted lo m = true) (k : Nat) (v : β) :
    mapGet d (mapPut d m k v) k = v := by
  simp only [mapPut]
  split
  · rename_i hv; subst hv; simp [mapGet, mapFind_erase_self h]
  · simp

theorem mapSorted_mono {m : SMap β} {lo lo' : Nat} (h : mapSorted lo m = true) (hl : lo' ≤ lo) : mapSorted lo' m = true := by
  cases m with
  | nil => rfl
  | cons e m =>
    obtain ⟨k', v'⟩ := e
    simp only [mapSorted, Bool.and_eq_true, decide_eq_true_eq] at h ⊢
    exact ⟨by omega, h.2⟩

theorem mapSorted_insert {m : SMap β} {lo : Nat} (h : mapSorted lo m = true) {k : Nat} (hk : lo ≤ k) (v : β) :
    mapSorted lo (mapInsert m k v) = true := by
  induction m generalizing lo with
  | nil => simp [mapInsert, mapSorted, hk]
  | cons e m ih =>
    obtain ⟨k', v'⟩ := e
    simp only [mapSorted, Bool.and_eq_true, decide_eq_true_eq] at h
    simp only [mapInsert]
    split
    · rename_i h1
      simp only [mapSorted, Bool.and_eq_true, decide_eq_true_eq]
      exact ⟨hk, by omega, h.2⟩
    · split
      · rename_i h1 h2
        subst h2
        simp only [mapSorted, Bool.and_eq_true, decide_eq_true_eq]
        exact ⟨hk, h.2⟩
      · rename_i h1 h2
        simp only [mapSorted, Bool.and_eq_true, decide_eq_true_eq]
        exact ⟨h.1, ih h.2 (by omega)⟩

theorem mapSorted_erase {m : SMap β} {lo : Nat} (h : mapSorted lo m = true) (k : Nat) : mapSorted lo (mapErase m k) = true := by
  induction m generalizing lo with
  | nil => rfl
  | cons e m ih =>
    obtain ⟨k', v'⟩ := e
    simp only [mapSorted, Bool.and_eq_true, decide_eq_true_eq] at h
    simp only [mapErase]
    split
    · exact mapSorted_mono h.2 (by omega)
    · simp only [mapSorted, Bool.and_eq_true, decide_eq_true_eq]
      exact ⟨h.1, ih h.2⟩

theorem mem_of_mem_mapInsert {m : SMap β} {k : Nat} {v : β} {e : Nat × β} (h : e ∈ mapInsert m k v) :
    e = (k, v) ∨ e ∈ m := by
  induction m with
  | nil => simpa [mapInsert] using h
  | cons a m ih =>
    obtain ⟨k', v'⟩ := a
    simp only [mapInsert] at h
    split at h
    · simpa using h
    · split at h
      · rename_i h1 h2; subst h2
        simp only [List.mem_cons] at h ⊢; tauto
      · simp only [List.mem_cons] at h ⊢
        rcases h with h | h
        · exact .inr (.inl h)
        · rcases ih h with h | h
          · exact .inl h
          · exact .inr (.inr h)

theorem mem_of_mem_mapErase {m : SMap β} {k : Nat} {e : Nat × β} (h : e ∈ mapErase m k) : e ∈ m := by
  induction m with
  | nil => simp [mapErase] at h
  | cons a m ih =>
    obtain ⟨k', v'⟩ := a
    simp only [mapErase] at h
    split at h
    · exact List.mem_cons_of_mem _ h
    · simp only [List.mem_cons] at h ⊢
      rcases h with h | h
      · exact .inl h
      · exact .inr (ih h)

/-- A write keeps the canonical form. -/
theorem mapWf_put [DecidableEq β] {d : β} {m : SMap β} (h : mapWf d m = true) (k : Nat) (v : β) :
    mapWf d (mapPut d m k v) = true := by
  simp only [mapWf, Bool.and_eq_true, List.all_eq_true, decide_eq_true_eq] at h ⊢
  simp only [mapPut]
  split
  · exact ⟨mapSorted_erase h.1 k, fun e he => h.2 e (mem_of_mem_mapErase he)⟩
  · rename_i hv
    refine ⟨mapSorted_insert h.1 (Nat.zero_le k) v, fun e he => ?_⟩
    rcases mem_of_mem_mapInsert he with rfl | he
    · exact hv
    · exact h.2 e he

theorem mapWf_nil [DecidableEq β] (d : β) : mapWf d ([] : SMap β) = true := rfl

end Sys2Proof.Machine
end

