-- ==== Sys2Proof/Laws/State.lean ====
section
/-!
SUPPORT. What the updates of the state leave: one lemma for each field that an update does not write.
-/
namespace Sys2Proof.Machine

@[simp] theorem setCore_insts (p : Pkg) (c : Nat) (k : Core) : (setCore p c k).insts = p.insts := rfl
@[simp] theorem setCore_dram (p : Pkg) (c : Nat) (k : Core) : (setCore p c k).dram = p.dram := rfl
@[simp] theorem setCore_seals (p : Pkg) (c : Nat) (k : Core) : (setCore p c k).seals = p.seals := rfl
@[simp] theorem setCore_badGran (p : Pkg) (c : Nat) (k : Core) : (setCore p c k).badGran = p.badGran := rfl
@[simp] theorem setCore_clusters (p : Pkg) (c : Nat) (k : Core) : (setCore p c k).clusters = p.clusters := rfl
@[simp] theorem setCore_net (p : Pkg) (c : Nat) (k : Core) : (setCore p c k).net = p.net := rfl
@[simp] theorem setCore_parked (p : Pkg) (c : Nat) (k : Core) : (setCore p c k).parked = p.parked := rfl
@[simp] theorem setCore_outbox (p : Pkg) (c : Nat) (k : Core) : (setCore p c k).outbox = p.outbox := rfl
@[simp] theorem setCore_portsDown (p : Pkg) (c : Nat) (k : Core) : (setCore p c k).portsDown = p.portsDown := rfl
@[simp] theorem setCore_farRegions (p : Pkg) (c : Nat) (k : Core) : (setCore p c k).farRegions = p.farRegions := rfl
@[simp] theorem setCore_unreachable (p : Pkg) (c : Nat) (k : Core) : (setCore p c k).unreachable = p.unreachable := rfl
@[simp] theorem setCore_keys (p : Pkg) (c : Nat) (k : Core) : (setCore p c k).keys = p.keys := rfl
@[simp] theorem setCore_keyGen (p : Pkg) (c : Nat) (k : Core) : (setCore p c k).keyGen = p.keyGen := rfl
@[simp] theorem setCore_pkgKey (p : Pkg) (c : Nat) (k : Core) : (setCore p c k).pkgKey = p.pkgKey := rfl
@[simp] theorem setCore_images (p : Pkg) (c : Nat) (k : Core) : (setCore p c k).images = p.images := rfl
@[simp] theorem setCore_groups (p : Pkg) (c : Nat) (k : Core) : (setCore p c k).groups = p.groups := rfl
@[simp] theorem setCore_pod (p : Pkg) (c : Nat) (k : Core) : (setCore p c k).pod = p.pod := rfl
@[simp] theorem setCore_saves (p : Pkg) (c : Nat) (k : Core) : (setCore p c k).saves = p.saves := rfl
@[simp] theorem setCore_lostResumes (p : Pkg) (c : Nat) (k : Core) : (setCore p c k).lostResumes = p.lostResumes := rfl
@[simp] theorem setCore_portWrites (p : Pkg) (c : Nat) (k : Core) : (setCore p c k).portWrites = p.portWrites := rfl
@[simp] theorem setCore_orphans (p : Pkg) (c : Nat) (k : Core) : (setCore p c k).orphans = p.orphans := rfl
@[simp] theorem setCore_regs (p : Pkg) (c : Nat) (k : Core) : (setCore p c k).regs = p.regs := rfl
@[simp] theorem setCore_nextFid (p : Pkg) (c : Nat) (k : Core) : (setCore p c k).nextFid = p.nextFid := rfl
@[simp] theorem setCore_evSeq (p : Pkg) (c : Nat) (k : Core) : (setCore p c k).evSeq = p.evSeq := rfl
@[simp] theorem setCore_portOut (p : Pkg) (c : Nat) (k : Core) : (setCore p c k).portOut = p.portOut := rfl
@[simp] theorem setCore_darns (p : Pkg) (c : Nat) (k : Core) : (setCore p c k).darns = p.darns := rfl
@[simp] theorem setCore_loader (p : Pkg) (c : Nat) (k : Core) : (setCore p c k).loader = p.loader := rfl
@[simp] theorem setCore_retained (p : Pkg) (c : Nat) (k : Core) : (setCore p c k).retained = p.retained := rfl
@[simp] theorem setCore_freeNo (p : Pkg) (c : Nat) (k : Core) : (setCore p c k).freeNo = p.freeNo := rfl
@[simp] theorem updCore_insts (p : Pkg) (c : Nat) (g : Core → Core) : (updCore p c g).insts = p.insts := rfl
@[simp] theorem updCore_dram (p : Pkg) (c : Nat) (g : Core → Core) : (updCore p c g).dram = p.dram := rfl
@[simp] theorem updCore_seals (p : Pkg) (c : Nat) (g : Core → Core) : (updCore p c g).seals = p.seals := rfl
@[simp] theorem updCore_badGran (p : Pkg) (c : Nat) (g : Core → Core) : (updCore p c g).badGran = p.badGran := rfl
@[simp] theorem updCore_clusters (p : Pkg) (c : Nat) (g : Core → Core) : (updCore p c g).clusters = p.clusters := rfl
@[simp] theorem updCore_net (p : Pkg) (c : Nat) (g : Core → Core) : (updCore p c g).net = p.net := rfl
@[simp] theorem updCore_parked (p : Pkg) (c : Nat) (g : Core → Core) : (updCore p c g).parked = p.parked := rfl
@[simp] theorem updCore_outbox (p : Pkg) (c : Nat) (g : Core → Core) : (updCore p c g).outbox = p.outbox := rfl
@[simp] theorem updCore_portsDown (p : Pkg) (c : Nat) (g : Core → Core) : (updCore p c g).portsDown = p.portsDown := rfl
@[simp] theorem updCore_farRegions (p : Pkg) (c : Nat) (g : Core → Core) : (updCore p c g).farRegions = p.farRegions := rfl
@[simp] theorem updCore_unreachable (p : Pkg) (c : Nat) (g : Core → Core) : (updCore p c g).unreachable = p.unreachable := rfl
@[simp] theorem updCore_keys (p : Pkg) (c : Nat) (g : Core → Core) : (updCore p c g).keys = p.keys := rfl
@[simp] theorem updCore_keyGen (p : Pkg) (c : Nat) (g : Core → Core) : (updCore p c g).keyGen = p.keyGen := rfl
@[simp] theorem updCore_pkgKey (p : Pkg) (c : Nat) (g : Core → Core) : (updCore p c g).pkgKey = p.pkgKey := rfl
@[simp] theorem updCore_images (p : Pkg) (c : Nat) (g : Core → Core) : (updCore p c g).images = p.images := rfl
@[simp] theorem updCore_groups (p : Pkg) (c : Nat) (g : Core → Core) : (updCore p c g).groups = p.groups := rfl
@[simp] theorem updCore_pod (p : Pkg) (c : Nat) (g : Core → Core) : (updCore p c g).pod = p.pod := rfl
@[simp] theorem updCore_saves (p : Pkg) (c : Nat) (g : Core → Core) : (updCore p c g).saves = p.saves := rfl
@[simp] theorem updCore_lostResumes (p : Pkg) (c : Nat) (g : Core → Core) : (updCore p c g).lostResumes = p.lostResumes := rfl
@[simp] theorem updCore_portWrites (p : Pkg) (c : Nat) (g : Core → Core) : (updCore p c g).portWrites = p.portWrites := rfl
@[simp] theorem updCore_orphans (p : Pkg) (c : Nat) (g : Core → Core) : (updCore p c g).orphans = p.orphans := rfl
@[simp] theorem updCore_regs (p : Pkg) (c : Nat) (g : Core → Core) : (updCore p c g).regs = p.regs := rfl
@[simp] theorem updCore_nextFid (p : Pkg) (c : Nat) (g : Core → Core) : (updCore p c g).nextFid = p.nextFid := rfl
@[simp] theorem updCore_evSeq (p : Pkg) (c : Nat) (g : Core → Core) : (updCore p c g).evSeq = p.evSeq := rfl
@[simp] theorem updCore_portOut (p : Pkg) (c : Nat) (g : Core → Core) : (updCore p c g).portOut = p.portOut := rfl
@[simp] theorem updCore_darns (p : Pkg) (c : Nat) (g : Core → Core) : (updCore p c g).darns = p.darns := rfl
@[simp] theorem updCore_loader (p : Pkg) (c : Nat) (g : Core → Core) : (updCore p c g).loader = p.loader := rfl
@[simp] theorem updCore_retained (p : Pkg) (c : Nat) (g : Core → Core) : (updCore p c g).retained = p.retained := rfl
@[simp] theorem updCore_freeNo (p : Pkg) (c : Nat) (g : Core → Core) : (updCore p c g).freeNo = p.freeNo := rfl
@[simp] theorem setPart_insts (p : Pkg) (c : Nat) (k : Part) : (setPart p c k).insts = p.insts := rfl
@[simp] theorem setPart_dram (p : Pkg) (c : Nat) (k : Part) : (setPart p c k).dram = p.dram := rfl
@[simp] theorem setPart_seals (p : Pkg) (c : Nat) (k : Part) : (setPart p c k).seals = p.seals := rfl
@[simp] theorem setPart_badGran (p : Pkg) (c : Nat) (k : Part) : (setPart p c k).badGran = p.badGran := rfl
@[simp] theorem setPart_clusters (p : Pkg) (c : Nat) (k : Part) : (setPart p c k).clusters = p.clusters := rfl
@[simp] theorem setPart_net (p : Pkg) (c : Nat) (k : Part) : (setPart p c k).net = p.net := rfl
@[simp] theorem setPart_parked (p : Pkg) (c : Nat) (k : Part) : (setPart p c k).parked = p.parked := rfl
@[simp] theorem setPart_outbox (p : Pkg) (c : Nat) (k : Part) : (setPart p c k).outbox = p.outbox := rfl
@[simp] theorem setPart_portsDown (p : Pkg) (c : Nat) (k : Part) : (setPart p c k).portsDown = p.portsDown := rfl
@[simp] theorem setPart_farRegions (p : Pkg) (c : Nat) (k : Part) : (setPart p c k).farRegions = p.farRegions := rfl
@[simp] theorem setPart_unreachable (p : Pkg) (c : Nat) (k : Part) : (setPart p c k).unreachable = p.unreachable := rfl
@[simp] theorem setPart_keys (p : Pkg) (c : Nat) (k : Part) : (setPart p c k).keys = p.keys := rfl
@[simp] theorem setPart_keyGen (p : Pkg) (c : Nat) (k : Part) : (setPart p c k).keyGen = p.keyGen := rfl
@[simp] theorem setPart_pkgKey (p : Pkg) (c : Nat) (k : Part) : (setPart p c k).pkgKey = p.pkgKey := rfl
@[simp] theorem setPart_images (p : Pkg) (c : Nat) (k : Part) : (setPart p c k).images = p.images := rfl
@[simp] theorem setPart_groups (p : Pkg) (c : Nat) (k : Part) : (setPart p c k).groups = p.groups := rfl
@[simp] theorem setPart_pod (p : Pkg) (c : Nat) (k : Part) : (setPart p c k).pod = p.pod := rfl
@[simp] theorem setPart_saves (p : Pkg) (c : Nat) (k : Part) : (setPart p c k).saves = p.saves := rfl
@[simp] theorem setPart_lostResumes (p : Pkg) (c : Nat) (k : Part) : (setPart p c k).lostResumes = p.lostResumes := rfl
@[simp] theorem setPart_portWrites (p : Pkg) (c : Nat) (k : Part) : (setPart p c k).portWrites = p.portWrites := rfl
@[simp] theorem setPart_orphans (p : Pkg) (c : Nat) (k : Part) : (setPart p c k).orphans = p.orphans := rfl
@[simp] theorem setPart_regs (p : Pkg) (c : Nat) (k : Part) : (setPart p c k).regs = p.regs := rfl
@[simp] theorem setPart_nextFid (p : Pkg) (c : Nat) (k : Part) : (setPart p c k).nextFid = p.nextFid := rfl
@[simp] theorem setPart_evSeq (p : Pkg) (c : Nat) (k : Part) : (setPart p c k).evSeq = p.evSeq := rfl
@[simp] theorem setPart_portOut (p : Pkg) (c : Nat) (k : Part) : (setPart p c k).portOut = p.portOut := rfl
@[simp] theorem setPart_darns (p : Pkg) (c : Nat) (k : Part) : (setPart p c k).darns = p.darns := rfl
@[simp] theorem setPart_loader (p : Pkg) (c : Nat) (k : Part) : (setPart p c k).loader = p.loader := rfl
@[simp] theorem setPart_retained (p : Pkg) (c : Nat) (k : Part) : (setPart p c k).retained = p.retained := rfl
@[simp] theorem setPart_freeNo (p : Pkg) (c : Nat) (k : Part) : (setPart p c k).freeNo = p.freeNo := rfl
@[simp] theorem updPart_insts (p : Pkg) (c : Nat) (g : Part → Part) : (updPart p c g).insts = p.insts := rfl
@[simp] theorem updPart_dram (p : Pkg) (c : Nat) (g : Part → Part) : (updPart p c g).dram = p.dram := rfl
@[simp] theorem updPart_seals (p : Pkg) (c : Nat) (g : Part → Part) : (updPart p c g).seals = p.seals := rfl
@[simp] theorem updPart_badGran (p : Pkg) (c : Nat) (g : Part → Part) : (updPart p c g).badGran = p.badGran := rfl
@[simp] theorem updPart_clusters (p : Pkg) (c : Nat) (g : Part → Part) : (updPart p c g).clusters = p.clusters := rfl
@[simp] theorem updPart_net (p : Pkg) (c : Nat) (g : Part → Part) : (updPart p c g).net = p.net := rfl
@[simp] theorem updPart_parked (p : Pkg) (c : Nat) (g : Part → Part) : (updPart p c g).parked = p.parked := rfl
@[simp] theorem updPart_outbox (p : Pkg) (c : Nat) (g : Part → Part) : (updPart p c g).outbox = p.outbox := rfl
@[simp] theorem updPart_portsDown (p : Pkg) (c : Nat) (g : Part → Part) : (updPart p c g).portsDown = p.portsDown := rfl
@[simp] theorem updPart_farRegions (p : Pkg) (c : Nat) (g : Part → Part) : (updPart p c g).farRegions = p.farRegions := rfl
@[simp] theorem updPart_unreachable (p : Pkg) (c : Nat) (g : Part → Part) : (updPart p c g).unreachable = p.unreachable := rfl
@[simp] theorem updPart_keys (p : Pkg) (c : Nat) (g : Part → Part) : (updPart p c g).keys = p.keys := rfl
@[simp] theorem updPart_keyGen (p : Pkg) (c : Nat) (g : Part → Part) : (updPart p c g).keyGen = p.keyGen := rfl
@[simp] theorem updPart_pkgKey (p : Pkg) (c : Nat) (g : Part → Part) : (updPart p c g).pkgKey = p.pkgKey := rfl
@[simp] theorem updPart_images (p : Pkg) (c : Nat) (g : Part → Part) : (updPart p c g).images = p.images := rfl
@[simp] theorem updPart_groups (p : Pkg) (c : Nat) (g : Part → Part) : (updPart p c g).groups = p.groups := rfl
@[simp] theorem updPart_pod (p : Pkg) (c : Nat) (g : Part → Part) : (updPart p c g).pod = p.pod := rfl
@[simp] theorem updPart_saves (p : Pkg) (c : Nat) (g : Part → Part) : (updPart p c g).saves = p.saves := rfl
@[simp] theorem updPart_lostResumes (p : Pkg) (c : Nat) (g : Part → Part) : (updPart p c g).lostResumes = p.lostResumes := rfl
@[simp] theorem updPart_portWrites (p : Pkg) (c : Nat) (g : Part → Part) : (updPart p c g).portWrites = p.portWrites := rfl
@[simp] theorem updPart_orphans (p : Pkg) (c : Nat) (g : Part → Part) : (updPart p c g).orphans = p.orphans := rfl
@[simp] theorem updPart_regs (p : Pkg) (c : Nat) (g : Part → Part) : (updPart p c g).regs = p.regs := rfl
@[simp] theorem updPart_nextFid (p : Pkg) (c : Nat) (g : Part → Part) : (updPart p c g).nextFid = p.nextFid := rfl
@[simp] theorem updPart_evSeq (p : Pkg) (c : Nat) (g : Part → Part) : (updPart p c g).evSeq = p.evSeq := rfl
@[simp] theorem updPart_portOut (p : Pkg) (c : Nat) (g : Part → Part) : (updPart p c g).portOut = p.portOut := rfl
@[simp] theorem updPart_darns (p : Pkg) (c : Nat) (g : Part → Part) : (updPart p c g).darns = p.darns := rfl
@[simp] theorem updPart_loader (p : Pkg) (c : Nat) (g : Part → Part) : (updPart p c g).loader = p.loader := rfl
@[simp] theorem updPart_retained (p : Pkg) (c : Nat) (g : Part → Part) : (updPart p c g).retained = p.retained := rfl
@[simp] theorem updPart_freeNo (p : Pkg) (c : Nat) (g : Part → Part) : (updPart p c g).freeNo = p.freeNo := rfl
@[simp] theorem setInst_cores (p : Pkg) (lvl n : Nat) (i : Inst) : (setInst p lvl n i).cores = p.cores := rfl
@[simp] theorem setInst_dram (p : Pkg) (lvl n : Nat) (i : Inst) : (setInst p lvl n i).dram = p.dram := rfl
@[simp] theorem setInst_seals (p : Pkg) (lvl n : Nat) (i : Inst) : (setInst p lvl n i).seals = p.seals := rfl
@[simp] theorem setInst_badGran (p : Pkg) (lvl n : Nat) (i : Inst) : (setInst p lvl n i).badGran = p.badGran := rfl
@[simp] theorem setInst_clusters (p : Pkg) (lvl n : Nat) (i : Inst) : (setInst p lvl n i).clusters = p.clusters := rfl
@[simp] theorem setInst_net (p : Pkg) (lvl n : Nat) (i : Inst) : (setInst p lvl n i).net = p.net := rfl
@[simp] theorem setInst_parked (p : Pkg) (lvl n : Nat) (i : Inst) : (setInst p lvl n i).parked = p.parked := rfl
@[simp] theorem setInst_outbox (p : Pkg) (lvl n : Nat) (i : Inst) : (setInst p lvl n i).outbox = p.outbox := rfl
@[simp] theorem setInst_portsDown (p : Pkg) (lvl n : Nat) (i : Inst) : (setInst p lvl n i).portsDown = p.portsDown := rfl
@[simp] theorem setInst_farRegions (p : Pkg) (lvl n : Nat) (i : Inst) : (setInst p lvl n i).farRegions = p.farRegions := rfl
@[simp] theorem setInst_unreachable (p : Pkg) (lvl n : Nat) (i : Inst) : (setInst p lvl n i).unreachable = p.unreachable := rfl
@[simp] theorem setInst_keys (p : Pkg) (lvl n : Nat) (i : Inst) : (setInst p lvl n i).keys = p.keys := rfl
@[simp] theorem setInst_keyGen (p : Pkg) (lvl n : Nat) (i : Inst) : (setInst p lvl n i).keyGen = p.keyGen := rfl
@[simp] theorem setInst_pkgKey (p : Pkg) (lvl n : Nat) (i : Inst) : (setInst p lvl n i).pkgKey = p.pkgKey := rfl
@[simp] theorem setInst_images (p : Pkg) (lvl n : Nat) (i : Inst) : (setInst p lvl n i).images = p.images := rfl
@[simp] theorem setInst_groups (p : Pkg) (lvl n : Nat) (i : Inst) : (setInst p lvl n i).groups = p.groups := rfl
@[simp] theorem setInst_pod (p : Pkg) (lvl n : Nat) (i : Inst) : (setInst p lvl n i).pod = p.pod := rfl
@[simp] theorem setInst_saves (p : Pkg) (lvl n : Nat) (i : Inst) : (setInst p lvl n i).saves = p.saves := rfl
@[simp] theorem setInst_lostResumes (p : Pkg) (lvl n : Nat) (i : Inst) : (setInst p lvl n i).lostResumes = p.lostResumes := rfl
@[simp] theorem setInst_portWrites (p : Pkg) (lvl n : Nat) (i : Inst) : (setInst p lvl n i).portWrites = p.portWrites := rfl
@[simp] theorem setInst_orphans (p : Pkg) (lvl n : Nat) (i : Inst) : (setInst p lvl n i).orphans = p.orphans := rfl
@[simp] theorem setInst_regs (p : Pkg) (lvl n : Nat) (i : Inst) : (setInst p lvl n i).regs = p.regs := rfl
@[simp] theorem setInst_nextFid (p : Pkg) (lvl n : Nat) (i : Inst) : (setInst p lvl n i).nextFid = p.nextFid := rfl
@[simp] theorem setInst_evSeq (p : Pkg) (lvl n : Nat) (i : Inst) : (setInst p lvl n i).evSeq = p.evSeq := rfl
@[simp] theorem setInst_portOut (p : Pkg) (lvl n : Nat) (i : Inst) : (setInst p lvl n i).portOut = p.portOut := rfl
@[simp] theorem setInst_darns (p : Pkg) (lvl n : Nat) (i : Inst) : (setInst p lvl n i).darns = p.darns := rfl
@[simp] theorem setInst_loader (p : Pkg) (lvl n : Nat) (i : Inst) : (setInst p lvl n i).loader = p.loader := rfl
@[simp] theorem setInst_retained (p : Pkg) (lvl n : Nat) (i : Inst) : (setInst p lvl n i).retained = p.retained := rfl
@[simp] theorem setInst_freeNo (p : Pkg) (lvl n : Nat) (i : Inst) : (setInst p lvl n i).freeNo = p.freeNo := rfl
@[simp] theorem setCluster_cores (p : Pkg) (c : Nat) (k : Cluster) : (setCluster p c k).cores = p.cores := rfl
@[simp] theorem setCluster_insts (p : Pkg) (c : Nat) (k : Cluster) : (setCluster p c k).insts = p.insts := rfl
@[simp] theorem setCluster_dram (p : Pkg) (c : Nat) (k : Cluster) : (setCluster p c k).dram = p.dram := rfl
@[simp] theorem setCluster_seals (p : Pkg) (c : Nat) (k : Cluster) : (setCluster p c k).seals = p.seals := rfl
@[simp] theorem setCluster_badGran (p : Pkg) (c : Nat) (k : Cluster) : (setCluster p c k).badGran = p.badGran := rfl
@[simp] theorem setCluster_net (p : Pkg) (c : Nat) (k : Cluster) : (setCluster p c k).net = p.net := rfl
@[simp] theorem setCluster_parked (p : Pkg) (c : Nat) (k : Cluster) : (setCluster p c k).parked = p.parked := rfl
@[simp] theorem setCluster_outbox (p : Pkg) (c : Nat) (k : Cluster) : (setCluster p c k).outbox = p.outbox := rfl
@[simp] theorem setCluster_portsDown (p : Pkg) (c : Nat) (k : Cluster) : (setCluster p c k).portsDown = p.portsDown := rfl
@[simp] theorem setCluster_farRegions (p : Pkg) (c : Nat) (k : Cluster) : (setCluster p c k).farRegions = p.farRegions := rfl
@[simp] theorem setCluster_unreachable (p : Pkg) (c : Nat) (k : Cluster) : (setCluster p c k).unreachable = p.unreachable := rfl
@[simp] theorem setCluster_keys (p : Pkg) (c : Nat) (k : Cluster) : (setCluster p c k).keys = p.keys := rfl
@[simp] theorem setCluster_keyGen (p : Pkg) (c : Nat) (k : Cluster) : (setCluster p c k).keyGen = p.keyGen := rfl
@[simp] theorem setCluster_pkgKey (p : Pkg) (c : Nat) (k : Cluster) : (setCluster p c k).pkgKey = p.pkgKey := rfl
@[simp] theorem setCluster_images (p : Pkg) (c : Nat) (k : Cluster) : (setCluster p c k).images = p.images := rfl
@[simp] theorem setCluster_groups (p : Pkg) (c : Nat) (k : Cluster) : (setCluster p c k).groups = p.groups := rfl
@[simp] theorem setCluster_pod (p : Pkg) (c : Nat) (k : Cluster) : (setCluster p c k).pod = p.pod := rfl
@[simp] theorem setCluster_saves (p : Pkg) (c : Nat) (k : Cluster) : (setCluster p c k).saves = p.saves := rfl
@[simp] theorem setCluster_lostResumes (p : Pkg) (c : Nat) (k : Cluster) : (setCluster p c k).lostResumes = p.lostResumes := rfl
@[simp] theorem setCluster_portWrites (p : Pkg) (c : Nat) (k : Cluster) : (setCluster p c k).portWrites = p.portWrites := rfl
@[simp] theorem setCluster_orphans (p : Pkg) (c : Nat) (k : Cluster) : (setCluster p c k).orphans = p.orphans := rfl
@[simp] theorem setCluster_regs (p : Pkg) (c : Nat) (k : Cluster) : (setCluster p c k).regs = p.regs := rfl
@[simp] theorem setCluster_nextFid (p : Pkg) (c : Nat) (k : Cluster) : (setCluster p c k).nextFid = p.nextFid := rfl
@[simp] theorem setCluster_evSeq (p : Pkg) (c : Nat) (k : Cluster) : (setCluster p c k).evSeq = p.evSeq := rfl
@[simp] theorem setCluster_portOut (p : Pkg) (c : Nat) (k : Cluster) : (setCluster p c k).portOut = p.portOut := rfl
@[simp] theorem setCluster_darns (p : Pkg) (c : Nat) (k : Cluster) : (setCluster p c k).darns = p.darns := rfl
@[simp] theorem setCluster_loader (p : Pkg) (c : Nat) (k : Cluster) : (setCluster p c k).loader = p.loader := rfl
@[simp] theorem setCluster_retained (p : Pkg) (c : Nat) (k : Cluster) : (setCluster p c k).retained = p.retained := rfl
@[simp] theorem setCluster_freeNo (p : Pkg) (c : Nat) (k : Cluster) : (setCluster p c k).freeNo = p.freeNo := rfl
@[simp] theorem send_cores (p : Pkg) (src dst asid : Nat) (b : MsgBody) : (send p src dst asid b).cores = p.cores := rfl
@[simp] theorem send_insts (p : Pkg) (src dst asid : Nat) (b : MsgBody) : (send p src dst asid b).insts = p.insts := rfl
@[simp] theorem send_dram (p : Pkg) (src dst asid : Nat) (b : MsgBody) : (send p src dst asid b).dram = p.dram := rfl
@[simp] theorem send_seals (p : Pkg) (src dst asid : Nat) (b : MsgBody) : (send p src dst asid b).seals = p.seals := rfl
@[simp] theorem send_badGran (p : Pkg) (src dst asid : Nat) (b : MsgBody) : (send p src dst asid b).badGran = p.badGran := rfl
@[simp] theorem send_clusters (p : Pkg) (src dst asid : Nat) (b : MsgBody) : (send p src dst asid b).clusters = p.clusters := rfl
@[simp] theorem send_parked (p : Pkg) (src dst asid : Nat) (b : MsgBody) : (send p src dst asid b).parked = p.parked := rfl
@[simp] theorem send_outbox (p : Pkg) (src dst asid : Nat) (b : MsgBody) : (send p src dst asid b).outbox = p.outbox := rfl
@[simp] theorem send_portsDown (p : Pkg) (src dst asid : Nat) (b : MsgBody) : (send p src dst asid b).portsDown = p.portsDown := rfl
@[simp] theorem send_farRegions (p : Pkg) (src dst asid : Nat) (b : MsgBody) : (send p src dst asid b).farRegions = p.farRegions := rfl
@[simp] theorem send_unreachable (p : Pkg) (src dst asid : Nat) (b : MsgBody) : (send p src dst asid b).unreachable = p.unreachable := rfl
@[simp] theorem send_keys (p : Pkg) (src dst asid : Nat) (b : MsgBody) : (send p src dst asid b).keys = p.keys := rfl
@[simp] theorem send_keyGen (p : Pkg) (src dst asid : Nat) (b : MsgBody) : (send p src dst asid b).keyGen = p.keyGen := rfl
@[simp] theorem send_pkgKey (p : Pkg) (src dst asid : Nat) (b : MsgBody) : (send p src dst asid b).pkgKey = p.pkgKey := rfl
@[simp] theorem send_images (p : Pkg) (src dst asid : Nat) (b : MsgBody) : (send p src dst asid b).images = p.images := rfl
@[simp] theorem send_groups (p : Pkg) (src dst asid : Nat) (b : MsgBody) : (send p src dst asid b).groups = p.groups := rfl
@[simp] theorem send_pod (p : Pkg) (src dst asid : Nat) (b : MsgBody) : (send p src dst asid b).pod = p.pod := rfl
@[simp] theorem send_saves (p : Pkg) (src dst asid : Nat) (b : MsgBody) : (send p src dst asid b).saves = p.saves := rfl
@[simp] theorem send_lostResumes (p : Pkg) (src dst asid : Nat) (b : MsgBody) : (send p src dst asid b).lostResumes = p.lostResumes := rfl
@[simp] theorem send_portWrites (p : Pkg) (src dst asid : Nat) (b : MsgBody) : (send p src dst asid b).portWrites = p.portWrites := rfl
@[simp] theorem send_orphans (p : Pkg) (src dst asid : Nat) (b : MsgBody) : (send p src dst asid b).orphans = p.orphans := rfl
@[simp] theorem send_regs (p : Pkg) (src dst asid : Nat) (b : MsgBody) : (send p src dst asid b).regs = p.regs := rfl
@[simp] theorem send_nextFid (p : Pkg) (src dst asid : Nat) (b : MsgBody) : (send p src dst asid b).nextFid = p.nextFid := rfl
@[simp] theorem send_evSeq (p : Pkg) (src dst asid : Nat) (b : MsgBody) : (send p src dst asid b).evSeq = p.evSeq := rfl
@[simp] theorem send_portOut (p : Pkg) (src dst asid : Nat) (b : MsgBody) : (send p src dst asid b).portOut = p.portOut := rfl
@[simp] theorem send_darns (p : Pkg) (src dst asid : Nat) (b : MsgBody) : (send p src dst asid b).darns = p.darns := rfl
@[simp] theorem send_loader (p : Pkg) (src dst asid : Nat) (b : MsgBody) : (send p src dst asid b).loader = p.loader := rfl
@[simp] theorem send_retained (p : Pkg) (src dst asid : Nat) (b : MsgBody) : (send p src dst asid b).retained = p.retained := rfl
@[simp] theorem send_freeNo (p : Pkg) (src dst asid : Nat) (b : MsgBody) : (send p src dst asid b).freeNo = p.freeNo := rfl
@[simp] theorem floorWrite_cores (p : Pkg) (g tag : Nat) (v : Granule) : (floorWrite p g tag v).cores = p.cores := rfl
@[simp] theorem floorWrite_insts (p : Pkg) (g tag : Nat) (v : Granule) : (floorWrite p g tag v).insts = p.insts := rfl
@[simp] theorem floorWrite_clusters (p : Pkg) (g tag : Nat) (v : Granule) : (floorWrite p g tag v).clusters = p.clusters := rfl
@[simp] theorem floorWrite_net (p : Pkg) (g tag : Nat) (v : Granule) : (floorWrite p g tag v).net = p.net := rfl
@[simp] theorem floorWrite_parked (p : Pkg) (g tag : Nat) (v : Granule) : (floorWrite p g tag v).parked = p.parked := rfl
@[simp] theorem floorWrite_outbox (p : Pkg) (g tag : Nat) (v : Granule) : (floorWrite p g tag v).outbox = p.outbox := rfl
@[simp] theorem floorWrite_portsDown (p : Pkg) (g tag : Nat) (v : Granule) : (floorWrite p g tag v).portsDown = p.portsDown := rfl
@[simp] theorem floorWrite_farRegions (p : Pkg) (g tag : Nat) (v : Granule) : (floorWrite p g tag v).farRegions = p.farRegions := rfl
@[simp] theorem floorWrite_unreachable (p : Pkg) (g tag : Nat) (v : Granule) : (floorWrite p g tag v).unreachable = p.unreachable := rfl
@[simp] theorem floorWrite_keys (p : Pkg) (g tag : Nat) (v : Granule) : (floorWrite p g tag v).keys = p.keys := rfl
@[simp] theorem floorWrite_keyGen (p : Pkg) (g tag : Nat) (v : Granule) : (floorWrite p g tag v).keyGen = p.keyGen := rfl
@[simp] theorem floorWrite_pkgKey (p : Pkg) (g tag : Nat) (v : Granule) : (floorWrite p g tag v).pkgKey = p.pkgKey := rfl
@[simp] theorem floorWrite_images (p : Pkg) (g tag : Nat) (v : Granule) : (floorWrite p g tag v).images = p.images := rfl
@[simp] theorem floorWrite_groups (p : Pkg) (g tag : Nat) (v : Granule) : (floorWrite p g tag v).groups = p.groups := rfl
@[simp] theorem floorWrite_pod (p : Pkg) (g tag : Nat) (v : Granule) : (floorWrite p g tag v).pod = p.pod := rfl
@[simp] theorem floorWrite_saves (p : Pkg) (g tag : Nat) (v : Granule) : (floorWrite p g tag v).saves = p.saves := rfl
@[simp] theorem floorWrite_lostResumes (p : Pkg) (g tag : Nat) (v : Granule) : (floorWrite p g tag v).lostResumes = p.lostResumes := rfl
@[simp] theorem floorWrite_portWrites (p : Pkg) (g tag : Nat) (v : Granule) : (floorWrite p g tag v).portWrites = p.portWrites := rfl
@[simp] theorem floorWrite_orphans (p : Pkg) (g tag : Nat) (v : Granule) : (floorWrite p g tag v).orphans = p.orphans := rfl
@[simp] theorem floorWrite_regs (p : Pkg) (g tag : Nat) (v : Granule) : (floorWrite p g tag v).regs = p.regs := rfl
@[simp] theorem floorWrite_nextFid (p : Pkg) (g tag : Nat) (v : Granule) : (floorWrite p g tag v).nextFid = p.nextFid := rfl
@[simp] theorem floorWrite_evSeq (p : Pkg) (g tag : Nat) (v : Granule) : (floorWrite p g tag v).evSeq = p.evSeq := rfl
@[simp] theorem floorWrite_portOut (p : Pkg) (g tag : Nat) (v : Granule) : (floorWrite p g tag v).portOut = p.portOut := rfl
@[simp] theorem floorWrite_darns (p : Pkg) (g tag : Nat) (v : Granule) : (floorWrite p g tag v).darns = p.darns := rfl
@[simp] theorem floorWrite_loader (p : Pkg) (g tag : Nat) (v : Granule) : (floorWrite p g tag v).loader = p.loader := rfl
@[simp] theorem floorWrite_retained (p : Pkg) (g tag : Nat) (v : Granule) : (floorWrite p g tag v).retained = p.retained := rfl
@[simp] theorem floorWrite_freeNo (p : Pkg) (g tag : Nat) (v : Granule) : (floorWrite p g tag v).freeNo = p.freeNo := rfl
@[simp] theorem markIssued_insts (p : Pkg) (cx : Cx) (f : Fields) : (markIssued p cx f).insts = p.insts := rfl
@[simp] theorem markIssued_dram (p : Pkg) (cx : Cx) (f : Fields) : (markIssued p cx f).dram = p.dram := rfl
@[simp] theorem markIssued_seals (p : Pkg) (cx : Cx) (f : Fields) : (markIssued p cx f).seals = p.seals := rfl
@[simp] theorem markIssued_badGran (p : Pkg) (cx : Cx) (f : Fields) : (markIssued p cx f).badGran = p.badGran := rfl
@[simp] theorem markIssued_clusters (p : Pkg) (cx : Cx) (f : Fields) : (markIssued p cx f).clusters = p.clusters := rfl
@[simp] theorem markIssued_net (p : Pkg) (cx : Cx) (f : Fields) : (markIssued p cx f).net = p.net := rfl
@[simp] theorem markIssued_parked (p : Pkg) (cx : Cx) (f : Fields) : (markIssued p cx f).parked = p.parked := rfl
@[simp] theorem markIssued_outbox (p : Pkg) (cx : Cx) (f : Fields) : (markIssued p cx f).outbox = p.outbox := rfl
@[simp] theorem markIssued_portsDown (p : Pkg) (cx : Cx) (f : Fields) : (markIssued p cx f).portsDown = p.portsDown := rfl
@[simp] theorem markIssued_farRegions (p : Pkg) (cx : Cx) (f : Fields) : (markIssued p cx f).farRegions = p.farRegions := rfl
@[simp] theorem markIssued_unreachable (p : Pkg) (cx : Cx) (f : Fields) : (markIssued p cx f).unreachable = p.unreachable := rfl
@[simp] theorem markIssued_keys (p : Pkg) (cx : Cx) (f : Fields) : (markIssued p cx f).keys = p.keys := rfl
@[simp] theorem markIssued_keyGen (p : Pkg) (cx : Cx) (f : Fields) : (markIssued p cx f).keyGen = p.keyGen := rfl
@[simp] theorem markIssued_pkgKey (p : Pkg) (cx : Cx) (f : Fields) : (markIssued p cx f).pkgKey = p.pkgKey := rfl
@[simp] theorem markIssued_images (p : Pkg) (cx : Cx) (f : Fields) : (markIssued p cx f).images = p.images := rfl
@[simp] theorem markIssued_groups (p : Pkg) (cx : Cx) (f : Fields) : (markIssued p cx f).groups = p.groups := rfl
@[simp] theorem markIssued_pod (p : Pkg) (cx : Cx) (f : Fields) : (markIssued p cx f).pod = p.pod := rfl
@[simp] theorem markIssued_saves (p : Pkg) (cx : Cx) (f : Fields) : (markIssued p cx f).saves = p.saves := rfl
@[simp] theorem markIssued_lostResumes (p : Pkg) (cx : Cx) (f : Fields) : (markIssued p cx f).lostResumes = p.lostResumes := rfl
@[simp] theorem markIssued_portWrites (p : Pkg) (cx : Cx) (f : Fields) : (markIssued p cx f).portWrites = p.portWrites := rfl
@[simp] theorem markIssued_orphans (p : Pkg) (cx : Cx) (f : Fields) : (markIssued p cx f).orphans = p.orphans := rfl
@[simp] theorem markIssued_regs (p : Pkg) (cx : Cx) (f : Fields) : (markIssued p cx f).regs = p.regs := rfl
@[simp] theorem markIssued_nextFid (p : Pkg) (cx : Cx) (f : Fields) : (markIssued p cx f).nextFid = p.nextFid := rfl
@[simp] theorem markIssued_evSeq (p : Pkg) (cx : Cx) (f : Fields) : (markIssued p cx f).evSeq = p.evSeq := rfl
@[simp] theorem markIssued_portOut (p : Pkg) (cx : Cx) (f : Fields) : (markIssued p cx f).portOut = p.portOut := rfl
@[simp] theorem markIssued_darns (p : Pkg) (cx : Cx) (f : Fields) : (markIssued p cx f).darns = p.darns := rfl
@[simp] theorem markIssued_loader (p : Pkg) (cx : Cx) (f : Fields) : (markIssued p cx f).loader = p.loader := rfl
@[simp] theorem markIssued_retained (p : Pkg) (cx : Cx) (f : Fields) : (markIssued p cx f).retained = p.retained := rfl
@[simp] theorem markIssued_freeNo (p : Pkg) (cx : Cx) (f : Fields) : (markIssued p cx f).freeNo = p.freeNo := rfl
@[simp] theorem goTo_insts (p : Pkg) (cx : Cx) (pc : Nat) : (goTo p cx pc).insts = p.insts := rfl
@[simp] theorem goTo_dram (p : Pkg) (cx : Cx) (pc : Nat) : (goTo p cx pc).dram = p.dram := rfl
@[simp] theorem goTo_seals (p : Pkg) (cx : Cx) (pc : Nat) : (goTo p cx pc).seals = p.seals := rfl
@[simp] theorem goTo_badGran (p : Pkg) (cx : Cx) (pc : Nat) : (goTo p cx pc).badGran = p.badGran := rfl
@[simp] theorem goTo_clusters (p : Pkg) (cx : Cx) (pc : Nat) : (goTo p cx pc).clusters = p.clusters := rfl
@[simp] theorem goTo_net (p : Pkg) (cx : Cx) (pc : Nat) : (goTo p cx pc).net = p.net := rfl
@[simp] theorem goTo_parked (p : Pkg) (cx : Cx) (pc : Nat) : (goTo p cx pc).parked = p.parked := rfl
@[simp] theorem goTo_outbox (p : Pkg) (cx : Cx) (pc : Nat) : (goTo p cx pc).outbox = p.outbox := rfl
@[simp] theorem goTo_portsDown (p : Pkg) (cx : Cx) (pc : Nat) : (goTo p cx pc).portsDown = p.portsDown := rfl
@[simp] theorem goTo_farRegions (p : Pkg) (cx : Cx) (pc : Nat) : (goTo p cx pc).farRegions = p.farRegions := rfl
@[simp] theorem goTo_unreachable (p : Pkg) (cx : Cx) (pc : Nat) : (goTo p cx pc).unreachable = p.unreachable := rfl
@[simp] theorem goTo_keys (p : Pkg) (cx : Cx) (pc : Nat) : (goTo p cx pc).keys = p.keys := rfl
@[simp] theorem goTo_keyGen (p : Pkg) (cx : Cx) (pc : Nat) : (goTo p cx pc).keyGen = p.keyGen := rfl
@[simp] theorem goTo_pkgKey (p : Pkg) (cx : Cx) (pc : Nat) : (goTo p cx pc).pkgKey = p.pkgKey := rfl
@[simp] theorem goTo_images (p : Pkg) (cx : Cx) (pc : Nat) : (goTo p cx pc).images = p.images := rfl
@[simp] theorem goTo_groups (p : Pkg) (cx : Cx) (pc : Nat) : (goTo p cx pc).groups = p.groups := rfl
@[simp] theorem goTo_pod (p : Pkg) (cx : Cx) (pc : Nat) : (goTo p cx pc).pod = p.pod := rfl
@[simp] theorem goTo_saves (p : Pkg) (cx : Cx) (pc : Nat) : (goTo p cx pc).saves = p.saves := rfl
@[simp] theorem goTo_lostResumes (p : Pkg) (cx : Cx) (pc : Nat) : (goTo p cx pc).lostResumes = p.lostResumes := rfl
@[simp] theorem goTo_portWrites (p : Pkg) (cx : Cx) (pc : Nat) : (goTo p cx pc).portWrites = p.portWrites := rfl
@[simp] theorem goTo_orphans (p : Pkg) (cx : Cx) (pc : Nat) : (goTo p cx pc).orphans = p.orphans := rfl
@[simp] theorem goTo_regs (p : Pkg) (cx : Cx) (pc : Nat) : (goTo p cx pc).regs = p.regs := rfl
@[simp] theorem goTo_nextFid (p : Pkg) (cx : Cx) (pc : Nat) : (goTo p cx pc).nextFid = p.nextFid := rfl
@[simp] theorem goTo_evSeq (p : Pkg) (cx : Cx) (pc : Nat) : (goTo p cx pc).evSeq = p.evSeq := rfl
@[simp] theorem goTo_portOut (p : Pkg) (cx : Cx) (pc : Nat) : (goTo p cx pc).portOut = p.portOut := rfl
@[simp] theorem goTo_darns (p : Pkg) (cx : Cx) (pc : Nat) : (goTo p cx pc).darns = p.darns := rfl
@[simp] theorem goTo_loader (p : Pkg) (cx : Cx) (pc : Nat) : (goTo p cx pc).loader = p.loader := rfl
@[simp] theorem goTo_retained (p : Pkg) (cx : Cx) (pc : Nat) : (goTo p cx pc).retained = p.retained := rfl
@[simp] theorem goTo_freeNo (p : Pkg) (cx : Cx) (pc : Nat) : (goTo p cx pc).freeNo = p.freeNo := rfl
@[simp] theorem setHold_insts (p : Pkg) (cx : Cx) (h : Hold) : (setHold p cx h).insts = p.insts := rfl
@[simp] theorem setHold_dram (p : Pkg) (cx : Cx) (h : Hold) : (setHold p cx h).dram = p.dram := rfl
@[simp] theorem setHold_seals (p : Pkg) (cx : Cx) (h : Hold) : (setHold p cx h).seals = p.seals := rfl
@[simp] theorem setHold_badGran (p : Pkg) (cx : Cx) (h : Hold) : (setHold p cx h).badGran = p.badGran := rfl
@[simp] theorem setHold_clusters (p : Pkg) (cx : Cx) (h : Hold) : (setHold p cx h).clusters = p.clusters := rfl
@[simp] theorem setHold_net (p : Pkg) (cx : Cx) (h : Hold) : (setHold p cx h).net = p.net := rfl
@[simp] theorem setHold_parked (p : Pkg) (cx : Cx) (h : Hold) : (setHold p cx h).parked = p.parked := rfl
@[simp] theorem setHold_outbox (p : Pkg) (cx : Cx) (h : Hold) : (setHold p cx h).outbox = p.outbox := rfl
@[simp] theorem setHold_portsDown (p : Pkg) (cx : Cx) (h : Hold) : (setHold p cx h).portsDown = p.portsDown := rfl
@[simp] theorem setHold_farRegions (p : Pkg) (cx : Cx) (h : Hold) : (setHold p cx h).farRegions = p.farRegions := rfl
@[simp] theorem setHold_unreachable (p : Pkg) (cx : Cx) (h : Hold) : (setHold p cx h).unreachable = p.unreachable := rfl
@[simp] theorem setHold_keys (p : Pkg) (cx : Cx) (h : Hold) : (setHold p cx h).keys = p.keys := rfl
@[simp] theorem setHold_keyGen (p : Pkg) (cx : Cx) (h : Hold) : (setHold p cx h).keyGen = p.keyGen := rfl
@[simp] theorem setHold_pkgKey (p : Pkg) (cx : Cx) (h : Hold) : (setHold p cx h).pkgKey = p.pkgKey := rfl
@[simp] theorem setHold_images (p : Pkg) (cx : Cx) (h : Hold) : (setHold p cx h).images = p.images := rfl
@[simp] theorem setHold_groups (p : Pkg) (cx : Cx) (h : Hold) : (setHold p cx h).groups = p.groups := rfl
@[simp] theorem setHold_pod (p : Pkg) (cx : Cx) (h : Hold) : (setHold p cx h).pod = p.pod := rfl
@[simp] theorem setHold_saves (p : Pkg) (cx : Cx) (h : Hold) : (setHold p cx h).saves = p.saves := rfl
@[simp] theorem setHold_lostResumes (p : Pkg) (cx : Cx) (h : Hold) : (setHold p cx h).lostResumes = p.lostResumes := rfl
@[simp] theorem setHold_portWrites (p : Pkg) (cx : Cx) (h : Hold) : (setHold p cx h).portWrites = p.portWrites := rfl
@[simp] theorem setHold_orphans (p : Pkg) (cx : Cx) (h : Hold) : (setHold p cx h).orphans = p.orphans := rfl
@[simp] theorem setHold_regs (p : Pkg) (cx : Cx) (h : Hold) : (setHold p cx h).regs = p.regs := rfl
@[simp] theorem setHold_nextFid (p : Pkg) (cx : Cx) (h : Hold) : (setHold p cx h).nextFid = p.nextFid := rfl
@[simp] theorem setHold_evSeq (p : Pkg) (cx : Cx) (h : Hold) : (setHold p cx h).evSeq = p.evSeq := rfl
@[simp] theorem setHold_portOut (p : Pkg) (cx : Cx) (h : Hold) : (setHold p cx h).portOut = p.portOut := rfl
@[simp] theorem setHold_darns (p : Pkg) (cx : Cx) (h : Hold) : (setHold p cx h).darns = p.darns := rfl
@[simp] theorem setHold_loader (p : Pkg) (cx : Cx) (h : Hold) : (setHold p cx h).loader = p.loader := rfl
@[simp] theorem setHold_retained (p : Pkg) (cx : Cx) (h : Hold) : (setHold p cx h).retained = p.retained := rfl
@[simp] theorem setHold_freeNo (p : Pkg) (cx : Cx) (h : Hold) : (setHold p cx h).freeNo = p.freeNo := rfl
@[simp] theorem updCur_insts (p : Pkg) (cx : Cx) (g : Slot → Slot) : (updCur p cx g).insts = p.insts := rfl
@[simp] theorem updCur_dram (p : Pkg) (cx : Cx) (g : Slot → Slot) : (updCur p cx g).dram = p.dram := rfl
@[simp] theorem updCur_seals (p : Pkg) (cx : Cx) (g : Slot → Slot) : (updCur p cx g).seals = p.seals := rfl
@[simp] theorem updCur_badGran (p : Pkg) (cx : Cx) (g : Slot → Slot) : (updCur p cx g).badGran = p.badGran := rfl
@[simp] theorem updCur_clusters (p : Pkg) (cx : Cx) (g : Slot → Slot) : (updCur p cx g).clusters = p.clusters := rfl
@[simp] theorem updCur_net (p : Pkg) (cx : Cx) (g : Slot → Slot) : (updCur p cx g).net = p.net := rfl
@[simp] theorem updCur_parked (p : Pkg) (cx : Cx) (g : Slot → Slot) : (updCur p cx g).parked = p.parked := rfl
@[simp] theorem updCur_outbox (p : Pkg) (cx : Cx) (g : Slot → Slot) : (updCur p cx g).outbox = p.outbox := rfl
@[simp] theorem updCur_portsDown (p : Pkg) (cx : Cx) (g : Slot → Slot) : (updCur p cx g).portsDown = p.portsDown := rfl
@[simp] theorem updCur_farRegions (p : Pkg) (cx : Cx) (g : Slot → Slot) : (updCur p cx g).farRegions = p.farRegions := rfl
@[simp] theorem updCur_unreachable (p : Pkg) (cx : Cx) (g : Slot → Slot) : (updCur p cx g).unreachable = p.unreachable := rfl
@[simp] theorem updCur_keys (p : Pkg) (cx : Cx) (g : Slot → Slot) : (updCur p cx g).keys = p.keys := rfl
@[simp] theorem updCur_keyGen (p : Pkg) (cx : Cx) (g : Slot → Slot) : (updCur p cx g).keyGen = p.keyGen := rfl
@[simp] theorem updCur_pkgKey (p : Pkg) (cx : Cx) (g : Slot → Slot) : (updCur p cx g).pkgKey = p.pkgKey := rfl
@[simp] theorem updCur_images (p : Pkg) (cx : Cx) (g : Slot → Slot) : (updCur p cx g).images = p.images := rfl
@[simp] theorem updCur_groups (p : Pkg) (cx : Cx) (g : Slot → Slot) : (updCur p cx g).groups = p.groups := rfl
@[simp] theorem updCur_pod (p : Pkg) (cx : Cx) (g : Slot → Slot) : (updCur p cx g).pod = p.pod := rfl
@[simp] theorem updCur_saves (p : Pkg) (cx : Cx) (g : Slot → Slot) : (updCur p cx g).saves = p.saves := rfl
@[simp] theorem updCur_lostResumes (p : Pkg) (cx : Cx) (g : Slot → Slot) : (updCur p cx g).lostResumes = p.lostResumes := rfl
@[simp] theorem updCur_portWrites (p : Pkg) (cx : Cx) (g : Slot → Slot) : (updCur p cx g).portWrites = p.portWrites := rfl
@[simp] theorem updCur_orphans (p : Pkg) (cx : Cx) (g : Slot → Slot) : (updCur p cx g).orphans = p.orphans := rfl
@[simp] theorem updCur_regs (p : Pkg) (cx : Cx) (g : Slot → Slot) : (updCur p cx g).regs = p.regs := rfl
@[simp] theorem updCur_nextFid (p : Pkg) (cx : Cx) (g : Slot → Slot) : (updCur p cx g).nextFid = p.nextFid := rfl
@[simp] theorem updCur_evSeq (p : Pkg) (cx : Cx) (g : Slot → Slot) : (updCur p cx g).evSeq = p.evSeq := rfl
@[simp] theorem updCur_portOut (p : Pkg) (cx : Cx) (g : Slot → Slot) : (updCur p cx g).portOut = p.portOut := rfl
@[simp] theorem updCur_darns (p : Pkg) (cx : Cx) (g : Slot → Slot) : (updCur p cx g).darns = p.darns := rfl
@[simp] theorem updCur_loader (p : Pkg) (cx : Cx) (g : Slot → Slot) : (updCur p cx g).loader = p.loader := rfl
@[simp] theorem updCur_retained (p : Pkg) (cx : Cx) (g : Slot → Slot) : (updCur p cx g).retained = p.retained := rfl
@[simp] theorem updCur_freeNo (p : Pkg) (cx : Cx) (g : Slot → Slot) : (updCur p cx g).freeNo = p.freeNo := rfl
@[simp] theorem setSlot_mode (k : Part) (n : Nat) (s : Slot) : (setSlot k n s).mode = k.mode := rfl
@[simp] theorem setSlot_vregs (k : Part) (n : Nat) (s : Slot) : (setSlot k n s).vregs = k.vregs := rfl
@[simp] theorem setSlot_scr (k : Part) (n : Nat) (s : Slot) : (setSlot k n s).scr = k.scr := rfl
@[simp] theorem setSlot_tags (k : Part) (n : Nat) (s : Slot) : (setSlot k n s).tags = k.tags := rfl
@[simp] theorem setSlot_acc (k : Part) (n : Nat) (s : Slot) : (setSlot k n s).acc = k.acc := rfl
@[simp] theorem setSlot_tileFlags (k : Part) (n : Nat) (s : Slot) : (setSlot k n s).tileFlags = k.tileFlags := rfl
@[simp] theorem setSlot_layouts (k : Part) (n : Nat) (s : Slot) : (setSlot k n s).layouts = k.layouts := rfl
@[simp] theorem setSlot_team (k : Part) (n : Nat) (s : Slot) : (setSlot k n s).team = k.team := rfl
@[simp] theorem setSlot_past (k : Part) (n : Nat) (s : Slot) : (setSlot k n s).past = k.past := rfl
@[simp] theorem setSlot_matq (k : Part) (n : Nat) (s : Slot) : (setSlot k n s).matq = k.matq := rfl
@[simp] theorem setSlot_accq (k : Part) (n : Nat) (s : Slot) : (setSlot k n s).accq = k.accq := rfl
@[simp] theorem setSlot_seamq (k : Part) (n : Nat) (s : Slot) : (setSlot k n s).seamq = k.seamq := rfl
@[simp] theorem setSlot_smrgq (k : Part) (n : Nat) (s : Slot) : (setSlot k n s).smrgq = k.smrgq := rfl
@[simp] theorem setSlot_copies (k : Part) (n : Nat) (s : Slot) : (setSlot k n s).copies = k.copies := rfl
@[simp] theorem setSlot_issued (k : Part) (n : Nat) (s : Slot) : (setSlot k n s).issued = k.issued := rfl
@[simp] theorem setSlot_journal (k : Part) (n : Nat) (s : Slot) : (setSlot k n s).journal = k.journal := rfl
@[simp] theorem setSlot_mesh (k : Part) (n : Nat) (s : Slot) : (setSlot k n s).mesh = k.mesh := rfl
@[simp] theorem setSlot_waiters (k : Part) (n : Nat) (s : Slot) : (setSlot k n s).waiters = k.waiters := rfl
@[simp] theorem setSlot_moved (k : Part) (n : Nat) (s : Slot) : (setSlot k n s).moved = k.moved := rfl
@[simp] theorem setSlot_pend (k : Part) (n : Nat) (s : Slot) : (setSlot k n s).pend = k.pend := rfl
@[simp] theorem setSlot_errands (k : Part) (n : Nat) (s : Slot) : (setSlot k n s).errands = k.errands := rfl
@[simp] theorem setSlot_tvec (k : Part) (n : Nat) (s : Slot) : (setSlot k n s).tvec = k.tvec := rfl
@[simp] theorem setSlot_nextCtx (k : Part) (n : Nat) (s : Slot) : (setSlot k n s).nextCtx = k.nextCtx := rfl
@[simp] theorem setSlot_nextUid (k : Part) (n : Nat) (s : Slot) : (setSlot k n s).nextUid = k.nextUid := rfl
@[simp] theorem setSlot_nextOrd (k : Part) (n : Nat) (s : Slot) : (setSlot k n s).nextOrd = k.nextOrd := rfl
@[simp] theorem setSlot_badWords (k : Part) (n : Nat) (s : Slot) : (setSlot k n s).badWords = k.badWords := rfl
@[simp] theorem setSlot_badTiles (k : Part) (n : Nat) (s : Slot) : (setSlot k n s).badTiles = k.badTiles := rfl
@[simp] theorem setSlot_badVregs (k : Part) (n : Nat) (s : Slot) : (setSlot k n s).badVregs = k.badVregs := rfl
@[simp] theorem setSlot_monitors (k : Part) (n : Nat) (s : Slot) : (setSlot k n s).monitors = k.monitors := rfl
@[simp] theorem updSlot_mode (k : Part) (n : Nat) (g : Slot → Slot) : (updSlot k n g).mode = k.mode := rfl
@[simp] theorem updSlot_vregs (k : Part) (n : Nat) (g : Slot → Slot) : (updSlot k n g).vregs = k.vregs := rfl
@[simp] theorem updSlot_scr (k : Part) (n : Nat) (g : Slot → Slot) : (updSlot k n g).scr = k.scr := rfl
@[simp] theorem updSlot_tags (k : Part) (n : Nat) (g : Slot → Slot) : (updSlot k n g).tags = k.tags := rfl
@[simp] theorem updSlot_acc (k : Part) (n : Nat) (g : Slot → Slot) : (updSlot k n g).acc = k.acc := rfl
@[simp] theorem updSlot_tileFlags (k : Part) (n : Nat) (g : Slot → Slot) : (updSlot k n g).tileFlags = k.tileFlags := rfl
@[simp] theorem updSlot_layouts (k : Part) (n : Nat) (g : Slot → Slot) : (updSlot k n g).layouts = k.layouts := rfl
@[simp] theorem updSlot_team (k : Part) (n : Nat) (g : Slot → Slot) : (updSlot k n g).team = k.team := rfl
@[simp] theorem updSlot_past (k : Part) (n : Nat) (g : Slot → Slot) : (updSlot k n g).past = k.past := rfl
@[simp] theorem updSlot_matq (k : Part) (n : Nat) (g : Slot → Slot) : (updSlot k n g).matq = k.matq := rfl
@[simp] theorem updSlot_accq (k : Part) (n : Nat) (g : Slot → Slot) : (updSlot k n g).accq = k.accq := rfl
@[simp] theorem updSlot_seamq (k : Part) (n : Nat) (g : Slot → Slot) : (updSlot k n g).seamq = k.seamq := rfl
@[simp] theorem updSlot_smrgq (k : Part) (n : Nat) (g : Slot → Slot) : (updSlot k n g).smrgq = k.smrgq := rfl
@[simp] theorem updSlot_copies (k : Part) (n : Nat) (g : Slot → Slot) : (updSlot k n g).copies = k.copies := rfl
@[simp] theorem updSlot_issued (k : Part) (n : Nat) (g : Slot → Slot) : (updSlot k n g).issued = k.issued := rfl
@[simp] theorem updSlot_journal (k : Part) (n : Nat) (g : Slot → Slot) : (updSlot k n g).journal = k.journal := rfl
@[simp] theorem updSlot_mesh (k : Part) (n : Nat) (g : Slot → Slot) : (updSlot k n g).mesh = k.mesh := rfl
@[simp] theorem updSlot_waiters (k : Part) (n : Nat) (g : Slot → Slot) : (updSlot k n g).waiters = k.waiters := rfl
@[simp] theorem updSlot_moved (k : Part) (n : Nat) (g : Slot → Slot) : (updSlot k n g).moved = k.moved := rfl
@[simp] theorem updSlot_pend (k : Part) (n : Nat) (g : Slot → Slot) : (updSlot k n g).pend = k.pend := rfl
@[simp] theorem updSlot_errands (k : Part) (n : Nat) (g : Slot → Slot) : (updSlot k n g).errands = k.errands := rfl
@[simp] theorem updSlot_tvec (k : Part) (n : Nat) (g : Slot → Slot) : (updSlot k n g).tvec = k.tvec := rfl
@[simp] theorem updSlot_nextCtx (k : Part) (n : Nat) (g : Slot → Slot) : (updSlot k n g).nextCtx = k.nextCtx := rfl
@[simp] theorem updSlot_nextUid (k : Part) (n : Nat) (g : Slot → Slot) : (updSlot k n g).nextUid = k.nextUid := rfl
@[simp] theorem updSlot_nextOrd (k : Part) (n : Nat) (g : Slot → Slot) : (updSlot k n g).nextOrd = k.nextOrd := rfl
@[simp] theorem updSlot_badWords (k : Part) (n : Nat) (g : Slot → Slot) : (updSlot k n g).badWords = k.badWords := rfl
@[simp] theorem updSlot_badTiles (k : Part) (n : Nat) (g : Slot → Slot) : (updSlot k n g).badTiles = k.badTiles := rfl
@[simp] theorem updSlot_badVregs (k : Part) (n : Nat) (g : Slot → Slot) : (updSlot k n g).badVregs = k.badVregs := rfl
@[simp] theorem updSlot_monitors (k : Part) (n : Nat) (g : Slot → Slot) : (updSlot k n g).monitors = k.monitors := rfl
@[simp] theorem setVregAt_mode (k : Part) (n : Nat) (v : VReg) : (setVregAt k n v).mode = k.mode := rfl
@[simp] theorem setVregAt_slots (k : Part) (n : Nat) (v : VReg) : (setVregAt k n v).slots = k.slots := rfl
@[simp] theorem setVregAt_scr (k : Part) (n : Nat) (v : VReg) : (setVregAt k n v).scr = k.scr := rfl
@[simp] theorem setVregAt_tags (k : Part) (n : Nat) (v : VReg) : (setVregAt k n v).tags = k.tags := rfl
@[simp] theorem setVregAt_acc (k : Part) (n : Nat) (v : VReg) : (setVregAt k n v).acc = k.acc := rfl
@[simp] theorem setVregAt_tileFlags (k : Part) (n : Nat) (v : VReg) : (setVregAt k n v).tileFlags = k.tileFlags := rfl
@[simp] theorem setVregAt_layouts (k : Part) (n : Nat) (v : VReg) : (setVregAt k n v).layouts = k.layouts := rfl
@[simp] theorem setVregAt_team (k : Part) (n : Nat) (v : VReg) : (setVregAt k n v).team = k.team := rfl
@[simp] theorem setVregAt_past (k : Part) (n : Nat) (v : VReg) : (setVregAt k n v).past = k.past := rfl
@[simp] theorem setVregAt_matq (k : Part) (n : Nat) (v : VReg) : (setVregAt k n v).matq = k.matq := rfl
@[simp] theorem setVregAt_accq (k : Part) (n : Nat) (v : VReg) : (setVregAt k n v).accq = k.accq := rfl
@[simp] theorem setVregAt_seamq (k : Part) (n : Nat) (v : VReg) : (setVregAt k n v).seamq = k.seamq := rfl
@[simp] theorem setVregAt_smrgq (k : Part) (n : Nat) (v : VReg) : (setVregAt k n v).smrgq = k.smrgq := rfl
@[simp] theorem setVregAt_copies (k : Part) (n : Nat) (v : VReg) : (setVregAt k n v).copies = k.copies := rfl
@[simp] theorem setVregAt_issued (k : Part) (n : Nat) (v : VReg) : (setVregAt k n v).issued = k.issued := rfl
@[simp] theorem setVregAt_journal (k : Part) (n : Nat) (v : VReg) : (setVregAt k n v).journal = k.journal := rfl
@[simp] theorem setVregAt_mesh (k : Part) (n : Nat) (v : VReg) : (setVregAt k n v).mesh = k.mesh := rfl
@[simp] theorem setVregAt_waiters (k : Part) (n : Nat) (v : VReg) : (setVregAt k n v).waiters = k.waiters := rfl
@[simp] theorem setVregAt_moved (k : Part) (n : Nat) (v : VReg) : (setVregAt k n v).moved = k.moved := rfl
@[simp] theorem setVregAt_pend (k : Part) (n : Nat) (v : VReg) : (setVregAt k n v).pend = k.pend := rfl
@[simp] theorem setVregAt_errands (k : Part) (n : Nat) (v : VReg) : (setVregAt k n v).errands = k.errands := rfl
@[simp] theorem setVregAt_tvec (k : Part) (n : Nat) (v : VReg) : (setVregAt k n v).tvec = k.tvec := rfl
@[simp] theorem setVregAt_nextCtx (k : Part) (n : Nat) (v : VReg) : (setVregAt k n v).nextCtx = k.nextCtx := rfl
@[simp] theorem setVregAt_nextUid (k : Part) (n : Nat) (v : VReg) : (setVregAt k n v).nextUid = k.nextUid := rfl
@[simp] theorem setVregAt_nextOrd (k : Part) (n : Nat) (v : VReg) : (setVregAt k n v).nextOrd = k.nextOrd := rfl
@[simp] theorem setVregAt_badWords (k : Part) (n : Nat) (v : VReg) : (setVregAt k n v).badWords = k.badWords := rfl
@[simp] theorem setVregAt_badTiles (k : Part) (n : Nat) (v : VReg) : (setVregAt k n v).badTiles = k.badTiles := rfl
@[simp] theorem setVregAt_monitors (k : Part) (n : Nat) (v : VReg) : (setVregAt k n v).monitors = k.monitors := rfl
@[simp] theorem jPut_mode (k : Part) (n : Nat) (e : JEntry) : (jPut k n e).mode = k.mode := rfl
@[simp] theorem jPut_slots (k : Part) (n : Nat) (e : JEntry) : (jPut k n e).slots = k.slots := rfl
@[simp] theorem jPut_vregs (k : Part) (n : Nat) (e : JEntry) : (jPut k n e).vregs = k.vregs := rfl
@[simp] theorem jPut_scr (k : Part) (n : Nat) (e : JEntry) : (jPut k n e).scr = k.scr := rfl
@[simp] theorem jPut_tags (k : Part) (n : Nat) (e : JEntry) : (jPut k n e).tags = k.tags := rfl
@[simp] theorem jPut_acc (k : Part) (n : Nat) (e : JEntry) : (jPut k n e).acc = k.acc := rfl
@[simp] theorem jPut_tileFlags (k : Part) (n : Nat) (e : JEntry) : (jPut k n e).tileFlags = k.tileFlags := rfl
@[simp] theorem jPut_layouts (k : Part) (n : Nat) (e : JEntry) : (jPut k n e).layouts = k.layouts := rfl
@[simp] theorem jPut_team (k : Part) (n : Nat) (e : JEntry) : (jPut k n e).team = k.team := rfl
@[simp] theorem jPut_past (k : Part) (n : Nat) (e : JEntry) : (jPut k n e).past = k.past := rfl
@[simp] theorem jPut_matq (k : Part) (n : Nat) (e : JEntry) : (jPut k n e).matq = k.matq := rfl
@[simp] theorem jPut_accq (k : Part) (n : Nat) (e : JEntry) : (jPut k n e).accq = k.accq := rfl
@[simp] theorem jPut_seamq (k : Part) (n : Nat) (e : JEntry) : (jPut k n e).seamq = k.seamq := rfl
@[simp] theorem jPut_smrgq (k : Part) (n : Nat) (e : JEntry) : (jPut k n e).smrgq = k.smrgq := rfl
@[simp] theorem jPut_copies (k : Part) (n : Nat) (e : JEntry) : (jPut k n e).copies = k.copies := rfl
@[simp] theorem jPut_issued (k : Part) (n : Nat) (e : JEntry) : (jPut k n e).issued = k.issued := rfl
@[simp] theorem jPut_mesh (k : Part) (n : Nat) (e : JEntry) : (jPut k n e).mesh = k.mesh := rfl
@[simp] theorem jPut_waiters (k : Part) (n : Nat) (e : JEntry) : (jPut k n e).waiters = k.waiters := rfl
@[simp] theorem jPut_moved (k : Part) (n : Nat) (e : JEntry) : (jPut k n e).moved = k.moved := rfl
@[simp] theorem jPut_pend (k : Part) (n : Nat) (e : JEntry) : (jPut k n e).pend = k.pend := rfl
@[simp] theorem jPut_errands (k : Part) (n : Nat) (e : JEntry) : (jPut k n e).errands = k.errands := rfl
@[simp] theorem jPut_tvec (k : Part) (n : Nat) (e : JEntry) : (jPut k n e).tvec = k.tvec := rfl
@[simp] theorem jPut_nextCtx (k : Part) (n : Nat) (e : JEntry) : (jPut k n e).nextCtx = k.nextCtx := rfl
@[simp] theorem jPut_nextUid (k : Part) (n : Nat) (e : JEntry) : (jPut k n e).nextUid = k.nextUid := rfl
@[simp] theorem jPut_nextOrd (k : Part) (n : Nat) (e : JEntry) : (jPut k n e).nextOrd = k.nextOrd := rfl
@[simp] theorem jPut_badWords (k : Part) (n : Nat) (e : JEntry) : (jPut k n e).badWords = k.badWords := rfl
@[simp] theorem jPut_badTiles (k : Part) (n : Nat) (e : JEntry) : (jPut k n e).badTiles = k.badTiles := rfl
@[simp] theorem jPut_badVregs (k : Part) (n : Nat) (e : JEntry) : (jPut k n e).badVregs = k.badVregs := rfl
@[simp] theorem jPut_monitors (k : Part) (n : Nat) (e : JEntry) : (jPut k n e).monitors = k.monitors := rfl
@[simp] theorem jErase_mode (k : Part) (n : Nat) : (jErase k n).mode = k.mode := rfl
@[simp] theorem jErase_slots (k : Part) (n : Nat) : (jErase k n).slots = k.slots := rfl
@[simp] theorem jErase_vregs (k : Part) (n : Nat) : (jErase k n).vregs = k.vregs := rfl
@[simp] theorem jErase_scr (k : Part) (n : Nat) : (jErase k n).scr = k.scr := rfl
@[simp] theorem jErase_tags (k : Part) (n : Nat) : (jErase k n).tags = k.tags := rfl
@[simp] theorem jErase_acc (k : Part) (n : Nat) : (jErase k n).acc = k.acc := rfl
@[simp] theorem jErase_tileFlags (k : Part) (n : Nat) : (jErase k n).tileFlags = k.tileFlags := rfl
@[simp] theorem jErase_layouts (k : Part) (n : Nat) : (jErase k n).layouts = k.layouts := rfl
@[simp] theorem jErase_team (k : Part) (n : Nat) : (jErase k n).team = k.team := rfl
@[simp] theorem jErase_past (k : Part) (n : Nat) : (jErase k n).past = k.past := rfl
@[simp] theorem jErase_matq (k : Part) (n : Nat) : (jErase k n).matq = k.matq := rfl
@[simp] theorem jErase_accq (k : Part) (n : Nat) : (jErase k n).accq = k.accq := rfl
@[simp] theorem jErase_seamq (k : Part) (n : Nat) : (jErase k n).seamq = k.seamq := rfl
@[simp] theorem jErase_smrgq (k : Part) (n : Nat) : (jErase k n).smrgq = k.smrgq := rfl
@[simp] theorem jErase_copies (k : Part) (n : Nat) : (jErase k n).copies = k.copies := rfl
@[simp] theorem jErase_issued (k : Part) (n : Nat) : (jErase k n).issued = k.issued := rfl
@[simp] theorem jErase_mesh (k : Part) (n : Nat) : (jErase k n).mesh = k.mesh := rfl
@[simp] theorem jErase_waiters (k : Part) (n : Nat) : (jErase k n).waiters = k.waiters := rfl
@[simp] theorem jErase_moved (k : Part) (n : Nat) : (jErase k n).moved = k.moved := rfl
@[simp] theorem jErase_pend (k : Part) (n : Nat) : (jErase k n).pend = k.pend := rfl
@[simp] theorem jErase_errands (k : Part) (n : Nat) : (jErase k n).errands = k.errands := rfl
@[simp] theorem jErase_tvec (k : Part) (n : Nat) : (jErase k n).tvec = k.tvec := rfl
@[simp] theorem jErase_nextCtx (k : Part) (n : Nat) : (jErase k n).nextCtx = k.nextCtx := rfl
@[simp] theorem jErase_nextUid (k : Part) (n : Nat) : (jErase k n).nextUid = k.nextUid := rfl
@[simp] theorem jErase_nextOrd (k : Part) (n : Nat) : (jErase k n).nextOrd = k.nextOrd := rfl
@[simp] theorem jErase_badWords (k : Part) (n : Nat) : (jErase k n).badWords = k.badWords := rfl
@[simp] theorem jErase_badTiles (k : Part) (n : Nat) : (jErase k n).badTiles = k.badTiles := rfl
@[simp] theorem jErase_badVregs (k : Part) (n : Nat) : (jErase k n).badVregs = k.badVregs := rfl
@[simp] theorem jErase_monitors (k : Part) (n : Nat) : (jErase k n).monitors = k.monitors := rfl
@[simp] theorem dropWaiter_mode (k : Part) (n : Nat) : (dropWaiter k n).mode = k.mode := rfl
@[simp] theorem dropWaiter_slots (k : Part) (n : Nat) : (dropWaiter k n).slots = k.slots := rfl
@[simp] theorem dropWaiter_vregs (k : Part) (n : Nat) : (dropWaiter k n).vregs = k.vregs := rfl
@[simp] theorem dropWaiter_scr (k : Part) (n : Nat) : (dropWaiter k n).scr = k.scr := rfl
@[simp] theorem dropWaiter_tags (k : Part) (n : Nat) : (dropWaiter k n).tags = k.tags := rfl
@[simp] theorem dropWaiter_acc (k : Part) (n : Nat) : (dropWaiter k n).acc = k.acc := rfl
@[simp] theorem dropWaiter_tileFlags (k : Part) (n : Nat) : (dropWaiter k n).tileFlags = k.tileFlags := rfl
@[simp] theorem dropWaiter_layouts (k : Part) (n : Nat) : (dropWaiter k n).layouts = k.layouts := rfl
@[simp] theorem dropWaiter_team (k : Part) (n : Nat) : (dropWaiter k n).team = k.team := rfl
@[simp] theorem dropWaiter_past (k : Part) (n : Nat) : (dropWaiter k n).past = k.past := rfl
@[simp] theorem dropWaiter_matq (k : Part) (n : Nat) : (dropWaiter k n).matq = k.matq := rfl
@[simp] theorem dropWaiter_accq (k : Part) (n : Nat) : (dropWaiter k n).accq = k.accq := rfl
@[simp] theorem dropWaiter_seamq (k : Part) (n : Nat) : (dropWaiter k n).seamq = k.seamq := rfl
@[simp] theorem dropWaiter_smrgq (k : Part) (n : Nat) : (dropWaiter k n).smrgq = k.smrgq := rfl
@[simp] theorem dropWaiter_copies (k : Part) (n : Nat) : (dropWaiter k n).copies = k.copies := rfl
@[simp] theorem dropWaiter_issued (k : Part) (n : Nat) : (dropWaiter k n).issued = k.issued := rfl
@[simp] theorem dropWaiter_journal (k : Part) (n : Nat) : (dropWaiter k n).journal = k.journal := rfl
@[simp] theorem dropWaiter_mesh (k : Part) (n : Nat) : (dropWaiter k n).mesh = k.mesh := rfl
@[simp] theorem dropWaiter_moved (k : Part) (n : Nat) : (dropWaiter k n).moved = k.moved := rfl
@[simp] theorem dropWaiter_pend (k : Part) (n : Nat) : (dropWaiter k n).pend = k.pend := rfl
@[simp] theorem dropWaiter_errands (k : Part) (n : Nat) : (dropWaiter k n).errands = k.errands := rfl
@[simp] theorem dropWaiter_tvec (k : Part) (n : Nat) : (dropWaiter k n).tvec = k.tvec := rfl
@[simp] theorem dropWaiter_nextCtx (k : Part) (n : Nat) : (dropWaiter k n).nextCtx = k.nextCtx := rfl
@[simp] theorem dropWaiter_nextUid (k : Part) (n : Nat) : (dropWaiter k n).nextUid = k.nextUid := rfl
@[simp] theorem dropWaiter_nextOrd (k : Part) (n : Nat) : (dropWaiter k n).nextOrd = k.nextOrd := rfl
@[simp] theorem dropWaiter_badWords (k : Part) (n : Nat) : (dropWaiter k n).badWords = k.badWords := rfl
@[simp] theorem dropWaiter_badTiles (k : Part) (n : Nat) : (dropWaiter k n).badTiles = k.badTiles := rfl
@[simp] theorem dropWaiter_badVregs (k : Part) (n : Nat) : (dropWaiter k n).badVregs = k.badVregs := rfl
@[simp] theorem dropWaiter_monitors (k : Part) (n : Nat) : (dropWaiter k n).monitors = k.monitors := rfl
@[simp] theorem setSreg_live (s : Slot) (r : Nat) (v : Word) : (setSreg s r v).live = s.live := rfl
@[simp] theorem setSreg_kind (s : Slot) (r : Nat) (v : Word) : (setSreg s r v).kind = s.kind := rfl
@[simp] theorem setSreg_ctx (s : Slot) (r : Nat) (v : Word) : (setSreg s r v).ctx = s.ctx := rfl
@[simp] theorem setSreg_pc (s : Slot) (r : Nat) (v : Word) : (setSreg s r v).pc = s.pc := rfl
@[simp] theorem setSreg_preds (s : Slot) (r : Nat) (v : Word) : (setSreg s r v).preds = s.preds := rfl
@[simp] theorem setSreg_rings (s : Slot) (r : Nat) (v : Word) : (setSreg s r v).rings = s.rings := rfl
@[simp] theorem setSreg_loops (s : Slot) (r : Nat) (v : Word) : (setSreg s r v).loops = s.loops := rfl
@[simp] theorem setSreg_fpflags (s : Slot) (r : Nat) (v : Word) : (setSreg s r v).fpflags = s.fpflags := rfl
@[simp] theorem setSreg_fpmode (s : Slot) (r : Nat) (v : Word) : (setSreg s r v).fpmode = s.fpmode := rfl
@[simp] theorem setSreg_waitlim (s : Slot) (r : Nat) (v : Word) : (setSreg s r v).waitlim = s.waitlim := rfl
@[simp] theorem setSreg_mmring (s : Slot) (r : Nat) (v : Word) : (setSreg s r v).mmring = s.mmring := rfl
@[simp] theorem setSreg_sks (s : Slot) (r : Nat) (v : Word) : (setSreg s r v).sks = s.sks := rfl
@[simp] theorem setSreg_smres (s : Slot) (r : Nat) (v : Word) : (setSreg s r v).smres = s.smres := rfl
@[simp] theorem setSreg_xlast (s : Slot) (r : Nat) (v : Word) : (setSreg s r v).xlast = s.xlast := rfl
@[simp] theorem setSreg_token (s : Slot) (r : Nat) (v : Word) : (setSreg s r v).token = s.token := rfl
@[simp] theorem setSreg_handler (s : Slot) (r : Nat) (v : Word) : (setSreg s r v).handler = s.handler := rfl
@[simp] theorem setSreg_hcause (s : Slot) (r : Nat) (v : Word) : (setSreg s r v).hcause = s.hcause := rfl
@[simp] theorem setSreg_tcause (s : Slot) (r : Nat) (v : Word) : (setSreg s r v).tcause = s.tcause := rfl
@[simp] theorem setSreg_tpc (s : Slot) (r : Nat) (v : Word) : (setSreg s r v).tpc = s.tpc := rfl
@[simp] theorem setSreg_tval (s : Slot) (r : Nat) (v : Word) : (setSreg s r v).tval = s.tval := rfl
@[simp] theorem setSreg_tinfo (s : Slot) (r : Nat) (v : Word) : (setSreg s r v).tinfo = s.tinfo := rfl
@[simp] theorem setSreg_tbody (s : Slot) (r : Nat) (v : Word) : (setSreg s r v).tbody = s.tbody := rfl
@[simp] theorem setSreg_tscr (s : Slot) (r : Nat) (v : Word) : (setSreg s r v).tscr = s.tscr := rfl
@[simp] theorem setSreg_region (s : Slot) (r : Nat) (v : Word) : (setSreg s r v).region = s.region := rfl
@[simp] theorem setSreg_loads (s : Slot) (r : Nat) (v : Word) : (setSreg s r v).loads = s.loads := rfl
@[simp] theorem setSreg_hold (s : Slot) (r : Nat) (v : Word) : (setSreg s r v).hold = s.hold := rfl
@[simp] theorem setSreg_cap (s : Slot) (r : Nat) (v : Word) : (setSreg s r v).cap = s.cap := rfl
@[simp] theorem setSreg_rels (s : Slot) (r : Nat) (v : Word) : (setSreg s r v).rels = s.rels := rfl
@[simp] theorem setSreg_walkFault (s : Slot) (r : Nat) (v : Word) : (setSreg s r v).walkFault = s.walkFault := rfl
@[simp] theorem setSreg_readyAt (s : Slot) (r : Nat) (v : Word) : (setSreg s r v).readyAt = s.readyAt := rfl
@[simp] theorem setSreg_loadedAt (s : Slot) (r : Nat) (v : Word) : (setSreg s r v).loadedAt = s.loadedAt := rfl
@[simp] theorem setSreg_sender (s : Slot) (r : Nat) (v : Word) : (setSreg s r v).sender = s.sender := rfl
@[simp] theorem setSreg_task (s : Slot) (r : Nat) (v : Word) : (setSreg s r v).task = s.task := rfl
@[simp] theorem returnFromTrap_live (s : Slot) : (returnFromTrap s).live = s.live := rfl
@[simp] theorem returnFromTrap_kind (s : Slot) : (returnFromTrap s).kind = s.kind := rfl
@[simp] theorem returnFromTrap_ctx (s : Slot) : (returnFromTrap s).ctx = s.ctx := rfl
@[simp] theorem returnFromTrap_sregs (s : Slot) : (returnFromTrap s).sregs = s.sregs := rfl
@[simp] theorem returnFromTrap_preds (s : Slot) : (returnFromTrap s).preds = s.preds := rfl
@[simp] theorem returnFromTrap_rings (s : Slot) : (returnFromTrap s).rings = s.rings := rfl
@[simp] theorem returnFromTrap_loops (s : Slot) : (returnFromTrap s).loops = s.loops := rfl
@[simp] theorem returnFromTrap_fpflags (s : Slot) : (returnFromTrap s).fpflags = s.fpflags := rfl
@[simp] theorem returnFromTrap_fpmode (s : Slot) : (returnFromTrap s).fpmode = s.fpmode := rfl
@[simp] theorem returnFromTrap_waitlim (s : Slot) : (returnFromTrap s).waitlim = s.waitlim := rfl
@[simp] theorem returnFromTrap_mmring (s : Slot) : (returnFromTrap s).mmring = s.mmring := rfl
@[simp] theorem returnFromTrap_sks (s : Slot) : (returnFromTrap s).sks = s.sks := rfl
@[simp] theorem returnFromTrap_smres (s : Slot) : (returnFromTrap s).smres = s.smres := rfl
@[simp] theorem returnFromTrap_xlast (s : Slot) : (returnFromTrap s).xlast = s.xlast := rfl
@[simp] theorem returnFromTrap_token (s : Slot) : (returnFromTrap s).token = s.token := rfl
@[simp] theorem returnFromTrap_hcause (s : Slot) : (returnFromTrap s).hcause = s.hcause := rfl
@[simp] theorem returnFromTrap_tcause (s : Slot) : (returnFromTrap s).tcause = s.tcause := rfl
@[simp] theorem returnFromTrap_tpc (s : Slot) : (returnFromTrap s).tpc = s.tpc := rfl
@[simp] theorem returnFromTrap_tval (s : Slot) : (returnFromTrap s).tval = s.tval := rfl
@[simp] theorem returnFromTrap_tinfo (s : Slot) : (returnFromTrap s).tinfo = s.tinfo := rfl
@[simp] theorem returnFromTrap_tbody (s : Slot) : (returnFromTrap s).tbody = s.tbody := rfl
@[simp] theorem returnFromTrap_tscr (s : Slot) : (returnFromTrap s).tscr = s.tscr := rfl
@[simp] theorem returnFromTrap_region (s : Slot) : (returnFromTrap s).region = s.region := rfl
@[simp] theorem returnFromTrap_loads (s : Slot) : (returnFromTrap s).loads = s.loads := rfl
@[simp] theorem returnFromTrap_hold (s : Slot) : (returnFromTrap s).hold = s.hold := rfl
@[simp] theorem returnFromTrap_cap (s : Slot) : (returnFromTrap s).cap = s.cap := rfl
@[simp] theorem returnFromTrap_rels (s : Slot) : (returnFromTrap s).rels = s.rels := rfl
@[simp] theorem returnFromTrap_badRegs (s : Slot) : (returnFromTrap s).badRegs = s.badRegs := rfl
@[simp] theorem returnFromTrap_walkFault (s : Slot) : (returnFromTrap s).walkFault = s.walkFault := rfl
@[simp] theorem returnFromTrap_readyAt (s : Slot) : (returnFromTrap s).readyAt = s.readyAt := rfl
@[simp] theorem returnFromTrap_loadedAt (s : Slot) : (returnFromTrap s).loadedAt = s.loadedAt := rfl
@[simp] theorem returnFromTrap_sender (s : Slot) : (returnFromTrap s).sender = s.sender := rfl
@[simp] theorem returnFromTrap_task (s : Slot) : (returnFromTrap s).task = s.task := rfl
@[simp] theorem setChain_copies (i : Inst) (k : Nat) (c : List Rec) : (setChain i k c).copies = i.copies := rfl
@[simp] theorem setChain_horizons (i : Inst) (k : Nat) (c : List Rec) : (setChain i k c).horizons = i.horizons := rfl
@[simp] theorem setChain_stall (i : Inst) (k : Nat) (c : List Rec) : (setChain i k c).stall = i.stall := rfl
@[simp] theorem setChain_merging (i : Inst) (k : Nat) (c : List Rec) : (setChain i k c).merging = i.merging := rfl
@[simp] theorem setChain_ptr (i : Inst) (k : Nat) (c : List Rec) : (setChain i k c).ptr = i.ptr := rfl
@[simp] theorem setChain_ptrAt (i : Inst) (k : Nat) (c : List Rec) : (setChain i k c).ptrAt = i.ptrAt := rfl
@[simp] theorem with_time (s : State) (q : Pkg) : (s.with q).time = s.time := rfl
@[simp] theorem with_site (s : State) (q : Pkg) : (s.with q).site = s.site := rfl
@[simp] theorem with_inputs (s : State) (q : Pkg) : (s.with q).inputs = s.inputs := rfl
@[simp] theorem with_turnNo (s : State) (q : Pkg) : (s.with q).turnNo = s.turnNo := rfl
@[simp] theorem with_turn (s : State) (q : Pkg) : (s.with q).turn = s.turn := rfl
@[simp] theorem with_core (s : State) (q : Pkg) : (s.with q).core = s.core := rfl
@[simp] theorem with_slot (s : State) (q : Pkg) : (s.with q).slot = s.slot := rfl
@[simp] theorem with_pkg (s : State) (q : Pkg) : (s.with q).pkg = q := rfl

end Sys2Proof.Machine
end

