-- ==== Sys2Proof/Laws/Memory.lean ====
section
/-!
SUPPORT. The laws of device memory: reset has the canonical form and every operation that writes memory keeps it; what is written is
read back, and every other byte stands.
-/
namespace Sys2Proof.Machine

/-- A package whose device memory has the canonical form. -/
abbrev Pkg.memWf (p : Pkg) : Prop := Memory.wf p.dram

theorem reset_memWf : State.reset.pkg.memWf := by decide

/-- A write of bytes keeps the canonical form. -/
theorem dramWrite_wf {m : List Host.Cell} (h : Memory.wf m) (a : Nat) (bs : List Byte) : Memory.wf (dramWrite m a bs) := by
  induction bs generalizing m a with
  | nil => exact h
  | cons b rest ih => exact ih (mapWf_put h a b) (a + 1)

/-- A byte outside the bytes written stands. -/
theorem dramWrite_other (m : List Host.Cell) (a : Nat) (bs : List Byte) {x : Nat} (h : x < a ∨ a + bs.length ≤ x) :
    mapGet (0 : Byte) (dramWrite m a bs) x = mapGet 0 m x := by
  induction bs generalizing m a with
  | nil => rfl
  | cons b rest ih =>
    simp only [List.length_cons] at h
    rw [dramWrite, ih _ _ (by omega)]
    exact mapGet_put_other 0 m b (by omega)

/-- A byte written is read back. -/
theorem dramWrite_self {m : List Host.Cell} (h : Memory.wf m) (a : Nat) (bs : List Byte) {i : Nat} (hi : i < bs.length) :
    mapGet (0 : Byte) (dramWrite m a bs) (a + i) = bs[i] := by
  induction bs generalizing m a i with
  | nil => simp at hi
  | cons b rest ih =>
    rw [dramWrite]
    cases i with
    | zero =>
      rw [dramWrite_other _ _ _ (by omega)]
      have hs : mapSorted 0 m = true := by
        have := h; simp only [Memory.wf, mapWf, Bool.and_eq_true] at this; exact this.1
      simpa using mapGet_put_self (0 : Byte) hs a b
    | succ j =>
      have := ih (mapWf_put h a b) (a + 1) (i := j) (by simpa using hi)
      rw [show a + (j + 1) = a + 1 + j by omega, this]
      simp

theorem floorWrite_memWf {p : Pkg} (h : p.memWf) (g tag : Nat) (v : Granule) : (floorWrite p g tag v).memWf :=
  dramWrite_wf h (g * 32) (leBytes 32 v.toNat)

theorem updateCopy_dram (p : Pkg) (lvl n k : Nat) (r : Rec) : (updateCopy p lvl n k r).dram = p.dram := by
  simp only [updateCopy]
  split <;> rfl

/-- A fold that goes on as long as no step is blocked keeps what each step keeps. -/
theorem foldl_ok_keeps {α : Type} {P : Pkg → Prop} {g : Pkg → α → Except Block Pkg} (hg : ∀ q a z, P q → g q a = .ok z → P z)
    (l : List α) {p z : Pkg} (hp : P p)
    (hz : l.foldl (fun (acc : Except Block Pkg) o => match acc with
      | .error e => .error e
      | .ok q => g q o) (.ok p) = .ok z) : P z := by
  suffices h : ∀ (acc : Except Block Pkg), (∀ y, acc = .ok y → P y) → ∀ y, l.foldl (fun (acc : Except Block Pkg) o => match acc with
      | .error e => .error e
      | .ok q => g q o) acc = .ok y → P y from h (.ok p) (fun y hy => by cases hy; exact hp) z hz
  clear hz
  induction l with
  | nil => exact fun acc ha y hy => ha y hy
  | cons o l ihl =>
    intro acc ha y hy
    refine ihl _ ?_ y hy
    intro w hw
    cases acc with
    | error e => simp at hw
    | ok q => exact hg q o w (ha q rfl) hw

theorem place_memWf {p q : Pkg} {lvl n m k l : Nat} {c : List Rec} {r : Rec} (h : p.memWf)
    (hq : (Except.ok (updateCopy (setInst p lvl n (setChain (instOf p lvl n) k c)) l m k r) : Except Block Pkg) = .ok q) : q.memWf := by
  cases hq
  rw [Pkg.memWf, updateCopy_dram]
  exact h

/-- The publication of a record keeps the canonical form. -/
theorem sendOut_memWf (fuel : Nat) {p q : Pkg} {now lvl n k : Nat} {r : Rec} (h : p.memWf)
    (hq : sendOut fuel p now lvl n k r = .ok q) : q.memWf := by
  induction fuel generalizing p q lvl n k r with
  | zero => simp [sendOut] at hq
  | succ fuel ih =>
    have out := fun (l m key : Nat) (rs : List Rec) (z : Pkg) => foldl_ok_keeps (P := Pkg.memWf)
      (g := fun q o => sendOut fuel q now l m key o) (fun _ _ _ hw hs => ih hw hs) rs (z := z) h
    rw [sendOut] at hq
    dsimp only at hq
    split at hq
    · simp at hq
    · split at hq
      · split at hq
        · simp at hq
        · split at hq
          · simp at hq
          · cases hq
            rw [Pkg.memWf, updateCopy_dram]
            exact floorWrite_memWf h _ _ _
      · split at hq
        · simp at hq
        · split at hq
          · simp at hq
          · split at hq
            · simp at hq
            · split at hq
              · simp at hq
              · split at hq
                · exact place_memWf h hq
                · split at hq
                  · exact place_memWf h hq
                  · split at hq
                    · simp at hq
                    · rename_i p1 hout
                      have h1 : p1.memWf := out _ _ _ _ _ hout
                      exact place_memWf (p := setInst p1 _ _ _) h1 hq
              · split at hq
                · simp at hq
                · rename_i p1 hout
                  exact place_memWf (out _ _ _ _ _ hout) hq

theorem sendAll_memWf {p q : Pkg} {now lvl n k : Nat} {rs : List Rec} (h : p.memWf) (hq : sendAll p now lvl n k rs = .ok q) :
    q.memWf := by
  induction rs generalizing p with
  | nil => cases hq; exact h
  | cons r rest ih =>
    rw [sendAll] at hq
    split at hq
    · cases hq
    · rename_i p1 h1
      exact ih (sendOut_memWf 4 h h1) hq

theorem mergeKey_memWf {p q : Pkg} {now lvl n k : Nat} (h : p.memWf) (hq : mergeKey p now lvl n k = .ok q) : q.memWf := by
  unfold mergeKey at hq
  simp only at hq
  split at hq
  · cases hq; exact h
  · split at hq
    · cases hq
    · rename_i p1 h1
      cases hq
      have h2 := sendAll_memWf h h1
      exact h2

theorem mergeFrozen_memWf {p q : Pkg} {now lvl n k : Nat} (h : p.memWf) (hq : mergeFrozen p now lvl n k = .ok q) : q.memWf := by
  unfold mergeFrozen at hq
  simp only at hq
  split at hq
  · cases hq
  · rename_i p1 h1
    cases hq
    have h2 := sendAll_memWf h h1
    exact h2

theorem mergeUpTo_memWf {steps : Nat} {p q : Pkg} {now c lvl k : Nat} (h : p.memWf)
    (hq : mergeUpTo steps p now c lvl k = .ok q) : q.memWf := by
  induction steps generalizing p lvl with
  | zero => cases hq; exact h
  | succ n ih =>
    rw [mergeUpTo] at hq
    split at hq
    · cases hq
    · rename_i p1 h1
      exact ih (mergeKey_memWf h h1) hq

theorem keyPushFrom_memWf {lvl : Nat} {p q : Pkg} {now c top k : Nat} (h : p.memWf)
    (hq : keyPushFrom lvl p now c top k = .ok q) : q.memWf := by
  induction lvl generalizing p with
  | zero => cases hq; exact h
  | succ n ih =>
    rw [keyPushFrom] at hq
    split at hq
    · cases hq
    · rename_i p1 h1
      exact ih (mergeUpTo_memWf h h1) hq

theorem keyPush_memWf {p q : Pkg} {now c s k : Nat} (h : p.memWf) (hq : keyPush p now c s k = .ok q) : q.memWf :=
  keyPushFrom_memWf h hq

theorem insertAt_memWf {p q : Pkg} {now lvl n k : Nat} {u : Rec} (h : p.memWf) (hq : insertAt p now lvl n k u = .ok q) :
    q.memWf := by
  have merged := fun (key : Nat) (z : Pkg) (hz : mergeKey p now lvl n key = .ok z) => mergeKey_memWf h hz
  unfold insertAt at hq
  split at hq
  · simp at hq
  · split at hq
    · simp at hq
    · dsimp only at hq
      split at hq
      · split at hq
        · cases hq; exact h
        · split at hq
          · cases hq; exact h
          · split at hq
            · simp at hq
            · rename_i p1 h1
              cases hq
              have h2 : p1.memWf := merged _ _ h1
              exact h2
      · split at hq
        · simp at hq
        · rename_i p1 h1
          cases hq
          have h2 : p1.memWf := merged _ _ h1
          exact h2

end Sys2Proof.Machine
end

