-- ==== Sys2Proof/Laws/Ops.lean ====
section
/-!
SUPPORT. What the shared operations do, each said once: what is read of a core, a part and a slot after they are written; what an
instruction's outcome makes of the state; the ways in which a trap is taken; merged lanes.
-/
namespace Sys2Proof.Machine

/-! Reading back. -/

theorem coreOf_setCore_other (p : Pkg) {c d : Nat} (k : Core) (h : d ≠ c) : coreOf (setCore p c k) d = coreOf p d :=
  mapGet_put_other coreReset p.cores k h

theorem coreOf_setCore_self (p : Pkg) (c : Nat) {k : Core} (h : k ≠ coreReset) : coreOf (setCore p c k) c = k := by
  simp [coreOf, setCore, mapPut, h]

theorem coreOf_setCore_sorted {p : Pkg} (hs : mapSorted 0 p.cores = true) (c : Nat) (k : Core) :
    coreOf (setCore p c k) c = k := mapGet_put_self coreReset hs c k

theorem coreOf_updPart_other (p : Pkg) {c d : Nat} (g : Part → Part) (h : d ≠ c) : coreOf (updPart p c g) d = coreOf p d :=
  coreOf_setCore_other p _ h

theorem slotOf_setSlot_other (k : Part) {n m : Nat} (s : Slot) (h : m ≠ n) : slotOf (setSlot k n s) m = slotOf k m :=
  mapGet_put_other slotReset k.slots s h

theorem slotOf_setSlot_self (k : Part) (n : Nat) {s : Slot} (h : s ≠ slotReset) : slotOf (setSlot k n s) n = s := by
  simp [slotOf, setSlot, mapPut, h]

/-- A slot with a context is not the empty slot. -/
theorem ne_slotReset {s : Slot} (h : s.live = true) : s ≠ slotReset := by
  rintro rfl; simp [slotReset] at h

theorem slotOf_updSlot_live {k : Part} {n : Nat} {g : Slot → Slot} (h : (g (slotOf k n)).live = true) :
    slotOf (updSlot k n g) n = g (slotOf k n) := slotOf_setSlot_self k n (ne_slotReset h)

theorem slotOf_updSlot_other (k : Part) {n m : Nat} (g : Slot → Slot) (h : m ≠ n) : slotOf (updSlot k n g) m = slotOf k m :=
  slotOf_setSlot_other k _ h

/-- A core one of whose slots holds a context is not the core at reset. -/
theorem ne_coreReset {k : Core} {n : Nat} (h : (slotOf k.part n).live = true) : k ≠ coreReset := by
  rintro rfl
  rw [show slotOf coreReset.part n = slotReset from rfl] at h
  simp [slotReset] at h

theorem partOf_setPart_live {p : Pkg} {c n : Nat} {k : Part} (h : (slotOf k n).live = true) : partOf (setPart p c k) c = k := by
  have : ({ coreOf p c with part := k } : Core) ≠ coreReset := ne_coreReset (n := n) h
  simp only [partOf, setPart, updCore, coreOf_setCore_self p c this]

theorem sregOf_setSreg_other (s : Slot) {r q : Nat} (v : Word) (h : q ≠ r) : sregOf (setSreg s r v) q = sregOf s q :=
  mapGet_put_other 0 s.sregs v h

theorem instOf_setInst_other (p : Pkg) {lvl n m l : Nat} (i : Inst) (h : l * 4096 + m ≠ lvl * 4096 + n) :
    instOf (setInst p lvl n i) l m = instOf p l m := mapGet_put_other instReset p.insts i h

theorem chainOf_setChain_other (i : Inst) {k j : Nat} (c : List Rec) (h : j ≠ k) : chainOf (setChain i k c) j = chainOf i j :=
  mapGet_put_other [] i.run c h

/-! Outcomes of an instruction. -/

/-- What stands at a hold already stands so. -/
theorem stand_same {q : Pkg} {cx : Cx} {h : Hold} (hq : holdOf q cx = h) : stand q cx h = q := if_pos hq

theorem stand_fresh {q : Pkg} {cx : Cx} {h : Hold} (hq : fresh (holdOf q cx) = true) (hn : holdOf q cx ≠ h) :
    stand q cx h = setHold q cx h := by simp [stand, hq, hn]

theorem settle_stay (p q : Pkg) (cx : Cx) (f : Fields) : settle p cx f (.stay q) = stand q cx .none := rfl
theorem settle_busy (p q : Pkg) (cx : Cx) (f : Fields) : settle p cx f (.busy q) = stand q cx .busy := rfl
theorem settle_gone (p q : Pkg) (cx : Cx) (f : Fields) : settle p cx f (.gone q) = q := rfl

theorem settle_trap {p : Pkg} {cx : Cx} {f : Fields} {t : Trap}
    (h : (slotOf (partOf p cx.core) cx.slot).pc + 12 < textSizeOf p cx.core ∨ afterChecks t = false) :
    settle p cx f (.trap t) = trapped p cx f t := by
  rcases h with h | h
  · simp [settle, Nat.not_le.mpr h]
  · simp [settle, h]

theorem settle_jump (p q : Pkg) (cx : Cx) (f : Fields) (t : Int) :
    settle p cx f (.jump q t) =
      if targetOk (textSizeOf p cx.core) t then goTo (markIssued q cx f) cx t.toNat else trapped p cx f (alignTrap t) := rfl

/-- A word that runs and traps makes the state `trapState`. -/
theorem issue_trap {i : Instr} {c : Nat} {f : Fields} {g : Guarding} {body : Fields → Cx → Pkg → Eff} {s : State} {t : Trap}
    (hw : i.word = some (c, f)) (h : runs i g s = true) (hb : body f (cxOf s) s.pkg = .trap t) :
    issue i g body s = .next (trapState s f t) := by
  rw [issue_of_runs hw h, hb, settle_trap (p := s.pkg) (cx := cxOf s) (.inl (inText_of_runs hw h))]
  rfl

/-- A word that runs and waits is tried again at the slot's next turn. -/
theorem issue_stay {i : Instr} {c : Nat} {f : Fields} {g : Guarding} {body : Fields → Cx → Pkg → Eff} {s : State} {q : Pkg}
    (hw : i.word = some (c, f)) (h : runs i g s = true) (hb : body f (cxOf s) s.pkg = .stay q)
    (hq : holdOf q (cxOf s) = .none) : issue i g body s = .next (s.with q) := by
  rw [issue_of_runs hw h, hb, settle_stay, stand_same hq]

theorem issue_busy {i : Instr} {c : Nat} {f : Fields} {g : Guarding} {body : Fields → Cx → Pkg → Eff} {s : State} {q : Pkg}
    (hw : i.word = some (c, f)) (h : runs i g s = true) (hb : body f (cxOf s) s.pkg = .busy q) :
    issue i g body s = .next (s.with (stand q (cxOf s) .busy)) := by
  rw [issue_of_runs hw h, hb, settle_busy]

/-- A slot that is to issue holds for nothing. -/
theorem hold_of_runs {i : Instr} {c : Nat} {f : Fields} {g : Guarding} {s : State}
    (hw : i.word = some (c, f)) (h : runs i g s = true) : s.cur.live = true ∧ s.cur.hold = .none := by
  simp only [runs, hw, readyWord, Bool.and_eq_true, decide_eq_true_eq] at h
  exact ⟨h.1.1.1.1.1.1.1.1.1.1, h.1.1.1.1.1.1.1.1.1.2⟩

/-- A word that runs and comes to its push has issued and stands there. -/
theorem issue_push {i : Instr} {c : Nat} {f : Fields} {g : Guarding} {body : Fields → Cx → Pkg → Eff} {s : State} {q : Pkg} {k : Hold}
    (hw : i.word = some (c, f)) (h : runs i g s = true) (hb : body f (cxOf s) s.pkg = .push q k) :
    issue i g body s = .next (s.with (stand (markIssued q (cxOf s) f) (cxOf s) k)) := by
  have hn : holdOf s.pkg (cxOf s) = .none := (hold_of_runs hw h).2
  have ht : ¬ textSizeOf s.pkg (cxOf s).core ≤ (slotOf (partOf s.pkg (cxOf s).core) (cxOf s).slot).pc + 12 :=
    Nat.not_le.mpr (inText_of_runs hw h)
  rw [issue_of_runs hw h, hb]
  simp [settle, ht, hn, hasIssued]

theorem issue_gone {i : Instr} {c : Nat} {f : Fields} {g : Guarding} {body : Fields → Cx → Pkg → Eff} {s : State} {q : Pkg}
    (hw : i.word = some (c, f)) (h : runs i g s = true) (hb : body f (cxOf s) s.pkg = .gone q) :
    issue i g body s = .next (s.with q) := by
  rw [issue_of_runs hw h, hb]; rfl

/-- A word that runs and begins to wait has issued. -/
theorem issue_hold {i : Instr} {c : Nat} {f : Fields} {g : Guarding} {body : Fields → Cx → Pkg → Eff} {s : State} {q : Pkg}
    (hw : i.word = some (c, f)) (h : runs i g s = true) (hb : body f (cxOf s) s.pkg = .hold q) :
    issue i g body s = .next (s.with (markIssued q (cxOf s) f)) := by
  have ht := inText_of_runs hw h
  have hn : holdOf s.pkg (cxOf s) = .none := (hold_of_runs hw h).2
  rw [issue_of_runs hw h, hb]
  have ht' : ¬ textSizeOf s.pkg (cxOf s).core ≤ (slotOf (partOf s.pkg (cxOf s).core) (cxOf s).slot).pc + 12 := Nat.not_le.mpr ht
  simp [settle, ht', hn, hasIssued]

/-! Traps. -/

/-- A trap in handler mode ends the team (R311). -/
theorem takeTrap_nested {p : Pkg} {now c n : Nat} {t : Trap} (h : (slotOf (partOf p c) n).handler = true) :
    takeTrap p now c n t = endTeam (report p now (trapReport (partOf p c) c n t true true)) now c 3 := by
  simp [takeTrap, h]

/-- A trap of a handler on the errand slot ends that handler (R208). -/
theorem takeTrap_errand {p : Pkg} {now c n : Nat} {t : Trap} (h : (slotOf (partOf p c) n).handler = false)
    (hk : (slotOf (partOf p c) n).kind = .errand) :
    takeTrap p now c n t = endHandler (report p now (trapReport (partOf p c) c n t false false)) now c n
      (fun uid => .refusal uid 0x3E (BitVec.ofNat 64 t.cause)) := by
  simp [takeTrap, h, hk]

/-- Otherwise it enters the handler where the vector is valid (R309). -/
theorem takeTrap_enters {p : Pkg} {now c n : Nat} {t : Trap} (h : (slotOf (partOf p c) n).handler = false)
    (hk : (slotOf (partOf p c) n).kind ≠ .errand) (hv : vectorOk (partOf p c).tvec (textSizeOf p c) = true) :
    takeTrap p now c n t = setPart (dropWalks p c n) c (enterHandler (partOf p c) n t) := by
  simp [takeTrap, h, hk, hv]

/-- And ends the team where it is not (R309). -/
theorem takeTrap_ends {p : Pkg} {now c n : Nat} {t : Trap} (h : (slotOf (partOf p c) n).handler = false)
    (hk : (slotOf (partOf p c) n).kind ≠ .errand) (hv : vectorOk (partOf p c).tvec (textSizeOf p c) = false) :
    takeTrap p now c n t = endTeam (report p now (trapReport (partOf p c) c n t false true)) now c 3 := by
  simp [takeTrap, h, hk, hv]

/-! Lanes. -/

/-- Under an all-true guard the new value is taken whole. -/
theorem mergeLanes_all (old new : VReg) : mergeLanes allTrue old new = new := by simp [mergeLanes]

end Sys2Proof.Machine
end

