-- ==== Sys2Proof/Laws/PerInstr.lean ====
section
/-!
SUPPORT. For every instruction: the row of the catalogue under its opcode makes it from its fields.
-/
namespace Sys2Proof.Laws

/-- The opcode of a word lies below 512, and its row makes the instruction from its fields (R44, R49). -/
def Row.Statement (i : Instr) : Prop :=
  match i.word with
  | some (c, f) => c < 512 ∧ ∃ row, rowOf c = some row ∧ row.make f = i
  | none => True

theorem Row.nop : ∀ x0, Row.Statement (.nop x0) := fun _ => ⟨by decide, _, rfl, rfl⟩
theorem Row.bra : ∀ x0, Row.Statement (.bra x0) := fun _ => ⟨by decide, _, rfl, rfl⟩
theorem Row.brx : ∀ x0, Row.Statement (.brx x0) := fun _ => ⟨by decide, _, rfl, rfl⟩
theorem Row.call : ∀ x0, Row.Statement (.call x0) := fun _ => ⟨by decide, _, rfl, rfl⟩
theorem Row.ret : ∀ x0, Row.Statement (.ret x0) := fun _ => ⟨by decide, _, rfl, rfl⟩
theorem Row.loop : ∀ x0, Row.Statement (.loop x0) := fun _ => ⟨by decide, _, rfl, rfl⟩
theorem Row.lend : ∀ x0, Row.Statement (.lend x0) := fun _ => ⟨by decide, _, rfl, rfl⟩
theorem Row.yield : ∀ x0, Row.Statement (.yield x0) := fun _ => ⟨by decide, _, rfl, rfl⟩
theorem Row.sadd : ∀ x0, Row.Statement (.sadd x0) := fun _ => ⟨by decide, _, rfl, rfl⟩
theorem Row.ssub : ∀ x0, Row.Statement (.ssub x0) := fun _ => ⟨by decide, _, rfl, rfl⟩
theorem Row.smul : ∀ x0, Row.Statement (.smul x0) := fun _ => ⟨by decide, _, rfl, rfl⟩
theorem Row.smulh : ∀ x0, Row.Statement (.smulh x0) := fun _ => ⟨by decide, _, rfl, rfl⟩
theorem Row.sdiv : ∀ x0, Row.Statement (.sdiv x0) := fun _ => ⟨by decide, _, rfl, rfl⟩
theorem Row.srem : ∀ x0, Row.Statement (.srem x0) := fun _ => ⟨by decide, _, rfl, rfl⟩
theorem Row.sand : ∀ x0, Row.Statement (.sand x0) := fun _ => ⟨by decide, _, rfl, rfl⟩
theorem Row.sor : ∀ x0, Row.Statement (.sor x0) := fun _ => ⟨by decide, _, rfl, rfl⟩
theorem Row.sxor : ∀ x0, Row.Statement (.sxor x0) := fun _ => ⟨by decide, _, rfl, rfl⟩
theorem Row.sandn : ∀ x0, Row.Statement (.sandn x0) := fun _ => ⟨by decide, _, rfl, rfl⟩
theorem Row.sshl : ∀ x0, Row.Statement (.sshl x0) := fun _ => ⟨by decide, _, rfl, rfl⟩
theorem Row.sshr : ∀ x0, Row.Statement (.sshr x0) := fun _ => ⟨by decide, _, rfl, rfl⟩
theorem Row.ssra : ∀ x0, Row.Statement (.ssra x0) := fun _ => ⟨by decide, _, rfl, rfl⟩
theorem Row.srot : ∀ x0, Row.Statement (.srot x0) := fun _ => ⟨by decide, _, rfl, rfl⟩
theorem Row.smin : ∀ x0, Row.Statement (.smin x0) := fun _ => ⟨by decide, _, rfl, rfl⟩
theorem Row.smax : ∀ x0, Row.Statement (.smax x0) := fun _ => ⟨by decide, _, rfl, rfl⟩
theorem Row.sclz : ∀ x0, Row.Statement (.sclz x0) := fun _ => ⟨by decide, _, rfl, rfl⟩
theorem Row.spopc : ∀ x0, Row.Statement (.spopc x0) := fun _ => ⟨by decide, _, rfl, rfl⟩
theorem Row.sbfx : ∀ x0, Row.Statement (.sbfx x0) := fun _ => ⟨by decide, _, rfl, rfl⟩
theorem Row.sbfi : ∀ x0, Row.Statement (.sbfi x0) := fun _ => ⟨by decide, _, rfl, rfl⟩
theorem Row.ssel : ∀ x0, Row.Statement (.ssel x0) := fun _ => ⟨by decide, _, rfl, rfl⟩
theorem Row.smov : ∀ x0, Row.Statement (.smov x0) := fun _ => ⟨by decide, _, rfl, rfl⟩
theorem Row.sli : ∀ x0, Row.Statement (.sli x0) := fun _ => ⟨by decide, _, rfl, rfl⟩
theorem Row.scmp : ∀ x0, Row.Statement (.scmp x0) := fun _ => ⟨by decide, _, rfl, rfl⟩
theorem Row.slea : ∀ x0, Row.Statement (.slea x0) := fun _ => ⟨by decide, _, rfl, rfl⟩
theorem Row.pand : ∀ x0, Row.Statement (.pand x0) := fun _ => ⟨by decide, _, rfl, rfl⟩
theorem Row.por : ∀ x0, Row.Statement (.por x0) := fun _ => ⟨by decide, _, rfl, rfl⟩
theorem Row.pxor : ∀ x0, Row.Statement (.pxor x0) := fun _ => ⟨by decide, _, rfl, rfl⟩
theorem Row.pnot : ∀ x0, Row.Statement (.pnot x0) := fun _ => ⟨by decide, _, rfl, rfl⟩
theorem Row.pmov : ∀ x0, Row.Statement (.pmov x0) := fun _ => ⟨by decide, _, rfl, rfl⟩
theorem Row.pany : ∀ x0, Row.Statement (.pany x0) := fun _ => ⟨by decide, _, rfl, rfl⟩
theorem Row.pall : ∀ x0, Row.Statement (.pall x0) := fun _ => ⟨by decide, _, rfl, rfl⟩
theorem Row.pcnt : ∀ x0, Row.Statement (.pcnt x0) := fun _ => ⟨by decide, _, rfl, rfl⟩
theorem Row.vshfl : ∀ x0, Row.Statement (.vshfl x0) := fun _ => ⟨by decide, _, rfl, rfl⟩
theorem Row.vperm : ∀ x0, Row.Statement (.vperm x0) := fun _ => ⟨by decide, _, rfl, rfl⟩
theorem Row.vreda : ∀ x0, Row.Statement (.vreda x0) := fun _ => ⟨by decide, _, rfl, rfl⟩
theorem Row.vredm : ∀ x0, Row.Statement (.vredm x0) := fun _ => ⟨by decide, _, rfl, rfl⟩
theorem Row.vscan : ∀ x0, Row.Statement (.vscan x0) := fun _ => ⟨by decide, _, rfl, rfl⟩
theorem Row.vcomp : ∀ x0, Row.Statement (.vcomp x0) := fun _ => ⟨by decide, _, rfl, rfl⟩
theorem Row.vexpd : ∀ x0, Row.Statement (.vexpd x0) := fun _ => ⟨by decide, _, rfl, rfl⟩
theorem Row.vballot : ∀ x0, Row.Statement (.vballot x0) := fun _ => ⟨by decide, _, rfl, rfl⟩
theorem Row.vadd : ∀ x0, Row.Statement (.vadd x0) := fun _ => ⟨by decide, _, rfl, rfl⟩
theorem Row.vsub : ∀ x0, Row.Statement (.vsub x0) := fun _ => ⟨by decide, _, rfl, rfl⟩
theorem Row.vmul : ∀ x0, Row.Statement (.vmul x0) := fun _ => ⟨by decide, _, rfl, rfl⟩
theorem Row.vmulh : ∀ x0, Row.Statement (.vmulh x0) := fun _ => ⟨by decide, _, rfl, rfl⟩
theorem Row.vmad : ∀ x0, Row.Statement (.vmad x0) := fun _ => ⟨by decide, _, rfl, rfl⟩
theorem Row.vand : ∀ x0, Row.Statement (.vand x0) := fun _ => ⟨by decide, _, rfl, rfl⟩
theorem Row.vor : ∀ x0, Row.Statement (.vor x0) := fun _ => ⟨by decide, _, rfl, rfl⟩
theorem Row.vxor : ∀ x0, Row.Statement (.vxor x0) := fun _ => ⟨by decide, _, rfl, rfl⟩
theorem Row.vandn : ∀ x0, Row.Statement (.vandn x0) := fun _ => ⟨by decide, _, rfl, rfl⟩
theorem Row.vshl : ∀ x0, Row.Statement (.vshl x0) := fun _ => ⟨by decide, _, rfl, rfl⟩
theorem Row.vshr : ∀ x0, Row.Statement (.vshr x0) := fun _ => ⟨by decide, _, rfl, rfl⟩
theorem Row.vsra : ∀ x0, Row.Statement (.vsra x0) := fun _ => ⟨by decide, _, rfl, rfl⟩
theorem Row.vmin : ∀ x0, Row.Statement (.vmin x0) := fun _ => ⟨by decide, _, rfl, rfl⟩
theorem Row.vmax : ∀ x0, Row.Statement (.vmax x0) := fun _ => ⟨by decide, _, rfl, rfl⟩
theorem Row.vabs : ∀ x0, Row.Statement (.vabs x0) := fun _ => ⟨by decide, _, rfl, rfl⟩
theorem Row.vneg : ∀ x0, Row.Statement (.vneg x0) := fun _ => ⟨by decide, _, rfl, rfl⟩
theorem Row.vcmp : ∀ x0, Row.Statement (.vcmp x0) := fun _ => ⟨by decide, _, rfl, rfl⟩
theorem Row.vsel : ∀ x0, Row.Statement (.vsel x0) := fun _ => ⟨by decide, _, rfl, rfl⟩
theorem Row.vmov : ∀ x0, Row.Statement (.vmov x0) := fun _ => ⟨by decide, _, rfl, rfl⟩
theorem Row.vbcast : ∀ x0, Row.Statement (.vbcast x0) := fun _ => ⟨by decide, _, rfl, rfl⟩
theorem Row.vclz : ∀ x0, Row.Statement (.vclz x0) := fun _ => ⟨by decide, _, rfl, rfl⟩
theorem Row.vpopc : ∀ x0, Row.Statement (.vpopc x0) := fun _ => ⟨by decide, _, rfl, rfl⟩
theorem Row.fadd : ∀ x0, Row.Statement (.fadd x0) := fun _ => ⟨by decide, _, rfl, rfl⟩
theorem Row.fsub : ∀ x0, Row.Statement (.fsub x0) := fun _ => ⟨by decide, _, rfl, rfl⟩
theorem Row.fmul : ∀ x0, Row.Statement (.fmul x0) := fun _ => ⟨by decide, _, rfl, rfl⟩
theorem Row.ffma : ∀ x0, Row.Statement (.ffma x0) := fun _ => ⟨by decide, _, rfl, rfl⟩
theorem Row.fdiv : ∀ x0, Row.Statement (.fdiv x0) := fun _ => ⟨by decide, _, rfl, rfl⟩
theorem Row.fsqrt : ∀ x0, Row.Statement (.fsqrt x0) := fun _ => ⟨by decide, _, rfl, rfl⟩
theorem Row.fmin : ∀ x0, Row.Statement (.fmin x0) := fun _ => ⟨by decide, _, rfl, rfl⟩
theorem Row.fmax : ∀ x0, Row.Statement (.fmax x0) := fun _ => ⟨by decide, _, rfl, rfl⟩
theorem Row.fabs : ∀ x0, Row.Statement (.fabs x0) := fun _ => ⟨by decide, _, rfl, rfl⟩
theorem Row.fneg : ∀ x0, Row.Statement (.fneg x0) := fun _ => ⟨by decide, _, rfl, rfl⟩
theorem Row.fcmp : ∀ x0, Row.Statement (.fcmp x0) := fun _ => ⟨by decide, _, rfl, rfl⟩
theorem Row.frcp : ∀ x0, Row.Statement (.frcp x0) := fun _ => ⟨by decide, _, rfl, rfl⟩
theorem Row.frsq : ∀ x0, Row.Statement (.frsq x0) := fun _ => ⟨by decide, _, rfl, rfl⟩
theorem Row.fexp2 : ∀ x0, Row.Statement (.fexp2 x0) := fun _ => ⟨by decide, _, rfl, rfl⟩
theorem Row.flog2 : ∀ x0, Row.Statement (.flog2 x0) := fun _ => ⟨by decide, _, rfl, rfl⟩
theorem Row.ftanh : ∀ x0, Row.Statement (.ftanh x0) := fun _ => ⟨by decide, _, rfl, rfl⟩
theorem Row.fsin : ∀ x0, Row.Statement (.fsin x0) := fun _ => ⟨by decide, _, rfl, rfl⟩
theorem Row.fcos : ∀ x0, Row.Statement (.fcos x0) := fun _ => ⟨by decide, _, rfl, rfl⟩
theorem Row.fcvt : ∀ x0, Row.Statement (.fcvt x0) := fun _ => ⟨by decide, _, rfl, rfl⟩
theorem Row.icvt : ∀ x0, Row.Statement (.icvt x0) := fun _ => ⟨by decide, _, rfl, rfl⟩
theorem Row.fqnt : ∀ x0, Row.Statement (.fqnt x0) := fun _ => ⟨by decide, _, rfl, rfl⟩
theorem Row.xpack : ∀ x0, Row.Statement (.xpack x0) := fun _ => ⟨by decide, _, rfl, rfl⟩
theorem Row.xunpk : ∀ x0, Row.Statement (.xunpk x0) := fun _ => ⟨by decide, _, rfl, rfl⟩
theorem Row.xscale : ∀ x0, Row.Statement (.xscale x0) := fun _ => ⟨by decide, _, rfl, rfl⟩
theorem Row.lqnt : ∀ x0, Row.Statement (.lqnt x0) := fun _ => ⟨by decide, _, rfl, rfl⟩
theorem Row.ldec : ∀ x0, Row.Statement (.ldec x0) := fun _ => ⟨by decide, _, rfl, rfl⟩
theorem Row.mma : ∀ x0, Row.Statement (.mma x0) := fun _ => ⟨by decide, _, rfl, rfl⟩
theorem Row.mmas : ∀ x0, Row.Statement (.mmas x0) := fun _ => ⟨by decide, _, rfl, rfl⟩
theorem Row.mmar : ∀ x0, Row.Statement (.mmar x0) := fun _ => ⟨by decide, _, rfl, rfl⟩
theorem Row.accz : ∀ x0, Row.Statement (.accz x0) := fun _ => ⟨by decide, _, rfl, rfl⟩
theorem Row.accld : ∀ x0, Row.Statement (.accld x0) := fun _ => ⟨by decide, _, rfl, rfl⟩
theorem Row.accst : ∀ x0, Row.Statement (.accst x0) := fun _ => ⟨by decide, _, rfl, rfl⟩
theorem Row.seam : ∀ x0, Row.Statement (.seam x0) := fun _ => ⟨by decide, _, rfl, rfl⟩
theorem Row.unseam : ∀ x0, Row.Statement (.unseam x0) := fun _ => ⟨by decide, _, rfl, rfl⟩
theorem Row.ld : ∀ x0, Row.Statement (.ld x0) := fun _ => ⟨by decide, _, rfl, rfl⟩
theorem Row.ldv : ∀ x0, Row.Statement (.ldv x0) := fun _ => ⟨by decide, _, rfl, rfl⟩
theorem Row.st : ∀ x0, Row.Statement (.st x0) := fun _ => ⟨by decide, _, rfl, rfl⟩
theorem Row.stv : ∀ x0, Row.Statement (.stv x0) := fun _ => ⟨by decide, _, rfl, rfl⟩
theorem Row.fence : ∀ x0, Row.Statement (.fence x0) := fun _ => ⟨by decide, _, rfl, rfl⟩
theorem Row.mpush : ∀ x0, Row.Statement (.mpush x0) := fun _ => ⟨by decide, _, rfl, rfl⟩
theorem Row.mdrop : ∀ x0, Row.Statement (.mdrop x0) := fun _ => ⟨by decide, _, rfl, rfl⟩
theorem Row.msync : ∀ x0, Row.Statement (.msync x0) := fun _ => ⟨by decide, _, rfl, rfl⟩
theorem Row.drainst : ∀ x0, Row.Statement (.drainst x0) := fun _ => ⟨by decide, _, rfl, rfl⟩
theorem Row.arb : ∀ x0, Row.Statement (.arb x0) := fun _ => ⟨by decide, _, rfl, rfl⟩
theorem Row.are : ∀ x0, Row.Statement (.are x0) := fun _ => ⟨by decide, _, rfl, rfl⟩
theorem Row.pref : ∀ x0, Row.Statement (.pref x0) := fun _ => ⟨by decide, _, rfl, rfl⟩
theorem Row.ltset : ∀ x0, Row.Statement (.ltset x0) := fun _ => ⟨by decide, _, rfl, rfl⟩
theorem Row.ltget : ∀ x0, Row.Statement (.ltget x0) := fun _ => ⟨by decide, _, rfl, rfl⟩
theorem Row.lds : ∀ x0, Row.Statement (.lds x0) := fun _ => ⟨by decide, _, rfl, rfl⟩
theorem Row.sts : ∀ x0, Row.Statement (.sts x0) := fun _ => ⟨by decide, _, rfl, rfl⟩
theorem Row.ldsv : ∀ x0, Row.Statement (.ldsv x0) := fun _ => ⟨by decide, _, rfl, rfl⟩
theorem Row.stsv : ∀ x0, Row.Statement (.stsv x0) := fun _ => ⟨by decide, _, rfl, rfl⟩
theorem Row.ldsf : ∀ x0, Row.Statement (.ldsf x0) := fun _ => ⟨by decide, _, rfl, rfl⟩
theorem Row.stsf : ∀ x0, Row.Statement (.stsf x0) := fun _ => ⟨by decide, _, rfl, rfl⟩
theorem Row.amsg : ∀ x0, Row.Statement (.amsg x0) := fun _ => ⟨by decide, _, rfl, rfl⟩
theorem Row.amret : ∀ x0, Row.Statement (.amret x0) := fun _ => ⟨by decide, _, rfl, rfl⟩
theorem Row.rld : ∀ x0, Row.Statement (.rld x0) := fun _ => ⟨by decide, _, rfl, rfl⟩
theorem Row.rst : ∀ x0, Row.Statement (.rst x0) := fun _ => ⟨by decide, _, rfl, rfl⟩
theorem Row.rred : ∀ x0, Row.Statement (.rred x0) := fun _ => ⟨by decide, _, rfl, rfl⟩
theorem Row.rgath : ∀ x0, Row.Statement (.rgath x0) := fun _ => ⟨by decide, _, rfl, rfl⟩
theorem Row.cpy : ∀ x0, Row.Statement (.cpy x0) := fun _ => ⟨by decide, _, rfl, rfl⟩
theorem Row.cpyw : ∀ x0, Row.Statement (.cpyw x0) := fun _ => ⟨by decide, _, rfl, rfl⟩
theorem Row.smrg : ∀ x0, Row.Statement (.smrg x0) := fun _ => ⟨by decide, _, rfl, rfl⟩
theorem Row.bari : ∀ x0, Row.Statement (.bari x0) := fun _ => ⟨by decide, _, rfl, rfl⟩
theorem Row.bara : ∀ x0, Row.Statement (.bara x0) := fun _ => ⟨by decide, _, rfl, rfl⟩
theorem Row.bart : ∀ x0, Row.Statement (.bart x0) := fun _ => ⟨by decide, _, rfl, rfl⟩
theorem Row.barw : ∀ x0, Row.Statement (.barw x0) := fun _ => ⟨by decide, _, rfl, rfl⟩
theorem Row.hwbar : ∀ x0, Row.Statement (.hwbar x0) := fun _ => ⟨by decide, _, rfl, rfl⟩
theorem Row.qdef : ∀ x0, Row.Statement (.qdef x0) := fun _ => ⟨by decide, _, rfl, rfl⟩
theorem Row.qadv : ∀ x0, Row.Statement (.qadv x0) := fun _ => ⟨by decide, _, rfl, rfl⟩
theorem Row.qpub : ∀ x0, Row.Statement (.qpub x0) := fun _ => ⟨by decide, _, rfl, rfl⟩
theorem Row.qcnt : ∀ x0, Row.Statement (.qcnt x0) := fun _ => ⟨by decide, _, rfl, rfl⟩
theorem Row.lnturn : ∀ x0, Row.Statement (.lnturn x0) := fun _ => ⟨by decide, _, rfl, rfl⟩
theorem Row.lnstat : ∀ x0, Row.Statement (.lnstat x0) := fun _ => ⟨by decide, _, rfl, rfl⟩
theorem Row.start : ∀ x0, Row.Statement (.start x0) := fun _ => ⟨by decide, _, rfl, rfl⟩
theorem Row.spawn : ∀ x0, Row.Statement (.spawn x0) := fun _ => ⟨by decide, _, rfl, rfl⟩
theorem Row.join : ∀ x0, Row.Statement (.join x0) := fun _ => ⟨by decide, _, rfl, rfl⟩
theorem Row.texit : ∀ x0, Row.Statement (.texit x0) := fun _ => ⟨by decide, _, rfl, rfl⟩
theorem Row.wait : ∀ x0, Row.Statement (.wait x0) := fun _ => ⟨by decide, _, rfl, rfl⟩
theorem Row.wake : ∀ x0, Row.Statement (.wake x0) := fun _ => ⟨by decide, _, rfl, rfl⟩
theorem Row.sleep : ∀ x0, Row.Statement (.sleep x0) := fun _ => ⟨by decide, _, rfl, rfl⟩
theorem Row.teamk : ∀ x0, Row.Statement (.teamk x0) := fun _ => ⟨by decide, _, rfl, rfl⟩
theorem Row.repart : ∀ x0, Row.Statement (.repart x0) := fun _ => ⟨by decide, _, rfl, rfl⟩
theorem Row.trap : ∀ x0, Row.Statement (.trap x0) := fun _ => ⟨by decide, _, rfl, rfl⟩
theorem Row.eret : ∀ x0, Row.Statement (.eret x0) := fun _ => ⟨by decide, _, rfl, rfl⟩
theorem Row.csrr : ∀ x0, Row.Statement (.csrr x0) := fun _ => ⟨by decide, _, rfl, rfl⟩
theorem Row.csrw : ∀ x0, Row.Statement (.csrw x0) := fun _ => ⟨by decide, _, rfl, rfl⟩
theorem Row.tlbinv : ∀ x0, Row.Statement (.tlbinv x0) := fun _ => ⟨by decide, _, rfl, rfl⟩
theorem Row.keyset : ∀ x0, Row.Statement (.keyset x0) := fun _ => ⟨by decide, _, rfl, rfl⟩
theorem Row.keykill : ∀ x0, Row.Statement (.keykill x0) := fun _ => ⟨by decide, _, rfl, rfl⟩
theorem Row.mfault : ∀ x0, Row.Statement (.mfault x0) := fun _ => ⟨by decide, _, rfl, rfl⟩
theorem Row.mres : ∀ x0, Row.Statement (.mres x0) := fun _ => ⟨by decide, _, rfl, rfl⟩
theorem Row.sjread : ∀ x0, Row.Statement (.sjread x0) := fun _ => ⟨by decide, _, rfl, rfl⟩
theorem Row.sjclr : ∀ x0, Row.Statement (.sjclr x0) := fun _ => ⟨by decide, _, rfl, rfl⟩
theorem Row.bkpt : ∀ x0, Row.Statement (.bkpt x0) := fun _ => ⟨by decide, _, rfl, rfl⟩
theorem Row.unassignedEncodingIssue : ∀ x0, Row.Statement (.unassignedEncodingIssue x0) := fun _ => trivial
theorem Row.imageLoad : ∀ x0 x1 x2 x3, Row.Statement (.imageLoad x0 x1 x2 x3) := fun _ _ _ _ => trivial
theorem Row.teamLaunch : ∀ x0, Row.Statement (.teamLaunch x0) := fun _ => trivial
theorem Row.teamEnd : ∀ x0, Row.Statement (.teamEnd x0) := fun _ => trivial
theorem Row.msixVectorRaise : ∀ x0, Row.Statement (.msixVectorRaise x0) := fun _ => trivial
theorem Row.msixUnmask : ∀ x0, Row.Statement (.msixUnmask x0) := fun _ => trivial
theorem Row.drainIntervalExpiry : ∀ x0 x1 x2, Row.Statement (.drainIntervalExpiry x0 x1 x2) := fun _ _ _ => trivial
theorem Row.mergePublication : ∀ x0 x1, Row.Statement (.mergePublication x0 x1) := fun _ _ => trivial
theorem Row.deferralExpiry : ∀ x0 x1 x2, Row.Statement (.deferralExpiry x0 x1 x2) := fun _ _ _ => trivial
theorem Row.horizonExpiry : ∀ x0 x1 x2, Row.Statement (.horizonExpiry x0 x1 x2) := fun _ _ _ => trivial
theorem Row.floorCopyExpiry : ∀ x0 x1 x2, Row.Statement (.floorCopyExpiry x0 x1 x2) := fun _ _ _ => trivial
theorem Row.floorCopyEviction : ∀ x0 x1 x2, Row.Statement (.floorCopyEviction x0 x1 x2) := fun _ _ _ => trivial
theorem Row.loadReply : ∀ x0 x1 x2, Row.Statement (.loadReply x0 x1 x2) := fun _ _ _ => trivial
theorem Row.strongStorePerformed : ∀ x0 x1, Row.Statement (.strongStorePerformed x0 x1) := fun _ _ => trivial
theorem Row.regionExecute : ∀ x0 x1, Row.Statement (.regionExecute x0 x1) := fun _ _ => trivial
theorem Row.pageWalkDone : ∀ x0 x1, Row.Statement (.pageWalkDone x0 x1) := fun _ _ => trivial
theorem Row.journalWalkResult : ∀ x0 x1, Row.Statement (.journalWalkResult x0 x1) := fun _ _ => trivial
theorem Row.asyncTrapTake : ∀ x0, Row.Statement (.asyncTrapTake x0) := fun _ => trivial
theorem Row.remoteLoadRequest : ∀ x0 x1, Row.Statement (.remoteLoadRequest x0 x1) := fun _ _ => trivial
theorem Row.remoteStoreRequest : ∀ x0 x1, Row.Statement (.remoteStoreRequest x0 x1) := fun _ _ => trivial
theorem Row.rredPacket : ∀ x0 x1, Row.Statement (.rredPacket x0 x1) := fun _ _ => trivial
theorem Row.remoteFullEmptyRequest : ∀ x0 x1, Row.Statement (.remoteFullEmptyRequest x0 x1) := fun _ _ => trivial
theorem Row.remoteWaitDeadline : ∀ x0 x1, Row.Statement (.remoteWaitDeadline x0 x1) := fun _ _ => trivial
theorem Row.remoteWaitTimeoutReply : ∀ x0 x1, Row.Statement (.remoteWaitTimeoutReply x0 x1) := fun _ _ => trivial
theorem Row.homeNotReadyAnswer : ∀ x0 x1, Row.Statement (.homeNotReadyAnswer x0 x1) := fun _ _ => trivial
theorem Row.remoteRetryTimer : ∀ x0 x1, Row.Statement (.remoteRetryTimer x0 x1) := fun _ _ => trivial
theorem Row.remoteRetryLimit : ∀ x0 x1, Row.Statement (.remoteRetryLimit x0 x1) := fun _ _ => trivial
theorem Row.remoteReadReply : ∀ x0 x1, Row.Statement (.remoteReadReply x0 x1) := fun _ _ => trivial
theorem Row.remoteAck : ∀ x0 x1, Row.Statement (.remoteAck x0 x1) := fun _ _ => trivial
theorem Row.remoteRefusal : ∀ x0 x1, Row.Statement (.remoteRefusal x0 x1) := fun _ _ => trivial
theorem Row.activeMessageArrival : ∀ x0 x1, Row.Statement (.activeMessageArrival x0 x1) := fun _ _ => trivial
theorem Row.handlerStart : ∀ x0, Row.Statement (.handlerStart x0) := fun _ => trivial
theorem Row.mmarCommandArrival : ∀ x0 x1, Row.Statement (.mmarCommandArrival x0 x1) := fun _ _ => trivial
theorem Row.wakeRequest : ∀ x0 x1, Row.Statement (.wakeRequest x0 x1) := fun _ _ => trivial
theorem Row.remoteBaraArrival : ∀ x0 x1, Row.Statement (.remoteBaraArrival x0 x1) := fun _ _ => trivial
theorem Row.copyByteAddition : ∀ x0 x1, Row.Statement (.copyByteAddition x0 x1) := fun _ _ => trivial
theorem Row.copyCountEvent : ∀ x0 x1, Row.Statement (.copyCountEvent x0 x1) := fun _ _ => trivial
theorem Row.copyComplete : ∀ x0 x1 x2, Row.Statement (.copyComplete x0 x1 x2) := fun _ _ _ => trivial
theorem Row.copyFault : ∀ x0 x1 x2, Row.Statement (.copyFault x0 x1 x2) := fun _ _ _ => trivial
theorem Row.matrixCommandStart : ∀ x0, Row.Statement (.matrixCommandStart x0) := fun _ => trivial
theorem Row.matrixCommandComplete : ∀ x0, Row.Statement (.matrixCommandComplete x0) := fun _ => trivial
theorem Row.matrixEngineFault : ∀ x0, Row.Statement (.matrixEngineFault x0) := fun _ => trivial
theorem Row.seamCommandComplete : ∀ x0, Row.Statement (.seamCommandComplete x0) := fun _ => trivial
theorem Row.smrgComplete : ∀ x0, Row.Statement (.smrgComplete x0) := fun _ => trivial
theorem Row.smrgResume : ∀ x0, Row.Statement (.smrgResume x0) := fun _ => trivial
theorem Row.taskAsk : ∀ x0, Row.Statement (.taskAsk x0) := fun _ => trivial
theorem Row.taskSelect : ∀ x0, Row.Statement (.taskSelect x0) := fun _ => trivial
theorem Row.taskBind : ∀ x0, Row.Statement (.taskBind x0) := fun _ => trivial
theorem Row.taskAgeing : ∀ x0 x1 x2, Row.Statement (.taskAgeing x0 x1 x2) := fun _ _ _ => trivial
theorem Row.waitDeadlineExpiry : ∀ x0 x1, Row.Statement (.waitDeadlineExpiry x0 x1) := fun _ _ => trivial
theorem Row.movedWaitEvaluation : ∀ x0 x1, Row.Statement (.movedWaitEvaluation x0 x1) := fun _ _ => trivial
theorem Row.contextReload : ∀ x0 x1, Row.Statement (.contextReload x0 x1) := fun _ _ => trivial
theorem Row.reloadStarvationMove : ∀ x0, Row.Statement (.reloadStarvationMove x0) := fun _ => trivial
theorem Row.gangSwitchOut : ∀ x0, Row.Statement (.gangSwitchOut x0) := fun _ => trivial
theorem Row.gangSwitchSaved : ∀ x0, Row.Statement (.gangSwitchSaved x0) := fun _ => trivial
theorem Row.gangSwitchResume : ∀ x0, Row.Statement (.gangSwitchResume x0) := fun _ => trivial
theorem Row.turnCommandRun : ∀ x0, Row.Statement (.turnCommandRun x0) := fun _ => trivial
theorem Row.bundleDeadTimeEnd : ∀ x0 x1, Row.Statement (.bundleDeadTimeEnd x0 x1) := fun _ _ => trivial
theorem Row.demandSplitCheck : ∀ x0 x1 x2, Row.Statement (.demandSplitCheck x0 x1 x2) := fun _ _ _ => trivial
theorem Row.bundleRecalibration : ∀ x0 x1, Row.Statement (.bundleRecalibration x0 x1) := fun _ _ => trivial
theorem Row.podBarrierRound : ∀ x0 x1 x2 x3 x4, Row.Statement (.podBarrierRound x0 x1 x2 x3 x4) := fun _ _ _ _ _ => trivial
theorem Row.remotePackageAccess : ∀ x0 x1, Row.Statement (.remotePackageAccess x0 x1) := fun _ _ => trivial
theorem Row.roneelLinkLoss : ∀ x0 x1, Row.Statement (.roneelLinkLoss x0 x1) := fun _ _ => trivial
theorem Row.powerOnReset : ∀ x0 x1 x2 x3, Row.Statement (.powerOnReset x0 x1 x2 x3) := fun _ _ _ _ => trivial
theorem Row.clockFrequencyChange : ∀ x0 x1 x2, Row.Statement (.clockFrequencyChange x0 x1 x2) := fun _ _ _ => trivial
theorem Row.thermalThrottle : ∀ x0 x1 x2, Row.Statement (.thermalThrottle x0 x1 x2) := fun _ _ _ => trivial
theorem Row.thermalShutdown : ∀ x0 x1, Row.Statement (.thermalShutdown x0 x1) := fun _ _ => trivial
theorem Row.coreWatchdogExpiry : ∀ x0, Row.Statement (.coreWatchdogExpiry x0) := fun _ => trivial
theorem Row.uncorrectableCoreError : ∀ x0, Row.Statement (.uncorrectableCoreError x0) := fun _ => trivial
theorem Row.darnPass : ∀ x0 x1, Row.Statement (.darnPass x0 x1) := fun _ _ => trivial
theorem Row.spareRemap : ∀ x0, Row.Statement (.spareRemap x0) := fun _ => trivial
theorem Row.retentionEntry : ∀ x0 x1, Row.Statement (.retentionEntry x0 x1) := fun _ _ => trivial
theorem Row.retentionExit : ∀ x0 x1, Row.Statement (.retentionExit x0 x1) := fun _ _ => trivial
theorem Row.ageingEstimate : ∀ x0 x1, Row.Statement (.ageingEstimate x0 x1) := fun _ _ => trivial
theorem Row.rowSparing : ∀ x0 x1, Row.Statement (.rowSparing x0 x1) := fun _ _ => trivial
theorem Row.firmwareUpdate : ∀ x0 x1, Row.Statement (.firmwareUpdate x0 x1) := fun _ _ => trivial
theorem Row.bar2Write : ∀ x0 x1, Row.Statement (.bar2Write x0 x1) := fun _ _ => trivial
theorem Row.bar2Read : ∀ x0 x1, Row.Statement (.bar2Read x0 x1) := fun _ _ => trivial
theorem Row.lqportWrite : ∀ x0 x1 x2 x3 x4, Row.Statement (.lqportWrite x0 x1 x2 x3 x4) := fun _ _ _ _ _ => trivial
theorem Row.cpsemRead : ∀ x0 x1, Row.Statement (.cpsemRead x0 x1) := fun _ _ => trivial
theorem Row.cpsemWrite : ∀ x0 x1, Row.Statement (.cpsemWrite x0 x1) := fun _ _ => trivial
theorem Row.fenceCommandWrite : ∀ x0 x1, Row.Statement (.fenceCommandWrite x0 x1) := fun _ _ => trivial
theorem Row.dbgHold : ∀ x0 x1, Row.Statement (.dbgHold x0 x1) := fun _ _ => trivial
theorem Row.dbgRelease : ∀ x0 x1, Row.Statement (.dbgRelease x0 x1) := fun _ _ => trivial
theorem Row.rplcntClear : ∀ x0 x1, Row.Statement (.rplcntClear x0 x1) := fun _ _ => trivial
theorem Row.fqovfClear : ∀ x0, Row.Statement (.fqovfClear x0) := fun _ => trivial
theorem Row.elovfClear : ∀ x0, Row.Statement (.elovfClear x0) := fun _ => trivial
theorem Row.ovfcapWrite : ∀ x0 x1 x2, Row.Statement (.ovfcapWrite x0 x1 x2) := fun _ _ _ => trivial
theorem Row.paRegisterWrite : ∀ x0 x1, Row.Statement (.paRegisterWrite x0 x1) := fun _ _ => trivial
theorem Row.winctlWrite : ∀ x0, Row.Statement (.winctlWrite x0) := fun _ => trivial
theorem Row.gswctlArm : ∀ x0 x1, Row.Statement (.gswctlArm x0 x1) := fun _ _ => trivial
theorem Row.gswctlResume : ∀ x0 x1, Row.Statement (.gswctlResume x0 x1) := fun _ _ => trivial
theorem Row.registerWrite : ∀ x0 x1, Row.Statement (.registerWrite x0 x1) := fun _ _ => trivial
theorem Row.sleepTimeElapsed : ∀ x0 x1, Row.Statement (.sleepTimeElapsed x0 x1) := fun _ _ => trivial
theorem Row.bundleRecalibrationEnd : ∀ x0 x1, Row.Statement (.bundleRecalibrationEnd x0 x1) := fun _ _ => trivial
theorem Row.roneelPortRetrained : ∀ x0 x1, Row.Statement (.roneelPortRetrained x0 x1) := fun _ _ => trivial
theorem Row.frequencyChangeEnd : ∀ x0, Row.Statement (.frequencyChangeEnd x0) := fun _ => trivial
theorem Row.switchBarrierCounter : ∀ x0 x1 x2 x3, Row.Statement (.switchBarrierCounter x0 x1 x2 x3) := fun _ _ _ _ => trivial

end Sys2Proof.Laws
end

