-- ==== Sys2Proof/Tests/Slice0.lean ====
section
/-!
SUPPORT. Tests of the model on fixed values, each taken from the spec, and the witnesses of the statements: for each statement with
hypotheses, states and operands that meet them.
-/
open Sys2Proof Sys2Proof.Machine Sys2Proof.Claims

set_option maxRecDepth 8000
set_option exponentiation.threshold 8192

namespace Sys2Proof.Tests

/-- Core 0, slot 0, at the first of two words, as withFetchWord leaves it. -/
def t0 : State := State.reset.withFetchWord 96 0

def onPkg (g : Pkg → Pkg) (s : State) : State := s.with (g s.pkg)
def onCore (g : Core → Core) (s : State) : State := s.with (updCore s.pkg 0 g)
def onPart (g : Part → Part) (s : State) : State := s.with (updPart s.pkg 0 g)
def onSlot (g : Slot → Slot) (s : State) : State := onPart (fun k => updSlot k 0 g) s
def reg (r : Nat) (v : Word) (s : State) : State := onSlot (fun x => setSreg x r v) s
def vreg (r : Nat) (v : VReg) (s : State) : State := onPart (fun k => setVregAt k r v) s

/-- A layout entry of rank 1: SPACE, TYPE, EDGE, BASE, extent and stride of dimension 0 (R134). -/
def ent (space ty edge base ext stride : Nat) : Bits512 :=
  BitVec.ofNat 512 (space + ty * 2 ^ 8 + edge * 2 ^ 16 + base * 2 ^ 128 + ext * 2 ^ 256 + stride * 2 ^ 320)

def lay (n : Nat) (e : Bits512) (s : State) : State := onPart (fun k => { k with layouts := mapInsert k.layouts n e }) s

/-- A translation of the page at 0 to the frame at 0x10000, and the machine that holds it. -/
def page : Xlat := ⟨0, 0, 65536, 0x10000, tagNone, 0, none, false, 0⟩
def paged (s : State) : State := onCore (fun c => { c with tlb := [page] }) s

/-- As keysFree has it, read as a Bool. -/
def keysClear (s : State) (lvl : Nat) (keys : List Nat) : Bool :=
  !aliasBusy s.pkg (cxOf s) keys && !keys.any (readWaits s.pkg s.time s.core lvl)

/-- The team is a supervisor's. -/
def sup (s : State) : State := onPart (fun k => { k with team := some { placedTeam with sup := true } }) s

/-- What exec answers, read as a value. -/
def after (o : Host.Outcome State Fault Refusal) : State :=
  match o with
  | .next t => t
  | _ => State.reset

def okAnd {ε α : Type} (x : Except ε α) (g : α → Bool) : Bool :=
  match x with
  | .ok v => g v
  | .error _ => false

def isOk {ε α : Type} (x : Except ε α) : Bool := okAnd x (fun _ => true)
def isErr {ε α : Type} (x : Except ε α) : Bool := !isOk x

/- Decoding. Words assembled by hand from R25, R31, R33, R44 and R47 to R49: parcel 2 is OP * 2^23 + MOD * 2^14 + GUARD * 2^10 +
HINT * 2^4 + BK * 2^2, parcel 1 the descriptors of D and A, parcel 0 that of B. -/

/-- `(!p3) SADD s5, s6, -24` with yield=2: chapter 2's first worked word, byte by byte. -/
theorem test_decode_bytes : decode [0xE8, 0xFF, 0xFF, 0xFF, 0x06, 0x00, 0x05, 0x00, 0x04, 0x2D, 0x00, 0x10] =
    .ok (.sadd ⟨0, true, 3, 2, false, false, false, .s 5, .s 6, .imm 0xFFFFFFE8⟩) := rfl

/-- Control: LEND of LOOPDEMO (chapter 5). -/
theorem test_decode_control : decodeWord (word 0x03801C00 0xF000F000 0xF000) = .ok (.lend (fieldsOf 0 .none .none (.desc .none))) := rfl

/-- Predicates and lanes: `PAND p1, p2, p3`, OP 0x040. -/
theorem test_decode_lanes : decodeWord (word 0x20001C00 0x20012002 0x2003) = .ok (.pand (fieldsOf 0 (.p 1) (.p 2) (.desc (.p 3)))) := rfl

/-- Vector integer: `VADD.N16.SAT v1, q2.c3+4, v5`, OP 0x060, IT N16 = 6, SAT at MOD[3]. -/
theorem test_decode_vector : decodeWord (word (0x30001C00 + 14 * 2 ^ 14) (0x10013000 + 2 * 512 + 3 * 32 + 4) 0x1005) =
    .ok (.vadd (fieldsOf 14 (.v 1) (.qc 2 3 4) (.desc (.v 5)))) := rfl

/-- Float: FADD of LOOPDEMO. -/
theorem test_decode_float : decodeWord (word 0x40001C00 0x10001000 0x1001) = .ok (.fadd (fieldsOf 0 (.v 0) (.v 0) (.desc (.v 1)))) := rfl

/-- Scratchpad: `LDS s1, L2, s3`, OP 0x100. -/
theorem test_decode_scratch : decodeWord (word 0x80001C00 0x00018002 0x0003) = .ok (.lds (fieldsOf 0 (.s 1) (.lay 2) (.desc (.s 3)))) := rfl

/-- Engines: `QCNT s1, q2`, OP 0x12B; the ring of A is a consume descriptor without wait count and offset. -/
theorem test_decode_engines : decodeWord (word 0x95801C00 (0x00013000 + 2 * 512) 0xF000) =
    .ok (.qcnt (fieldsOf 0 (.s 1) (.qc 2 0 0) (.desc .none))) := rfl

/-- Tasks: `WAIT.GE s4, 5`, OP 0x144, CND GE = 5 at MOD[3:1]. -/
theorem test_decode_tasks : decodeWord (word (0xA2001C04 + 10 * 2 ^ 14) 0xF0000004 5) =
    .ok (.wait (fieldsOf 10 .none (.s 4) (.imm 5))) := rfl

/-- System: `CSRR s6, %FPFLAGS`, OP 0x162; %FPFLAGS is special register 0x010. -/
theorem test_decode_system : decodeWord (word 0xB1001C00 0x00066010 0xF000) =
    .ok (.csrr (fieldsOf 0 (.s 6) (.csr 0x010) (.desc .none))) := rfl

/-- Bit 64 of a word is reserved (R26): one that sets it is illegal; an unassigned opcode too (R44, R50). -/
theorem test_decode_reserved : decodeWord (word 0x20001C01 0x20012002 0x2003) = .error .illegal ∧
    decodeWord (word (0x009 * 2 ^ 23 + 0x1C00) 0xF000F000 0xF000) = .error .illegal := ⟨rfl, rfl⟩

/-- The encoder on three of these. -/
theorem test_encode : encode (.pand (fieldsOf 0 (.p 1) (.p 2) (.desc (.p 3)))) = word 0x20001C00 0x20012002 0x2003 ∧
    encode (.qcnt (fieldsOf 0 (.s 1) (.qc 2 0 0) (.desc .none))) = word 0x95801C00 (0x00013000 + 2 * 512) 0xF000 ∧
    encode (.wait (fieldsOf 10 .none (.s 4) (.imm 5))) = word (0xA2001C04 + 10 * 2 ^ 14) 0xF0000004 5 := by decide

/- Well-formedness: one term for each check, which refuses it. -/

def fS : Fields := fieldsOf 0 (.s 1) (.s 2) (.desc (.s 3))
def fV (md : BitVec 9) : Fields := fieldsOf md (.v 1) (.v 2) (.desc (.v 3))

/-- Well-formed ones beside them. -/
theorem test_wf_good : (Instr.sadd fS).wf = true ∧ (Instr.vadd (fV 14)).wf = true ∧
    (Instr.sadd { fS with gp := 7, gneg := false }).wf = true ∧ (Instr.seam (fieldsOf 1 (.lay 0) (.lay 1) (.desc (.s 29)))).wf = true ∧
    (Instr.fqnt (fieldsOf 3 (.v 0) (.v 124) (.fimm 0))).wf = true ∧ (Instr.taskAsk 0).wf = true := by decide

/-- The guard !p7 is reserved (R28). -/
theorem test_wf_guard : (Instr.sadd { fS with gneg := true }).wf = false := by decide

/-- IT code 3 is reserved, and so is CND 6 (R47). -/
theorem test_wf_mod_code : (Instr.vadd (fV 3)).wf = false ∧ (Instr.scmp (fieldsOf 12 (.p 1) (.s 2) (.desc (.s 3)))).wf = false := by decide

/-- A MOD bit that the row does not define (R26). -/
theorem test_wf_mod_bit : (Instr.sadd { fS with md := 1 }).wf = false ∧ (Instr.vadd (fV 16)).wf = false := by decide

/-- KEEP0 with SEAM.APPLY; SEQ with the transform 0 of CPY (R49). -/
theorem test_wf_combination : (Instr.seam (fieldsOf 3 (.lay 0) (.lay 1) (.desc (.s 4)))).wf = false ∧
    (Instr.cpy (fieldsOf 1 (.lay 0) (.lay 1) (.desc (.s 4)))).wf = false := by decide

/-- A class that the row does not list at D, at A and at B (R45). -/
theorem test_wf_class : (Instr.sadd { fS with d := .v 0 }).wf = false ∧ (Instr.sadd { fS with a := .none }).wf = false ∧
    (Instr.sadd { fS with b := .desc (.p 0) }).wf = false := by decide

/-- An immediate, and an FP32 immediate, where the row takes none (R31, R45). -/
theorem test_wf_immediate : (Instr.sclz (fieldsOf 0 (.s 1) .none (.imm 0))).wf = false ∧
    (Instr.sclz (fieldsOf 0 (.s 1) .none (.win 0 0))).wf = false ∧ (Instr.sadd { fS with b := .fimm 0 }).wf = false := by decide

/-- A block of registers past the file, a ring with a wait count named bare, a mesh channel in the wrong direction, an unknown special
register (R34, R45). -/
theorem test_wf_descriptor : (Instr.fqnt (fieldsOf 3 (.v 0) (.v 125) (.fimm 0))).wf = false ∧
    (Instr.seam (fieldsOf 1 (.lay 0) (.lay 1) (.desc (.s 30)))).wf = false ∧
    (Instr.qcnt (fieldsOf 0 (.s 1) (.qc 2 1 0) (.desc .none))).wf = false ∧
    (Instr.vmov (fieldsOf 0 (.m 0 false 0) .none (.desc (.v 1)))).wf = false ∧
    (Instr.csrr (fieldsOf 0 (.s 6) (.csr 0x003) (.desc .none))).wf = false := by decide

/-- TFA with a ring at A, TFB with a ring at B of MMA; MRES.REPLACE without B, and DROP with one (R49). -/
theorem test_wf_pairing : (Instr.mma (fieldsOf 1 (.a 0) (.qc 0 1 0) (.desc (.lay 1)))).wf = false ∧
    (Instr.mma (fieldsOf 2 (.a 0) (.lay 0) (.desc (.qc 0 1 0)))).wf = false ∧
    (Instr.mres (fieldsOf 2 .none (.s 1) (.desc .none))).wf = false ∧
    (Instr.mres (fieldsOf 0 .none (.s 1) (.desc (.v 1)))).wf = false := by decide

/- Effects of single instructions. -/

/-- The value of sN, of lane 0 of vN, and the flags after an instruction. -/
def sAfter (i : Instr) (s : State) (r : Nat) : Word := sregOf (slotOf (partOf (after (exec i s)).pkg 0) 0) r
def vAfter (i : Instr) (s : State) (r : Nat) : VReg := vregAt (partOf (after (exec i s)).pkg 0) r
def flagsAfter (i : Instr) (s : State) : Flags := (slotOf (partOf (after (exec i s)).pkg 0) 0).fpflags
def pcAfter (i : Instr) (s : State) : Nat := (slotOf (partOf (after (exec i s)).pkg 0) 0).pc
/-- The cause that its handler handles. -/
def causeAfter (i : Instr) (s : State) : Nat := (slotOf (partOf (after (exec i s)).pkg 0) 0).hcause

/-- A vector register with one value in every lane. -/
def splat (x : Nat) : VReg := BitVec.ofNat 1024 ((List.range 32).foldl (fun a _ => a * 2 ^ 32 + x) 0)

/-- R88: the sum wraps; a quotient by zero is all ones; the overflowing quotient is the dividend. -/
theorem test_sadd_wraps : sAfter (.sadd fS) (reg 2 (BitVec.allOnes 64) (reg 3 2 t0)) 1 = 1 := by decide
theorem test_sdiv_corners : sAfter (.sdiv fS) (reg 2 7 t0) 1 = BitVec.allOnes 64 ∧
    sAfter (.sdiv fS) (reg 2 (BitVec.ofNat 64 (2 ^ 63)) (reg 3 (BitVec.allOnes 64) t0)) 1 = BitVec.ofNat 64 (2 ^ 63) ∧
    sAfter (.sdiv fS) (reg 2 (BitVec.ofInt 64 (-7)) (reg 3 2 t0)) 1 = BitVec.ofInt 64 (-3) := by decide
theorem test_srem_sign : sAfter (.srem fS) (reg 2 (BitVec.ofInt 64 (-7)) (reg 3 2 t0)) 1 = BitVec.ofInt 64 (-1) := by decide
theorem test_sshl_modulo : sAfter (.sshl fS) (reg 2 1 (reg 3 65 t0)) 1 = 2 := by decide

/-- R84, R86: CALL links the next word; LEND of LOOPDEMO's last round falls through. -/
theorem test_call_links : sAfter (.call (fieldsOf 0 .none .none (.imm 12))) t0 31 = 12 ∧
    pcAfter (.call (fieldsOf 0 .none .none (.imm 12))) t0 = 12 := by decide
theorem test_lend_pops : pcAfter (.lend (fieldsOf 0 .none .none (.desc .none)))
    (onSlot (fun x => { x with loops := [⟨12, 0, 1⟩] }) t0) = 12 := by decide

/-- LOOPDEMO of chapter 5, its last trip and its results: 320 + 160, the tree of 32 times 480, the two conversions and the flags. -/
theorem test_loopdemo_add : vAfter (.fadd (fieldsOf 0 (.v 0) (.v 0) (.desc (.v 1))))
    (vreg 0 (splat 0x43A00000) (vreg 1 (splat 0x43200000) t0)) 0 = splat 0x43F00000 := by decide
theorem test_loopdemo_reduce : sAfter (.vreda (fieldsOf 8 (.s 5) (.v 0) (.desc .none))) (vreg 0 (splat 0x43F00000) t0) 5 = 0x46700000 := by
  decide
theorem test_loopdemo_convert : vAfter (.fcvt (fieldsOf 0xC0 (.v 2) .none (.desc (.v 0)))) (vreg 0 (splat 0x43F00000) t0) 2 = splat 0x7F ∧
    flagsAfter (.fcvt (fieldsOf 0xC0 (.v 2) .none (.desc (.v 0)))) (vreg 0 (splat 0x43F00000) t0) = 0x14 := by decide
theorem test_loopdemo_saturate : vAfter (.fcvt (fieldsOf 0xC1 (.v 3) .none (.desc (.v 0)))) (vreg 0 (splat 0x43F00000) t0) 3 = splat 0x7E ∧
    flagsAfter (.fcvt (fieldsOf 0xC1 (.v 3) .none (.desc (.v 0)))) (vreg 0 (splat 0x43F00000) t0) = 0x30 := by decide

/-- The table of chapter 5: FCVT to E4M3 of 300, 464, 0.001 and a signalling NaN, with the flags of each. -/
def cvtE4M3 (x : Nat) : Nat × Flags := let r := fcvtElem 0 3 .rn false true x; (r.bits, r.fl)
theorem test_fcvt_e4m3 : cvtE4M3 0x43960000 = (0x79, 0x10) ∧ cvtE4M3 0x43E80000 = (0x7E, 0x10) ∧ cvtE4M3 0x3A83126F = (0x01, 0x18) ∧
    cvtE4M3 0x7F800001 = (0x7F, 0x01) := by decide

/-- The same table: ICVT of -2.5 and 200.0 to I8, of -1.0 to N8. -/
theorem test_icvt_i8 : vAfter (.icvt (fieldsOf 0x120 (.v 4) .none (.desc (.v 5)))) (vreg 5 (splat 0xC0200000) t0) 4 = splat 0xFFFFFFFE ∧
    flagsAfter (.icvt (fieldsOf 0x120 (.v 4) .none (.desc (.v 5)))) (vreg 5 (splat 0xC0200000) t0) = 0x10 := by decide
theorem test_icvt_invalid : vAfter (.icvt (fieldsOf 0x120 (.v 4) .none (.desc (.v 5)))) (vreg 5 (splat 0x43480000) t0) 4 = splat 0xFFFFFF80 ∧
    vAfter (.icvt (fieldsOf 0x1A0 (.v 4) .none (.desc (.v 5)))) (vreg 5 (splat 0xBF800000) t0) 4 = 0 ∧
    flagsAfter (.icvt (fieldsOf 0x1A0 (.v 4) .none (.desc (.v 5)))) (vreg 5 (splat 0xBF800000) t0) = 0x01 := by decide

/-- R71: with TE_OF set the overflowing conversion of LOOPDEMO raises FP_TRAP and writes nothing. -/
def trapping : State := onPart (fun k => { k with tvec := BitVec.ofNat 64 (2 ^ 63 + 12) })
  (onSlot (fun x => { x with fpmode := 4 }) (vreg 0 (splat 0x43F00000) t0))
theorem test_fp_trap : vAfter (.fcvt (fieldsOf 0xC0 (.v 2) .none (.desc (.v 0)))) trapping 2 = 0 ∧
    flagsAfter (.fcvt (fieldsOf 0xC0 (.v 2) .none (.desc (.v 0)))) trapping = 0 ∧
    pcAfter (.fcvt (fieldsOf 0xC0 (.v 2) .none (.desc (.v 0)))) trapping = 12 := by decide

/-- The worked block of chapter 4: 5.2, 2.4, -5.0, 0.7 and zeros have scale byte 0x7F and extra byte 0x4A; the codes are 1000, 0100,
1110 and 0001. -/
def blockOf : List FV := [0x40A66666, 0x4019999A, 0xC0A00000, 0x3F333333].map (decodeF fmtF32)
theorem test_f4x_scale : (f4xScale (blockOf ++ List.replicate 28 (decodeF fmtF32 0))).1 = 0x7F ∧
    (f4xScale (blockOf ++ List.replicate 28 (decodeF fmtF32 0))).2.1 = 0x4A := by decide
theorem test_f4x_codes : blockOf.map (fun x => (f4xCode x 0x7F 0x4A).1) = [8, 4, 14, 1] := by decide
theorem test_f4x_decode : (List.range 4).map (fun i => (fvConvert fmtF32 .rn false true
    (f4xElem (0x1E48 + 0x7F * 2 ^ 128 + 0x4A * 2 ^ 136) i)).bits) = [0x40A00000, 0x40000000, 0xC0800000, 0x3F000000] := by decide

/-- The worked words of chapter 4: 0x1 and 0xC00005E2 at scale 0.25 (BF16 0x3E80). -/
def l8At (w i : Nat) : Nat := (fvConvert fmtF32 .rn false true (l8Elem w i (decodeF fmtBF16 0x3E80))).bits
theorem test_l8_words : (List.range 8).map (l8At 1) = List.replicate 8 0x3E000000 ∧
    (List.range 8).map (l8At 0xC00005E2) = [0x3E800000, 0xBE800000, 0x3F000000, 0, 0, 0, 0, 0xBF800000] := by decide

/-- The worked point of chapter 6: (0.6, 1.4, 0.7, 0, …) at scale 1.0 is the word 0x220, with NX. -/
theorem test_lqnt_point : l8Quantise ([0x3F19999A, 0x3FB33333, 0x3F333333, 0, 0, 0, 0, 0].map (decodeF fmtF32)) (decodeF fmtBF16 0x3F80) 0 =
    (0x220, 0x10) := by decide

/-- The worked match of chapter 6: six BF16 keys, two merges; with KEEP0 the other entries. -/
def keysOf : List (List FV) :=
  [[0x3F80, 0], [0x3F80, 0], [0, 0x3F80], [0, 0x3F80], [0x3F80, 0x3F80], [0x3F80, 0xBF80]].map (·.map (decodeF fmtBF16))
theorem test_seam_match : (seamMatching keysOf 2 false).1 = [0, 0, 1, 1, 2, 3] := by decide
theorem test_seam_keep : (seamMatching keysOf 2 true).1 = [0, 1, 2, 2, 1, 3] := by decide

/-- The worked address of chapter 7: element (5, 3) of the swizzled entry lies at 0x430C. -/
theorem test_slea_swizzle : sAfter (.slea (fieldsOf 0 (.s 1) (.lay 0) (.desc (.s 3))))
    (lay 0 (BitVec.ofNat 512 (1 + 8 * 2 ^ 8 + 1 * 2 ^ 12 + 7 * 2 ^ 18 + 8 * 2 ^ 24 + 0x4000 * 2 ^ 128 + 64 * 2 ^ 256 + 64 * 2 ^ 272 +
      4 * 2 ^ 320 + 256 * 2 ^ 352)) (reg 3 (BitVec.ofNat 64 (5 + 3 * 65536)) t0)) 1 = 0x430C := by decide

/-- The worked home of chapter 1: PA 0x1234567A00 has M2 slice 19 and the M3 home 36 of S1; core 0x4A3 has the m0 neighbour 0x4B0, and
core 0 has no neighbour on m2 and m3. -/
theorem test_home_hash : sliceOf 0x1234567A00 = 19 ∧ homeOf 0x1234567A00 = 64 + 36 := by decide
theorem test_mesh_neighbour : meshNeighbour 0x4A3 0 = some 0x4B0 ∧ meshNeighbour 0 0 = some 1 ∧ meshNeighbour 0 2 = none ∧
    meshNeighbour 0 3 = none := by decide

/-- The worked turns of chapter 10 on one link: T = 12 at 1,000, T = 2 at 2,000 and at 3,500, T = 0 at 4,000. -/
def turnsOf : List (Nat × Nat) → Link → Link
  | [], l => l
  | (now, t) :: rest, l => turnsOf rest (runTurn now ⟨t, false⟩ l)
theorem test_turns : (let l := turnsOf [(1000, 12)] linkReset; (linkFwd l, l.short) = (12, 0)) ∧
    (let l := turnsOf [(1000, 12), (2000, 2)] linkReset; (linkFwd l, l.short, l.demand) = (4, 2, false)) ∧
    (let l := turnsOf [(1000, 12), (2000, 2), (3500, 2)] linkReset; (linkFwd l, l.short) = (2, 0)) ∧
    (let l := turnsOf [(1000, 12), (2000, 2), (3500, 2), (4000, 0)] linkReset; (linkFwd l, l.short) = (2, 2)) := by decide

/-- The worked ring of chapter 10: two publications, then QADV of two. -/
def ringAfter (i : Instr) (s : State) : Option Ring := mapFind (slotOf (partOf (after (exec i s)).pkg 0) 0).rings 0
def ringed (c p n : Nat) (s : State) : State := onSlot (fun x => { x with rings := mapInsert x.rings 0 (.own 16 4 c p n) }) s
theorem test_ring : ringAfter (.qpub (fieldsOf 0 (.qc 0 0 0) .none (.imm 1))) (ringed 0 1 1 t0) = some (.own 16 4 0 2 2) ∧
    ringAfter (.qadv (fieldsOf 0 (.qc 0 0 0) .none (.imm 2))) (ringed 0 2 2 t0) = some (.own 16 4 2 2 0) := by decide

/-- The worked object of chapter 10: BARI with 0x0002_0005 sets EXPECT 2 and PHASE 5; two arrivals complete the phase. -/
theorem test_bari : (let o := objOf (partOf (after (exec (.bari (fieldsOf 0 .none (.s 10) (.desc (.s 11))))
      (reg 10 0x6000 (reg 11 0x20005 t0)))).pkg 0) 0x6000; (o.expect, o.phase, o.arrive, o.pend) = (2, 5, 0, 0)) := by decide
theorem test_bara : (let o := objOf (partOf (after (exec (.bara (fieldsOf 0 .none (.s 10) (.imm 2)))
      (onPart (fun k => objWrite k 0 0x6000 ⟨0, 5, 0, 2, false, false, 0⟩) (reg 10 0x6000 t0)))).pkg 0) 0x6000
    (o.phase, o.arrive, o.ovr) = (6, 0, false)) := by decide

/-- The worked updates of chapter 4, timing A and B: two records of +1.0 in one run combine to +2.0; 256 takes them one by one as
256, and their sum as 258. -/
theorem test_bf16_combining : (foldElem 1 9 0x3F80 0x3F80).1 = 0x4000 ∧ (foldElem 1 9 0x4380 0x3F80).1 = 0x4380 ∧
    (foldElem 1 9 0x4380 0x4000).1 = 0x4381 := by decide

/-- The worked replay of chapter 9: with H = 100 and every bit set, packet 70 is acknowledged and changes nothing. -/
theorem test_replay_window : (let p := updCore pkgReset 0 (fun c => { c with windows := mapInsert c.windows 19 (100, BitVec.allOnes 64) })
    let w := windowOf (coreOf p 0) 19; ((w.1 - 70).toNat, bit w.2 (w.1 - 70).toNat)) = (30, true) := by decide

/-- R307 to R313: TRAP 5 enters the handler, with the trap registers written and the vector's pc. -/
def vectored : State := onPart (fun k => { k with tvec := BitVec.ofNat 64 (2 ^ 63 + 12) }) t0
theorem test_trap_entry : (let x := slotOf (partOf (after (exec (.trap (fieldsOf 0 .none .none (.imm 5))) vectored)).pkg 0) 0
    (x.pc, x.handler, x.tcause, x.tval, x.tpc)) = (12, true, 0x0A, 5, 0) := by decide

/-- R316: ERET leaves handler mode and goes to %TPC. -/
theorem test_eret : (let x := slotOf (partOf (after (exec (.eret (fieldsOf 0 .none .none (.desc .none)))
    (onSlot (fun y => { y with handler := true, tpc := 12 }) t0))).pkg 0) 0; (x.pc, x.handler)) = (12, false) := by decide

/-- R300, R301: a read-only special register traps with OPERAND_CLASS (0x03), a supervisor one with PRIVILEGE (0x02) in user mode. -/
theorem test_csrw_read_only : causeAfter (.csrw (fieldsOf 0 (.csr 0x000) .none (.imm 1))) (sup vectored) = 0x03 := by decide
theorem test_csrw_privilege : causeAfter (.csrw (fieldsOf 0 (.csr 0x080) .none (.imm 1))) vectored = 0x02 := by decide
theorem test_csrr_waitlim : sAfter (.csrr (fieldsOf 0 (.s 6) (.csr 0x012) (.desc .none))) (onSlot (fun x => { x with waitlim := 77 }) t0) 6 =
    77 := by decide

/-- R203: STS of a byte, and LDS of it with sign extension. -/
theorem test_sts : scrByte (partOf (after (exec (.sts (fieldsOf 0 (.lay 0) (.s 2) (.desc (.s 3))))
    (lay 0 (ent 1 1 0 0x100 8 1) (reg 2 3 (reg 3 0x1FF t0))))).pkg 0) 0x103 = 0xFF := by decide
theorem test_lds_signs : sAfter (.lds (fieldsOf 0 (.s 1) (.lay 0) (.desc (.s 2))))
    (onPart (fun k => scrWrite k 0 0x103 [0x80]) (lay 0 (ent 1 1 0 0x100 8 1) (reg 2 3 t0))) 1 = BitVec.ofInt 64 (-128) := by decide

/-- R141, R145: a weak store stands in M0, and a load sees it before it is merged. -/
theorem test_store_then_load : (let s := reg 2 3 (reg 3 0x55 (lay 0 (ent 0 4 0 0 8 4) (paged t0)))
    let t := after (exec (.st (fieldsOf 0 (.lay 0) (.s 2) (.desc (.s 3)))) s)
    (slotOf (partOf t.pkg 0) 0).pc = 12 ∧ (instOf t.pkg 0 0).run.length = 1 ∧ t.pkg.dram = [] ∧
    sAfter (.ld (fieldsOf 0 (.s 1) (.lay 0) (.desc (.s 2)))) (onSlot (fun x => { x with pc := 0, readyAt := 0 }) t) 1 = 0x55) := by decide

/-- R253: the barrel starts after the slot that issued last, here 15. -/
theorem test_pick : pickSlot t0 0 = some 0 := by decide

/-- R362: the first step after a placed word is its issue. -/
theorem test_step_placed : (slotOf (partOf (after (step (State.reset.withFetchWord 96
    (encode (.sli (fieldsOf 0 (.s 6) .none (.imm 0x200040)))).toNat))).pkg 0) 0).sregs = [(6, 0x200040)] := by decide

/- Witnesses: for each statement, states and operands that meet the hypotheses of its clauses, at values where clauses meet. -/

def allRun (g : Guarding) (s : State) (l : List Instr) : Bool := l.all (fun i => runs i g s && i.wf)
def fN : Fields := fieldsOf 0 .none .none (.desc .none)
def fI (v : BitVec 32) : Fields := fieldsOf 0 .none .none (.imm v)
def fSN (b : BOpd) : Fields := fieldsOf 0 (.s 1) .none b
def fP : Fields := fieldsOf 0 (.p 1) (.p 2) (.desc (.p 3))
def fVB : Fields := fieldsOf 0 (.v 1) .none (.desc (.v 3))
def bS3 : BOpd := .desc (.s 3)

theorem wit_ScalarArithmeticResults : allRun .lane0 t0 [.sadd fS, .ssub fS, .smul fS, .smulh fS, .sdiv fS, .srem fS, .sand fS, .sor fS,
    .sxor fS, .sandn fS, .sshl fS, .sshr fS, .ssra fS, .srot fS, .smin fS, .smax fS] = true ∧ t0.bVal fS = 0 ∧ (reg 3 1 t0).bVal fS ≠ 0 := by
  decide

theorem wit_ScalarBitAndMoveResults : allRun .lane0 t0 [.spopc (fSN bS3), .sclz (fSN bS3), .ssel fS, .smov (fSN (.fimm 0)),
    .sli (fSN (.imm 0)), .sli { fSN (.imm 0) with md := 1 }, .sbfx fS, .sbfx { fS with md := 1 }, .sbfi fS] = true ∧
    fieldTop (BitVec.ofNat 64 (63 + 127 * 64)) = 64 ∧ fieldTop 0 = fieldPos 0 := by decide

theorem wit_ScalarCompareAndAddress : allRun .lanes t0 [.scmp (fieldsOf 10 (.p 1) (.s 2) bS3)] = true ∧
    allRun .lane0 t0 [.slea (fieldsOf 0 (.s 1) (.lay 0) bS3)] = true ∧ isErr (entryFor t0.part 0 0 [0, 1, 2]) = true ∧
    allRun .lane0 (lay 0 (ent 1 8 0 0 4 4) t0) [.slea (fieldsOf 0 (.s 1) (.lay 0) bS3)] = true ∧
    isOk (entryFor (lay 0 (ent 0 8 0 0 4 4) t0).part 0 0 [0, 1, 2]) = true ∧
    isOk (entryFor (lay 0 (ent 1 8 0 0 4 4) t0).part 0 0 [0, 1, 2]) = true ∧
    isOk (entryFor (lay 0 (ent 2 8 0 0 4 4) t0).part 0 0 [0, 1, 2]) = true := by decide

theorem wit_ControlTransfers : allRun .lane0 t0 [.nop fN, .bra (fI 12), .brx (fieldsOf 0 .none (.s 2) (.desc .none)), .call (fI 12),
    .call (fieldsOf 0 .none .none bS3), .ret fN, .yield (fI 1)] = true ∧ textSizeOf t0.pkg t0.core = 24 ∧ relTarget t0 (fI 12) = 12 ∧
    relTarget t0 (fI 24) = 24 ∧ relTarget t0 (fI 0xFFFFFFF4) = -12 := by decide

theorem wit_LoopStack : allRun .lane0 t0 [.loop (fieldsOf 0 .none (.s 2) (.imm 12))] = true ∧
    allRun .lane0 (onSlot (fun x => { x with loops := [⟨12, 12, 1⟩, ⟨0, 0, 2⟩, ⟨0, 0, 1⟩] }) t0) [.lend fN] = true ∧
    [LoopEntry.mk 12 12 1].all (fun x => decide (x.fin ≠ t0.cur.pc)) = true ∧ (2 : Word) - 1 ≠ 0 ∧ (1 : Word) - 1 = 0 := by decide

theorem wit_PredicateResults : allRun .lanes t0 [.pand fP, .por fP, .pxor fP, .pnot { fP with a := .none },
      .pmov { fP with a := .none }, .pmov { fP with a := .none, b := bS3 }, .pany { fP with a := .none },
      .pall { fP with a := .none }] = true ∧
    allRun .lane0 t0 [.pcnt { fP with d := .s 1, a := .none }, .vballot { fP with d := .s 1, a := .none }] = true := by decide

theorem wit_LaneMoveResults : allRun .lanes t0 [.vshfl (fV 0), .vshfl (fV 1), .vshfl (fV 2), .vshfl (fV 3), .vperm (fV 0),
    .vcomp { fV 0 with b := .desc (.p 1) }, .vexpd { fV 0 with b := .desc (.p 1) }] = true := by decide

theorem wit_ReductionResults :
    allRun .lane0 t0 ([0, 4, 8, 9, 10].map (fun m => .vreda (fieldsOf m (.s 1) (.v 2) (.desc .none)))) = true ∧
    allRun .lane0 t0 ([0, 4, 8, 9, 10, 16, 20, 26].map (fun m => .vredm (fieldsOf m (.s 1) (.v 2) (.desc .none)))) = true ∧
    allRun .lanes t0 ([0, 4, 8, 9, 10].map (fun m => .vscan (fieldsOf m (.v 1) (.v 2) (.desc .none)))) = true ∧
    anySig 8 (redElems 8 (splat 0x7F800001)) = true := by decide

theorem wit_VectorIntegerArithmetic : allRun .lanes t0 [.vadd (fV 8), .vsub (fV 9), .vmul (fV 14), .vmad (fV 4),
    .vabs { fVB with md := 10 }, .vneg fVB, .vmulh (fV 5), .vmin (fV 1), .vmax (fV 6)] = true := by decide

theorem wit_VectorIntegerBitsAndCompare : allRun .lanes t0 [.vand (fV 0), .vor (fV 0), .vxor (fV 0), .vandn (fV 0), .vmov fVB,
    .vbcast { fVB with b := .fimm 0 }, .vsel (fV 7), .vshl (fV 1), .vshr (fV 2), .vsra (fV 4), .vclz { fVB with md := 5 },
    .vpopc { fVB with md := 6 }, .vcmp (fieldsOf 0x52 (.p 1) (.v 2) (.desc (.v 3)))] = true := by decide

theorem wit_FloatArithmeticResults : allRun .lanes t0 [.fadd (fV 0), .fsub (fV 5), .fmul (fV 10), .ffma (fV 12), .fdiv (fV 0),
    .fsqrt fVB, .fmin (fV 1), .fmax (fV 2), .fabs fVB, .fneg fVB] = true := by decide

theorem wit_FloatCompareAndFunctions : allRun .lanes t0 [.fcmp (fieldsOf 30 (.p 1) (.v 2) (.desc (.v 3))), .frcp fVB, .frsq fVB, .fexp2 fVB,
    .flog2 fVB, .ftanh fVB, .fsin fVB, .fcos { fVB with md := 1 }] = true := by decide

theorem wit_ConversionResults : allRun .lanes t0 [.fcvt { fVB with md := 0xC0 }, .icvt { fVB with md := 0x120 }, .icvt fVB,
    .fqnt (fieldsOf 3 (.v 1) (.v 28) (.fimm 0x3F800000))] = true := by decide

theorem wit_BlockFormatResults : allRun .lanes t0 [.xscale (fieldsOf 0 (.v 1) (.v 2) (.desc .none)), .xpack (fV 0), .xunpk (fV 0),
    .xunpk (fV 2)] = true ∧ elem 8 ((splat 0xFF)) 16 = 0xFF ∧ elem 8 (splat 0xFE) 16 ≠ 0xFF := by decide

theorem wit_LatticeResults : allRun .lanes t0 [.lqnt (fieldsOf 0 (.v 1) (.v 24) bS3), .ldec (fieldsOf 0 (.v 8) (.v 2) bS3),
      .ldec (fieldsOf 1 (.v 8) (.v 2) bS3)] = true ∧
    l8BadScale (latticeScale true 0x3F800000) = false ∧ fvIsZero (decodeF fmtBF16 0x3F80) = false ∧ l8BadScale (latticeScale true 0x7F800000) = true ∧
    l8BadScale (latticeScale true 0xBF800000) = true ∧ fvIsZero (decodeF fmtBF16 (latticeScale true 0)) = true := by decide

/-- A layout entry of rank 2. -/
def ent2 (space ty edge base e0 e1 s0 s1 : Nat) : Bits512 :=
  BitVec.ofNat 512 (space + ty * 2 ^ 8 + 2 ^ 12 + edge * 2 ^ 16 + base * 2 ^ 128 + e0 * 2 ^ 256 + e1 * 2 ^ 272 + s0 * 2 ^ 320 + s1 * 2 ^ 352)

/-- Two operands of one BF16 element in scratchpad. -/
def mats (s : State) : State := lay 0 (ent2 1 9 0 0x100 1 1 2 2) (lay 1 (ent2 1 9 0 0x200 1 1 2 2) s)
def fM : Fields := fieldsOf 0 (.a 0) (.lay 0) (.desc (.lay 1))
def fM' : Fields := fieldsOf 0 (.a 0) (.s 2) (.desc .none)
def cmd : MatCmd := { (default : MatCmd) with
  a := .layout (ent2 1 9 0 0x100 1 1 2 2)
  b := .layout (ent2 1 9 0 0x200 1 1 2 2)
  k := 1
  running := true }
def fullQ (s : State) : State := onPart (fun k => { k with matq := [cmd, cmd, cmd, cmd] }) s
def sks (v : Nat) (s : State) : State := onSlot (fun x => { x with sks := BitVec.ofNat 64 v }) s
def fullJ (s : State) : State := onPart (fun k => { k with journal := (List.range 64).map (fun i => (i, default)) }) s

theorem wit_MatrixCommandsIssue : allRun .lane0 (mats t0) [.mma fM, .mmas fM, .mmar fM'] = true ∧ t0.part.matq.length < 4 ∧
    isOk (matOperands (mats t0).part (cxOf t0) fM) = true ∧ isErr (matOperands t0.part (cxOf t0) fM) = true ∧
    allRun .lane0 (fullQ t0) [.mma fM, .mmas fM] = true ∧ 4 ≤ (fullQ t0).part.matq.length ∧ jFree t0.part = some 0 ∧
    jFree (fullJ t0).part = none ∧ allRun .lane0 (fullJ t0) [.mmar fM'] = true ∧
    fld (sks 1 t0).cur.sks 0 17 % 2 = 1 ∧ 131072 < fld (sks (131070 + 2 * 2 ^ 32) t0).cur.sks 0 17 + 2 * 2 ∧
    fld (sks (131070 + 2 ^ 32) t0).cur.sks 0 17 + 2 * 1 ≤ 131072 ∧ scrClear t0.part [(131070, 131072)] [] = true ∧
    scrBad t0.part 131070 2 = none := by decide

/-- A tile entry of one F32 element, local or global. -/
theorem wit_AccumulatorInstructions :
    allRun .lane0 t0 [.accz { fM' with a := .none }, .accld (fieldsOf 0 (.a 0) (.lay 0) (.desc (.s 2))),
      .accst (fieldsOf 0 (.lay 0) (.a 0) (.desc (.s 2)))] = true ∧ t0.part.matq = [] ∧ tileHeldBefore t0.part 0 0 = false ∧
    engineMay t0.part ⟨0, [], []⟩ = true ∧ isErr (accEls t0.part t0.cur 0 0 false) = true ∧ isErr (accEls t0.part t0.cur 0 0 true) = true ∧
    okAnd (accEls (lay 0 (ent2 1 8 0 0x100 1 1 4 4) t0).part t0.cur 0 0 true)
      (fun r => laySpace r.1 = 1 && engineMay t0.part ⟨0, accSpans r.1 0, []⟩) = true := by decide

def later (s : State) : State := { s with turn := { s.turn with later := true } }

/-- An ACCST that has issued, its slot gone on. -/
def goneOn : Part := { (lay 0 (ent2 1 8 0 0x100 1 1 4 4) t0).part with
  accq := [⟨0, ent2 1 8 0 0x100 1 1 4 4, 0, 0, false, true, 3, 0, 0, 0, 0, ⟨0, [], [(0x100, 0x110)]⟩⟩] }
theorem wit_AccumulatorLater :
    tileHeldBefore goneOn 0 0 = false ∧ engineMay goneOn ⟨0, [], [(0x100, 0x110)]⟩ = true ∧ goneOn.matq = [] ∧ goneOn.badTiles = [] ∧
    isErr (allOk ((List.range 1024).map (accEl (ent2 1 8 0 0x100 1 1 4 4) 0 0 true))) = false ∧
    t0.turn.later = false ∧ (later t0).turn.later = true ∧
    runs (.accst (fieldsOf 0 (.lay 0) (.a 0) (.desc (.s 2)))) .lane0 (later t0) = true := by decide

theorem wit_AccumulatorGlobal :
    (let s := lay 0 (ent2 0 8 0 0x100 1 1 4 4) (paged t0)
     okAnd (accEls s.part s.cur 0 0 false) (fun r => laySpace r.1 = 0 && !granuleBusy s.part 0 (accGranules r.1 true r.2) &&
      (storeHigh r.1 r.2).isNone && okAnd (translateAcc s.pkg (cxOf s) false 8 (accAddrs r.1 true r.2)) (fun xs =>
        (loadBad s.pkg 0 0 0 xs (accGranules r.1 true r.2)).isNone && keysClear s 0 (probeAll xs (accGranules r.1 true r.2))))) = true := by decide

def busyMat : Part := { partReset with matq := [{ cmd with running := false }] }
theorem wit_MatrixUnitEvents : engineMay busyMat cmd.board = true ∧ tileHeldBefore busyMat cmd.tile cmd.board.ord = false ∧
    cmd.running = true ∧ (runCommand t0.pkg 0 0 cmd).2.isNone = true := by decide
theorem wit_MatrixEngineFault : ((runCommand t0.pkg 0 0 { cmd with a := .layout (ent2 0 9 0 0x100 1 1 2 2) }).2.map (·.cause)) =
    some causeTranslation := by decide

def msgOf (b : MsgBody) : Msg := ⟨1, 0, 0, b, none, 0⟩
def sent (b : MsgBody) (s : State) : State := onPkg (fun p => { p with net := [msgOf b] }) s
def fence0 (s : State) : State := onCore (fun c => { c with fenced := some 0 }) s
def mcap (v : Nat) (s : State) : State := onCore (fun c => { c with mcap := BitVec.ofNat 64 v }) s
theorem wit_MmarArrival : (let b := MsgBody.mmar 0 0 1 7 false false false 0 0 0 0
    nextMsg (sent b t0).pkg 1 0 = some (msgOf b) ∧ (coreOf (fence0 t0).pkg 0).fenced.isSome = true ∧ bit (coreOf t0.pkg 0).mcap 63 = false ∧
    bit (coreOf (mcap (2 ^ 63 + 7) t0).pkg 0).mcap 63 = true ∧ fld (coreOf (mcap (2 ^ 63 + 7) t0).pkg 0).mcap 0 32 = 7 ∧
    isErr (mmarReady t0.part (cxOf t0) 0 0 1 false false) = true ∧ isOk (mmarReady (mats t0).part (cxOf t0) 0 0 1 false false) = true) := by
  decide

/-- The worked step boundary of chapter 4: 1 + 2^-23 in one step; 1 + 2^-24 rounds to 1, NX. -/
def prods (l : List Nat) : List (FV × FV) := l.map (fun x => (decodeF fmtBF16 0x3F80, decodeF fmtBF16 x))
theorem test_mac_step : macStep 0 (prods [0x3F80, 0x3380, 0x3380]) = (0x3F800001, 0) ∧
    macStep 0 (prods [0x3F80, 0x3380]) = (0x3F800000, 0x10) ∧ macStep 0x3F800000 (prods [0x3380]) = (0x3F800000, 0x10) := by decide

/- Seam: a map L0 at 0x1000, keys L1, and rows L1 and L2, sizes L3 and L4, bias L5. -/
def maps (s : State) : State := lay 0 (ent 1 6 0 0x1000 16 2) (lay 1 (ent2 1 9 0 0x2000 2 4 2 4) (lay 2 (ent2 1 8 0 0x3000 2 4 4 8)
  (lay 3 (ent 1 8 0 0x4000 4 4) (lay 4 (ent 1 8 0 0x5000 4 4) (lay 5 (ent 1 8 0 0x6000 4 4) s)))))
def blk (a b c : Nat) (s : State) : State := reg 20 (BitVec.ofNat 64 a) (reg 21 (BitVec.ofNat 64 b) (reg 22 (BitVec.ofNat 64 c) s))
def fX (md : BitVec 9) (d a : BitVec 6) : Fields := fieldsOf md (.lay d) (.lay a) (.desc (.s 20))
def header (s : State) : State := onPart (fun k => scrWrite k 0 0x1000 (leBytes 16 (0x5A534D31 + 7 * 2 ^ 32 + 4 * 2 ^ 64 + 1 * 2 ^ 80 + 2 * 2 ^ 96))) s
theorem wit_SeamMatch : allRun .lane0 (blk (4 + 2 * 65536) 2 7 (maps t0)) [.seam (fX 0 0 1), .seam (fX 2 0 1)] = true ∧
    isErr (seamEntry t0.part 0 [6] 1) = true ∧ isOk (seamEntry (maps t0).part 0 [6] 1) = true ∧
    isOk (seamEntry (maps t0).part 1 [9] 2) = true ∧
    (if false then 2 + 1 ≤ (4 + 1) / 2 else 2 ≤ 4 / 2) ∧ ¬ (if true then 2 + 1 ≤ (4 + 1) / 2 else 2 ≤ 4 / 2) ∧
    isOk (checkMap (ent 1 6 0 0x1000 16 2) 0 4) = true ∧ isOk (checkRows (ent2 1 9 0 0x2000 2 4 2 4) 1 2 4) = true ∧
    spansMeet (rowSpans (ent2 1 9 0 0x2000 2 4 2 4) 2 4) [mapSpan (ent 1 6 0 0x1000 16 2) 4] = false := by decide
theorem wit_SeamUse : allRun .lane0 (blk (2 ^ 8 * 3 + 2 ^ 16 * 4 + 2 ^ 24 * 5) 2 7 (maps t0)) [.seam (fX 1 2 1), .unseam (fX 0 2 1)] = true ∧
    isOk (allOk [seamEntry (maps t0).part 0 [6] 1, seamEntry (maps t0).part 1 [8, 9, 10] 2, seamEntry (maps t0).part 2 [8, 9, 10] 2,
      seamEntry (maps t0).part 3 [8] 1, seamEntry (maps t0).part 4 [8] 1, seamEntry (maps t0).part 5 [8] 1]) = true ∧
    (mapHead t0.part 0x1000).magic ≠ 0x5A534D31 ∧
    (let h := mapHead (header t0).part 0x1000; h.magic = 0x5A534D31 ∧ h.gen = 7 ∧ h.n = 4 ∧ h.r = 1 ∧ h.keep0 = false) ∧
    isOk (checkMap (ent 1 6 0 0x1000 16 2) 0 0) = true ∧ scrClear t0.part [mapSpan (ent 1 6 0 0x1000 16 2) 0] [] = true := by decide
theorem wit_SeamPerform : engineMay { partReset with seamq := [default] } (default : SeamCmd).board = true ∧
    (default : SeamCmd).op = 0 ∧ mapEntry t0.part (ent 1 6 0 0x1000 16 2) 0 < 4 - 1 := by decide

/- Global accesses: L0 of I32 at virtual address 0, with and without its translation. -/
def glb (s : State) : State := lay 0 (ent 0 0 0 0 8 4) (paged s)
def fL (md : BitVec 9) : Fields := fieldsOf md (.s 1) (.lay 0) bS3
def fLV (md : BitVec 9) : Fields := fieldsOf md (.v 1) (.lay 0) bS3
def fT (md : BitVec 9) : Fields := fieldsOf md (.lay 0) (.s 2) bS3
def fTV (md : BitVec 9) : Fields := fieldsOf md (.lay 0) (.s 2) (.desc (.v 3))

/-- A readable access as LoadResults takes it. -/
def readsOf (s : State) (f : Fields) (vec : Bool) (g : Access → Bool) : Bool :=
  okAnd (entryFor s.part (opdLay f.a) (s.bVal f) [0]) (fun e =>
    okAnd (accessEls (cxOf s) e (s.bVal f) (opdLay f.a) vec false (lanesOf s f)) (fun els =>
      !granuleBusy s.part s.slot (accGranules e vec els) &&
        okAnd (translateAcc s.pkg (cxOf s) false (layType e) (accAddrs e vec els)) (fun xs =>
          keysClear s (if ordOf f = 0 then 0 else scopeLevel (scopeOf f)) (probeAll xs (accGranules e vec els)) && g ⟨e, els, xs⟩)))

theorem wit_LoadResults : allRun .lane0 (glb t0) [.ld (fL 0), .ld (fL 0x100), .ld (fL 0x150)] = true ∧
    allRun .lanes (glb t0) [.ldv (fLV 0), .ldv (fLV 0x130)] = true ∧ isErr (entryFor t0.part 0 0 [0]) = true ∧
    readsOf (glb t0) (fL 0) false (fun a => isOk (performLoad (glb t0).pkg (cxOf t0) 0 ⟨a.e, a.els, false, a.xs, 0, false, true⟩)) = true ∧
    readsOf (glb t0) (fLV 0) true (fun a => isOk (performLoad (glb t0).pkg (cxOf t0) 0 ⟨a.e, a.els, true, a.xs, 0, false, true⟩)) = true ∧
    readsOf (later (glb t0)) (fL 0) false (fun a => mayWait a.e false && (loadDest t0.part 0 (.s 1)).isSome &&
      (loadBad t0.pkg 0 0 0 a.xs (accGranules a.e false a.els)).isNone) = true ∧ t0.turn.later = false ∧ (later t0).turn.later = true := by decide

theorem wit_LoadStrong : readsOf (glb t0) (fL 0x130) false (fun a =>
      let p1 := pushKeys (glb t0).pkg 0 0 3 (probeAll a.xs (accGranules a.e false a.els))
      p1.2 && !behindRegion p1.1 0 (scopeLevel 3) (probeAll a.xs (accGranules a.e false a.els)) &&
        isOk (performLoad p1.1 (cxOf t0) 0 ⟨a.e, a.els, false, a.xs, scopeLevel 3, false, true⟩)) = true ∧ ordOf (fL 0x130) ≠ 0 := by decide

/-- A load whose reply is to come. -/
def pendingLoad : OutLoad := ⟨ent 0 0 0 0 8 4, 3, false, .sreg 1, allTrue, false, [page], 0⟩
theorem wit_LoadReply : (let s := onSlot (fun x => { x with loads := [pendingLoad] }) (glb t0)
    s.cur.live = true ∧ s.cur.loads[0]? = some pendingLoad ∧
    okAnd (accessEls (cxOf s) pendingLoad.entry 3 0 false false allTrue) (fun els =>
      isOk (performLoad s.pkg (cxOf s) 0 ⟨pendingLoad.entry, els, false, [page], 0, false, true⟩)) = true) := by decide

theorem wit_ReplyAddresses : (let s := onSlot (fun x => { x with loads := [pendingLoad] }) (glb t0)
    okAnd (accessEls (cxOf s) pendingLoad.entry 3 0 false false allTrue) (fun els =>
      okAnd (replyXlats s.pkg 0 0 pendingLoad (accAddrs pendingLoad.entry false els)) (fun xs =>
        !(probeAll xs (accGranules pendingLoad.entry false els)).any (readWaits s.pkg 0 0 0) &&
          isOk (performLoad s.pkg (cxOf s) 0 ⟨pendingLoad.entry, els, false, xs, 0, false, true⟩))) = true ∧
    staleKey s.pkg page = false ∧ (coreOf s.pkg 0).switching = false) := by decide
/-- A load that meets an error in device memory (R326). -/
theorem wit_LoadFails : readsOf (onPkg (fun p => { p with badGran := [2048] }) (glb t0)) (fL 0) false (fun a =>
    isErr (performLoad (onPkg (fun p => { p with badGran := [2048] }) (glb t0)).pkg (cxOf t0) 0 ⟨a.e, a.els, false, a.xs, 0, false, true⟩)) = true := by
  decide

/-- A writable access as StoreResults takes it. -/
def writesOf (s : State) (f : Fields) (vec : Bool) (g : Store → Bool) : Bool :=
  okAnd (entryFor s.part (opdLay f.d) (s.aVal f) [0]) (fun e =>
    okAnd (accessEls (cxOf s) e (s.aVal f) (opdLay f.d) vec true (lanesOf s f)) (fun els =>
      opTypeOk (fld f.md 1 3) (layType e) && (storeHigh e els).isNone && g (storeOf s f vec e els)))
def missed? (x : Except XlOut (List Xlat)) : Bool :=
  match x with
  | .error (.miss _) => true
  | _ => false
def unpaged (s : State) : State := lay 0 (ent 0 0 0 0 8 4) s

theorem wit_StoreResults : allRun .lane0 (glb t0) [.st (fT 0), .st (fT 0xB2), .st (fT 2)] = true ∧
    allRun .lanes (glb t0) [.stv (fTV 0), .stv (fTV 0xB0)] = true ∧
    writesOf (glb t0) (fT 0) false (fun st => !decide (st.pieces = []) && !granuleBusy t0.part 0 (st.pieces.map (fun q => (q.va : Int))) &&
      isOk (translateAcc (glb t0).pkg (cxOf t0) true st.ty (st.pieces.map pieceAddr))) = true ∧
    writesOf (glb (reg 2 8 t0)) (fT 0) false (fun st => decide (st.pieces = [])) = true ∧
    writesOf (unpaged t0) (fT 0) false (fun st => missed? (translateAcc (unpaged t0).pkg (cxOf t0) true st.ty (st.pieces.map pieceAddr))) =
      true ∧ jFree t0.part = some 0 ∧ t0.cur.handler = false := by decide

theorem wit_StorePosts : (postRecs t0.pkg 0 0 8 [(runKey 0 513, default)]).2 = [] ∧ occupancy (instOf t0.pkg 0 0) < 8 ∧
    chainOf (instOf t0.pkg 0 0) (runKey 0 513) = [] ∧ (insertRecs t0.pkg 0 0 3 [(runKey 0 513, default)]).2 = [] ∧
    (pushKeys t0.pkg 0 0 3 [runKey 0 513]).2 = true ∧ behindRegion t0.pkg 0 (scopeLevel 3) [runKey 0 513] = false ∧
    (onSlot (fun x => { x with hold := .strong 3 0 [] }) t0).cur.hold = .strong 3 0 [] ∧
    aliasBusy t0.pkg (cxOf t0) [runKey 0 513] = false ∧
    strongBehind t0.pkg (scopeLevel 3) (pathPlace 0 (scopeLevel 3) 0) 0 (some 0) = false := by decide

def holding (l : List OutLoad) (s : State) : State := onSlot (fun x => { x with loads := l }) s
def fRange : Fields := fieldsOf 0x30 (.lay 0) (.s 2) bS3
/-- A journal entry of a message, and of a store whose walk is under way, of the current context. -/
def entryWith (st : Nat) : JEntry := { (default : JEntry) with status := st, kind := 1 }
def journaled (e : JEntry) (s : State) : State := onPart (fun k => { k with journal := [(0, e)] }) s
def merging (b : Bool) (s : State) : State := onPkg (fun p => setInst p 0 0 { instReset with merging := b }) s
theorem wit_FencesAndRanges : allRun .lane0 (glb t0) [.fence { fN with md := 0x80 }, .fence { fN with md := 0x30 }, .fence { fN with md := 0x100 },
      .mpush fRange, .mpush { fRange with md := 0x10 }, .mdrop fRange, .msync fN, .drainst fN] = true ∧ ordOf { fN with md := 0x80 } = 1 ∧
    ordOf { fN with md := 0x100 } ≠ 1 ∧ t0.cur.loads = [] ∧ allRun .lane0 (holding [pendingLoad] t0) [.fence { fN with md := 0x80 }] = true ∧
    (holding [pendingLoad] t0).cur.loads ≠ [] ∧ journalWaits t0.part 0 true = false ∧ journalWaits t0.part 0 false = false ∧
    journalWaits (journaled (entryWith 2) t0).part 0 true = true ∧ (releasePush t0.pkg 0 0 3).2 = true ∧
    isErr (entryFor t0.part 0 0 [0]) = true ∧ okAnd (entryFor (glb t0).part 0 0 [0]) (fun e => okAnd (rangeGranules e 0 3) (fun gs =>
      (rangeKeys (glb t0).pkg (cxOf t0) gs).2.2.isNone && (pushKeys (glb t0).pkg 0 0 3 (dedupNat (rangeKeys (glb t0).pkg (cxOf t0) gs).1)).2)) =
      true ∧ scopeOf { fRange with md := 0x10 } ≤ 1 ∧ 2 ≤ scopeOf fRange := by decide
theorem wit_MsyncDrainst : (instOf t0.pkg 0 0).merging = false ∧ (instOf (merging true t0).pkg 0 0).merging = true ∧
    (instOf (merging true t0).pkg 0 0).stall = none ∧ allRun .lane0 (merging true t0) [.msync fN] = true ∧ t0.part.journal = [] ∧
    allRun .lane0 (journaled (entryWith 1) t0) [.drainst fN] = true ∧
    (∃ e ∈ (journaled (entryWith 1) t0).part.journal, e.2.ctx = t0.cur.ctx ∧ (e.2.status = 1 ∨ e.2.status = 2)) ∧
    mapSorted 0 t0.pkg.insts = true := by decide

theorem wit_PrefHasNoFault : allRun .lane0 t0 [.pref (fieldsOf 0x30 .none (.lay 0) bS3)] = true ∧
    allRun .lane0 (glb t0) [.pref (fieldsOf 0x30 .none (.lay 0) bS3)] = true := by decide

def fARB : Fields := fieldsOf 0x30 (.lay 0) (.s 2) (.desc .none)
def notP0 (f : Fields) : Fields := { f with gp := 0 }
def open0 : Region := ⟨0, 0, 3, page, []⟩
def opened (s : State) : State := onSlot (fun x => { x with region := some open0 }) (glb s)
theorem wit_AtomicRegions : allRun .own t0 [.arb fARB, .arb (notP0 fARB), .are fN, .are (notP0 fN)] = true ∧
    guardLane0 t0.cur (notP0 fARB) = false ∧ guardLane0 t0.cur fARB = true ∧ isErr (entryFor t0.part 0 0 [0]) = true ∧
    okAnd (entryFor (glb t0).part 0 0 [0]) (fun e => insideLay e (elemIndex e 0) && alignOk (layType e) (elemAddr e (elemIndex e 0)) &&
      (match translate (glb t0).pkg (cxOf t0) (elemAddr e (elemIndex e 0)) false with
        | .hit x => x.ovl.isNone
        | _ => false)) = true ∧ t0.cur.region = none ∧
    (opened t0).cur.region = some open0 ∧ open0.ops.length < 16 ∧ t0.cur.pc + 12 < textSizeOf t0.pkg 0 ∧
    stateOk t0.part 0 0 0x020 fS = true ∧ windowOk t0.pkg 0 fS.b = true ∧ allRun .own (opened t0) [.are fN, .are (notP0 fN)] = true := by
  decide
theorem wit_RegionRuns : scoreboardFree (opened t0).part 0 0x020 fS = true ∧ (opened t0).cur.loads = [] ∧
    scalarCheck (opened t0).cur 0 (shippedRegs [] open0.ops) = none ∧
    aliasBusy (opened t0).pkg (cxOf t0) ((List.range 4).map (fun i => floorKey page (32 * i))) = false ∧
    granuleBusy (opened t0).part 0 ((List.range 4).map (fun i => ((0 + 32 * i : Nat) : Int))) = false ∧
    (pushKeys (opened t0).pkg 0 0 3 ((List.range 4).map (fun i => floorKey page (32 * i)))).2 = true ∧
    behindRegion (opened t0).pkg 0 (scopeLevel 3) [floorKey page 0] = false ∧
    (match performRegion (opened t0).pkg (cxOf t0) (opened t0).cur open0 with
      | .performed _ _ => true
      | _ => false) = true ∧
    (let y := { (opened t0).cur with hold := .region 0 }
     okAnd (match shippedOf 0 0 y with
       | some me => .ok me
       | none => .error ()) (fun me => !regionAhead (opened t0).pkg me)) = true := by decide

theorem wit_LayoutEntries : allRun .lane0 t0 [.ltset (fieldsOf 0 (.lay 63) (.v 2) (.desc .none))] = true ∧
    allRun .lanes t0 [.ltget (fieldsOf 0 (.v 1) (.lay 63) (.desc .none))] = true := by decide

def scr (s : State) : State := lay 0 (ent 1 0 0 0x100 8 4) s
theorem wit_ScratchpadAccesses : allRun .lane0 t0 [.lds (fL 0), .sts (fT 0)] = true ∧ allRun .lanes t0 [.ldsv (fLV 0), .stsv (fTV 0)] = true ∧
    isErr (localEls t0.part (cxOf t0) 0 0 false false allTrue) = true ∧ isErr (localEls t0.part (cxOf t0) 0 0 true true allTrue) = true ∧
    localEls (scr t0).part (cxOf t0) 0 7 false false allTrue = .ok (ent 1 0 0 0x100 8 4, [(0, some [7, 0, 0, 0])]) ∧
    localEls (scr t0).part (cxOf t0) 0 8 false false allTrue = .ok (ent 1 0 0 0x100 8 4, [(0, none)]) ∧
    isOk (localEls (scr t0).part (cxOf t0) 0 0 true false allTrue) = true ∧ isOk (localEls (scr t0).part (cxOf t0) 0 0 true true allTrue) = true ∧
    plainType (ent 1 0 0 0x100 8 4) ∧ t0.part.badWords = [] ∧ mapSorted 0 t0.part.scr = true ∧
    scrClear t0.part (elSpans (ent 1 0 0 0x100 8 4) false [(0, some [7, 0, 0, 0])]) [] = true := by
  refine ⟨by decide, by decide, by decide, by decide, rfl, rfl, by decide, by decide, ?_, rfl, rfl, by decide⟩
  unfold plainType; decide

/-- Each local access completes: L0 in scratchpad, eight elements; no engine command, no word in error. -/
theorem wit_ScratchpadCompletes :
    scratchOperands (scr t0) 0 0 false allTrue (ent 1 0 0 0x100 8 4) ∧
    scratchOperands (lay 0 (ent 1 0 0 0x100 32 4) t0) 0 0 true allTrue (ent 1 0 0 0x100 32 4) ∧
    boards t0.part = [] ∧ t0.part.badWords = [] ∧
    allRun .lane0 (scr t0) [.lds (fL 0), .sts (fT 0)] = true ∧ allRun .lanes (scr t0) [.ldsv (fLV 0), .stsv (fTV 0)] = true := by
  unfold scratchOperands; decide
/-- A block of F4X in scratchpad, with a good scale and with the scale that faults (R61, R188). -/
def blockAt (v : Nat) (s : State) : State := lay 0 (ent 1 13 0 0x100 32 18) (onPart (fun k => scrWrite k 0 0x100 (leBytes 18 v)) s)
theorem wit_ScratchpadBlocks :
    (let e := ent 1 13 0 0x100 32 18
     let bad := (blockAt (255 * 2 ^ 128) t0).part
     okAnd (localEls (blockAt 0 t0).part (cxOf t0) 0 0 true false allTrue) (fun r =>
       decide (r.1 = e) && scrClear t0.part (elSpans e true r.2) [] && (spansBad t0.part (elSpans e true r.2)).isNone &&
         !blockBad e r.2 (scrNat t0.part) && blockBad e r.2 (scrNat bad)) = true ∧
     okAnd (localEls (blockAt 0 t0).part (cxOf t0) 0 0 false false allTrue) (fun r =>
       isOk (scalarFrom true e r.2 (scrNat t0.part)) && isErr (scalarFrom true e r.2 (scrNat bad))) = true) := by decide

def wordAt (space : Nat) (s : State) : State := lay 0 (ent space 3 0 (0x100 + (if space = 2 then 2 ^ 17 else 0)) 8 8) s
def limit (n : Nat) (s : State) : State := onSlot (fun x => { x with waitlim := BitVec.ofNat 48 n }) s
theorem wit_FullEmptyWords : allRun .lane0 t0 [.ldsf (fL 0), .stsf (fT 0)] = true ∧
    isErr (wordElement t0.part (cxOf t0) 0 0 false) = true ∧ isErr (wordElement t0.part (cxOf t0) 0 0 true) = true ∧
    isOk (wordElement (wordAt 1 t0).part (cxOf t0) 0 0 false) = true ∧ isOk (wordElement (wordAt 1 t0).part (cxOf t0) 0 0 true) = true ∧
    isOk (wordElement (wordAt 2 t0).part (cxOf t0) 0 0 false) = true ∧ isOk (wordElement (wordAt 2 t0).part (cxOf t0) 0 0 true) = true ∧
    tagFree t0.part true 32 = false ∧ tagFree t0.part false 32 = true ∧ tagFree (onPart (fun k => setTag k 32 true) t0).part true 32 = true ∧
    t0.cur.waitlim = 0 ∧ (limit 5 t0).cur.waitlim ≠ 0 ∧ reachable t0.pkg 0 = true ∧
    scrClear t0.part (elSpans (ent 1 3 0 0x100 8 8) false [(0, some [0, 0, 0, 0])]) [] = true ∧
    (jFree (partOf (takeReq t0.pkg 0).2 0)).isSome = true ∧
    (sendJournal (takeReq t0.pkg 0).2 (cxOf t0) 3 0 1 0 0 (fun uid => .putEmpty 0 8 0 0 0 uid)).isSome = true := by decide

/- Remote requests and arrivals: L0 names core 1's scratchpad. -/
def rem (s : State) : State := lay 0 (ent 2 0 0 (2 ^ 17 + 0x100) 8 4) s
def fG : Fields := fieldsOf 0 (.v 1) (.lay 0) (.desc (.v 3))
def fRed (b : BOpd) : Fields := fieldsOf 3 (.lay 0) (.s 2) b
def fAm : Fields := fieldsOf 0 .none (.s 16) (.imm 7)
/-- An element of a remote access, or none outside the entry. -/
def elOf (s : State) (write : Bool) (w : Word) (g : Option (List Int) → Bool) : Bool :=
  okAnd (entryFor s.part 0 w [2]) (fun e => okAnd (accessEls (cxOf s) e w 0 false write allTrue) (fun els =>
    match els with
    | [(0, o)] => (checkScale e w 0 false [(0, o)]).isNone && g o
    | _ => false))
theorem wit_RemoteRequests : allRun .lane0 t0 [.amsg fAm, .rld (fL 0), .rst (fT 0), .rred (fRed bS3)] = true ∧
    allRun .lanes t0 [.rred (fRed (.desc (.v 3))), .rgath fG] = true ∧ jFree t0.part = some 0 ∧ jFree (fullJ t0).part = none ∧
    allRun .lane0 (fullJ t0) [.amsg fAm] = true ∧ fld (blockReg t0.cur 0 (.s 16)) 22 2 = 0 ∧
    fld (blockReg (reg 16 (BitVec.ofNat 64 (2 ^ 23)) t0).cur 0 (.s 16)) 22 2 ≠ 0 ∧ reachable t0.pkg 0 = true ∧
    isErr (entryFor t0.part 0 0 [2]) = true ∧ elOf (rem t0) false 7 (·.isSome) = true ∧ elOf (rem t0) false 8 (·.isNone) = true ∧
    elOf (rem t0) true 7 (·.isSome) = true ∧ elOf (rem t0) true 8 (·.isNone) = true ∧ vecB (fRed bS3) = false ∧
    vecB (fRed (.desc (.v 3))) = true := by decide
theorem wit_Packets : okAnd (entryFor (rem t0).part 0 0 [2]) (fun e => okAnd (rredEls (cxOf t0) e 0 0 true allTrue) (fun els =>
      opTypeOk (fld (fRed bS3).md 1 3) (layType e) && decide (layType e ≤ 10) &&
        !decide (packetOf (rem t0) (fRed (.desc (.v 3))) true e els = []))) = true ∧
    okAnd (entryFor (rem (reg 2 8 t0)).part 0 8 [2]) (fun e => okAnd (rredEls (cxOf t0) e 8 0 false allTrue) (fun els =>
      decide (packetOf (rem t0) (fRed bS3) false e els = []))) = true ∧
    isErr (rredEls (cxOf t0) (ent 2 14 0 0 8 4) 0 0 false allTrue) = true ∧
    10 < layType (ent 2 11 0 0 8 1) ∧ 8 ≤ tySize (layType (ent 2 3 0 0 8 8)) ∧ layType (ent 2 14 0 0 8 4) = tyL8 ∧
    seqMayIssue t0.part (coreOf t0.pkg 0).redSeq = true ∧
    okAnd (entryFor (rem t0).part 0 0 [2]) (fun e => okAnd (gathLanes e 0 0 (List.range 32)) (fun ls =>
      ls.any (fun g => g.at'.isSome))) = true := by decide

def scap (v : Nat) (s : State) : State := onCore (fun c => { c with scap := BitVec.ofNat 64 v }) s
def noTeam (s : State) : State := onPart (fun k => { k with team := none }) s
/-- Core 1 asks core 0 with a request. -/
def request (n : Nat) : Reply := { (default : Reply) with
  req := n
  left := 1 }
def asking (n : Nat) (s : State) : State := onPkg (fun p => updPart p 1 (fun k =>
  { updSlot k 0 (fun x => { x with live := true, hold := .reply (request n) }) with team := some placedTeam })) s
def mLoad : MsgBody := .load 0x100 4 none 0 0
/-- The four cases of a home: fenced, not ready, refused by %SCAP, taken. -/
theorem wit_RemoteArrivals : nextMsg (sent mLoad t0).pkg 1 0 = some (msgOf mLoad) ∧ (coreOf (fence0 t0).pkg 0).fenced.isSome = true ∧
    (coreOf t0.pkg 0).fenced = none ∧ homeReady (noTeam t0).pkg 0 = false ∧ homeReady t0.pkg 0 = true ∧
    scapOk t0.pkg 0 0 0 = false ∧ scapOk (scap (2 ^ 63) t0).pkg 0 0 0 = true ∧ t0.part.badWords = [] ∧
    (let m := MsgBody.takeFull 0x100 8 none 5 9
     stillAsked (sent m t0).pkg ⟨0, 1, 0⟩ 9 = false ∧
     stillAsked (asking 9 t0).pkg ⟨0, 1, 0⟩ 9 = true ∧ behindErrand t0.pkg 0 ⟨0, 1, 0⟩ = false ∧
     behindErrand (onPart (fun k => { k with errands := [⟨⟨1, 0, 0, 0⟩, 0, mLoad, 0, []⟩] }) t0).pkg 0 ⟨0, 1, 0⟩ = true) := by decide
def remoteWaiter (d : Nat) : Waiter := { (default : Waiter) with deadline := d, src := 1 }
theorem wit_RemoteWaiter : (onPart (fun k => { k with waiters := [remoteWaiter 5] }) t0).part.waiters[0]? = some (remoteWaiter 5) ∧
    (remoteWaiter 5).slot = none ∧ (remoteWaiter 5).moved = false ∧ t0.time < (remoteWaiter 5).deadline ∧ (remoteWaiter 0).deadline ≤ t0.time ∧
    (coreOf t0.pkg 0).switching = false := by decide

/-- A journal entry of an RST, in flight, with serial number 4. -/
def inFlight : JEntry := { (default : JEntry) with kind := 1, status := 2, uid := 4, body := .msg 1 0 (.store 0x100 4 7 4) }
def kept (last : Nat) (b : MsgBody) (s : State) : State := onPkg (fun p => { p with parked := [⟨0, 1, 0, b, some 0, last⟩] }) s
theorem wit_RemoteAnswers : (let s := journaled inFlight t0
    nextMsg (sent (.ack 4) s).pkg 1 0 = some (msgOf (.ack 4)) ∧ jByUid (partOf s.pkg 0) 4 = some (0, inFlight) ∧
    copyUid (partOf (jSuccess s.pkg 0 4) 0) 4 = none ∧ stsfReq s.part 4 = none ∧ stsfUid s.part 9 = none ∧ copyUid s.part 9 = none ∧
    homeReady (noTeam t0).pkg 0 = false ∧ needsTeam mLoad = true ∧ homeReady s.pkg 0 = true ∧
    (let k := kept 0 (.store 0x100 4 7 4) s
     keptBy k.pkg 0 0 = some ⟨0, 1, 0, .store 0x100 4 7 4, some 0, 0⟩ ∧ heldBack k.pkg ⟨0, 1, 0, .store 0x100 4 7 4, some 0, 0⟩ = false ∧
     waitOf (.store 0x100 4 7 4) = none ∧ k.time < 0 + 1000 ∧ copyUid (partOf (jFail { k.pkg with parked := [] } 1000000 0 4 4 0x3D 0) 0) 4 = none)) := by
  decide

def mAm : MsgBody := .amsg 0 1 2 3 4 5
def handling (s : State) : State := onSlot (fun x => { x with kind := .errand, sender := some ⟨1, 0, 0, 5⟩ }) s
theorem wit_ActiveMessages : (let e : Errand := ⟨⟨1, 0, 0, 5⟩, 0, mAm, 0, []⟩
    let k := (onPart (fun k => { k with errands := [e] }) t0).part
    k.errands = [e] ∧ (slotOf k (errandSlot k.mode)).live = false ∧ repartWaits k = false ∧ k.team.isSome = true) ∧
    (partOf (noTeam t0).pkg 0).team = none ∧ allRun .lane0 t0 [.amret fN, .amret (fI 3)] = true ∧ t0.cur.kind ≠ .errand ∧
    allRun .lane0 (handling t0) [.amret fN, .amret (fI 3)] = true ∧ (handling t0).cur.sender = some ⟨1, 0, 0, 5⟩ := by decide

/- Copies: L0 to L1, of eight I32 elements in scratchpad, on channel 2. -/
def cp (s : State) : State := lay 0 (ent 1 0 0 0x100 8 4) (lay 1 (ent 1 0 0 0x200 8 4) (reg 22 (BitVec.ofNat 64 (2 * 2 ^ 32)) s))
def fC : Fields := fieldsOf 0 (.lay 1) (.lay 0) (.desc (.s 20))
def copyOf2 : Copy := { (default : Copy) with ident := 1, ch := 2, d := ent 1 0 0 0x200 8 4, src := ent 1 0 0 0x100 8 4 }
def copies (l : List Copy) (s : State) : State := onPart (fun k => { k with copies := l }) s
theorem wit_CopyInstructions : allRun .lane0 (cp t0) [.cpy fC, .cpy { fC with md := 0xF1 }] = true ∧
    isOk (entryFor (cp t0).part 1 0 [0, 1, 2]) = true ∧ isOk (entryFor (cp t0).part 0 0 [0, 1, 2]) = true ∧
    fld (blockReg (cp t0).cur 2 (.s 20)) 32 2 = 2 ∧ inChannel (cp t0).part 2 < 16 ∧
    16 ≤ inChannel (copies (List.replicate 16 copyOf2) t0).part 2 ∧
    (cpyChecks (cxOf t0) (ent 1 0 0 0x200 8 4) (ent 1 0 0 0x100 8 4) 1 0 0 0 0 false 0 0).isNone = true ∧
    (cpyChecks (cxOf t0) (ent 1 0 0 0x202 8 4) (ent 1 0 0 0x100 8 4) 1 0 0 0 0 false 0 0).isSome = true ∧
    cpyEls (ent 1 0 0 0x200 8 4) (ent 1 0 0 0x100 8 4) 0 0 0 ≠ [] := by decide
theorem wit_CopyEvents : (copyOf (copies [copyOf2] t0).part 2 1 = some copyOf2) ∧
    (let s := copies [copyOf2] t0
     copyOf2.todo = [] ∧ copyOf2.fail = none ∧ copyRefused s.pkg 0 0 copyOf2 = false ∧ 0 < copyRest copyOf2 ∧ copyOf2.first = none ∧
     copyNotReady (idlePkg s 0 copyOf2) 0 (idleCopy copyOf2) = false ∧ copyOf2.acq = false ∧
     copyMayRun (idlePkg s 0 copyOf2) 0 (idleCopy copyOf2) (copyRest copyOf2) = true ∧ s.pkg.retained = [] ∧
     (coreOf s.pkg 0).switching = false ∧ (coreOf s.pkg 0).fenced = none) := by decide
/-- It ends well, and in an error of its source. -/
theorem wit_CopyPerforms : (let s := copies [copyOf2] t0
    let go : Copy := { idleCopy copyOf2 with begun := true }
    let r := performCopy (idlePkg s 0 copyOf2) 0 0 go (copyRest copyOf2)
    r.2.2.isNone = true ∧ copyRest (copyMoved s 0 copyOf2 r.2.1 r.1).2 = 0 ∧ (copyMoved s 0 copyOf2 r.2.1 r.1).2.begun = true ∧
    (coreOf (copyMoved s 0 copyOf2 r.2.1 r.1).1 0).switching = false) := by decide
theorem wit_CopyFails : (let s := onPart (fun k => { k with badWords := [32] }) (copies [copyOf2] t0)
    (performCopy (idlePkg s 0 copyOf2) 0 0 { idleCopy copyOf2 with begun := true } (copyRest copyOf2)).2.2.isSome = true) := by decide
theorem wit_CopyEnds : (let x : Copy := { copyOf2 with pos := 8, begun := true }
    copyRest x = 0 ∧ x.left = 0 ∧ x.rel = false ∧ x.ben = false ∧ x.refused = false ∧ copyNotReady (copies [x] t0).pkg 0 x = false ∧
    (let y : Copy := { x with fail := some (engineTrap 1 0 0) }
     (0x23 : Nat) ≠ causeMachineCheck ∧ (copyOf (partOf (raiseEngine (copies [y] t0).pkg 0 0 0 0 (engineTrap 1 0 0)) 0) 2 1).isSome = true)) := by
  decide
theorem wit_Cpyw : allRun .lane0 t0 [.cpyw (fieldsOf 0 .none (.s 2) bS3)] = true ∧ fld (t0.bVal fS) 0 48 < xdone t0.part 0 ∧
    xdone t0.part 0 ≤ fld ((reg 3 1 t0).bVal fS) 0 48 := by decide

/- Synchronisation. -/
def fA (b : BOpd) : Fields := fieldsOf 0 .none (.s 10) b
def fBart : Fields := fieldsOf 0 (.p 1) (.s 10) bS3
def obj (phase arr exp : Nat) (s : State) : State := onPart (fun k => objWrite k 0 0 ⟨0, phase, arr, exp, false, false, 0⟩) s
theorem wit_BarrierObjects : allRun .lane0 t0 [.bari (fA bS3), .bara (fA (.imm 0)), .bara (fA (.imm 1)), .barw (fA bS3)] = true ∧
    allRun .lanes t0 [.bart fBart] = true ∧ objectAt t0 (fA bS3) = (0, 0) ∧ objectAt (reg 10 8 t0) (fA bS3) = (8, 0) ∧
    objectAt (reg 10 0x20000 t0) (fA bS3) = (0, 1) ∧ scrClear t0.part [] [(0, 16)] = true ∧ scrClear t0.part [(0, 16)] [(0, 16)] = true ∧
    fld (t0.bVal (fA (.imm 0))) 0 24 = 0 ∧ fld (t0.bVal (fA (.imm 1))) 0 24 ≠ 0 ∧ jFree t0.part = some 0 ∧ mapSorted 0 t0.part.scr = true ∧
    (objOf (obj 1 0 2 t0).part 0).phase ≠ fld (t0.bVal (fA bS3)) 0 16 ∧ (objOf t0.part 0).phase = fld (t0.bVal (fA bS3)) 0 16 ∧
    nextMsg (sent (.arrive 0 1 5) t0).pkg 1 0 = some (msgOf (.arrive 0 1 5)) := by decide

def waitHwbar (m : Bool) : Wait := ⟨.barrier 2, 0, m, 0⟩
def fH (n : BitVec 9) : Fields := { fN with md := n * 16 }
/-- The core alone is the group: its one context arrives, and is released at once; with a second context it waits. -/
def two (s : State) : State := onPart (fun k => updSlot k 1 (fun x => { x with live := true })) s
def storeEntry : JEntry := { (default : JEntry) with status := 1, body := .store [] 0 0 false }
theorem wit_HardwareBarriers : allRun .lane0 t0 [.hwbar (fH 1), .hwbar (fH 2), .hwbar (fH 6)] = true ∧ journalWaits t0.part 0 false = false ∧
    t0.cur.loads = [] ∧ (releasePush t0.pkg 0 0 2).2 = true ∧
    holdOf (barrierCheck (setHold t0.pkg (cxOf t0) (.wait (waitHwbar false))) 0 0 2) (cxOf t0) = .wait (waitHwbar true) ∧
    holdOf (barrierCheck (setHold (two t0).pkg (cxOf t0) (.wait (waitHwbar false))) 0 0 2) (cxOf t0) = .wait (waitHwbar false) ∧
    t0.cur.waitlim = 0 ∧ (limit 1 t0).cur.waitlim ≠ 0 ∧ journalWaits (journaled storeEntry t0).part 0 false = true ∧
    allRun .lane0 (journaled storeEntry t0) [.hwbar (fH 2)] = true ∧ t0.part.team = some placedTeam ∧
    [PodEpisode.mk 0 0 0 true 0 4 1 1 []].find? (podSame 0 0 0) = some ⟨0, 0, 0, true, 0, 4, 1, 1, []⟩ ∧ 1 + 1 = podRounds 4 ∧
    0 + 1 < podRounds 4 ∧ (0 + 2 ^ 0) % 4 = 1 ∧ (3 + 2 ^ 1) % 4 = 1 := by decide

/-- Three sorted lists of I32 in scratchpad. -/
def lists (s : State) : State := lay 0 (ent 1 0 0 0x100 8 4) (lay 1 (ent 1 0 0 0x200 4 4) (lay 2 (ent 1 0 0 0x300 4 4) s))
def fMg : Fields := fieldsOf 0 (.lay 0) (.lay 1) (.desc (.lay 2))
def smrg1 : SmrgCmd := { (default : SmrgCmd) with d := ent 1 0 0 0x100 8 4, a := ent 1 0 0 0x200 4 4, b := ent 1 0 0 0x300 4 4 }
theorem wit_SortedLists : allRun .lane0 (lists t0) [.smrg fMg, .smrg { fMg with md := 2 }] = true ∧
    isOk (listEntry (lists t0).part 0) = true ∧ isOk (listEntry (lists t0).part 1) = true ∧ isOk (listEntry (lists t0).part 2) = true ∧
    layType (ent 1 0 0 0x100 8 4) ≠ layType (ent 1 1 0 0x200 4 1) ∧ isOk (listEls (ent 1 0 0 0x100 8 4) 0 true) = true ∧
    isOk (listEls (ent 1 0 0 0x200 4 4) 1 false) = true ∧
    spansMeet (listSpans (ent 1 0 0 0x200 4 4) ++ listSpans (ent 1 0 0 0x300 4 4)) (listSpans (ent 1 0 0 0x100 8 4)) = false ∧
    smrg1.waiting = false ∧ engineMay { partReset with smrgq := [smrg1] } smrg1.board = true ∧ manglePending t0.pkg 0 = false ∧
    manglePending (merging true t0).pkg 0 = true ∧ rises [1, 1, 2] = true := by decide

theorem wit_ListOperands : listOperand (lists t0) 0 (ent 1 0 0 0x100 8 4) ∧ listOperand (lists t0) 1 (ent 1 0 0 0x200 4 4) ∧
    listOperand (lists t0) 2 (ent 1 0 0 0x300 4 4) ∧
    spansMeet (listBytes (ent 1 0 0 0x200 4 4) ++ listBytes (ent 1 0 0 0x300 4 4)) (listBytes (ent 1 0 0 0x100 8 4)) = false := by
  unfold listOperand; decide

def fQ (b : BOpd) : Fields := fieldsOf 0 (.qc 0 0 0) .none b
def fQd (v : BitVec 32) : Fields := fieldsOf 0 (.qc 0 0 0) (.v 16) (.imm v)
def ring (c p n : Nat) (s : State) : State := onSlot (fun x => { x with rings := mapInsert x.rings 0 (.own 16 4 c p n) }) s
theorem wit_RingInstructions : allRun .lane0 t0 [.qdef (fQd 4), .qdef (fQd 3), .qdef (fQd 0x444), .qdef (fQd 32)] = true ∧
    fld (t0.bVal (fQd 0x444)) 0 6 = 4 ∧ fld (t0.bVal (fQd 0x444)) 6 4 = 1 ∧ bit (t0.bVal (fQd 0x444)) 10 = true ∧ 16 + 16 ≤ regCount 0 ∧
    ¬ (16 + 32 ≤ regCount 0) ∧ 1 ≠ t0.slot ∧
    allRun .lane0 (ring 0 1 1 t0) [.qpub (fQ (.imm 3)), .qpub (fQ (.imm 4)), .qadv (fQ (.imm 1)), .qadv (fQ (.imm 2))] = true ∧
    mapFind (ring 0 1 1 t0).cur.rings 0 = some (.own 16 4 0 1 1) ∧
    (let s := onPart (fun k => updSlot k 1 (fun x => { x with live := true, rings := [(0, .own 16 4 0 0 0)] })) t0
     mapFind (slotOf s.part 1).rings 0 = some (.own 16 4 0 0 0)) ∧
    allRun .lane0 (ring 0 1 1 t0) [.qcnt (fieldsOf 0 (.s 1) (.qc 0 0 0) (.desc .none))] = true ∧
    (ringView (ring 0 1 1 t0).part 0 0).isSome = true := by decide

def linkBoth (l : Link) (now : Nat) (s : State) : State := { s with site := { s.site with links := [l, linkReset, linkReset, linkReset] }, time := now }
def cmdT (t : Nat) (auto : Bool) : LinkCmd := ⟨t, auto⟩
theorem wit_AnoleLinks : allRun .lane0 t0 [.lnturn (fieldsOf 0 .none (.s 2) (.imm 12)), .lnstat (fieldsOf 0 (.s 1) (.s 2) (.desc .none))] = true ∧
    t0.pkg.regs.lnuser / 2 ^ 0 % 2 = 1 ∧ supOf t0.part = false ∧ supOf (sup t0).part = true ∧ linkReset.queue.length < 8 ∧
    8 ≤ (List.replicate 8 (cmdT 12 false)).length ∧ linkBusy linkReset 0 = false ∧
    linkBusy { linkReset with bundles := linkReset.bundles.set 0 ⟨true, none, some 48, none⟩ } 47 = true ∧
    linkReset.demand = true ∧ linkReset.checked + 4000 ≤ 4000 ∧ (∀ b ∈ linkReset.bundles, eligible 0 b = true) ∧
    2 ≤ sharers 0 linkReset 0 ∧ sharers 0 { linkReset with bundles := List.replicate 2 ⟨true, none, none, none⟩ } 0 < 2 ∧
    (Bundle.mk true none none (some 0)).recal = some 0 ∧ 0 + 30000 ≤ 30000 := by decide

/- Tasks and waits. -/
def teamed (n : Nat) (s : State) : State := onPart (fun k => { k with team := some { placedTeam with slots := n } }) s
def fSt (b : BOpd) : Fields := fieldsOf 0 .none (.s 2) b
def record (v : Nat) (s : State) : State := onPart (fun k => scrWrite k 0 0x40 (leBytes 32 v)) (reg 3 0x40 s)
def busySlot (n : Nat) (s : State) : State := onPart (fun k => updSlot k n (fun x => { x with live := true })) s
theorem wit_Start : (let s := teamed 3 (reg 2 1 t0)
    allRun .lane0 s [.start (fSt (.imm 12)), .start (fSt bS3)] = true ∧ startTarget s.pkg (cxOf s) (fSt bS3) = some 1 ∧
    startTarget (teamed 1 t0).pkg (cxOf s) (fSt bS3) = none ∧ allRun .lane0 t0 [.start (fSt bS3)] = true ∧
    slotIdle (coreOf s.pkg 0) 1 = true ∧ slotIdle (coreOf (busySlot 1 s).pkg 0) 1 = false ∧
    targetOk (textSizeOf s.pkg 0) (startEntry s.pkg (cxOf s) (fSt bS3)) = true ∧ relTarget s (fSt (.imm 24)) = 24) := by decide
theorem wit_Spawn : (let s := record (1 + 12 * 2 ^ 64) t0
    allRun .lane0 s [.spawn (fieldsOf 0 (.p 1) .none bS3)] = true ∧ fld (s.bVal (fSt bS3)) 0 17 = 0x40 ∧
    scrClear s.part [(0x40, 0x60)] [] = true ∧ s.part.badWords = [] ∧
    (let r := recordAt s 0x40
     recCode r < 2 ^ 32 ∧ recCode r % 12 = 0 ∧ recCode r < textSizeOf s.pkg 0 ∧ (releaseAt s.pkg (cxOf s) (recScope 0 r) false).2 = true ∧
     queueFull s.pkg (recCluster 0 r) (recPrio r) = false ∧
     queueFull (setQueue s.pkg (recCluster 0 r) (recPrio r) (List.replicate 128 default)) (recCluster 0 r) (recPrio r) = true ∧
     (releaseAt (holding [pendingLoad] s).pkg (cxOf s) (recScope 0 r) false).2 = false)) := by decide
def fJ : Fields := fieldsOf 0 (.p 1) .none bS3
theorem wit_Join : allRun .lane0 (glb t0) [.join fJ, .join { fJ with d := .none }] = true ∧
    (match translate (glb t0).pkg (cxOf t0) 0 true with
      | .hit x => x.ovl.isNone && (let q := releaseAt (glb t0).pkg (cxOf t0) 1 false
          let p := pushKeys q.1 0 0 1 ((List.range 4).map (fun i => storeKey x (32 * i)))
          let me := joinShipped t0 0 (scopeLevel 1) (storeKey x 0)
          q.2 && p.2 && !regionAhead p.1 me && !readWaits p.1 0 0 (scopeLevel 1) (storeKey x 0) &&
            !combineBad p.1 0 0 (scopeLevel 1) (storeKey x 0) && (putJoin p.1 (cxOf t0) (glb t0).cur 0 me (storeKey x 0) 1).2)
      | _ => false) = true ∧ fld ((glb t0).bVal fJ) 0 57 % 32 = 0 ∧ fld ((reg 3 4 t0).bVal fJ) 0 57 % 32 ≠ 0 ∧
    fld ((glb t0).bVal fJ) 61 3 < 6 := by decide
theorem wit_TaskInstructions : allRun .lane0 t0 [.texit fN] = true ∧ t0.cur.kind ≠ .errand ∧ allRun .lane0 (handling t0) [.texit fN] = true ∧
    t0.part.journal = [] ∧ t0.cur.loads = [] ∧ (holding [pendingLoad] t0).cur.loads ≠ [] ∧ (journaled (entryWith 2) t0).part.journal = [(0, entryWith 2)] ∧
    allRun .lane0 (sup t0) [.teamk (fSt (.desc .none)), .repart (fI 1), .repart (fI 3)] = true ∧ 0 ∈ teamkCores (sup t0).pkg 0 0 false ∧
    0 ∉ teamkCores (sup t0).pkg 0 1 false ∧ quiescent (sup t0).part = true ∧ quiescent (sup (busySlot 1 t0)).part = false ∧
    (0 < min (regCount 0) (regCount 1)) := by decide

def qrec (v : Nat) : QRec := ⟨BitVec.ofNat 256 v, 0⟩
def queued3 (prio : Nat) (r : QRec) (s : State) : State := onPkg (fun p => setQueue p 0 prio [r]) s
def asks (n : Nat) (s : State) : State := onCore (fun c => { c with ask := some n }) s
theorem wit_TaskEvents : acting t0 0 ∧ (coreOf t0.pkg 0).ask = none ∧ (coreOf t0.pkg 0).sel = none ∧
    nextAsk (queued3 3 (qrec 0) (asks 1 (teamed 3 t0))).pkg 0 = some 0 ∧ askServed (queued3 3 (qrec 0) (asks 1 (teamed 3 t0))).pkg 0 = some (1, 3, 0, qrec 0) ∧
    nextAsk t0.pkg 0 ≠ some 0 ∧ bestRecord (queued3 3 (qrec 0) t0).pkg 0 0 = some (3, 0, qrec 0) ∧
    (queueOf (queued3 3 (qrec 32) t0).pkg 0 3)[0]? = some (qrec 32) ∧ bit (qrec 32).task 5 = true ∧ bit (qrec 0).task 5 = false ∧
    63999 < (qrec 32).since + 64000 ∧ (qrec 32).since + 64000 ≤ 64000 ∧ queueFull t0.pkg 0 4 = false ∧
    queueFull (setQueue t0.pkg 0 4 (List.replicate 128 default)) 0 4 = true ∧ teamDone t0.pkg 0 = false ∧ placedTeam.started = true ∧
    teamDone (onPart (fun k => { k with slots := [] }) t0).pkg 0 = true := by
  refine ⟨⟨rfl, rfl⟩, ?_⟩; decide

def fW (b : BOpd) : Fields := fieldsOf 10 .none (.s 2) b
theorem wit_WaitInstructions : allRun .lane0 t0 [.wait (fW bS3), .wait (fW (.imm 1)), .sleep (fI 0), .sleep (fI 5), .wake (fSt (.desc .none))] = true ∧
    fld ((reg 2 4 t0).aVal (fW bS3)) 0 17 % 8 ≠ 0 ∧ fld (t0.aVal (fW bS3)) 0 17 % 8 = 0 ∧ t0.part.badWords = [] ∧
    scrClear t0.part [(0, 8)] [] = true ∧ cmpCnd 5 (asInt 64 (scrNat t0.part 0 8)) (t0.bVal (fW bS3)).toInt = true ∧
    cmpCnd 5 (asInt 64 (scrNat t0.part 0 8)) (t0.bVal (fW (.imm 1))).toInt = false ∧ t0.cur.token = false ∧
    (onSlot (fun x => { x with token := true }) t0).cur.token = true ∧ fld (t0.bVal (fI 0)) 0 48 = 0 ∧ fld (t0.bVal (fI 5)) 0 48 ≠ 0 ∧
    jFree t0.part = some 0 ∧ jFree (fullJ t0).part = none ∧ allRun .lane0 (fullJ t0) [.wake (fSt (.desc .none))] = true ∧
    nextMsg (sent (.wake 0 5) t0).pkg 1 0 = some (msgOf (.wake 0 5)) ∧ asidOf t0.part = (msgOf (.wake 0 5)).asid := by decide

def waiting (w : Wait) (s : State) : State := onSlot (fun x => { x with hold := .wait w }) s
def movedCtx (r : Option Nat) : Moved := ⟨{ slotReset with ctx := 9, hold := .wait ⟨.phase 0 0, 5, false, 0⟩ }, [], 1, r, 0, 0, 0⟩
def moved (r : Option Nat) (s : State) : State := onPart (fun k => { k with moved := [movedCtx r] }) s
theorem wit_WaitEvents : openWaitOf (waiting ⟨.sleep 5, 9, false, 0⟩ t0) 0 0 ⟨.sleep 5, 9, false, 0⟩ ∧ acting t0 0 ∧
    holdsAtDeadline t0.part ⟨.quiet, 0, false, 0⟩ = true ∧ holdsAtDeadline (obj 0 0 2 t0).part ⟨.phase 0 0, 0, false, 0⟩ = false ∧
    (moved none t0).part.moved[0]? = some (movedCtx none) ∧ (moved (some 0) t0).part.moved[0]? = some (movedCtx (some 0)) ∧
    reloadSlot (coreOf (moved (some 0) (teamed 3 t0)).pkg 0) (movedCtx (some 0)) = some 1 ∧
    reloadSlot (coreOf (moved (some 0) (busySlot 1 (teamed 2 t0))).pkg 0) (movedCtx (some 0)) = none ∧
    longestLoaded (moved (some 0) (busySlot 1 (teamed 2 t0))).part = some 1 ∧ roomHolds t0.pkg (.phase 0 0) = false ∧
    waitHolds t0.part (.phase 0 0) = false ∧ waitHolds t0.part (.phase 0 1) = true ∧
    (movedCtx none).gen = mapGet 0 t0.pkg.keyGen (movedCtx none).asid ∧
    (movedCtx none).gen ≠ mapGet 0 (onPkg (fun p => { p with keyGen := [(0, 1)] }) t0).pkg.keyGen (movedCtx none).asid := by
  refine ⟨⟨rfl, rfl⟩, ⟨rfl, rfl⟩, ?_⟩; decide

/-- Moved waits: a monitor released since the last step, and 500 ticks since the last evaluation; a wait that has ended for 2,000. -/
theorem wit_MovedWaits : coreActs (moved none t0).pkg 0 = true ∧ evalBy (partOf (moved none t0).pkg 0) = some 500 ∧
    (0, 9, 9) ∈ (partOf (onPart (fun k => { k with monitors := [(0, 9, 9)] }) (moved none t0)).pkg 0).monitors ∧
    (0, 9, 9) ∉ monitorList (partOf (onPart (fun k => { k with monitors := [(0, 9, 9)] }) (moved none t0)).pkg 0) ∧
    movedCtx (some 0) ∈ (partOf (moved (some 0) t0).pkg 0).moved ∧ 0 + 2000 ≤ ({ t0 with time := 2000 } : State).time := by decide

/- Traps, special registers, supervisor instructions and recovery. -/
def hold0 (s : State) : State := onCore (fun c => { c with dbgHold := true }) s
def handler0 (s : State) : State := onSlot (fun x => { x with handler := true, tpc := 12 }) s
theorem wit_TrapInstructions : allRun .lane0 t0 [.trap (fI 5), .bkpt (fI 5)] = true ∧ allRun .lane0 (hold0 t0) [.bkpt (fI 5)] = true ∧
    (coreOf (hold0 t0).pkg 0).dbgHold = true ∧ (coreOf t0.pkg 0).dbgHold = false ∧ allRun .lane0 (sup t0) [.eret fN] = true ∧
    (sup t0).cur.handler = false ∧ allRun .lane0 (handler0 t0) [.eret fN] = true ∧ t0.cur.live = true ∧ t0.cur.hold = .none ∧
    hasRight t0.part t0.cur .free = true ∧ hasRight t0.part t0.cur .supervisor = false := by decide

def pendTrap : Trap := ⟨0x21, 0x31, true, 3, 0, 0, none⟩
def pending (s : State) : State := onPart (fun k => { k with pend := [pendTrap] }) s
theorem wit_TrapEntry : t0.cur.handler = false ∧ t0.cur.kind ≠ .errand ∧ vectorOk vectored.part.tvec (textSizeOf t0.pkg 0) = true ∧
    vectorOk t0.part.tvec (textSizeOf t0.pkg 0) = false ∧ (handler0 t0).cur.handler = true ∧ selects (coreOf (pending t0).pkg 0) = true ∧
    asyncReady (pending t0).part 0 = true ∧ firstPending (pending t0).part.pend = some pendTrap ∧ asyncReady t0.part 0 = false ∧
    (opened t0).cur.region = some open0 := by decide

def fR (n : BitVec 12) : Fields := fieldsOf 0 (.s 1) (.csr n) (.desc .none)
def fWr (n : BitVec 12) : Fields := fieldsOf 0 (.csr n) .none bS3
theorem wit_SpecialRegisters :
    allRun .lane0 (sup t0) ([0x000, 0x001, 0x002, 0x010, 0x011, 0x012, 0x013, 0x014, 0x015, 0x020, 0x023, 0x024, 0x027, 0x080, 0x081, 0x082,
      0x083, 0x084, 0x100, 0x101, 0x102, 0x103, 0x104, 0x107, 0x108, 0x109, 0x10A, 0x10B, 0x10C].map (fun n => .csrr (fR n))) = true ∧
    allRun .lane0 (sup t0) ([0x010, 0x011, 0x012, 0x013, 0x014, 0x080, 0x081, 0x082, 0x083, 0x084,
      0x100, 0x101, 0x102, 0x103, 0x104, 0x107, 0x108, 0x10C].map (fun n => .csrw (fWr n))) = true ∧
    ([0x010, 0x011, 0x012, 0x013, 0x014, 0x080, 0x081, 0x083, 0x100, 0x101, 0x102, 0x103, 0x104, 0x107, 0x108, 0x10C].all
      (fun n => !reservedSet n 0)) = true ∧ fld (BitVec.ofNat 64 (2 ^ 7)) 7 57 ≠ 0 ∧
    fld (0 : Word) 16 36 * 65536 + (16 * 20480 + fld (0 : Word) 0 16 * 64 * 32) ≤ 0x6000000000 ∧
    0x6000000000 < fld (BitVec.ofNat 64 (2 ^ 51)) 16 36 * 65536 + (16 * 20480 + fld (BitVec.ofNat 64 (2 ^ 51)) 0 16 * 64 * 32) ∧
    t0.part.smrgq = [] ∧ (∃ x ∈ (onPart (fun k => { k with smrgq := [default] }) t0).part.smrgq, x.ctx = t0.cur.ctx) ∧
    t0.cur.live = true ∧ t0.cur.hold = .none ∧ ([0x000, 0x001, 0x002, 0x015, 0x020, 0x021, 0x022, 0x023, 0x024, 0x025, 0x026, 0x027,
      0x109, 0x10A, 0x10B].all (fun n => rightHeld (sup t0) 0x163 (fWr n))) = true := by decide

def keyed (s : State) : State := onPkg (fun p => { p with keys := [(0, 1)] }) s
theorem wit_SupervisorInstructions : allRun .lane0 (sup t0) [.tlbinv (fSt bS3), .keyset (fSt bS3), .keykill (fSt (.desc .none))] = true ∧
    keyFull t0.pkg 0 = false ∧ keyFull (keyed t0).pkg 0 = true ∧ faultsOfTag (keyed t0).pkg 0 = [] ∧
    fld ((reg 3 63 t0).bVal fS) 0 17 % 64 ≠ 0 ∧ fld (t0.bVal fS) 0 17 % 64 = 0 ∧ scrClear t0.part [(0, 64)] [(0, 64)] = true ∧
    scrNat t0.part 0 32 = scrNat t0.part 32 32 ∧
    (let k := (onPart (fun k => scrWrite k 0 0 (leBytes 64 1)) t0).part; scrNat k 0 32 ≠ scrNat k 32 32) := by decide

def mf : MergeFault := { (default : MergeFault) with fid := 7 }
def faulted (m : MergeFault) (s : State) : State := onPkg (fun p => setInst p 0 0 { instReset with stall := some ⟨m, true⟩ })
  (onCore (fun c => { c with mfq := [m] }) s)
def fD : Fields := fieldsOf 0 (.v 1) .none (.desc .none)
theorem wit_FaultRecovery : allRun .lanes t0 [.mfault fD, .sjread { fD with a := .s 2 }] = true ∧
    allRun .lane0 t0 [.mres (fSt (.desc .none)), .mres { fSt (.desc .none) with md := 1 }, .mres { fSt (.desc (.v 3)) with md := 2 },
      .sjclr (fSt (.desc .none))] = true ∧
    faultByFid t0.pkg 7 = none ∧ faultByFid (faulted mf t0).pkg 7 = some mf ∧ mf.mc = false ∧ mayRead t0 0 ∧ ¬ mayRead t0 5 ∧
    namedEntry (journaled (entryWith 5) t0) (fSt (.desc .none)) (entryWith 5) ∧ bit ((reg 2 (BitVec.ofNat 64 256) t0).aVal (fSt (.desc .none))) 8 = true ∧
    bit (t0.aVal (fSt (.desc .none))) 8 = false ∧ mapFind t0.part.journal 0 = none := by
  refine ⟨by decide, by decide, by decide, by decide, by decide, .inr (by decide), ?_, rfl, by decide, by decide, by decide⟩
  rintro (h | h)
  · exact absurd h (by decide)
  · exact absurd h (by decide)

/- Memory events. -/
def key0 : Nat := runKey 0 513
def run1 (r : Rec) (s : State) : State := onPkg (fun p => setInst p 0 0 { instReset with run := [(key0, [r])] }) s
def frozenRec : Rec := { (default : Rec) with frozen := true }
def deferredRec : Rec := { (default : Rec) with deferred := true }
def rootEntry : BitVec 256 := 1
def tables (s : State) : State := onPkg (fun p => { p with
  dram := [⟨0, 1⟩, ⟨11, 2⟩, ⟨8192, 1⟩, ⟨8203, 4⟩, ⟨16384, 3⟩, ⟨16385, 0x80⟩, ⟨16386, 1⟩]
  clusters := [(0, { clusterReset with asids := [(0, rootEntry)] })] }) s
theorem wit_MemoryEvents : mayMerge (run1 default t0) 0 0 ∧
    (∃ r ∈ chainOf (instOf (run1 default t0).pkg 0 0) key0, r.deferred = false ∧ r.since + 8000 ≤ 8000) ∧
    (publishKeys 0 1 0 [] t0.pkg) = (t0.pkg, false) ∧ isOk (mergeFrozen (run1 frozenRec t0).pkg 0 0 0 key0) = true ∧
    (chainOf (instOf (run1 deferredRec t0).pkg 0 0) key0).any (·.deferred) = true ∧
    deferredAt t0.pkg 0 1 (outerPlace 0 0 0) 0 (some (childOf 0 0)) = false ∧ guardBand 0 true = 7 ∧
    isOk (walk (tables t0).pkg 0 0 0 0 false true) = true ∧ isErr (walk (tables t0).pkg 0 0 0 0 true true) = true ∧
    isErr (walk t0.pkg 0 0 0 0 false true) = true ∧ isOk (journalXlats (glb t0).pkg 0 0 0 0 true [⟨0, 1, 0⟩]) = true ∧
    isErr (journalXlats t0.pkg 0 0 0 0 true [⟨0, 1, 0⟩]) = true ∧ walkWaits t0.pkg = false ∧
    walkWaits (onPkg (fun p => { p with retained := [3 * 4096] }) t0).pkg = true ∧ t0.part.team.isSome = true := by
  refine ⟨⟨by decide, by decide, by decide, by decide, fun _ => by decide⟩, ?_⟩; decide

/- Images, launches, gang switches. -/
/-- A header of R39: MAGIC, version 1, P16 with one slot, text of 24 bytes at 64, no window bound in the zeros at 128. -/
def header0 : List Byte := leBytes 64 (0x5A584B31 + 2 ^ 32 + 2 ^ 50 + 64 * 2 ^ 64 + 24 * 2 ^ 96 + 128 * 2 ^ 448)
def img : Image := placedImage 96 0
def launchRec : QRec := ⟨BitVec.ofNat 256 16, 0⟩
def toLaunch : State := onPkg (fun p => setQueue { p with images := [(imageKey 0 0, img)] } 0 0 [launchRec]) (tables State.reset)
theorem wit_ImageAndLaunch : isOk (loadImageOf t0.pkg 0 0 0 header0 []) = true ∧ isErr (loadImageOf t0.pkg 0 0 0 (header0.drop 1) []) = true ∧
    fld (headerOf (header0.drop 1)) 0 32 ≠ 0x5A584B31 ∧ launchable (coreOf t0.pkg 0) = false ∧ launchRecord t0.pkg 0 = none ∧
    launchable (coreOf toLaunch.pkg 0) = true ∧ launchRecord toLaunch.pkg 0 = some (0, 0, launchRec) ∧
    mapFind toLaunch.pkg.images (imageKey 0 0) = some img ∧ asidOk (asidEntry toLaunch.pkg 0 0 0) = true ∧
    img.caps &&& ~~~ (capsOf toLaunch.pkg 0 0 0) = 0 ∧ isOk (readDesc toLaunch.pkg 0 0 0 true 0) = true ∧
    isOk (readLaunch toLaunch.pkg 0 0 0 true 0 img 0) = true ∧
    isErr (readLaunch toLaunch.pkg 0 0 0 true 0 { img with params := 1 } 0) = true := by decide

def gsw (v : Nat) (s : State) : State := onCore (fun c => { c with gswctl := BitVec.ofNat 64 v }) s
def switching0 (s : State) : State := onCore (fun c => { c with switching := true }) s
def saved0 : Saved := ⟨0, partReset, 0, 0, 0⟩
theorem wit_GangSwitches : switchDue (gsw (2 ^ 63) t0) 0 ∧ gswArm (coreOf t0.pkg 0) = false ∧
    (coreOf (switching0 t0).pkg 0).switching = true ∧ (coreOf t0.pkg 0).fenced = none ∧
    (pushCopies ((mapKeys (partOf (switching0 t0).pkg 0).slots).foldl (fun q n => finishPosting q 0 0 n) (switching0 t0).pkg) 0 0).2 = true ∧
    switchQuiet (switching0 t0).pkg 0 = true ∧ resumeDue (gsw (2 ^ 61) (noTeam t0)) 0 (updCore (gsw (2 ^ 61) (noTeam t0)).pkg 0
      (fun x => { x with gswctl := setFld x.gswctl 61 1 0 })) ∧ (partOf t0.pkg 0).team ≠ none ∧
    mapFind (onPkg (fun p => { p with saves := [(0, saved0)] }) t0).pkg.saves 0 = some saved0 ∧ mapGet 0 t0.pkg.keyGen 0 = 0 ∧
    mapGet 0 (onPkg (fun p => { p with keyGen := [(0, 1)] }) t0).pkg.keyGen 0 ≠ 0 := by
  refine ⟨⟨by decide, by decide, by decide, by decide⟩, by decide, by decide, by decide, by decide, by decide,
    ⟨by decide, by decide, by decide, ⟨by decide, by decide⟩, rfl⟩, by decide, by decide, by decide, by decide⟩

/- Module and ports. -/
def darned0 (s : State) : State := onCore (fun c => { c with fenced := some 0, darned := true }) s
theorem wit_FencingAndSpares : (coreOf t0.pkg 0).fenced = none ∧ (coreOf (fence0 t0).pkg 0).fenced.isSome = true ∧
    (coreOf (fence0 t0).pkg 0).darned = false ∧ (coreOf (darned0 t0).pkg 0).darned = true ∧ selects (coreOf t0.pkg 0) = true ∧
    (let s : State := { t0 with time := 10000000 }
     (coreOf s.pkg 0).alive + s.pkg.regs.fenceint ≤ s.time ∧ 0 + s.pkg.regs.fenceint ≤ s.time ∧
     (coreOf (onCore (fun c => { c with due := some 0 }) s).pkg 0).due = some 0) ∧
    (instOf t0.pkg 0 0).run = [] ∧ (coreOf t0.pkg 0).mfq = [] ∧ 0 < (clusterOf t0.pkg 0).spares ∧
    (darnKeys 0 0 [0] 0 [key0] ((run1 default (fence0 t0)).pkg, 0, [])).2 = (0, [key0]) ∧ mapKeys (instOf (run1 default t0).pkg 0 0).run = [key0] := by
  decide

theorem wit_ModuleEvents : t0.site.slotB = false ∧ t0.site.mhz[3]? = some 2000 ∧ t0.site.throttled[3]? = some none ∧
    (∀ x ∈ t0.site.changing.set 0 none, x = none) ∧ (∃ x ∈ (t0.site.changing.set 1 (some 5)).set 0 none, x ≠ none) ∧
    3 * 4096 ∉ t0.pkg.retained ∧ 4096 ≤ 3 * 4096 ∧ (instOf t0.pkg (3 * 4096 / 4096) (3 * 4096 % 4096)).merging = false ∧
    3 * 4096 ∈ (onPkg (fun p => { p with retained := [3 * 4096] }) t0).pkg.retained ∧ (800 ≤ 2200 ∧ 2200 % 25 = 0) ∧ (2200 < 2225) ∧ (800 - 25 < 800) := by decide

def win (v : Nat) (s : State) : State := onPkg (fun p => { p with regs := { p.regs with winctl := BitVec.ofNat 64 v } }) s
def asids0 (s : State) : State := onPkg (fun p => { p with clusters := [(0, { clusterReset with asids := [(0, rootEntry)] })] }) s
theorem wit_PortAccesses : bar2Reaches (win (2 ^ 63) t0) (2 ^ 36 - 8) 8 ∧ bit t0.pkg.regs.winctl 63 = false ∧ t0.pkg.portWrites = [] ∧
    (let keys := (paGranules (winAddr t0.pkg 0) 8).map (fun g => runKey g (winTag t0.pkg))
     let bad := (onPkg (fun p => { p with badGran := [0] }) t0).pkg
     keys.all (fun k => !readWaits t0.pkg 0 0 3 k && !combineBad t0.pkg 0 0 3 k) = true ∧
     keys.any (combineBad bad 0 0 3) = true ∧ keys.all (fun k => !readWaits bad 0 0 3 k) = true ∧ keyKilled t0.pkg tagNone = false ∧
     combineBad bad 0 0 3 (runKey 0 tagNone) = true ∧ combineBad t0.pkg 0 0 3 (runKey 0 tagNone) = false ∧
     readWaits t0.pkg 0 0 3 (runKey 0 tagNone) = false) ∧ behindRegion t0.pkg 0 3 ((paGranules (winAddr t0.pkg 0) 8).map (fun g => runKey g (winTag t0.pkg))) = false ∧
    lqWhy (asids0 t0).pkg 0 0 0 launchRec.task true = none ∧ lqWhy t0.pkg 0 0 0 launchRec.task false = some 6 ∧
    lqWhy t0.pkg 0 0 0 0 true = some 1 ∧ lqWhy t0.pkg 0 0 1 launchRec.task true = some 3 ∧ lqWhy t0.pkg 0 0 0 launchRec.task true = some 4 ∧
    t0.pkg.regs.cpsem = 0 ∧ 2 ∉ t0.pkg.regs.due ∧ vecMasked t0.pkg 2 = true ∧
    vecMasked (onPkg (fun p => { p with regs := { p.regs with msix := [(2, 0)] } }) t0).pkg 2 = false ∧
    (insertAt t0.pkg 0 3 (homeOf 0) key0 default).isOk = true ∧ t0.pkg.portsDown = [] ∧
    (dedupNat ((List.range 15) ++ [15])).length = 16 ∧ (dedupNat ([] ++ [0])).length ≠ 16 := by
  refine ⟨⟨by decide, by decide, by decide⟩, ?_⟩; decide

theorem wit_PortRegisters : t0.cur.hold ≠ .stopped ∧ (onSlot (fun x => { x with hold := .stopped }) t0).cur.hold = .stopped ∧
    (queueOf t0.pkg 0 0).length ≤ 128 ∧ 128 < (queueOf (setQueue t0.pkg 0 0 (List.replicate 129 default)) 0 0).length ∧
    fld (0 : Word) 14 38 * 2 ^ 14 + 2 ^ 14 ≤ 0x6000000000 ∧
    0x6000000000 < fld (BitVec.ofNat 64 0x6000000000) 14 38 * 2 ^ 14 + 2 ^ 14 ∧ fld (BitVec.ofNat 64 (3 * 2 ^ 61)) 61 2 = 3 ∧
    fld (0 : Word) 61 2 ≠ 3 ∧ fld (BitVec.ofNat 64 (1024 * 2 ^ 10 + 1023)) 10 11 = 1024 := by decide

/- The issue, the frames and the step. -/
theorem wit_IssueRules : State.reset.cur.live = false ∧ t0.cur.live = true ∧ t0.cur.hold = .none ∧
    rightHeld t0 0x148 (fI 1) = false ∧ rightHeld t0 0x020 fS = true ∧ stateOk t0.part 0 0 0x020 fS = true ∧
    stateOk t0.part 0 0 0x060 (fieldsOf 0 (.v 32) (.v 2) (.desc (.v 3))) = false ∧
    scoreboardFree (holding [{ pendingLoad with dest := .sreg 2 }] t0).part 0 0x020 fS = false ∧
    (let s := onSlot (fun x => { x with rings := [(0, .att 1 9)] }) (moved none t0)
     let g := fieldsOf 0 (.v 1) (.qc 0 0 0) (.desc (.v 3))
     rightHeld s 0x060 g = true ∧ stateOk s.part 0 0 0x060 g = true ∧ scoreboardFree s.part 0 0x060 g = true ∧
     operandsReady s.pkg 0 0 g = false ∧ ringsAway s.part 0 g = true) ∧
    readyWord t0 0x020 { fS with gp := 0 } = true ∧ guardMask t0.cur { fS with gp := 0 } = 0 ∧
    readyWord (onSlot (fun x => { x with pc := 12 }) t0) 0x001 fN = true ∧ textSizeOf t0.pkg 0 ≤ 12 + 12 := by decide

theorem wit_RegisterFrames : runs (.sadd fS) .lane0 t0 = true ∧ runs (.vadd (fV 0)) .lanes t0 = true ∧
    runs (.pand (fieldsOf 0 (.p 1) (.p 2) (.desc (.p 3)))) .lanes t0 = true ∧ t0.cur.fpmode = 0 ∧ mapSorted 0 t0.part.vregs = true ∧
    (∃ t : State, exec (.sadd fS) t0 = .next t) ∧ (∃ t : State, exec (.vadd (fV 0)) t0 = .next t) ∧
    (∃ t : State, exec (.pand (fieldsOf 0 (.p 1) (.p 2) (.desc (.p 3)))) t0 = .next t) := by
  refine ⟨by decide, by decide, by decide, by decide, by decide, ⟨_, rfl⟩, ⟨_, rfl⟩, ⟨_, rfl⟩⟩

theorem wit_StepRunsDecodedInstruction :
    (let s := State.reset.withFetchWord 96 (encode (.sadd fS)).toNat
     s.site.powered = true ∧ s.site.booted = true ∧ s.inputs = [⟨0, 0, false, 0, 0, [], [], .issue 0⟩] ∧ pickSlot s 0 = some 0 ∧
     asyncReady s.part 0 = false ∧ pickSlot State.reset 0 = none ∧ asyncReady (pending t0).part 0 = true ∧
     (Instr.taskAsk 0).isWord = false) := by decide
theorem wit_StepFetches : (let s := State.reset.withFetchWord 96 (encode (.sadd fS)).toNat
    decode (textWord s.pkg 0 0) = .ok (.sadd fS) ∧ decode (textWord t0.pkg 0 0) = .error .illegal) := ⟨rfl, rfl⟩

theorem wit_DecodeOfEncode : (Instr.sadd fS).isWord = true ∧ (Instr.sadd fS).wf = true ∧
    (Instr.vadd (fV 14)).wf = true ∧ (Instr.csrw (fWr 0x10C)).wf = true := by decide
theorem wit_DecodeBack : ∃ i : Instr, decodeWord (word 0x40001C00 0x10001000 0x1001) = .ok i := ⟨_, rfl⟩

theorem wit_LinksStayLegal : linksLegal State.reset ∧ ∃ t : State, step t0 = .next t := by
  refine ⟨⟨rfl, ?_⟩, ⟨_, rfl⟩⟩
  unfold linkLegal; decide

/- Witnesses of the clauses on the last word of the text, on what stands and goes on, and on regions. -/
def at12 (s : State) : State := onSlot (fun x => { x with pc := 12 }) s
def allGo (s : State) (l : List Instr) : Bool := l.all (fun i => going i .lane0 s && i.wf)
theorem wit_LastWord : textSizeOf t0.pkg 0 = 24 ∧ allGo (at12 t0) [.bra (fI (-12)), .brx (fieldsOf 0 .none (.s 2) (.desc .none)),
      .call (fieldsOf 0 .none .none bS3), .ret fN, .loop (fieldsOf 0 .none (.s 2) (.imm 12)), .lend fN, .trap (fI 5), .bkpt (fI 5),
      .texit fN] = true ∧ allGo (at12 (handler0 (sup t0))) [.eret fN, .texit fN] = true ∧
    allGo (at12 (hold0 t0)) [.bkpt (fI 5)] = true ∧ allGo (at12 (handling t0)) [.amret fN, .amret (fI 3), .texit fN] = true ∧
    (at12 t0).cur.handler = false ∧ t0.part.accq = [] ∧ relTarget (at12 t0) (fI (-12)) = 0 := by decide
/-- An accumulator store of the handler is still to be performed. -/
theorem wit_AmretWaits : (let s := onPart (fun k => { k with accq := goneOn.accq.map (fun x => { x with slot := 0 }) }) (handling t0)
    runs (.amret fN) .lane0 s = true ∧ s.cur.kind = .errand ∧ s.part.accq.any (fun x => x.slot == s.slot && x.ctx == s.cur.ctx) = true) := by
  decide

/-- A release store in its orders: its release done, or waiting for a load; in its turn behind a region of its line. -/
def farLoad : OutLoad := { pendingLoad with entry := ent 0 0 0 0x400 8 4 }
def regionAt0 (sc : Nat) (s : State) : State := onPart (fun k => updSlot k 1 (fun x => { x with
  live := true
  hold := .region 0
  region := some ⟨0, 0, sc, page, []⟩ })) s
theorem wit_StoreOrders : allRun .lane0 (glb t0) [.st (fT 0x130), .st (fT 0x1B0), .st (fT 0x80), .st (fT 0x100)] = true ∧
    ordOf (fT 0x130) = 2 ∧ ordOf (fT 0x1B0) = 3 ∧ ordOf (fT 0x80) = 1 ∧ scopeLevel (scopeOf (fT 0x80)) = 0 ∧
    scopeLevel (scopeOf (fT 0x130)) ≠ 0 ∧ (releaseAt (glb t0).pkg (cxOf t0) 3 false).2 = true ∧
    (let s := holding [farLoad] (glb t0)
     (releaseAt s.pkg (cxOf s) 3 false).2 = false ∧ runs (.st (fT 0x130)) .lane0 s = true ∧ keysClear s 0 [runKey 2048 513] = true) ∧
    behindRegion (regionAt0 3 (glb t0)).pkg 0 (scopeLevel 3) [floorKey page 0] = true ∧
    behindRegion (regionAt0 0 (glb t0)).pkg 0 0 [floorKey page 0] = true ∧
    writesOf (glb t0) (fT 0x130) false (fun st => okAnd (translateAcc (glb t0).pkg (cxOf t0) true st.ty (st.pieces.map pieceAddr)) (fun xs =>
      let recs := storeRecs (releaseAt (glb t0).pkg (cxOf t0) 3 false).1 (cxOf t0) st xs
      decide (recs ≠ []) && (pushKeys (releaseAt (glb t0).pkg (cxOf t0) 3 false).1 0 0 3 (recs.map (·.1))).2)) = true ∧
    (postRecs t0.pkg 0 0 (postLimit t0.cur) [(runKey 0 513, default)]).2 = [] := by decide

/-- What a FENCE.REL orders comes while its release is not done, and when it is. -/
def passed (s : State) : State := onSlot (fun x => { x with rels := [3] }) s
theorem wit_PassedRelease : runs (.fence { fN with md := 0x130 }) .lane0 (later (holding [farLoad] t0)) = true ∧
    (later (holding [farLoad] t0)).turn.later = true ∧ ordOf { fN with md := 0x130 } = 2 ∧ ordOf { fN with md := 0x1B0 } = 3 ∧
    (let s := passed (glb t0)
     s.cur.live = true ∧ s.cur.hold = .none ∧ s.cur.region = none ∧ s.cur.rels = [3] ∧ rightHeld s 0x0E2 (fT 0) = true ∧
     stateOk s.part 0 0 0x0E2 (fT 0) = true ∧ scoreboardFree s.part 0 0x0E2 (fT 0) = true ∧ operandsReady s.pkg 0 0 (fT 0) = true ∧
     guardLane0 s.cur (fT 0) = true ∧ (releaseAt s.pkg (cxOf s) 3 true).2 = true ∧
     (releaseAt (holding [farLoad] s).pkg (cxOf s) 3 true).2 = false) := by decide

/-- Words in a region: one that a body may hold, one that it may not, an access with known coordinates and with such as the body writes. -/
def openOps (ops : List RegOp) (s : State) : State := onSlot (fun x => { x with region := some { open0 with ops := ops } }) (glb s)
def writes3 : RegOp := ⟨.sadd (fieldsOf 0 (.s 3) (.s 2) (.desc (.s 2))), 12, none, false⟩
def loadOp : RegOp := ⟨.ld (fL 0), 12, some (ent 0 0 0 0 8 4), false⟩
theorem wit_InRegion : inRegion (opened t0) (.sadd fS) 0x020 fS open0 ∧ inRegion (opened t0) (.nop fN) 0x001 fN open0 ∧
    inRegion (opened t0) (.vadd (fV 0)) 0x060 (fV 0) open0 ∧ inRegion (opened t0) (.ld (fL 0x100)) 0x0E0 (fL 0x100) open0 ∧
    inRegion (openOps (List.replicate 16 loadOp) t0) (.sadd fS) 0x020 fS { open0 with ops := List.replicate 16 loadOp } ∧
    inRegion (openOps (List.replicate 8 loadOp) t0) (.ld (fL 0)) 0x0E0 (fL 0) { open0 with ops := List.replicate 8 loadOp } ∧
    inRegion (opened t0) (.ld (notP0 (fL 0))) 0x0E0 (notP0 (fL 0)) open0 := by
  refine ⟨?_, ?_, ?_, ?_, ?_, ?_, ?_⟩ <;> (unfold inRegion; decide)
theorem wit_InRegionBounds : bodyWord 0x020 fS ∧ bodyWord 0x037 fS ∧ bodyWord 0x0E0 (fL 0) ∧ ¬ bodyWord 0x0E0 (fL 0x100) ∧
    ¬ bodyWord 0x060 (fV 0) ∧ accessesOf { open0 with ops := List.replicate 8 loadOp } = 8 ∧ accessesOf open0 < 8 ∧
    guardLane0 (opened t0).cur (notP0 (fL 0)) = false ∧ windowOk t0.pkg 0 (.win 1 5) = false ∧ windowOk t0.pkg 0 fS.b = true := by
  unfold bodyWord; decide
theorem wit_BodyAccess : bodyAccess (opened t0) (.ld (fL 0)) 0x0E0 (fL 0) open0 ∧ bodyAccess (opened t0) (.st (fT 0)) 0x0E2 (fT 0) open0 ∧
    coordsKnown (opened t0) 0x0E0 (fL 0) open0 ∧ coordsKnown (opened t0) 0x0E2 (fT 0) open0 ∧
    bodyAccess (openOps [writes3] t0) (.ld (fL 0)) 0x0E0 (fL 0) { open0 with ops := [writes3] } ∧
    writtenBefore [writes3] (bDesc (fL 0).b) = true := by
  refine ⟨?_, ?_, ?_, ?_, ?_, by decide⟩ <;> (first | (unfold bodyAccess inRegion; decide) | (unfold coordsKnown; decide))
theorem wit_BodyChecks : (let s := opened t0
    isOk (bodyEntry s 0x0E0 (fL 0)) = true ∧ isErr (bodyEntry (lay 0 (ent 1 0 0 0 8 4) s) 0x0E0 (fL 0)) = true ∧
    isOk (regionElement (ent 0 0 0 0 8 4) 7 0 0) = true ∧ isErr (regionElement (ent 0 0 0 0 8 4) 8 0 0) = true ∧
    isOk (bodyOper s 0x0E2 (fT 0) open0 0 (ent 0 0 0 0 8 4)) = true ∧
    isErr (bodyOper s 0x0E2 (fT 0) { open0 with xl := { page with lease := 3 } } 0 (ent 0 0 0 0 8 4)) = true ∧
    isErr (bodyOper s 0x0E2 (fT 2) open0 0 (ent 0 11 0 0 8 1)) = true ∧
    layType (ent 0 0 0 0 8 4) ≠ tyL8) := by decide

/-- Body instructions as they run at the instance. -/
def runs0 : RunState := ⟨(glb t0).cur, [], false⟩
def bodyOp (i : Instr) : RegOp := ⟨i, 12, some (ent 0 0 0 0 8 4), false⟩
theorem wit_BodyRuns : bodyRuns (glb t0).pkg (cxOf t0) runs0 (bodyOp (.nop fN)) 0x001 fN ∧
    bodyRuns (glb t0).pkg (cxOf t0) runs0 (bodyOp (.sadd fS)) 0x020 fS ∧
    bodyRuns (glb t0).pkg (cxOf t0) runs0 (bodyOp (.scmp (fieldsOf 10 (.p 1) (.s 2) bS3))) 0x037 (fieldsOf 10 (.p 1) (.s 2) bS3) ∧
    bodyRuns (glb t0).pkg (cxOf t0) runs0 (bodyOp (.ld (fL 0))) 0x0E0 (fL 0) ∧
    bodyRuns (glb t0).pkg (cxOf t0) runs0 (bodyOp (.st (fT 0))) 0x0E2 (fT 0) ∧ lineInPage open0 := by
  refine ⟨?_, ?_, ?_, ?_, ?_, ?_⟩ <;> first | (unfold bodyRuns; decide) | (unfold lineInPage; decide)
theorem wit_BodyLoads : (scalarVal (bodyOp (.sadd fS)).i).isSome = true ∧
    isOk (regionEntry (cxOf t0) 0 0 false (some (ent 0 0 0 0 8 4))) = true ∧ isOk (regionEntry (cxOf t0) 0 0 true (some (ent 0 0 0 0 8 4))) = true ∧
    isOk (regionElement (ent 0 0 0 0 8 4) 0 0 0) = true ∧ plainType (ent 0 0 0 0 8 4) ∧
    regionBad (glb t0).pkg 0 0 (scopeLevel 3) page [] 0 = false ∧
    isOk (regionOper page 0 0 0 true 0 (ent 0 0 0 0 8 4)) = true ∧ guardLane0 runs0.sl (notP0 fS) = false ∧
    runs (.sadd fS) .lane0 t0 = true ∧
    (match performRegion (glb t0).pkg (cxOf t0) { (glb t0).cur with hold := .region 0 } { open0 with ops := [⟨.ld (fL 0), 12, none, false⟩] } with
      | .traps _ => true
      | _ => false) = true := by
  unfold plainType; decide

/-- A load and a store of sixteen words, spread over steps; the second word is next. -/
def wordsHold (m : SMap Byte) (s : State) : State := onSlot (fun x => { x with
  hold := .words 1 [33, 34] m
  cap := some (ent 1 0 0 0x100 32 4, []) }) (lay 0 (ent 1 0 0 0x100 32 4) s)
theorem wit_WordsGoOn : goesOn (.ldsv (fLV 0)) .lanes (wordsHold [(256, 7)] t0) ∧ goesOn (.stsv (fTV 0)) .lanes (wordsHold [(256, 7), (264, 1)] t0) ∧
    goesOn (.lds (fL 0)) .lane0 (wordsHold [(256, 7)] t0) ∧ goesOn (.sts (fT 0)) .lane0 (wordsHold [(256, 7), (264, 1)] t0) ∧
    (later (wordsHold [] t0)).turn.later = true := by
  refine ⟨⟨_, _, rfl, ?_⟩, ⟨_, _, rfl, ?_⟩, ⟨_, _, rfl, ?_⟩, ⟨_, _, rfl, ?_⟩, rfl⟩ <;> decide
theorem wit_WordsStart : (let s := later (lay 0 (ent 1 0 0 0x100 32 4) t0)
    okAnd (localEls s.part (cxOf s) 0 0 true false allTrue) (fun r =>
      (spansBad s.part (elSpans r.1 true r.2)).isNone && scrClear s.part (elSpans r.1 true r.2) [] &&
        decide (1 < (spanWords (elSpans r.1 true r.2)).length) && !blockBad r.1 r.2 (wordsNat s.part [])) = true ∧
    okAnd (localEls s.part (cxOf s) 0 0 true true allTrue) (fun r => scrClear s.part [] (elSpans r.1 true r.2) &&
      decide (1 < (wordsOf (storeBytes s (fTV 0) true r.1 r.2)).length)) = true ∧ atOnce t0 5 ∧ atOnce (later t0) 1 ∧
    runs (.ldsv (fLV 0)) .lanes s = true ∧ runs (.stsv (fTV 0)) .lanes s = true) := by
  unfold atOnce; decide

/- Witnesses of the clauses on messages, copies, lists, tasks, memory, ports and steps. -/
/-- Work for the errand slot that is done word by word: a load and a store across two words. -/
def spread (b : MsgBody) (pos : Nat) : Errand := ⟨⟨1, 0, 0, 9⟩, 0, b, pos, []⟩
def scrE (l : List Errand) (s : State) : State := onPart (fun k => { k with errands := l }) s
theorem wit_BuiltinWords : (let a := spread (.load 0x104 8 none 5 0) 0
    let b := spread (.store 0x104 8 7 9) 0
    (spanWords [(0x104, 0x10C)]).length = 2 ∧ (wordsOf (elementBytes 0x104 8 7)).length = 2 ∧ (partOf t0.pkg 0).badWords = [] ∧
    (builtinPart t0.pkg 0 0 a).isSome = true ∧ (builtinPart t0.pkg 0 0 b).isSome = true ∧
    (partOf (scrE [a, b] t0).pkg 0).errands = [a, b] ∧ isUserWork a = false ∧
    (slotOf (partOf (scrE [a, b] t0).pkg 0) (errandSlot (partOf t0.pkg 0).mode)).live = false ∧
    repartWaits (partOf (scrE [a, b] t0).pkg 0) = false ∧ (coreOf (scrE [a, b] t0).pkg 0).switching = false ∧
    (builtinPart (scrE [a, b] t0).pkg 0 0 a).isSome = true) := by decide
theorem wit_PacketPart : (let b := MsgBody.reduce [(0x104, 7), (0x10C, 9)] 0 1 none 5
    let r := receive { (sent b t0).pkg with net := [] } 0 0 0 1 b
    nextMsg (sent b t0).pkg 1 0 = some (msgOf b) ∧ behindErrand r 0 ⟨0, 1, 0⟩ = false ∧
    (builtinPart r 0 0 (errandOf r 5 0 (msgOf b))).isSome = true) := by decide
theorem wit_BehindErrand : ¬ nothingBefore (scrE [spread mLoad 0] (sent (.wake 0 5) t0)) 0 (msgOf (.wake 0 5)) ∧
    ¬ nothingBefore (scrE [spread mLoad 0] (sent (.addBytes 0 4 false 2 1) t0)) 0 (msgOf (.addBytes 0 4 false 2 1)) ∧
    nothingBefore (sent (.wake 0 5) t0) 0 (msgOf (.wake 0 5)) ∧ nothingBefore (sent (.addBytes 0 4 false 2 1) t0) 0 (msgOf (.addBytes 0 4 false 2 1)) ∧
    nothingBefore (sent (.countDone 0 4 false false) t0) 0 (msgOf (.countDone 0 4 false false)) := by
  unfold nothingBefore; decide

/-- A copy at its issue: counted at its own core or another, from another package; no element; then one element of each kind. -/
def cpArgs (w : Nat) : CpyArgs := ⟨ent 1 0 0 0x200 8 4, ent 1 0 0 0x100 8 4, 0, 0, BitVec.ofNat 64 w, 0, 0⟩
theorem wit_CopyIssues : cpyOf (cp t0) fC (cpArgs (2 * 2 ^ 32)) ∧ inChannel (cp t0).part (fld (cpArgs (2 * 2 ^ 32)).w 32 2) < 16 ∧
    (cpyChecks (cxOf t0) (ent 1 0 0 0x200 8 4) (ent 1 0 0 0x100 8 4) 1 0 0 0 0 true 0x400 0).isNone = true ∧
    scrClear t0.part [(0x400, 0x410)] [(0x400, 0x410)] = true ∧ t0.part.badWords = [] ∧ copyReachable (cp t0) (cpArgs 0) = true ∧
    cpyEls (ent 1 0 0 0x200 0 4) (ent 1 0 0 0x100 8 4) 0 0 0 = [] := by
  refine ⟨⟨rfl, rfl, by decide, by decide, by decide, by decide, by decide⟩, by decide, by decide, by decide, by decide, by decide, by decide⟩
theorem wit_CopyElement : (let x : Copy := { copyOf2 with xf := 3 }
    ∃ el : CpyEl, nextElement x el ∧ el.src.isSome = true ∧ copyMay t0.pkg x x.src 0 = true ∧ layType x.src ≠ tyL8 ∧
      scrHome t0.pkg 0 x.src = some 0 ∧ laySpace x.src ≠ 0 ∧ (partOf t0.pkg 0).badWords = [] ∧ mapSorted 0 (partOf t0.pkg 0).scr = true ∧
      okAnd (cpyRead t0.pkg 0 0 x el) (·.isSome) = true) := by
  refine ⟨⟨[0, 0, 0, 0], 0, some [0, 0, 0, 0], [0, 0, 0, 0]⟩, ?_⟩
  unfold nextElement; decide
/-- Its destination in memory, and at another package. -/
theorem wit_CopyElementElsewhere : (let s := sup (tables t0)
    okAnd (engineXl s.pkg 0 0 0 64 true) (fun x => (layerCheck x 0 64).isNone) = true ∧ laySpace (ent 0 0 0 64 8 4) = 0 ∧
    (elemAddr (ent 0 0 0 64 8 4) [0, 0, 0, 0]).toNat = 64 ∧ tySize 0 = 4 ∧
    laySpace (ent 2 0 0 (2 ^ 29 + 0x200) 8 4) = 2 ∧ (scrHome t0.pkg 0 (ent 2 0 0 (2 ^ 29 + 0x200) 8 4)).isNone = true ∧
    reachable t0.pkg (homeOfEntry (ent 2 0 0 (2 ^ 29 + 0x200) 8 4)).1 = true) := by decide

/-- A sorted list command as it is performed, or waits; its elements and those of its sources. -/
def elsOf (n : Nat) : List El := (List.range n).map (fun (i : Nat) => (i, some [(i : Int), 0, 0, 0]))
theorem wit_ListCommand : (partOf (onPart (fun k => { k with smrgq := [smrg1] }) t0).pkg 0).smrgq = [smrg1] ∧ smrg1.waiting = false ∧
    engineMay (partOf (onPart (fun k => { k with smrgq := [smrg1] }) t0).pkg 0) smrg1.board = true ∧
    (coreOf t0.pkg 0).switching = false ∧ manglePending t0.pkg 0 = false ∧ manglePending (merging true t0).pkg 0 = true ∧
    t0.part.badWords = [] ∧ isErr (listEntry t0.part 0) = true ∧
    spansMeet (listRange (ent 1 0 0 0x200 4 4) (elsOf 4)) (listRange (ent 1 0 0 0x200 8 4) (elsOf 8)) = true ∧
    (slotOf t0.part (slotNow t0.part 0 t0.cur.ctx)).live = true ∧ (slotOf t0.part (slotNow t0.part 0 t0.cur.ctx)).ctx = t0.cur.ctx := by decide
theorem wit_ListElements : listEls (ent 1 0 0 0x100 2 4) 0 true = .ok (elsOf 2) ∧ listEls (ent 1 0 0 0x100 2 4) 0 false = .ok (elsOf 2) ∧
    elementAt (ent 1 0 0 0x100 2 4) (elsOf 2) 1 0x104 ∧ elementsApart (ent 1 0 0 0x100 2 4) (elsOf 2) ∧ mapSorted 0 t0.part.scr = true := by
  refine ⟨rfl, rfl, ⟨1, [1, 0, 0, 0], rfl, rfl⟩, ?_, by decide⟩
  rintro i j a b h ⟨n, x, hi, rfl⟩ ⟨m, y, hj, rfl⟩
  match i, j, hi, hj with
  | 0, 1, hi, hj =>
    obtain ⟨rfl, rfl⟩ : n = 0 ∧ x = [0, 0, 0, 0] := by simpa [elsOf] using hi.symm
    obtain ⟨rfl, rfl⟩ : m = 1 ∧ y = [1, 0, 0, 0] := by simpa [elsOf] using hj.symm
    exact .inl (by decide)
  | i + 1, j, hi, hj => have := (List.getElem?_eq_some_iff.mp hj).1; change _ < 2 at this; omega
  | 0, j + 2, hi, hj => have := (List.getElem?_eq_some_iff.mp hj).1; change _ < 2 at this; omega

/-- A JOIN and a TEAMK that stand. -/
def joinStands (s : State) : State := onSlot (fun x => { x with
  hold := .joins 0 0 (runKey 2048 513) true none
  cap := some (0, [page]) }) (glb s)
def orphaned (s : State) : State := onPkg (fun p => { p with orphans := [(1, 0, { slotReset with hold := .strong 3 0 [(runKey 0 600, default)] })] }) s
def killing (own : Bool) (s : State) : State := onSlot (fun x => { x with hold := .kill [1] own }) (sup s)
theorem wit_StandingTasks : goesOn (.join fJ) .lane0 (joinStands t0) ∧ (joinStands t0).cur.cap = some (0, [page]) ∧ page.ovl.isNone = true ∧
    joinAddr (joinStands t0) fJ % 32 = 0 ∧ goesOn (.teamk (fSt (.desc .none))) .lane0 (killing true t0) ∧
    goesOn (.teamk (fSt (.desc .none))) .lane0 (killing false (orphaned t0)) ∧ strongLeft (orphaned t0).pkg [1] ∧ ¬ strongLeft t0.pkg [1] := by
  refine ⟨⟨_, _, rfl, by decide⟩, rfl, rfl, by decide, ⟨_, _, rfl, by decide⟩, ⟨_, _, rfl, by decide⟩, ?_, ?_⟩ <;> (unfold strongLeft; decide)
/-- A team with a handler that still runs, and a core that only has the handler's team. -/
def handlerOn (s : State) : State := onPart (fun k => { k with slots := [(15, { slotReset with live := true, kind := .errand })] }) s
theorem wit_EndingTeam : teamDone (handlerOn t0).pkg 0 = true ∧ runningHandlers (handlerOn t0).part ≠ [] ∧ runningHandlers t0.part = [] ∧
    placedTeam.started = true ∧ (teamOf (onPart (fun k => { k with team := none, past := some placedTeam }) t0).part).isSome = true ∧
    mapSorted 0 t0.part.slots = true ∧ mapSorted 0 t0.pkg.cores = true := by decide

/-- M0 publishes, and a deferred key of a core that is fenced and darned goes on. -/
theorem wit_InnermostRun : placeMoves t0 0 0 ∧ (instOf (onPkg (fun p => setInst p 0 0 { instReset with
      run := [(key0, [frozenRec])]
      merging := true }) t0).pkg 0 0).merging = true ∧
    (coreOf (darned0 t0).pkg 0).darned = true ∧ (chainOf (instOf (run1 deferredRec (darned0 t0)).pkg 0 0) key0).any (·.deferred) = true ∧
    (instOf (run1 deferredRec (darned0 t0)).pkg 0 0).stall = none ∧
    (slotOf (onSlot (fun x => { x with hold := .sync }) t0).part 0).hold = .sync ∧ (instOf t0.pkg 0 0).merging = false := by
  unfold placeMoves; decide

/-- Both ports write a launch record in one cycle. -/
def managed (s : State) : State := onPkg (fun p => lqMarked (setQueue p 0 0 [launchRec]) 0 (some (0, 0, 1))) (asids0 s)
theorem wit_PortTie : (lqTied (later (managed t0)).pkg 0 0 0).isSome = true ∧ (lqTied t0.pkg 0 0 0).isNone = true ∧
    (later (managed t0)).turn.later = true ∧ t0.turn.later = false ∧ t0.pkg.portWrites = [] := by decide
/-- The region of another package, with a body that is one, and one that is none. -/
theorem wit_FarRegion : (farOps 12 [(encode (.sadd fS), 0)]).isSome = true ∧ (farOps 12 [(0, 0)]).isNone = true ∧ 5 ≠ t0.pkg.regs.pkgnum ∧
    5 ∉ t0.pkg.unreachable ∧ keyKilled t0.pkg tagNone = false ∧ (0x10000 : Nat) % 128 = 0 ∧ (0x10000 : Nat) < 0x6000000000 := by decide

/-- Lane 0 of the guard is false and another lane is true. -/
theorem wit_LaneZero : (let s := onSlot (fun x => setPred x 1 (BitVec.ofNat 32 2)) t0
    readyWord s 0x020 { fS with gp := 1 } = true ∧ laneWise 0x020 { fS with gp := 1 } = false ∧
    guardLane0 s.cur { fS with gp := 1 } = false ∧ guardMask s.cur { fS with gp := 1 } ≠ 0 ∧ laneWise 0x060 (fV 0) = true) := by decide
/-- Turns of a machine that is off, that boots, that issues no word. -/
theorem wit_Turns : (let t : Turn := ⟨7, 3, true, 0, 0, [], [.config], .issue 0⟩
    let s : State := { t0 with inputs := [t] }
    isPowerOn t.act = false ∧ s.inputs = [t] ∧ ({ s with site := { s.site with powered := false } } : State).site.powered = false ∧
    ({ s with site := { s.site with booted := false } } : State).site.booted = false ∧ (t.moves.filter (fun m => decide (m = .config))).length = 1 ∧
    badEncoding (.unassignedEncodingIssue .illegal) = true ∧ (Instr.unassignedEncodingIssue .illegal).isWord = false ∧
    (Instr.sadd fS).isWord = true ∧ badEncoding (.taskAsk 0) = false) := by decide
end Sys2Proof.Tests
end

section
/-!
What one step makes of its turn (R4, R25, R51, R253, R254, R310, R362, R363): an equation of `step`, `act` and `issueSlot` for each
branch, what a selected slot's turn spends, and what a selected slot must be.
-/
namespace Sys2Proof.Machine

/-! The turn that a step takes. -/

theorem takeTurn_of_inputs {s : State} {t : Turn} {rest : List Turn} (h : s.inputs = t :: rest) :
    takeTurn s = (t, { s with inputs := rest }) := by
  simp only [takeTurn, h]

theorem step_of_running {s : State} {t : Turn} {rest : List Turn} (hp : s.site.powered = true) (hb : s.site.booted = true)
    (h : s.inputs = t :: rest) : step s = act (prepare { s with inputs := rest } t) := by
  simp [step, takeTurn_of_inputs h, hp, hb]

/-- Without power only a power-on is a step (R363). -/
theorem step_of_poweredOff {s : State} {t : Turn} {rest : List Turn} (h : s.inputs = t :: rest) (ha : isPowerOn t.act = false)
    (hp : s.site.powered = false) : step s = .fault .poweredOff := by
  simp [step, takeTurn_of_inputs h, ha, hp]

/-- Until the compute dies are released only configuration requests are answered (R362). -/
theorem step_of_booting {s : State} {t : Turn} {rest : List Turn} (h : s.inputs = t :: rest) (ha : isPowerOn t.act = false)
    (hp : s.site.powered = true) (hb : s.site.booted = false) :
    step s = .next { s with inputs := rest, site := answerConfigs s.site t } := by
  simp [step, takeTurn_of_inputs h, ha, hp, hb]

/-! The step of a prepared turn. -/

theorem act_issue_idle {s : State} {c : Nat} (ht : s.turn.act = .issue c) (hn : pickSlot s c = none) : act s = .next s := by
  simp only [act, ht, hn]

theorem act_issue_picked {s : State} {c n : Nat} (ht : s.turn.act = .issue c) (hn : pickSlot s c = some n) :
    act s = issueSlot s c n := by
  simp only [act, ht, hn]

theorem act_event {s : State} {e : Instr} (ht : s.turn.act = .event e) (hw : e.isWord = false) (hb : badEncoding e = false) :
    act s = exec e s := by
  simp [act, ht, hw, hb]

/-- An instruction word, or a bad encoding, is no event. -/
theorem act_event_none {s : State} {e : Instr} (ht : s.turn.act = .event e) (h : e.isWord = true ∨ badEncoding e = true) :
    act s = .next s := by
  simp [act, ht, h]

/-! The turn of the slot that is selected. -/

/-- The state in which the selected slot of a core has its turn. -/
def selected (s : State) (c n : Nat) : State := { s with core := c, slot := n, pkg := spendTurn s.pkg c n }

theorem issueSlot_async {s : State} {c n : Nat} (hs : selects (coreOf s.pkg c) = true) (ha : asyncReady (partOf s.pkg c) n = true) :
    issueSlot s c n = .next { selected s c n with pkg := takeAsync (selected s c n).pkg s.time c } := by
  simp only [issueSlot, hs, ha, Bool.and_self, if_true, selected]

/-- Where no asynchronous trap is taken, the slot runs what it fetches: an instruction, or the trap of a bad encoding (R51). -/
theorem issueSlot_fetches {s : State} {c n : Nat} (h : asyncReady (partOf s.pkg c) n = false ∨ selects (coreOf s.pkg c) = false) :
    (∀ i : Instr, fetch s.pkg c n = .ok i → issueSlot s c n = exec i (selected s c n)) ∧
    (∀ e : Reject, fetch s.pkg c n = .error e → issueSlot s c n = exec (.unassignedEncodingIssue e) (selected s c n)) := by
  have hno : (selects (coreOf s.pkg c) && asyncReady (partOf s.pkg c) n) = false := by
    rcases h with h | h <;> simp [h]
  constructor
  · intro i hi
    simp [issueSlot, hno, hi, selected]
  · intro e he
    simp [issueSlot, hno, he, selected]

/-! What a selection spends (R4, R254, R255). The spent slot and its core are never those of reset, since `readyAt` is not 0. -/

/-- The slot once it has been selected in a cycle of its core. -/
def spentSlot (cycle : Nat) (x : Slot) : Slot := { x with readyAt := max x.readyAt (cycle + 4) }

/-- The core once its slot `n` has been selected. -/
def spentCore (x : Core) (n : Nat) : Core := { x with last := n, part := updSlot x.part n (spentSlot x.cycle) }

theorem readyAt_spentSlot_ge (cycle : Nat) (x : Slot) : cycle + 4 ≤ (spentSlot cycle x).readyAt := Nat.le_max_right _ _

theorem spentSlot_ne_slotReset (cycle : Nat) (x : Slot) : spentSlot cycle x ≠ slotReset := by
  intro h
  have hge := readyAt_spentSlot_ge cycle x
  rw [h, show slotReset.readyAt = 0 from rfl] at hge
  omega

theorem slotOf_spentCore_self (x : Core) (n : Nat) : slotOf (spentCore x n).part n = spentSlot x.cycle (slotOf x.part n) :=
  slotOf_setSlot_self x.part n (spentSlot_ne_slotReset x.cycle _)

theorem slotOf_spentCore_other (x : Core) {n m : Nat} (h : m ≠ n) : slotOf (spentCore x n).part m = slotOf x.part m :=
  slotOf_updSlot_other x.part (spentSlot x.cycle) h

theorem spentCore_ne_coreReset (x : Core) (n : Nat) : spentCore x n ≠ coreReset := by
  intro h
  apply spentSlot_ne_slotReset x.cycle (slotOf x.part n)
  rw [← slotOf_spentCore_self, h]
  rfl

theorem coreOf_spendTurn (p : Pkg) (c n : Nat) : coreOf (spendTurn p c n) c = spentCore (coreOf p c) n :=
  coreOf_setCore_self p c (spentCore_ne_coreReset (coreOf p c) n)

/-! What comes before the step of a turn. -/

/-- Each configuration request of a turn gets one answer: whether the machine has booted (R362). -/
theorem answerConfigs_appends (x : Site) (t : Turn) :
    ∃ l : List Bool, answerConfigs x t = { x with configs := x.configs ++ l } ∧
      l.length = (t.moves.filter (fun m => decide (m = .config))).length ∧ ∀ b ∈ l, b = x.booted :=
  ⟨(t.moves.filter (fun m => decide (m = .config))).map (fun _ => x.booted), rfl, List.length_map .., by simp⟩

theorem cycle_lt_nextCycle (t : Turn) (x : Core) : x.cycle < (nextCycle t x).cycle := by
  simp only [nextCycle]
  omega

/-! The slot that the barrel picks (R253, R254). -/

/-- A ready slot holds a context, its ready cycle has come, and its core selects slots, or has it go on with a push while a gang
switch stops selection (R275). -/
theorem slotReady_inv {s : State} {c n : Nat} (h : slotReady s c n = true) :
    (slotOf (partOf s.pkg c) n).live = true ∧ (slotOf (partOf s.pkg c) n).readyAt ≤ (coreOf s.pkg c).cycle ∧
    (coreOf s.pkg c).fenced = none ∧ (selects (coreOf s.pkg c) = true ∨
      ((coreOf s.pkg c).switching = true ∧ inPush (slotOf (partOf s.pkg c) n).hold = true)) := by
  simp only [slotReady, Bool.and_eq_true, decide_eq_true_eq] at h
  obtain ⟨⟨⟨hlive, -⟩, hcycle⟩, hgo⟩ := h
  refine ⟨hlive, hcycle, ?_⟩
  split at hgo
  case isTrue hsel =>
    refine ⟨?_, .inl hsel⟩
    simp only [selects, Bool.and_eq_true, Option.isNone_iff_eq_none] at hsel
    exact hsel.1.1
  case isFalse =>
    simp only [Bool.and_eq_true, Option.isNone_iff_eq_none] at hgo
    obtain ⟨⟨hfenced, hswitching⟩, hpush⟩ := hgo
    exact ⟨hfenced, .inr ⟨hswitching, hpush⟩⟩

theorem pickSlot_inv {s : State} {c n : Nat} (h : pickSlot s c = some n) :
    slotReady s c n = true ∧ n < slotCount (partOf s.pkg c).mode := by
  refine ⟨List.find?_some h, ?_⟩
  obtain ⟨i, hi, rfl⟩ := List.mem_map.mp (List.mem_of_find?_eq_some h)
  exact Nat.mod_lt _ (Nat.zero_lt_of_lt (List.mem_range.mp hi))

end Sys2Proof.Machine

open Sys2Proof.Machine

/-- Settles O56, clause by clause from the equations of `step`, `act` and `issueSlot` and the inversion of `pickSlot`. -/
theorem stepRunsDecodedInstruction : Obligations.StepRunsDecodedInstruction := by
  refine ⟨?issueTurn, ?eventTurn, ?off, answerConfigs_appends, ?spent, fun _ _ => ⟨rfl, rfl, rfl⟩, cycle_lt_nextCycle, ?picked⟩
  case issueTurn =>
    intro s t rest c n hp hb hin hact
    have hstep := step_of_running hp hb hin
    have hturn : (prepare { s with inputs := rest } t).turn.act = .issue c := hact
    refine ⟨fun hn => hstep.trans (act_issue_idle hturn hn), fun hn hno => ?_, fun hn ha hs => ?_⟩
    · obtain ⟨hok, herr⟩ := issueSlot_fetches hno
      have hissue := hstep.trans (act_issue_picked hturn hn)
      exact ⟨fun i hi => hissue.trans (hok i hi), fun e he => hissue.trans (herr e he)⟩
    · exact hstep.trans ((act_issue_picked hturn hn).trans (issueSlot_async hs ha))
  case eventTurn =>
    intro s t rest e hp hb hin hact
    have hstep := step_of_running hp hb hin
    exact ⟨fun hw hbad => hstep.trans (act_event hact hw hbad), fun h => hstep.trans (act_event_none hact h)⟩
  case off =>
    exact fun s t rest hin ha => ⟨step_of_poweredOff hin ha, step_of_booting hin ha⟩
  case spent =>
    intro p c n
    simp only [coreOf_spendTurn, slotOf_spentCore_self]
    exact ⟨rfl, readyAt_spentSlot_ge _ _, rfl, fun m hm => slotOf_spentCore_other _ hm⟩
  case picked =>
    intro s c n h
    obtain ⟨hready, hlt⟩ := pickSlot_inv h
    exact ⟨hready, hlt, slotReady_inv hready⟩
end

section
/-!
The anole links over a step (R18, R233, R234, R365): turning bundles keeps their number and moves FWD toward a target between 2 and 14,
the other events keep each bundle's direction, the turn queue takes a command only where it has room, and every other step keeps the
links.
-/
namespace Sys2Proof.Machine
open Sys2Proof.Claims

/-! Turning bundles. -/

theorem length_turnBundles (now : Nat) (fwd : Bool) (n : Nat) (bs : List Bundle) :
    (turnBundles now fwd n bs).1.length = bs.length := by
  fun_induction turnBundles now fwd n bs with
  | case1 | case2 => rfl
  | case3 _ _ _ _ r ih | case4 _ _ _ _ r ih => exact congrArg Nat.succ ih

theorem turnBundles_count_le (now : Nat) (fwd : Bool) (n : Nat) (bs : List Bundle) : (turnBundles now fwd n bs).2 ≤ n := by
  fun_induction turnBundles now fwd n bs with
  | case1 => exact Nat.zero_le _
  | case2 => exact Nat.zero_le _
  | case3 _ _ _ _ r ih => exact Nat.succ_le_succ ih
  | case4 _ _ _ _ r ih => exact ih

/-- Bundles that turn from reverse join the forward ones. -/
theorem forward_turnBundles_false (now n : Nat) (bs : List Bundle) :
    ((turnBundles now false n bs).1.filter (·.fwd)).length = (bs.filter (·.fwd)).length + (turnBundles now false n bs).2 := by
  induction bs generalizing n with
  | nil => cases n <;> rfl
  | cons b rest ih =>
    cases n with
    | zero => rfl
    | succ n =>
      simp only [turnBundles]
      split
      case isTrue h => simp [h.1, ih]; omega
      case isFalse => cases hb : b.fwd <;> simp [hb, ih]; omega

/-- Bundles that turn from forward leave the forward ones. -/
theorem forward_turnBundles_true (now n : Nat) (bs : List Bundle) :
    ((turnBundles now true n bs).1.filter (·.fwd)).length + (turnBundles now true n bs).2 = (bs.filter (·.fwd)).length := by
  induction bs generalizing n with
  | nil => cases n <;> rfl
  | cons b rest ih =>
    cases n with
    | zero => rfl
    | succ n =>
      simp only [turnBundles]
      split
      case isTrue h => simp [h.1, ← ih n]; omega
      case isFalse => cases hb : b.fwd <;> simp [hb, ← ih (n + 1)]; omega

theorem length_turnToward (now t : Nat) (l : Link) : (turnToward now t l).bundles.length = l.bundles.length := by
  simp only [turnToward]
  split <;> exact length_turnBundles ..

theorem queue_turnToward (now t : Nat) (l : Link) : (turnToward now t l).queue = l.queue := rfl

theorem linkFwd_turnToward_up {now t : Nat} {l : Link} (h : linkFwd l < t) : linkFwd (turnToward now t l) =
    linkFwd l + (turnBundles now false (min (t - linkFwd l) (carriers now false l.bundles - 2)) l.bundles).2 := by
  simp only [turnToward, if_pos h]
  exact forward_turnBundles_false ..

theorem linkFwd_turnToward_down {now t : Nat} {l : Link} (h : ¬ linkFwd l < t) : linkFwd (turnToward now t l) +
    (turnBundles now true (min (linkFwd l - t) (carriers now true l.bundles - 2)) l.bundles).2 = linkFwd l := by
  simp only [turnToward, if_neg h]
  exact forward_turnBundles_true ..

/-- Turning toward a target ends between the old FWD and the target. -/
theorem linkFwd_turnToward (now t : Nat) (l : Link) :
    min (linkFwd l) t ≤ linkFwd (turnToward now t l) ∧ linkFwd (turnToward now t l) ≤ max (linkFwd l) t := by
  by_cases h : linkFwd l < t
  · have hturned := turnBundles_count_le now false (min (t - linkFwd l) (carriers now false l.bundles - 2)) l.bundles
    have hup := linkFwd_turnToward_up (now := now) h
    omega
  · have hturned := turnBundles_count_le now true (min (linkFwd l - t) (carriers now true l.bundles - 2)) l.bundles
    have hdown := linkFwd_turnToward_down (now := now) h
    omega

/-! What keeps a link legal. -/

theorem linkLegal_reset : linkLegal linkReset := by simp only [linkLegal]; decide

/-- The claim reads the bundles' number and directions and the queue alone. -/
theorem linkLegal_congr {l m : Link} (h : linkLegal l) (hlen : m.bundles.length = l.bundles.length) (hfwd : linkFwd m = linkFwd l)
    (hq : m.queue.length ≤ 8) : linkLegal m := by
  obtain ⟨h16, hlo, hhi, -⟩ := h
  exact ⟨hlen.trans h16, hfwd ▸ hlo, hfwd ▸ hhi, hq⟩

theorem turnToward_legal {l : Link} (h : linkLegal l) (now : Nat) {t : Nat} (ht : 2 ≤ t ∧ t ≤ 14) :
    linkLegal (turnToward now t l) := by
  obtain ⟨h16, hlo, hhi, hq⟩ := h
  have hfwd := linkFwd_turnToward now t l
  exact ⟨(length_turnToward now t l).trans h16, by omega, by omega, hq⟩

theorem clampTarget_bounds (t : Nat) : 2 ≤ clampTarget t ∧ clampTarget t ≤ 14 := by
  simp only [clampTarget]
  omega

theorem runTurn_legal {l : Link} (h : linkLegal l) (now : Nat) (c : LinkCmd) : linkLegal (runTurn now c l) := by
  simp only [runTurn]
  split
  case isTrue => exact h
  case isFalse =>
    exact turnToward_legal (l := { l with demand := false, refused := false }) h now (clampTarget_bounds c.t)

theorem runQueue_legal {l : Link} (h : linkLegal l) (now : Nat) : linkLegal (runQueue now l) := by
  simp only [runQueue]
  split
  next => exact h
  next c rest hq =>
    split
    case isTrue => exact h
    case isFalse =>
      obtain ⟨h16, hlo, hhi, h8⟩ := h
      rw [hq] at h8
      exact runTurn_legal (l := { l with queue := rest }) ⟨h16, hlo, hhi, Nat.le_of_succ_le h8⟩ now c

theorem demandCheck_legal {l : Link} (h : linkLegal l) (now fb rb : Nat) : linkLegal (demandCheck now fb rb l) := by
  have hchecked : linkLegal { l with checked := now } := h
  simp only [demandCheck]
  split_ifs
  · exact h
  · exact hchecked
  · exact turnToward_legal hchecked now (clampTarget_bounds _)
  · exact turnToward_legal hchecked now (clampTarget_bounds _)
  · exact hchecked

theorem linkFwd_set {l : Link} {n : Nat} {b c : Bundle} (hb : l.bundles[n]? = some b) (hc : c.fwd = b.fwd) :
    linkFwd { l with bundles := l.bundles.set n c } = linkFwd l := by
  obtain ⟨hn, rfl⟩ := List.getElem?_eq_some_iff.mp hb
  have hmem := List.getElem_mem hn
  simp only [linkFwd, ← List.countP_eq_length_filter, List.countP_set hn, hc]
  split
  case isTrue h => exact Nat.sub_add_cancel (List.countP_pos_iff.mpr ⟨_, hmem, h⟩)
  case isFalse => rfl

/-- A change of one bundle that keeps its direction. -/
theorem updBundle_legal {l : Link} (h : linkLegal l) (n : Nat) {g : Bundle → Bundle} (hg : ∀ b, (g b).fwd = b.fwd) :
    linkLegal (updBundle l n g) := by
  simp only [updBundle]
  split
  next b hb => exact linkLegal_congr h List.length_set (linkFwd_set hb (hg b)) h.2.2.2
  next => exact h

theorem fwd_endDead (now : Nat) (b : Bundle) : (endDead now b).fwd = b.fwd := by
  simp only [endDead]
  split
  next => split <;> rfl
  next => rfl

theorem fwd_endRecal (now : Nat) (b : Bundle) : (endRecal now b).fwd = b.fwd := by
  simp only [endRecal]
  split
  next => split <;> rfl
  next => rfl

theorem recalibrate_legal {l : Link} (h : linkLegal l) (now n : Nat) : linkLegal (recalibrate now n l) := by
  simp only [recalibrate]
  split
  case isTrue => exact h
  case isFalse => exact updBundle_legal h n (fun b => by split <;> rfl)

/-- A command is queued where there is room, or discarded (R234). -/
theorem queueTurn_legal {l : Link} (h : linkLegal l) {allowed : Bool} (hroom : allowed = true → l.queue.length < 8) (b : Word) :
    linkLegal (queueTurn l allowed b) := by
  cases allowed with
  | true => exact linkLegal_congr h rfl rfl (by simpa [queueTurn] using hroom rfl)
  | false => exact h

/-! What keeps the four links legal. -/

theorem linksLegal_of_links_eq {s t : State} (hs : linksLegal s) (h : t.site.links = s.site.links) : linksLegal t := by
  simpa only [linksLegal, h] using hs

theorem linksLegal_set {s t : State} (hs : linksLegal s) {n : Nat} {l : Link} (hl : linkLegal l)
    (h : t.site.links = s.site.links.set n l) : linksLegal t := by
  obtain ⟨h4, hall⟩ := hs
  simp only [linksLegal, h, List.length_set]
  refine ⟨h4, fun m hm => ?_⟩
  rcases List.mem_or_eq_of_mem_set hm with hm | rfl
  · exact hall m hm
  · exact hl

/-- An event that changes one link, each legal link to a legal one. -/
theorem updLink_legal {s t : State} (hs : linksLegal s) {n : Nat} {g : Link → Link} (hg : ∀ l, linkLegal l → linkLegal (g l))
    (h : t.site = updLink s.site n g) : linksLegal t := by
  simp only [updLink] at h
  split at h
  next l hl => exact linksLegal_set hs (hg l (hs.2 l (List.mem_of_getElem? hl))) (by rw [h])
  next => exact linksLegal_of_links_eq hs (by rw [h])

theorem linksLegal_lnturn {s : State} (hs : linksLegal s) (f : Fields) {t : State} (h : execLnturn f s = .next t) : linksLegal t := by
  have hn : fld (opdScalar (slotOf (partOf s.pkg s.core) s.slot) f.a) 0 2 < s.site.links.length := by
    rw [hs.1]
    exact Nat.mod_lt _ (by decide)
  have hl := hs.2 _ (List.getElem_mem hn)
  rw [← List.getD_eq_getElem _ linkReset hn] at hl
  have hsite := congrArg State.site (Host.Outcome.next.inj h)
  dsimp only at hsite
  split at hsite
  case isTrue hgo =>
    refine linksLegal_set hs (queueTurn_legal hl (fun hallowed => ?_) _) (congrArg Site.links hsite).symm
    obtain ⟨hroom, -⟩ := Bool.and_eq_true_iff.mp hgo
    rw [hallowed] at hroom
    exact of_decide_eq_true hroom
  case isFalse => exact linksLegal_of_links_eq hs (congrArg Site.links hsite).symm

theorem links_powerOn (n t : Nat) (a b : Bool) (s : State) :
    (powerOn n t a b s).site.links = [linkReset, linkReset, linkReset, linkReset] := by
  simp only [powerOn]
  split <;> rfl

theorem linksLegal_powerOn (n t : Nat) (a b : Bool) (s : State) : linksLegal (powerOn n t a b s) := by
  simp only [linksLegal, links_powerOn]
  simp [linkLegal_reset]

/-! What keeps the links themselves. -/

theorem links_updateFirmware (slotB signed : Bool) (x : Site) : (updateFirmware slotB signed x).links = x.links := by
  simp only [updateFirmware]
  split_ifs <;> rfl

theorem links_shutdown (now celsius : Nat) (x : Site) : (shutdown now celsius x).links = x.links := by
  simp only [shutdown]
  split <;> rfl

theorem links_spareRow (now device row : Nat) (x : Pkg × Site) : (spareRow now device row x).2.links = x.2.links := by
  simp only [spareRow]
  split <;> rfl

theorem links_linkLoss (cx : Cx) (port : Nat) (lost : List Nat) (x : Pkg × Site) : (linkLoss cx port lost x).2.links = x.2.links := by
  simp only [linkLoss]
  split <;> rfl

theorem links_portRetrained (port : Nat) (reached : List Nat) (x : Pkg × Site) :
    (portRetrained port reached x).2.links = x.2.links := by
  simp only [portRetrained]
  split <;> rfl

theorem links_clockChange (now die mhz fterm : Nat) (x : Pkg × Site) :
    (if clockOk mhz && ftermOk fterm && decide (die < 4) then changeClock now die mhz fterm x else x).2.links = x.2.links := by
  split <;> rfl

theorem links_throttle (now die celsius fterm : Nat) (x : Pkg × Site) :
    (throttle now die celsius fterm x).2.links = x.2.links := by
  simp only [throttle]
  split
  next => split <;> rfl
  next => split <;> rfl

/-- What an instruction or an event makes of legal links. -/
theorem exec_linksLegal {i : Instr} {s t : State} (hs : linksLegal s) (h : exec i s = .next t) : linksLegal t := by
  cases i with
  | lnturn f => exact linksLegal_lnturn hs f h
  | turnCommandRun link =>
    cases h
    exact updLink_legal hs (fun l hl => runQueue_legal hl s.time) rfl
  | bundleDeadTimeEnd link bundle =>
    cases h
    exact updLink_legal hs (fun l hl => updBundle_legal hl bundle (fwd_endDead s.time)) rfl
  | demandSplitCheck link fb rb =>
    cases h
    exact updLink_legal hs (fun l hl => demandCheck_legal hl s.time fb rb) rfl
  | bundleRecalibration link bundle =>
    cases h
    exact updLink_legal hs (fun l hl => recalibrate_legal hl s.time bundle) rfl
  | bundleRecalibrationEnd link bundle =>
    cases h
    exact updLink_legal hs (fun l hl => updBundle_legal hl bundle (fwd_endRecal s.time)) rfl
  | powerOnReset n start a b =>
    cases h
    exact linksLegal_powerOn n start a b s
  | firmwareUpdate slotB signed =>
    cases h
    exact linksLegal_of_links_eq hs (links_updateFirmware slotB signed s.site)
  | thermalShutdown die celsius =>
    cases h
    exact linksLegal_of_links_eq hs (links_shutdown s.time celsius s.site)
  | rowSparing device row =>
    cases h
    exact linksLegal_of_links_eq hs (links_spareRow s.time device row (s.pkg, s.site))
  | roneelLinkLoss port lost =>
    cases h
    exact linksLegal_of_links_eq hs (links_linkLoss (cxOf s) port lost (s.pkg, s.site))
  | roneelPortRetrained port reached =>
    cases h
    exact linksLegal_of_links_eq hs (links_portRetrained port reached (s.pkg, s.site))
  | clockFrequencyChange die mhz fterm =>
    cases h
    exact linksLegal_of_links_eq hs (links_clockChange s.time die mhz fterm (s.pkg, s.site))
  | frequencyChangeEnd die =>
    cases h
    exact hs
  | thermalThrottle die celsius fterm =>
    cases h
    exact linksLegal_of_links_eq hs (links_throttle s.time die celsius fterm (s.pkg, s.site))
  | _ => 
    cases h
    exact hs

/-- What comes before the step of a turn keeps the links. -/
theorem prepare_linksLegal {s : State} (hs : linksLegal s) (t : Turn) : linksLegal (prepare s t) := hs

theorem act_linksLegal {s t : State} (hs : linksLegal s) (h : act s = .next t) : linksLegal t := by
  simp only [act] at h
  split at h
  next c _ =>
    split at h
    next n _ =>
      simp only [issueSlot] at h
      split at h
      case isTrue =>
        cases h
        exact hs
      case isFalse => split at h <;> exact exec_linksLegal (s := selected s c n) hs h
    next =>
      cases h
      exact hs
  next =>
    split at h
    case isTrue =>
      cases h
      exact hs
    case isFalse => exact exec_linksLegal hs h

theorem takeTurn_linksLegal {s : State} (hs : linksLegal s) : linksLegal (takeTurn s).2 := by
  simp only [takeTurn]
  split <;> exact hs

end Sys2Proof.Machine

open Sys2Proof.Machine

/-- Settles O59: the links are legal after the turn is taken and prepared, and every arm of `exec` keeps them so. -/
theorem linksStayLegal : Obligations.LinksStayLegal := by
  intro s t hs h
  simp only [step] at h
  split_ifs at h
  · cases h
    exact hs
  · exact act_linksLegal (prepare_linksLegal (takeTurn_linksLegal hs) _) h
end

section
/-!
The state after reset, and what the events of the module do (R20, R149, R331, R333, R362 to R365): an equation of each of their functions
for each of its branches.
-/
namespace Sys2Proof.Machine
open Sys2Proof.Claims

/-! Events of the module, of both, of the package. -/

theorem siteTo_of_bothStep {i : Instr} {s : State} {ev : Cx → Pkg × Site → Pkg × Site} {q : Pkg} {x : Site}
    (hi : exec i s = bothStep ev s) (h : ev (cxOf s) (s.pkg, s.site) = (q, x)) : siteTo i s q x := by
  rw [siteTo, hi, bothStep, h]

theorem siteTo_clockFrequencyChange {s : State} {die mhz ft : Nat} {q : Pkg} {x : Site}
    (h : (if clockOk mhz && ftermOk ft && decide (die < 4) then changeClock s.time die mhz ft (s.pkg, s.site) else (s.pkg, s.site)) =
      (q, x)) : siteTo (.clockFrequencyChange die mhz ft) s q x :=
  siteTo_of_bothStep
    (ev := fun cx x => if clockOk mhz && ftermOk ft && decide (die < 4) then changeClock cx.now die mhz ft x else x) rfl h

theorem siteTo_frequencyChangeEnd {s : State} {die : Nat} {q : Pkg} {x : Site} (h : endChange die (s.pkg, s.site) = (q, x)) :
    siteTo (.frequencyChangeEnd die) s q x := siteTo_of_bothStep (ev := fun _ x => endChange die x) rfl h

theorem siteTo_thermalThrottle {s : State} {die deg ft : Nat} {q : Pkg} {x : Site}
    (h : throttle s.time die deg ft (s.pkg, s.site) = (q, x)) : siteTo (.thermalThrottle die deg ft) s q x :=
  siteTo_of_bothStep (ev := fun cx x => throttle cx.now die deg ft x) rfl h

theorem siteTo_thermalShutdown {s : State} {die deg : Nat} {x : Site} (h : shutdown s.time deg s.site = x) :
    siteTo (.thermalShutdown die deg) s s.pkg x := h ▸ rfl

theorem siteTo_rowSparing {s : State} {d row : Nat} {q : Pkg} {x : Site} (h : spareRow s.time d row (s.pkg, s.site) = (q, x)) :
    siteTo (.rowSparing d row) s q x := siteTo_of_bothStep (ev := fun cx x => spareRow cx.now d row x) rfl h

theorem siteTo_firmwareUpdate {s : State} {slotB b : Bool} {x : Site} (h : updateFirmware slotB b s.site = x) :
    siteTo (.firmwareUpdate slotB b) s s.pkg x := h ▸ rfl

theorem eventTo_ageingEstimate {s : State} {die hours : Nat} {q : Pkg} (h : ageing s.pkg s.time die hours = q) :
    eventTo (.ageingEstimate die hours) s q := h ▸ rfl

theorem eventTo_retentionEntry {s : State} {n mib : Nat} {q : Pkg} (h : retain s.pkg s.time n mib = q) :
    eventTo (.retentionEntry n mib) s q := h ▸ rfl

theorem eventTo_retentionExit {s : State} {n mib : Nat} {q : Pkg} (h : release s.pkg s.time n mib = q) :
    eventTo (.retentionExit n mib) s q := h ▸ rfl

/-! Reset. -/

theorem linksLegal_reset : linksLegal State.reset :=
  ⟨rfl, fun _ hl => List.eq_of_mem_replicate (n := 4) hl ▸ linkLegal_reset⟩

/-! Power-on (R362). -/

theorem bootSlot_active {active a b : Bool} (h : (if active then b else a) = true) : bootSlot active a b = some active := by
  simp only [bootSlot, h, if_true]

theorem bootSlot_other {active a b : Bool} (h : (if active then b else a) = false) (h' : (if active then a else b) = true) :
    bootSlot active a b = some (!active) := by
  cases active <;> simp_all [bootSlot]

theorem bootSlot_none (active : Bool) : bootSlot active false false = none := by
  cases active <;> rfl

theorem powerOn_of_bootSlot {n t : Nat} {a b active : Bool} {s : State} (h : bootSlot s.site.slotB a b = some active) :
    powerOn n t a b s = { s with time := t % 2 ^ 64, pkg := freshPkg n, site := { freshSite s a b with slotB := active } } := by
  simp only [powerOn, h]
  rfl

theorem powerOn_held {n t : Nat} {a b : Bool} {s : State} (h : bootSlot s.site.slotB a b = none) :
    powerOn n t a b s = { s with
      time := 0, pkg := pkgReset,
      site := { freshSite s a b with booted := false, bootFailures := s.site.bootFailures + 1 } } := by
  simp only [powerOn, h]
  rfl

/-! Clocks and heat (R20, R149, R363). -/

theorem ftermOk_of_bounds {ft : Nat} (h : 0 < ft) (h' : ft < 2 ^ 32) : ftermOk ft = true := by
  simp only [ftermOk, h, h', decide_true, Bool.and_self]

theorem clockOk_iff (mhz : Nat) : clockOk mhz = true ↔ 800 ≤ mhz ∧ mhz ≤ 2200 ∧ mhz % 25 = 0 := by
  simp only [clockOk, Bool.and_eq_true, decide_eq_true_eq, and_assoc]

theorem endChange_last {die : Nat} {x : Pkg × Site} (h : ∀ y ∈ x.2.changing.set die none, y = none) :
    endChange die x =
      ({ x.1 with regs := { x.1.regs with fterm := 0 } }, { x.2 with changing := x.2.changing.set die none }) := by
  have hall : (x.2.changing.set die none).all (·.isNone) = true := by simpa using h
  simp only [endChange, hall, if_true]

theorem endChange_notLast {die : Nat} {x : Pkg × Site} (h : ∃ y ∈ x.2.changing.set die none, y ≠ none) :
    endChange die x = (x.1, { x.2 with changing := x.2.changing.set die none }) := by
  have hall : (x.2.changing.set die none).all (·.isNone) = false := by simpa [Option.isSome_iff_ne_none] using h
  simp only [endChange, hall, Bool.false_eq_true, if_false]

theorem throttle_cool {now die celsius fterm : Nat} (x : Pkg × Site) (h : celsius ≤ 105) : throttle now die celsius fterm x = x := by
  have hcool : ¬ 105 < celsius := Nat.not_lt.mpr h
  simp only [throttle, hcool, false_and, if_false]

/-- One step a millisecond (R363). -/
theorem throttle_early {now die celsius fterm t : Nat} {x : Pkg × Site} (ht : x.2.throttled[die]? = some (some t))
    (h : now < t + 1000000) : throttle now die celsius fterm x = x := by
  simp [throttle, List.getD_eq_getElem?_getD, ht, Nat.not_le.mpr h]

theorem throttle_steps {now die celsius fterm mhz : Nat} {x : Pkg × Site} (hm : x.2.mhz[die]? = some mhz)
    (ht : x.2.throttled[die]? = some none) (hd : die < 4) (hf : ftermOk fterm = true) (hc : 105 < celsius) (h825 : 825 ≤ mhz) :
    throttle now die celsius fterm x =
      ((changeClock now die (mhz - 25) fterm x).1,
       { (changeClock now die (mhz - 25) fterm x).2 with throttled := x.2.throttled.set die (some now) }) := by
  simp [throttle, List.getD_eq_getElem?_getD, hm, ht, hd, hf, hc, h825, changeClock]

theorem shutdown_hot {now celsius : Nat} (x : Site) (h : 115 ≤ celsius) :
    shutdown now celsius x = { x with powered := false, booted := false, shutdowns := x.shutdowns ++ [now] } := if_pos h

theorem shutdown_cool {now celsius : Nat} (x : Site) (h : celsius < 115) : shutdown now celsius x = x := if_neg (Nat.not_le.mpr h)

/-! Records of maintenance (R331, R333, R364, R365). -/

theorem ageing_of_die {p : Pkg} {now die hours : Nat} (h : die < 4) : ageing p now die hours =
    logEvent { p with regs := { p.regs with eolh := mapPut 0 p.regs.eolh die (BitVec.ofNat 64 hours) } } now 0x0040
      (dieSource die) [hours] := if_neg (Nat.not_le.mpr h)

theorem spareRow_noDevice {now d row : Nat} (x : Pkg × Site) (h : 100 ≤ d) : spareRow now d row x = x := if_pos h

theorem spareRow_device {now d row : Nat} (x : Pkg × Site) (h : d < 100) : spareRow now d row x =
    (logEvent x.1 now 0x0030 (deviceSource d) [d, row], { x.2 with spared := x.2.spared ++ [(d, row)] }) :=
  if_neg (Nat.not_le.mpr h)

theorem updateFirmware_active (b : Bool) (x : Site) : updateFirmware x.slotB b x = x := if_pos rfl

theorem updateFirmware_B {x : Site} (h : x.slotB = false) (b : Bool) :
    updateFirmware true b x = if b then { x with signedB := true, slotB := true } else { x with signedB := false } := by
  cases b <;> simp [updateFirmware, h]

theorem updateFirmware_A {x : Site} (h : x.slotB = true) (b : Bool) :
    updateFirmware false b x = if b then { x with signedA := true, slotB := false } else { x with signedA := false } := by
  cases b <;> simp [updateFirmware, h]

theorem retain_idle {p : Pkg} {now n mib : Nat} (hn : n ∉ p.retained) (h : 4096 ≤ n)
    (hm : (instOf p (n / 4096) (n % 4096)).merging = false) :
    retain p now n mib = { logEvent p now 0x0010 (arraySource n) [n, mib] with retained := p.retained ++ [n] } := by
  simp [retain, hn, Nat.not_lt.mpr h, hm]

theorem retain_refused {p : Pkg} {now n mib : Nat}
    (h : n ∈ p.retained ∨ n < 4096 ∨ (instOf p (n / 4096) (n % 4096)).merging = true) : retain p now n mib = p :=
  if_pos (by simpa using h)

theorem release_retained {p : Pkg} {now n mib : Nat} (h : n ∈ p.retained) : release p now n mib =
    { logEvent p now 0x0011 (arraySource n) [n, mib] with retained := p.retained.erase n } := if_pos (by simpa using h)

theorem release_idle {p : Pkg} {now n mib : Nat} (h : n ∉ p.retained) : release p now n mib = p := if_neg (by simpa using h)

end Sys2Proof.Machine

open Sys2Proof.Machine

/-- Settles O60: every map of the reset state is empty, so what is read of it is a default. -/
theorem resetState : Obligations.ResetState :=
  ⟨fun _ _ => ⟨rfl, rfl, rfl, rfl⟩, fun _ _ _ => ⟨rfl, rfl, rfl⟩, rfl, rfl, fun _ _ => ⟨rfl, rfl⟩, rfl, rfl, rfl,
    fun _ => rfl, rfl, rfl, rfl, rfl, rfl, fun _ => rfl, by decide, linksLegal_reset, rfl⟩

/-- Settles O51, event by event from the equations of their functions. -/
theorem moduleEvents : Obligations.ModuleEvents := by
  refine ⟨?power, ?clock, ?clockEnd, ?throttle, ?shutdown, ?ageing, ?noRow, ?row, ?firmware, ?retention⟩
  case power =>
    intro s n t a b
    refine ⟨fun h => ?_, fun h h' => ?_, fun ha hb => ?_⟩
    · exact congrArg Host.Outcome.next (powerOn_of_bootSlot (bootSlot_active h))
    · exact congrArg Host.Outcome.next (powerOn_of_bootSlot (bootSlot_other h h'))
    · subst ha hb
      exact congrArg Host.Outcome.next (powerOn_held (bootSlot_none _))
  case clock =>
    intro s die mhz ft
    refine ⟨fun hlo hhi hstep hft hft' hdie => siteTo_clockFrequencyChange (if_pos ?_),
      fun h => siteTo_clockFrequencyChange (if_neg ?_)⟩
    · simp only [(clockOk_iff mhz).mpr ⟨hlo, hhi, hstep⟩, ftermOk_of_bounds hft hft', hdie, decide_true, Bool.and_self]
    · simp only [Bool.and_eq_true, clockOk_iff, ftermOk, decide_eq_true_eq]
      omega
  case clockEnd =>
    exact fun s die => ⟨fun h => siteTo_frequencyChangeEnd (endChange_last h), fun h => siteTo_frequencyChangeEnd (endChange_notLast h)⟩
  case throttle =>
    intro s die deg ft mhz hm hd hft hft'
    exact ⟨fun hc h825 ht => siteTo_thermalThrottle (throttle_steps hm ht hd (ftermOk_of_bounds hft hft') hc h825),
      fun h => siteTo_thermalThrottle (throttle_cool _ h), fun t ht h => siteTo_thermalThrottle (throttle_early ht h)⟩
  case shutdown =>
    exact fun s die deg => ⟨fun h => siteTo_thermalShutdown (shutdown_hot _ h), fun h => siteTo_thermalShutdown (shutdown_cool _ h)⟩
  case ageing => exact fun s die hours h => eventTo_ageingEstimate (ageing_of_die h)
  case noRow => exact fun s d row h => siteTo_rowSparing (spareRow_noDevice _ h)
  case row => exact fun s d row h => siteTo_rowSparing (spareRow_device _ h)
  case firmware =>
    exact fun s b => ⟨siteTo_firmwareUpdate (updateFirmware_active b s.site),
      fun h => siteTo_firmwareUpdate (updateFirmware_B h true), fun h => siteTo_firmwareUpdate (updateFirmware_A h true),
      fun h => siteTo_firmwareUpdate (updateFirmware_B h false), fun h => siteTo_firmwareUpdate (updateFirmware_A h false)⟩
  case retention =>
    exact fun s n mib => ⟨fun hn h hm => eventTo_retentionEntry (retain_idle hn h hm),
      fun h => eventTo_retentionEntry (retain_refused h), fun h => eventTo_retentionExit (release_retained h),
      fun h => eventTo_retentionExit (release_idle h)⟩
end

section
/-!
What the accesses of the ports and of other packages do (R15, R299, R354, R356 to R361): an equation of each of their functions for each
of its branches.
-/
namespace Sys2Proof.Machine
open Sys2Proof.Claims

/-! Bits. -/

theorem toNat_setFld_clear {n : Nat} (x : BitVec n) (lo len : Nat) :
    (setFld x lo len 0).toNat = x.toNat - 2 ^ lo * (x.toNat / 2 ^ lo % 2 ^ len) := by
  simp only [setFld, fld, Nat.zero_mod, Nat.zero_mul, Nat.add_zero, BitVec.toNat_ofNat, Nat.shiftRight_eq_div_pow]
  rw [Nat.mul_comm]
  exact Nat.mod_eq_of_lt (Nat.lt_of_le_of_lt (Nat.sub_le _ _) x.isLt)

theorem bit_setFld_clear {n : Nat} (x : BitVec n) (i : Nat) : bit (setFld x i 1 0) i = false := by
  have hle : 2 ^ i * (x.toNat / 2 ^ i % 2 ^ 1) ≤ x.toNat :=
    (Nat.mul_le_mul_left _ (Nat.mod_le _ _)).trans (Nat.mul_div_le _ _)
  simp only [bit, toNat_setFld_clear, Nat.shiftRight_eq_div_pow, Nat.sub_mul_div, decide_eq_false_iff_not]
  omega

/-! BAR2 (R356 to R358). -/

theorem bar2Write_off {p : Pkg} {now a : Nat} {bs : List Byte} (h : bit p.regs.winctl 63 = false) : bar2Write p now a bs = p :=
  if_pos (.inl h)

theorem inAperture_of_le {a len : Nat} (h : a + len ≤ 2 ^ 36) : inAperture a len = true := decide_eq_true h

theorem bar2Write_reaches {s : State} {a : Nat} {bs : List Byte} (h : bar2Reaches s a bs.length) :
    bar2Write s.pkg s.time a bs =
      ((bs.zipIdx).foldl (fun m x => addPiece m (winAddr s.pkg a + x.2) x.1) ([] : SMap Piece)).foldl (fun q e =>
        portWrite q s.time (runKey (e.2.va / 32) (winTag s.pkg)) (portRec q s.time e.2.mask e.2.payload) none 0) s.pkg := by
  obtain ⟨hon, hin, hdram⟩ := h
  have hend : ¬ dramEnd < winAddr s.pkg a + bs.length := Nat.not_lt.mpr hdram
  simp only [bar2Write, hon, inAperture_of_le hin, Bool.true_eq_false, or_self, hend, if_false]

theorem bar2Read_behindWrites {p : Pkg} {now a len : Nat} (h : p.portWrites ≠ []) : bar2Read p now a len = p := if_pos (.inl h)

theorem bar2Read_off {p : Pkg} {now a len : Nat} (hw : p.portWrites = []) (hin : a + len ≤ 2 ^ 36)
    (h : bit p.regs.winctl 63 = false) : bar2Read p now a len = answered p a (some (2 ^ (8 * len) - 1)) := by
  simp [bar2Read, hw, inAperture_of_le hin, h, answered]

/-- The answer to a read of memory: an abort where one of its granules holds an error, which is logged, else the bytes. -/
def bar2Answer (s : State) (a len : Nat) : Option Nat → Pkg
  | some g => answered (logDetected s.pkg s.time (arraySource (3 * 4096 + homeOf (32 * g))) 1 (32 * g)) a none
  | none => answered s.pkg a (some (bar2Value s.pkg s.time (winAddr s.pkg a) len))

/-- A read that reaches memory and waits for nothing is answered. -/
theorem bar2Read_reaches {s : State} {a len : Nat} (hw : s.pkg.portWrites = []) (h : bar2Reaches s a len)
    (hbehind : behindRegion s.pkg 0 3 ((paGranules (winAddr s.pkg a) len).map (fun g => runKey g (winTag s.pkg))) = false)
    (hwaits : ∀ g ∈ paGranules (winAddr s.pkg a) len, readWaits s.pkg s.time 0 3 (runKey g (winTag s.pkg)) = false) :
    bar2Read s.pkg s.time a len = bar2Answer s a len
      ((paGranules (winAddr s.pkg a) len).find? (fun g => combineBad s.pkg s.time 0 3 (runKey g (winTag s.pkg)))) := by
  obtain ⟨hon, hin, hdram⟩ := h
  have hgo : ¬ (s.pkg.portWrites ≠ [] ∨ inAperture a len = false) := by simp [hw, inAperture_of_le hin]
  have hend : ¬ dramEnd < winAddr s.pkg a + len := Nat.not_lt.mpr hdram
  have hany : (paGranules (winAddr s.pkg a) len).any (fun g => readWaits s.pkg s.time 0 3 (runKey g (winTag s.pkg))) = false := by
    simpa using hwaits
  simp only [bar2Read, hgo, hon, hend, hbehind, hany, Bool.or_self, Bool.true_eq_false, Bool.false_eq_true, if_false]
  split
  next g hg => rw [hg]; rfl
  next hg => rw [hg]; rfl

/-! LQPORTs (R359). -/

/-- A reason for a refusal is never 0. -/
theorem lqWhy_ne_zero {p : Pkg} {now cl prio : Nat} {r : BitVec 256} {whole : Bool} {w : Nat} (h : lqWhy p now cl prio r whole = some w) :
    w ≠ 0 := by
  simp only [lqWhy] at h
  split_ifs at h <;> cases h <;> decide

theorem ite_some_eq_none_iff {α : Type} {c : Prop} [Decidable c] {w : α} {o : Option α} :
    (if c then some w else o) = none ↔ ¬ c ∧ o = none := by
  by_cases h : c <;> simp [h]

/-- A record that is not refused is a launch for this cluster and this priority, whose queue has room. -/
theorem lqWhy_none {p : Pkg} {now cl prio : Nat} {r : BitVec 256} (h : lqWhy p now cl prio r true = none) :
    recLaunch r = true ∧ clusterNo (recCore r) = cl ∧ recPrio r = prio ∧ queueFull p cl prio = false := by
  simp only [lqWhy, ite_some_eq_none_iff, Bool.not_eq_false, not_not, ne_eq, Bool.not_eq_true, and_true] at h
  obtain ⟨-, hkind, hcore, hprio, -, hfull⟩ := h
  exact ⟨hkind, hcore, hprio, hfull⟩

/-- The package after an LQPORT has refused a record. -/
def lqRefused (p : Pkg) (cl w : Nat) : Pkg :=
  updRegs (setCluster p cl { clusterOf p cl with ref := (clusterOf p cl).ref + 1, why := w }) (fun r => { r with due := r.due ++ [2] })

/-- The package after an LQPORT has taken a record. -/
def lqTaken (p : Pkg) (now cl prio : Nat) (r : BitVec 256) : Pkg :=
  let q := setQueue p cl prio (queueOf p cl prio ++ [⟨setFld r 3 1 0, now⟩])
  setCluster q cl { clusterOf q cl with acc := (clusterOf q cl).acc + 1 }

section
variable {p : Pkg} {now cl prio : Nat} {r : BitVec 256} {whole : Bool} (hw : p.portWrites = []) (hc : cl < 16) (hp : prio < 8)
include hw hc hp

theorem lqWrite_refused {w : Nat} (h : lqWhy p now cl prio r whole = some w) : lqWrite p now cl prio r whole = lqRefused p cl w := by
  simp [lqWrite, hw, Nat.not_le.mpr hc, Nat.not_le.mpr hp, h, lqRefused]

theorem lqWrite_taken (h : lqWhy p now cl prio r whole = none) : lqWrite p now cl prio r whole = lqTaken p now cl prio r := by
  simp [lqWrite, hw, Nat.not_le.mpr hc, Nat.not_le.mpr hp, h, lqTaken]

end

theorem clusterOf_setCluster_self (p : Pkg) (c : Nat) {k : Cluster} (h : k ≠ clusterReset) : clusterOf (setCluster p c k) c = k := by
  simp [clusterOf, setCluster, mapPut, h]

/-- A refusal has a reason, so that the cluster is not as at reset, and its ACC stands. -/
theorem acc_lqRefused (p : Pkg) (cl : Nat) {w : Nat} (h : w ≠ 0) : (clusterOf (lqRefused p cl w) cl).acc = (clusterOf p cl).acc := by
  have hk : ({ clusterOf p cl with ref := (clusterOf p cl).ref + 1, why := w } : Cluster) ≠ clusterReset :=
    fun he => h (congrArg Cluster.why he)
  have hacc := congrArg Cluster.acc (clusterOf_setCluster_self p cl hk)
  exact hacc

theorem mapPut_ne_nil {β : Type} [DecidableEq β] {d v : β} (m : SMap β) (k : Nat) (h : v ≠ d) : mapPut d m k v ≠ [] := by
  intro he
  have hfind := mapFind_insert_self m k v
  rw [mapPut, if_neg h] at he
  rw [he] at hfind
  exact absurd hfind (by simp)

theorem acc_lqTaken (p : Pkg) (now cl prio : Nat) (r : BitVec 256) :
    (clusterOf (lqTaken p now cl prio r) cl).acc = (clusterOf p cl).acc + 1 := by
  have hq : mapPut [] (clusterOf p cl).queues prio (queueOf p cl prio ++ [⟨setFld r 3 1 0, now⟩]) ≠ [] :=
    mapPut_ne_nil _ _ (by simp)
  have hset := clusterOf_setCluster_self p cl (k := { clusterOf p cl with
    queues := mapPut [] (clusterOf p cl).queues prio (queueOf p cl prio ++ [⟨setFld r 3 1 0, now⟩]) })
    (fun he => hq (congrArg Cluster.queues he))
  simp only [lqTaken, setQueue]
  rw [hset, clusterOf_setCluster_self _ _ (fun he => hq (congrArg Cluster.queues he))]

theorem lqPort_management_refused {p : Pkg} {now cl prio : Nat} {same : Bool} {r : BitVec 256} {whole : Bool}
    (hw : p.portWrites = []) (hc : cl < 16) (hp : prio < 8) (h : (lqWhy p now cl prio r whole).isSome = true) :
    lqPort p now .management same cl prio r whole = lqWrite p now cl prio r whole := by
  obtain ⟨w, hwhy⟩ := Option.isSome_iff_exists.mp h
  have hacc : (clusterOf (lqWrite p now cl prio r whole) cl).acc = (clusterOf p cl).acc := by
    rw [lqWrite_refused hw hc hp hwhy, acc_lqRefused p cl (lqWhy_ne_zero hwhy)]
  exact if_pos hacc

theorem lqPort_management_taken {p : Pkg} {now cl prio : Nat} {same : Bool} {r : BitVec 256} {whole : Bool}
    (hw : p.portWrites = []) (hc : cl < 16) (hp : prio < 8) (h : lqWhy p now cl prio r whole = none) :
    lqPort p now .management same cl prio r whole =
      lqMarked (lqWrite p now cl prio r whole) cl (some (prio, now, launchesAt (lqWrite p now cl prio r whole) cl prio now)) := by
  have hacc : (clusterOf (lqWrite p now cl prio r whole) cl).acc ≠ (clusterOf p cl).acc := by
    rw [lqWrite_taken hw hc hp h, acc_lqTaken]
    bv_omega
  exact if_neg hacc

theorem lqPort_host_alone {p : Pkg} {now cl prio : Nat} {same : Bool} {r : BitVec 256} {whole : Bool}
    (h : same = false ∨ lqTied p now cl prio = none) :
    lqPort p now .host same cl prio r whole = (if (clusterOf (lqWrite p now cl prio r whole) cl).lqTie.isSome then
      lqMarked (lqWrite p now cl prio r whole) cl none else lqWrite p now cl prio r whole) := by
  have hn : (if same then lqTied p now cl prio else none) = none := by
    rcases h with rfl | h
    · rfl
    · simp [h]
  simp only [lqPort, hn]
  rfl

/-! Vectors (R354). -/

theorem vectorRaise_notDue {p : Pkg} {v : Nat} (h : v ∉ p.regs.due) : vectorRaise p v = p := if_neg (by simpa using h)

theorem vectorRaise_sends {p : Pkg} {v : Nat} (h : v ∈ p.regs.due) (hm : vecMasked p v = false) :
    vectorRaise p v = { p with regs := { p.regs with due := p.regs.due.erase v, sent := p.regs.sent ++ [v] } } := by
  have hmask : vecMasked (updRegs p (fun r => { r with due := r.due.erase v })) v = false := hm
  simp only [vectorRaise, List.contains_iff_mem, h, if_true, raiseVec, hmask]
  rfl

theorem vectorRaise_pends {p : Pkg} {v : Nat} (h : v ∈ p.regs.due) (hm : vecMasked p v = true) :
    vectorRaise p v =
      { p with regs := { p.regs with due := p.regs.due.erase v, pba := p.regs.pba ||| BitVec.ofNat 64 (2 ^ v) } } := by
  have hmask : vecMasked (updRegs p (fun r => { r with due := r.due.erase v })) v = true := hm
  simp only [vectorRaise, List.contains_iff_mem, h, if_true, raiseVec, hmask]
  rfl

/-- The package with another MSI-X table. -/
def withMsix (p : Pkg) (m : SMap (BitVec 128)) : Pkg := updRegs p (fun r => { r with msix := m })

theorem pba_withMsix (p : Pkg) (m : SMap (BitVec 128)) : (withMsix p m).regs.pba = p.regs.pba := rfl
theorem sent_withMsix (p : Pkg) (m : SMap (BitVec 128)) : (withMsix p m).regs.sent = p.regs.sent := rfl

/-- The package with other pending bits and messages sent. -/
def withSent (p : Pkg) (pba : Word) (sent : List Nat) : Pkg := updRegs p (fun r => { r with pba := pba, sent := sent })

theorem pba_withSent (p : Pkg) (pba : Word) (sent : List Nat) : (withSent p pba sent).regs.pba = pba := rfl
theorem sent_withSent (p : Pkg) (pba : Word) (sent : List Nat) : (withSent p pba sent).regs.sent = sent := rfl
theorem vecMasked_withSent (p : Pkg) (pba : Word) (sent : List Nat) (v : Nat) :
    vecMasked (withSent p pba sent) v = vecMasked p v := rfl

/-- The MSI-X table with the mask bit of a vector cleared. -/
def maskCleared (m : SMap (BitVec 128)) (v : Nat) : SMap (BitVec 128) :=
  mapPut msixEntryReset m v (setFld (mapGet msixEntryReset m v) 96 1 0)

theorem vecMasked_maskCleared (p : Pkg) (v : Nat) : vecMasked (withMsix p (maskCleared p.regs.msix v)) v = false := by
  have hbit : bit (setFld (mapGet msixEntryReset p.regs.msix v) 96 1 0) 96 = false := bit_setFld_clear _ _
  have hne : setFld (mapGet msixEntryReset p.regs.msix v) 96 1 0 ≠ msixEntryReset := by
    intro he
    rw [he] at hbit
    exact absurd hbit (by decide)
  simp only [vecMasked, withMsix, updRegs, maskCleared, mapPut, if_neg hne, mapGet_insert_self, hbit]

theorem unmask_eq {p : Pkg} {v : Nat} (h : v < 64) : unmask p v = unmaskSend (withMsix p (maskCleared p.regs.msix v)) v := by
  simp only [unmask, Nat.not_le.mpr h, if_false, maskCleared, withMsix, updRegs]

/-- A pending vector sends its message as it is unmasked. -/
theorem unmask_pending {p : Pkg} {v : Nat} (h : v < 64) (hb : bit p.regs.pba v = true) :
    unmask p v = withSent (withMsix p (maskCleared p.regs.msix v)) (setFld p.regs.pba v 1 0) (p.regs.sent ++ [v]) := by
  rw [unmask_eq h, unmaskSend, pba_withMsix, if_pos ⟨vecMasked_maskCleared p v, hb⟩, ← pba_withMsix, ← sent_withMsix]
  rfl

theorem unmask_idle {p : Pkg} {v : Nat} (h : v < 64) (hb : bit p.regs.pba v = false) :
    unmask p v = withMsix p (maskCleared p.regs.msix v) := by
  rw [unmask_eq h, unmaskSend, pba_withMsix, hb, if_neg (by simp)]

/-! Ports of the pod (R361). -/

theorem linkLoss_of_port {cx : Cx} {port : Nat} {lost : List Nat} {x : Pkg × Site} (h : port < 16) :
    linkLoss cx port lost x =
      ((if (dedupNat (x.1.portsDown ++ [port])).length = 16 then List.range 1024 else lost.filter (fun q => decide (q < 1024))).foldl
        (fun q g => losePackage q cx g) { x.1 with portsDown := dedupNat (x.1.portsDown ++ [port]) }, x.2) :=
  if_neg (Nat.not_le.mpr h)

theorem portRetrained_down {port : Nat} {reached : List Nat} {x : Pkg × Site} (h : port ∈ x.1.portsDown) :
    portRetrained port reached x = ({ x.1 with
      unreachable := x.1.unreachable.filter (fun q => !reached.contains q), portsDown := x.1.portsDown.erase port }, x.2) :=
  if_pos (by simpa using h)

/-! Other packages (R15, R173, R201, R361). -/

section
variable {p : Pkg} {cx : Cx} {pk pa tag : Nat} (hpk : pk < 1024) (hself : pk ≠ p.regs.pkgnum) (hreach : pk ∉ p.unreachable)
  (hpa : pa < 0x6000000000) (htag : tag ≤ tagNone) (hkey : keyKilled p tag = false)
include hpk hself hreach

theorem packageAccess_not_ignored : ¬ (pk = p.regs.pkgnum ∨ 1024 ≤ pk ∨ p.unreachable.contains pk = true) := by
  simp [hself, hreach, Nat.not_le.mpr hpk]

include hpa htag hkey

theorem packageAccess_read (hbehind : behindRegion p 0 3 [runKey (pa / 32) tag] = false)
    (hwaits : readWaits p cx.now 0 3 (runKey (pa / 32) tag) = false) :
    packageAccess p cx pk (.read pa tag) =
      if combineBad p cx.now 0 3 (runKey (pa / 32) tag) then
        { logDetected p cx.now (arraySource (3 * 4096 + homeOf pa)) 1 pa with
          outbox := (logDetected p cx.now (arraySource (3 * 4096 + homeOf pa)) 1 pa).outbox ++ [(pk, 0, .refusal pa 0x30 0)] }
      else { p with outbox := p.outbox ++ [(pk, 0, .memValue pa (combineFrom p cx.now 0 3 (runKey (pa / 32) tag)).1)] } := by
  have hpa' : ¬ dramEnd ≤ pa := Nat.not_le.mpr hpa
  simp only [packageAccess, packageAccess_not_ignored hpk hself hreach, hpa',
    Nat.not_lt.mpr htag, hkey, hbehind, hwaits, Bool.false_eq_true, or_self,
    if_false]

theorem packageAccess_write (hbehind : behindRegion p 0 3 [runKey (pa / 32) tag] = false) {m : BitVec 32} {v : Granule} {q : Pkg}
    (hq : settleBlock p cx.now (runKey (pa / 32) tag)
      (insertAt p cx.now 3 (homeOf pa) (runKey (pa / 32) tag) { portRec p cx.now m v with pkg := pk }) = (q, true)) :
    packageAccess p cx pk (.write pa tag m v) = { q with outbox := q.outbox ++ [(pk, 0, .memDone pa)] } := by
  have hpa' : ¬ dramEnd ≤ pa := Nat.not_le.mpr hpa
  simp only [packageAccess, packageAccess_not_ignored hpk hself hreach, hpa',
    Nat.not_lt.mpr htag, hkey, hbehind, Bool.false_eq_true, or_self,
    if_false, hq, if_true]

theorem packageAccess_region_refused {va : Nat} (hline : pa % 128 = 0) (hpage : va % 65536 = pa % 65536) {src slot team asid ioff : Nat}
    {seq : BitVec 32} {body : List (BitVec 96 × BitVec 512)} {sregs : List Word} {preds : List Mask} (hops : farOps ioff body = none) :
    packageAccess p cx pk (.region src slot team asid pa va tag ioff seq body sregs preds) = p := by
  have hpa' : ¬ dramEnd ≤ pa := Nat.not_le.mpr hpa
  simp only [packageAccess, packageAccess_not_ignored hpk hself hreach, hpa',
    Nat.not_lt.mpr htag, hkey, hline, hpage, hops, ne_eq,
    not_true_eq_false, Bool.false_eq_true, or_self, if_false]

end

/-- A region whose body is admitted waits at its home, where the step says so. -/
theorem packageAccess_region_waits {s : State} {pk pa tag va : Nat} (hpk : pk < 1024) (hself : pk ≠ s.pkg.regs.pkgnum)
    (hreach : pk ∉ s.pkg.unreachable) (hpa : pa < 0x6000000000) (htag : tag ≤ tagNone) (hkey : keyKilled s.pkg tag = false)
    (hline : pa % 128 = 0) (hpage : va % 65536 = pa % 65536) {src slot team asid ioff : Nat} {seq : BitVec 32}
    {body : List (BitVec 96 × BitVec 512)} {sregs : List Word} {preds : List Mask} {ops : List RegOp}
    (hops : farOps ioff body = some ops) (hlater : s.turn.later = true) :
    packageAccess s.pkg (cxOf s) pk (.region src slot team asid pa va tag ioff seq body sregs preds) = { s.pkg with
      farRegions := s.pkg.farRegions ++ [farStanding s pk src slot team asid pa va tag ioff seq ops (farSlot sregs preds)] } := by
  have hpa' : ¬ dramEnd ≤ pa := Nat.not_le.mpr hpa
  have hlater' : (cxOf s).later = true := hlater
  simp only [packageAccess, packageAccess_not_ignored hpk hself hreach, hpa',
    Nat.not_lt.mpr htag, hkey, hline, hpage, hops, hlater', ne_eq,
    not_true_eq_false, Bool.false_eq_true, or_self, if_false, if_true]
  rfl

/-! The steps of the events. -/

section
variable {s : State} {q : Pkg}

theorem eventTo_bar2Write {a : Nat} {bs : List Byte} (h : bar2Write s.pkg s.time a bs = q) : eventTo (.bar2Write a bs) s q := h ▸ rfl

theorem eventTo_bar2Read {a len : Nat} (h : bar2Read s.pkg s.time a len = q) : eventTo (.bar2Read a len) s q := h ▸ rfl

theorem eventTo_lqportWrite {port : Port} {cl prio : Nat} {r : BitVec 256} {whole : Bool}
    (h : lqPort s.pkg s.time port s.turn.later cl prio r whole = q) : eventTo (.lqportWrite port cl prio r whole) s q := h ▸ rfl

theorem eventTo_cpsemRead {host management : Bool} (h : cpsemRead s.pkg host management = q) :
    eventTo (.cpsemRead host management) s q := h ▸ rfl

theorem eventTo_cpsemWrite {port : Port} {v : Word} (h : cpsemWrite s.pkg port v = q) : eventTo (.cpsemWrite port v) s q := h ▸ rfl

theorem eventTo_msixVectorRaise {v : Nat} (h : vectorRaise s.pkg v = q) : eventTo (.msixVectorRaise v) s q := h ▸ rfl

theorem eventTo_msixUnmask {v : Nat} (h : unmask s.pkg v = q) : eventTo (.msixUnmask v) s q := h ▸ rfl

theorem eventTo_remotePackageAccess {pk : Nat} {a : PodAccess} (h : packageAccess s.pkg (cxOf s) pk a = q) :
    eventTo (.remotePackageAccess pk a) s q := h ▸ rfl

theorem eventTo_roneelLinkLoss {port : Nat} {lost : List Nat} (h : linkLoss (cxOf s) port lost (s.pkg, s.site) = (q, s.site)) :
    eventTo (.roneelLinkLoss port lost) s q := siteTo_of_bothStep (ev := fun cx x => linkLoss cx port lost x) rfl h

theorem eventTo_roneelPortRetrained {port : Nat} {reached : List Nat}
    (h : portRetrained port reached (s.pkg, s.site) = (q, s.site)) : eventTo (.roneelPortRetrained port reached) s q :=
  siteTo_of_bothStep (ev := fun _ x => portRetrained port reached x) rfl h

end

/-! CPSEM (R299). -/

theorem cpsemTake_free {p : Pkg} {port : Nat} (h : p.regs.cpsem = 0) :
    cpsemTake p port = { answered p 0 (some 0) with regs := { p.regs with cpsem := port } } := by
  simp [cpsemTake, cpsemWord, h, answered, updRegs]

theorem cpsemTake_held {p : Pkg} {port : Nat} (h : p.regs.cpsem ≠ 0) :
    cpsemTake p port = answered p 0 (some (2 ^ 63 + p.regs.cpsem)) := by
  simp [cpsemTake, cpsemWord, h, answered]

theorem cpsemWrite_owner {p : Pkg} {port : Port} (h : p.regs.cpsem = portNo port) :
    cpsemWrite p port 0 = { p with regs := { p.regs with cpsem := 0, due := p.regs.due ++ [3] } } := if_pos ⟨rfl, h⟩

theorem cpsemWrite_other {p : Pkg} {port : Port} (v : Word) (h : p.regs.cpsem ≠ portNo port) : cpsemWrite p port v = p :=
  if_neg (fun ⟨_, he⟩ => h he)

end Sys2Proof.Machine

open Sys2Proof.Machine

/-- Settles O52, clause by clause from the equations of the ports' functions. -/
theorem portAccesses : Obligations.PortAccesses := by
  refine ⟨?bar2Write, ?bar2Read, ?lqWrite, ?lqport, ?lqWhy, ?cpsem, ?raise, ?noVector, ?unmask, ?noPackage, ?access, ?loss, ?retrained,
    ?region⟩
  case bar2Write =>
    exact fun s a bs => ⟨fun h => eventTo_bar2Write (bar2Write_reaches h), fun h => eventTo_bar2Write (bar2Write_off h)⟩
  case bar2Read =>
    intro s a len hin
    refine ⟨fun h => eventTo_bar2Read (bar2Read_behindWrites h), fun hw h => eventTo_bar2Read (bar2Read_off hw hin h),
      fun hw h => ?_⟩
    intro keys hbehind hwaits
    have hread := bar2Read_reaches hw h hbehind (fun g hg => hwaits _ (List.mem_map_of_mem hg))
    refine ⟨fun hgood => eventTo_bar2Read ?_, fun hbad => ?_⟩
    · rw [hread, List.find?_eq_none.mpr (fun g hg => by simp [hgood _ (List.mem_map_of_mem hg)])]
      rfl
    · obtain ⟨k, hk, hkbad⟩ := hbad
      obtain ⟨g0, hg0, rfl⟩ := List.mem_map.mp hk
      obtain ⟨g, hfind⟩ := Option.isSome_iff_exists.mp (List.find?_isSome
        (p := fun g => combineBad s.pkg s.time 0 3 (runKey g (winTag s.pkg))) |>.mpr ⟨g0, hg0, hkbad⟩)
      exact ⟨g, List.mem_of_find?_eq_some hfind, eventTo_bar2Read (by rw [hread, hfind]; rfl)⟩
  case lqWrite =>
    exact fun p now cl prio r whole hw hc hp => ⟨fun w h => lqWrite_refused hw hc hp h, fun h => lqWrite_taken hw hc hp h⟩
  case lqport =>
    intro s cl prio r whole hw hc hp
    refine ⟨fun h => eventTo_lqportWrite (lqPort_management_refused hw hc hp h),
      fun h => eventTo_lqportWrite (lqPort_management_taken hw hc hp h), fun h => eventTo_lqportWrite (lqPort_host_alone h),
      fun i m hlater htied => eventTo_lqportWrite ?_⟩
    simp only [lqPort, hlater, if_true, htied]
    rfl
  case lqWhy => exact fun p now cl prio r h => lqWhy_none h
  case cpsem =>
    exact fun s => ⟨fun h => eventTo_cpsemRead (cpsemTake_free h), fun h => eventTo_cpsemRead (cpsemTake_free h),
      fun h => eventTo_cpsemRead (cpsemTake_held h), fun h => eventTo_cpsemWrite (cpsemWrite_owner (port := .host) h),
      fun h => eventTo_cpsemWrite (cpsemWrite_owner (port := .management) h),
      fun h => eventTo_cpsemWrite (cpsemWrite_other (port := .host) 0 h)⟩
  case raise =>
    exact fun s v => ⟨fun h => eventTo_msixVectorRaise (vectorRaise_notDue h),
      fun h hm => eventTo_msixVectorRaise (vectorRaise_sends h hm), fun h hm => eventTo_msixVectorRaise (vectorRaise_pends h hm)⟩
  case noVector => exact fun s v h => eventTo_msixUnmask (if_pos h)
  case unmask =>
    intro s v hv
    refine ⟨unmask s.pkg v, eventTo_msixUnmask rfl, ?_⟩
    cases hb : bit s.pkg.regs.pba v with
    | true =>
      rw [unmask_pending hv hb, vecMasked_withSent, vecMasked_maskCleared, pba_withSent, bit_setFld_clear, sent_withSent, if_pos rfl]
      exact ⟨rfl, rfl, rfl⟩
    | false =>
      rw [unmask_idle hv hb, vecMasked_maskCleared, pba_withMsix, hb, sent_withMsix, if_neg (by decide)]
      exact ⟨rfl, rfl, rfl⟩
  case noPackage => exact fun s pk a h => eventTo_remotePackageAccess (if_pos (.inr (.inl h)))
  case access =>
    intro s pk pa tag hpk hself hreach hpa htag hkey hbehind
    refine ⟨fun hwaits => ?_, fun m v q hq =>
      eventTo_remotePackageAccess (packageAccess_write hpk hself hreach hpa htag hkey hbehind hq)⟩
    have hread := packageAccess_read (cx := cxOf s) hpk hself hreach hpa htag hkey hbehind hwaits
    exact ⟨fun hgood => eventTo_remotePackageAccess (hread.trans (if_neg (by simp [cxOf, hgood]))),
      fun hbad => eventTo_remotePackageAccess (hread.trans (if_pos hbad))⟩
  case loss =>
    intro s port lost hport
    have hloss := linkLoss_of_port (cx := cxOf s) (lost := lost) (x := (s.pkg, s.site)) hport
    refine ⟨fun h => eventTo_roneelLinkLoss ?_, fun h => eventTo_roneelLinkLoss ?_⟩
    · rw [hloss, if_neg h]
    · rw [hloss, if_pos h]
  case retrained => exact fun s port reached h => eventTo_roneelPortRetrained (portRetrained_down h)
  case region =>
    intro s pk src slot team asid pa va tag ioff seq body sregs preds hpk hself hreach hpa htag hkey hline hpage
    exact ⟨fun h => eventTo_remotePackageAccess (packageAccess_region_refused hpk hself hreach hpa htag hkey hline hpage h),
      fun ops h hlater =>
        eventTo_remotePackageAccess (packageAccess_region_waits hpk hself hreach hpa htag hkey hline hpage h hlater)⟩
end

section
/-!
The lists that SMRG emits (R228, R229): MRG is the library's stable merge, UNION and ISECT hold the values of either and of both, and of
rising lists each of them rises.
-/
namespace Sys2Proof.Machine

/-! Rising lists. -/

theorem rises_iff_pairwise (xs : List Int) : rises xs = true ↔ xs.Pairwise (· ≤ ·) := by
  rw [← List.isChain_iff_pairwise]
  fun_induction rises xs with
  | case1 x y rest ih => simp [ih]
  | case2 t h =>
    match t with
    | [] => simp
    | [_] => simp
    | x :: y :: rest => exact absurd rfl (h x y rest)

/-! MRG. -/

@[simp] theorem mergeLists_nil_left (ys : List Int) : mergeLists [] ys = ys := by simp [mergeLists]

@[simp] theorem mergeLists_nil_right (xs : List Int) : mergeLists xs [] = xs := by cases xs <;> simp [mergeLists]

theorem mergeLists_cons (x y : Int) (xs ys : List Int) : mergeLists (x :: xs) (y :: ys) =
    (if x ≤ y then x :: mergeLists xs (y :: ys) else y :: mergeLists (x :: xs) ys) := by
  simp only [mergeLists]

theorem mergeLists_eq_merge (xs ys : List Int) : mergeLists xs ys = xs.merge ys (fun a b => decide (a ≤ b)) := by
  fun_induction mergeLists xs ys with
  | case1 ys => simp
  | case2 xs _ => simp
  | case3 x xs y ys h ih => simp [h, ih]
  | case4 x xs y ys h ih => simp [h, ih]

theorem mergeLists_perm (xs ys : List Int) : (mergeLists xs ys).Perm (xs ++ ys) :=
  mergeLists_eq_merge xs ys ▸ List.merge_perm_append _

theorem rises_mergeLists {xs ys : List Int} (hx : rises xs = true) (hy : rises ys = true) : rises (mergeLists xs ys) = true := by
  rw [rises_iff_pairwise] at *
  exact mergeLists_eq_merge xs ys ▸ hx.merge hy

/-! UNION. -/

@[simp] theorem uniteLists_nil_left (ys : List Int) : uniteLists [] ys = ys := by simp [uniteLists]

@[simp] theorem uniteLists_nil_right (xs : List Int) : uniteLists xs [] = xs := by cases xs <;> simp [uniteLists]

theorem uniteLists_cons (x y : Int) (xs ys : List Int) : uniteLists (x :: xs) (y :: ys) =
    (if x < y then x :: uniteLists xs (y :: ys) else if y < x then y :: uniteLists (x :: xs) ys else x :: uniteLists xs ys) := by
  simp only [uniteLists]

theorem mem_uniteLists (v : Int) (xs ys : List Int) : v ∈ uniteLists xs ys ↔ v ∈ xs ∨ v ∈ ys := by
  fun_induction uniteLists xs ys with
  | case1 ys => simp
  | case2 xs _ => simp
  | case3 x xs y ys h ih => simp only [List.mem_cons, ih, or_assoc]
  | case4 x xs y ys h h' ih => simp only [List.mem_cons, ih]; tauto
  | case5 x xs y ys h h' ih =>
    obtain rfl : x = y := by omega
    simp only [List.mem_cons, ih]
    tauto

theorem pairwise_uniteLists {xs ys : List Int} (hx : xs.Pairwise (· ≤ ·)) (hy : ys.Pairwise (· ≤ ·)) :
    (uniteLists xs ys).Pairwise (· ≤ ·) := by
  fun_induction uniteLists xs ys with
  | case1 ys => exact hy
  | case2 xs _ => exact hx
  | case3 x xs y ys h ih =>
    obtain ⟨hxs, hx'⟩ := List.pairwise_cons.mp hx
    obtain ⟨hys, -⟩ := List.pairwise_cons.mp hy
    refine List.pairwise_cons.mpr ⟨fun v hv => ?_, ih hx' hy⟩
    rcases (mem_uniteLists v xs (y :: ys)).mp hv with hv | hv
    · exact hxs v hv
    · rcases List.mem_cons.mp hv with rfl | hv
      · exact le_of_lt h
      · exact (le_of_lt h).trans (hys v hv)
  | case4 x xs y ys h h' ih =>
    obtain ⟨hxs, -⟩ := List.pairwise_cons.mp hx
    obtain ⟨hys, hy'⟩ := List.pairwise_cons.mp hy
    refine List.pairwise_cons.mpr ⟨fun v hv => ?_, ih hx hy'⟩
    rcases (mem_uniteLists v (x :: xs) ys).mp hv with hv | hv
    · rcases List.mem_cons.mp hv with rfl | hv
      · exact le_of_lt h'
      · exact (le_of_lt h').trans (hxs v hv)
    · exact hys v hv
  | case5 x xs y ys h h' ih =>
    obtain rfl : x = y := by omega
    obtain ⟨hxs, hx'⟩ := List.pairwise_cons.mp hx
    obtain ⟨hys, hy'⟩ := List.pairwise_cons.mp hy
    refine List.pairwise_cons.mpr ⟨fun v hv => ?_, ih hx' hy'⟩
    rcases (mem_uniteLists v xs ys).mp hv with hv | hv
    · exact hxs v hv
    · exact hys v hv

/-! ISECT. -/

@[simp] theorem meetLists_nil_left (ys : List Int) : meetLists [] ys = [] := by simp [meetLists]

@[simp] theorem meetLists_nil_right (xs : List Int) : meetLists xs [] = [] := by cases xs <;> simp [meetLists]

theorem meetLists_cons (x y : Int) (xs ys : List Int) : meetLists (x :: xs) (y :: ys) =
    (if x < y then meetLists xs (y :: ys) else if y < x then meetLists (x :: xs) ys else x :: meetLists xs ys) := by
  simp only [meetLists]

theorem meetLists_sublist (xs ys : List Int) : (meetLists xs ys).Sublist xs := by
  fun_induction meetLists xs ys with
  | case1 ys => exact .refl _
  | case2 xs _ => exact List.nil_sublist _
  | case3 x xs y ys h ih => exact ih.cons x
  | case4 x xs y ys h h' ih => exact ih
  | case5 x xs y ys h h' ih => exact ih.cons_cons x

theorem mem_right_of_mem_meetLists {v : Int} {xs ys : List Int} (h : v ∈ meetLists xs ys) : v ∈ ys := by
  fun_induction meetLists xs ys with
  | case1 ys => simp at h
  | case2 xs _ => simp at h
  | case3 x xs y ys _ ih => exact ih h
  | case4 x xs y ys _ _ ih => exact List.mem_cons_of_mem _ (ih h)
  | case5 x xs y ys hxy hyx ih =>
    obtain rfl : x = y := by omega
    rcases List.mem_cons.mp h with rfl | h
    · exact List.mem_cons_self
    · exact List.mem_cons_of_mem _ (ih h)

/-- A value less than the head of a rising list is none of its values. -/
theorem not_mem_of_lt_head {x y : Int} {ys : List Int} (hy : (y :: ys).Pairwise (· ≤ ·)) (h : x < y) : x ∉ y :: ys := by
  intro hx
  rcases List.mem_cons.mp hx with rfl | hx
  · exact lt_irrefl _ h
  · exact absurd (List.rel_of_pairwise_cons hy hx) (not_le.mpr h)

theorem mem_meetLists_of_mem {v : Int} {xs ys : List Int} (hx : xs.Pairwise (· ≤ ·)) (hy : ys.Pairwise (· ≤ ·)) (hvx : v ∈ xs)
    (hvy : v ∈ ys) : v ∈ meetLists xs ys := by
  fun_induction meetLists xs ys with
  | case1 ys => exact hvx
  | case2 xs _ => exact hvy
  | case3 x xs y ys h ih =>
    have hne : v ≠ x := fun he => not_mem_of_lt_head hy h (he ▸ hvy)
    exact ih hx.of_cons hy (List.mem_of_ne_of_mem hne hvx) hvy
  | case4 x xs y ys _ h ih =>
    have hne : v ≠ y := fun he => not_mem_of_lt_head hx h (he ▸ hvx)
    exact ih hx hy.of_cons hvx (List.mem_of_ne_of_mem hne hvy)
  | case5 x xs y ys hxy hyx ih =>
    obtain rfl : x = y := by omega
    rcases List.mem_cons.mp hvx with rfl | hvx'
    · exact List.mem_cons_self
    · rcases List.mem_cons.mp hvy with rfl | hvy'
      · exact List.mem_cons_self
      · exact List.mem_cons_of_mem _ (ih hx.of_cons hy.of_cons hvx' hvy')

/-! What SMRG emits. -/

theorem smrgOut_isect_rising (free : Nat) {xs ys : List Int} (hx : rises xs = true) (hy : rises ys = true) :
    smrgOut 1 free xs ys = meetLists xs ys := by
  simp only [smrgOut, hx, hy, Bool.and_self, if_true]

/-- Of any lists ISECT keeps some of the first, in their order. -/
theorem smrgOut_isect_sublist (free : Nat) (xs ys : List Int) : (smrgOut 1 free xs ys).Sublist xs := by
  simp only [smrgOut]
  split
  case isTrue => exact meetLists_sublist xs ys
  case isFalse =>
    have hsub := (List.filter_sublist (l := xs.zipIdx) (p := fun x => ys.contains x.1 && Config.isectPick free x.2)).map (·.1)
    rwa [List.zipIdx_map_fst] at hsub

theorem mem_right_of_mem_isect {free : Nat} {xs ys : List Int} {v : Int} (h : v ∈ smrgOut 1 free xs ys) : v ∈ ys := by
  simp only [smrgOut] at h
  split at h
  case isTrue => exact mem_right_of_mem_meetLists h
  case isFalse =>
    obtain ⟨e, he, rfl⟩ := List.mem_map.mp h
    have hkeep := (List.mem_filter.mp he).2
    simp only [Bool.and_eq_true, List.contains_iff_mem] at hkeep
    exact hkeep.1

end Sys2Proof.Machine
end

section
/-!
Scratchpad writes (R2, R158): what bytes a write leaves, as one fold of byte writes over the list of what is written; the rest of the
core but for its holds and its errors stands.
-/
namespace Sys2Proof.Machine

/-! Byte writes. -/

/-- Bytes written one after another, by offset. -/
def putAll (m : SMap Byte) (l : List (Nat × Byte)) : SMap Byte := l.foldl (fun s e => mapPut 0 s e.1 e.2) m

theorem mapSorted_put {β : Type} [DecidableEq β] (d : β) {m : SMap β} (h : mapSorted 0 m = true) (k : Nat) (v : β) :
    mapSorted 0 (mapPut d m k v) = true := by
  simp only [mapPut]
  split
  case isTrue => exact mapSorted_erase h k
  case isFalse => exact mapSorted_insert h (Nat.zero_le k) v

theorem putAll_other {x : Nat} {l : List (Nat × Byte)} (m : SMap Byte) (h : ∀ e ∈ l, e.1 ≠ x) :
    mapGet 0 (putAll m l) x = mapGet 0 m x := by
  induction l generalizing m with
  | nil => rfl
  | cons e rest ih =>
    have hrest := ih (mapPut 0 m e.1 e.2) (fun e' he' => h e' (List.mem_cons_of_mem _ he'))
    exact hrest.trans (mapGet_put_other 0 m e.2 (h e List.mem_cons_self).symm)

/-- A byte reads as what is written there, where every write to it writes the same. -/
theorem putAll_self {x : Nat} {b : Byte} {l : List (Nat × Byte)} {m : SMap Byte} (hm : mapSorted 0 m = true) (hx : (x, b) ∈ l)
    (hb : ∀ e ∈ l, e.1 = x → e.2 = b) : mapGet 0 (putAll m l) x = b := by
  induction l generalizing m with
  | nil => exact absurd hx List.not_mem_nil
  | cons e rest ih =>
    have hb' : ∀ e' ∈ rest, e'.1 = x → e'.2 = b := fun e' he' => hb e' (List.mem_cons_of_mem _ he')
    by_cases hin : ∃ e' ∈ rest, e'.1 = x
    · obtain ⟨e', he', rfl⟩ := hin
      obtain rfl := hb' e' he' rfl
      exact ih (mapSorted_put 0 hm e.1 e.2) he' hb'
    · rcases List.mem_cons.mp hx with rfl | hx
      · have hrest := putAll_other (mapPut 0 m x b) (fun e' he' hk => hin ⟨e', he', hk⟩)
        exact hrest.trans (mapGet_put_self 0 hm x b)
      · exact absurd ⟨_, hx, rfl⟩ hin

/-! Writes word by word. -/

theorem mem_foldl_dedup (l acc : List Nat) (y : Nat) :
    y ∈ l.foldl (fun l w => if l.contains w then l else l ++ [w]) acc ↔ y ∈ acc ∨ y ∈ l := by
  induction l generalizing acc with
  | nil => simp
  | cons a rest ih =>
    simp only [List.foldl_cons, ih, List.mem_cons]
    split
    case isTrue h =>
      have ha : a ∈ acc := List.contains_iff_mem.mp h
      constructor
      · tauto
      · rintro (h | rfl | h) <;> tauto
    case isFalse => simp only [List.mem_append, List.mem_singleton, or_assoc]

theorem mem_wordsOf (m : SMap Byte) (w : Nat) : w ∈ wordsOf m ↔ ∃ e ∈ m, e.1 / 8 = w := by
  simp only [wordsOf, mem_foldl_dedup, List.not_mem_nil, false_or, List.mem_map]

/-- The bytes of a write in the order in which they are written: word by word. -/
def writeOrder (m : SMap Byte) : List (Nat × Byte) := (wordsOf m).flatMap (fun w => m.filter (fun e => decide (e.1 / 8 = w)))

theorem mem_writeOrder (m : SMap Byte) (e : Nat × Byte) : e ∈ writeOrder m ↔ e ∈ m := by
  simp only [writeOrder, List.mem_flatMap, mem_wordsOf, List.mem_filter, decide_eq_true_eq]
  exact ⟨fun ⟨_, _, he, _⟩ => he, fun he => ⟨e.1 / 8, ⟨e, he, rfl⟩, he, rfl⟩⟩

theorem scr_foldl_scrWord (k : Part) (now : Nat) (m : SMap Byte) (ws : List Nat) :
    (ws.foldl (fun q w => scrWord q now w (m.filter (fun e => decide (e.1 / 8 = w)))) k).scr =
      putAll k.scr (ws.flatMap (fun w => m.filter (fun e => decide (e.1 / 8 = w)))) := by
  induction ws generalizing k with
  | nil => rfl
  | cons w rest ih =>
    simp only [List.foldl_cons, ih, List.flatMap_cons, putAll, List.foldl_append]
    rfl

theorem scr_scrPut (k : Part) (now : Nat) (m : SMap Byte) : (scrPut k now m).scr = putAll k.scr (writeOrder m) :=
  scr_foldl_scrWord k now m (wordsOf m)

/-- The core but for its bytes, what its slots hold for, and the errors of its words. -/
def sameButScr (k q : Part) : Prop := q = { k with scr := q.scr, slots := q.slots, badWords := q.badWords }

theorem fields_of_sameButScr {k q : Part} (h : sameButScr k q) : q.smrgq = k.smrgq ∧ q.vregs = k.vregs ∧ q.acc = k.acc := by
  rw [sameButScr] at h
  rw [h]
  exact ⟨rfl, rfl, rfl⟩

theorem sameButScr_trans {k q r : Part} (h : sameButScr k q) (h' : sameButScr q r) : sameButScr k r := by
  rw [sameButScr] at *
  rw [h', h]

theorem sameButScr_foldl {α : Type} (l : List α) {g : Part → α → Part} (hg : ∀ q a, sameButScr q (g q a)) (k : Part) :
    sameButScr k (l.foldl g k) := by
  induction l generalizing k with
  | nil => rfl
  | cons a rest ih => exact sameButScr_trans (hg k a) (ih (g k a))

theorem sameButScr_scrPut (k : Part) (now : Nat) (m : SMap Byte) : sameButScr k (scrPut k now m) :=
  sameButScr_trans (sameButScr_foldl (wordsOf m)
    (g := fun q w => scrWord q now w (m.filter (fun e => decide (e.1 / 8 = w)))) (fun _ _ => rfl) k) rfl

/-! Contiguous bytes. -/

/-- Contiguous bytes by offset. -/
def spread (a : Nat) (bs : List Byte) : List (Nat × Byte) := (bs.zipIdx).map (fun x => (a + x.2, x.1))

theorem mem_spread {a x : Nat} {b : Byte} {bs : List Byte} : (x, b) ∈ spread a bs ↔ ∃ i, bs[i]? = some b ∧ x = a + i := by
  simp only [spread, List.mem_map, Prod.exists, List.mem_zipIdx_iff_getElem?, Prod.mk.injEq]
  constructor
  · rintro ⟨_, i, hi, rfl, rfl⟩
    exact ⟨i, hi, rfl⟩
  · rintro ⟨i, hi, rfl⟩
    exact ⟨b, i, hi, rfl, rfl⟩

theorem scr_scrWrite (k : Part) (now a : Nat) (bs : List Byte) : (scrWrite k now a bs).scr = putAll k.scr (writeOrder (spread a bs)) :=
  scr_scrPut k now _

theorem sameButScr_scrWrite (k : Part) (now a : Nat) (bs : List Byte) : sameButScr k (scrWrite k now a bs) :=
  sameButScr_scrPut k now _

/-! Numbers and their bytes. -/

@[simp] theorem length_leBytes (n v : Nat) : (leBytes n v).length = n := by
  induction n generalizing v with
  | zero => rfl
  | succ n ih => simp [leBytes, ih]

theorem leNat_leBytes (n v : Nat) : leNat (leBytes n v) = v % 256 ^ n := by
  induction n generalizing v with
  | zero => simp [leBytes, leNat, Nat.mod_one]
  | succ n ih =>
    have hrest : leNat (leBytes (n + 1) v) = leNat (leBytes n (v / 256)) * 256 + v % 256 := rfl
    rw [hrest, ih, Nat.pow_succ', Nat.mod_mul]
    omega

/-- n bytes read as the number whose bytes stand there. -/
theorem scrNat_of_bytes {k : Part} {a n v : Nat} (h : ∀ (i : Nat) (b : Byte), (leBytes n v)[i]? = some b → scrByte k (a + i) = b)
    (hv : v < 256 ^ n) : scrNat k a n = v := by
  have hbytes : scrBytes k a n = leBytes n v := by
    refine List.ext_getElem (by simp [scrBytes]) (fun i hi hi' => ?_)
    simp only [scrBytes, List.getElem_map, List.getElem_range]
    exact h i _ (List.getElem?_eq_getElem hi')
  rw [scrNat, hbytes, leNat_leBytes, Nat.mod_eq_of_lt hv]

theorem wrapInt_lt (w : Nat) (i : Int) : wrapInt w i < 2 ^ w := by
  have hpos : (0 : Int) < ((2 ^ w : Nat) : Int) := by exact_mod_cast Nat.two_pow_pos w
  have hlt := Int.emod_lt_of_pos i hpos
  have hge := Int.emod_nonneg i hpos.ne'
  simp only [wrapInt]
  omega

end Sys2Proof.Machine
end

section
/-!
SMRG (R17, R114, R228, R229): the elements of a list and its values, the command's issue and its turn, and what the performed command
leaves in scratchpad and in %SMRES.
-/
namespace Sys2Proof.Machine
open Sys2Proof.Claims

/-! The elements of a list. -/

theorem checkEls_of_each {e : Bits512} {w : Word} {n : Nat} {write : Bool} {base : List Int} {is : List Nat} {g : Nat → El}
    (h : ∀ i ∈ is, checkEl e w n write base i = .ok (g i)) : checkEls e w n write base is = .ok (is.map g) := by
  induction is with
  | nil => rfl
  | cons i rest ih =>
    simp only [checkEls, h i List.mem_cons_self, ih (fun j hj => h j (List.mem_cons_of_mem _ hj)), List.map_cons]

theorem length_of_checkEls {e : Bits512} {w : Word} {n : Nat} {write : Bool} {base : List Int} {is : List Nat} {els : List El}
    (h : checkEls e w n write base is = .ok els) : els.length = is.length := by
  induction is generalizing els with
  | nil =>
    cases h
    rfl
  | cons i rest ih =>
    simp only [checkEls] at h
    split at h
    next => cases h
    next =>
      split at h
      next => cases h
      next xs hxs =>
        cases h
        simp only [List.length_cons, ih hxs]

/-- An element inside L, aligned and within scratchpad, is accessed. -/
theorem checkEl_inside {e : Bits512} {w : Word} {n : Nat} {base : List Int} {i : Nat} (write : Bool)
    (hin : insideLay e (moveIdx base (vecStep (layType e) * (i : Int))) = true)
    (hal : alignOk (layType e) (elemAddr e (moveIdx base (vecStep (layType e) * (i : Int)))) = true)
    (hfit : scrFits (tySize (layType e)) (elemAddr e (moveIdx base (vecStep (layType e) * (i : Int)))) = true) :
    checkEl e w n write base i = .ok (i, some (moveIdx base (vecStep (layType e) * (i : Int)))) := by
  cases write <;> simp [checkEl, readAt, checkAddr, hin, hal, hfit]

/-- The index of element i of a list. -/
def listIdx (e : Bits512) (i : Nat) : List Int := moveIdx (elemIndex e 0) (vecStep (layType e) * ((i : Nat) : Int))

/-- The elements of a list all of which lie inside it. -/
def listAll (e : Bits512) : List El := (List.range (listLen e)).map (fun i => (i, some (listIdx e i)))

theorem listEntry_of_operand {s : State} {n : Nat} {e : Bits512} (h : listOperand s n e) : listEntry s.part n = .ok e := by
  obtain ⟨hlay, hok, hspace, hrank, htype, -⟩ := h
  have hentry : entryFor s.part n 0 [1] = .ok e := by simp [entryFor, entryOf, hlay, hok, hspace]
  have htypes : List.contains [6, 4, 7, 0, 3] (layType e) = true := List.contains_iff_mem.mpr htype
  simp only [listEntry, seamEntry, hentry, htypes, hrank, ne_eq, not_true_eq_false, Bool.true_eq_false, if_false]

theorem listEls_of_operand {s : State} {n : Nat} {e : Bits512} (h : listOperand s n e) (write : Bool) :
    listEls e n write = .ok (listAll e) := by
  obtain ⟨-, -, -, -, -, hels⟩ := h
  refine checkEls_of_each (g := fun i => (i, some (listIdx e i))) (fun i hi => ?_)
  obtain ⟨hin, hal, hfit⟩ := hels i (List.mem_range.mp hi)
  exact checkEl_inside write hin hal hfit

theorem listRange_listAll (e : Bits512) : listRange e (listAll e) = listBytes e := by
  simp only [listRange, listBytes, elAddrs, listAll, List.filterMap_map]
  exact congrArg _ (congrFun (List.filterMap_eq_map (f := fun i => elemAddr e (listIdx e i))) _)

theorem listVals_of_listEls {k : Part} {e : Bits512} {els : List El} (h : listEls e 0 false = .ok els) :
    listVals k e = els.map (fun x => match x.2 with
      | some idx => listValue e (scrNat k (elemAddr e idx).toNat (tySize (layType e)))
      | none => 0) := by
  simp only [listVals, h]
  rfl

theorem getElem?_listVals {k : Part} {e : Bits512} {els : List El} (h : listEls e 0 false = .ok els) {j a : Nat}
    (ha : elementAt e els j a) : (listVals k e)[j]? = some (listValue e (scrNat k a (tySize (layType e)))) := by
  obtain ⟨n, idx, hj, rfl⟩ := ha
  rw [listVals_of_listEls h, List.getElem?_map, hj]
  rfl

/-! The issue of SMRG (R114, R228). -/

theorem smrg_entry_error {s : State} {f : Fields} {t : Trap} (h : listEntry s.part (opdLay f.d) = .error t) :
    smrg f (cxOf s) s.pkg = .trap t := by
  have h' : listEntry (partOf s.pkg (cxOf s).core) (opdLay f.d) = .error t := h
  simp only [smrg, h', allOk]

section
variable {s : State} {f : Fields} {d a b : Bits512} (hd : listEntry s.part (opdLay f.d) = .ok d)
  (ha : listEntry s.part (opdLay f.a) = .ok a) (hb : listEntry s.part (opdLay (bDesc f.b)) = .ok b)
include hd ha hb

theorem smrg_types_differ (h : layType d ≠ layType a ∨ layType d ≠ layType b) :
    smrg f (cxOf s) s.pkg = .trap { bareTrap causeBounds (cxOf s) with sub := 4 } := by
  have hd' : listEntry (partOf s.pkg (cxOf s).core) (opdLay f.d) = .ok d := hd
  have ha' : listEntry (partOf s.pkg (cxOf s).core) (opdLay f.a) = .ok a := ha
  have hb' : listEntry (partOf s.pkg (cxOf s).core) (opdLay (bDesc f.b)) = .ok b := hb
  simp only [smrg, hd', ha', hb', allOk]
  exact if_pos h

theorem smrg_queues (hta : layType d = layType a) (htb : layType d = layType b) {e1 e2 e3 : List El}
    (h1 : listEls d (opdLay f.d) true = .ok e1) (h2 : listEls a (opdLay f.a) false = .ok e2)
    (h3 : listEls b (opdLay (bDesc f.b)) false = .ok e3) :
    smrg f (cxOf s) s.pkg = if spansMeet (listRange a e2 ++ listRange b e3) (listRange d e1) = true
      then .trap (bareTrap causeBounds (cxOf s)) else .done (smrgQueued s (smrgCmdOf s f d a b)) := by
  have hd' : listEntry (partOf s.pkg (cxOf s).core) (opdLay f.d) = .ok d := hd
  have ha' : listEntry (partOf s.pkg (cxOf s).core) (opdLay f.a) = .ok a := ha
  have hb' : listEntry (partOf s.pkg (cxOf s).core) (opdLay (bDesc f.b)) = .ok b := hb
  have htypes : ¬ (layType d ≠ layType a ∨ layType d ≠ layType b) := by simp [← hta, ← htb]
  simp only [smrg, hd', ha', hb', allOk]
  refine (if_neg htypes).trans ?_
  simp only [List.getD_cons_zero, List.getD_cons_succ, h1, h2, h3, allOk]
  rfl

theorem exec_smrg_queues {e1 e2 e3 : List El} (hr : runs (.smrg f) .lane0 s = true) (hta : layType d = layType a)
    (htb : layType d = layType b) (h1 : listEls d (opdLay f.d) true = .ok e1) (h2 : listEls a (opdLay f.a) false = .ok e2)
    (h3 : listEls b (opdLay (bDesc f.b)) false = .ok e3) :
    exec (.smrg f) s = .next (if spansMeet (listRange a e2 ++ listRange b e3) (listRange d e1) = true
      then trapState s f (bareTrap causeBounds (cxOf s)) else advance s f (smrgQueued s (smrgCmdOf s f d a b))) := by
  have hbody := smrg_queues hd ha hb hta htb h1 h2 h3
  split at hbody
  case isTrue h => exact (issue_trap rfl hr hbody).trans (by rw [if_pos h])
  case isFalse h => exact (issue_done rfl hr hbody).trans (by rw [if_neg h])

end

/-! Its turn (R17, R114). -/

section
variable {p : Pkg} {cx : Cx} {c : Nat} {x : SmrgCmd} {rest : List SmrgCmd} (hq : (partOf p c).smrgq = x :: rest)
include hq

theorem completeSmrg_waiting (h : x.waiting = true) : completeSmrg p cx c = p := by
  simp only [completeSmrg, hq, h, Bool.true_or, if_true]

theorem completeSmrg_pending (hw : x.waiting = false) (hmay : engineMay (partOf p c) x.board = true)
    (hs : (coreOf p c).switching = false) (hm : manglePending p c = true) :
    completeSmrg p cx c = setPart p c { partOf p c with smrgq := { x with waiting := true } :: rest } := by
  simp [completeSmrg, hq, hw, hmay, hs, hm]

theorem completeSmrg_performs (hw : x.waiting = false) (hmay : engineMay (partOf p c) x.board = true)
    (hs : (coreOf p c).switching = false) (hm : manglePending p c = false) (hbad : (partOf p c).badWords = []) :
    completeSmrg p cx c =
      { setPart p c (runSmrg { partOf p c with smrgq := rest } cx.now p.freeNo x) with freeNo := p.freeNo + 1 } := by
  simp [completeSmrg, hq, hw, hmay, hs, hm, smrgBad, hbad]

end

theorem eventTo_smrgComplete {s : State} {c : Nat} {q : Pkg} (h : completeSmrg s.pkg (cxOf s) c = q) :
    eventTo (.smrgComplete c) s q := h ▸ rfl

theorem eventTo_smrgResume {s : State} {c : Nat} {q : Pkg} (h : resumeSmrg s.pkg c = q) : eventTo (.smrgResume c) s q := h ▸ rfl

/-! The command performed (R228, R229). -/

/-- The bytes that a value emitted writes to its element. -/
def emitted (d : Bits512) (y : Int × El) : List (Nat × Byte) :=
  match y.2.2 with
  | some idx => spread (elemAddr d idx).toNat
      (leBytes (tySize (layType d)) (wrapInt (8 * tySize (layType d)) y.1))
  | none => []

/-- Scratchpad after one value is written to its element. -/
def emitOne (d : Bits512) (now : Nat) (q : Part) (y : Int × El) : Part :=
  match y.2.2 with
  | some idx => scrWrite q now (elemAddr d idx).toNat (leBytes (tySize (layType d)) (wrapInt (8 * tySize (layType d)) y.1))
  | none => q

theorem scr_emitOne (d : Bits512) (now : Nat) (q : Part) (y : Int × El) :
    (emitOne d now q y).scr = putAll q.scr (writeOrder (emitted d y)) := by
  simp only [emitOne, emitted]
  split
  next => exact scr_scrWrite ..
  next => rfl

theorem sameButScr_emitOne (d : Bits512) (now : Nat) (q : Part) (y : Int × El) : sameButScr q (emitOne d now q y) := by
  simp only [emitOne]
  split
  next => exact sameButScr_scrWrite ..
  next => rfl

theorem scr_foldl_emitOne (d : Bits512) (now : Nat) (k : Part) (ys : List (Int × El)) :
    (ys.foldl (emitOne d now) k).scr = putAll k.scr (ys.flatMap (fun y => writeOrder (emitted d y))) := by
  induction ys generalizing k with
  | nil => rfl
  | cons y rest ih => rw [List.foldl_cons, ih, scr_emitOne, List.flatMap_cons, putAll, putAll, putAll, List.foldl_append]

/-- Scratchpad after a command has emitted its values, as far as Ld reaches. -/
def emitAll (k : Part) (now : Nat) (d : Bits512) (els : List El) (out : List Int) : Part :=
  ((out.take (listLen d)).zip els).foldl (emitOne d now) k

theorem runSmrg_eq {k : Part} {x : SmrgCmd} {els : List El} (now free : Nat) (h : listEls x.d 0 true = .ok els) :
    runSmrg k now free x =
      let out := smrgOut x.mode free (listVals k x.a) (listVals k x.b)
      setSmres (emitAll k now x.d els out) x.slot x.ctx
        (BitVec.ofNat 64 (min (listLen x.d) out.length + (if listLen x.d < out.length then 2 ^ 32 else 0))) := by
  simp only [runSmrg, h]
  congr 2
  simp only [b2n, decide_eq_true_eq]
  split <;> simp

theorem mem_zip_take {α β : Type} {xs : List α} {ys : List β} {cap : Nat} {y : α × β} :
    y ∈ (xs.take cap).zip ys ↔ ∃ j, j < cap ∧ xs[j]? = some y.1 ∧ ys[j]? = some y.2 := by
  simp only [List.mem_iff_getElem?, List.getElem?_zip_eq_some, List.getElem?_take, Option.ite_none_right_eq_some, and_assoc]

/-- The bytes that a command writes: those of the value of each element that it reaches. -/
theorem mem_emittedAll {d : Bits512} {els : List El} {out : List Int} {x : Nat} {b : Byte} :
    (x, b) ∈ ((out.take (listLen d)).zip els).flatMap (fun y => writeOrder (emitted d y)) ↔
      ∃ j a i, j < min (listLen d) out.length ∧ elementAt d els j a ∧
        (leBytes (tySize (layType d)) (wrapInt (8 * tySize (layType d)) (out.getD j 0)))[i]? = some b ∧ x = a + i := by
  simp only [List.mem_flatMap, mem_writeOrder, mem_zip_take]
  constructor
  · rintro ⟨⟨v, n, o⟩, ⟨j, hcap, hv, he⟩, hb⟩
    cases o with
    | none => exact absurd hb List.not_mem_nil
    | some idx =>
      obtain ⟨i, hi, rfl⟩ := mem_spread.mp hb
      refine ⟨j, _, i, lt_min hcap (List.getElem?_eq_some_iff.mp hv).1, ⟨n, idx, he, rfl⟩, ?_, rfl⟩
      rwa [List.getD_eq_getElem?_getD, hv]
  · rintro ⟨j, a, i, hj, ⟨n, idx, he, rfl⟩, hi, rfl⟩
    obtain ⟨hcap, hlen⟩ := lt_min_iff.mp hj
    refine ⟨(out.getD j 0, n, some idx), ⟨j, hcap, ?_, he⟩, mem_spread.mpr ⟨i, hi, rfl⟩⟩
    rw [List.getD_eq_getElem _ _ hlen, List.getElem?_eq_getElem hlen]

theorem elementAt_unique {d : Bits512} {els : List El} {j a a' : Nat} (h : elementAt d els j a) (h' : elementAt d els j a') : a = a' := by
  obtain ⟨n, idx, hj, rfl⟩ := h
  obtain ⟨n', idx', hj', rfl⟩ := h'
  rw [hj] at hj'
  cases hj'
  rfl

/-- Two elements with a byte in common are one. -/
theorem eq_of_elements_meet {d : Bits512} {els : List El} (hapart : elementsApart d els) {j j' a a' i i' : Nat}
    (h : elementAt d els j a) (h' : elementAt d els j' a') (hi : i < tySize (layType d)) (hi' : i' < tySize (layType d))
    (hmeet : a + i = a' + i') : j = j' := by
  rcases lt_trichotomy j j' with hlt | heq | hlt
  · have := hapart j j' a a' hlt h h'
    omega
  · exact heq
  · have := hapart j' j a' a hlt h' h
    omega

theorem scr_emitAll (k : Part) (now : Nat) (d : Bits512) (els : List El) (out : List Int) : (emitAll k now d els out).scr =
    putAll k.scr (((out.take (listLen d)).zip els).flatMap (fun y => writeOrder (emitted d y))) := scr_foldl_emitOne d now k _

theorem sameButScr_emitAll (k : Part) (now : Nat) (d : Bits512) (els : List El) (out : List Int) :
    sameButScr k (emitAll k now d els out) := sameButScr_foldl _ (sameButScr_emitOne d now) k

/-- The element takes its value. -/
theorem scrNat_emitAll {k : Part} {d : Bits512} {els : List El} {out : List Int} {j a : Nat} (now : Nat) (hapart : elementsApart d els)
    (hs : mapSorted 0 k.scr = true) (hj : j < min (listLen d) out.length) (ha : elementAt d els j a) :
    scrNat (emitAll k now d els out) a (tySize (layType d)) = wrapInt (8 * tySize (layType d)) (out.getD j 0) := by
  have hv : wrapInt (8 * tySize (layType d)) (out.getD j 0) < 256 ^ tySize (layType d) := by
    rw [show 256 = 2 ^ 8 from rfl, ← Nat.pow_mul]
    exact wrapInt_lt _ _
  refine scrNat_of_bytes (fun i b hi => ?_) hv
  rw [scrByte, scr_emitAll]
  refine putAll_self hs (mem_emittedAll.mpr ⟨j, a, i, hj, ha, hi, rfl⟩) (fun e he hea => ?_)
  obtain ⟨x, b'⟩ := e
  obtain ⟨j', a', i', -, ha', hi', rfl⟩ := mem_emittedAll.mp he
  have hlt := (List.getElem?_eq_some_iff.mp hi).1
  have hlt' := (List.getElem?_eq_some_iff.mp hi').1
  rw [length_leBytes] at hlt hlt'
  obtain rfl := eq_of_elements_meet hapart ha' ha hlt' hlt hea
  obtain rfl := elementAt_unique ha' ha
  obtain rfl : i' = i := Nat.add_left_cancel hea
  exact Option.some.inj (hi'.symm.trans hi)

/-- Bytes of no element that is reached stand. -/
theorem scrByte_emitAll_other {k : Part} {d : Bits512} {els : List El} {out : List Int} {x : Nat} (now : Nat)
    (h : ∀ j a : Nat, j < min (listLen d) out.length → elementAt d els j a → ¬ (a ≤ x ∧ x < a + tySize (layType d))) :
    scrByte (emitAll k now d els out) x = scrByte k x := by
  rw [scrByte, scr_emitAll]
  refine putAll_other _ (fun e he hex => ?_)
  obtain ⟨x', b⟩ := e
  obtain ⟨j, a, i, hj, ha, hi, rfl⟩ := mem_emittedAll.mp he
  have hlt := (List.getElem?_eq_some_iff.mp hi).1
  rw [length_leBytes] at hlt
  exact h j a hj ha (by simp only at hex; omega)

/-! %SMRES. -/

theorem scr_setSmres (k : Part) (slot ctx : Nat) (v : Word) : (setSmres k slot ctx v).scr = k.scr := by
  simp only [setSmres]
  split <;> rfl

theorem slotOf_setSmres {k : Part} {slot ctx : Nat} (v : Word) (hlive : (slotOf k (slotNow k slot ctx)).live = true)
    (hctx : (slotOf k (slotNow k slot ctx)).ctx = ctx) :
    slotOf (setSmres k slot ctx v) (slotNow k slot ctx) = { slotOf k (slotNow k slot ctx) with smres := v } := by
  simp only [setSmres]
  rw [if_pos (by simp [hlive, hctx])]
  exact slotOf_setSlot_self k _ (ne_slotReset hlive)

end Sys2Proof.Machine

open Sys2Proof.Machine

/-- Settles O35: the issue and the turn by the branches of `smrg` and `completeSmrg`, what is written as one fold of byte writes, and the
three merges by induction along their own recursion. -/
theorem sortedLists : Obligations.SortedLists := by
  refine ⟨?issue, ?turn, ?resume, ?performed, ?smres, ?values, ?emits, ?steps, mergeLists_perm, ?rising⟩
  case issue =>
    intro s f d a b hr
    refine ⟨fun hd ha hb => ⟨fun htypes => ?_, fun e1 e2 e3 hta htb h1 h2 h3 => exec_smrg_queues hd ha hb hr hta htb h1 h2 h3⟩,
      fun t ht => ?_, fun hd ha hb hta htb happart => ?_⟩
    · exact issue_trap rfl hr (smrg_types_differ hd ha hb htypes)
    · exact issue_trap rfl hr (smrg_entry_error ht)
    · have hexec := exec_smrg_queues (listEntry_of_operand hd) (listEntry_of_operand ha) (listEntry_of_operand hb) hr hta htb
        (listEls_of_operand hd true) (listEls_of_operand ha false) (listEls_of_operand hb false)
      simpa only [listRange_listAll, happart, Bool.false_eq_true, if_false] using hexec
  case turn =>
    intro s c x rest hq
    exact ⟨fun hw => eventTo_smrgComplete (completeSmrg_waiting hq hw), fun hw hmay hs =>
      ⟨fun hm => eventTo_smrgComplete (completeSmrg_pending hq hw hmay hs hm),
        fun hm hbad => eventTo_smrgComplete (completeSmrg_performs hq hw hmay hs hm hbad)⟩⟩
  case resume => exact fun s c => eventTo_smrgResume rfl
  case performed =>
    intro k now free x els hels hapart hs
    have hsame := sameButScr_emitAll k now x.d els (smrgOut x.mode free (listVals k x.a) (listVals k x.b))
    exact ⟨_, runSmrg_eq now free hels, fun j a hj ha => scrNat_emitAll now hapart hs hj ha,
      fun b hb => scrByte_emitAll_other now hb, fields_of_sameButScr hsame⟩
  case smres => exact fun k slot ctx v => ⟨scr_setSmres k slot ctx v, fun hlive hctx => slotOf_setSmres v hlive hctx⟩
  case values =>
    intro k e els hels
    refine ⟨?_, fun j a ha => getElem?_listVals hels ha⟩
    rw [listVals_of_listEls hels, List.length_map, length_of_checkEls hels, List.length_range]
  case emits =>
    exact fun free xs ys => ⟨rfl, rfl, smrgOut_isect_rising free, smrgOut_isect_sublist free xs ys,
      fun v hv => mem_right_of_mem_isect hv⟩
  case steps =>
    exact fun x y xs ys => ⟨mergeLists_nil_right xs, mergeLists_nil_left ys, uniteLists_nil_right xs, uniteLists_nil_left ys,
      meetLists_nil_right xs, meetLists_nil_left ys, mergeLists_cons x y xs ys, uniteLists_cons x y xs ys, meetLists_cons x y xs ys⟩
  case rising =>
    intro xs ys hx hy
    have hx' := (rises_iff_pairwise xs).mp hx
    have hy' := (rises_iff_pairwise ys).mp hy
    exact ⟨rises_mergeLists hx hy, fun v => mem_uniteLists v xs ys,
      fun v => ⟨fun h => ⟨(meetLists_sublist xs ys).subset h, mem_right_of_mem_meetLists h⟩,
        fun h => mem_meetLists_of_mem hx' hy' h.1 h.2⟩,
      (rises_iff_pairwise _).mpr (pairwise_uniteLists hx' hy'), (rises_iff_pairwise _).mpr (hx'.sublist (meetLists_sublist xs ys))⟩
end

section
/-!
The decoder and the encoder (R25 to R35, R44, R49): the opcode map read both ways, the operands back from their bits, the fields of a
word, and the two halves of the round trip.
-/
namespace Sys2Proof
open Machine

/-- Each row of a group makes the instructions of its own code, the codes rising from `n` (R49). -/
def codesFrom : Nat → List Row → Prop
  | _, [] => True
  | n, r :: rs => (∀ f : Fields, (r.make f).word = some (n, f)) ∧ codesFrom (n + 1) rs

theorem codesFrom_getElem? {n k : Nat} {rs : List Row} {r : Row} (h : codesFrom n rs) (hr : rs[k]? = some r) (f : Fields) :
    (r.make f).word = some (n + k, f) := by
  induction rs generalizing n k with
  | nil => simp at hr
  | cons r' rs ih =>
    cases k with
    | zero => cases hr; exact h.1 f
    | succ k =>
      rw [ih h.2 (by simpa using hr)]
      congr 2; omega

/-- A row found at a code's place in its group makes the instructions of that code. -/
theorem word_make_of_group {n c : Nat} {rs : List Row} {r : Row} (h : codesFrom n rs) (hr : rs[c - n]? = some r) (hc : n ≤ c)
    (f : Fields) : (r.make f).word = some (c, f) := by
  rw [codesFrom_getElem? h hr, Nat.add_sub_cancel' hc]

theorem codesFrom_controlRows : codesFrom 0x001 controlRows := by simp [codesFrom, controlRows, Instr.word]
theorem codesFrom_scalarRows : codesFrom 0x020 scalarRows := by simp [codesFrom, scalarRows, Instr.word]
theorem codesFrom_laneRows : codesFrom 0x040 laneRows := by simp [codesFrom, laneRows, Instr.word]
theorem codesFrom_intRows : codesFrom 0x060 intRows := by simp [codesFrom, intRows, Instr.word]
theorem codesFrom_floatRows : codesFrom 0x080 floatRows := by simp [codesFrom, floatRows, Instr.word]
theorem codesFrom_convRows : codesFrom 0x0A0 convRows := by simp [codesFrom, convRows, Instr.word]
theorem codesFrom_matrixRows : codesFrom 0x0C0 matrixRows := by simp [codesFrom, matrixRows, Instr.word]
theorem codesFrom_memoryRows : codesFrom 0x0E0 memoryRows := by simp [codesFrom, memoryRows, Instr.word]
theorem codesFrom_scratchRows : codesFrom 0x100 scratchRows := by simp [codesFrom, scratchRows, Instr.word]
theorem codesFrom_engineRows : codesFrom 0x120 engineRows := by simp [codesFrom, engineRows, Instr.word]
theorem codesFrom_taskRows : codesFrom 0x140 taskRows := by simp [codesFrom, taskRows, Instr.word]
theorem codesFrom_systemRows : codesFrom 0x160 systemRows := by simp [codesFrom, systemRows, Instr.word]

/-- R44: the row of a code makes the instructions of that code. -/
theorem word_make {c : Nat} {row : Row} (h : rowOf c = some row) (f : Fields) : (row.make f).word = some (c, f) := by
  unfold rowOf at h
  split at h
  · split at h
    · cases h
    · exact word_make_of_group codesFrom_controlRows h (by omega) f
  · exact word_make_of_group codesFrom_scalarRows h (by omega) f
  · exact word_make_of_group codesFrom_laneRows h (by omega) f
  · exact word_make_of_group codesFrom_intRows h (by omega) f
  · exact word_make_of_group codesFrom_floatRows h (by omega) f
  · exact word_make_of_group codesFrom_convRows h (by omega) f
  · exact word_make_of_group codesFrom_matrixRows h (by omega) f
  · exact word_make_of_group codesFrom_memoryRows h (by omega) f
  · exact word_make_of_group codesFrom_scratchRows h (by omega) f
  · exact word_make_of_group codesFrom_engineRows h (by omega) f
  · exact word_make_of_group codesFrom_taskRows h (by omega) f
  · exact word_make_of_group codesFrom_systemRows h (by omega) f
  · cases h

/-- R44, R49: the opcode of a word lies below 512, and its row makes the instruction from its fields. -/
theorem row_of_word {i : Instr} {c : Nat} {f : Fields} (h : i.word = some (c, f)) :
    c < 512 ∧ ∃ row, rowOf c = some row ∧ row.make f = i := by
  cases i <;> cases h <;> exact ⟨by decide, _, rfl, rfl⟩

/-- R33: the descriptor bits of a decoded operand are the bits it was decoded from. -/
theorem encodeOpd_of_decodeOpd {w : BitVec 16} {o : Opd} (h : decodeOpd w = some o) : encodeOpd o = w.toNat := by
  have hw := w.isLt
  unfold decodeOpd at h
  dsimp only at h
  split at h
  · split at h <;> cases h
    simp only [encodeOpd, BitVec.toNat_ofNat]; omega
  · split at h <;> cases h
    simp only [encodeOpd, BitVec.toNat_ofNat]; omega
  · split at h <;> cases h
    simp only [encodeOpd, BitVec.toNat_ofNat]; omega
  · cases h
    simp only [encodeOpd, BitVec.toNat_ofNat]; omega
  · cases h
    simp only [encodeOpd, BitVec.toNat_ofNat]; omega
  · split at h <;> cases h
    simp only [encodeOpd, BitVec.toNat_ofNat, decide_eq_true_eq]; split <;> omega
  · cases h
    simp only [encodeOpd, BitVec.toNat_ofNat]; omega
  · split at h <;> cases h
    simp only [encodeOpd, BitVec.toNat_ofNat]; omega
  · split at h <;> cases h
    simp only [encodeOpd, BitVec.toNat_ofNat]; omega
  · split at h <;> cases h
    simp only [encodeOpd]; omega
  · cases h

/-- R31: the kind and the bits of a decoded B field are those it was decoded from. -/
theorem encodeB_of_decodeB {bk w : Nat} {b : BOpd} (h : decodeB bk w = some b) (hbk : bk < 4) (hw : w < 2 ^ 32) :
    encodeB b = (bk, w) := by
  unfold decodeB at h
  split at h
  · split at h
    · obtain ⟨o, ho, rfl⟩ := Option.map_eq_some_iff.mp h
      have := encodeOpd_of_decodeOpd ho
      simp only [encodeB, this, BitVec.toNat_ofNat, Prod.mk.injEq, true_and]; omega
    · cases h
  · cases h
    simp only [encodeB, BitVec.toNat_ofNat, Prod.mk.injEq, true_and]; omega
  · split at h <;> cases h
    simp only [encodeB, BitVec.toNat_ofNat, Prod.mk.injEq, true_and]; omega
  · next h0 h1 h2 =>
    have h3 : 3 = bk := by have : bk ≠ 0 := h0; have : bk ≠ 1 := h1; have : bk ≠ 2 := h2; omega
    cases h
    simp only [encodeB, BitVec.toNat_ofNat, Prod.mk.injEq, h3, true_and]; omega

/-- The fields of a word around its three operands (R25). -/
def wordFields (n : Nat) (d a : Opd) (b : BOpd) : Fields :=
  { md := BitVec.ofNat 9 (n / 2 ^ 78 % 512), gneg := decide (n / 2 ^ 74 % 16 / 8 = 1), gp := BitVec.ofNat 3 (n / 2 ^ 74 % 16),
    yld := BitVec.ofNat 3 (n / 2 ^ 71), reuseA := decide (n / 2 ^ 70 % 2 = 1), reuseB := decide (n / 2 ^ 69 % 2 = 1),
    long := decide (n / 2 ^ 68 % 2 = 1), d := d, a := a, b := b }

/-- R25: a word decodes to an instruction when its code has a row, its reserved bits and its guard are legal, its MOD fits the row,
its operands decode and their classes fit the row. -/
theorem decodeWord_eq_ok_iff {w : BitVec 96} {i : Instr} :
    decodeWord w = .ok i ↔ ∃ (row : Row) (d a : Opd) (b : BOpd), rowOf (w.toNat / 2 ^ 87) = some row ∧
      w.toNat / 2 ^ 64 % 4 = 0 ∧ w.toNat / 2 ^ 74 % 16 ≠ 15 ∧ modOk (w.toNat / 2 ^ 87) row (w.toNat / 2 ^ 78 % 512) = true ∧
      decodeOpd (BitVec.ofNat 16 (w.toNat / 2 ^ 48)) = some d ∧ decodeOpd (BitVec.ofNat 16 (w.toNat / 2 ^ 32)) = some a ∧
      decodeB (w.toNat / 2 ^ 66 % 4) (w.toNat % 2 ^ 32) = some b ∧
      classOk (w.toNat / 2 ^ 87) row (wordFields w.toNat d a b) = true ∧ row.make (wordFields w.toNat d a b) = i := by
  constructor
  · intro h
    simp only [decodeWord] at h
    split at h
    · cases h
    · next row hrow =>
      split at h
      · cases h
      · next hlegal =>
        simp only [not_or, Decidable.not_not, Bool.not_eq_false] at hlegal
        obtain ⟨hzero, hguard, hmod⟩ := hlegal
        split at h
        · next d a b hd ha hb =>
          split at h
          · next hcls => cases h; exact ⟨row, d, a, b, hrow, hzero, hguard, hmod, hd, ha, hb, hcls, rfl⟩
          · cases h
        · cases h
  · rintro ⟨row, d, a, b, hrow, hzero, hguard, hmod, hd, ha, hb, hcls, rfl⟩
    unfold wordFields at hcls ⊢
    simp only [decodeWord, hrow, hzero, hguard, hmod, hd, ha, hb]
    rw [if_neg (by simp), if_pos hcls]

/-- The number that fields under an opcode make (R25). -/
def packFieldsNat (c : Nat) (f : Fields) : Nat :=
  c * 2 ^ 87 + f.md.toNat * 2 ^ 78 + f.gneg.toNat * 2 ^ 77 + f.gp.toNat * 2 ^ 74 + f.yld.toNat * 2 ^ 71 + f.reuseA.toNat * 2 ^ 70 +
    f.reuseB.toNat * 2 ^ 69 + f.long.toNat * 2 ^ 68 + (encodeB f.b).1 * 2 ^ 66 + encodeOpd f.d * 2 ^ 48 + encodeOpd f.a * 2 ^ 32 +
    (encodeB f.b).2

theorem encodeB_lt (b : BOpd) : (encodeB b).1 < 4 ∧ (encodeB b).2 < 2 ^ 32 := by
  cases b with
  | desc o => have := encodeOpd_lt o; simp only [encodeB]; omega
  | imm v => have := v.isLt; simp only [encodeB]; omega
  | win k off => have := k.isLt; have := off.isLt; simp only [encodeB]; omega
  | fimm v => have := v.isLt; simp only [encodeB]; omega

/-- The widths of the parts of a word (R25). -/
theorem fields_lt (f : Fields) : f.md.toNat < 2 ^ 9 ∧ f.gneg.toNat < 2 ∧ f.gp.toNat < 2 ^ 3 ∧ f.yld.toNat < 2 ^ 3 ∧ f.reuseA.toNat < 2 ∧
    f.reuseB.toNat < 2 ∧ f.long.toNat < 2 ∧ encodeOpd f.d < 65536 ∧ encodeOpd f.a < 65536 ∧ (encodeB f.b).1 < 4 ∧
    (encodeB f.b).2 < 2 ^ 32 :=
  ⟨f.md.isLt, f.gneg.toNat_lt, f.gp.isLt, f.yld.isLt, f.reuseA.toNat_lt, f.reuseB.toNat_lt, f.long.toNat_lt, encodeOpd_lt f.d,
    encodeOpd_lt f.a, encodeB_lt f.b⟩

theorem ite_eq_toNat_mul (b : Bool) (n : Nat) : (if b = true then n else 0) = b.toNat * n := by cases b <;> simp

theorem toNat_encodeFields {c : Nat} (hc : c < 512) (f : Fields) : (encodeFields c f).toNat = packFieldsNat c f := by
  have := fields_lt f
  simp only [encodeFields, ite_eq_toNat_mul, BitVec.toNat_ofNat, packFieldsNat]
  apply Nat.mod_eq_of_lt
  omega

/-- Where the parts of a packed word stand (R25, R26, R31). -/
theorem packFieldsNat_parts (c : Nat) (f : Fields) :
    packFieldsNat c f / 2 ^ 87 = c ∧ packFieldsNat c f / 2 ^ 64 % 4 = 0 ∧
      packFieldsNat c f / 2 ^ 74 % 16 = 8 * f.gneg.toNat + f.gp.toNat ∧ packFieldsNat c f / 2 ^ 78 % 512 = f.md.toNat ∧
      packFieldsNat c f / 2 ^ 48 % 2 ^ 16 = encodeOpd f.d ∧ packFieldsNat c f / 2 ^ 32 % 2 ^ 16 = encodeOpd f.a ∧
      packFieldsNat c f / 2 ^ 66 % 4 = (encodeB f.b).1 ∧ packFieldsNat c f % 2 ^ 32 = (encodeB f.b).2 ∧
      packFieldsNat c f / 2 ^ 71 % 8 = f.yld.toNat ∧ packFieldsNat c f / 2 ^ 70 % 2 = f.reuseA.toNat ∧
      packFieldsNat c f / 2 ^ 69 % 2 = f.reuseB.toNat ∧ packFieldsNat c f / 2 ^ 68 % 2 = f.long.toNat := by
  have := fields_lt f
  simp only [packFieldsNat]
  refine ⟨?_, ?_, ?_, ?_, ?_, ?_, ?_, ?_, ?_, ?_, ?_, ?_⟩ <;> omega

theorem decide_toNat_eq_one (b : Bool) : decide (b.toNat = 1) = b := by cases b <;> rfl

/-- A packed word's fields are those it was packed from. -/
theorem wordFields_packFieldsNat (c : Nat) (f : Fields) : wordFields (packFieldsNat c f) f.d f.a f.b = f := by
  obtain ⟨-, -, hguard, hmd, -, -, -, -, hyld, hra, hrb, hlong⟩ := packFieldsNat_parts c f
  have hgp := f.gp.isLt
  have hgneg : (8 * f.gneg.toNat + f.gp.toNat) / 8 = f.gneg.toNat := by omega
  have hgp3 : BitVec.ofNat 3 (8 * f.gneg.toNat + f.gp.toNat) = f.gp := by
    apply BitVec.eq_of_toNat_eq; simp only [BitVec.toNat_ofNat]; omega
  have hyld3 : BitVec.ofNat 3 (packFieldsNat c f / 2 ^ 71) = f.yld := by
    apply BitVec.eq_of_toNat_eq; simp only [BitVec.toNat_ofNat]; exact hyld
  unfold wordFields
  rw [hguard, hmd, hyld3, hra, hrb, hlong, hgneg, hgp3]
  simp only [decide_toNat_eq_one, BitVec.ofNat_toNat, BitVec.setWidth_eq]

/-- A word with legal reserved bits is packed from its own code and fields. -/
theorem packFieldsNat_wordFields {n : Nat} {d a : Opd} {b : BOpd} (hzero : n / 2 ^ 64 % 4 = 0)
    (hd : encodeOpd d = n / 2 ^ 48 % 2 ^ 16) (ha : encodeOpd a = n / 2 ^ 32 % 2 ^ 16)
    (hb : encodeB b = (n / 2 ^ 66 % 4, n % 2 ^ 32)) : packFieldsNat (n / 2 ^ 87) (wordFields n d a b) = n := by
  have bit_toNat (x : Nat) : (decide (x % 2 = 1)).toNat = x % 2 := by
    rcases Nat.mod_two_eq_zero_or_one x with h | h <;> simp [h]
  have sign_toNat : (decide (n / 2 ^ 74 % 16 / 8 = 1)).toNat = n / 2 ^ 74 % 16 / 8 := by
    rw [← Nat.mod_eq_of_lt (show n / 2 ^ 74 % 16 / 8 < 2 by omega)]; exact bit_toNat _
  simp only [packFieldsNat, wordFields, hd, ha, hb, BitVec.toNat_ofNat, bit_toNat, sign_toNat]
  omega

/-- R2: the twelve bytes of a word make it again. -/
theorem wordOfBytes_bytesOfWord (w : BitVec 96) : wordOfBytes (bytesOfWord w) = w := by
  have hbytes : bytesOfWord w = leBytes 12 w.toNat := by
    simp [bytesOfWord, leBytes, List.range_succ, Nat.div_div_eq_div_mul]
  have htake : (leBytes 12 w.toNat).take 12 = leBytes 12 w.toNat := List.take_of_length_le (by rw [length_leBytes])
  change BitVec.ofNat 96 (leNat ((bytesOfWord w).take 12)) = w
  rw [hbytes, htake, leNat_leBytes]
  exact BitVec.eq_of_toNat_eq (by have := w.isLt; rw [BitVec.toNat_ofNat]; omega)

/-- R25 to R35: a well-formed instruction decodes from its word. -/
theorem decodeWord_encode {i : Instr} (hi : i.isWord = true) (hwf : i.wf = true) : decodeWord (encode i) = .ok i := by
  obtain ⟨⟨c, f⟩, hw⟩ := Option.isSome_iff_exists.mp hi
  obtain ⟨hc, row, hrow, hmake⟩ := row_of_word hw
  simp only [Instr.wf, hw, hrow, Bool.and_eq_true, Bool.not_eq_true', Bool.and_eq_false_iff, decide_eq_false_iff_not] at hwf
  obtain ⟨⟨hguard, hmod⟩, hcls⟩ := hwf
  obtain ⟨hcode, hzero, hg, hmd, hd, ha, hbk, hbw, -⟩ := packFieldsNat_parts c f
  have hopd {o : Opd} {n : Nat} (h : n % 2 ^ 16 = encodeOpd o) : decodeOpd (BitVec.ofNat 16 n) = some o := by
    rw [← decodeOpd_encodeOpd o, ← h]; congr 1; apply BitVec.eq_of_toNat_eq; simp
  simp only [encode, hw]
  rw [decodeWord_eq_ok_iff, toNat_encodeFields hc]
  refine ⟨row, f.d, f.a, f.b, by rw [hcode, hrow], hzero, ?_, by rw [hcode, hmd]; exact hmod, hopd hd, hopd ha,
    by rw [hbk, hbw]; exact decodeB_encodeB f.b, by rw [hcode, wordFields_packFieldsNat]; exact hcls,
    by rw [wordFields_packFieldsNat]; exact hmake⟩
  rw [hg]
  have := fields_lt f
  rcases hguard with h | h
  · rw [h, Bool.toNat_false]; omega
  · have : f.gp.toNat ≠ 7 := fun h7 => h (BitVec.eq_of_toNat_eq h7)
    omega

/-- R25 to R35: what a word decodes to is a well-formed instruction word, and encodes to that word. -/
theorem encode_of_decodeWord {w : BitVec 96} {i : Instr} (h : decodeWord w = .ok i) :
    i.isWord = true ∧ i.wf = true ∧ encode i = w := by
  obtain ⟨row, d, a, b, hrow, hzero, hguard, hmod, hd, ha, hb, hcls, rfl⟩ := decodeWord_eq_ok_iff.mp h
  have hw := word_make hrow (wordFields w.toNat d a b)
  refine ⟨by rw [Instr.isWord, hw]; rfl, ?_, ?_⟩
  · have hmd : (wordFields w.toNat d a b).md.toNat = w.toNat / 2 ^ 78 % 512 := by
      simp only [wordFields, BitVec.toNat_ofNat]; omega
    have hg : ((wordFields w.toNat d a b).gneg && decide ((wordFields w.toNat d a b).gp = 7)) = false := by
      simp only [wordFields, Bool.and_eq_false_iff, decide_eq_false_iff_not, ← BitVec.toNat_inj, BitVec.toNat_ofNat,
        show BitVec.toNat (7 : BitVec 3) = 7 from rfl]
      omega
    simp only [Instr.wf, hw, hrow, hmd, hmod, hcls, hg]; rfl
  · rw [encode, hw]
    apply BitVec.eq_of_toNat_eq
    rw [toNat_encodeFields (row_of_word hw).1]
    exact packFieldsNat_wordFields hzero (by simpa using encodeOpd_of_decodeOpd hd) (by simpa using encodeOpd_of_decodeOpd ha)
      (encodeB_of_decodeB hb (Nat.mod_lt _ (by decide)) (Nat.mod_lt _ (by decide)))

end Sys2Proof

/-- Settles O57: the encoder and the decoder undo each other, field by field and through the twelve bytes of a word. -/
theorem decodeOfEncode : Obligations.DecodeOfEncode := by
  refine ⟨fun i hi hwf => ⟨Sys2Proof.decodeWord_encode hi hwf, ?_⟩, fun w i h => Sys2Proof.encode_of_decodeWord h⟩
  rw [Sys2Proof.decode, Sys2Proof.wordOfBytes_bytesOfWord, Sys2Proof.decodeWord_encode hi hwf]

/-- Settles O58: each word is a closed value, on which the decoder computes. -/
theorem workedWordsDecode : Obligations.WorkedWordsDecode :=
  ⟨rfl, rfl, rfl, rfl, rfl, rfl, rfl, rfl, rfl, rfl, rfl, rfl, rfl, rfl, rfl, rfl, rfl, rfl, rfl, rfl, rfl⟩
end

section
/-!
The issue of every instruction word (R27 to R29, R34, R85): each word is issued under the guarding of its code, LNTURN too where its
meaning is not reached, and what `attempt` answers decides the state after it.
-/
namespace Sys2Proof.Machine
open Sys2Proof.Claims

/-- How the guard acts on the instruction of a code (R28): ARB and ARE say themselves what a false guard does. -/
def guardingOf (c : Nat) (f : Fields) : Guarding :=
  if c = 0x0E9 ∨ c = 0x0EA then .own else if laneWise c f then .lanes else .lane0

/-- R210: RRED goes by its lanes where B is a vector. -/
theorem exec_rred (f : Fields) (s : State) : exec (.rred f) s = issue (.rred f) (guardingOf 0x10A f) rred s := by
  change issue (.rred f) _ rred s = _
  congr 1
  rcases f with ⟨_, _, _, _, _, _, _, _, _, b⟩
  rcases b with o | _ | _ | _
  · cases o <;> rfl
  all_goals rfl

/-- R234: an LNTURN whose meaning is not reached is issued and leaves the links. -/
theorem exec_lnturn {f : Fields} {s : State} (h : reaches s.pkg (cxOf s) (.lnturn f) 0x12C f = false) :
    ∃ body, exec (.lnturn f) s = issue (.lnturn f) .lane0 body s := by
  refine ⟨fun _ _ p => if (!(supOf s.part || (s.pkg.regs.lnuser >>> fld (opdScalar s.cur f.a) 0 2) % 2 = 1) ||
    decide ((s.site.links.getD (fld (opdScalar s.cur f.a) 0 2) linkReset).queue.length < 8)) then .done p else .stay p, ?_⟩
  change execLnturn f s = _
  simp only [execLnturn, h, Bool.and_false, Bool.false_eq_true, if_false]
  rfl

/-- An outcome is the issue of an instruction under a guarding. -/
def IssuedUnder (g : Guarding) (i : Instr) (s : State) (o : Host.Outcome State Fault Refusal) : Prop := ∃ body, o = issue i g body s

section
variable {i : Instr} {s : State}

/-! The shared forms of instructions, each under its guarding. -/

theorem issuedUnder_scalar {v : ScIn → Word} : IssuedUnder .lane0 i s (issueScalar i v s) := ⟨_, by unfold issueScalar; rfl⟩
theorem issuedUnder_vec {v : Fields → VIn → VOut} : IssuedUnder .lanes i s (issueVec i v s) := ⟨_, by unfold issueVec; rfl⟩
theorem issuedUnder_cmp {v : Fields → VIn → Mask × Flags × Bool} : IssuedUnder .lanes i s (issueCmp i v s) :=
  ⟨_, by unfold issueCmp; rfl⟩
theorem issuedUnder_reduce {v : Fields → VIn → Word × Flags × Bool} : IssuedUnder .lane0 i s (issueReduce i v s) :=
  ⟨_, by unfold issueReduce; rfl⟩
theorem issuedUnder_pred {v : Part → Nat → Fields → Mask} : IssuedUnder .lanes i s (issuePred i v s) :=
  ⟨_, by unfold issuePred; rfl⟩
theorem issuedUnder_predScalar {v : Mask → Word} : IssuedUnder .lane0 i s (issuePredScalar i v s) :=
  ⟨_, by unfold issuePredScalar; rfl⟩

end

/-- Every word is issued under the guarding of its code. -/
theorem exec_issuedUnder {i : Instr} {c : Nat} {f : Fields} {s : State} (hw : i.word = some (c, f))
    (h : reaches s.pkg (cxOf s) i c f = false) : IssuedUnder (guardingOf c f) i s (exec i s) := by
  delta exec
  cases i with
  | rred f' => cases hw; exact ⟨rred, exec_rred f s⟩
  | lnturn f' => cases hw; exact exec_lnturn h
  | vadd f' | vsub f' | vmul f' | vmulh f' | vmad f' | vand f' | vor f' | vxor f' | vandn f' | vshl f' | vshr f' | vsra f'
  | vmin f' | vmax f' | vabs f' | vneg f' | vsel f' | vmov f' | vbcast f' | vclz f' | vpopc f' | fadd f' | fsub f' | fmul f'
  | ffma f' | fdiv f' | fsqrt f' | fmin f' | fmax f' | fabs f' | fneg f' | frcp f' | frsq f' | fexp2 f' | flog2 f' | ftanh f'
  | fsin f' | fcos f' | fcvt f' | icvt f' | xscale f' | xpack f' | vshfl f' | vperm f' | vscan f' => cases hw; exact issuedUnder_vec
  | vcmp f' | fcmp f' => cases hw; exact issuedUnder_cmp
  | pand f' | por f' | pxor f' | pnot f' | pany f' | pall f' => cases hw; exact issuedUnder_pred
  | pcnt f' | vballot f' => cases hw; exact issuedUnder_predScalar
  | vreda f' | vredm f' => cases hw; exact issuedUnder_reduce
  | sadd f' | ssub f' | smul f' | smulh f' | sdiv f' | srem f' | sand f' | sor f' | sxor f' | sandn f' | sshl f' | sshr f'
  | ssra f' | srot f' | smin f' | smax f' | sclz f' | spopc f' | sbfx f' | sbfi f' | ssel f' | smov f' | sli f' =>
    cases hw; exact issuedUnder_scalar
  | _ => cases hw <;> exact ⟨_, rfl⟩

/-- R85: at the end of the text an instruction that would go to the next word has ALIGN and no effect. -/
theorem settle_done_atEnd {p q : Pkg} {cx : Cx} {f : Fields}
    (h : textSizeOf p cx.core ≤ (slotOf (partOf p cx.core) cx.slot).pc + 12) :
    settle p cx f (.done q) = trapped p cx f (alignTrap (textSizeOf p cx.core)) := by
  simp only [settle, h, decide_true, if_true]

/-! What `attempt` answers where the word does not come to its meaning. -/

section
variable {i : Instr} {c : Nat} {f : Fields} {s : State} {g : Guarding} {body : Cx → Pkg → Eff}

theorem rightHeld_iff : rightHeld s c f = true ↔
    ∃ row : Row, rowOf c = some row ∧ hasRight s.part s.cur (needOf row (some f.d) (some f.a)) = true := by
  unfold rightHeld
  cases rowOf c with
  | none => simp
  | some row => simp

theorem attempt_unprivileged (hw : i.word = some (c, f)) (h : rightHeld s c f = false) :
    attempt s.pkg (cxOf s) i c f g body = .trap (bareTrap causePrivilege (cxOf s)) := by
  obtain ⟨-, row, hrow, -⟩ := row_of_word hw
  simp only [rightHeld, hrow] at h
  simp only [attempt, hrow]
  exact if_pos h

theorem attempt_operandRefused (h : rightHeld s c f = true) (hs : stateOk s.part s.core s.slot c f = false) :
    attempt s.pkg (cxOf s) i c f g body = .trap (bareTrap causeOperand (cxOf s)) := by
  obtain ⟨row, hrow, hright⟩ := rightHeld_iff.mp h
  simp only [attempt, hrow]
  exact (if_neg (by rw [Bool.not_eq_false]; exact hright)).trans (if_pos hs)

theorem attempt_scoreboard (h : rightHeld s c f = true) (hs : stateOk s.part s.core s.slot c f = true)
    (hb : scoreboardFree s.part s.slot c f = false) : attempt s.pkg (cxOf s) i c f g body = .stay s.pkg := by
  obtain ⟨row, hrow, hright⟩ := rightHeld_iff.mp h
  simp only [State.part, State.cur] at hright hs hb
  simp [attempt, hrow, cxOf_core, cxOf_slot, hright, hs, hb]

theorem attempt_operandsWait (h : rightHeld s c f = true) (hs : stateOk s.part s.core s.slot c f = true)
    (hr : s.cur.region = none) (hb : scoreboardFree s.part s.slot c f = true) (ho : operandsReady s.pkg s.core s.slot f = false) :
    attempt s.pkg (cxOf s) i c f g body = if ringsAway s.part s.slot f then .busy s.pkg else .stay s.pkg := by
  obtain ⟨row, hrow, hright⟩ := rightHeld_iff.mp h
  simp only [State.part, State.cur] at hright hs hb hr
  simp only [attempt, hrow, cxOf_core, cxOf_slot, hright, hs, hb, hr, ho]
  rfl

theorem attempt_guardFalse (h : readyWord s c f = true) (hg : guardPasses g s.cur f = false) :
    attempt s.pkg (cxOf s) i c f g body = .done s.pkg := by
  simp only [readyWord, Bool.and_eq_true, Bool.or_eq_true, Option.isNone_iff_eq_none, decide_eq_true_eq] at h
  obtain ⟨⟨⟨⟨⟨⟨-, hregion⟩, hright⟩, hs⟩, hb⟩, ho⟩, -⟩ := h.1
  obtain ⟨row, hrow, hright⟩ := rightHeld_iff.mp hright
  have hregion' : ¬ (s.cur.region.isSome = true ∧ c ≠ 0x0EA) := by
    rintro ⟨hsome, hc⟩
    rcases hregion with hnone | hare
    · simp [hnone] at hsome
    · exact hc hare
  simp only [State.part, State.cur] at hright hs hb hregion' hg
  simp [attempt, hrow, cxOf_core, cxOf_slot, hright, hs, hb, hregion', ho, hg]

/-- What a slot that holds for nothing makes of its word is what `attempt` answers, settled, where that answer is the same under the
word's own guarding and in the test of `reaches`. -/
theorem exec_of_attempt {e : Eff} (hw : i.word = some (c, f)) (hl : s.cur.live = true) (hh : s.cur.hold = .none)
    (h : ∀ g body, g = guardingOf c f ∨ g = .lane0 → attempt s.pkg (cxOf s) i c f g body = e) (he : ∀ q, e ≠ .gone q) :
    exec i s = .next (s.with (settle s.pkg (cxOf s) f e)) := by
  have hreach : reaches s.pkg (cxOf s) i c f = false := by
    unfold reaches
    rw [h _ _ (.inr rfl)]
    cases e with
    | gone q => exact absurd rfl (he q)
    | _ => exact Bool.and_false _
  obtain ⟨b, hexec⟩ := exec_issuedUnder hw hreach
  simp only [State.cur, State.part] at hl hh
  rw [hexec]
  simp only [issue, hw, issueP, cxOf_core, cxOf_slot, hl, hh, h _ _ (.inl rfl)]
  rfl

/-- A slot without a context does nothing. -/
theorem exec_of_empty (hw : i.word = some (c, f)) (hl : s.cur.live = false) : exec i s = .next s := by
  simp only [State.cur, State.part] at hl
  obtain ⟨b, hexec⟩ := exec_issuedUnder (s := s) hw (by simp only [reaches, cxOf_core, cxOf_slot, hl, Bool.false_and])
  rw [hexec]
  simp only [issue, hw, issueP, cxOf_core, cxOf_slot, hl, if_true]

/-- A word that traps before the check of its operands' readiness. -/
theorem exec_of_attempt_trap {t : Trap} (hw : i.word = some (c, f)) (hl : s.cur.live = true) (hh : s.cur.hold = .none)
    (h : ∀ g body, attempt s.pkg (cxOf s) i c f g body = .trap t) (ht : afterChecks t = false) :
    exec i s = .next (trapState s f t) := by
  rw [exec_of_attempt hw hl hh (fun g body _ => h g body) (fun q => Eff.noConfusion), settle_trap (.inr ht)]
  rfl

/-- A word that waits stands as it does. -/
theorem exec_of_attempt_stay (hw : i.word = some (c, f)) (hl : s.cur.live = true) (hh : s.cur.hold = .none)
    (h : ∀ g body, attempt s.pkg (cxOf s) i c f g body = .stay s.pkg) : exec i s = .next s := by
  rw [exec_of_attempt hw hl hh (fun g body _ => h g body) (fun q => Eff.noConfusion), settle_stay,
    stand_same (q := s.pkg) (cx := cxOf s) hh]
  rfl

/-- A false guard lets only the pc move on, but for ARB and ARE (R28). -/
theorem exec_guardFalse (hw : i.word = some (c, f)) (hr : readyWord s c f = true) (hg : guardLane0 s.cur f = false)
    (hlanes : laneWise c f = true → guardMask s.cur f = 0) (hARB : c ≠ 0x0E9) (hARE : c ≠ 0x0EA)
    (ht : s.cur.pc + 12 < textSizeOf s.pkg s.core) : exec i s = .next (advance s f s.pkg) := by
  have hlive := hr
  simp only [readyWord, Bool.and_eq_true, decide_eq_true_eq] at hlive
  obtain ⟨⟨⟨⟨⟨⟨⟨⟨hl, hh⟩, -⟩, -⟩, -⟩, -⟩, -⟩, -⟩, -⟩ := hlive
  have hfails (g : Guarding) (h : g = guardingOf c f ∨ g = .lane0) : guardPasses g s.cur f = false := by
    rcases h with rfl | rfl
    · cases hlw : laneWise c f with
      | true => simp [guardingOf, hARB, hARE, hlw, guardPasses, hlanes hlw]
      | false => simpa [guardingOf, hARB, hARE, hlw, guardPasses] using hg
    · exact hg
  rw [exec_of_attempt hw hl hh (fun g body h => attempt_guardFalse hr (hfails g h)) (fun q => Eff.noConfusion),
    settle_done (p := s.pkg) (cx := cxOf s) ht]
  rfl

end

end Sys2Proof.Machine

open Sys2Proof.Machine

/-- Settles O54: each clause by what `attempt` answers where that check decides, under whatever guarding the word has. -/
theorem issueRules : Obligations.IssueRules := by
  refine ⟨fun i s c f hw hl => exec_of_empty hw hl, ?checks, fun s c f => rightHeld_iff, ?rights, ?lastWord⟩
  case checks =>
    intro i s c f hw hl hh
    refine ⟨fun hr => ?privilege, fun hr hs => ?operand, fun hr hs hb => ?scoreboard, fun hr hs hregion hb ho => ?operands,
      fun hr hg hARB hARE ht => ?noLane, fun hr hlw hg hARB hARE ht => ?lane0⟩
    case privilege => exact exec_of_attempt_trap hw hl hh (fun g body => attempt_unprivileged hw hr) rfl
    case operand => exact exec_of_attempt_trap hw hl hh (fun g body => attempt_operandRefused hr hs) rfl
    case scoreboard => exact exec_of_attempt_stay hw hl hh (fun g body => attempt_scoreboard hr hs hb)
    case operands =>
      have hattempt (g : Guarding) (body : Cx → Pkg → Eff) := attempt_operandsWait (i := i) (g := g) (body := body) hr hs hregion hb ho
      split
      · next haway =>
        rw [exec_of_attempt hw hl hh (fun g body _ => (hattempt g body).trans (if_pos haway)) (fun q => Eff.noConfusion)]
        rfl
      · next haway => exact exec_of_attempt_stay hw hl hh (fun g body => (hattempt g body).trans (if_neg haway))
    case noLane =>
      exact exec_guardFalse hw hr (by simp [guardLane0, hg, bit]) (fun _ => hg) hARB hARE ht
    case lane0 => exact exec_guardFalse hw hr hg (fun h => absurd h (by simp [hlw])) hARB hARE ht
  case rights =>
    intro k x n
    refine ⟨rfl, rfl, fun r => rfl, fun h1 h2 => ?_, fun h1 h2 => ?_, fun h => ?_, fun h1 h2 => ?_⟩
    · simp [hasRight, h1, h2]
    · have hlow : ¬ (0x100 ≤ n.toNat ∧ n.toNat ≤ 0x107 ∨ n.toNat = 0x10C) := by omega
      have hreset : ¬ (0x10 ≤ n.toNat ∧ n.toNat ≤ 0x14) := by omega
      have hmiddle : n.toNat ≠ 0x108 ∧ ¬ (0x100 ≤ n.toNat ∧ n.toNat ≤ 0x10C) := by omega
      exact ⟨by simp only [hasRight, if_neg hlow, h1, h2, and_self, if_true],
        by simp only [hasRight, if_neg hreset, if_neg hmiddle.1, if_neg hmiddle.2]⟩
    · have hlow : ¬ (0x100 ≤ n.toNat ∧ n.toNat ≤ 0x107 ∨ n.toNat = 0x10C) := by omega
      have hmiddle : ¬ (0x80 ≤ n.toNat ∧ n.toNat ≤ 0x84) := by omega
      simp only [hasRight, if_neg hlow, if_neg hmiddle]
    · simp [hasRight, h1, h2]
  case lastWord =>
    intro s f hr hg hwin ht
    change issue (.nop f) .lane0 (fun _ _ p => .done p) s = _
    rw [issue_of_ready (c := 0x001) rfl hr, if_neg (by simp [guardPasses, hg]), if_neg (by simp [hwin])]
    exact congrArg (fun q => Host.Outcome.next (s.with q)) (settle_done_atEnd (p := s.pkg) (cx := cxOf s) ht)
end

section
/-!
The loader and the launch of a team (R39 to R43, R249, R259, R298): what an accepted image has passed, the turns of a launch record, and
the core of the new team.
-/
namespace Sys2Proof.Machine
open Sys2Proof.Claims

/-! The loader. -/

theorem eventTo_imageLoad {s : State} {asid va : Nat} {bs : List Byte} {sy : List Int} {q : Pkg} (ha : asid < 512) (hv : va < 2 ^ 57)
    (h : imageLoad s.pkg s.time asid va bs sy = q) : eventTo (.imageLoad asid va bs sy) s q := by
  subst h
  exact congrArg (fun q => Host.Outcome.next (s.with q)) (if_pos ⟨ha, hv⟩)

theorem imageLoad_refused {p : Pkg} {now asid va : Nat} {bs : List Byte} {sy : List Int} {e : LdrRefusal}
    (h : loadImageOf p now asid va bs sy = .error e) : imageLoad p now asid va bs sy = { p with loader := p.loader ++ [e] } := by
  simp only [imageLoad, h]

theorem imageLoad_accepted {p : Pkg} {now asid va : Nat} {bs : List Byte} {sy : List Int} {im : Image} {out : List Byte}
    (h : loadImageOf p now asid va bs sy = .ok (im, out)) : imageLoad p now asid va bs sy =
      placeBytes { p with images := mapInsert p.images (imageKey asid va) im } now asid va (windowSpans bs) out := by
  simp only [imageLoad, h]

/-- R41: an image without the magic number is refused with LDR_FORMAT at bit 0. -/
theorem loadImageOf_noMagic {p : Pkg} {now asid va : Nat} {bs : List Byte} {sy : List Int}
    (h : fld (headerOf bs) 0 32 ≠ 0x5A584B31) : loadImageOf p now asid va bs sy = .error (1, 0) := by
  have hbad : formatBad bs = some 0 := by simp [formatBad, headerChecks, h]
  simp only [loadImageOf, hbad]

/-- R41: a header on which no condition of LDR_FORMAT holds. -/
theorem headerChecks_passed {h : Bits512} (hchecks : ∀ x ∈ headerChecks h, x.1 = false) : fld h 48 2 ≠ 3 ∧ 1 ≤ fld h 50 5 ∧
    fld h 50 5 ≤ slotCount (fld h 48 2) ∧ hdEntry h % 12 = 0 ∧ hdLayouts h ≤ 64 := by
  simp only [headerChecks, List.forall_mem_cons, decide_eq_false_iff_not, not_or, not_not, Nat.not_lt] at hchecks
  obtain ⟨-, -, hmode, ⟨hslots, hslots'⟩, -, -, -, hentry, -, -, hlayouts, -⟩ := hchecks
  exact ⟨hmode, Nat.one_le_iff_ne_zero.mpr hslots, hslots', hentry, hlayouts⟩

/-- R41: what an accepted image comes from, and what it has passed. -/
theorem loadImageOf_ok {p : Pkg} {now asid va : Nat} {bs : List Byte} {sy : List Int} {im : Image} {out : List Byte}
    (h : loadImageOf p now asid va bs sy = .ok (im, out)) : im = imageFrom asid va bs out ∧
      (∀ x ∈ headerChecks (headerOf bs), x.1 = false) ∧ hdCaps (headerOf bs) &&& ~~~ (capsOf p now 0 asid) = 0 := by
  simp only [loadImageOf] at h
  split at h
  · cases h
  · next hformat =>
    split at h
    · cases h
    · split at h
      · cases h
      · next hcaps =>
        cases h
        refine ⟨rfl, fun x hx => ?_, not_not.mp hcaps⟩
        simp only [formatBad] at hformat
        split at hformat
        · cases hformat
        · next hfind => simpa using List.find?_eq_none.mp hfind x hx

/-! The turns of a launch record. -/

theorem eventTo_teamLaunch {s : State} {c : Nat} {q : Pkg} (h : teamLaunch s.pkg s.time c = q) : eventTo (.teamLaunch c) s q := h ▸ rfl

theorem teamLaunch_none {p : Pkg} {c : Nat} (now : Nat) (h : launchable (coreOf p c) = false ∨ launchRecord p c = none) :
    teamLaunch p now c = p := by
  rcases h with h | h
  · simp only [teamLaunch, h, if_true]
  · simp only [teamLaunch, h, ite_self]

section
variable {s : State} {c prio i : Nat} {r : QRec} {take : Pkg → Pkg}

theorem teamLaunch_noImage (ht : launchTaken s c prio i r take)
    (h : mapFind s.pkg.images (imageKey (recAsid r.task) (recCode r.task)) = none) :
    teamLaunch s.pkg s.time c = { take s.pkg with loader := (take s.pkg).loader ++ [(1, 0)] } := by
  obtain ⟨hl, hr, rfl⟩ := ht
  simp only [teamLaunch, hl, hr, h, Bool.true_eq_false, if_false]

/-- A record whose image and address space are good comes to the launch of that image. -/
theorem teamLaunch_image {im : Image} (ht : launchTaken s c prio i r take) (h : launchImageOf s c r im) :
    teamLaunch s.pkg s.time c =
      launchImage take s.pkg s.time c (recAsid r.task) r.task im (asidEntry s.pkg s.time c (recAsid r.task)) := by
  obtain ⟨hl, hr, rfl⟩ := ht
  obtain ⟨him, hok, hcaps⟩ := h
  simp only [teamLaunch, hl, hr, him, hok, hcaps, Bool.true_eq_false, ne_eq, not_true_eq_false, or_self, if_false]

end

/-! The core of a new team. -/

theorem mode_changeMode (k : Part) (mode : Nat) : (changeMode k mode).mode = mode := by
  unfold changeMode
  split
  · next h => exact h.symm
  · rfl

/-- The preload writes scratchpad and no other memory. -/
theorem sameButScr_preload (k : Part) (now : Nat) (pre : List (Nat × List Byte)) :
    sameButScr k (pre.foldl (fun k e => scrWrite k now e.1 e.2) k) :=
  sameButScr_foldl pre (fun q e => sameButScr_scrWrite q now e.1 e.2) k

/-- The part in which the control context of a launch is loaded. -/
def preloadedPart (x : Core) (now asid : Nat) (im : Image) (pre : List (Nat × List Byte)) : Part :=
  pre.foldl (fun k e => scrWrite k now e.1 e.2)
    (initialLayouts (zeroMemories (changeMode x.part im.mode) (decide (x.prevAsid ≠ some asid))) asid im.layouts)

theorem mode_preloadedPart (x : Core) (now asid : Nat) (im : Image) (pre : List (Nat × List Byte)) :
    (preloadedPart x now asid im pre).mode = im.mode := by
  have hmode := congrArg Part.mode (sameButScr_preload
    (initialLayouts (zeroMemories (changeMode x.part im.mode) (decide (x.prevAsid ≠ some asid))) asid im.layouts) now pre)
  refine hmode.trans ?_
  simp only [initialLayouts, zeroMemories]
  split <;> exact mode_changeMode x.part im.mode

/-- R298: without a preload, the memories of a core that another address space had are empty, and every tag. -/
theorem preloadedPart_zero (x : Core) (now asid : Nat) (im : Image) : (preloadedPart x now asid im []).tags = [] ∧
    (x.prevAsid ≠ some asid → (preloadedPart x now asid im []).scr = [] ∧ (preloadedPart x now asid im []).acc = [] ∧
      (preloadedPart x now asid im []).tileFlags = []) := by
  simp only [preloadedPart, List.foldl_nil, initialLayouts, zeroMemories]
  refine ⟨by split <;> rfl, fun h => ?_⟩
  rw [if_pos (decide_eq_true h)]
  exact ⟨rfl, rfl, rfl⟩

theorem slotOf_loadContext (k : Part) (n : Nat) (x : Slot) :
    slotOf (loadContext k n x) n = { x with live := true, ctx := k.nextCtx, readyAt := (slotOf k n).readyAt } :=
  slotOf_setSlot_self (s := { x with live := true, ctx := k.nextCtx, readyAt := (slotOf k n).readyAt }) k n (ne_slotReset rfl)

theorem bit_setFld_top (x : Word) : bit (setFld x 63 1 1) 63 = true := by
  simp only [bit, setFld, fld, BitVec.toNat_ofNat, Nat.shiftRight_eq_div_pow, decide_eq_true_eq]
  omega

end Sys2Proof.Machine

open Sys2Proof.Machine Sys2Proof.Claims

/-- Settles O48: the loader by what an accepted image has passed, the launch by the branches of `teamLaunch`, the new core by its part. -/
theorem imageAndLaunch : Obligations.ImageAndLaunch := by
  refine ⟨?load, fun p now asid va bs sy h => loadImageOf_noMagic h, ?accepted,
    fun s c h => eventTo_teamLaunch (teamLaunch_none s.time h), ?launch, ?core⟩
  case load =>
    exact fun s asid va bs sy ha hv => ⟨fun e h => eventTo_imageLoad ha hv (imageLoad_refused h),
      fun im out h => eventTo_imageLoad ha hv (imageLoad_accepted h)⟩
  case accepted =>
    intro p now asid va bs sy im out h
    obtain ⟨rfl, hchecks, hcaps⟩ := loadImageOf_ok h
    obtain ⟨hmode, hslots, hslots', hentry, hlayouts⟩ := headerChecks_passed hchecks
    refine ⟨rfl, rfl, hentry, hmode, hslots, hslots', ?_, hcaps⟩
    simpa only [imageFrom, List.length_map, List.length_range] using hlayouts
  case launch =>
    intro s c prio i r take ht
    refine ⟨fun h => eventTo_teamLaunch (teamLaunch_noImage ht h),
      fun im p1 b rd him hdesc => ⟨fun hrd => ?_, fun q hrd => ?_, fun t j hrd => ?_⟩⟩
    all_goals
      refine eventTo_teamLaunch ((teamLaunch_image ht him).trans ?_)
      simp only [launchSup] at hdesc hrd
      simp only [launchImage, hdesc, hrd, launchSup]
  case core =>
    intro x now asid img sup caps im d rd y
    have hslot : slotOf y.part 0 = _ := slotOf_loadContext _ 0 (controlSlot im rd.params now)
    rw [hslot]
    refine ⟨rfl, bit_setFld_top x.scap, rfl, mode_preloadedPart x now asid im rd.pre, ⟨_, rfl, rfl, rfl, rfl, rfl, rfl, rfl, rfl⟩,
      rfl, rfl, rfl, rfl, rfl, rfl, rfl, fun hpre => ?_⟩
    have hzero := preloadedPart_zero x now asid im
    rw [← hpre] at hzero
    exact hzero
end

section
/-!
The issue of an instruction that leaves the pc elsewhere, wherever it stands in the text (R85), and of a word that is no instruction
(R50, R51).
-/
namespace Sys2Proof.Machine
open Sys2Proof.Claims

/-! Where an instruction that leaves the pc has its effect. -/

section
variable {i : Instr} {c : Nat} {f : Fields} {g : Guarding} {body : Fields → Cx → Pkg → Eff} {s : State}

theorem issue_of_going (hw : i.word = some (c, f)) (h : going i g s = true) :
    issue i g body s = .next (s.with (settle s.pkg (cxOf s) f (leaving c (body f (cxOf s) s.pkg)))) := by
  simp only [going, hw, Bool.and_eq_true] at h
  obtain ⟨⟨hready, hguard⟩, hwindow⟩ := h
  rw [issue_of_ready hw hready, if_neg (by simp [hguard]), if_neg (by simp [hwindow])]

theorem leaving_trap {t : Trap} (hc : leavesPc c = true) : leaving c (.trap t) = .raise t := if_pos hc
theorem leaving_jump (q : Pkg) (t : Int) : leaving c (.jump q t) = .jump q t := ite_self _
theorem leaving_gone (q : Pkg) : leaving c (.gone q) = .gone q := ite_self _

/-- The end of the text does not concern its traps (R85). -/
theorem issue_going_trap {t : Trap} (hw : i.word = some (c, f)) (hc : leavesPc c = true) (h : going i g s = true)
    (hb : body f (cxOf s) s.pkg = .trap t) : issue i g body s = .next (trapState s f t) := by
  rw [issue_of_going hw h, hb, leaving_trap hc]
  rfl

theorem issue_going_gone {q : Pkg} (hw : i.word = some (c, f)) (h : going i g s = true)
    (hb : body f (cxOf s) s.pkg = .gone q) : issue i g body s = .next (s.with q) := by
  rw [issue_of_going hw h, hb, leaving_gone, settle_gone]

theorem targetOk_iff {text : Nat} {t : Int} : targetOk text t = true ↔ 0 ≤ t ∧ t % 12 = 0 ∧ t < text := by
  simp only [targetOk, Bool.and_eq_true, decide_eq_true_eq, and_assoc]

theorem issue_going_jump {q : Pkg} {t : Int} (hw : i.word = some (c, f)) (h : going i g s = true)
    (hb : body f (cxOf s) s.pkg = .jump q t) : issue i g body s = .next (transferOrAlign s f q t) := by
  rw [issue_of_going hw h, hb, leaving_jump, settle_jump, transferOrAlign]
  by_cases ht : 0 ≤ t ∧ t % 12 = 0 ∧ t < textSizeOf s.pkg s.core
  · rw [if_pos ht, cxOf_core, if_pos (targetOk_iff.mpr ht)]
    rfl
  · rw [if_neg ht, cxOf_core, if_neg (mt targetOk_iff.mp ht)]
    rfl

end

/-! TRAP, BKPT and ERET (R315, R316). -/

theorem exec_trap (f : Fields) (s : State) :
    exec (.trap f) s = issue (.trap f) .lane0 (fun f cx p => .trap (trapOf 0x0A 0 (trapImm p cx f) 0)) s := rfl
theorem exec_bkpt (f : Fields) (s : State) : exec (.bkpt f) s = issue (.bkpt f) .lane0 bkpt s := rfl
theorem exec_eret (f : Fields) (s : State) : exec (.eret f) s = issue (.eret f) .lane0 eret s := rfl

/-- The package once the current slot has stopped at BKPT and the ports are told. -/
def stoppedAtBkpt (s : State) : Pkg :=
  let q := changeCur s (fun x => { x with hold := .stopped })
  { q with portOut := q.portOut ++ [(coreReg s.core 7, some (s.slot * 16 + 3))] }

theorem bkpt_held {s : State} (f : Fields) (h : (coreOf s.pkg s.core).dbgHold = true) :
    bkpt f (cxOf s) s.pkg = .gone (stoppedAtBkpt s) := if_pos h

theorem bkpt_free {s : State} (f : Fields) (h : (coreOf s.pkg s.core).dbgHold = false) :
    bkpt f (cxOf s) s.pkg = .trap (trapOf 0x09 0 (s.bVal f) 0) := if_neg (by simp [cxOf_core, h])

theorem eret_handler {s : State} (f : Fields) (h : s.cur.handler = true) :
    eret f (cxOf s) s.pkg = .jump (changeCur s returnFromTrap) s.cur.tpc.toNat := by
  simp only [eret, curSlot_eq, h]
  rfl

theorem eret_noHandler {s : State} (f : Fields) (h : s.cur.handler = false) :
    eret f (cxOf s) s.pkg = .trap (bareTrap causeIllegal (cxOf s)) := by
  simp only [eret, curSlot_eq, h, if_true]

/-! A word that is no instruction (R50, R51). -/

/-- The cause of a bad word: PRIVILEGE comes before OPERAND_CLASS (R27). -/
def badCause (s : State) (r : Reject) : Nat :=
  match r with
  | .illegal => causeIllegal
  | .operandClass need => if hasRight s.part s.cur need then causeOperand else causePrivilege

theorem badCause_right {s : State} {need : Need} (h : hasRight s.part s.cur need = true) :
    badCause s (.operandClass need) = causeOperand := if_pos h

theorem badCause_noRight {s : State} {need : Need} (h : hasRight s.part s.cur need = false) :
    badCause s (.operandClass need) = causePrivilege := if_neg (by simp [h])

theorem eventTo_unassignedEncodingIssue {s : State} (r : Reject) (hl : s.cur.live = true) (hh : s.cur.hold = .none) :
    eventTo (.unassignedEncodingIssue r) s (badIssued s (badCause s r)) := by
  have hissues : ¬ (s.cur.live = false ∨ fresh s.cur.hold = false) := by simp [hl, hh, fresh]
  have hbad : badWord r (cxOf s) s.pkg = badIssued s (badCause s r) := if_neg hissues
  exact congrArg (fun q => Host.Outcome.next (s.with q)) hbad

end Sys2Proof.Machine

open Sys2Proof.Machine Sys2Proof.Claims

/-- Settles O42: TRAP, BKPT and ERET by their meaning where the word comes to it, a bad word by its cause. -/
theorem trapInstructions : Obligations.TrapInstructions := by
  refine ⟨fun s f t h ht => ?trap, fun s f t h ht => ?bkpt, fun s f h hheld => ?held, fun s f t h ht => ?eretIllegal,
    fun s f h hhandler => ?eret, fun s hl hh => ⟨?illegal, fun need hr => ?operand, fun need hr => ?privilege⟩⟩
  case trap =>
    subst ht
    exact (exec_trap f s).trans (issue_going_trap rfl rfl h rfl)
  case bkpt =>
    obtain ⟨hfree, rfl⟩ := ht
    exact (exec_bkpt f s).trans (issue_going_trap rfl rfl h (bkpt_free f hfree))
  case held =>
    exact ⟨stoppedAtBkpt s, rfl, rfl, rfl, List.length_append,
      (exec_bkpt f s).trans (issue_going_gone rfl h (bkpt_held f hheld))⟩
  case eretIllegal =>
    obtain ⟨hno, rfl⟩ := ht
    exact (exec_eret f s).trans (issue_going_trap rfl rfl h (eret_noHandler f hno))
  case eret => exact (exec_eret f s).trans (issue_going_jump rfl h (eret_handler f hhandler))
  case illegal => exact eventTo_unassignedEncodingIssue .illegal hl hh
  case operand => exact badCause_right hr ▸ eventTo_unassignedEncodingIssue (.operandClass need) hl hh
  case privilege => exact badCause_noRight hr ▸ eventTo_unassignedEncodingIssue (.operandClass need) hl hh
end

section
/-!
Bits, bit counts and packed elements (R2, R58, R88): what the bit-level functions of the model mean bit by bit, and element by element.
-/
namespace Sys2Proof.Machine

/-! Single bits and bit fields. -/

theorem bit_eq_getLsbD {n : Nat} (x : BitVec n) (i : Nat) : bit x i = x.getLsbD i := by
  rw [← BitVec.testBit_toNat, Nat.testBit_eq_decide_div_mod_eq, bit, Nat.shiftRight_eq_div_pow]

theorem testBit_fld {n : Nat} (x : BitVec n) (lo len i : Nat) :
    (fld x lo len).testBit i = (decide (i < len) && x.getLsbD (lo + i)) := by
  rw [fld, Nat.testBit_mod_two_pow, Nat.testBit_shiftRight, BitVec.testBit_toNat]

/-! Bit counts. -/

theorem popCount_eq_length (n v : Nat) : popCount n v = ((List.range n).filter (fun i => v.testBit i)).length := by
  induction n with
  | zero => rfl
  | succ n ih =>
    have hstep : popCount (n + 1) v = popCount n v + (v >>> n) % 2 := by
      simp only [popCount, List.range_succ, List.foldl_append, List.foldl_cons, List.foldl_nil]
    rw [hstep, ih, List.range_succ, List.filter_append, List.length_append, List.filter_singleton,
      Nat.testBit_eq_decide_div_mod_eq, Nat.shiftRight_eq_div_pow]
    rcases Nat.mod_two_eq_zero_or_one (v / 2 ^ n) with h | h <;> simp [h]

theorem popCount_toNat {n : Nat} (x : BitVec n) : popCount n x.toNat = ((List.range n).filter (fun i => x.getLsbD i)).length :=
  popCount_eq_length n x.toNat

/-- The leading zeros of a value are the places above its highest bit. -/
theorem leadZeros_eq_find {w v : Nat} (hv : v < 2 ^ w) :
    leadZeros w v = ((List.range w).find? (fun i => v.testBit (w - 1 - i))).getD w := by
  rw [leadZeros, Nat.mod_eq_of_lt hv]
  split
  case isTrue h =>
    have hnone : (List.range w).find? (fun i => v.testBit (w - 1 - i)) = none := by simp [h]
    rw [hnone, Option.getD_none]
  case isFalse h =>
    have hlog : Nat.log2 v < w := (Nat.log2_lt h).mpr hv
    have hfind : (List.range w).find? (fun i => v.testBit (w - 1 - i)) = some (w - 1 - Nat.log2 v) := by
      refine List.find?_range_eq_some.mpr ⟨?_, List.mem_range.mpr (by omega), fun j hj => ?_⟩
      · rw [show w - 1 - (w - 1 - Nat.log2 v) = Nat.log2 v by omega]
        exact Nat.testBit_log2 h
      · have hbig : v < 2 ^ (w - 1 - j) := (Nat.log2_lt h).mp (by omega)
        simp [Nat.testBit_lt_two_pow hbig]
    rw [hfind, Option.getD_some]

/-! Elements packed one after the other. -/

/-- A list of numbers packed with w bits each, the first lowest. -/
def packList (w : Nat) (xs : List Nat) : Nat := xs.foldr (fun x acc => acc * 2 ^ w + x % 2 ^ w) 0

theorem packList_cons (w x : Nat) (xs : List Nat) : packList w (x :: xs) = packList w xs * 2 ^ w + x % 2 ^ w := rfl

theorem packList_lt (w : Nat) (xs : List Nat) : packList w xs < 2 ^ (w * xs.length) := by
  induction xs with
  | nil => simp [packList]
  | cons x xs ih =>
    have hx : x % 2 ^ w < 2 ^ w := Nat.mod_lt _ (Nat.two_pow_pos w)
    rw [packList_cons, List.length_cons, Nat.mul_succ, Nat.pow_add]
    calc packList w xs * 2 ^ w + x % 2 ^ w < (packList w xs + 1) * 2 ^ w := by rw [Nat.succ_mul]; omega
      _ ≤ 2 ^ (w * xs.length) * 2 ^ w := Nat.mul_le_mul_right _ ih

theorem packList_element (w : Nat) (xs : List Nat) (j : Nat) : packList w xs / 2 ^ (w * j) % 2 ^ w = xs.getD j 0 % 2 ^ w := by
  induction xs generalizing j with
  | nil => simp [packList]
  | cons x xs ih =>
    have hx : x % 2 ^ w < 2 ^ w := Nat.mod_lt _ (Nat.two_pow_pos w)
    cases j with
    | zero => simp [packList_cons]
    | succ j =>
      rw [packList_cons, Nat.mul_succ, Nat.add_comm, Nat.pow_add, Nat.mul_comm (2 ^ (w * j)), ← Nat.div_div_eq_div_mul,
        Nat.add_mul_div_right _ _ (Nat.two_pow_pos w), Nat.div_eq_of_lt hx, Nat.zero_add, ih j, List.getD_cons_succ]

theorem packNat_eq_packList (w n : Nat) (g : Nat → Nat) : packNat w n g = packList w ((List.range n).map g) := by
  rw [packNat, packList, List.foldr_map]

theorem packNat_lt (w n : Nat) (g : Nat → Nat) : packNat w n g < 2 ^ (w * n) := by
  simpa [packNat_eq_packList] using packList_lt w ((List.range n).map g)

theorem getD_map_range {α : Type} (g : Nat → α) {n j : Nat} (d : α) : ((List.range n).map g).getD j d = if j < n then g j else d := by
  split
  case isTrue h => simp [List.getD, h]
  case isFalse h => simp [List.getD, Nat.not_lt.mp h]

theorem packNat_element (w n : Nat) (g : Nat → Nat) (j : Nat) :
    packNat w n g / 2 ^ (w * j) % 2 ^ w = if j < n then g j % 2 ^ w else 0 := by
  rw [packNat_eq_packList, packList_element, getD_map_range]
  split
  · rfl
  · exact Nat.zero_mod _

theorem elem_eq_div (w : Nat) (v : VReg) (j : Nat) : elem w v j = v.toNat / 2 ^ (w * j) % 2 ^ w := by
  rw [elem, Nat.shiftRight_eq_div_pow]

theorem elem_lt (w : Nat) (v : VReg) (j : Nat) : elem w v j < 2 ^ w := Nat.mod_lt _ (Nat.two_pow_pos w)

theorem toNat_lane (v : VReg) (l : Nat) : (lane v l).toNat = elem 32 v l := BitVec.toNat_ofNat _ _

theorem toNat_ofNat_of_lt {x n m : Nat} (hx : x < 2 ^ n) (h : n ≤ m) : (BitVec.ofNat m x).toNat = x :=
  (BitVec.toNat_ofNat _ _).trans (Nat.mod_eq_of_lt (Nat.lt_of_lt_of_le hx (Nat.pow_le_pow_right Nat.two_pos h)))

theorem toNat_ofNat_packNat {w n m : Nat} (g : Nat → Nat) (h : w * n ≤ m) : (BitVec.ofNat m (packNat w n g)).toNat = packNat w n g :=
  toNat_ofNat_of_lt (packNat_lt w n g) h

/-- R58: the elements of a register made of elements. -/
theorem elem_ofNat_packNat {w n : Nat} (g : Nat → Nat) (h : w * n ≤ 1024) (j : Nat) :
    elem w (BitVec.ofNat 1024 (packNat w n g)) j = if j < n then g j % 2 ^ w else 0 := by
  rw [elem_eq_div, toNat_ofNat_packNat g h, packNat_element]

theorem elem_mkElems (w : Nat) (g : Nat → Nat) {j : Nat} (h : j < 1024 / w) : elem w (mkElems w g) j = g j % 2 ^ w := by
  rw [mkElems, elem_ofNat_packNat g (Nat.mul_div_le 1024 w), if_pos h]

theorem elem_mkLanes (g : Nat → Lane) {l : Nat} (h : l < 32) : elem 32 (mkLanes g) l = (g l).toNat := by
  rw [mkLanes, elem_mkElems 32 _ (by omega), Nat.mod_eq_of_lt (g l).isLt]

theorem lane_mkLanes (g : Nat → Lane) {l : Nat} (h : l < 32) : lane (mkLanes g) l = g l :=
  BitVec.eq_of_toNat_eq (by rw [toNat_lane, elem_mkLanes g h])

theorem bit_mkMask (g : Nat → Bool) {l : Nat} (h : l < 32) : bit (mkMask g) l = g l := by
  have hbit := packNat_element 1 32 (fun l => b2n (g l)) l
  rw [if_pos h, Nat.one_mul, Nat.pow_one] at hbit
  rw [bit, mkMask, toNat_ofNat_packNat (m := 32) _ (by decide), Nat.shiftRight_eq_div_pow, hbit]
  cases g l <;> rfl

/-! Lanes that a guard selects. -/

theorem getLsbD_eq_lane (v : VReg) {i : Nat} : v.getLsbD i = (lane v (i / 32)).getLsbD (i % 32) := by
  rw [← BitVec.testBit_toNat (lane v (i / 32)), toNat_lane, elem_eq_div, Nat.testBit_mod_two_pow, Nat.testBit_div_two_pow,
    BitVec.testBit_toNat, decide_eq_true (Nat.mod_lt i (by omega)), Bool.true_and, Nat.mod_add_div]

theorem getLsbD_lane (v : VReg) (l : Nat) {i : Nat} (h : i < 32) : (lane v l).getLsbD i = v.getLsbD (32 * l + i) := by
  rw [getLsbD_eq_lane v, show (32 * l + i) / 32 = l by omega, show (32 * l + i) % 32 = i by omega]

/-- R28: a lane of merged lanes is the new one where the guard is true, the old one elsewhere. -/
theorem lane_mergeLanes (g : Mask) (old new : VReg) {l : Nat} (h : l < 32) :
    lane (mergeLanes g old new) l = if bit g l then lane new l else lane old l := by
  rw [mergeLanes]
  split
  case isTrue hg =>
    have : bit g l = true := by rw [hg, bit_eq_getLsbD, allTrue, BitVec.getLsbD_allOnes, decide_eq_true h]
    rw [if_pos this]
  case isFalse =>
    refine BitVec.eq_of_getLsbD_eq fun i hi => ?_
    have hmask : (laneBits g).getLsbD (32 * l + i) = bit g l := by
      rw [← getLsbD_lane _ _ hi, laneBits, lane_mkLanes _ h]
      cases bit g l
      · exact BitVec.getLsbD_zero
      · simp only [if_true, BitVec.getLsbD_allOnes, hi, decide_true]
    have hlt : 32 * l + i < 1024 := by omega
    rw [getLsbD_lane _ _ hi, BitVec.getLsbD_or, BitVec.getLsbD_and, BitVec.getLsbD_and, BitVec.getLsbD_not, hmask]
    cases bit g l <;> simp [hlt, getLsbD_lane _ _ hi]

end Sys2Proof.Machine
end

section
/-!
The scalar group (R88, R89): the value of each instruction in the words of the rules, and that a scalar instruction writes it to sD.
-/
namespace Sys2Proof.Machine
open Sys2Proof.Claims

/-! What a scalar instruction makes. -/

/-- What the scalar instruction of the current slot reads. -/
def scalarIn (s : State) (f : Fields) : ScIn := scIn s.pkg s.core s.cur f

theorem issueScalar_runs {i : Instr} {c : Nat} {f : Fields} {s : State} (v : ScIn → Word) (hw : i.word = some (c, f))
    (h : runs i .lane0 s = true) : issueScalar i v s = .next (advance s f (writeD s f (v (scalarIn s f)))) := issue_done hw h rfl

theorem scalarRow_of {i : Fields → Instr} {c : Nat} {v : ScIn → Word} {r : State → Fields → Word} (hw : ∀ f, (i f).word = some (c, f))
    (hi : ∀ f s, exec (i f) s = issueScalar (i f) v s) (hv : ∀ s f, v (scalarIn s f) = r s f) : scalarRow i r := by
  intro s f h
  rw [hi, issueScalar_runs v (hw f) h, hv]

theorem scalarIn_sel (s : State) (f : Fields) : (scalarIn s f).sel = (predOf s.cur (f.md.toNat % 8)).getLsbD 0 := bit_eq_getLsbD _ _

/-! The values of R88. -/

theorem sdivVal_eq (x : ScIn) : sdivVal x = if x.b = 0 then BitVec.allOnes 64 else if x.u then x.a / x.b else x.a.sdiv x.b := by
  have hunsigned : BitVec.ofNat 64 (x.a.toNat / x.b.toNat) = x.a / x.b :=
    BitVec.eq_of_toNat_eq (by
      rw [BitVec.toNat_ofNat, BitVec.toNat_udiv, Nat.mod_eq_of_lt (Nat.lt_of_le_of_lt (Nat.div_le_self _ _) x.a.isLt)])
  have hsigned : BitVec.ofInt 64 (x.a.toInt.tdiv x.b.toInt) = x.a.sdiv x.b :=
    BitVec.eq_of_toInt_eq (by rw [BitVec.toInt_ofInt, BitVec.toInt_sdiv])
  rw [sdivVal, hunsigned, hsigned]

theorem sremVal_eq (x : ScIn) : sremVal x = if x.b = 0 then x.a else if x.u then x.a % x.b else x.a.srem x.b := by
  have hunsigned : BitVec.ofNat 64 (x.a.toNat % x.b.toNat) = x.a % x.b :=
    BitVec.eq_of_toNat_eq (by
      rw [BitVec.toNat_ofNat, BitVec.toNat_umod, Nat.mod_eq_of_lt (Nat.lt_of_le_of_lt (Nat.mod_le _ _) x.a.isLt)])
  have hsigned : BitVec.ofInt 64 (x.a.toInt.tmod x.b.toInt) = x.a.srem x.b := by
    rw [← BitVec.toInt_srem, BitVec.ofInt_toInt]
  rw [sremVal, hunsigned, hsigned]

/-- The order that SMIN, SMAX and SCMP compare by. -/
theorem scLt_eq (x : ScIn) : scLt x = if x.u then x.a.ult x.b else x.a.slt x.b := rfl

theorem sminVal_eq (x : ScIn) : sminVal x = if x.u then (if x.a.ult x.b then x.a else x.b) else (if x.a.slt x.b then x.a else x.b) := by
  rw [sminVal, scLt_eq]
  split <;> rfl

/-- The larger is the one that is not less; where neither is less the two are equal. -/
theorem smaxVal_eq (x : ScIn) : smaxVal x = if x.u then (if x.b.ult x.a then x.a else x.b) else (if x.b.slt x.a then x.a else x.b) := by
  rw [smaxVal, scLt_eq]
  cases x.u with
  | true =>
    simp only [if_true, BitVec.ult_eq_decide, decide_eq_true_eq]
    rcases Nat.lt_trichotomy x.a.toNat x.b.toNat with h | h | h
    · rw [if_pos h, if_neg (by omega)]
    · simp [BitVec.eq_of_toNat_eq h]
    · rw [if_neg (by omega), if_pos h]
  | false =>
    simp only [Bool.false_eq_true, if_false, BitVec.slt_eq_decide, decide_eq_true_eq]
    rcases Int.lt_trichotomy x.a.toInt x.b.toInt with h | h | h
    · rw [if_pos h, if_neg (by omega)]
    · simp [BitVec.eq_of_toInt_eq h]
    · rw [if_neg (by omega), if_pos h]

theorem spopcVal_eq (x : ScIn) : spopcVal x = BitVec.ofNat 64 ((List.range 64).filter (fun i => x.b.getLsbD i)).length := by
  rw [spopcVal, popCount_toNat]

theorem sclzVal_eq (x : ScIn) : sclzVal x = BitVec.ofNat 64 (((List.range 64).find? (fun i => x.b.getLsbD (63 - i))).getD 64) := by
  rw [sclzVal, leadZeros_eq_find x.b.isLt]
  rfl

/-! Bit fields (R89). -/

/-- A field of a word and what is written over it (R89). -/
theorem getLsbD_setFld {n : Nat} (x : BitVec n) (lo len v : Nat) {i : Nat} (hi : i < n) :
    (setFld x lo len v).getLsbD i = if lo ≤ i ∧ i < lo + len then v.testBit (i - lo) else x.getLsbD i := by
  have hlow : x.toNat % 2 ^ lo < 2 ^ lo := Nat.mod_lt _ (Nat.two_pow_pos lo)
  have hfield : v % 2 ^ len < 2 ^ len := Nat.mod_lt _ (Nat.two_pow_pos len)
  have hsplit : x.toNat = fld x lo len * 2 ^ lo + (2 ^ lo * (2 ^ len * (x.toNat / 2 ^ lo / 2 ^ len)) + x.toNat % 2 ^ lo) := by
    conv_lhs => rw [← Nat.div_add_mod x.toNat (2 ^ lo), ← Nat.div_add_mod (x.toNat / 2 ^ lo) (2 ^ len)]
    rw [fld, Nat.shiftRight_eq_div_pow]
    ring
  have hwritten : x.toNat - fld x lo len * 2 ^ lo + v % 2 ^ len * 2 ^ lo =
      2 ^ lo * (2 ^ len * (x.toNat / 2 ^ lo / 2 ^ len) + v % 2 ^ len) + x.toNat % 2 ^ lo := by
    rw [Nat.sub_eq_of_eq_add' hsplit]
    ring
  rw [setFld, BitVec.getLsbD_ofNat, decide_eq_true hi, Bool.true_and, hwritten, Nat.testBit_two_pow_mul_add _ hlow,
    Nat.testBit_two_pow_mul_add _ hfield]
  by_cases h1 : i < lo
  · rw [if_pos h1, if_neg (by omega), Nat.testBit_mod_two_pow, decide_eq_true h1, Bool.true_and, BitVec.testBit_toNat]
  · by_cases h2 : i - lo < len
    · rw [if_neg h1, if_pos h2, if_pos (by omega), Nat.testBit_mod_two_pow, decide_eq_true h2, Bool.true_and]
    · rw [if_neg h1, if_neg h2, if_neg (by omega), Nat.testBit_div_two_pow, Nat.testBit_div_two_pow, BitVec.testBit_toNat,
        show i - lo - len + len + lo = i by omega]

theorem asInt_eq_toInt {n : Nat} (hn : 0 < n) (v : Nat) : asInt n v = (BitVec.ofNat n v).toInt := by
  have hhalf : 2 ^ (n - 1) + 2 ^ (n - 1) = 2 ^ n := Nat.two_pow_pred_add_two_pow_pred hn
  rw [BitVec.toInt_eq_toNat_cond, BitVec.toNat_ofNat, asInt]
  by_cases hv : v % 2 ^ n < 2 ^ (n - 1)
  · rw [if_pos hv, if_pos (by omega)]
  · rw [if_neg hv, if_neg (by omega)]

theorem bfPos_scalarIn (s : State) (f : Fields) : bfPos (scalarIn s f) = fieldPos (s.bVal f) := rfl

theorem bfLen_scalarIn (s : State) (f : Fields) : bfLen (scalarIn s f) = fieldTop (s.bVal f) - fieldPos (s.bVal f) := by
  rw [bfLen, bfPos_scalarIn, fld, Nat.shiftRight_eq_div_pow]
  rfl

theorem fieldPos_lt (b : Word) : fieldPos b < 64 := Nat.mod_lt _ (by decide)

theorem fieldPos_le_fieldTop (b : Word) : fieldPos b ≤ fieldTop b :=
  Nat.le_min.mpr ⟨Nat.le_add_right _ _, Nat.le_of_lt (fieldPos_lt b)⟩

/-- SBFX: the field, and above it zeros with U, else copies of its highest bit. -/
theorem getLsbD_sbfxVal (x : ScIn) {i : Nat} (hi : i < 64) : (sbfxVal x).getLsbD i = if i < bfLen x then x.a.getLsbD (bfPos x + i)
    else !x.u && decide (0 < bfLen x) && x.a.getLsbD (bfPos x + (bfLen x - 1)) := by
  rw [sbfxVal]
  by_cases hlen : bfLen x = 0
  · simp [hlen]
  rw [if_neg hlen]
  cases hu : x.u with
  | true =>
    rw [if_pos rfl, BitVec.getLsbD_ofNat, testBit_fld, decide_eq_true hi, Bool.true_and]
    by_cases h : i < bfLen x <;> simp [h]
  | false =>
    have hpos : 0 < bfLen x := Nat.pos_of_ne_zero hlen
    have hbit {j : Nat} (hj : j < bfLen x) : (BitVec.ofNat (bfLen x) (fld x.a (bfPos x) (bfLen x))).getLsbD j = x.a.getLsbD (bfPos x + j) := by
      rw [BitVec.getLsbD_ofNat, testBit_fld, decide_eq_true hj, Bool.true_and, Bool.true_and]
    rw [if_neg Bool.false_ne_true, asInt_eq_toInt hpos]
    change ((BitVec.ofNat (bfLen x) (fld x.a (bfPos x) (bfLen x))).signExtend 64).getLsbD i = _
    rw [BitVec.getLsbD_signExtend, decide_eq_true hi, Bool.true_and, BitVec.msb_eq_getLsbD_last, hbit (j := bfLen x - 1) (by omega)]
    by_cases h : i < bfLen x
    · rw [if_pos h, if_pos h, hbit h]
    · simp [h, hpos]

/-- SLI.HI replaces the upper half of sD. -/
theorem sliVal_eq (x : ScIn) :
    sliVal x = if x.u then x.b.extractLsb' 0 32 ++ x.d.extractLsb' 0 32 else (x.b.extractLsb' 0 32).zeroExtend 64 := by
  rw [sliVal]
  cases x.u with
  | true =>
    refine BitVec.eq_of_getLsbD_eq fun i hi => ?_
    rw [if_pos rfl, if_pos rfl, getLsbD_setFld _ _ _ _ hi, testBit_fld, BitVec.getLsbD_append]
    by_cases h : i < 32
    · simp [h]
    · have hlow : i - 32 < 32 := by omega
      simp [h, hlow, hi, Nat.not_lt.mp h]
  | false => exact BitVec.eq_of_toNat_eq (by simp [fld])

end Sys2Proof.Machine

open Sys2Proof.Machine Sys2Proof.Claims

/-- Settles O1: each instruction writes its value to sD, and each value is that of R88. -/
theorem scalarArithmeticResults : Obligations.ScalarArithmeticResults :=
  ⟨scalarRow_of (fun _ => rfl) (fun _ _ => rfl) fun _ _ => rfl,
    scalarRow_of (fun _ => rfl) (fun _ _ => rfl) fun _ _ => rfl,
    scalarRow_of (fun _ => rfl) (fun _ _ => rfl) fun _ _ => rfl,
    scalarRow_of (fun _ => rfl) (fun _ _ => rfl) fun _ _ => rfl,
    scalarRow_of (fun _ => rfl) (fun _ _ => rfl) fun s f => sdivVal_eq (scalarIn s f),
    scalarRow_of (fun _ => rfl) (fun _ _ => rfl) fun s f => sremVal_eq (scalarIn s f),
    scalarRow_of (fun _ => rfl) (fun _ _ => rfl) fun _ _ => rfl,
    scalarRow_of (fun _ => rfl) (fun _ _ => rfl) fun _ _ => rfl,
    scalarRow_of (fun _ => rfl) (fun _ _ => rfl) fun _ _ => rfl,
    scalarRow_of (fun _ => rfl) (fun _ _ => rfl) fun _ _ => rfl,
    scalarRow_of (fun _ => rfl) (fun _ _ => rfl) fun _ _ => rfl,
    scalarRow_of (fun _ => rfl) (fun _ _ => rfl) fun _ _ => rfl,
    scalarRow_of (fun _ => rfl) (fun _ _ => rfl) fun _ _ => rfl,
    scalarRow_of (fun _ => rfl) (fun _ _ => rfl) fun _ _ => rfl,
    scalarRow_of (fun _ => rfl) (fun _ _ => rfl) fun s f => sminVal_eq (scalarIn s f),
    scalarRow_of (fun _ => rfl) (fun _ _ => rfl) fun s f => smaxVal_eq (scalarIn s f)⟩

/-- Settles O2: the counts and moves by their values, the bit fields bit by bit. -/
theorem scalarBitAndMoveResults : Obligations.ScalarBitAndMoveResults := by
  refine ⟨scalarRow_of (fun _ => rfl) (fun _ _ => rfl) fun s f => spopcVal_eq (scalarIn s f),
    scalarRow_of (fun _ => rfl) (fun _ _ => rfl) fun s f => sclzVal_eq (scalarIn s f),
    scalarRow_of (fun _ => rfl) (fun _ _ => rfl) fun s f => ?ssel,
    scalarRow_of (fun _ => rfl) (fun _ _ => rfl) fun _ _ => rfl,
    scalarRow_of (fun _ => rfl) (fun _ _ => rfl) fun s f => sliVal_eq (scalarIn s f), fun s f h => ?sbfx, fun s f h => ?sbfi⟩
  case ssel =>
    rw [sselVal, scalarIn_sel]
    rfl
  case sbfx =>
    refine ⟨sbfxVal (scalarIn s f), issueScalar_runs sbfxVal rfl h, fun i hi => ?_⟩
    have hle := fieldPos_le_fieldTop (s.bVal f)
    rw [getLsbD_sbfxVal _ hi, bfPos_scalarIn, bfLen_scalarIn]
    by_cases hempty : fieldPos (s.bVal f) < fieldTop (s.bVal f)
    · rw [show fieldPos (s.bVal f) + (fieldTop (s.bVal f) - fieldPos (s.bVal f) - 1) = fieldTop (s.bVal f) - 1 by omega,
        decide_eq_true hempty, decide_eq_true (by omega)]
      rfl
    · rw [decide_eq_false hempty, decide_eq_false (by omega)]
      simp only [Bool.and_false, Bool.false_and]
      rfl
  case sbfi =>
    refine ⟨sbfiVal (scalarIn s f), issueScalar_runs sbfiVal rfl h, fun i hi => ?_⟩
    rw [sbfiVal, getLsbD_setFld _ _ _ _ hi, bfPos_scalarIn, bfLen_scalarIn, Nat.add_sub_of_le (fieldPos_le_fieldTop _),
      BitVec.testBit_toNat]
    rfl
end

section
/-!
SCMP and SLEA (R90, R91), and the control group (R84 to R87): transfers, and the loop stack.
-/
namespace Sys2Proof.Machine
open Sys2Proof.Claims

theorem updPart_congr {p : Pkg} {c : Nat} {g g' : Part → Part} (h : g (partOf p c) = g' (partOf p c)) : updPart p c g = updPart p c g' :=
  congrArg (setPart p c) h

/-! A condition code on two numbers (R47). -/

theorem cmpCnd_eq_cndTrue (c : Nat) (a b : Int) : cmpCnd c a b = cndTrue c (decide (a < b)) (decide (a = b)) := by
  have hle : decide (a ≤ b) = (decide (a < b) || decide (a = b)) := by rw [← Bool.decide_or, decide_eq_decide, le_iff_lt_or_eq]
  have hgt : decide (b < a) = !(decide (a < b) || decide (a = b)) := by rw [← hle, ← decide_not, decide_eq_decide, not_le]
  have hge : decide (b ≤ a) = !decide (a < b) := by rw [← decide_not, decide_eq_decide, not_lt]
  match c with
  | 0 | 2 => rfl
  | 1 => exact decide_not
  | 3 => exact hle
  | 4 => exact hgt
  | n + 5 => exact hge

/-- R91: what SCMP finds of its operands. -/
theorem scmpVal_eq (x : ScIn) : scmpVal x = cndTrue x.cnd (if x.u then x.a.ult x.b else x.a.slt x.b) (x.a == x.b) := by
  rw [scmpVal]
  cases x.u with
  | true =>
    rw [if_pos rfl, if_pos rfl, cmpCnd_eq_cndTrue]
    simp only [Nat.cast_lt, Nat.cast_inj, BitVec.toNat_inj, BitVec.ult_eq_decide]
    rfl
  | false =>
    rw [if_neg Bool.false_ne_true, if_neg Bool.false_ne_true, cmpCnd_eq_cndTrue]
    simp only [BitVec.toInt_inj, BitVec.slt_eq_decide]
    rfl

theorem exec_scmp (f : Fields) (s : State) : exec (.scmp f) s = issue (.scmp f) .lanes (fun f cx p => .done (updPart p cx.core (fun k =>
    let sl := slotOf k cx.slot
    writePred k cx.slot (guardMask sl f) (if scmpVal (scIn p cx.core sl f) then allTrue else 0) f.d))) s := rfl

/-! The address of SLEA (R90). -/

/-- What SLEA does of the entry that its handle names and of its coordinates. -/
def sleaBody (r : Except Trap Bits512) (w : Word) (f : Fields) (cx : Cx) (p : Pkg) : Eff :=
  match r with
  | .error t => .trap t
  | .ok e => .done (setPart p cx.core (writeScalar (partOf p cx.core) cx.slot (sleaVal e w) f.d))

theorem exec_slea (f : Fields) (s : State) : exec (.slea f) s = issue (.slea f) .lane0 (fun f cx p =>
    sleaBody (entryFor (partOf p cx.core) (opdLay f.a) (bScalar p cx.core (curSlot p cx) f.b) [0, 1, 2])
      (bScalar p cx.core (curSlot p cx) f.b) f cx p) s := rfl

theorem space_of_entryFor {k : Part} {n : Nat} {w : Word} {spaces : List Nat} {e : Bits512} (h : entryFor k n w spaces = .ok e) :
    laySpace e ∈ spaces := by
  unfold entryFor entryOf at h
  split at h
  · cases h
  · next e' =>
    split at h
    · cases h
    · split at h
      · next hspace => cases h; simpa using hspace
      · cases h

theorem sleaVal_eq {e : Bits512} (h : laySpace e ∈ [0, 1, 2]) (w : Word) : sleaVal e w = sleaAddress e (layOffset e (elemIndex e w)) := by
  simp only [List.mem_cons, List.not_mem_nil, or_false] at h
  rcases h with h | h | h
  · simp only [sleaVal, sleaAddress, layBaseAddr, h]
    rfl
  · simp only [sleaVal, sleaAddress, layBaseAddr, h]
    rfl
  · simp only [sleaVal, sleaAddress, h, wrapInt]
    rfl

theorem exec_scmp_runs {f : Fields} {s : State} (h : runs (.scmp f) .lanes s = true) :
    exec (.scmp f) s = .next (advance s f (writeP s f (if scmpVal (scalarIn s f) then allTrue else 0))) :=
  (exec_scmp f s).trans (issue_done rfl h (congrArg Eff.done (updPart_congr rfl)))

theorem exec_slea_ok {f : Fields} {s : State} {e : Bits512} (h : runs (.slea f) .lane0 s = true)
    (he : entryFor s.part (opdLay f.a) (s.bVal f) [0, 1, 2] = .ok e) :
    exec (.slea f) s = .next (advance s f (writeD s f (sleaVal e (s.bVal f)))) := by
  have hbody : sleaBody (entryFor s.part (opdLay f.a) (s.bVal f) [0, 1, 2]) (s.bVal f) f (cxOf s) s.pkg =
      .done (writeD s f (sleaVal e (s.bVal f))) := by
    rw [he]
    rfl
  exact (exec_slea f s).trans (issue_done rfl h hbody)

theorem exec_slea_error {f : Fields} {s : State} {t : Trap} (h : runs (.slea f) .lane0 s = true)
    (he : entryFor s.part (opdLay f.a) (s.bVal f) [0, 1, 2] = .error t) : exec (.slea f) s = .next (trapState s f t) := by
  have hbody : sleaBody (entryFor s.part (opdLay f.a) (s.bVal f) [0, 1, 2]) (s.bVal f) f (cxOf s) s.pkg = .trap t := by
    rw [he]
    rfl
  exact (exec_slea f s).trans (issue_trap rfl h hbody)

/-! The control group, each by its meaning (R84). -/

section
variable (f : Fields) (s : State)

theorem exec_nop : exec (.nop f) s = issue (.nop f) .lane0 (fun _ _ p => .done p) s := rfl
theorem exec_bra : exec (.bra f) s = issue (.bra f) .lane0 (fun f cx p => .jump p ((curSlot p cx).pc + bInt p cx f)) s := rfl
theorem exec_brx : exec (.brx f) s = issue (.brx f) .lane0 (fun f cx p => .jump p (opdScalar (curSlot p cx) f.a).toNat) s := rfl
theorem exec_call : exec (.call f) s = issue (.call f) .lane0 (fun f cx p =>
    .jump (updCur p cx (fun s => setSreg s 31 (BitVec.ofNat 64 (s.pc + 12)))) (callTarget p cx f)) s := rfl
theorem exec_ret : exec (.ret f) s = issue (.ret f) .lane0 (fun _ cx p => .jump p (sregOf (curSlot p cx) 31).toNat) s := rfl
theorem exec_yield : exec (.yield f) s = issue (.yield f) .lane0 (fun f cx p =>
    .done (holdFor p cx.core cx.slot (4 * min (bScalar p cx.core (curSlot p cx) f.b).toNat 65535))) s := rfl

end

/-! Instructions that do not leave the pc, wherever they stand in the text (R85). -/

section
variable {i : Instr} {c : Nat} {f : Fields} {g : Guarding} {body : Fields → Cx → Pkg → Eff} {s : State}

theorem leaving_stays (hc : leavesPc c = false) (e : Eff) : leaving c e = e := if_neg (by simp [hc])

/-- An ALIGN of its own comes as it is at the end of the text too. -/
theorem issue_going_align {t : Int} (hw : i.word = some (c, f)) (hc : leavesPc c = false) (h : going i g s = true)
    (hb : body f (cxOf s) s.pkg = .trap (alignTrap t)) : issue i g body s = .next (trapState s f (alignTrap t)) := by
  rw [issue_of_going hw h, hb, leaving_stays hc, settle_trap (.inr rfl)]
  rfl

theorem issue_going_done {q : Pkg} (hw : i.word = some (c, f)) (hc : leavesPc c = false) (h : going i g s = true)
    (hb : body f (cxOf s) s.pkg = .done q) : issue i g body s = .next (nextOrAlign s f q) := by
  rw [issue_of_going hw h, hb, leaving_stays hc, nextOrAlign]
  split
  case isTrue ht =>
    rw [settle_done (p := s.pkg) (cx := cxOf s) ht]
    rfl
  case isFalse ht =>
    rw [settle_done_atEnd (p := s.pkg) (cx := cxOf s) (Nat.not_lt.mp ht)]
    rfl

end

/-! LOOP and LEND (R86). -/

/-- What LOOP does, as the model's meaning of it. -/
def loopBody (f : Fields) (cx : Cx) (p : Pkg) : Eff :=
  let s := curSlot p cx
  let fin : Int := s.pc + bInt p cx f
  let n := opdScalar s f.a
  if fin ≤ s.pc ∨ fin % 12 ≠ 0 ∨ (textSizeOf p cx.core : Int) ≤ fin then .trap (alignTrap fin)
  else if n = 0 then .jump p (fin + 12)
  else .done (updCur p cx (fun s => { s with loops := ⟨s.pc + 12, fin.toNat, n⟩ :: s.loops.take 3 }))

theorem exec_loop (f : Fields) (s : State) : exec (.loop f) s = issue (.loop f) .lane0 loopBody s := rfl

/-- What LEND does, by the entries from the topmost that ends at it. -/
def lendBody (l : List LoopEntry) (cx : Cx) (p : Pkg) : Eff :=
  match l with
  | [] => .done p
  | e :: rest =>
    if e.count - 1 = 0 then .done (updCur p cx (fun s => { s with loops := rest }))
    else .jump (updCur p cx (fun s => { s with loops := { e with count := e.count - 1 } :: rest })) e.start

theorem exec_lend (f : Fields) (s : State) : exec (.lend f) s =
    issue (.lend f) .lane0 (fun _ cx p => lendBody (loopsFrom (curSlot p cx).pc (curSlot p cx).loops) cx p) s := rfl

theorem loopsFrom_none {pc : Nat} {l : List LoopEntry} (h : l.all (fun e => decide (e.fin ≠ pc)) = true) : loopsFrom pc l = [] :=
  List.dropWhile_eq_nil_iff.mpr (List.all_eq_true.mp h)

theorem loopsFrom_topmost {pc : Nat} {above rest : List LoopEntry} {e : LoopEntry}
    (h : above.all (fun x => decide (x.fin ≠ pc)) = true) (he : e.fin = pc) : loopsFrom pc (above ++ e :: rest) = e :: rest := by
  rw [loopsFrom, List.dropWhile_append_of_pos (List.all_eq_true.mp h), List.dropWhile_cons_of_neg (by simp [he])]

end Sys2Proof.Machine

open Sys2Proof.Machine Sys2Proof.Claims

/-- Settles O3: SCMP by the truth of its condition, SLEA by the space of its entry. -/
theorem scalarCompareAndAddress : Obligations.ScalarCompareAndAddress := by
  refine ⟨fun s f h => ?scmp, fun s f e h he => ?slea, fun s f t h he => exec_slea_error h he⟩
  case scmp =>
    rw [exec_scmp_runs h, scmpVal_eq]
    rfl
  case slea =>
    rw [exec_slea_ok h he, sleaVal_eq (space_of_entryFor he)]

/-- Settles O4: each transfer jumps to its target, which is checked where it stands. -/
theorem controlTransfers : Obligations.ControlTransfers :=
  ⟨fun s f h => (exec_nop f s).trans (issue_done rfl h rfl), fun s f h => (exec_bra f s).trans (issue_going_jump rfl h rfl),
    fun s f h => (exec_brx f s).trans (issue_going_jump rfl h rfl), fun s f h => (exec_call f s).trans (issue_going_jump rfl h rfl),
    fun s f h => (exec_ret f s).trans (issue_going_jump rfl h rfl), fun s f h => (exec_yield f s).trans (issue_done rfl h rfl)⟩

/-- Settles O5: LOOP by its three cases, LEND by what stands on the loop stack from the topmost entry that ends at it. -/
theorem loopStack : Obligations.LoopStack := by
  refine ⟨fun s f h => ?loop, fun s f h => ⟨fun hnone => ?none, fun above e rest hl habove he => ?topmost⟩⟩
  case loop =>
    refine (exec_loop f s).trans ?_
    by_cases hbad : relTarget s f ≤ s.cur.pc ∨ relTarget s f % 12 ≠ 0 ∨ (textSizeOf s.pkg s.core : Int) ≤ relTarget s f
    · exact (issue_going_align rfl rfl h (if_pos hbad)).trans (congrArg Host.Outcome.next (if_pos hbad).symm)
    · refine Eq.trans ?_ (congrArg Host.Outcome.next (if_neg hbad).symm)
      by_cases hzero : s.aVal f = 0
      · exact (issue_going_jump rfl h ((if_neg hbad).trans (if_pos hzero))).trans (congrArg Host.Outcome.next (if_pos hzero).symm)
      · exact (issue_going_done rfl rfl h ((if_neg hbad).trans (if_neg hzero))).trans (congrArg Host.Outcome.next (if_neg hzero).symm)
  case none =>
    refine (exec_lend f s).trans (issue_going_done rfl rfl h ?_)
    rw [curSlot_eq, loopsFrom_none hnone]
    rfl
  case topmost =>
    have hbody : loopsFrom s.cur.pc s.cur.loops = e :: rest := by rw [hl, loopsFrom_topmost habove he]
    refine (exec_lend f s).trans ?_
    split
    case isTrue hlast =>
      refine issue_going_done rfl rfl h ?_
      rw [curSlot_eq, hbody]
      exact if_pos hlast
    case isFalse hmore =>
      refine issue_going_jump rfl h ?_
      rw [curSlot_eq, hbody]
      exact if_neg hmore
end

section
/-!
Predicates (R92): what a predicate instruction writes, and what PANY, PALL and PCNT find in a mask.
-/
namespace Sys2Proof.Machine
open Sys2Proof.Claims

theorem issuePred_runs {i : Instr} {c : Nat} {f : Fields} {s : State} (v : Part → Nat → Fields → Mask) (hw : i.word = some (c, f))
    (h : runs i .lanes s = true) : issuePred i v s = .next (advance s f (writeP s f (v s.part s.slot f))) :=
  issue_done hw h (congrArg Eff.done (updPart_congr rfl))

theorem issuePredScalar_runs {i : Instr} {c : Nat} {f : Fields} {s : State} (v : Mask → Word) (hw : i.word = some (c, f))
    (h : runs i .lane0 s = true) : issuePredScalar i v s = .next (advance s f (writeD s f (v (pB s f)))) :=
  issue_done hw h (congrArg Eff.done (updPart_congr rfl))

theorem predRow_of {i : Fields → Instr} {c : Nat} {v : Part → Nat → Fields → Mask} {r : State → Fields → Mask}
    (hw : ∀ f, (i f).word = some (c, f)) (hi : ∀ f s, exec (i f) s = issuePred (i f) v s) (hv : ∀ s f, v s.part s.slot f = r s f)
    (s : State) (f : Fields) (h : runs (i f) .lanes s = true) : exec (i f) s = .next (advance s f (writeP s f (r s f))) := by
  rw [hi, issuePred_runs v (hw f) h, hv]

theorem predScalarRow_of {i : Fields → Instr} {c : Nat} {v : Mask → Word} {r : State → Fields → Word}
    (hw : ∀ f, (i f).word = some (c, f)) (hi : ∀ f s, exec (i f) s = issuePredScalar (i f) v s) (hv : ∀ s f, v (pB s f) = r s f)
    (s : State) (f : Fields) (h : runs (i f) .lane0 s = true) : exec (i f) s = .next (advance s f (writeD s f (r s f))) := by
  rw [hi, issuePredScalar_runs v (hw f) h, hv]

theorem any_lanes_iff (m : Mask) : (List.range 32).any (fun l => m.getLsbD l) = true ↔ m ≠ 0 := by
  simp only [List.any_eq_true, List.mem_range, ne_eq]
  refine ⟨fun ⟨l, _, hl⟩ h0 => by simp [h0] at hl, fun h0 => ?_⟩
  by_contra hnone
  exact h0 (BitVec.eq_of_getLsbD_eq fun l hl => by simpa using fun hbit => hnone ⟨l, hl, hbit⟩)

theorem all_lanes_iff (m : Mask) : (List.range 32).all (fun l => m.getLsbD l) = true ↔ m = allTrue := by
  simp only [List.all_eq_true, List.mem_range]
  refine ⟨fun h => BitVec.eq_of_getLsbD_eq fun l hl => ?_, fun h l hl => ?_⟩
  · rw [h l hl, allTrue, BitVec.getLsbD_allOnes, decide_eq_true hl]
  · rw [h, allTrue, BitVec.getLsbD_allOnes, decide_eq_true hl]

/-- PANY: all true where a lane is. -/
theorem anyMask_eq (m : Mask) : (if m = 0 then 0 else allTrue) = if (List.range 32).any (fun l => m.getLsbD l) then allTrue else 0 := by
  by_cases h : m = 0
  · rw [if_pos h, if_neg (mt (any_lanes_iff m).mp (not_not.mpr h))]
  · rw [if_neg h, if_pos ((any_lanes_iff m).mpr h)]

/-- PALL: all true where every lane is. -/
theorem allMask_eq (m : Mask) :
    (if m = allTrue then allTrue else 0) = if (List.range 32).all (fun l => m.getLsbD l) then allTrue else 0 := by
  simp only [all_lanes_iff]

theorem exec_pmov (f : Fields) (s : State) : exec (.pmov f) s = issue (.pmov f) .lanes (fun f cx p =>
    let v := match f.b with
      | .desc (.p r) => opdPred (partOf p cx.core) cx.slot (.p r)
      | b => low32 (bScalar p cx.core (curSlot p cx) b)
    .done (updPart p cx.core (fun k => writePred k cx.slot (guardMask (slotOf k cx.slot) f) v f.d))) s := rfl

/-- What PMOV moves: a predicate, or the low half of a scalar. -/
def pmovMask (s : State) (f : Fields) : Mask :=
  match f.b with
  | .desc (.p r) => predOf s.cur r.toNat
  | _ => (s.bVal f).extractLsb' 0 32

theorem exec_pmov_runs {f : Fields} {s : State} (h : runs (.pmov f) .lanes s = true) :
    exec (.pmov f) s = .next (advance s f (writeP s f (pmovMask s f))) := by
  refine (exec_pmov f s).trans (issue_done rfl h (congrArg Eff.done (updPart_congr ?_)))
  have hlow (w : Word) : low32 w = w.extractLsb' 0 32 := BitVec.eq_of_toNat_eq (by simp [low32])
  rcases f with ⟨_, _, _, _, _, _, _, _, _, b⟩
  rcases b with o | _ | _ | _
  · cases o <;> simp only [hlow] <;> rfl
  all_goals
    simp only [hlow]
    rfl

end Sys2Proof.Machine

open Sys2Proof.Machine Sys2Proof.Claims

/-- Settles O6: each instruction by the mask or the scalar that it makes. -/
theorem predicateResults : Obligations.PredicateResults :=
  ⟨predRow_of (v := fun k n f => opdPred k n f.a &&& opdPred k n (bDesc f.b)) (fun _ => rfl) (fun _ _ => rfl) fun _ _ => rfl,
    predRow_of (v := fun k n f => opdPred k n f.a ||| opdPred k n (bDesc f.b)) (fun _ => rfl) (fun _ _ => rfl) fun _ _ => rfl,
    predRow_of (v := fun k n f => opdPred k n f.a ^^^ opdPred k n (bDesc f.b)) (fun _ => rfl) (fun _ _ => rfl) fun _ _ => rfl,
    predRow_of (v := fun k n f => ~~~ opdPred k n (bDesc f.b)) (fun _ => rfl) (fun _ _ => rfl) fun _ _ => rfl,
    fun _ _ => exec_pmov_runs,
    predRow_of (v := fun k n f => if opdPred k n (bDesc f.b) = 0 then 0 else allTrue) (fun _ => rfl) (fun _ _ => rfl)
      fun s f => anyMask_eq (pB s f),
    predRow_of (v := fun k n f => if opdPred k n (bDesc f.b) = allTrue then allTrue else 0) (fun _ => rfl) (fun _ _ => rfl)
      fun s f => allMask_eq (pB s f),
    predScalarRow_of (v := fun m => BitVec.ofNat 64 (popCount 32 m.toNat)) (fun _ => rfl) (fun _ _ => rfl)
      fun s f => congrArg (BitVec.ofNat 64) (popCount_toNat (pB s f)),
    predScalarRow_of (v := fun m => m.zeroExtend 64) (fun _ => rfl) (fun _ _ => rfl) fun _ _ => rfl⟩
end

section
/-!
The shapes that vector instructions share (R28, R69, R71, R81): what a lane-wise instruction makes, given its result element by element.
-/
namespace Sys2Proof.Machine
open Sys2Proof.Claims

/-- What the vector instruction of the current slot reads. -/
def vecIn (s : State) (f : Fields) : VIn := vIn s.pkg (cxOf s) f

/-- The state after a lane-wise instruction with the result `o` for a vector destination: FP_TRAP for an enabled flag, else written. -/
def vecDone (s : State) (f : Fields) (o : VOut) : State :=
  if trapEnabled s.cur o.fl then trapState s f (fpTrap o.fl) else advance s f (vecWritten s f o.v o.fl o.sub)

theorem issue_trapOrDone {i : Instr} {c : Nat} {f : Fields} {g : Guarding} {body : Fields → Cx → Pkg → Eff} {s : State} {b : Prop}
    [Decidable b] {t : Trap} {q : Pkg} (hw : i.word = some (c, f)) (h : runs i g s = true)
    (hb : body f (cxOf s) s.pkg = if b then .trap t else .done q) :
    issue i g body s = .next (if b then trapState s f t else advance s f q) := by
  split
  case isTrue hc => exact issue_trap hw h (hb.trans (if_pos hc))
  case isFalse hc => exact issue_done hw h (hb.trans (if_neg hc))

theorem issueVec_runs {i : Instr} {c : Nat} {f : Fields} {s : State} (comp : Fields → VIn → VOut) (hw : i.word = some (c, f))
    (h : runs i .lanes s = true) : issueVec i comp s = .next (vecDone s f (comp f (vecIn s f))) := issue_trapOrDone hw h rfl

theorem trapEnabled_zero (x : Slot) : trapEnabled x 0 = false := by simp [trapEnabled, fld]

theorem vecDone_plain (s : State) (f : Fields) (v : VReg) : vecDone s f (plain v) = advance s f (vecWritten s f v 0 false) :=
  if_neg (by rw [plain, trapEnabled_zero]; exact Bool.false_ne_true)

theorem guardedFlags_zero (g : Mask) (w n : Nat) : guardedFlags g w n (fun _ => 0) = 0 := by
  rw [guardedFlags]
  induction List.range n with
  | nil => rfl
  | cons j l ih => simp

theorem guardedFlags_congr {g : Mask} {w n : Nat} {p q : Nat → Flags} (h : ∀ j < n, p j = q j) :
    guardedFlags g w n p = guardedFlags g w n q :=
  List.foldl_ext _ _ 0 fun acc j hj => by rw [h j (List.mem_range.mp hj)]

/-! Results packed element by element. -/

theorem elem_packOut {w : Nat} (g : Mask) {n : Nat} (r : Nat → Nat × Flags) (sub : Bool) (h : w * n ≤ 1024) (j : Nat) :
    elem w (packOut w g ((List.range n).map r) sub).v j = if j < n then (r j).1 % 2 ^ w else 0 := by
  have hv : (packOut w g ((List.range n).map r) sub).v = BitVec.ofNat 1024 (packNat w n (fun j => (r j).1)) := by
    rw [packOut, packNat, List.foldr_map]
  rw [hv, elem_ofNat_packNat _ h]

theorem fl_packOut (w : Nat) (g : Mask) (n : Nat) (r : Nat → Nat × Flags) (sub : Bool) :
    (packOut w g ((List.range n).map r) sub).fl = guardedFlags g w n (fun j => (r j).2) := by
  simp only [packOut, List.length_map, List.length_range]
  refine List.foldl_ext _ _ 0 fun acc j hj => ?_
  rw [getD_map_range, if_pos (List.mem_range.mp hj)]

/-! From the result of a word to the forms in which the rules state it. -/

section
variable {i : Fields → Instr} {c : Nat} {comp : Fields → VIn → VOut}

theorem vecPlain_of {r : State → Fields → VReg} (hw : ∀ f, (i f).word = some (c, f)) (hi : ∀ f s, exec (i f) s = issueVec (i f) comp s)
    (hr : ∀ s f, comp f (vecIn s f) = plain (r s f)) : vecPlain i r := by
  intro s f h
  rw [hi, issueVec_runs comp (hw f) h, hr, vecDone_plain]

/-- A lane-wise instruction whose outcome has given elements and flags. -/
theorem vecRow_of_outcome {w n : Fields → Nat} {el : State → Fields → Nat → Nat × Flags}
    (h : ∀ s f, runs (i f) .lanes s = true → ∃ o : VOut, exec (i f) s = .next (vecDone s f o) ∧
      (∀ j < 1024 / w f, elem (w f) o.v j = if j < n f then (el s f j).1 % 2 ^ w f else 0) ∧
      o.fl = guardedFlags (lanesOf s f) (w f) (n f) (fun j => (el s f j).2)) : vecRow i w n el := by
  intro s f hruns
  obtain ⟨o, hexec, helem, hfl⟩ := h s f hruns
  exact ⟨o.v, o.sub, helem, by rw [hexec, vecDone, hfl]⟩

/-- Elements without flags. -/
theorem vecRow_of_plain {w n : Fields → Nat} {el : State → Fields → Nat → Nat} {v : State → Fields → VReg}
    (hw : ∀ f, (i f).word = some (c, f)) (hi : ∀ f s, exec (i f) s = issueVec (i f) comp s)
    (hr : ∀ s f, comp f (vecIn s f) = plain (v s f))
    (hv : ∀ s f, ∀ j < 1024 / w f, elem (w f) (v s f) j = if j < n f then el s f j % 2 ^ w f else 0) :
    vecRow i w n (fun s f j => (el s f j, 0)) :=
  vecRow_of_outcome fun s f h => ⟨plain (v s f), by rw [hi, issueVec_runs comp (hw f) h, hr], hv s f, (guardedFlags_zero _ _ _).symm⟩

/-- Packed elements with their flags. -/
theorem vecRow_of_packOut {w n : Fields → Nat} {el : State → Fields → Nat → Nat × Flags} (hw : ∀ f, (i f).word = some (c, f))
    (hi : ∀ f s, exec (i f) s = issueVec (i f) comp s) (hfits : ∀ f, w f * n f ≤ 1024)
    (hr : ∀ s f, ∃ sub, comp f (vecIn s f) = packOut (w f) (lanesOf s f) ((List.range (n f)).map (el s f)) sub) : vecRow i w n el := by
  refine vecRow_of_outcome fun s f h => ?_
  obtain ⟨sub, hsub⟩ := hr s f
  exact ⟨_, by rw [hi, issueVec_runs comp (hw f) h, hsub], fun j _ => elem_packOut _ _ _ (hfits f) j, fl_packOut _ _ _ _ _⟩

end

/-- The elements of width w of a register. -/
theorem vecElements_fit (w : Nat) : w * (1024 / w) ≤ 1024 := Nat.mul_div_le 1024 w

end Sys2Proof.Machine
end

section
/-!
The vector integer group (R98): arithmetic exact and then narrowed, bits, shifts, selects and compares.
-/
namespace Sys2Proof.Machine
open Sys2Proof.Claims

/-! Narrowing. -/

theorem wrapInt_eq (w : Nat) (x : Int) : wrapInt w x = (x % 2 ^ w).toNat := by rw [wrapInt, Nat.cast_pow, Nat.cast_ofNat]

theorem itNarrow_eq_narrow (it : Nat) (sat : Bool) (x : Int) : itNarrow it sat x = narrow (tySigned it) (itWidth it) sat x := by
  simp only [itNarrow, narrow, intMin, intMax, wrapInt_eq, Nat.cast_pow, Nat.cast_ofNat]

theorem intRow_of {i : Fields → Instr} {c : Nat} {sat : Bool} {r : Nat → Int → Int → Int → Int} (hw : ∀ f, (i f).word = some (c, f))
    (hi : ∀ f s, exec (i f) s = issueVec (i f) (fun f x => itMap (itOf f) (sat && bit f.md 3) x (r (itWidth (itOf f)))) s) :
    intRow i sat r :=
  vecRow_of_packOut hw hi (fun f => vecElements_fit _) fun s f => ⟨false, by simp only [itMap, itNarrow_eq_narrow]; rfl⟩

/-- VMULH: the high half of the product. -/
theorem intRow_vmulh : intRow .vmulh false (fun w a b _ => a * b / 2 ^ w) := by
  have hrow : intRow .vmulh false (fun w a b _ => a * b / ((2 ^ w : Nat) : Int)) := intRow_of (fun _ => rfl) (fun _ _ => rfl)
  simpa only [Nat.cast_pow, Nat.cast_ofNat] using hrow

/-! Bits of whole registers. -/

theorem bitRow_of {i : Fields → Instr} {c : Nat} (r : VReg → VReg → VReg) (hw : ∀ f, (i f).word = some (c, f))
    (hi : ∀ f s, exec (i f) s = issueVec (i f) (fun _ x => plain (r x.a x.b)) s) : vecPlain i (fun s f => r (vA s f) (vB s f)) :=
  vecPlain_of hw hi fun _ _ => rfl

/-! Shifts. -/

theorem elem_itShift {it : Nat} (x : VIn) (r : Nat → Nat → Nat) {j : Nat} (h : j < 1024 / itWidth it) :
    elem (itWidth it) (itShift it x r).v j = r (elem (itWidth it) x.a j) (elem (itWidth it) x.b j % itWidth it) % 2 ^ itWidth it :=
  elem_mkElems _ _ h

theorem shiftRow_of {i : Fields → Instr} {c : Nat} {r : Fields → Nat → Nat → Nat} {el : State → Fields → Nat → Nat}
    (hw : ∀ f, (i f).word = some (c, f)) (hi : ∀ f s, exec (i f) s = issueVec (i f) (fun f x => itShift (itOf f) x (r f)) s)
    (hel : ∀ s f j, r f (elem (itWidth (itOf f)) (vA s f) j) (elem (itWidth (itOf f)) (vB s f) j % itWidth (itOf f)) = el s f j) :
    vecRow i (fun f => itWidth (itOf f)) (fun f => 1024 / itWidth (itOf f)) (fun s f j => (el s f j, 0)) :=
  vecRow_of_plain hw hi (fun s f => rfl) fun s f j hj => by
    rw [if_pos hj, ← hel]
    exact elem_itShift (vecIn s f) (r f) hj

/-- Counts, element by element. -/
theorem countRow_of {i : Fields → Instr} {c : Nat} {r : Nat → Nat → Nat} {el : State → Fields → Nat → Nat}
    (hw : ∀ f, (i f).word = some (c, f)) (hi : ∀ f s, exec (i f) s = issueVec (i f) (fun f x => plain (mkElems (itWidth (itOf f))
      (fun j => r (itWidth (itOf f)) (elem (itWidth (itOf f)) x.b j)))) s)
    (hel : ∀ s f j, r (itWidth (itOf f)) (elem (itWidth (itOf f)) (vB s f) j) = el s f j) :
    vecRow i (fun f => itWidth (itOf f)) (fun f => 1024 / itWidth (itOf f)) (fun s f j => (el s f j, 0)) :=
  vecRow_of_plain hw hi (fun s f => rfl) fun s f j hj => by
    rw [if_pos hj, ← hel]
    exact elem_mkElems _ _ hj

/-! Selects and compares. -/

theorem elem_mergeLanes (g : Mask) (old new : VReg) {l : Nat} (h : l < 32) :
    elem 32 (mergeLanes g old new) l = (lane (if bit g l then new else old) l).toNat := by
  rw [← toNat_lane, lane_mergeLanes g old new h]
  split <;> rfl

theorem bit_laneAll (w : Nat) (t : Nat → Bool) {l : Nat} (h : l < 32) :
    bit (laneAll w t) l = (List.range (32 / w)).all (fun j => t (l * (32 / w) + j)) := bit_mkMask _ h

/-- The state after a lane-wise instruction with the result `o` for a predicate destination. -/
def cmpDone (s : State) (f : Fields) (o : Mask × Flags × Bool) : State :=
  if trapEnabled s.cur o.2.1 then trapState s f (fpTrap o.2.1)
  else advance s f (finishFlags (updPart (popSources s.pkg s.core f) s.core (fun k => writePred k s.slot (lanesOf s f) o.1 f.d)) (cxOf s)
    o.2.1 o.2.2)

theorem issueCmp_runs {i : Instr} {c : Nat} {f : Fields} {s : State} (comp : Fields → VIn → Mask × Flags × Bool)
    (hw : i.word = some (c, f)) (h : runs i .lanes s = true) : issueCmp i comp s = .next (cmpDone s f (comp f (vecIn s f))) :=
  issue_trapOrDone hw h rfl

theorem exec_vcmp (f : Fields) (s : State) : exec (.vcmp f) s = issueCmp (.vcmp f) (fun f x => (laneAll (itWidth (itOf f)) (fun i =>
    cmpCnd (fld f.md 4 3) (itVal (itOf f) x.a i) (itVal (itOf f) x.b i)), 0, false)) s := rfl

end Sys2Proof.Machine

open Sys2Proof.Machine Sys2Proof.Claims

/-- Settles O9: each element is the exact result, narrowed. -/
theorem vectorIntegerArithmetic : Obligations.VectorIntegerArithmetic := by
  refine ⟨intRow_of (fun _ => rfl) (fun _ _ => rfl), intRow_of (fun _ => rfl) (fun _ _ => rfl), intRow_of (fun _ => rfl) (fun _ _ => rfl),
    intRow_of (fun _ => rfl) (fun _ _ => rfl), intRow_of (fun _ => rfl) (fun _ _ => rfl), intRow_of (fun _ => rfl) (fun _ _ => rfl),
    intRow_vmulh, intRow_of (fun _ => rfl) (fun _ _ => rfl), intRow_of (fun _ => rfl) (fun _ _ => rfl)⟩

/-- Settles O10: each instruction by its result, whole or element by element. -/
theorem vectorIntegerBitsAndCompare : Obligations.VectorIntegerBitsAndCompare := by
  refine ⟨bitRow_of (fun a b => a &&& b) (fun _ => rfl) (fun _ _ => rfl), bitRow_of (fun a b => a ||| b) (fun _ => rfl) (fun _ _ => rfl),
    bitRow_of (fun a b => a ^^^ b) (fun _ => rfl) (fun _ _ => rfl), bitRow_of (fun a b => a &&& ~~~ b) (fun _ => rfl) (fun _ _ => rfl),
    bitRow_of (fun _ b => b) (fun _ => rfl) (fun _ _ => rfl), bitRow_of (fun _ b => b) (fun _ => rfl) (fun _ _ => rfl),
    ?vsel, shiftRow_of (r := fun _ a n => a <<< n) (fun _ => rfl) (fun _ _ => rfl) fun _ _ _ => Nat.shiftLeft_eq _ _,
    shiftRow_of (r := fun _ a n => a >>> n) (fun _ => rfl) (fun _ _ => rfl) fun _ _ _ => Nat.shiftRight_eq_div_pow _ _,
    shiftRow_of (r := fun f a n => wrapInt (itWidth (itOf f)) (asInt (itWidth (itOf f)) a / ((2 ^ n : Nat) : Int))) (fun _ => rfl)
      (fun _ _ => rfl) fun s f j => ?vsra,
    countRow_of (r := leadZeros) (fun _ => rfl) (fun _ _ => rfl) fun _ _ _ => leadZeros_eq_find (elem_lt _ _ _),
    countRow_of (r := popCount) (fun _ => rfl) (fun _ _ => rfl) fun _ _ _ => popCount_eq_length _ _, fun s f h => ?vcmp⟩
  case vsel =>
    refine vecRow_of_plain (comp := fun f x => plain (mergeLanes (predOf x.sl (fld f.md 0 3)) x.b x.a)) (fun _ => rfl) (fun _ _ => rfl)
      (fun _ _ => rfl) fun s f l hl => ?_
    rw [if_pos hl, elem_mergeLanes _ _ _ hl, Nat.mod_eq_of_lt (BitVec.isLt _)]
    rfl
  case vsra => rw [wrapInt_eq, Nat.cast_pow, Nat.cast_ofNat]
  case vcmp =>
    refine ⟨laneAll (itWidth (itOf f)) (fun j => cmpCnd (fld f.md 4 3) (itVal (itOf f) (vA s f) j) (itVal (itOf f) (vB s f) j)),
      fun l hl => ?_, ?_⟩
    · rw [bit_laneAll _ _ hl]
      simp only [cmpCnd_eq_cndTrue]
      rfl
    · rw [exec_vcmp, issueCmp_runs _ rfl h]
      exact congrArg Host.Outcome.next (if_neg (by rw [trapEnabled_zero]; exact Bool.false_ne_true))
end

section
/-!
Moves of lanes and bytes (R93 to R95): VSHFL, VPERM, and VCOMP and VEXPD by the rank of a lane among the true ones.
-/
namespace Sys2Proof.Machine
open Sys2Proof.Claims

theorem maskRank_eq (m : Mask) (l : Nat) : maskRank m l = ((List.range l).filter (fun x => bit m x)).length := by
  simp only [maskRank, popCount_eq_length, bit_eq_getLsbD]
  rfl

/-- The j-th element of a range that satisfies a predicate is the one with j such elements below it. -/
theorem find_rank_eq (p : Nat → Bool) (n j : Nat) :
    (List.range n).find? (fun l => p l && decide (((List.range l).filter p).length = j)) = ((List.range n).filter p)[j]? := by
  induction n with
  | zero => rfl
  | succ n ih =>
    rw [List.range_succ, List.find?_append, List.filter_append, List.getElem?_append, ih]
    by_cases hlt : j < ((List.range n).filter p).length
    · rw [if_pos hlt, List.getElem?_eq_getElem hlt, Option.some_or]
    · rw [if_neg hlt, List.getElem?_eq_none (Nat.not_lt.mp hlt), Option.none_or]
      cases hp : p n with
      | false => simp [hp]
      | true =>
        by_cases heq : ((List.range n).filter p).length = j
        · simp [hp, heq]
        · have hpos : j - ((List.range n).filter p).length ≠ 0 := by omega
          simp [hp, heq, hpos]

/-- R95: the lane that holds the j-th true lane of a mask. -/
theorem maskSelect_eq (m : Mask) (j : Nat) : maskSelect m j = ((List.range 32).filter (fun l => bit m l))[j]? := by
  rw [← find_rank_eq]
  simp only [maskSelect, maskRank_eq]

theorem exec_vcomp (f : Fields) (s : State) : exec (.vcomp f) s = issue (.vcomp f) .lanes (fun f cx p =>
    let x := vIn p cx f
    let m := opdPred (partOf p cx.core) cx.slot (bDesc f.b)
    let v := mkLanes (fun j => match maskSelect m j with
      | some l => lane x.a l
      | none => 0)
    .done (writeVec (popSources p cx.core f) cx.core cx.slot x.g v f.d)) s := rfl

theorem exec_vexpd (f : Fields) (s : State) : exec (.vexpd f) s = issue (.vexpd f) .lanes (fun f cx p =>
    let x := vIn p cx f
    let m := opdPred (partOf p cx.core) cx.slot (bDesc f.b)
    let v := mkLanes (fun l => if bit m l then lane x.a (maskRank m l) else 0)
    .done (writeVec (popSources p cx.core f) cx.core cx.slot x.g v f.d)) s := rfl

end Sys2Proof.Machine

open Sys2Proof.Machine Sys2Proof.Claims

/-- Settles O7: the moves by the source of each lane or byte, VCOMP and VEXPD by its rank. -/
theorem laneMoveResults : Obligations.LaneMoveResults := by
  refine ⟨?vshfl, ?vperm, fun s f h => ⟨_, (exec_vcomp f s).trans (issue_done rfl h rfl), fun j hj => ?vcomp⟩,
    fun s f h => ⟨_, (exec_vexpd f s).trans (issue_done rfl h rfl), fun l hl => ?vexpd⟩⟩
  case vshfl =>
    refine vecRow_of_plain (comp := fun f x => plain (mkLanes (fun l => lane x.a (shflSource (fld f.md 0 2) l ((lane x.b l).toNat % 32)))))
      (fun _ => rfl) (fun _ _ => rfl) (fun _ _ => rfl) fun s f l hl => ?_
    rw [if_pos hl, elem_mkLanes _ hl, Nat.mod_eq_of_lt (BitVec.isLt _)]
    rfl
  case vperm =>
    refine vecRow_of_plain (comp := fun _ x => plain (mkElems 8 (fun k => if 128 ≤ elem 8 x.b k then 0 else elem 8 x.a (elem 8 x.b k))))
      (fun _ => rfl) (fun _ _ => rfl) (fun _ _ => rfl) fun s f k hk => ?_
    rw [if_pos hk, elem_mkElems 8 _ hk]
    rfl
  case vcomp =>
    rw [lane_mkLanes _ hj, maskSelect_eq]
    rfl
  case vexpd =>
    rw [lane_mkLanes _ hl, maskRank_eq]
    rfl
end

section
/-!
The vector float group (R99 to R101): each instruction maps the encodings of its sources, element by element.
-/
namespace Sys2Proof.Machine
open Sys2Proof.Claims

/-- B of the float instruction of the current slot, in its format (R82). -/
def fB (s : State) (f : Fields) : VReg := floatB (ftOf f) f (vecIn s f)

section
variable {i : Fields → Instr} {c : Nat}

theorem floatRow_of {comp : Fields → VIn → VOut} {r : State → Fields → Nat → Nat → Nat → Rd} (hw : ∀ f, (i f).word = some (c, f))
    (hi : ∀ f s, exec (i f) s = issueVec (i f) comp s)
    (hr : ∀ s f, ∃ reads, comp f (vecIn s f) = floatMap (ftOf f) (lanesOf s f) reads (fun j => r s f (elem (ftOf f).bits (vA s f) j)
      (elem (ftOf f).bits (fB s f) j) (elem (ftOf f).bits (vD s f) j))) : floatRow i r :=
  vecRow_of_packOut hw hi (fun _ => vecElements_fit _) fun s f => by
    obtain ⟨reads, hreads⟩ := hr s f
    exact ⟨_, hreads⟩

/-- An instruction of two sources; B's flush and rounding are the operation's. -/
theorem floatTwoRow_of (op : Fields → Bool → FV → FV → Rd) (hw : ∀ f, (i f).word = some (c, f))
    (hi : ∀ f s, exec (i f) s = issueVec (i f) (fun f x => floatTwo (ftOf f) f x (op f (flushes x.sl))) s) :
    floatRow i (fun s f a b _ => op f (flushes s.cur) (rdEl s f a) (rdEl s f b)) := floatRow_of hw hi fun _ _ => ⟨_, rfl⟩

theorem floatOneRow_of (op : Fields → Bool → FV → Rd) (hw : ∀ f, (i f).word = some (c, f))
    (hi : ∀ f s, exec (i f) s = issueVec (i f) (fun f x => floatOne (ftOf f) f x (op f (flushes x.sl))) s) :
    floatRow i (fun s f _ b _ => op f (flushes s.cur) (rdEl s f b)) := floatRow_of hw hi fun _ _ => ⟨_, rfl⟩

theorem floatMinMaxRow_of (isMin : Bool) (hw : ∀ f, (i f).word = some (c, f))
    (hi : ∀ f s, exec (i f) s = issueVec (i f) (floatMinMax isMin) s) :
    floatRow i (fun s f a b _ => fvMinMax (ftOf f) (flushes s.cur) isMin a b) := floatRow_of hw hi fun _ _ => ⟨_, rfl⟩

/-- FABS and FNEG act on the sign bit of the encoding. -/
theorem floatSignRow_of (r : Nat → Nat → Nat) (hw : ∀ f, (i f).word = some (c, f))
    (hi : ∀ f s, exec (i f) s = issueVec (i f) (fun f x => floatSign f x r) s) :
    vecRow i (fun f => (ftOf f).bits) (fun f => 1024 / (ftOf f).bits)
      (fun s f j => (r (2 ^ ((ftOf f).bits - 1)) (elem (ftOf f).bits (vB s f) j), 0)) :=
  vecRow_of_packOut hw hi (fun _ => vecElements_fit _) fun _ _ => ⟨_, rfl⟩

/-- R101: each function by the table. -/
theorem floatFnRow_of (fn : Fn) (hw : ∀ f, (i f).word = some (c, f)) (hi : ∀ f s, exec (i f) s = issueVec (i f) (floatFn fn) s) :
    floatRow i (fun s f _ b _ => fvFn (ftOf f) (flushes s.cur) fn (rdEl s f b)) :=
  floatOneRow_of (fun f flush => fvFn (ftOf f) flush fn) hw hi

end

/-! FCMP (R100). -/

theorem exec_fcmp (f : Fields) (s : State) : exec (.fcmp f) s = issueCmp (.fcmp f) (fun f x =>
    let F := ftOf f
    let ea := elem F.bits x.a
    let eb := elem F.bits (floatB F f x)
    let rs := (List.range (1024 / F.bits)).map (fun i =>
      fvCmp (fld f.md 2 3) (readF F (flushes x.sl) (ea i)) (readF F (flushes x.sl) (eb i)))
    (laneAll F.bits (fun i => (rs.getD i (false, 0)).1),
      (List.range rs.length).foldl (fun acc i =>
        if bit x.g (i * F.bits / 32) then acc ||| (rs.getD i (false, 0)).2 else acc) 0,
      floatSub F x.g [ea, eb])) s := rfl

/-- What FCMP finds of element j: its truth and its flags. -/
def fcmpEl (s : State) (f : Fields) (j : Nat) : Bool × Flags :=
  fvCmp (fld f.md 2 3) (rdEl s f (elem (ftOf f).bits (vA s f) j)) (rdEl s f (elem (ftOf f).bits (fB s f) j))

/-- Element j of a lane lies among the elements of the register. -/
theorem lane_element_lt {w l j : Nat} (hl : l < 32) (hj : j < 32 / w) : l * (32 / w) + j < 1024 / w := by
  have hw : 0 < w := Nat.pos_of_ne_zero (by rintro rfl; simp at hj)
  have hle : 32 * (32 / w) ≤ 1024 / w := by
    rw [Nat.le_div_iff_mul_le hw, Nat.mul_assoc]
    exact Nat.mul_le_mul_left 32 (Nat.div_mul_le_self 32 w)
  calc l * (32 / w) + j < (l + 1) * (32 / w) := by rw [Nat.succ_mul]; omega
    _ ≤ 32 * (32 / w) := Nat.mul_le_mul_right _ hl
    _ ≤ 1024 / w := hle

theorem bit_laneAll_map (w : Nat) (t : Nat → Bool × Flags) {l : Nat} (hl : l < 32) :
    bit (laneAll w (fun j => (((List.range (1024 / w)).map t).getD j (false, 0)).1)) l =
      (List.range (32 / w)).all (fun j => (t (l * (32 / w) + j)).1) := by
  rw [bit_laneAll w _ hl, Bool.eq_iff_iff]
  simp only [List.all_eq_true, List.mem_range]
  refine forall₂_congr fun j hj => ?_
  rw [getD_map_range, if_pos (lane_element_lt hl hj)]

theorem guardedFlags_map (g : Mask) (w n : Nat) (t : Nat → Bool × Flags) :
    (List.range ((List.range n).map t).length).foldl
      (fun acc i => if bit g (i * w / 32) then acc ||| (((List.range n).map t).getD i (false, 0)).2 else acc) 0 =
      guardedFlags g w n (fun j => (t j).2) := by
  rw [List.length_map, List.length_range]
  refine guardedFlags_congr (p := fun i => (((List.range n).map t).getD i (false, 0)).2) fun j hj => ?_
  rw [getD_map_range, if_pos hj]

/-- What FCMP makes: the truth of each lane, the flags of the guarded elements, and whether a subnormal was read. -/
def fcmpOut (s : State) (f : Fields) : Mask × Flags × Bool :=
  (laneAll (ftOf f).bits (fun j => (((List.range (1024 / (ftOf f).bits)).map (fcmpEl s f)).getD j (false, 0)).1),
    guardedFlags (lanesOf s f) (ftOf f).bits (1024 / (ftOf f).bits) (fun j => (fcmpEl s f j).2),
    floatSub (ftOf f) (lanesOf s f) [elem (ftOf f).bits (vA s f), elem (ftOf f).bits (fB s f)])

theorem exec_fcmp_runs {f : Fields} {s : State} (h : runs (.fcmp f) .lanes s = true) :
    exec (.fcmp f) s = .next (cmpDone s f (fcmpOut s f)) := by
  rw [exec_fcmp, issueCmp_runs _ rfl h]
  exact congrArg (fun o => Host.Outcome.next (cmpDone s f o)) (Prod.ext rfl (Prod.ext (guardedFlags_map _ _ _ (fcmpEl s f)) rfl))

end Sys2Proof.Machine

open Sys2Proof.Machine Sys2Proof.Claims

/-- Settles O11: each instruction by its operation on the elements. -/
theorem floatArithmeticResults : Obligations.FloatArithmeticResults :=
  ⟨floatTwoRow_of (fun f flush => fvAdd (ftOf f) (frm f) flush) (fun _ => rfl) (fun _ _ => rfl),
    floatTwoRow_of (fun f flush a b => fvAdd (ftOf f) (frm f) flush a (fvFlip b)) (fun _ => rfl) (fun _ _ => rfl),
    floatTwoRow_of (fun f flush => fvMul (ftOf f) (frm f) flush) (fun _ => rfl) (fun _ _ => rfl),
    floatRow_of (comp := fun f x => floatMap (ftOf f) x.g [elem (ftOf f).bits x.a, elem (ftOf f).bits (floatB (ftOf f) f x),
      elem (ftOf f).bits x.d] (fun i => fvFma (ftOf f) (frm f) (flushes x.sl) (readF (ftOf f) (flushes x.sl) (elem (ftOf f).bits x.a i))
        (readF (ftOf f) (flushes x.sl) (elem (ftOf f).bits (floatB (ftOf f) f x) i))
        (readF (ftOf f) (flushes x.sl) (elem (ftOf f).bits x.d i)))) (fun _ => rfl) (fun _ _ => rfl) fun _ _ => ⟨_, rfl⟩,
    floatTwoRow_of (fun f flush => fvDiv (ftOf f) (frm f) false flush) (fun _ => rfl) (fun _ _ => rfl),
    floatOneRow_of (fun f flush => fvSqrt (ftOf f) (frm f) flush) (fun _ => rfl) (fun _ _ => rfl),
    floatMinMaxRow_of true (fun _ => rfl) (fun _ _ => rfl), floatMinMaxRow_of false (fun _ => rfl) (fun _ _ => rfl),
    floatSignRow_of (fun sg v => v % sg) (fun _ => rfl) (fun _ _ => rfl),
    floatSignRow_of (fun sg v => v ^^^ sg) (fun _ => rfl) (fun _ _ => rfl)⟩

/-- Settles O12: FCMP by the truth of its elements, the functions by the table. -/
theorem floatCompareAndFunctions : Obligations.FloatCompareAndFunctions := by
  refine ⟨fun s f h => ?fcmp, floatFnRow_of .rcp (fun _ => rfl) (fun _ _ => rfl), floatFnRow_of .rsq (fun _ => rfl) (fun _ _ => rfl),
    floatFnRow_of .exp2 (fun _ => rfl) (fun _ _ => rfl), floatFnRow_of .log2 (fun _ => rfl) (fun _ _ => rfl),
    floatFnRow_of .tanh (fun _ => rfl) (fun _ _ => rfl), floatFnRow_of .sin (fun _ => rfl) (fun _ _ => rfl),
    floatFnRow_of .cos (fun _ => rfl) (fun _ _ => rfl)⟩
  case fcmp =>
    exact ⟨(fcmpOut s f).1, (fcmpOut s f).2.2, fun l hl => bit_laneAll_map _ (fcmpEl s f) hl, exec_fcmp_runs h⟩
end

section
/-!
The conversions (R102 to R104) and block images (R105 to R108): elements converted one by one, and the bytes of a block.
-/
namespace Sys2Proof.Machine
open Sys2Proof.Claims

/-! FCVT, ICVT and FQNT. -/

/-- A conversion lane by lane. -/
theorem laneMap_eq_packOut (w : Nat) (x : VIn) (r : Nat → Nat × Flags) (sub : Nat → Nat → Bool) : ∃ b,
    laneMap w x r sub = packOut 32 x.g ((List.range 32).map (fun l => r ((lane x.b l).toNat % 2 ^ w))) b := ⟨_, rfl⟩

/-- What FCVT makes of a word's lanes. -/
def fcvtOut (f : Fields) (x : VIn) : VOut :=
  laneMap (ft3Fmt (fld f.md 3 3)).bits x (fun v =>
      ((fcvtElem (fld f.md 3 3) (fld f.md 6 3) (rmOf (fld f.md 1 2)) (bit f.md 0) (flushes x.sl) v).bits,
        (fcvtElem (fld f.md 3 3) (fld f.md 6 3) (rmOf (fld f.md 1 2)) (bit f.md 0) (flushes x.sl) v).fl))
    (fun v r => (decide (fld f.md 3 3 = 1) && isSubnormal fmtBF16 v) || (decide (fld f.md 6 3 = 1) && isSubnormal fmtBF16 r))

theorem exec_fcvt (f : Fields) (s : State) : exec (.fcvt f) s = issueVec (.fcvt f) fcvtOut s := rfl

/-- What ICVT makes of a word's lanes. -/
def icvtOut (f : Fields) (x : VIn) : VOut :=
  if bit f.md 8 then
    laneMap (ft3Fmt (fld f.md 2 3)).bits x (icvtF2I (fld f.md 5 3) (fld f.md 2 3) (rmOf (fld f.md 0 2)) (flushes x.sl))
      (fun v _ => decide (fld f.md 2 3 = 1) && isSubnormal fmtBF16 v)
  else
    laneMap (itWidth (fld f.md 5 3)) x (icvtI2F (fld f.md 5 3) (fld f.md 2 3) (rmOf (fld f.md 0 2)) (flushes x.sl))
      (fun _ r => decide (fld f.md 2 3 = 1) && isSubnormal fmtBF16 r)

theorem exec_icvt (f : Fields) (s : State) : exec (.icvt f) s = issueVec (.icvt f) icvtOut s := rfl

theorem icvtF2I_eq (it src : Nat) (rm : Rm) (flush : Bool) (x : Nat) : icvtF2I it src rm flush x =
    (((fvToInt rm false (tySigned it) (itWidth it) (readF (ft3Fmt src) flush x)).1 % 2 ^ 32 : Int).toNat,
      (fvToInt rm false (tySigned it) (itWidth it) (readF (ft3Fmt src) flush x)).2) :=
  Prod.ext (wrapInt_eq 32 _) rfl

/-- FQNT of value j of the four registers at A. -/
def fqntEl (s : State) (f : Fields) (j : Nat) : Nat × Flags :=
  fqntElem (fld f.md 0 3) (rmOf (fld f.md 3 2)) (bit f.md 5) (low32 (s.bVal f)) (lane (vecPast s.pkg (cxOf s) f.a (j / 32)) (j % 32))

def fqntOut (s : State) (f : Fields) : VOut := packOut 8 (lanesOf s f) ((List.range 128).map (fqntEl s f)) false

theorem exec_fqnt (f : Fields) (s : State) : exec (.fqnt f) s = issue (.fqnt f) .lanes (fun f cx p =>
    let x := vIn p cx f
    let scale := low32 (bScalar p cx.core x.sl f.b)
    let rs := (List.range 128).map (fun j =>
      fqntElem (fld f.md 0 3) (rmOf (fld f.md 3 2)) (bit f.md 5) scale (lane (vecPast p cx f.a (j / 32)) (j % 32)))
    let o := packOut 8 x.g rs false
    if trapEnabled x.sl o.fl then .trap (fpTrap o.fl)
    else .done (finishFlags (writeVec p cx.core cx.slot x.g o.v f.d) cx o.fl false)) s := rfl

theorem exec_fqnt_runs {f : Fields} {s : State} (h : runs (.fqnt f) .lanes s = true) : exec (.fqnt f) s =
    .next (if trapEnabled s.cur (fqntOut s f).fl then trapState s f (fpTrap (fqntOut s f).fl)
      else advance s f (finishFlags (writeVec s.pkg s.core s.slot (lanesOf s f) (fqntOut s f).v f.d) (cxOf s) (fqntOut s f).fl false)) :=
  (exec_fqnt f s).trans (issue_trapOrDone rfl h rfl)

theorem toNat_low32 (w : Word) : (low32 w).toNat = w.toNat % 2 ^ 32 := BitVec.toNat_setWidth ..

/-- The quotient that FQNT rounds, of value j of four registers from vN on. -/
def fqntRd (s : State) (f : Fields) (r : BitVec 7) (j : Nat) : Rd :=
  fvDiv (ft3Fmt (fld f.md 0 3)) (rmOf (fld f.md 3 2)) (bit f.md 5) true
    (decodeF fmtF32 (lane (vregAt s.part (physReg s.part s.slot (r.toNat + j / 32))) (j % 32)).toNat)
    (decodeF fmtF32 ((s.bVal f).toNat % 2 ^ 32))

theorem fqntEl_eq {s : State} {f : Fields} {r : BitVec 7} (h : f.a = .v r) (j : Nat) :
    fqntEl s f j = ((fqntRd s f r j).bits, (fqntRd s f r j).fl) := by
  rw [fqntEl, fqntElem, toNat_low32, h]
  rfl

theorem fl_fqntOut {s : State} {f : Fields} {r : BitVec 7} (h : f.a = .v r) :
    (fqntOut s f).fl = guardedFlags (lanesOf s f) 8 128 (fun j => (fqntRd s f r j).fl) := by
  rw [fqntOut, fl_packOut]
  simp only [fqntEl_eq h]

theorem elem_fqntOut {s : State} {f : Fields} {r : BitVec 7} (h : f.a = .v r) {j : Nat} (hj : j < 128) :
    elem 8 (fqntOut s f).v j = (fqntRd s f r j).bits % 2 ^ 8 := by
  rw [fqntOut, elem_packOut _ _ _ (by decide), if_pos hj, fqntEl_eq h]

end Sys2Proof.Machine

open Sys2Proof.Machine Sys2Proof.Claims

/-- Settles O13: FCVT and ICVT lane by lane, FQNT byte by byte. -/
theorem conversionResults : Obligations.ConversionResults := by
  refine ⟨vecRow_of_packOut (fun _ => rfl) exec_fcvt (fun _ => by decide) fun s f => laneMap_eq_packOut _ (vecIn s f) _ _,
    vecRow_of_packOut (fun _ => rfl) exec_icvt (fun _ => by decide) fun s f => ?icvt, fun s f r h ha =>
      ⟨(fqntOut s f).v, fun j => elem_fqntOut ha, ?fqnt⟩⟩
  case icvt =>
    by_cases hdir : bit f.md 8 = true
    · simp only [icvtOut, hdir, if_true, ← icvtF2I_eq]
      exact laneMap_eq_packOut _ (vecIn s f) _ _
    · simp only [icvtOut, hdir, if_false, Bool.false_eq_true]
      exact laneMap_eq_packOut _ (vecIn s f) _ _
  case fqnt =>
    rw [exec_fqnt_runs h, fl_fqntOut ha]
    rfl
end

section
/-!
Block images (R105 to R108): the bytes of a block, the flags of its codes, and what XSCALE, XPACK and XUNPK make.
-/
namespace Sys2Proof.Machine
open Sys2Proof.Claims

/-! The bytes of a block: 32 codes, a scale byte, an extra byte. -/

/-- An element below a boundary does not see what lies above it. -/
theorem element_of_low {p k n a w : Nat} (hp : p < 2 ^ n) (h : a + w ≤ n) : (p + k * 2 ^ n) / 2 ^ a % 2 ^ w = p / 2 ^ a % 2 ^ w := by
  refine Nat.eq_of_testBit_eq fun i => ?_
  simp only [Nat.testBit_mod_two_pow, Nat.testBit_div_two_pow]
  by_cases hi : i < w
  · rw [Nat.add_comm p, Nat.mul_comm k, Nat.testBit_two_pow_mul_add _ hp, if_pos (by omega)]
  · simp [hi]

/-- The number of a block of codes `p` under a scale and an extra byte (R59). -/
def blockNat (p sc ex : Nat) : Nat := p + sc * 2 ^ 128 + ex * 2 ^ 136

theorem blockNat_eq (p sc ex : Nat) : blockNat p sc ex = p + (sc + ex * 2 ^ 8) * 2 ^ 128 := by
  rw [blockNat]
  ring

theorem blockNat_div {p : Nat} (hp : p < 2 ^ 128) (sc ex : Nat) : blockNat p sc ex / 2 ^ 128 = sc + ex * 2 ^ 8 := by
  rw [blockNat_eq, Nat.add_mul_div_right _ _ (Nat.two_pow_pos 128), Nat.div_eq_of_lt hp, Nat.zero_add]

theorem code_blockNat {p : Nat} (hp : p < 2 ^ 128) (sc ex : Nat) {i : Nat} (hi : i < 32) :
    blockNat p sc ex / 2 ^ (4 * i) % 2 ^ 4 = p / 2 ^ (4 * i) % 2 ^ 4 := by
  rw [blockNat_eq, element_of_low hp (by omega)]

theorem scale_blockNat {p sc : Nat} (hp : p < 2 ^ 128) (hsc : sc < 2 ^ 8) (ex : Nat) : blockNat p sc ex / 2 ^ 128 % 2 ^ 8 = sc := by
  rw [blockNat_div hp, Nat.add_mul_mod_self_right, Nat.mod_eq_of_lt hsc]

theorem blockNat_above {p sc : Nat} (hp : p < 2 ^ 128) (hsc : sc < 2 ^ 8) (ex : Nat) : blockNat p sc ex / 2 ^ 136 = ex := by
  rw [show 136 = 128 + 8 from rfl, Nat.pow_add, ← Nat.div_div_eq_div_mul, blockNat_div hp,
    Nat.add_mul_div_right _ _ (Nat.two_pow_pos 8), Nat.div_eq_of_lt hsc, Nat.zero_add]

theorem blockNat_lt {p sc ex : Nat} (hp : p < 2 ^ 128) (hsc : sc < 2 ^ 8) (hex : ex < 2 ^ 8) : blockNat p sc ex < 2 ^ 144 := by
  rw [blockNat]
  omega

/-- A register that holds a block and nothing else. -/
def blockVec (p sc ex : Nat) : VReg := BitVec.ofNat 1024 (blockNat p sc ex)

section
variable {p sc ex : Nat}

theorem toNat_blockVec (hp : p < 2 ^ 128) (hsc : sc < 2 ^ 8) (hex : ex < 2 ^ 8) : (blockVec p sc ex).toNat = blockNat p sc ex :=
  toNat_ofNat_of_lt (blockNat_lt hp hsc hex) (by decide)

theorem code_blockVec (hp : p < 2 ^ 128) (hsc : sc < 2 ^ 8) (hex : ex < 2 ^ 8) {i : Nat} (hi : i < 32) :
    elem 4 (blockVec p sc ex) i = p / 2 ^ (4 * i) % 2 ^ 4 := by
  rw [elem_eq_div, toNat_blockVec hp hsc hex, code_blockNat hp _ _ hi]

theorem scale_blockVec (hp : p < 2 ^ 128) (hsc : sc < 2 ^ 8) (hex : ex < 2 ^ 8) : elem 8 (blockVec p sc ex) 16 = sc := by
  rw [elem_eq_div, toNat_blockVec hp hsc hex, scale_blockNat hp hsc]

theorem extra_blockVec (hp : p < 2 ^ 128) (hsc : sc < 2 ^ 8) (hex : ex < 2 ^ 8) : elem 8 (blockVec p sc ex) 17 = ex := by
  rw [elem_eq_div, toNat_blockVec hp hsc hex, blockNat_above hp hsc, Nat.mod_eq_of_lt hex]

theorem rest_blockVec (hp : p < 2 ^ 128) (hsc : sc < 2 ^ 8) (hex : ex < 2 ^ 8) {j : Nat} (hj : 18 ≤ j) :
    elem 8 (blockVec p sc ex) j = 0 := by
  have hlt : blockNat p sc ex < 2 ^ (8 * j) :=
    Nat.lt_of_lt_of_le (blockNat_lt hp hsc hex) (Nat.pow_le_pow_right Nat.two_pos (by omega))
  rw [elem_eq_div, toNat_blockVec hp hsc hex, Nat.div_eq_of_lt hlt, Nat.zero_mod]

end

/-! Flags collected over a list. -/

theorem getLsbD_foldl_or (l : List Nat) (b : Nat → Bool) (q : Nat → Flags) (a : Flags) (k : Nat) :
    (l.foldl (fun acc j => if b j then acc ||| q j else acc) a).getLsbD k = (a.getLsbD k || l.any (fun j => b j && (q j).getLsbD k)) := by
  induction l generalizing a with
  | nil => simp
  | cons j l ih =>
    rw [List.foldl_cons, ih, List.any_cons]
    cases b j <;> simp [Bool.or_assoc]

theorem getLsbD_guardedFlags (g : Mask) (w n : Nat) (q : Nat → Flags) (k : Nat) :
    (guardedFlags g w n q).getLsbD k = (List.range n).any (fun j => bit g (j * w / 32) && (q j).getLsbD k) := by
  rw [guardedFlags, getLsbD_foldl_or]
  simp

theorem laneFlags_eq (g : Mask) (q : Nat → Flags) : laneFlags g q = guardedFlags g 32 32 q := by
  rw [laneFlags, guardedFlags]
  simp only [Nat.mul_div_cancel _ (show 0 < 32 by decide)]

/-- The flags of the codes of lanes 0 to 3, eight codes a lane, are those of the 32 codes. -/
theorem laneFlags_codes (g : Mask) (q : Nat → Flags) :
    laneFlags g (fun l => if l < 4 then (List.range 8).foldl (fun acc j => acc ||| q (8 * l + j)) 0 else 0) = guardedFlags g 4 32 q := by
  refine BitVec.eq_of_getLsbD_eq fun k _ => ?_
  have hlane (l : Nat) : ((List.range 8).foldl (fun acc j => acc ||| q (8 * l + j)) 0).getLsbD k =
      (List.range 8).any (fun j => (q (8 * l + j)).getLsbD k) := by
    simpa using getLsbD_foldl_or (List.range 8) (fun _ => true) (fun j => q (8 * l + j)) 0 k
  rw [laneFlags_eq, getLsbD_guardedFlags, getLsbD_guardedFlags, Bool.eq_iff_iff]
  simp only [List.any_eq_true, List.mem_range, Bool.and_eq_true, Nat.mul_div_cancel _ (show 0 < 32 by decide)]
  constructor
  · rintro ⟨l, _, hg, hl⟩
    split at hl
    case isTrue h4 =>
      rw [hlane] at hl
      simp only [List.any_eq_true, List.mem_range] at hl
      obtain ⟨j, hj, hbit⟩ := hl
      exact ⟨8 * l + j, by omega, by rwa [show (8 * l + j) * 4 / 32 = l by omega], hbit⟩
    case isFalse => simp at hl
  · rintro ⟨i, hi, hg, hbit⟩
    refine ⟨i / 8, by omega, by rwa [show i * 4 / 32 = i / 8 by omega] at hg, ?_⟩
    rw [if_pos (by omega), hlane]
    simp only [List.any_eq_true, List.mem_range]
    exact ⟨i % 8, by omega, by rwa [Nat.div_add_mod]⟩

/-! XSCALE, XPACK and XUNPK. -/

/-- What XSCALE makes of its source: scale and extra bytes, whose flags are lane 4's (R106). -/
def xscaleOut (x : VIn) : VOut :=
  let y := f4xScale (f32Lanes x.a)
  { v := BitVec.ofNat 1024 (y.1 * 2 ^ 128 + y.2.1 * 2 ^ 136), fl := if bit x.g 4 then y.2.2 else 0, sub := false }

theorem exec_xscale (f : Fields) (s : State) : exec (.xscale f) s = issueVec (.xscale f) (fun _ x => xscaleOut x) s := rfl

/-- The codes that XPACK gives 32 values under the scale and extra bytes of B, with their flags (R107). -/
def xpackCodes (x : VIn) : List (Nat × Flags) := (f32Lanes x.a).map (fun v => f4xCode v (elem 8 x.b 16) (elem 8 x.b 17))

def xpackOut (x : VIn) : VOut :=
  { v := blockVec (packNat 4 32 (fun i => ((xpackCodes x).getD i (0, 0)).1)) (elem 8 x.b 16) (elem 8 x.b 17),
    fl := laneFlags x.g (fun l => if l < 4 then (List.range 8).foldl (fun acc j =>
      acc ||| ((xpackCodes x).getD (8 * l + j) (0, 0)).2) 0 else 0), sub := false }

theorem exec_xpack (f : Fields) (s : State) : exec (.xpack f) s = issueVec (.xpack f) (fun _ x => xpackOut x) s := rfl

theorem getD_xpackCodes (x : VIn) {i : Nat} (hi : i < 32) :
    (xpackCodes x).getD i (0, 0) = f4xCode (decodeF fmtF32 (lane x.a i).toNat) (elem 8 x.b 16) (elem 8 x.b 17) := by
  rw [xpackCodes, f32Lanes, List.map_map, getD_map_range, if_pos hi]
  rfl

theorem fl_xpackOut (x : VIn) : (xpackOut x).fl =
    guardedFlags x.g 4 32 (fun i => (f4xCode (decodeF fmtF32 (lane x.a i).toNat) (elem 8 x.b 16) (elem 8 x.b 17)).2) := by
  refine (laneFlags_codes x.g (fun i => ((xpackCodes x).getD i (0, 0)).2)).trans (guardedFlags_congr fun i hi => ?_)
  rw [getD_xpackCodes x hi]

theorem codes_xpackOut (x : VIn) {i : Nat} (hi : i < 32) : elem 4 (xpackOut x).v i =
    (f4xCode (decodeF fmtF32 (lane x.a i).toNat) (elem 8 x.b 16) (elem 8 x.b 17)).1 % 2 ^ 4 := by
  rw [xpackOut, code_blockVec (packNat_lt 4 32 _) (elem_lt 8 _ _) (elem_lt 8 _ _) hi, packNat_element, if_pos hi, getD_xpackCodes x hi]

/-- The block that XUNPK reads: the codes of A under the scale and extra bytes of B (R108). -/
def xunpkBlock (x : VIn) : Nat := blockNat (x.a.toNat % 2 ^ 128) (elem 8 x.b 16) (elem 8 x.b 17)

theorem xunpkBlock_vecIn (s : State) (f : Fields) : xunpkBlock (vecIn s f) =
    (vA s f).toNat % 2 ^ 128 + elem 8 (vB s f) 16 * 2 ^ 128 + elem 8 (vB s f) 17 * 2 ^ 136 := by
  rw [xunpkBlock, blockNat]
  rfl

theorem badScale_xunpkBlock (x : VIn) : f4xBadScale (xunpkBlock x) = true ↔ elem 8 x.b 16 = 0xFF := by
  have hscale := scale_blockNat (Nat.mod_lt x.a.toNat (Nat.two_pow_pos 128)) (elem_lt 8 x.b 16) (elem 8 x.b 17)
  rw [f4xBadScale, decide_eq_true_iff, Nat.shiftRight_eq_div_pow, xunpkBlock, show (256 : Nat) = 2 ^ 8 from rfl, hscale]

/-- Element i of a block, rounded to FT3. -/
def xunpkRd (f : Fields) (sl : Slot) (b i : Nat) : Rd := fvConvert (ft3Fmt (fld f.md 0 3)) .rn false (flushes sl) (f4xElem b i)

/-- What XUNPK makes of a block `b` with a good scale. -/
def xunpkOut (f : Fields) (x : VIn) (b : Nat) : VOut :=
  let rs := (List.range 32).map (fun i => decodedRd (fld f.md 0 3) (flushes x.sl) (f4xElem b i))
  packOut (ft3Fmt (fld f.md 0 3)).bits x.g rs (decide (fld f.md 0 3 = 1) && (List.range 32).any (fun i =>
    bit x.g (i / 2) && isSubnormal fmtBF16 (rs.getD i (0, 0)).1))

theorem ft3Fmt_bits_le (c : Nat) : (ft3Fmt c).bits ≤ 32 := by
  unfold ft3Fmt
  split <;> decide

theorem elem_xunpkOut (f : Fields) (x : VIn) (b i : Nat) : elem (ft3Fmt (fld f.md 0 3)).bits (xunpkOut f x b).v i =
    if i < 32 then (xunpkRd f x.sl b i).bits % 2 ^ (ft3Fmt (fld f.md 0 3)).bits else 0 :=
  elem_packOut _ _ _ (Nat.mul_le_mul_right 32 (ft3Fmt_bits_le _)) i

theorem fl_xunpkOut (f : Fields) (x : VIn) (b : Nat) :
    (xunpkOut f x b).fl = guardedFlags x.g (ft3Fmt (fld f.md 0 3)).bits 32 (fun i => (xunpkRd f x.sl b i).fl) := fl_packOut _ _ _ _ _

/-- What XUNPK does with the block that it reads. -/
def xunpkBody (b : Nat) (f : Fields) (cx : Cx) (p : Pkg) : Eff :=
  let x := vIn p cx f
  let o := xunpkOut f x b
  if f4xBadScale b then .trap scaleTrap
  else if trapEnabled x.sl o.fl then .trap (fpTrap o.fl)
  else .done (finishFlags (writeVec (popSources p cx.core f) cx.core cx.slot x.g o.v f.d) cx o.fl o.sub)

theorem exec_xunpk (f : Fields) (s : State) :
    exec (.xunpk f) s = issue (.xunpk f) .lanes (fun f cx p => xunpkBody (xunpkBlock (vIn p cx f)) f cx p) s := rfl

section
variable {f : Fields} {s : State} {b : Nat} (h : runs (.xunpk f) .lanes s = true) (hblock : xunpkBlock (vecIn s f) = b)
include h hblock

theorem exec_xunpk_badScale (hb : f4xBadScale b = true) : exec (.xunpk f) s = .next (trapState s f scaleTrap) := by
  have hbody : xunpkBody (xunpkBlock (vecIn s f)) f (cxOf s) s.pkg = .trap scaleTrap := by
    rw [hblock]
    exact if_pos hb
  exact (exec_xunpk f s).trans (issue_trap rfl h hbody)

theorem exec_xunpk_decodes (hb : f4xBadScale b = false) : exec (.xunpk f) s = .next (vecDone s f (xunpkOut f (vecIn s f) b)) := by
  have hbody : xunpkBody (xunpkBlock (vecIn s f)) f (cxOf s) s.pkg =
      if trapEnabled s.cur (xunpkOut f (vecIn s f) b).fl then .trap (fpTrap (xunpkOut f (vecIn s f) b).fl)
      else .done (vecWritten s f (xunpkOut f (vecIn s f) b).v (xunpkOut f (vecIn s f) b).fl (xunpkOut f (vecIn s f) b).sub) := by
    rw [hblock]
    exact if_neg (by simp [hb])
  exact (exec_xunpk f s).trans (issue_trapOrDone rfl h hbody)

/-- The elements of a block with a good scale, decoded. -/
theorem exec_xunpk_elements (hb : f4xBadScale b = false) : ∃ (v : VReg) (sub : Bool),
    let el := fun i => fvConvert (ft3Fmt (fld f.md 0 3)) .rn false (flushes s.cur) (f4xElem b i)
    let fl := guardedFlags (lanesOf s f) (ft3Fmt (fld f.md 0 3)).bits 32 (fun i => (el i).fl)
    (∀ i < 1024 / (ft3Fmt (fld f.md 0 3)).bits, elem (ft3Fmt (fld f.md 0 3)).bits v i =
      if i < 32 then (el i).bits % 2 ^ (ft3Fmt (fld f.md 0 3)).bits else 0) ∧
    exec (.xunpk f) s = .next (if trapEnabled s.cur fl then trapState s f (fpTrap fl)
      else advance s f (vecWritten s f v fl sub)) := by
  refine ⟨(xunpkOut f (vecIn s f) b).v, (xunpkOut f (vecIn s f) b).sub, ?_⟩
  intro el fl
  have hel (i : Nat) : el i = xunpkRd f s.cur b i := rfl
  have hfl : fl = (xunpkOut f (vecIn s f) b).fl := by
    rw [fl_xunpkOut]
    exact guardedFlags_congr fun i _ => congrArg Rd.fl (hel i)
  refine ⟨fun i _ => ?_, ?_⟩
  · rw [hel]
    exact elem_xunpkOut f (vecIn s f) b i
  · rw [hfl]
    exact exec_xunpk_decodes h hblock hb

end

end Sys2Proof.Machine

open Sys2Proof.Machine Sys2Proof.Claims

/-- Settles O14: XSCALE and XPACK by the bytes of their images, XUNPK by its scale and its elements. -/
theorem blockFormatResults : Obligations.BlockFormatResults := by
  refine ⟨fun s f h => ?xscale, fun s f h => ?xpack, fun s f h => ⟨fun hb => ?bad, fun hb => ?good⟩⟩
  case xscale => exact (exec_xscale f s).trans (issueVec_runs _ rfl h)
  case xpack =>
    refine ⟨(xpackOut (vecIn s f)).v, fun i hi => codes_xpackOut (vecIn s f) hi, scale_blockVec (packNat_lt 4 32 _) (elem_lt 8 _ _) (elem_lt 8 _ _),
      extra_blockVec (packNat_lt 4 32 _) (elem_lt 8 _ _) (elem_lt 8 _ _),
      fun j _ hj => rest_blockVec (packNat_lt 4 32 _) (elem_lt 8 _ _) (elem_lt 8 _ _) hj, ?_⟩
    refine ((exec_xpack f s).trans (issueVec_runs _ rfl h)).trans ?_
    rw [vecDone, fl_xpackOut]
    rfl
  case bad =>
    have hbad := (badScale_xunpkBlock (vecIn s f)).mpr hb
    rw [xunpkBlock_vecIn] at hbad
    exact exec_xunpk_badScale h (xunpkBlock_vecIn s f) hbad
  case good =>
    have hgood := Bool.eq_false_iff.mpr (mt (badScale_xunpkBlock (vecIn s f)).mp hb)
    rw [xunpkBlock_vecIn] at hgood
    exact exec_xunpk_elements h (xunpkBlock_vecIn s f) hgood
end

section
/-!
The order of float values (R76): negative numbers below positive ones, -0 below +0, by exact values.
-/
namespace Sys2Proof.Machine
open Sys2Proof.Claims

/-! Dyadic numbers as rationals. -/

/-- The value of a dyadic number. -/
def dyVal (d : Dy) : ℚ := d.m * 2 ^ d.e

theorem dyVal_eq_zero_iff (d : Dy) : dyVal d = 0 ↔ d.m = 0 := by simp [dyVal, zpow_ne_zero]

theorem dyVal_neg_iff (d : Dy) : dyVal d < 0 ↔ d.m < 0 := by
  rw [dyVal, mul_neg_iff]
  simp [zpow_pos, (zpow_pos (two_pos (α := ℚ)) d.e).not_gt]

theorem dyVal_dyNeg (d : Dy) : dyVal (dyNeg d) = -dyVal d := by simp [dyVal, dyNeg]

/-- A number over a lower exponent. -/
theorem dyVal_rescale (d : Dy) {e : Int} (h : e ≤ d.e) : ((d.m * 2 ^ (d.e - e).toNat : Int) : ℚ) * 2 ^ e = dyVal d := by
  have hexp : ((d.e - e).toNat : Int) = d.e - e := Int.toNat_of_nonneg (by omega)
  rw [dyVal, Int.cast_mul, Int.cast_pow, Int.cast_ofNat, ← zpow_natCast, hexp, mul_assoc, ← zpow_add₀ two_ne_zero, Int.sub_add_cancel]

theorem dyVal_dyAdd (a b : Dy) : dyVal (dyAdd a b) = dyVal a + dyVal b := by
  rw [dyAdd]
  by_cases ha : a.m = 0
  · rw [if_pos ha, (dyVal_eq_zero_iff a).mpr ha, zero_add]
  by_cases hb : b.m = 0
  · rw [if_neg ha, if_pos hb, (dyVal_eq_zero_iff b).mpr hb, add_zero]
  · rw [if_neg ha, if_neg hb, ← dyVal_rescale a (min_le_left a.e b.e), ← dyVal_rescale b (min_le_right a.e b.e), ← add_mul, ← Int.cast_add]
    rfl

theorem dyVal_difference (a b : Dy) : dyVal (dyAdd a (dyNeg b)) = dyVal a - dyVal b := by
  rw [dyVal_dyAdd, dyVal_dyNeg, sub_eq_add_neg]

theorem dyCmp_neg_iff (a b : Dy) : dyCmp a b < 0 ↔ dyVal a < dyVal b := by
  rw [dyCmp, ← dyVal_neg_iff, dyVal_difference, sub_neg]

theorem dyCmp_eq_zero_iff (a b : Dy) : dyCmp a b = 0 ↔ dyVal a = dyVal b := by
  rw [dyCmp, ← dyVal_eq_zero_iff, dyVal_difference, sub_eq_zero]

/-! The order of decoded values. -/

/-- -1, 0 or 1 for -infinity, a finite value or +infinity. -/
def fvInfSign : FV → Int
  | .inf neg => if neg then -1 else 1
  | _ => 0

/-- A decoded value in a linear order: by infinity, then by exact value, then by sign. -/
def fvKey (v : FV) : ℤ ×ₗ ℚ ×ₗ Bool := toLex (fvInfSign v, toLex (dyVal (dyOf v), !fvNeg v))

theorem fvKey_lt_iff (a b : FV) : fvKey a < fvKey b ↔ fvInfSign a < fvInfSign b ∨ fvInfSign a = fvInfSign b ∧
    (dyCmp (dyOf a) (dyOf b) < 0 ∨ dyCmp (dyOf a) (dyOf b) = 0 ∧ fvNeg a = true ∧ fvNeg b = false) := by
  rw [fvKey, fvKey, Prod.Lex.toLex_lt_toLex, Prod.Lex.toLex_lt_toLex, dyCmp_neg_iff, dyCmp_eq_zero_iff]
  simp [Bool.lt_iff]

/-- Of two values that are no infinity the exact values decide, then the signs. -/
theorem fvLt_of_noInf {a b : FV} (ha : fvIsInf a = false) (hb : fvIsInf b = false) : fvLt true a b =
    (decide (dyCmp (dyOf a) (dyOf b) < 0) || (decide (dyCmp (dyOf a) (dyOf b) = 0) && fvNeg a && !fvNeg b)) := by
  cases a with
  | inf na => cases ha
  | nan | fin =>
    cases b with
    | inf nb => cases hb
    | nan | fin => rfl

theorem fvInfSign_of_noInf {a : FV} (ha : fvIsInf a = false) : fvInfSign a = 0 := by
  cases a with
  | inf na => cases ha
  | nan | fin => rfl

theorem fvLt_iff (a b : FV) : fvLt true a b = true ↔ fvKey a < fvKey b := by
  rw [fvKey_lt_iff]
  cases ha : fvIsInf a with
  | false =>
    cases hb : fvIsInf b with
    | false => simp [fvLt_of_noInf ha hb, fvInfSign_of_noInf ha, fvInfSign_of_noInf hb, and_assoc]
    | true =>
      cases b with
      | inf nb => cases a <;> cases nb <;> simp_all [fvLt, fvInfSign, fvIsInf]
      | nan | fin => cases hb
  | true =>
    cases a with
    | inf na =>
      cases b with
      | inf nb => cases na <;> cases nb <;> simp [fvLt, fvInfSign, dyOf, dyCmp, dyAdd, dyNeg, dyZero, fvNeg]
      | nan | fin => cases na <;> simp [fvLt, fvInfSign]
    | nan | fin => cases ha

end Sys2Proof.Machine
end

section
/-!
What a value becomes in F32, as the reductions read it (R96): a bound of every rounded magnitude, and no NaN but the default one.
-/
namespace Sys2Proof.Machine
open Sys2Proof.Claims

/-! Rounded magnitudes. -/

/-- A rounded magnitude has a bit more than its exponent distance at most. -/
theorem roundAt_le (rm : Rm) (neg : Bool) (x : Mag) {q : Int} {k : Nat} (h : (Nat.log2 x.m : Int) + x.e - q ≤ k) :
    (roundAt rm neg x q).1 ≤ 2 ^ (k + 1) := by
  have hm : x.m < 2 ^ (Nat.log2 x.m + 1) := Nat.lt_log2_self
  rw [roundAt]
  split
  case isTrue hq =>
    calc x.m * 2 ^ (x.e - q).toNat ≤ 2 ^ (Nat.log2 x.m + 1) * 2 ^ (x.e - q).toNat := Nat.mul_le_mul_right _ hm.le
      _ = 2 ^ (Nat.log2 x.m + 1 + (x.e - q).toNat) := (Nat.pow_add ..).symm
      _ ≤ 2 ^ (k + 1) := Nat.pow_le_pow_right Nat.two_pos (by omega)
  case isFalse hq =>
    have hquot : x.m / 2 ^ (q - x.e).toNat < 2 ^ (k + 1) := by
      rw [Nat.div_lt_iff_lt_mul (Nat.two_pow_pos _), ← Nat.pow_add]
      exact Nat.lt_of_lt_of_le hm (Nat.pow_le_pow_right Nat.two_pos (by omega))
    have hup (up : Bool) : (if up then x.m / 2 ^ (q - x.e).toNat + 1 else x.m / 2 ^ (q - x.e).toNat) ≤ x.m / 2 ^ (q - x.e).toNat + 1 := by
      cases up <;> simp
    exact (hup _).trans hquot

/-- The magnitude bits of F32's infinity. -/
def f32InfBits : Nat := 255 * 2 ^ 23

/-- Any encoding up to infinity's is no NaN. -/
theorem decodeF_f32_notNaN {x : Nat} (h : x % 2 ^ 31 ≤ f32InfBits) : fvIsNaN (decodeF fmtF32 x) = false := by
  rw [f32InfBits] at h
  simp only [decodeF, fmtF32, Nat.shiftRight_eq_div_pow]
  split
  · rfl
  split
  case isTrue hexp =>
    have hfraction : x % 2 ^ 23 = 0 := by omega
    rw [if_neg Bool.false_ne_true, if_pos hfraction]
    rfl
  case isFalse => rfl

theorem signBit_mod_f32 (neg : Bool) {m : Nat} (h : m ≤ f32InfBits) : (signBit fmtF32 neg + m) % 2 ^ 31 ≤ f32InfBits := by
  rw [f32InfBits] at h ⊢
  cases neg <;> simp only [signBit, fmtF32] <;> split <;> omega

theorem overflowRd_f32 (neg : Bool) : (overflowRd fmtF32 .rn neg false).bits = signBit fmtF32 neg + f32InfBits := by
  cases neg <;> decide

theorem roundMag_f32 (neg : Bool) (x : Mag) : (roundMag fmtF32 .rn false false neg x).bits % 2 ^ 31 ≤ f32InfBits := by
  rw [roundMag]
  have hr := roundAt_le .rn neg x (q := max ((Nat.log2 x.m : Int) + x.e - 23) (-149)) (k := 23) (by omega)
  have hmb : (fmtF32.mb : Int) = 23 := rfl
  have hbias : (fmtF32.bias : Int) = 127 := rfl
  have hemax : fmtEmax fmtF32 = 127 := rfl
  have hsig : fmtMaxSig fmtF32 = 2 ^ 24 - 1 := rfl
  simp only [hmb, hbias, hemax, hsig, show (1 : Int) - 127 - 23 = -149 from rfl]
  generalize (Nat.log2 x.m : Int) + x.e = E at hr ⊢
  generalize roundAt .rn neg x (max (E - 23) (-149)) = res at hr ⊢
  obtain ⟨r, inexact⟩ := res
  dsimp only at hr ⊢
  split
  case isTrue =>
    rw [overflowRd_f32]
    exact signBit_mod_f32 neg (Nat.le_refl _)
  case isFalse hfinite =>
    rw [if_neg (by simp), Nat.add_assoc]
    refine signBit_mod_f32 neg ?_
    rw [f32InfBits, show fmtF32.mb = 23 from rfl]
    omega

theorem roundDy_f32 (neg : Bool) (d : Dy) : (roundDy fmtF32 .rn false false neg d).bits % 2 ^ 31 ≤ f32InfBits := by
  rw [roundDy]
  split
  · exact signBit_mod_f32 neg (m := 0) (Nat.zero_le _)
  · exact roundMag_f32 _ _

theorem f32Bits_of_nan {v : FV} (h : fvIsNaN v = true) : f32Bits v = fmtNaN fmtF32 := by
  cases v with
  | nan s => cases s <;> rfl
  | inf | fin => cases h

theorem f32Bits_notNaN {v : FV} (h : fvIsNaN v = false) : fvIsNaN (decodeF fmtF32 (f32Bits v)) = false := by
  cases v with
  | nan => cases h
  | inf n => exact decodeF_f32_notNaN (signBit_mod_f32 n (Nat.le_refl _))
  | fin n m e => exact decodeF_f32_notNaN (roundDy_f32 n _)

end Sys2Proof.Machine
end

section
/-!
VREDA, VREDM and VSCAN (R96, R97).
-/
namespace Sys2Proof.Machine
open Sys2Proof.Claims

theorem issueReduce_runs {i : Instr} {c : Nat} {f : Fields} {s : State} (comp : Fields → VIn → Word × Flags × Bool)
    (hw : i.word = some (c, f)) (h : runs i .lane0 s = true) : issueReduce i comp s =
      .next (advance s f (reduced s f (comp f (vecIn s f)).1 (comp f (vecIn s f)).2.1 (comp f (vecIn s f)).2.2)) := issue_done hw h rfl

theorem exec_vreda (f : Fields) (s : State) :
    exec (.vreda f) s = issueReduce (.vreda f) (fun f x => vreda (fld f.md 0 4) (flushes x.sl) x.a) s := rfl

theorem exec_vredm (f : Fields) (s : State) :
    exec (.vredm f) s = issueReduce (.vredm f) (fun f x => vredm (fld f.md 0 4) (bit f.md 4) (flushes x.sl) x.a) s := rfl

theorem exec_vscan (f : Fields) (s : State) :
    exec (.vscan f) s = issueVec (.vscan f) (fun f x => vscan (fld f.md 0 4) (flushes x.sl) x.g x.a) s := rfl

/-! Exact sums. -/

theorem foldl_add_eq_sum {α M : Type} [AddCommMonoid M] (g : α → M) (l : List α) (a : M) :
    l.foldl (fun acc x => acc + g x) a = a + (l.map g).sum := by
  induction l generalizing a with
  | nil => simp
  | cons x l ih => rw [List.foldl_cons, ih, List.map_cons, List.sum_cons, add_assoc]

/-- The elements of a type of 32 bits are the lanes. -/
theorem redElems_lanes {ty : Nat} (h : redWidth ty = 32) (v : VReg) : redElems ty v = (List.range 32).map (fun l => (lane v l).toNat) := by
  rw [redElems, h]
  simp only [toNat_lane]

theorem asInt_lane (v : VReg) (l : Nat) : asInt 32 (lane v l).toNat = (lane v l).toInt := by
  rw [asInt_eq_toInt (by decide), BitVec.ofNat_toNat, BitVec.setWidth_eq]

theorem vreda_signed (flush : Bool) (v : VReg) :
    vreda 0 flush v = (BitVec.ofInt 64 (((List.range 32).map (fun l => lane v l)).map BitVec.toInt).sum, 0, false) := by
  rw [vreda, if_pos rfl, foldl_add_eq_sum, redElems_lanes rfl]
  simp only [List.map_map, zero_add, Function.comp_def, asInt_lane]

theorem vreda_unsigned (flush : Bool) (v : VReg) :
    vreda 4 flush v = (BitVec.ofNat 64 (((List.range 32).map (fun l => lane v l)).map BitVec.toNat).sum, 0, false) := by
  rw [vreda, if_neg (by decide), if_pos rfl, foldl_add_eq_sum (fun x => x), redElems_lanes rfl]
  simp only [List.map_map, zero_add, Function.comp_def]

/-- The float sum is the pairwise tree's. -/
theorem vreda_float {ty : Nat} (h0 : ty ≠ 0) (h4 : ty ≠ 4) (flush : Bool) (v : VReg) :
    vreda ty flush v = (BitVec.ofNat 64 (pairTree 6 ((redElems ty v).map (redToF32 ty flush)) (if anySig ty (redElems ty v) then fNV else 0)).1,
      (pairTree 6 ((redElems ty v).map (redToF32 ty flush)) (if anySig ty (redElems ty v) then fNV else 0)).2, anySub ty (redElems ty v)) := by
  rw [vreda, if_neg h0, if_neg h4]

/-! The best element of a list. -/

section
variable {better : Nat → Nat → Bool}

theorem foldl_better_mem (l : List Nat) (b : Nat) : l.foldl (fun b y => if better y b then y else b) b ∈ b :: l := by
  induction l generalizing b with
  | nil => exact List.mem_singleton_self b
  | cons y l ih =>
    rw [List.foldl_cons]
    have hmem := ih (if better y b then y else b)
    rw [List.mem_cons] at hmem ⊢
    rcases hmem with h | h
    · rw [h]
      split <;> simp
    · simp [h]

theorem pickBy_mem {l : List Nat} (hl : l ≠ []) : pickBy better l ∈ l := by
  cases l with
  | nil => exact absurd rfl hl
  | cons x l => exact foldl_better_mem l x

variable (hirr : ∀ x, better x x = false) (htrans : ∀ x y z, better x y = true → better y z = true → better x z = true)
include hirr htrans

/-- What is not better than the best so far is not better than the best at the end. -/
theorem foldl_better_best (l : List Nat) (b : Nat) {seen : Nat → Prop} (hseen : ∀ y, seen y → better y b = false) :
    ∀ y, seen y ∨ y ∈ l → better y (l.foldl (fun b y => if better y b then y else b) b) = false := by
  induction l generalizing b seen with
  | nil => simpa using hseen
  | cons z l ih =>
    intro y hy
    refine ih (if better z b then z else b) (seen := fun y => seen y ∨ y = z) (fun y hy => ?_) y (by simpa [or_assoc] using hy)
    split
    case isTrue hz =>
      rcases hy with hy | rfl
      · exact Bool.eq_false_iff.mpr fun hyz => Bool.false_ne_true ((hseen y hy).symm.trans (htrans y z b hyz hz))
      · exact hirr y
    case isFalse hz =>
      rcases hy with hy | rfl
      · exact hseen y hy
      · exact Bool.eq_false_iff.mpr hz

/-- Nothing in a list is better than its best element. -/
theorem pickBy_best (l : List Nat) : ∀ y ∈ l, better y (pickBy better l) = false := by
  cases l with
  | nil => simp
  | cons x l =>
    intro y hy
    exact foldl_better_best hirr htrans l x (seen := (· = x)) (fun y hy => hy ▸ hirr x) y (List.mem_cons.mp hy)

end

/-! Integer minimum and maximum. -/

/-- The order by which VREDM takes a minimum or a maximum of integers. -/
def intBetter (isMin : Bool) (val : Nat → Int) (y b : Nat) : Bool := if isMin then decide (val y < val b) else decide (val b < val y)

theorem intBetter_irrefl (isMin : Bool) (val : Nat → Int) (x : Nat) : intBetter isMin val x x = false := by
  cases isMin <;> simp [intBetter]

theorem intBetter_trans (isMin : Bool) (val : Nat → Int) (x y z : Nat) (hxy : intBetter isMin val x y = true)
    (hyz : intBetter isMin val y z = true) : intBetter isMin val x z = true := by
  cases isMin <;> simp only [intBetter, if_true, Bool.false_eq_true, if_false, decide_eq_true_eq] at * <;> omega

/-- The best lane is one of the lanes, and none is beyond it. -/
theorem pickBy_lanes (isMin : Bool) (val : Nat → Int) (v : VReg) :
    (∃ l < 32, pickBy (intBetter isMin val) (redElems 0 v) = (lane v l).toNat) ∧
    ∀ l < 32, if isMin then val (pickBy (intBetter isMin val) (redElems 0 v)) ≤ val (lane v l).toNat
      else val (lane v l).toNat ≤ val (pickBy (intBetter isMin val) (redElems 0 v)) := by
  have hmem := pickBy_mem (better := intBetter isMin val) (l := redElems 0 v) (by rw [redElems_lanes rfl]; simp)
  have hbest := pickBy_best (intBetter_irrefl isMin val) (intBetter_trans isMin val) (redElems 0 v)
  generalize pickBy (intBetter isMin val) (redElems 0 v) = best at hmem hbest ⊢
  rw [redElems_lanes rfl] at hmem hbest
  obtain ⟨l, hl, rfl⟩ := List.mem_map.mp hmem
  refine ⟨⟨l, List.mem_range.mp hl, rfl⟩, fun j hj => ?_⟩
  have hj := hbest _ (List.mem_map.mpr ⟨j, List.mem_range.mpr hj, rfl⟩)
  cases isMin <;> simpa [intBetter] using hj

theorem vredm_signed (isMin flush : Bool) (v : VReg) :
    vredm 0 isMin flush v = (BitVec.ofInt 64 (asInt 32 (pickBy (intBetter isMin (asInt 32)) (redElems 0 v))), 0, false) := rfl

theorem vredm_unsigned (isMin flush : Bool) (v : VReg) :
    vredm 4 isMin flush v = (BitVec.ofNat 64 (pickBy (intBetter isMin (fun x => x)) (redElems 0 v)), 0, false) := by
  have hbetter : (fun y b => if isMin then decide (y < b) else decide (b < y)) = intBetter isMin (fun x => (x : Int)) := by
    funext y b
    simp only [intBetter, Int.ofNat_lt]
  have hlanes : redElems 4 v = redElems 0 v := by rw [redElems_lanes rfl, redElems_lanes rfl]
  rw [vredm, if_neg (by decide), if_pos rfl, hbetter, hlanes]

/-- The signed word is the value of one lane, and no lane is beyond it. -/
theorem vredm_signed_best (isMin flush : Bool) (v : VReg) :
    (∃ l < 32, (vredm 0 isMin flush v).1.toInt = (lane v l).toInt) ∧
    ∀ l < 32, if isMin then (vredm 0 isMin flush v).1.toInt ≤ (lane v l).toInt else (lane v l).toInt ≤ (vredm 0 isMin flush v).1.toInt := by
  obtain ⟨⟨m, hm, hpick⟩, hbest⟩ := pickBy_lanes isMin (asInt 32) v
  have hval : (vredm 0 isMin flush v).1.toInt = asInt 32 (pickBy (intBetter isMin (asInt 32)) (redElems 0 v)) := by
    rw [vredm_signed, hpick, asInt_lane]
    exact BitVec.toInt_signExtend_of_le (by decide)
  rw [hval]
  exact ⟨⟨m, hm, by rw [hpick, asInt_lane]⟩, fun l hl => by simpa only [asInt_lane] using hbest l hl⟩

/-- The unsigned word is the value of one lane, and no lane is beyond it. -/
theorem vredm_unsigned_best (isMin flush : Bool) (v : VReg) :
    (∃ l < 32, (vredm 4 isMin flush v).1.toNat = (lane v l).toNat) ∧
    ∀ l < 32, if isMin then (vredm 4 isMin flush v).1.toNat ≤ (lane v l).toNat else (lane v l).toNat ≤ (vredm 4 isMin flush v).1.toNat := by
  obtain ⟨⟨m, hm, hpick⟩, hbest⟩ := pickBy_lanes isMin (fun x => (x : Int)) v
  have hval : (vredm 4 isMin flush v).1.toNat = pickBy (intBetter isMin (fun x => x)) (redElems 0 v) := by
    rw [vredm_unsigned, hpick]
    exact toNat_ofNat_of_lt (lane v m).isLt (by decide)
  rw [hval]
  exact ⟨⟨m, hm, hpick⟩, fun l hl => by simpa only [Int.ofNat_le] using hbest l hl⟩

/-! Float minimum and maximum: a NaN loses to any other value. -/

/-- The order by which VREDM takes a minimum or a maximum of F32 encodings. -/
def floatBetter (isMin : Bool) (y b : Nat) : Bool :=
  !fvIsNaN (decodeF fmtF32 y) && (fvIsNaN (decodeF fmtF32 b) ||
    if isMin then fvLt true (decodeF fmtF32 y) (decodeF fmtF32 b) else fvLt true (decodeF fmtF32 b) (decodeF fmtF32 y))

theorem fvLt_irrefl (a : FV) : fvLt true a a = false := Bool.eq_false_iff.mpr (mt (fvLt_iff a a).mp (lt_irrefl _))

theorem fvLt_trans {a b c : FV} (hab : fvLt true a b = true) (hbc : fvLt true b c = true) : fvLt true a c = true :=
  (fvLt_iff a c).mpr (((fvLt_iff a b).mp hab).trans ((fvLt_iff b c).mp hbc))

theorem floatBetter_irrefl (isMin : Bool) (x : Nat) : floatBetter isMin x x = false := by
  cases h : fvIsNaN (decodeF fmtF32 x) <;> simp [floatBetter, fvLt_irrefl, h]

theorem floatBetter_trans (isMin : Bool) (x y z : Nat) (hxy : floatBetter isMin x y = true) (hyz : floatBetter isMin y z = true) :
    floatBetter isMin x z = true := by
  simp only [floatBetter, Bool.and_eq_true, Bool.not_eq_true', Bool.or_eq_true] at *
  obtain ⟨hx, hxy⟩ := hxy
  obtain ⟨hy, hyz⟩ := hyz
  refine ⟨hx, hyz.imp id fun hyz => ?_⟩
  have hxy := hxy.resolve_left (by simp [hy])
  cases isMin with
  | true => exact fvLt_trans hxy hyz
  | false => exact fvLt_trans hyz hxy

/-- An F32 encoding whose NaN, if it is one, is the default NaN. -/
def defaultNaNs (x : Nat) : Prop := fvIsNaN (decodeF fmtF32 x) = true → x = fmtNaN fmtF32

theorem defaultNaNs_f32Bits (v : FV) : defaultNaNs (f32Bits v) := by
  intro hnan
  cases hv : fvIsNaN v with
  | true => exact f32Bits_of_nan hv
  | false => exact absurd hnan (by simp [f32Bits_notNaN hv])

theorem fvIsSig_of_notNaN {v : FV} (h : fvIsNaN v = false) : fvIsSig v = false := by
  cases v with
  | nan => cases h
  | inf | fin => rfl

theorem notSig_of_defaultNaNs {x : Nat} (h : defaultNaNs x) : fvIsSig (decodeF fmtF32 x) = false := by
  cases hx : fvIsNaN (decodeF fmtF32 x) with
  | true =>
    rw [h hx]
    decide
  | false => exact fvIsSig_of_notNaN hx

theorem readF_noFlush (F : Fmt) (x : Nat) : readF F false x = decodeF F x := by simp [readF]

theorem flushBits_noFlush (F : Fmt) (x : Nat) : flushBits F false x = x := by simp [flushBits]

/-- minimumNumber or maximumNumber of decoded values none of which is signalling: the second operand where it is the better. -/
theorem fvMinMax_bits (F : Fmt) (isMin : Bool) {b y : Nat} (hb : fvIsSig (decodeF F b) = false) (hy : fvIsSig (decodeF F y) = false) :
    (fvMinMax F false isMin b y).bits =
      if fvIsNaN (decodeF F b) && fvIsNaN (decodeF F y) then fmtNaN F
      else if fvIsNaN (decodeF F b) then y
      else if fvIsNaN (decodeF F y) then b
      else if (if isMin then fvLt true (decodeF F y) (decodeF F b) else fvLt true (decodeF F b) (decodeF F y)) then y
      else b := by
  rw [fvMinMax]
  simp only [readF_noFlush, flushBits_noFlush]
  rw [hb, hy, if_neg (by simp)]
  simp only [apply_ite Rd.bits]
  rfl

theorem fvMinMax_eq (isMin : Bool) {b y : Nat} (hb : defaultNaNs b) (hy : defaultNaNs y) :
    (fvMinMax fmtF32 false isMin b y).bits = if floatBetter isMin y b then y else b := by
  rw [fvMinMax_bits fmtF32 isMin (notSig_of_defaultNaNs hb) (notSig_of_defaultNaNs hy), floatBetter]
  rw [defaultNaNs] at hb hy
  generalize decodeF fmtF32 b = vb at hb ⊢
  generalize decodeF fmtF32 y = vy at hy ⊢
  cases hnb : fvIsNaN vb <;> cases hny : fvIsNaN vy
  case true.true => simp [hb hnb]
  case true.false => simp
  case false.true => simp
  case false.false => simp

theorem foldl_fvMinMax_eq (isMin : Bool) (l : List Nat) {b : Nat} (hb : defaultNaNs b) (hl : ∀ y ∈ l, defaultNaNs y) :
    l.foldl (fun b y => (fvMinMax fmtF32 false isMin b y).bits) b = l.foldl (fun b y => if floatBetter isMin y b then y else b) b := by
  induction l generalizing b with
  | nil => rfl
  | cons y l ih =>
    have hy := hl y (List.mem_cons_self ..)
    rw [List.foldl_cons, List.foldl_cons, fvMinMax_eq isMin hb hy]
    refine ih ?_ fun z hz => hl z (List.mem_cons_of_mem y hz)
    split
    · exact hy
    · exact hb

/-- The elements of a float reduction, as F32. -/
def redFloats (ty : Nat) (flush : Bool) (v : VReg) : List Nat := (redElems ty v).map (redToF32 ty flush)

theorem defaultNaNs_redFloats {ty : Nat} {flush : Bool} {v : VReg} : ∀ x ∈ redFloats ty flush v, defaultNaNs x := by
  intro x hx
  obtain ⟨e, _, rfl⟩ := List.mem_map.mp hx
  exact defaultNaNs_f32Bits _

theorem vredm_sig {ty : Nat} (h : 8 ≤ ty) (isMin flush : Bool) {v : VReg} (hsig : anySig ty (redElems ty v) = true) :
    vredm ty isMin flush v = (BitVec.ofNat 64 (fmtNaN fmtF32), fNV, anySub ty (redElems ty v)) := by
  rw [vredm, if_neg (by omega), if_neg (by omega), if_pos hsig]

theorem vredm_float {ty : Nat} (h : 8 ≤ ty) (isMin flush : Bool) {v : VReg} (hsig : anySig ty (redElems ty v) = false) :
    vredm ty isMin flush v = (BitVec.ofNat 64 (pickBy (floatBetter isMin) (redFloats ty flush v)), 0, anySub ty (redElems ty v)) := by
  have hpick : ((redFloats ty flush v).drop 1).foldl (fun b y => (fvMinMax fmtF32 false isMin b y).bits) ((redFloats ty flush v).getD 0 0) =
      pickBy (floatBetter isMin) (redFloats ty flush v) := by
    have hclean := defaultNaNs_redFloats (ty := ty) (flush := flush) (v := v)
    generalize redFloats ty flush v = l at hclean
    cases l with
    | nil => rfl
    | cons x l => exact foldl_fvMinMax_eq isMin l (hclean x (List.mem_cons_self ..)) fun y hy => hclean y (List.mem_cons_of_mem x hy)
  rw [vredm, if_neg (by omega), if_neg (by omega), if_neg (by simp [hsig]), ← hpick]
  rfl

theorem redFloats_ne_nil {ty : Nat} (h : ty ≤ 10) (flush : Bool) (v : VReg) : redFloats ty flush v ≠ [] := by
  have hcount : 1024 / redWidth ty ≠ 0 := by interval_cases ty <;> decide
  simpa [redFloats, redElems] using hcount

/-- With no value but NaNs the best is the default NaN. -/
theorem pickBy_allNaN {isMin : Bool} {l : List Nat} (hl : l ≠ []) (hclean : ∀ x ∈ l, defaultNaNs x)
    (hnan : ∀ x ∈ l, fvIsNaN (decodeF fmtF32 x) = true) : pickBy (floatBetter isMin) l = fmtNaN fmtF32 :=
  hclean _ (pickBy_mem hl) (hnan _ (pickBy_mem hl))

/-- With a value that is no NaN the best is none, and no other value is beyond it. -/
theorem pickBy_someNumber {isMin : Bool} {l : List Nat} (hnum : ∃ x ∈ l, fvIsNaN (decodeF fmtF32 x) = false) :
    ∃ x ∈ l, fvIsNaN (decodeF fmtF32 x) = false ∧ pickBy (floatBetter isMin) l = x ∧
      ∀ y ∈ l, fvIsNaN (decodeF fmtF32 y) = false →
        if isMin then fvLt true (decodeF fmtF32 y) (decodeF fmtF32 x) = false else fvLt true (decodeF fmtF32 x) (decodeF fmtF32 y) = false := by
  obtain ⟨n, hn, hnn⟩ := hnum
  have hbest := pickBy_best (floatBetter_irrefl isMin) (floatBetter_trans isMin) l
  have hnumber : fvIsNaN (decodeF fmtF32 (pickBy (floatBetter isMin) l)) = false := by
    have hlost := hbest n hn
    rw [floatBetter, hnn, Bool.not_false, Bool.true_and, Bool.or_eq_false_iff] at hlost
    exact hlost.1
  refine ⟨_, pickBy_mem (List.ne_nil_of_mem hn), hnumber, rfl, fun y hy hyn => ?_⟩
  have hle := hbest y hy
  cases isMin <;> simpa [floatBetter, hyn, hnumber] using hle

/-! The scan. -/

/-- One step of a scan, in the type itself (R97). -/
def scanStep (ty : Nat) (flush : Bool) (acc x : Nat) : Rd :=
  if tyIsInt ty then ⟨(acc + x) % 2 ^ 32, 0⟩
  else fvAdd (fmtOfTy ty) .rn flush (readF (fmtOfTy ty) flush acc) (readF (fmtOfTy ty) flush x)

theorem scanGo_cons (ty : Nat) (flush : Bool) (acc x : Nat) (l : List Nat) : scanGo ty flush acc (x :: l) =
    ((scanStep ty flush acc x).bits, (scanStep ty flush acc x).fl) :: scanGo ty flush (scanStep ty flush acc x).bits l := rfl

theorem length_scanGo (ty : Nat) (flush : Bool) (acc : Nat) (l : List Nat) : (scanGo ty flush acc l).length = l.length := by
  induction l generalizing acc with
  | nil => rfl
  | cons x l ih => rw [scanGo_cons, List.length_cons, ih, List.length_cons]

/-- Each running sum is one step from the one before it. -/
theorem scanGo_step (ty : Nat) (flush : Bool) (l : List Nat) (acc : Nat) (fl : Flags) {j : Nat} (hj : j < l.length) :
    (((acc, fl) :: scanGo ty flush acc l).getD (j + 1) (0, 0)) =
      ((scanStep ty flush ((((acc, fl) :: scanGo ty flush acc l).getD j (0, 0)).1) (l.getD j 0)).bits,
        (scanStep ty flush ((((acc, fl) :: scanGo ty flush acc l).getD j (0, 0)).1) (l.getD j 0)).fl) := by
  induction l generalizing acc fl j with
  | nil => cases hj
  | cons x l ih =>
    rw [scanGo_cons]
    cases j with
    | zero => rfl
    | succ j => exact ih (scanStep ty flush acc x).bits (scanStep ty flush acc x).fl (Nat.lt_of_succ_lt_succ hj)

/-- The running sums that VSCAN makes, with the flags of each. -/
def scanned (ty : Nat) (flush : Bool) (v : VReg) : List (Nat × Flags) :=
  let first := if tyIsInt ty then elem (redWidth ty) v 0 else flushBits (fmtOfTy ty) flush (elem (redWidth ty) v 0)
  (first, 0) :: scanGo ty flush first ((redElems ty v).drop 1)

theorem getD_redElems (ty : Nat) (v : VReg) {j : Nat} (hj : j < 1024 / redWidth ty) : (redElems ty v).getD j 0 = elem (redWidth ty) v j := by
  rw [redElems, getD_map_range, if_pos hj]

theorem length_redElems (ty : Nat) (v : VReg) : (redElems ty v).length = 1024 / redWidth ty := by
  rw [redElems, List.length_map, List.length_range]

theorem scanned_succ (ty : Nat) (flush : Bool) (v : VReg) {j : Nat} (hj : j + 1 < 1024 / redWidth ty) :
    (scanned ty flush v).getD (j + 1) (0, 0) =
      ((scanStep ty flush ((scanned ty flush v).getD j (0, 0)).1 (elem (redWidth ty) v (j + 1))).bits,
        (scanStep ty flush ((scanned ty flush v).getD j (0, 0)).1 (elem (redWidth ty) v (j + 1))).fl) := by
  have hdrop : ((redElems ty v).drop 1).getD j 0 = elem (redWidth ty) v (j + 1) := by
    rw [← getD_redElems ty v hj, List.getD_eq_getElem?_getD, List.getElem?_drop, List.getD_eq_getElem?_getD, Nat.add_comm]
  rw [← hdrop]
  exact scanGo_step ty flush _ _ _ (by rw [List.length_drop, length_redElems]; omega)

theorem redCount_pos (ty : Nat) : 0 < 1024 / redWidth ty := by
  rw [redWidth]
  unfold tySize
  split <;> decide

theorem scanned_eq_map (ty : Nat) (flush : Bool) (v : VReg) :
    scanned ty flush v = (List.range (1024 / redWidth ty)).map (fun j => (scanned ty flush v).getD j (0, 0)) := by
  have hlen : (scanned ty flush v).length = 1024 / redWidth ty := by
    have hpos := redCount_pos ty
    rw [scanned, List.length_cons, length_scanGo, List.length_drop, length_redElems]
    omega
  refine List.ext_getElem (by simp [hlen]) fun j hj _ => ?_
  rw [List.getElem_map, List.getElem_range, List.getD_eq_getElem _ _ hj]

theorem vscan_eq (ty : Nat) (flush : Bool) (g : Mask) (v : VReg) : ∃ sub, vscan ty flush g v =
    packOut (redWidth ty) g ((List.range (1024 / redWidth ty)).map (fun j => (scanned ty flush v).getD j (0, 0))) sub := by
  rw [← scanned_eq_map, scanned, ← getD_redElems ty v (redCount_pos ty)]
  exact ⟨_, rfl⟩

/-- Running sum j and its flags. -/
def scanAt (ty : Nat) (flush : Bool) (v : VReg) (j : Nat) : Nat × Flags := (scanned ty flush v).getD j (0, 0)

/-- VSCAN by its running sums. -/
theorem exec_vscan_sums {f : Fields} {s : State} (h : runs (.vscan f) .lanes s = true) : ∃ (v : VReg) (sub : Bool),
    (∀ j < 1024 / redWidth (fld f.md 0 4), elem (redWidth (fld f.md 0 4)) v j =
      (scanAt (fld f.md 0 4) (flushes s.cur) (vA s f) j).1 % 2 ^ redWidth (fld f.md 0 4)) ∧
    exec (.vscan f) s = .next (vecDone s f ⟨v, guardedFlags (lanesOf s f) (redWidth (fld f.md 0 4)) (1024 / redWidth (fld f.md 0 4))
      (fun j => (scanAt (fld f.md 0 4) (flushes s.cur) (vA s f) j).2), sub⟩) := by
  obtain ⟨sub, hsub⟩ := vscan_eq (fld f.md 0 4) (flushes s.cur) (lanesOf s f) (vA s f)
  have hexec : exec (.vscan f) s = .next (vecDone s f (vscan (fld f.md 0 4) (flushes s.cur) (lanesOf s f) (vA s f))) :=
    (exec_vscan f s).trans (issueVec_runs _ rfl h)
  refine ⟨_, sub, fun j hj => (elem_packOut (lanesOf s f) _ sub (vecElements_fit _) j).trans (if_pos hj), ?_⟩
  rw [hexec, hsub, vecDone, vecDone, fl_packOut]
  rfl

end Sys2Proof.Machine

open Sys2Proof.Machine Sys2Proof.Claims

/-- Settles O8: the sums, then the best element in the order of each type, then the running sums step by step. -/
theorem reductionResults : Obligations.ReductionResults := by
  refine ⟨fun s f h => ?vreda, fun s f h => ?vredm, fun s f h => ?vscan⟩
  case vreda =>
    intro ty x r
    refine ((exec_vreda f s).trans (issueReduce_runs _ rfl h)).trans (congrArg (fun p => Host.Outcome.next (advance s f p)) ?_)
    change reduced s f (vreda ty (flushes s.cur) (vA s f)).1 (vreda ty (flushes s.cur) (vA s f)).2.1 (vreda ty (flushes s.cur) (vA s f)).2.2 = _
    split
    case isTrue h0 => rw [h0, vreda_signed]
    split
    case isTrue h4 => rw [h4, vreda_unsigned]
    case isFalse h0 h4 =>
      rw [vreda_float h0 h4]
      rfl
  case vredm =>
    refine ⟨(vredm (fld f.md 0 4) (bit f.md 4) (flushes s.cur) (vA s f)).1, (vredm (fld f.md 0 4) (bit f.md 4) (flushes s.cur) (vA s f)).2.1,
      (vredm (fld f.md 0 4) (bit f.md 4) (flushes s.cur) (vA s f)).2.2, (exec_vredm f s).trans (issueReduce_runs _ rfl h), ?_⟩
    generalize flushes s.cur = flush
    generalize vA s f = v
    generalize fld f.md 0 4 = ty
    generalize bit f.md 4 = isMin
    refine ⟨fun hty => ?signed, fun hty => ?unsigned, fun hty hsig => ?sig, fun hty hty' hsig => ?float⟩
    case signed =>
      subst hty
      exact ⟨rfl, vredm_signed_best isMin flush v⟩
    case unsigned =>
      subst hty
      exact ⟨by rw [vredm_unsigned], vredm_unsigned_best isMin flush v⟩
    case sig =>
      rw [vredm_sig hty isMin flush hsig]
      exact ⟨rfl, rfl⟩
    case float =>
      rw [vredm_float hty isMin flush hsig]
      refine ⟨rfl, fun hnan => ?_, fun hnum => ?_⟩
      · rw [pickBy_allNaN (redFloats_ne_nil hty' flush v) defaultNaNs_redFloats hnan]
      · obtain ⟨x, hx, hxn, hpick, hbest⟩ := pickBy_someNumber (isMin := isMin) hnum
        exact ⟨x, hx, hxn, congrArg (BitVec.ofNat 64) hpick, hbest⟩
  case vscan =>
    obtain ⟨v, sub, helem, hexec⟩ := exec_vscan_sums h
    exact ⟨v, fun j => (scanAt (fld f.md 0 4) (flushes s.cur) (vA s f) j).1, fun j => (scanAt (fld f.md 0 4) (flushes s.cur) (vA s f) j).2,
      sub, helem, rfl, rfl, fun j hj => Prod.ext_iff.mp (scanned_succ _ _ _ hj), hexec⟩
end

section
/-!
The frames of the register-only instructions (R79, R88, R92, R98, R99): each writes its destination in the part of its core, and the issue
then changes the slot that ran it.
-/
namespace Sys2Proof.Machine
open Sys2Proof.Claims

/-! A package that differs in the part of one core. -/

/-- The package `q` is `p` but for the part of core `c`, which is `k`. -/
def onlyPart (p q : Pkg) (c : Nat) (k : Part) : Prop :=
  q = { p with cores := q.cores } ∧ (∀ d, d ≠ c → coreOf q d = coreOf p d) ∧ coreOf q c = { coreOf p c with part := k }

theorem onlyPart_refl (p : Pkg) (c : Nat) : onlyPart p p c (partOf p c) := ⟨rfl, fun _ _ => rfl, rfl⟩

/-- Packages that agree but for their cores stay so when the cores are replaced. -/
theorem withCores_eq {p q : Pkg} (h : q = { p with cores := q.cores }) (m : SMap Core) : { q with cores := m } = { p with cores := m } :=
  congrArg (fun r : Pkg => { r with cores := m }) h

section
variable {p q : Pkg} {c n : Nat} {k : Part}

theorem partOf_of_onlyPart (h : onlyPart p q c k) : partOf q c = k := by
  obtain ⟨_, _, hcore⟩ := h
  rw [partOf, hcore]

theorem onlyPart_updPart (h : onlyPart p q c k) (g : Part → Part) (hlive : (slotOf (g k) n).live = true) :
    onlyPart p (updPart q c g) c (g k) := by
  have hpart := partOf_of_onlyPart h
  obtain ⟨hpkg, hother, hcore⟩ := h
  refine ⟨withCores_eq hpkg _, fun d hd => (coreOf_updPart_other q g hd).trans (hother d hd), ?_⟩
  rw [updPart, setPart, updCore, hpart, hcore]
  exact coreOf_setCore_self q c (ne_coreReset (n := n) hlive)

end

/-! The issue of an instruction that goes to the next word. -/

/-- The cycles until the slot may issue again (R30, R253). -/
def readyLater (s : State) (f : Fields) (x : Slot) : Slot :=
  if x.live then { x with readyAt := max x.readyAt ((coreOf s.pkg s.core).cycle + 4 * (f.yld.toNat + 1)) } else x

/-- The slot stands at the next word and holds for nothing. -/
def nextWord (s : State) (x : Slot) : Slot := { x with pc := s.cur.pc + 12, hold := .none, cap := none, walkFault := none }

/-- The part after the issue, from the part `k` that the instruction made. -/
def issuedPart (s : State) (f : Fields) (k : Part) : Part := updSlot (updSlot k s.slot (readyLater s f)) s.slot (nextWord s)

section
variable {s : State} {f : Fields} {q : Pkg} {k : Part}

theorem live_readyLater {x : Slot} (h : x.live = true) : (readyLater s f x).live = true := by
  rw [readyLater, if_pos h]
  exact h

theorem slotOf_issuedPart_self (hlive : (slotOf k s.slot).live = true) :
    slotOf (issuedPart s f k) s.slot = nextWord s (readyLater s f (slotOf k s.slot)) := by
  have hready : slotOf (updSlot k s.slot (readyLater s f)) s.slot = readyLater s f (slotOf k s.slot) :=
    slotOf_updSlot_live (live_readyLater hlive)
  rw [issuedPart, slotOf_updSlot_live (by rw [hready]; exact live_readyLater hlive), hready]

theorem slotOf_issuedPart_other {n : Nat} (hn : n ≠ s.slot) : slotOf (issuedPart s f k) n = slotOf k n := by
  rw [issuedPart, slotOf_updSlot_other _ _ hn, slotOf_updSlot_other _ _ hn]

theorem coreOf_markIssued (h : onlyPart s.pkg q s.core k) (hlive : (slotOf k s.slot).live = true) :
    coreOf (markIssued q (cxOf s) f) s.core =
      { coreOf s.pkg s.core with last := s.slot, alive := s.time, part := updSlot k s.slot (readyLater s f) } := by
  obtain ⟨_, _, hcore⟩ := h
  have hready : (slotOf (updSlot k s.slot (readyLater s f)) s.slot).live = true := by
    rw [slotOf_updSlot_live (live_readyLater hlive)]
    exact live_readyLater hlive
  change coreOf (updCore q s.core _) s.core = _
  rw [updCore, hcore]
  exact coreOf_setCore_self q s.core (ne_coreReset (n := s.slot) hready)

theorem coreOf_advance (h : onlyPart s.pkg q s.core k) (hlive : (slotOf k s.slot).live = true) :
    coreOf (advance s f q).pkg s.core =
      { coreOf s.pkg s.core with part := issuedPart s f k, last := s.slot, alive := s.time } := by
  have hissued : (slotOf (issuedPart s f k) s.slot).live = true := by
    rw [slotOf_issuedPart_self hlive]
    exact live_readyLater hlive
  change coreOf (updPart (markIssued q (cxOf s) f) s.core _) s.core = _
  rw [updPart, setPart, updCore, partOf, coreOf_markIssued h hlive]
  exact coreOf_setCore_self _ s.core (ne_coreReset (n := s.slot) hissued)

theorem coreOf_advance_other (h : onlyPart s.pkg q s.core k) {c : Nat} (hc : c ≠ s.core) : coreOf (advance s f q).pkg c = coreOf s.pkg c := by
  obtain ⟨_, hother, _⟩ := h
  exact (coreOf_updPart_other _ _ hc).trans ((coreOf_setCore_other q _ hc).trans (hother c hc))

/-- A live slot that holds for nothing, after the issue. -/
def issuedSlot (s : State) (f : Fields) (x : Slot) : Slot :=
  { x with
    pc := s.cur.pc + 12
    readyAt := max x.readyAt ((coreOf s.pkg s.core).cycle + 4 * (f.yld.toNat + 1))
    cap := none
    walkFault := none }

/-- The issue leaves all but the pc, the ready cycle, the capability and the walk fault. -/
theorem issuedSlot_eq {x y : Slot} (h : x = y) : issuedSlot s f x =
    { y with pc := (issuedSlot s f x).pc, readyAt := (issuedSlot s f x).readyAt, cap := none, walkFault := none } := by
  subst h
  rfl

theorem nextWord_readyLater {x : Slot} (hlive : x.live = true) (hhold : x.hold = .none) :
    nextWord s (readyLater s f x) = issuedSlot s f x := by
  rw [readyLater, if_pos hlive, nextWord, issuedSlot, hhold]

/-- An instruction that changed the part of its core, and in it no other slot, then issues. -/
theorem onlySlot_advance (h : onlyPart s.pkg q s.core k) (hlive : (slotOf k s.slot).live = true) (hhold : (slotOf k s.slot).hold = .none)
    (hothers : ∀ n, n ≠ s.slot → slotOf k n = slotOf s.part n) :
    onlySlot s (advance s f q) (issuedPart s f k) (issuedSlot s f (slotOf k s.slot)) := by
  obtain ⟨hpkg, _, _⟩ := id h
  refine ⟨rfl, rfl, withCores_eq hpkg _, fun _ => coreOf_advance_other h, coreOf_advance h hlive,
    fun n hn => (slotOf_issuedPart_other hn).trans (hothers n hn), ?_⟩
  rw [slotOf_issuedPart_self hlive, nextWord_readyLater hlive hhold]

end

/-- Parts that agree but for their slots stay so when the slots are replaced. -/
theorem withSlots_eq {k l : Part} (h : k = { l with slots := k.slots }) (m : SMap Slot) : { k with slots := m } = { l with slots := m } :=
  congrArg (fun r : Part => { r with slots := m }) h

/-! Scalar destinations. -/

/-- The instruction writes a scalar to D. -/
def writesScalar (i : Fields → Instr) : Prop :=
  ∀ (s : State) (f : Fields), runs (i f) .lane0 s = true → ∃ v : Word, exec (i f) s = .next (advance s f (writeD s f v))

/-- The part `k` is the slot's own but for a scalar destination. -/
def scalarPart (s : State) (f : Fields) (k : Part) : Prop :=
  k = { s.part with slots := k.slots } ∧ (∀ n, n ≠ s.slot → slotOf k n = slotOf s.part n) ∧
  slotOf k s.slot = { s.cur with sregs := (slotOf k s.slot).sregs, badRegs := (slotOf k s.slot).badRegs } ∧
  ∀ r : BitVec 5, f.d ≠ .s r → sregOf (slotOf k s.slot) r.toNat = sregOf s.cur r.toNat ∧
    (r.toNat ∈ (slotOf k s.slot).badRegs ↔ r.toNat ∈ s.cur.badRegs)

theorem scalarPart_part (s : State) (f : Fields) : scalarPart s f s.part := ⟨rfl, fun _ _ => rfl, rfl, fun _ _ => ⟨rfl, Iff.rfl⟩⟩

theorem scalarPart_writeScalar {s : State} {f : Fields} (hlive : s.cur.live = true) (v : Word) :
    scalarPart s f (writeScalar s.part s.slot v f.d) := by
  cases hd : f.d with
  | s r =>
    have hslot : slotOf (writeScalar s.part s.slot v (.s r)) s.slot = setSreg s.cur r.toNat v :=
      slotOf_updSlot_live (g := fun x => setSreg x r.toNat v) hlive
    refine ⟨rfl, fun n hn => slotOf_updSlot_other _ _ hn, by rw [hslot]; rfl, fun q hq => ?_⟩
    have hne : q.toNat ≠ r.toNat := fun h => hq (by rw [hd, BitVec.eq_of_toNat_eq h])
    rw [hslot]
    refine ⟨sregOf_setSreg_other _ _ hne, ?_⟩
    simp [setSreg, hne]
  | _ => exact scalarPart_part s f

theorem scalarFrame_of_part {i : Fields → Instr} {c : Nat} (hw : ∀ f, (i f).word = some (c, f))
    (h : ∀ s f, runs (i f) .lane0 s = true → s.cur.live = true → ∃ (q : Pkg) (k : Part), exec (i f) s = .next (advance s f q) ∧
      onlyPart s.pkg q s.core k ∧ scalarPart s f k) : scalarFrame i := by
  intro s f t hruns hexec
  obtain ⟨hlive, hhold⟩ := hold_of_runs (hw f) hruns
  obtain ⟨q, k, hq, hpart, hk, hothers, hslot, hregs⟩ := h s f hruns hlive
  obtain rfl : advance s f q = t := Host.Outcome.next.inj (hq.symm.trans hexec)
  have hklive : (slotOf k s.slot).live = true := (congrArg Slot.live hslot).trans hlive
  have hkhold : (slotOf k s.slot).hold = .none := (congrArg Slot.hold hslot).trans hhold
  exact ⟨_, _, onlySlot_advance hpart hklive hkhold hothers, withSlots_eq hk _, issuedSlot_eq hslot, hregs⟩

theorem scalarFrame_of_writes {i : Fields → Instr} {c : Nat} (hw : ∀ f, (i f).word = some (c, f)) (h : writesScalar i) : scalarFrame i := by
  refine scalarFrame_of_part hw fun s f hruns hlive => ?_
  obtain ⟨v, hexec⟩ := h s f hruns
  have hpart := scalarPart_writeScalar (f := f) hlive v
  obtain ⟨_, _, hslot, _⟩ := id hpart
  exact ⟨_, _, hexec, onlyPart_updPart (onlyPart_refl _ _) _ ((congrArg Slot.live hslot).trans hlive), hpart⟩

theorem scalarFrame_of_row {i : Fields → Instr} {c : Nat} {r : State → Fields → Word} (h : scalarRow i r)
    (hw : ∀ f, (i f).word = some (c, f)) : scalarFrame i := scalarFrame_of_writes hw fun s f hruns => ⟨r s f, h s f hruns⟩

theorem scalarFrame_nop : scalarFrame .nop :=
  scalarFrame_of_part (fun _ => rfl) fun s f hruns _ =>
    ⟨s.pkg, s.part, (exec_nop f s).trans (issue_done rfl hruns rfl), onlyPart_refl _ _, scalarPart_part s f⟩

/-! Vector destinations. -/

/-- The instruction writes a vector to D, where no flag traps. -/
def writesVector (i : Fields → Instr) : Prop :=
  ∀ (s : State) (f : Fields), runs (i f) .lanes s = true → ∃ (v : VReg) (fl : Flags) (sub : Bool),
    exec (i f) s = .next (if trapEnabled s.cur fl then trapState s f (fpTrap fl) else advance s f (vecWritten s f v fl sub))

theorem popMesh_of_noMesh {o : Opd} (h : noMesh o) (p : Pkg) (c : Nat) : popMesh p c o = p := by
  cases o with
  | m ch b w => exact absurd rfl (h ch b w)
  | _ => rfl

theorem popSources_of_noMesh {f : Fields} (ha : noMesh f.a) (hb : noMesh (bDesc f.b)) (p : Pkg) (c : Nat) : popSources p c f = p := by
  rw [popSources, popMesh_of_noMesh ha, popMesh_of_noMesh hb]

/-- With no trap enabled and COMPAT clear, no flag traps and no cycle is forfeited. -/
theorem trapEnabled_of_fpmode {x : Slot} (h : x.fpmode = 0) (fl : Flags) : trapEnabled x fl = false := by simp [trapEnabled, h, fld]

theorem slotOf_orFlags {k : Part} {n : Nat} (hlive : (slotOf k n).live = true) (fl : Flags) :
    slotOf (orFlags k n fl) n = { slotOf k n with fpflags := (slotOf k n).fpflags ||| fl } :=
  slotOf_updSlot_live (g := fun x => { x with fpflags := x.fpflags ||| fl }) hlive

theorem onlyPart_finishFlags {p q : Pkg} {cx : Cx} {k : Part} (h : onlyPart p q cx.core k) (hlive : (slotOf k cx.slot).live = true)
    (hmode : (slotOf k cx.slot).fpmode = 0) (fl : Flags) (sub : Bool) :
    onlyPart p (finishFlags q cx fl sub) cx.core (orFlags k cx.slot fl) := by
  have hpart : onlyPart p (updPart q cx.core (fun k => orFlags k cx.slot fl)) cx.core (orFlags k cx.slot fl) :=
    onlyPart_updPart (n := cx.slot) h (fun k => orFlags k cx.slot fl) (by rw [slotOf_orFlags hlive]; exact hlive)
  have hcompat : bit (slotOf (partOf (updPart q cx.core (fun k => orFlags k cx.slot fl)) cx.core) cx.slot).fpmode 8 = false := by
    rw [partOf_of_onlyPart hpart, slotOf_orFlags hlive, hmode]
    decide
  rw [finishFlags, forfeit, hcompat, Bool.and_false, if_neg Bool.false_ne_true]
  exact hpart

theorem or_or_self_flags (a b : Flags) : a ||| (a ||| b) = a ||| b := by rw [← BitVec.or_assoc, BitVec.or_self]

/-- The part after a write of vD: its own register file but for one register. -/
def vectorPart (s : State) (f : Fields) (r : BitVec 7) (v : VReg) (k : Part) : Part :=
  setVregAt k (physReg k s.slot r.toNat) (mergeLanes (lanesOf s f) (vregAt k (physReg k s.slot r.toNat)) v)

theorem vregAt_vectorPart_other {s : State} {f : Fields} {r : BitVec 7} {v : VReg} {n : Nat} (hn : n ≠ physReg s.part s.slot r.toNat) :
    vregAt (vectorPart s f r v s.part) n = vregAt s.part n ∧ (n ∈ (vectorPart s f r v s.part).badVregs ↔ n ∈ s.part.badVregs) :=
  ⟨mapGet_put_other 0 s.part.vregs _ hn, by simp [vectorPart, setVregAt, hn]⟩

theorem vregAt_vectorPart_self {s : State} {f : Fields} {r : BitVec 7} {v : VReg} (hsorted : mapSorted 0 s.part.vregs = true) :
    vregAt (vectorPart s f r v s.part) (physReg s.part s.slot r.toNat) =
      mergeLanes (lanesOf s f) (vregAt s.part (physReg s.part s.slot r.toNat)) v := mapGet_put_self 0 hsorted _ _

theorem onlyPart_vecWritten {s : State} {f : Fields} {r : BitVec 7} (hlive : s.cur.live = true) (hd : f.d = .v r) (ha : noMesh f.a)
    (hb : noMesh (bDesc f.b)) (hmode : s.cur.fpmode = 0) (v : VReg) (fl : Flags) (sub : Bool) :
    onlyPart s.pkg (vecWritten s f v fl sub) s.core (orFlags (vectorPart s f r v s.part) s.slot fl) := by
  rw [vecWritten, popSources_of_noMesh ha hb, hd]
  have hwrite : onlyPart s.pkg (updPart s.pkg s.core (vectorPart s f r v)) s.core (vectorPart s f r v s.part) :=
    onlyPart_updPart (n := s.slot) (onlyPart_refl s.pkg s.core) (vectorPart s f r v) hlive
  exact onlyPart_finishFlags (cx := cxOf s) hwrite hlive hmode fl sub

/-- Parts that agree but for their slots and vector registers stay so when the slots are replaced. -/
theorem withSlots_of_vregs {k l : Part} (h : k = { l with slots := k.slots, vregs := k.vregs, badVregs := k.badVregs }) (m : SMap Slot) :
    { k with slots := m } = { l with slots := m, vregs := k.vregs, badVregs := k.badVregs } :=
  congrArg (fun r : Part => { r with slots := m }) h

theorem vectorFrame_of_writes {i : Fields → Instr} {c : Nat} (hw : ∀ f, (i f).word = some (c, f)) (h : writesVector i) : vectorFrame i := by
  intro s f t r hruns hexec hd ha hb hmode hsorted
  obtain ⟨hlive, hhold⟩ := hold_of_runs (hw f) hruns
  obtain ⟨v, fl, sub, hq⟩ := h s f hruns
  rw [trapEnabled_of_fpmode hmode, if_neg Bool.false_ne_true] at hq
  obtain rfl : advance s f (vecWritten s f v fl sub) = t := Host.Outcome.next.inj (hq.symm.trans hexec)
  have hslot : slotOf (orFlags (vectorPart s f r v s.part) s.slot fl) s.slot = { s.cur with fpflags := s.cur.fpflags ||| fl } :=
    slotOf_orFlags (k := vectorPart s f r v s.part) hlive fl
  have hothers (n : Nat) (hn : n ≠ s.slot) : slotOf (orFlags (vectorPart s f r v s.part) s.slot fl) n = slotOf s.part n :=
    slotOf_updSlot_other (vectorPart s f r v s.part) _ hn
  refine ⟨_, _, onlySlot_advance (onlyPart_vecWritten hlive hd ha hb hmode v fl sub) (by rw [hslot]; exact hlive)
    (by rw [hslot]; exact hhold) hothers, ?part, ?slot, ?flags, fun n hn => ?others, fun l hl hbit => ?lanes⟩
  case part => exact withSlots_of_vregs (withSlots_of_vregs rfl _) _
  case others => exact vregAt_vectorPart_other hn
  case slot => rw [hslot]; rfl
  case flags =>
    rw [hslot]
    exact or_or_self_flags _ _
  case lanes =>
    refine (congrArg (lane · l) (vregAt_vectorPart_self hsorted)).trans ?_
    rw [lane_mergeLanes _ _ _ hl, hbit, if_neg Bool.false_ne_true]

theorem vectorFrame_of_row {i : Fields → Instr} {c : Nat} {w n : Fields → Nat} {el : State → Fields → Nat → Nat × Flags}
    (h : vecRow i w n el) (hw : ∀ f, (i f).word = some (c, f)) : vectorFrame i := by
  refine vectorFrame_of_writes hw fun s f hruns => ?_
  obtain ⟨v, sub, _, hexec⟩ := h s f hruns
  exact ⟨v, _, sub, hexec⟩

theorem vectorFrame_of_plain {i : Fields → Instr} {c : Nat} {r : State → Fields → VReg} (h : vecPlain i r)
    (hw : ∀ f, (i f).word = some (c, f)) : vectorFrame i := by
  refine vectorFrame_of_writes hw fun s f hruns => ⟨r s f, 0, false, ?_⟩
  rw [h s f hruns, trapEnabled_zero, if_neg Bool.false_ne_true]

/-! Predicate destinations. -/

theorem predOf_setPred_other (x : Slot) {r q : Nat} (m : Mask) (h : q ≠ r) : predOf (setPred x r m) q = predOf x q := by
  rw [setPred]
  split
  · rfl
  · rw [predOf, predOf]
    split
    · rfl
    · exact mapGet_put_other 0 x.preds m h

theorem setPred_eq (x : Slot) (r : Nat) (m : Mask) : setPred x r m = { x with preds := (setPred x r m).preds } := by
  rw [setPred]
  split <;> rfl

/-- The slot after a write of pD. -/
def predSlot (s : State) (f : Fields) (r : BitVec 3) (m : Mask) (x : Slot) : Slot :=
  setPred x r.toNat (mergeMask (lanesOf s f) (predOf x r.toNat) m)

theorem predSlot_eq (s : State) (f : Fields) (r : BitVec 3) (m : Mask) (x : Slot) :
    predSlot s f r m x = { x with preds := (predSlot s f r m x).preds } := setPred_eq _ _ _

theorem live_predSlot (s : State) (f : Fields) (r : BitVec 3) (m : Mask) (x : Slot) : (predSlot s f r m x).live = x.live := by
  rw [predSlot_eq]

/-- The part `k` is the slot's own but for pD and %FPFLAGS. -/
def predPart (s : State) (r : BitVec 3) (k : Part) : Prop :=
  k = { s.part with slots := k.slots } ∧ (∀ n, n ≠ s.slot → slotOf k n = slotOf s.part n) ∧
  slotOf k s.slot = { s.cur with preds := (slotOf k s.slot).preds, fpflags := (slotOf k s.slot).fpflags } ∧
  s.cur.fpflags ||| (slotOf k s.slot).fpflags = (slotOf k s.slot).fpflags ∧
  ∀ q : BitVec 3, q ≠ r → predOf (slotOf k s.slot) q.toNat = predOf s.cur q.toNat

theorem predPart_writePred {s : State} (f : Fields) {r : BitVec 3} (hlive : s.cur.live = true) (m : Mask) :
    predPart s r (writePred s.part s.slot (lanesOf s f) m (.p r)) := by
  have hslot : slotOf (writePred s.part s.slot (lanesOf s f) m (.p r)) s.slot = predSlot s f r m s.cur :=
    slotOf_updSlot_live (g := predSlot s f r m) ((live_predSlot ..).trans hlive)
  refine ⟨rfl, fun n hn => slotOf_updSlot_other _ _ hn, ?_, ?_, fun q hq => ?_⟩ <;> rw [hslot]
  · rw [predSlot_eq]
  · rw [predSlot_eq]
    exact BitVec.or_self
  · exact predOf_setPred_other _ _ fun h => hq (BitVec.eq_of_toNat_eq h)

theorem predPart_orFlags {s : State} {r : BitVec 3} {k : Part} (hlive : s.cur.live = true) (h : predPart s r k) (fl : Flags) :
    predPart s r (orFlags k s.slot fl) := by
  obtain ⟨hk, hothers, hslot, hflags, hpreds⟩ := h
  have hflagged := slotOf_orFlags (k := k) (n := s.slot) ((congrArg Slot.live hslot).trans hlive) fl
  refine ⟨withSlots_eq hk _, fun n hn => (slotOf_updSlot_other _ _ hn).trans (hothers n hn), ?_, ?_, fun q hq => ?_⟩ <;> rw [hflagged]
  · exact congrArg (fun x : Slot => { x with fpflags := (slotOf k s.slot).fpflags ||| fl }) hslot
  · rw [← BitVec.or_assoc, hflags]
  · exact hpreds q hq

theorem predFrame_of_part {i : Fields → Instr} {c : Nat} (hw : ∀ f, (i f).word = some (c, f))
    (h : ∀ (s : State) (f : Fields) (r : BitVec 3), runs (i f) .lanes s = true → s.cur.live = true → f.d = .p r → noMesh f.a →
      noMesh (bDesc f.b) → s.cur.fpmode = 0 → ∃ (q : Pkg) (k : Part), exec (i f) s = .next (advance s f q) ∧
        onlyPart s.pkg q s.core k ∧ predPart s r k) : predFrame i := by
  intro s f t r hruns hexec hd ha hb hmode
  obtain ⟨hlive, hhold⟩ := hold_of_runs (hw f) hruns
  obtain ⟨q, k, hq, hpart, hk, hothers, hslot, hflags, hpreds⟩ := h s f r hruns hlive hd ha hb hmode
  obtain rfl : advance s f q = t := Host.Outcome.next.inj (hq.symm.trans hexec)
  exact ⟨_, _, onlySlot_advance hpart ((congrArg Slot.live hslot).trans hlive) ((congrArg Slot.hold hslot).trans hhold) hothers,
    withSlots_eq hk _, issuedSlot_eq hslot, hflags, hpreds⟩

/-- A predicate instruction: no flags. -/
theorem predFrame_of_writeP {i : Fields → Instr} {c : Nat} (hw : ∀ f, (i f).word = some (c, f))
    (h : ∀ s f, runs (i f) .lanes s = true → ∃ m : Mask, exec (i f) s = .next (advance s f (writeP s f m))) : predFrame i := by
  refine predFrame_of_part hw fun s f r hruns hlive hd _ _ _ => ?_
  obtain ⟨m, hexec⟩ := h s f hruns
  have hpart := predPart_writePred f (r := r) hlive m
  obtain ⟨_, _, hslot, _⟩ := id hpart
  refine ⟨_, _, hexec, ?_, hpart⟩
  rw [writeP, hd]
  exact onlyPart_updPart (onlyPart_refl s.pkg s.core) (fun k => writePred k s.slot (lanesOf s f) m (.p r))
    ((congrArg Slot.live hslot).trans hlive)

/-- A predicate instruction by its result. -/
theorem predFrame_of_row {i : Fields → Instr} {c : Nat} {r : State → Fields → Mask}
    (h : ∀ s f, runs (i f) .lanes s = true → exec (i f) s = .next (advance s f (writeP s f (r s f))))
    (hw : ∀ f, (i f).word = some (c, f)) : predFrame i := predFrame_of_writeP hw fun s f hruns => ⟨r s f, h s f hruns⟩

/-- A compare: its flags go to %FPFLAGS. -/
theorem predFrame_of_cmpDone {i : Fields → Instr} {c : Nat} (hw : ∀ f, (i f).word = some (c, f))
    (h : ∀ s f, runs (i f) .lanes s = true → ∃ o : Mask × Flags × Bool, exec (i f) s = .next (cmpDone s f o)) : predFrame i := by
  refine predFrame_of_part hw fun s f r hruns hlive hd ha hb hmode => ?_
  obtain ⟨⟨m, fl, sub⟩, hexec⟩ := h s f hruns
  have hpart := predPart_writePred f (r := r) hlive m
  obtain ⟨_, _, hslot, _⟩ := id hpart
  have hklive := (congrArg Slot.live hslot).trans hlive
  have hwrite : onlyPart s.pkg (updPart s.pkg s.core (fun k => writePred k s.slot (lanesOf s f) m (.p r))) s.core
      (writePred s.part s.slot (lanesOf s f) m (.p r)) := onlyPart_updPart (onlyPart_refl s.pkg s.core) _ hklive
  rw [cmpDone, trapEnabled_of_fpmode hmode, if_neg Bool.false_ne_true, popSources_of_noMesh ha hb, hd] at hexec
  exact ⟨_, _, hexec, onlyPart_finishFlags (cx := cxOf s) hwrite hklive ((congrArg Slot.fpmode hslot).trans hmode) fl sub,
    predPart_orFlags hlive hpart fl⟩

end Sys2Proof.Machine

open Sys2Proof.Machine Sys2Proof.Claims

/-- Settles O55: each instruction by what it writes, which its result (O1, O2, O6, O7, O9 to O13) says. -/
theorem registerFrames : Obligations.RegisterFrames := by
  obtain ⟨sadd, ssub, smul, smulh, sdiv, srem, sand, sor, sxor, sandn, sshl, sshr, ssra, srot, smin, smax⟩ := scalarArithmeticResults
  obtain ⟨spopc, sclz, ssel, smov, sli, sbfx, sbfi⟩ := scalarBitAndMoveResults
  obtain ⟨scmp, _, _⟩ := scalarCompareAndAddress
  obtain ⟨pand, por, pxor, pnot, pmov, pany, pall, pcnt, vballot⟩ := predicateResults
  obtain ⟨vshfl, vperm, _, _⟩ := laneMoveResults
  obtain ⟨vadd, vsub, vmul, vmad, vabs, vneg, vmulh, vmin, vmax⟩ := vectorIntegerArithmetic
  obtain ⟨vand, vor, vxor, vandn, vmov, vbcast, vsel, vshl, vshr, vsra, vclz, vpopc, _⟩ := vectorIntegerBitsAndCompare
  obtain ⟨fadd, fsub, fmul, ffma, fdiv, fsqrt, fmin, fmax, fabs, fneg⟩ := floatArithmeticResults
  obtain ⟨fcvt, icvt, _⟩ := conversionResults
  exact ⟨scalarFrame_nop, scalarFrame_of_row sadd fun _ => rfl, scalarFrame_of_row ssub fun _ => rfl, scalarFrame_of_row smul fun _ => rfl,
    scalarFrame_of_row smulh fun _ => rfl, scalarFrame_of_row sdiv fun _ => rfl, scalarFrame_of_row srem fun _ => rfl,
    scalarFrame_of_row sand fun _ => rfl, scalarFrame_of_row sor fun _ => rfl, scalarFrame_of_row sxor fun _ => rfl,
    scalarFrame_of_row sandn fun _ => rfl, scalarFrame_of_row sshl fun _ => rfl, scalarFrame_of_row sshr fun _ => rfl,
    scalarFrame_of_row ssra fun _ => rfl, scalarFrame_of_row srot fun _ => rfl, scalarFrame_of_row smin fun _ => rfl,
    scalarFrame_of_row smax fun _ => rfl, scalarFrame_of_row spopc fun _ => rfl, scalarFrame_of_row sclz fun _ => rfl,
    scalarFrame_of_row ssel fun _ => rfl, scalarFrame_of_row smov fun _ => rfl, scalarFrame_of_row sli fun _ => rfl,
    scalarFrame_of_writes (fun _ => rfl) fun s f h => (sbfx s f h).imp fun _ => And.left,
    scalarFrame_of_writes (fun _ => rfl) fun s f h => (sbfi s f h).imp fun _ => And.left, scalarFrame_of_row pcnt fun _ => rfl,
    scalarFrame_of_row vballot fun _ => rfl, vectorFrame_of_row vshfl fun _ => rfl, vectorFrame_of_row vperm fun _ => rfl,
    vectorFrame_of_row vadd fun _ => rfl, vectorFrame_of_row vsub fun _ => rfl, vectorFrame_of_row vmul fun _ => rfl,
    vectorFrame_of_row vmad fun _ => rfl, vectorFrame_of_row vabs fun _ => rfl, vectorFrame_of_row vneg fun _ => rfl,
    vectorFrame_of_row vmulh fun _ => rfl, vectorFrame_of_row vmin fun _ => rfl, vectorFrame_of_row vmax fun _ => rfl,
    vectorFrame_of_plain vand fun _ => rfl, vectorFrame_of_plain vor fun _ => rfl, vectorFrame_of_plain vxor fun _ => rfl,
    vectorFrame_of_plain vandn fun _ => rfl, vectorFrame_of_plain vmov fun _ => rfl, vectorFrame_of_plain vbcast fun _ => rfl,
    vectorFrame_of_row vsel fun _ => rfl, vectorFrame_of_row vshl fun _ => rfl, vectorFrame_of_row vshr fun _ => rfl,
    vectorFrame_of_row vsra fun _ => rfl, vectorFrame_of_row vclz fun _ => rfl, vectorFrame_of_row vpopc fun _ => rfl,
    vectorFrame_of_row fadd fun _ => rfl, vectorFrame_of_row fsub fun _ => rfl, vectorFrame_of_row fmul fun _ => rfl,
    vectorFrame_of_row ffma fun _ => rfl, vectorFrame_of_row fdiv fun _ => rfl, vectorFrame_of_row fsqrt fun _ => rfl,
    vectorFrame_of_row fmin fun _ => rfl, vectorFrame_of_row fmax fun _ => rfl, vectorFrame_of_row fabs fun _ => rfl,
    vectorFrame_of_row fneg fun _ => rfl, vectorFrame_of_row fcvt fun _ => rfl, vectorFrame_of_row icvt fun _ => rfl,
    predFrame_of_row scmp fun _ => rfl, predFrame_of_row pand fun _ => rfl, predFrame_of_row por fun _ => rfl,
    predFrame_of_row pxor fun _ => rfl, predFrame_of_row pnot fun _ => rfl, predFrame_of_row pmov fun _ => rfl,
    predFrame_of_row pany fun _ => rfl, predFrame_of_row pall fun _ => rfl,
    predFrame_of_cmpDone (fun _ => rfl) fun s f h => ⟨_, (exec_vcmp f s).trans (issueCmp_runs _ rfl h)⟩,
    predFrame_of_cmpDone (fun _ => rfl) fun s f h => ⟨_, exec_fcmp_runs h⟩⟩
end

section
/-!
The lattice format (R61, R122, R123): the scale that LQNT and LDEC read, the words of one and the registers of the other.
-/
namespace Sys2Proof.Machine
open Sys2Proof.Claims

/-- The BF16 scale of LQNT or LDEC (R122, R123). -/
def latticeScaleOf (s : State) (f : Fields) : Nat := latticeScale (flushes s.cur) (s.bVal f)

/-! LQNT. -/

/-- The word of lane l, of the eight registers that A names, and its flags (R122). -/
def lqntEl (s : State) (f : Fields) (l : Nat) : Nat × Flags :=
  l8Quantise ((List.range 8).map (fun i => decodeF fmtF32 (lane (vecPast s.pkg (cxOf s) f.a i) l).toNat))
    (decodeF fmtBF16 (latticeScaleOf s f)) (lqntPad f.b (s.bVal f))

def lqntOut (s : State) (f : Fields) : VOut :=
  packOut 32 (lanesOf s f) ((List.range 32).map (lqntEl s f)) (isSubnormal fmtBF16 (latticeScaleOf s f))

theorem exec_lqnt (f : Fields) (s : State) : exec (.lqnt f) s = issue (.lqnt f) .lanes (fun f cx p =>
    let x := vIn p cx f
    let b := bScalar p cx.core x.sl f.b
    let sc := latticeScale (flushes x.sl) b
    if l8BadScale sc ∨ fvIsZero (decodeF fmtBF16 sc) then .trap scaleTrap
    else
      let rs := (List.range 32).map (fun l =>
        l8Quantise ((List.range 8).map (fun i => decodeF fmtF32 (lane (vecPast p cx f.a i) l).toNat))
          (decodeF fmtBF16 sc) (lqntPad f.b b))
      let o := packOut 32 x.g rs (isSubnormal fmtBF16 sc)
      if trapEnabled x.sl o.fl then .trap (fpTrap o.fl)
      else .done (finishFlags (writeVec p cx.core cx.slot x.g o.v f.d) cx o.fl o.sub)) s := rfl

section
variable {f : Fields} {s : State} (h : runs (.lqnt f) .lanes s = true)
include h

theorem exec_lqnt_badScale (hsc : l8BadScale (latticeScaleOf s f) = true ∨ fvIsZero (decodeF fmtBF16 (latticeScaleOf s f)) = true) :
    exec (.lqnt f) s = .next (trapState s f scaleTrap) :=
  (exec_lqnt f s).trans (issue_trap rfl h (if_pos hsc))

theorem exec_lqnt_quantises (hbad : l8BadScale (latticeScaleOf s f) = false)
    (hzero : fvIsZero (decodeF fmtBF16 (latticeScaleOf s f)) = false) :
    exec (.lqnt f) s = .next (if trapEnabled s.cur (lqntOut s f).fl then trapState s f (fpTrap (lqntOut s f).fl)
      else advance s f (finishFlags (writeVec s.pkg s.core s.slot (lanesOf s f) (lqntOut s f).v f.d) (cxOf s) (lqntOut s f).fl
        (lqntOut s f).sub)) := by
  have hgood : ¬ (l8BadScale (latticeScaleOf s f) = true ∨ fvIsZero (decodeF fmtBF16 (latticeScaleOf s f)) = true) := by
    simp [hbad, hzero]
  exact (exec_lqnt f s).trans (issue_trapOrDone rfl h (if_neg hgood))

end

theorem lane_packOut (g : Mask) (r : Nat → Nat × Flags) (sub : Bool) {l : Nat} (hl : l < 32) :
    (lane (packOut 32 g ((List.range 32).map r) sub).v l).toNat = (r l).1 % 2 ^ 32 := by
  rw [toNat_lane, elem_packOut g r sub (by decide), if_pos hl]

/-! LDEC. -/

/-- Output registers of LDEC in FT3 (R123). -/
def ldecCount (f : Fields) : Nat := if fld f.md 0 3 = 0 then 8 else 4

/-- Register m of the output. -/
def ldecOut (s : State) (f : Fields) (m : Nat) : VOut :=
  let rs := ldecReg (fld f.md 0 3) (flushes s.cur) (vA s f) (decodeF fmtBF16 (latticeScaleOf s f)) m
  packOut (ft3Fmt (fld f.md 0 3)).bits (lanesOf s f) rs (decide (fld f.md 0 3 = 1) && (List.range 64).any (fun i =>
    bit (lanesOf s f) (i / 2) && isSubnormal fmtBF16 (rs.getD i (0, 0)).1))

def ldecOuts (s : State) (f : Fields) : List VOut := (List.range (ldecCount f)).map (ldecOut s f)

def ldecFlags (s : State) (f : Fields) : Flags := (ldecOuts s f).foldl (fun acc o => acc ||| o.fl) 0

def ldecSub (s : State) (f : Fields) : Bool := (ldecOuts s f).any (·.sub) || isSubnormal fmtBF16 (latticeScaleOf s f)

/-- The package with the output registers written from vD on. -/
def ldecWritten (s : State) (f : Fields) (r : BitVec 7) : Pkg :=
  (List.range (ldecCount f)).foldl (fun q m =>
    writeVec q s.core s.slot (lanesOf s f) ((ldecOuts s f).getD m (plain 0)).v (.v (r + BitVec.ofNat 7 m))) (popSources s.pkg s.core f)

theorem exec_ldec (f : Fields) (s : State) : exec (.ldec f) s = issue (.ldec f) .lanes (fun f cx p =>
    let x := vIn p cx f
    let ft := fld f.md 0 3
    let sc := latticeScale (flushes x.sl) (bScalar p cx.core x.sl f.b)
    if l8BadScale sc then .trap scaleTrap
    else
      let n := if ft = 0 then 8 else 4
      let outs := (List.range n).map (fun m =>
        let rs := ldecReg ft (flushes x.sl) x.a (decodeF fmtBF16 sc) m
        packOut (ft3Fmt ft).bits x.g rs (decide (ft = 1) && (List.range 64).any (fun i =>
          bit x.g (i / 2) && isSubnormal fmtBF16 (rs.getD i (0, 0)).1)))
      let fl := outs.foldl (fun acc o => acc ||| o.fl) 0
      if trapEnabled x.sl fl then .trap (fpTrap fl)
      else
        let p1 := popSources p cx.core f
        let p2 := match f.d with
          | .v r => (List.range n).foldl (fun q m =>
              writeVec q cx.core cx.slot x.g (outs.getD m (plain 0)).v (.v (r + BitVec.ofNat 7 m))) p1
          | _ => p1
        .done (finishFlags p2 cx fl (outs.any (·.sub) || isSubnormal fmtBF16 sc))) s := rfl

section
variable {f : Fields} {s : State} (h : runs (.ldec f) .lanes s = true)
include h

theorem exec_ldec_badScale (hsc : l8BadScale (latticeScaleOf s f) = true) : exec (.ldec f) s = .next (trapState s f scaleTrap) :=
  (exec_ldec f s).trans (issue_trap rfl h (if_pos hsc))

theorem exec_ldec_decodes {r : BitVec 7} (hsc : l8BadScale (latticeScaleOf s f) = false) (hd : f.d = .v r) :
    exec (.ldec f) s = .next (if trapEnabled s.cur (ldecFlags s f) then trapState s f (fpTrap (ldecFlags s f))
      else advance s f (finishFlags (ldecWritten s f r) (cxOf s) (ldecFlags s f) (ldecSub s f))) := by
  have hgood : ¬ l8BadScale (latticeScaleOf s f) = true := by simp [hsc]
  refine (exec_ldec f s).trans (issue_trapOrDone rfl h ((if_neg hgood).trans ?_))
  simp only [hd]
  rfl

end

theorem getD_ldecOuts (s : State) (f : Fields) {m : Nat} (hm : m < ldecCount f) : (ldecOuts s f).getD m (plain 0) = ldecOut s f m := by
  rw [ldecOuts, getD_map_range, if_pos hm]

theorem ldecFlags_eq (s : State) (f : Fields) :
    ldecFlags s f = (List.range (ldecCount f)).foldl (fun acc m => acc ||| (ldecOut s f m).fl) 0 := by
  rw [ldecFlags, ldecOuts, List.foldl_map]

/-- Lane l of register m in F32: element m of the lane's point. -/
def ldecRd32 (s : State) (f : Fields) (m l : Nat) : Rd :=
  fvConvert fmtF32 .rn false (flushes s.cur) (l8Elem (lane (vA s f) l).toNat m (decodeF fmtBF16 (latticeScaleOf s f)))

/-- Element i of register m in a 16-bit type: two elements of a point a lane. -/
def ldecRd16 (s : State) (f : Fields) (m i : Nat) : Rd :=
  fvConvert (ft3Fmt (fld f.md 0 3)) .rn false (flushes s.cur)
    (l8Elem (lane (vA s f) (i / 2)).toNat (2 * m + i % 2) (decodeF fmtBF16 (latticeScaleOf s f)))

theorem ldecOut_f32 (s : State) {f : Fields} (hf : fld f.md 0 3 = 0) (m : Nat) : ∃ sub, ldecOut s f m =
    packOut 32 (lanesOf s f) ((List.range 32).map (fun l => ((ldecRd32 s f m l).bits, (ldecRd32 s f m l).fl))) sub := by
  simp only [ldecOut, hf, ldecReg, if_true]
  exact ⟨_, rfl⟩

theorem ldecOut_16 (s : State) {f : Fields} (hf : fld f.md 0 3 ≠ 0) (hw : (ft3Fmt (fld f.md 0 3)).bits = 16) (m : Nat) :
    ∃ sub, ldecOut s f m =
      packOut 16 (lanesOf s f) ((List.range 64).map (fun i => ((ldecRd16 s f m i).bits, (ldecRd16 s f m i).fl))) sub := by
  simp only [ldecOut, hw, ldecReg, if_neg hf]
  exact ⟨_, rfl⟩

end Sys2Proof.Machine

open Sys2Proof.Machine Sys2Proof.Claims

/-- Settles O15: LQNT and LDEC by their scale, and then by the elements that each packs. -/
theorem latticeResults : Obligations.LatticeResults := by
  refine ⟨fun s f r h ha => ⟨fun hsc => ?_, fun hbad hzero => ?lqnt⟩, fun s f h => ⟨fun hsc => ?_, fun r hsc hd hf => ?f32,
    fun r hsc hd hf => ?narrow⟩⟩
  · exact exec_lqnt_badScale h hsc
  case lqnt =>
    have hel (l : Nat) : lqntEl s f l = l8Quantise ((List.range 8).map (fun i =>
        decodeF fmtF32 (lane (vregAt s.part (physReg s.part s.slot (r.toNat + i))) l).toNat))
        (decodeF fmtBF16 (latticeScaleOf s f)) (lqntPad f.b (s.bVal f)) := by
      rw [lqntEl, ha]
      rfl
    refine ⟨(lqntOut s f).v, (lqntOut s f).sub, fun l hl => ?_, ?_⟩
    · rw [lqntOut, lane_packOut _ _ _ hl, hel]
      rfl
    · refine (exec_lqnt_quantises h hbad hzero).trans ?_
      rw [show (lqntOut s f).fl = guardedFlags (lanesOf s f) 32 32 (fun l => (lqntEl s f l).2) from fl_packOut _ _ _ _ _]
      simp only [hel]
      rfl
  · exact exec_ldec_badScale h hsc
  case f32 =>
    have hcount : ldecCount f = 8 := if_pos hf
    refine ⟨fun m => ((ldecOuts s f).getD m (plain 0)).v, ldecSub s f, fun m hm l hl => ?_, ?_⟩
    · obtain ⟨sub, hout⟩ := ldecOut_f32 s hf m
      simp only [getD_ldecOuts s f (hcount ▸ hm), hout, lane_packOut _ _ _ hl]
      rfl
    · have hfl (m : Nat) : (ldecOut s f m).fl = guardedFlags (lanesOf s f) 32 32 (fun l => (ldecRd32 s f m l).fl) := by
        obtain ⟨sub, hout⟩ := ldecOut_f32 s hf m
        rw [hout, fl_packOut]
      refine (exec_ldec_decodes h hsc hd).trans ?_
      rw [ldecWritten, ldecFlags_eq, hcount]
      simp only [hfl]
      rfl
  case narrow =>
    have hcount : ldecCount f = 4 := if_neg hf
    refine ⟨fun m => ((ldecOuts s f).getD m (plain 0)).v, ldecFlags s f, ldecSub s f, fun hw => ⟨fun m hm i hi => ?_, ?_⟩, ?_⟩
    · obtain ⟨sub, hout⟩ := ldecOut_16 s hf hw m
      simp only [getD_ldecOuts s f (hcount ▸ hm), hout, elem_packOut _ _ _ (show 16 * 64 ≤ 1024 by decide), if_pos hi]
      rfl
    · have hfl (m : Nat) : (ldecOut s f m).fl = guardedFlags (lanesOf s f) 16 64 (fun i => (ldecRd16 s f m i).fl) := by
        obtain ⟨sub, hout⟩ := ldecOut_16 s hf hw m
        rw [hout, fl_packOut]
      rw [ldecFlags_eq, hcount]
      simp only [hfl]
      rfl
    · refine (exec_ldec_decodes h hsc hd).trans ?_
      rw [ldecWritten, hcount]
end
section
/-!
The issue of MMA, MMAS and MMAR (R113, R115 to R117): each waits, traps, or puts its command in the queue or in a message.
-/
namespace Sys2Proof.Machine
open Sys2Proof.Claims

/-- A word that runs and finds no room waits as it is. -/
theorem issue_waits {i : Instr} {c : Nat} {f : Fields} {g : Guarding} {body : Fields → Cx → Pkg → Eff} {s : State}
    (hw : i.word = some (c, f)) (h : runs i g s = true) (hb : body f (cxOf s) s.pkg = .stay s.pkg) :
    issue i g body s = .next s := issue_stay hw h hb (hold_of_runs hw h).2

/-! Commands. -/

/-- The command that MMA or MMAS puts in the queue, numbered in the core's order. -/
def issuedCmd (s : State) (f : Fields) (r : MatReady) (skips : List Nat) : MatCmd :=
  { matCmd s.part (cxOf s) f r skips with board := ⟨s.part.nextOrd, r.reads, []⟩ }

theorem commandOf_issuedCmd (s : State) (f : Fields) (r : MatReady) (skips : List Nat) : commandOf s f r (issuedCmd s f r skips) :=
  ⟨rfl, rfl, rfl, rfl, rfl, rfl, Bool.not_not _, rfl, rfl, rfl, rfl, rfl, rfl, rfl, rfl, rfl, rfl, rfl⟩

/-! MMA (R115). -/

/-- What MMA does, given the outcome of the checks of its operands. -/
def mmaBody (o : Except Trap MatReady) (f : Fields) (cx : Cx) (p : Pkg) : Eff :=
  let k := partOf p cx.core
  if 4 ≤ k.matq.length then .stay p
  else match o with
    | .error t => .trap t
    | .ok r => .done (setPart p cx.core (enqueueMat k (matCmd k cx f r [])))

theorem exec_mma (f : Fields) (s : State) :
    exec (.mma f) s = issue (.mma f) .lane0 (fun f cx p => mmaBody (matOperands (partOf p cx.core) cx f) f cx p) s := rfl

/-! MMAS (R116). -/

/-- A package made, but for MACHINE_CHECK where a word that was to be read holds an error (R326). -/
def unlessBad (w : Option Nat) (q : Pkg) : Eff :=
  match w with
  | some w => .trap (scrCheck w)
  | none => .done q

/-- What MMAS does, given the checks of its operands and of its skip list. -/
def mmasBody (o : Except Trap MatReady) (l : Except Trap (Nat × Nat)) (f : Fields) (cx : Cx) (p : Pkg) : Eff :=
  let k := partOf p cx.core
  if 4 ≤ k.matq.length then .stay p
  else match o with
    | .error t => .trap t
    | .ok r => (match l with
      | .error t => .trap t
      | .ok (off, n) =>
        let raw := (List.range n).map (fun i => scrNat k (off + 2 * i) 2)
        let need := neededSkips raw (ceilDiv r.depth r.kstep)
        if need ≠ [] ∧ scrClear k [(off, off + 2 * need.length)] [] = false then .busy p
        else unlessBad (if need = [] then none else scrBad k off (2 * need.length))
          (setPart p cx.core (enqueueMat k (matCmd k cx f r need))))

theorem exec_mmas (f : Fields) (s : State) : exec (.mmas f) s = issue (.mmas f) .lane0 (fun f cx p =>
    mmasBody (matOperands (partOf p cx.core) cx f) (skipList cx (slotOf (partOf p cx.core) cx.slot).sks) f cx p) s := rfl

section
variable (cx : Cx) {sks : Word}

theorem skipList_odd (h : fld sks 0 17 % 2 = 1) : skipList cx sks = .error (alignTrap (fld sks 0 17)) := if_pos (by omega)

theorem skipList_long (h : fld sks 0 17 % 2 = 0) (hlen : 131072 < fld sks 0 17 + 2 * fld sks 32 16) :
    skipList cx sks = .error { bareTrap causeBounds cx with sub := 7 } := (if_neg (by omega)).trans (if_pos hlen)

theorem skipList_good (h : fld sks 0 17 % 2 = 0) (hlen : fld sks 0 17 + 2 * fld sks 32 16 ≤ 131072) :
    skipList cx sks = .ok (fld sks 0 17, fld sks 32 16) := (if_neg (by omega)).trans (if_neg (by omega))

end

section
variable {s : State} {f : Fields} (hroom : s.part.matq.length < 4)
include hroom

theorem exec_mma_traps {t : Trap} (h : runs (.mma f) .lane0 s = true) (ht : matOperands s.part (cxOf s) f = .error t) :
    exec (.mma f) s = .next (trapState s f t) := by
  have hbody : mmaBody (.error t) f (cxOf s) s.pkg = .trap t := if_neg (Nat.not_le.mpr hroom)
  exact (exec_mma f s).trans (issue_trap rfl h ((congrArg (mmaBody · f (cxOf s) s.pkg) ht).trans hbody))

variable {r : MatReady} (hr : matOperands s.part (cxOf s) f = .ok r)
include hr

theorem exec_mma_queues (h : runs (.mma f) .lane0 s = true) :
    exec (.mma f) s = .next (advance s f (setPart s.pkg s.core (queued s.part (issuedCmd s f r [])))) := by
  have hbody : mmaBody (.ok r) f (cxOf s) s.pkg = .done (setPart s.pkg s.core (queued s.part (issuedCmd s f r []))) :=
    if_neg (Nat.not_le.mpr hroom)
  exact (exec_mma f s).trans (issue_done rfl h ((congrArg (mmaBody · f (cxOf s) s.pkg) hr).trans hbody))

variable (h : runs (.mmas f) .lane0 s = true)
include h

theorem exec_mmas_badList {t : Trap} (hl : skipList (cxOf s) s.cur.sks = .error t) : exec (.mmas f) s = .next (trapState s f t) := by
  have hbody : mmasBody (.ok r) (.error t) f (cxOf s) s.pkg = .trap t := if_neg (Nat.not_le.mpr hroom)
  exact (exec_mmas f s).trans (issue_trap rfl h ((congrArg₂ (mmasBody · · f (cxOf s) s.pkg) hr hl).trans hbody))

/-- With its list clear and whole, MMAS queues its command with what it needs of the list. -/
theorem exec_mmas_queues (hl : skipList (cxOf s) s.cur.sks = .ok (fld s.cur.sks 0 17, fld s.cur.sks 32 16))
    (hclear : scrClear s.part [(fld s.cur.sks 0 17, fld s.cur.sks 0 17 + 2 * (skipEntries s r).length)] [] = true)
    (hbad : scrBad s.part (fld s.cur.sks 0 17) (2 * (skipEntries s r).length) = none) :
    exec (.mmas f) s = .next (advance s f (setPart s.pkg s.core (queued s.part (issuedCmd s f r (skipEntries s r))))) := by
  have hbusy : ¬ (skipEntries s r ≠ [] ∧
      scrClear s.part [(fld s.cur.sks 0 17, fld s.cur.sks 0 17 + 2 * (skipEntries s r).length)] [] = false) := by simp [hclear]
  have hwhole : (if skipEntries s r = [] then none else scrBad s.part (fld s.cur.sks 0 17) (2 * (skipEntries s r).length)) = none := by
    rw [hbad, ite_self]
  have hbody : mmasBody (.ok r) (.ok (fld s.cur.sks 0 17, fld s.cur.sks 32 16)) f (cxOf s) s.pkg =
      .done (setPart s.pkg s.core (queued s.part (issuedCmd s f r (skipEntries s r)))) := by
    refine (if_neg (Nat.not_le.mpr hroom)).trans ((if_neg hbusy).trans ?_)
    exact congrArg (unlessBad · _) hwhole
  exact (exec_mmas f s).trans (issue_done rfl h ((congrArg₂ (mmasBody · · f (cxOf s) s.pkg) hr hl).trans hbody))

end

/-! MMAR (R117). -/

/-- The body of the message that MMAR sends, under a serial number. -/
def mmarMsg (x : Slot) (slot : Nat) (f : Fields) (uid : Nat) : MsgBody :=
  .mmar (opdTile f.d) (fld (blockReg x 0 f.a) 12 6) (fld (blockReg x 0 f.a) 18 6) (BitVec.ofNat 32 (fld (blockReg x 1 f.a) 0 32))
    (bit f.md 0) (bit f.md 1) (!flushes x) slot x.ctx x.pc uid

theorem exec_mmar (f : Fields) (s : State) : exec (.mmar f) s = issue (.mmar f) .lane0 (fun f cx p =>
    let dst := fld (blockReg (curSlot p cx) 0 f.a) 0 12
    match journalise p cx 7 2 (homeAddr p.regs.pkgnum dst 0) 0 (fun uid => .msg dst p.regs.pkgnum (mmarMsg (curSlot p cx) cx.slot f uid)) with
    | none => .stay p
    | some (p1, uid) => .done (send p1 cx.core dst (asidOf (partOf p cx.core)) (mmarMsg (curSlot p cx) cx.slot f uid))) s := rfl

theorem ofNat_fld_low (x : Word) : BitVec.ofNat 32 (fld x 0 32) = x.extractLsb' 0 32 := by
  refine BitVec.eq_of_toNat_eq ?_
  simp [fld]

/-- The journal entry of a message of the current slot. -/
def msgEntry (s : State) (kind addr dst pkg : Nat) (b : MsgBody) : JEntry :=
  { kind := kind, status := 2, cause := 0, addr := addr, asid := asidOf s.part, team := teamNoOf s.part % 256, slot := s.slot, seq := 0,
    ioff := s.cur.pc, code := 0, ctx := s.cur.ctx, uid := s.part.nextUid, body := .msg dst pkg b }

theorem entryOfMsg_msgEntry (s : State) (kind addr dst pkg : Nat) (b : MsgBody) :
    entryOfMsg s (msgEntry s kind addr dst pkg b) kind addr dst pkg b := ⟨rfl, rfl, rfl, rfl, rfl, rfl, rfl, rfl, rfl⟩

theorem journalise_full {s : State} (h : jFree s.part = none) (kind status addr : Nat) (seq : BitVec 32) (body : Nat → JBody) :
    journalise s.pkg (cxOf s) kind status addr seq body = none := by
  have h' : jFree (partOf s.pkg (cxOf s).core) = none := h
  simp only [journalise, h']

theorem journalise_msg {s : State} {n : Nat} (h : jFree s.part = some n) (kind addr dst pkg : Nat) (b : Nat → MsgBody) :
    journalise s.pkg (cxOf s) kind 2 addr 0 (fun uid => .msg dst pkg (b uid)) =
      some (journalled s n (msgEntry s kind addr dst pkg (b s.part.nextUid)), s.part.nextUid) := by
  have h' : jFree (partOf s.pkg (cxOf s).core) = some n := h
  simp only [journalise, h']
  rfl

section
variable {s : State} {f : Fields} (h : runs (.mmar f) .lane0 s = true)
include h

theorem exec_mmar_full (hj : jFree s.part = none) : exec (.mmar f) s = .next s := by
  refine (exec_mmar f s).trans (issue_waits rfl h ?_)
  simp only [journalise_full hj]

theorem exec_mmar_sends {n : Nat} (hj : jFree s.part = some n) :
    let dst := fld (blockReg s.cur 0 f.a) 0 12
    let b := mmarMsg s.cur s.slot f s.part.nextUid
    exec (.mmar f) s = .next (advance s f (send (journalled s n
      (msgEntry s 7 (homeAddr s.pkg.regs.pkgnum dst 0) dst s.pkg.regs.pkgnum b)) s.core dst (asidOf s.part) b)) := by
  refine (exec_mmar f s).trans (issue_done rfl h ?_)
  simp only [journalise_msg hj]
  rfl

end

end Sys2Proof.Machine

open Sys2Proof.Machine Sys2Proof.Claims

/-- Settles O16: MMA and MMAS by the room in the queue and their checks, MMAR by the room in the journal. -/
theorem matrixCommandsIssue : Obligations.MatrixCommandsIssue := by
  refine ⟨fun s f r h hroom hr => ⟨_, commandOf_issuedCmd s f r [], rfl, exec_mma_queues hroom hr h⟩,
    fun s f t h ht => exec_mma_traps ht.1 h ht.2, fun s f h hfull => ?mma, fun s f r h hroom hr => ⟨fun hodd => ?odd,
      fun heven hlong => ?long, fun heven hlen hclear hbad => ⟨_, commandOf_issuedCmd s f r (skipEntries s r), rfl, ?good⟩⟩,
    fun s f h hfull => ?mmas, fun s f n h hj => ?mmar, fun s f h hj => exec_mmar_full h hj⟩
  case mma => exact (exec_mma f s).trans (issue_waits rfl h (if_pos hfull))
  case odd => exact exec_mmas_badList hroom hr h (skipList_odd _ hodd)
  case long => exact exec_mmas_badList hroom hr h (skipList_long _ heven hlong)
  case good => exact exec_mmas_queues hroom hr h (skipList_good _ heven hlen) hclear hbad
  case mmas => exact (exec_mmas f s).trans (issue_waits rfl h (if_pos hfull))
  case mmar =>
    have hmsg : mmarMsg s.cur s.slot f s.part.nextUid = .mmar (opdTile f.d) (fld (blockReg s.cur 0 f.a) 12 6)
        (fld (blockReg s.cur 0 f.a) 18 6) ((blockReg s.cur 1 f.a).extractLsb' 0 32) (bit f.md 0) (bit f.md 1) (bit s.cur.fpmode 8) s.slot
        s.cur.ctx s.cur.pc s.part.nextUid := by
      rw [mmarMsg, ofNat_fld_low, flushes, Bool.not_not]
    have hsends := exec_mmar_sends h hj
    simp only [hmsg] at hsends
    exact ⟨_, entryOfMsg_msgEntry s 7 _ _ _ _, hsends⟩
end
section
/-!
Holds that stand on tiles and scratchpad, seen through a change of a slot that holds for nothing (R113, R114): no command's turn changes.
-/
namespace Sys2Proof.Machine

/-- A listed key is written in place, another one between two entries. -/
theorem mapInsert_split {β : Type} (m : SMap β) (n : Nat) (v : β) : ∃ l r, mapInsert m n v = l ++ (n, v) :: r ∧
    (m = l ++ r ∨ ∃ u, mapFind m n = some u ∧ m = l ++ (n, u) :: r) := by
  induction m with
  | nil => exact ⟨[], [], rfl, .inl rfl⟩
  | cons e rest ih =>
    obtain ⟨j, w⟩ := e
    rcases lt_trichotomy n j with h | rfl | h
    · exact ⟨[], (j, w) :: rest, by rw [mapInsert, if_pos h]; rfl, .inl rfl⟩
    · exact ⟨[], rest, by rw [mapInsert, if_neg (lt_irrefl n), if_pos rfl]; rfl, .inr ⟨w, by rw [mapFind_cons, if_pos rfl], rfl⟩⟩
    · obtain ⟨l, r, hins, hm⟩ := ih
      refine ⟨(j, w) :: l, r, by rw [mapInsert, if_neg h.not_gt, if_neg h.ne', hins]; rfl, ?_⟩
      rcases hm with hm | ⟨u, hu, hm⟩
      · exact .inl (by rw [hm]; rfl)
      · exact .inr ⟨u, by rw [mapFind_cons, if_neg h.ne, hu], by rw [hm]; rfl⟩

section
variable {k : Part} {n : Nat} {g : Slot → Slot} (hhold : (slotOf k n).hold = .none) (hlive : (g (slotOf k n)).live = true)
  (hkeep : (g (slotOf k n)).hold = .none)
include hhold hlive

theorem updSlot_split : ∃ l r, (updSlot k n g).slots = l ++ (n, g (slotOf k n)) :: r ∧
    (k.slots = l ++ r ∨ ∃ u : Slot, u.hold = .none ∧ k.slots = l ++ (n, u) :: r) := by
  have hput : (updSlot k n g).slots = mapInsert k.slots n (g (slotOf k n)) := if_neg (ne_slotReset hlive)
  obtain ⟨l, r, hins, hm⟩ := mapInsert_split k.slots n (g (slotOf k n))
  refine ⟨l, r, hput.trans hins, hm.imp id ?_⟩
  rintro ⟨u, hu, hm⟩
  have hslot : slotOf k n = u := by rw [slotOf, mapGet, hu, Option.getD_some]
  exact ⟨u, hslot ▸ hhold, hm⟩

include hkeep

theorem any_holds_updSlot {P : Hold → Bool} (hP : P .none = false) :
    (updSlot k n g).slots.any (fun e => P e.2.hold) = k.slots.any (fun e => P e.2.hold) := by
  obtain ⟨l, r, hnew, hold | ⟨u, hu, hold⟩⟩ := updSlot_split hhold hlive
  · rw [hnew, hold]
    simp [hkeep, hP]
  · rw [hnew, hold]
    simp [hkeep, hu, hP]

theorem filterMap_holds_updSlot {α : Type} {P : Hold → Option α} (hP : P .none = none) :
    (updSlot k n g).slots.filterMap (fun e => P e.2.hold) = k.slots.filterMap (fun e => P e.2.hold) := by
  obtain ⟨l, r, hnew, hold | ⟨u, hu, hold⟩⟩ := updSlot_split hhold hlive
  · rw [hnew, hold]
    simp [hkeep, hP]
  · rw [hnew, hold]
    simp [hkeep, hu, hP]

end

/-- The board of a hold on a tile. -/
def holdBoard : Hold → Option Board
  | .tile _ b => some b
  | _ => none

/-- A hold on tile t from before a place in the order. -/
def holdsTile (t ord : Nat) : Hold → Bool
  | .tile t' b => decide (t' = t) && decide (b.ord < ord)
  | _ => false

/-- A hold between words, some of which lie in the ranges of a board. -/
def holdsWords (b : Board) : Hold → Bool
  | .words _ left _ => left.any (fun w => (b.reads ++ b.writes).any (fun s => decide (s.1 < 8 * w + 8) && decide (8 * w < s.2)))
  | _ => false

theorem boards_eq (k : Part) : boards k = k.matq.map (·.board) ++ k.accq.map (·.board) ++ k.seamq.map (·.board) ++
    k.smrgq.map (·.board) ++ k.copies.map (·.board) ++ k.slots.filterMap (fun e => holdBoard e.2.hold) := rfl

theorem tileHeldBefore_eq (k : Part) (t ord : Nat) : tileHeldBefore k t ord =
    (k.accq.any (fun x => decide (x.tile = t) && decide (x.board.ord < ord)) || k.slots.any (fun e => holdsTile t ord e.2.hold)) := rfl

theorem wordsClash_eq (k : Part) (b : Board) : wordsClash k b = k.slots.any (fun e => holdsWords b e.2.hold) := rfl

section
variable {k : Part} {n : Nat} {g : Slot → Slot} (hhold : (slotOf k n).hold = .none) (hlive : (g (slotOf k n)).live = true)
  (hkeep : (g (slotOf k n)).hold = .none)
include hhold hlive hkeep

theorem tileHeldBefore_updSlot (t ord : Nat) : tileHeldBefore (updSlot k n g) t ord = tileHeldBefore k t ord := by
  rw [tileHeldBefore_eq, tileHeldBefore_eq, any_holds_updSlot hhold hlive hkeep rfl]
  rfl

theorem engineMay_updSlot (b : Board) : engineMay (updSlot k n g) b = engineMay k b := by
  rw [engineMay, engineMay, boards_eq, boards_eq, wordsClash_eq, wordsClash_eq, filterMap_holds_updSlot hhold hlive hkeep rfl,
    any_holds_updSlot hhold hlive hkeep rfl]
  rfl

end

end Sys2Proof.Machine
end

section
/-!
Tiles of the accumulator (R113, R119): what a tile reads after it is written, and an accumulator instruction in its turn.
-/
namespace Sys2Proof.Machine
open Sys2Proof.Claims

/-! Writing a tile. -/

theorem mapFind_append {β : Type} (l r : SMap β) (n : Nat) : mapFind (l ++ r) n = (mapFind l n).or (mapFind r n) := by
  induction l with
  | nil => rfl
  | cons e rest ih =>
    obtain ⟨j, v⟩ := e
    rw [List.cons_append, mapFind_cons, mapFind_cons]
    split
    · rfl
    · exact ih

theorem mapFind_filter_keys {β : Type} (m : SMap β) (P : Nat → Bool) (n : Nat) :
    mapFind (m.filter (fun e => P e.1)) n = if P n then mapFind m n else none := by
  induction m with
  | nil => simp
  | cons e rest ih =>
    obtain ⟨j, v⟩ := e
    by_cases hj : j = n
    · subst hj
      cases h : P j <;> simp [h, ih]
    · cases h : P j <;> simp [h, ih, hj]

/-- Lanes listed by their keys from `b` on, those that are 0 left out. -/
def placedFrom (b : Nat) (v : List Lane) : SMap Lane := ((v.zipIdx).map (fun x => (b + x.2, x.1))).filter (fun e => decide (e.2 ≠ 0))

theorem placedFrom_cons (b : Nat) (x : Lane) (v : List Lane) :
    placedFrom b (x :: v) = if x = 0 then placedFrom (b + 1) v else (b, x) :: placedFrom (b + 1) v := by
  have hrest : ((v.zipIdx 1).map (fun y => (b + y.2, y.1))) = (v.zipIdx).map (fun y => (b + 1 + y.2, y.1)) := by
    rw [List.zipIdx_succ, List.map_map]
    refine List.map_congr_left fun y _ => ?_
    simp only [Function.comp_apply, Nat.add_assoc, Nat.add_comm 1]
  rw [placedFrom, List.zipIdx_cons, List.map_cons, List.filter_cons, Nat.zero_add, hrest]
  by_cases hx : x = 0
  · rw [if_pos hx, if_neg (by simp [hx])]
    rfl
  · rw [if_neg hx, if_pos (by simpa using hx)]
    rfl

theorem mapFind_placedFrom_below {b n : Nat} (v : List Lane) (h : n < b) : mapFind (placedFrom b v) n = none := by
  induction v generalizing b with
  | nil => rfl
  | cons x v ih =>
    rw [placedFrom_cons]
    split
    · exact ih (by omega)
    · rw [mapFind_cons, if_neg (by omega), ih (by omega)]

theorem mapFind_placedFrom (b : Nat) (v : List Lane) (j : Nat) :
    mapFind (placedFrom b v) (b + j) = if v.getD j 0 = 0 then none else some (v.getD j 0) := by
  induction v generalizing b j with
  | nil => simp [placedFrom]
  | cons x v ih =>
    rw [placedFrom_cons]
    cases j with
    | zero =>
      rw [List.getD_cons_zero]
      split
      · exact mapFind_placedFrom_below v (by omega)
      · rw [mapFind_cons, if_pos (Nat.add_zero b).symm]
    | succ j =>
      have hih := ih (b + 1) j
      rw [Nat.add_right_comm, Nat.add_assoc] at hih
      rw [List.getD_cons_succ]
      split
      · exact hih
      · rw [mapFind_cons, if_neg (by omega), hih]

theorem mapFind_placedFrom_above {b n : Nat} {v : List Lane} (h : b + v.length ≤ n) : mapFind (placedFrom b v) n = none := by
  obtain ⟨j, rfl⟩ := Nat.exists_eq_add_of_le (show b ≤ n by omega)
  rw [mapFind_placedFrom, if_pos]
  exact List.getD_eq_default _ _ (by omega)

theorem mapFind_setTile (k : Part) (t : Nat) (v : List Lane) (n : Nat) : mapFind (setTile k t v).acc n =
    ((if n < t * 1024 then mapFind k.acc n else none).or (mapFind (placedFrom (t * 1024) v) n)).or
      (if t * 1024 + 1024 ≤ n then mapFind k.acc n else none) := by
  have hacc : (setTile k t v).acc = k.acc.filter (fun e => decide (e.1 < t * 1024)) ++ placedFrom (t * 1024) v ++
    k.acc.filter (fun e => decide (t * 1024 + 1024 ≤ e.1)) := rfl
  rw [hacc, mapFind_append, mapFind_append, mapFind_filter_keys _ (fun i => decide (i < t * 1024)),
    mapFind_filter_keys _ (fun i => decide (t * 1024 + 1024 ≤ i))]
  simp only [decide_eq_true_eq]

/-- A tile reads as what is written there. -/
theorem mapGet_setTile_self (k : Part) (t : Nat) (v : List Lane) {j : Nat} (hj : j < 1024) :
    mapGet 0 (setTile k t v).acc (t * 1024 + j) = v.getD j 0 := by
  rw [mapGet, mapFind_setTile, if_neg (by omega), if_neg (by omega), mapFind_placedFrom]
  split
  case isTrue h => exact h.symm
  case isFalse => rfl

/-- Every other tile stands. -/
theorem mapGet_setTile_other (k : Part) {t : Nat} {v : List Lane} (hv : v.length ≤ 1024) {n : Nat}
    (hn : n < t * 1024 ∨ t * 1024 + 1024 ≤ n) : mapGet 0 (setTile k t v).acc n = mapGet 0 k.acc n := by
  rw [mapGet, mapFind_setTile, mapGet]
  rcases hn with hn | hn
  · rw [if_pos hn, if_neg (by omega), mapFind_placedFrom_below v hn]
    simp
  · rw [if_neg (by omega), if_pos hn, mapFind_placedFrom_above (by omega)]
    simp

end Sys2Proof.Machine
end

section
/-!
The accumulator instructions (R113, R119): their turn on a tile, the elements of a tile, and what ACCZ, ACCLD and ACCST do in their turn
and, for an ACCST whose slot has gone on, later.
-/
namespace Sys2Proof.Machine
open Sys2Proof.Claims

/-! The turn of an instruction on its tile. -/

section
variable {s : State} (hlive : s.cur.live = true) (hhold : s.cur.hold = .none)
include hlive

theorem part_capped (e : Bits512) (xs : List Xlat) :
    (capped s e xs).part = updSlot s.part s.slot (fun x => { x with cap := some (e, xs) }) := by
  refine partOf_setPart_live (n := s.slot) ?_
  have hslot := slotOf_updSlot_live (k := s.part) (n := s.slot) (g := fun x => { x with cap := some (e, xs) }) hlive
  exact (congrArg Slot.live hslot).trans hlive

theorem hold_capped (e : Bits512) (xs : List Xlat) : (capped s e xs).cur.hold = s.cur.hold := by
  have hslot := slotOf_updSlot_live (k := s.part) (n := s.slot) (g := fun x => { x with cap := some (e, xs) }) hlive
  rw [State.cur, part_capped hlive]
  exact (congrArg Slot.hold hslot).trans rfl

include hhold

/-- To capture an entry changes no turn. -/
theorem tileTurn_capped {t : Nat} {reads writes : List Span} (h : tileTurn s t reads writes) (e : Bits512) (xs : List Xlat) :
    tileTurn (capped s e xs) t reads writes := by
  obtain ⟨hmat, hheld, hmay⟩ := h
  refine ⟨?_, ?_, ?_⟩ <;> rw [part_capped hlive]
  · exact hmat
  · exact (tileHeldBefore_updSlot hhold hlive hhold t _).trans hheld
  · exact (engineMay_updSlot hhold hlive hhold _).trans hmay

end

/-- In its turn an accumulator instruction acts, once its place in the order is given out. -/
theorem accTurn_acts {s : State} {t : Nat} {reads writes : List Span} (hhold : s.cur.hold = .none) (h : tileTurn s t reads writes)
    (act : Pkg → Eff) : accTurn s.pkg (cxOf s) t reads writes act = act (ordered s) := by
  obtain ⟨hmat, hheld, hmay⟩ := h
  have hfree : s.part.matq.any (fun x => decide (x.tile = t) && decide (x.board.ord < s.part.nextOrd)) = false := by
    rw [List.any_eq_false]
    intro x hx
    have hne := of_decide_eq_true (List.all_eq_true.mp hmat x hx)
    simp [hne]
  have hnone : holdOf s.pkg (cxOf s) = .none := hhold
  simp only [accTurn, hnone]
  refine if_neg (Bool.not_eq_true _ ▸ ?_)
  exact (congrArg₂ (· || ·) (congrArg₂ (· || ·) hfree hheld) (congrArg not hmay))

theorem accTurn_capped_acts {s : State} {t : Nat} {reads writes : List Span} (hlive : s.cur.live = true) (hhold : s.cur.hold = .none)
    (h : tileTurn s t reads writes) (e : Bits512) (xs : List Xlat) (act : Pkg → Eff) :
    accTurn (setCap s.pkg (cxOf s) e xs) (cxOf s) t reads writes act = act (ordered (capped s e xs)) :=
  accTurn_acts (s := capped s e xs) ((hold_capped hlive e xs).trans hhold) (tileTurn_capped hlive hhold h e xs) act

/-! ACCZ. -/

theorem exec_accz (f : Fields) (s : State) : exec (.accz f) s = issue (.accz f) .lane0 (fun f cx p =>
    accTurn p cx (opdTile f.d) [] [] (fun p => .done (updPart p cx.core (fun k =>
      { setTile k (opdTile f.d) [] with tileFlags := mapPut 0 k.tileFlags (opdTile f.d) 0 })))) s := rfl

theorem exec_accz_inTurn {f : Fields} {s : State} (h : runs (.accz f) .lane0 s = true) (hturn : tileTurn s (opdTile f.d) [] []) :
    exec (.accz f) s = .next (advance s f (updPart (ordered s) s.core (fun k =>
      { setTile k (opdTile f.d) [] with tileFlags := mapPut 0 k.tileFlags (opdTile f.d) 0 }))) :=
  (exec_accz f s).trans (issue_done rfl h (accTurn_acts (hold_of_runs rfl h).2 hturn _))

/-! Installed floor copies. -/

/-- The package but for the places of the merge tree. -/
def onlyInsts (p q : Pkg) : Prop := q = { p with insts := q.insts }

theorem onlyInsts_trans {p q r : Pkg} (h : onlyInsts p q) (h' : onlyInsts q r) : onlyInsts p r := by
  rw [onlyInsts] at *
  rw [h', h]

theorem onlyInsts_foldl {α : Type} {g : Pkg → α → Pkg} (hg : ∀ q a, onlyInsts q (g q a)) (l : List α) (p : Pkg) :
    onlyInsts p (l.foldl g p) := by
  induction l generalizing p with
  | nil => rfl
  | cons a rest ih => exact onlyInsts_trans (hg p a) (ih (g p a))

theorem onlyInsts_setInst (p : Pkg) (lvl n : Nat) (i : Inst) : onlyInsts p (setInst p lvl n i) := rfl

theorem onlyInsts_recordHorizon (p : Pkg) (now lvl n line e child : Nat) (nl : Bool) :
    onlyInsts p (recordHorizon p now lvl n line e child nl) := onlyInsts_setInst p lvl n _

theorem onlyInsts_installCopy (p : Pkg) (now c lvl lease k : Nat) : onlyInsts p (installCopy p now c lvl lease k) := by
  simp only [installCopy]
  split
  · exact onlyInsts_setInst p _ _ _
  · exact onlyInsts_trans (onlyInsts_setInst p _ _ _) (onlyInsts_foldl (fun q _ => onlyInsts_recordHorizon q _ _ _ _ _ _ _) _ _)

theorem onlyInsts_installCopies (p : Pkg) (cx : Cx) (c lvl top lease : Nat) (long : Bool) (k : Nat) :
    onlyInsts p (installCopies p cx c lvl top lease long k) := by
  simp only [installCopies]
  exact onlyInsts_foldl (fun q l => onlyInsts_installCopy q cx.now c l lease k) _ _

/-- The floor copies that a load of some granules leaves. -/
def installAll (p : Pkg) (cx : Cx) (xs : List Xlat) (long : Bool) (gs : List Int) : Pkg :=
  gs.foldl (fun q g => match xlFor xs g.toNat with
    | some x => (probeKeys x g.toNat).foldl (fun q k => installCopies q cx cx.core 0 3 x.lease long k) q
    | none => q) p

theorem onlyInsts_installAll (p : Pkg) (cx : Cx) (xs : List Xlat) (long : Bool) (gs : List Int) :
    onlyInsts p (installAll p cx xs long gs) := by
  refine onlyInsts_foldl (fun q g => ?_) gs p
  split
  · exact onlyInsts_foldl (fun q k => onlyInsts_installCopies q cx cx.core 0 3 _ long k) _ _
  · rfl

theorem exists_insts_installAll (p : Pkg) (cx : Cx) (xs : List Xlat) (long : Bool) (gs : List Int) :
    ∃ copies : SMap Inst, installAll p cx xs long gs = { p with insts := copies } := ⟨_, onlyInsts_installAll p cx xs long gs⟩

/-! ACCLD. -/

theorem translateHeld_fresh {s : State} (hhold : s.cur.hold = .none) (write : Bool) (ty : Nat) (vas : List Int) :
    translateHeld s.pkg (cxOf s) write ty vas = translateAcc s.pkg (cxOf s) write ty vas := by
  have hcap : capOf (slotOf (partOf s.pkg (cxOf s).core) (cxOf s).slot) = none := by
    have hnone : (slotOf (partOf s.pkg (cxOf s).core) (cxOf s).slot).hold = .none := hhold
    simp [capOf, hnone, hasIssued]
  simp only [translateHeld, hcap]

/-- A part without a word in error has none to be read. -/
theorem scrBad_none {k : Part} (h : k.badWords = []) (a n : Nat) : scrBad k a n = none := by rw [scrBad, h, List.find?_nil]

theorem exec_accld (f : Fields) (s : State) : exec (.accld f) s = issue (.accld f) .lane0 accld s := rfl

section
variable {s : State} {f : Fields} (h : runs (.accld f) .lane0 s = true)
include h

theorem exec_accld_traps {t : Trap} (ht : accEls s.part s.cur (opdLay f.a) (s.bVal f) false = .error t) :
    exec (.accld f) s = .next (trapState s f t) := by
  have ht' : accEls (partOf s.pkg (cxOf s).core) (slotOf (partOf s.pkg (cxOf s).core) (cxOf s).slot) (opdLay f.a)
    (bScalar s.pkg (cxOf s).core (slotOf (partOf s.pkg (cxOf s).core) (cxOf s).slot) f.b) false = .error t := ht
  refine (exec_accld f s).trans (issue_trap rfl h ?_)
  simp only [accld, ht']

variable {e : Bits512} {els : List El} (hels : accEls s.part s.cur (opdLay f.a) (s.bVal f) false = .ok (e, els))
include hels

theorem exec_accld_local (hspace : laySpace e = 1) (hturn : tileTurn s (opdTile f.d) (accSpans e (s.bVal f)) [])
    (hbad : s.part.badWords = []) : exec (.accld f) s = .next (advance s f (updPart (ordered (capped s e [])) s.core (fun k =>
      setTile k (opdTile f.d) (accValues e (flushes (slotOf k s.slot)) els (scrNat k))))) := by
  have hels' : accEls (partOf s.pkg (cxOf s).core) (slotOf (partOf s.pkg (cxOf s).core) (cxOf s).slot) (opdLay f.a)
    (bScalar s.pkg (cxOf s).core (slotOf (partOf s.pkg (cxOf s).core) (cxOf s).slot) f.b) false = .ok (e, els) := hels
  obtain ⟨hlive, hhold⟩ := hold_of_runs rfl h
  have hwhole : (elAddrs e els).findSome? (fun a => scrBad (partOf s.pkg (cxOf s).core) a.toNat (tySize (layType e))) = none :=
    List.findSome?_eq_none_iff.mpr fun a _ => scrBad_none hbad _ _
  refine (exec_accld f s).trans (issue_done rfl h ?_)
  simp only [accld, hels']
  refine (if_neg (by omega)).trans ((accTurn_capped_acts hlive hhold hturn e [] _).trans ?_)
  simp only [hwhole]
  rfl

theorem exec_accld_global {xs : List Xlat} (hspace : laySpace e = 0)
    (hbusy : granuleBusy s.part s.slot (accGranules e true els) = false)
    (hxs : translateAcc s.pkg (cxOf s) false (layType e) (accAddrs e true els) = .ok xs)
    (hkeys : keysFree s 0 (probeAll xs (accGranules e true els))) (hturn : tileTurn s (opdTile f.d) [] []) :
    let p := ordered (capped s e xs)
    let r := readGranules p s.time s.core 0 xs (elAddrs e els) (tySize (layType e)) (accGranules e true els)
    loadBad p s.time s.core 0 xs (accGranules e true els) = none →
    exec (.accld f) s = .next (advance s f (updPart (installAll (logReply p s.time s.core ⟨e, els, true, xs, 0, f.long, false⟩
      (accGranules e true els)) (cxOf s) xs f.long (accGranules e true els)) s.core (fun k =>
        let k1 := setTile k (opdTile f.d) (accValues e (flushes (slotOf k s.slot)) els (granuleBytes r.1))
        if r.2 then orFlags k1 s.slot fNV else k1))) := by
  intro p r hbad
  have hels' : accEls (partOf s.pkg (cxOf s).core) (slotOf (partOf s.pkg (cxOf s).core) (cxOf s).slot) (opdLay f.a)
    (bScalar s.pkg (cxOf s).core (slotOf (partOf s.pkg (cxOf s).core) (cxOf s).slot) f.b) false = .ok (e, els) := hels
  obtain ⟨hlive, hhold⟩ := hold_of_runs rfl h
  obtain ⟨halias, hread⟩ := hkeys
  have hbad' : loadBad (ordered (capped s e xs)) (cxOf s).now (cxOf s).core 0 xs (accGranules e true els) = none := hbad
  have hbusy' : ¬ granuleBusy (partOf s.pkg (cxOf s).core) (cxOf s).slot (accGranules e true els) = true := by
    rw [Bool.not_eq_true]
    exact hbusy
  have hfree : ¬ (aliasBusy s.pkg (cxOf s) (probeAll xs (accGranules e true els)) ||
      (probeAll xs (accGranules e true els)).any (readWaits s.pkg (cxOf s).now (cxOf s).core 0)) = true := by
    rw [Bool.not_eq_true, halias, Bool.false_or]
    exact hread
  refine (exec_accld f s).trans (issue_done rfl h ?_)
  simp only [accld, hels']
  refine (if_pos hspace).trans ((if_neg hbusy').trans ?_)
  simp only [translateHeld_fresh hhold, hxs]
  refine (if_neg hfree).trans ((accTurn_capped_acts hlive hhold hturn e xs _).trans ?_)
  simp only [accLoadGlobal, hbad']
  rfl

end

end Sys2Proof.Machine
end

section
/-!
ACCST (R113, R119): the places of a tile that an access reaches, what each is rounded to, and the store in its turn or later.
-/
namespace Sys2Proof.Machine
open Sys2Proof.Claims

/-! The places of an access. -/

theorem forall₂_of_allOk {α β : Type} {g : α → Except Trap β} {l : List α} {xs : List β} (h : allOk (l.map g) = .ok xs) :
    List.Forall₂ (fun a x => g a = .ok x) l xs := by
  induction l generalizing xs with
  | nil =>
    cases h
    exact .nil
  | cons a rest ih =>
    rw [List.map_cons] at h
    rcases ha : g a with t | x
    · rw [ha, allOk] at h
      cases h
    · rcases hrest : allOk (rest.map g) with t | ys
      · simp only [ha, allOk, hrest] at h
        cases h
      · simp only [ha, allOk, hrest] at h
        cases h
        exact .cons ha (ih hrest)

/-- An element of a tile stands under the place that it was asked for. -/
theorem place_of_accEl {e : Bits512} {w : Word} {n : Nat} {write : Bool} {i : Nat} {x : El} (h : accEl e w n write i = .ok x) : x.1 = i := by
  simp only [accEl] at h
  split at h
  · cases h
    rfl
  · cases h
  · split at h
    · cases h
    · split at h
      · cases h
      · cases h
        rfl

/-- The elements of a tile, each under its place. -/
def tilePlaces (els : List El) : Prop := els.map (·.1) = List.range 1024

theorem tilePlaces_of_allOk {e : Bits512} {w : Word} {n : Nat} {write : Bool} {els : List El}
    (h : allOk ((List.range 1024).map (accEl e w n write)) = .ok els) : tilePlaces els := by
  have hall : List.Forall₂ (· = ·) (els.map (·.1)) (List.range 1024) :=
    List.forall₂_map_left_iff.mpr ((forall₂_of_allOk h).imp fun _ _ hx => place_of_accEl hx).flip
  rwa [List.forall₂_eq_eq_eq] at hall

theorem tilePlaces_of_accEls {k : Part} {x : Slot} {n : Nat} {w : Word} {write : Bool} {e : Bits512} {els : List El}
    (h : accEls k x n w write = .ok (e, els)) : tilePlaces els := by
  simp only [accEls] at h
  split at h
  · cases h
  · split at h
    · cases h
    · split at h
      · cases h
      next hels =>
        cases h
        exact tilePlaces_of_allOk hels

theorem lt_of_tilePlaces {els : List El} (h : tilePlaces els) {x : El} (hx : x ∈ els) : x.1 < 1024 := by
  rw [← List.mem_range, ← h]
  exact List.mem_map_of_mem hx

/-! Rounding a tile. -/

/-- Place i of a tile in the type of an entry (R64, R119). -/
def accRd (k : Part) (flush : Bool) (rm : Nat) (sat : Bool) (t : Nat) (e : Bits512) (i : Nat) : Rd :=
  fvConvert (fmtOfTy (layType e)) (rmOf rm) sat flush (decodeF fmtF32 (accOf k t (i / 32) (i % 32)).toNat)

/-- The flags of the places that are stored. -/
def accRdFlags (k : Part) (flush : Bool) (rm : Nat) (sat : Bool) (t : Nat) (e : Bits512) (els : List El) : Flags :=
  (els.filter (fun x => x.2.isSome)).foldl (fun acc x => acc ||| (accRd k flush rm sat t e x.1).fl) 0

/-- An element written to local scratchpad, by its place. -/
def accPut (now : Nat) (e : Bits512) (val : Nat → Nat) (q : Part) (x : El) : Part :=
  match x.2 with
  | some idx => scrWrite q now (elemAddr e idx).toNat (leBytes (tySize (layType e)) (val x.1))
  | none => q

theorem accWrite_eq (q : Part) (now : Nat) (e : Bits512) (els : List El) (vals : List Nat) :
    accWrite q now e els vals = els.foldl (accPut now e (fun i => vals.getD i 0)) q := rfl

theorem accPut_congr (now : Nat) (e : Bits512) {v w : Nat → Nat} (q : Part) {x : El} (h : v x.1 = w x.1) :
    accPut now e v q x = accPut now e w q x := by simp only [accPut, h]

theorem getD_tileOf (k : Part) (t : Nat) {i : Nat} (hi : i < 1024) : (tileOf k t).getD i 0 = accOf k t (i / 32) (i % 32) := by
  rw [tileOf, getD_map_range, if_pos hi, accOf, Nat.add_assoc, Nat.div_add_mod']

section
variable {k : Part} {flush : Bool} {rm : Nat} {sat : Bool} {t : Nat} {e : Bits512} {els : List El} (hels : tilePlaces els)
include hels

theorem accRound_rds : els.map (fun x => fvConvert (fmtOfTy (layType e)) (rmOf rm) sat flush (decodeF fmtF32 ((tileOf k t).getD x.1 0).toNat)) =
    els.map (fun x => accRd k flush rm sat t e x.1) :=
  List.map_congr_left fun x hx => by rw [getD_tileOf k t (lt_of_tilePlaces hels hx), accRd]

theorem getD_accRound {i : Nat} (hi : i < 1024) : (accRound k flush rm sat t e els).1.getD i 0 = (accRd k flush rm sat t e i).bits := by
  have hmap : (accRound k flush rm sat t e els).1 = (els.map (·.1)).map (fun i => (accRd k flush rm sat t e i).bits) := by
    simp only [accRound, accRound_rds hels, List.map_map]
    rfl
  rw [hmap, hels, getD_map_range, if_pos hi]

theorem flags_accRound : (accRound k flush rm sat t e els).2 = accRdFlags k flush rm sat t e els := by
  simp only [accRound, accRound_rds hels, accRdFlags, List.foldl_filter, ← List.map_prod_left_eq_zip, List.foldl_map]

/-- The elements written to local scratchpad, each its place of the tile. -/
theorem accWrite_accRound (q : Part) (now : Nat) : accWrite q now e els (accRound k flush rm sat t e els).1 =
    els.foldl (accPut now e (fun i => (accRd k flush rm sat t e i).bits)) q := by
  rw [accWrite_eq]
  exact List.foldl_ext _ _ q fun q _ hx => accPut_congr now e q (getD_accRound hels (lt_of_tilePlaces hels hx))

theorem storePieces_accRound (keep : Nat → Nat → Bool) :
    storePieces e els (fun i => (accRound k flush rm sat t e els).1.getD i 0) keep =
      storePieces e els (fun i => (accRd k flush rm sat t e i).bits) keep := by
  simp only [storePieces]
  exact congrArg _ (List.foldl_ext _ _ [] fun m x hx => by rw [getD_accRound hels (lt_of_tilePlaces hels hx)])

end

/-! ACCST in its turn, and put in the queue. -/

theorem exec_accst (f : Fields) (s : State) : exec (.accst f) s = issue (.accst f) .lane0 accst s := rfl

section
variable {s : State} {f : Fields} (h : runs (.accst f) .lane0 s = true)
include h

theorem exec_accst_traps {t : Trap} (ht : accEls s.part s.cur (opdLay f.d) (s.bVal f) true = .error t) :
    exec (.accst f) s = .next (trapState s f t) := by
  have ht' : accEls (partOf s.pkg (cxOf s).core) (slotOf (partOf s.pkg (cxOf s).core) (cxOf s).slot) (opdLay f.d)
    (bScalar s.pkg (cxOf s).core (slotOf (partOf s.pkg (cxOf s).core) (cxOf s).slot) f.b) true = .error t := ht
  refine (exec_accst f s).trans (issue_trap rfl h ?_)
  simp only [accst, ht']

variable {e : Bits512} {els : List El} (hels : accEls s.part s.cur (opdLay f.d) (s.bVal f) true = .ok (e, els))
include hels

theorem exec_accst_later (hspace : laySpace e = 1) (hlater : s.turn.later = true) :
    exec (.accst f) s = .next (advance s f (setPart s.pkg s.core
      { s.part with nextOrd := s.part.nextOrd + 1, accq := s.part.accq ++ [⟨opdTile f.a, e, s.bVal f, fld f.md 0 2, bit f.md 2,
          flushes s.cur, asidOf s.part, teamNoOf s.part, s.slot, s.cur.ctx, s.cur.pc,
          ⟨s.part.nextOrd, [], accSpans e (s.bVal f)⟩⟩] })) := by
  have hels' : accEls (partOf s.pkg (cxOf s).core) (slotOf (partOf s.pkg (cxOf s).core) (cxOf s).slot) (opdLay f.d)
    (bScalar s.pkg (cxOf s).core (slotOf (partOf s.pkg (cxOf s).core) (cxOf s).slot) f.b) true = .ok (e, els) := hels
  have hfresh : fresh (holdOf s.pkg (cxOf s)) = true := congrArg fresh (hold_of_runs rfl h).2
  have hgo : ((cxOf s).later && fresh (holdOf s.pkg (cxOf s))) = true := Bool.and_eq_true_iff.mpr ⟨hlater, hfresh⟩
  refine (exec_accst f s).trans (issue_done rfl h ?_)
  simp only [accst, hels']
  exact (if_neg (by omega)).trans (if_pos hgo)

variable (hbad : s.part.badTiles.contains (opdTile f.a) = false)
include hbad

theorem exec_accst_local (hspace : laySpace e = 1) (hnow : s.turn.later = false)
    (hturn : tileTurn s (opdTile f.a) [] (accSpans e (s.bVal f))) :
    exec (.accst f) s = .next (advance s f (updPart (setPart (ordered (capped s e [])) s.core
      (accWrite (partOf (ordered (capped s e [])) s.core) s.time e els
        (accRound s.part (flushes s.cur) (fld f.md 0 2) (bit f.md 2) (opdTile f.a) e els).1)) s.core (fun k =>
      orFlags k s.slot (tileFlagsOf k (opdTile f.a) |||
        (accRound s.part (flushes s.cur) (fld f.md 0 2) (bit f.md 2) (opdTile f.a) e els).2)))) := by
  have hels' : accEls (partOf s.pkg (cxOf s).core) (slotOf (partOf s.pkg (cxOf s).core) (cxOf s).slot) (opdLay f.d)
    (bScalar s.pkg (cxOf s).core (slotOf (partOf s.pkg (cxOf s).core) (cxOf s).slot) f.b) true = .ok (e, els) := hels
  obtain ⟨hlive, hhold⟩ := hold_of_runs rfl h
  have hstay : ¬ ((cxOf s).later && fresh (holdOf s.pkg (cxOf s))) = true := by
    rw [show (cxOf s).later = false from hnow]
    exact Bool.false_ne_true
  refine (exec_accst f s).trans (issue_done rfl h ?_)
  simp only [accst, hels']
  refine (if_neg (by omega)).trans ((if_neg hstay).trans ((accTurn_capped_acts hlive hhold hturn e [] _).trans ?_))
  exact if_neg (Bool.not_eq_true _ ▸ hbad)

/-- The store of a tile's elements to global memory. -/
def accStore (e : Bits512) (els : List El) (val : Nat → Nat) : Store :=
  ⟨0, 0, 0, layType e, false, storePieces e els val (fun _ _ => true)⟩

theorem exec_accst_global {q : Pkg} (hspace : laySpace e = 0) (hhigh : storeHigh e els = none) (hturn : tileTurn s (opdTile f.a) [] [])
    (hq : storePiecesGo (ordered (capped s e [])) (cxOf s) e
      (accStore e els (fun i => (accRound s.part (flushes s.cur) (fld f.md 0 2) (bit f.md 2) (opdTile f.a) e els).1.getD i 0))
      { f with a := .none, b := .desc .none } = .done q) :
    exec (.accst f) s = .next (advance s f (updPart q s.core (fun k => orFlags k s.slot (tileFlagsOf k (opdTile f.a) |||
      (accRound s.part (flushes s.cur) (fld f.md 0 2) (bit f.md 2) (opdTile f.a) e els).2)))) := by
  have hels' : accEls (partOf s.pkg (cxOf s).core) (slotOf (partOf s.pkg (cxOf s).core) (cxOf s).slot) (opdLay f.d)
    (bScalar s.pkg (cxOf s).core (slotOf (partOf s.pkg (cxOf s).core) (cxOf s).slot) f.b) true = .ok (e, els) := hels
  obtain ⟨hlive, hhold⟩ := hold_of_runs rfl h
  refine (exec_accst f s).trans (issue_done rfl h ?_)
  simp only [accst, hels']
  refine (if_pos hspace).trans ?_
  simp only [hhigh]
  refine (accTurn_capped_acts hlive hhold hturn e [] _).trans ((if_neg (Bool.not_eq_true _ ▸ hbad)).trans ?_)
  have hq' : storePiecesGo (ordered (capped s e [])) (cxOf s) e ⟨0, 0, 0, layType e, false, storePieces e els
      (fun i => (accRound (partOf s.pkg (cxOf s).core) (flushes (slotOf (partOf s.pkg (cxOf s).core) (cxOf s).slot)) (fld f.md 0 2)
        (bit f.md 2) (opdTile f.a) e els).1.getD i 0) (fun _ _ => true)⟩ { f with a := .none, b := .desc .none } = .done q := hq
  simp only [hq']
  rfl

end

/-! An ACCST whose slot has gone on. -/

/-- The oldest stored tile, in its turn. -/
theorem moveAcc_stores {p : Pkg} {c : Nat} {x : AccCmd} {rest : List AccCmd} {els : List El} (now : Nat) (hq : (partOf p c).accq = x :: rest)
    (hmat : (partOf p c).matq.all (fun y => decide (y.tile ≠ x.tile) || decide (x.board.ord ≤ y.board.ord)) = true)
    (hheld : tileHeldBefore (partOf p c) x.tile x.board.ord = false) (hmay : engineMay (partOf p c) x.board = true)
    (hsw : (coreOf p c).switching = false) (hf : (coreOf p c).fenced = none) (hbad : (partOf p c).badTiles.contains x.tile = false)
    (hels : allOk ((List.range 1024).map (accEl x.e x.w 0 true)) = .ok els) :
    moveAcc p now c = setPart p c (orFlagsOf (accWrite { partOf p c with accq := rest } now x.e els
      (accRound (partOf p c) x.flush x.rm x.sat x.tile x.e els).1) x.slot x.ctx
      (tileFlagsOf (partOf p c) x.tile ||| (accRound (partOf p c) x.flush x.rm x.sat x.tile x.e els).2)) := by
  have hfree : (partOf p c).matq.any (fun y => decide (y.tile = x.tile) && decide (y.board.ord < x.board.ord)) = false := by
    rw [List.any_eq_false]
    intro y hy
    have hy' := List.all_eq_true.mp hmat y hy
    simp only [Bool.or_eq_true, decide_eq_true_eq] at hy'
    simp only [Bool.and_eq_true, decide_eq_true_eq, not_and, not_lt]
    exact fun ht => hy'.resolve_left (fun hne => hne ht)
  simp only [moveAcc, hq, hfree, hheld, hmay, hsw, hf, hbad, hels]
  rfl

end Sys2Proof.Machine

open Sys2Proof.Machine Sys2Proof.Claims

/-- Settles O17: a written tile by its keys, ACCZ, ACCLD and ACCST by their turn on it, and the stored places one by one. -/
theorem accumulatorInstructions : Obligations.AccumulatorInstructions := by
  refine ⟨fun k t v => ⟨fun j hj => mapGet_setTile_self k t v hj, fun hv j hj => mapGet_setTile_other k hv hj⟩,
    fun s f h hturn => exec_accz_inTurn h hturn, fun s f t h ht => exec_accld_traps h ht, fun s f e els h hels =>
      ⟨fun hspace hturn hbad => exec_accld_local h hels hspace hturn hbad, fun xs hspace hbusy hxs hkeys hturn => ?load⟩,
    fun s f t h ht => exec_accst_traps h ht, fun s f e els h hels hbad => ?store,
    fun p now c x rest els hq hmat hheld hmay hsw hf hbad hels => ?moved⟩
  case load =>
    intro p hbad
    have hexec := exec_accld_global h hels hspace hbusy hxs hkeys hturn hbad
    obtain ⟨copies, hcopies⟩ := exists_insts_installAll (logReply p s.time s.core ⟨e, els, true, xs, 0, f.long, false⟩
      (accGranules e true els)) (cxOf s) xs f.long (accGranules e true els)
    rw [hcopies] at hexec
    exact ⟨copies, hexec⟩
  case store =>
    have hplaces := tilePlaces_of_accEls hels
    refine ⟨fun hspace hnow hturn => ?_, fun hspace hlater => exec_accst_later h hels hspace hlater, fun q hspace hhigh hturn hq => ?_⟩
    · refine (exec_accst_local h hels hbad hspace hnow hturn).trans ?_
      rw [accWrite_accRound hplaces, flags_accRound hplaces]
      rfl
    · refine (exec_accst_global (q := q) h hels hbad hspace hhigh hturn ?_).trans ?_
      · rw [accStore, storePieces_accRound hplaces]
        exact hq
      · rw [flags_accRound hplaces]
        rfl
  case moved =>
    have hplaces := tilePlaces_of_allOk hels
    refine (moveAcc_stores now hq hmat hheld hmay hsw hf hbad hels).trans ?_
    rw [accWrite_accRound hplaces, flags_accRound hplaces]
    rfl
end

section
/-!
The matrix unit (R113 to R120): the first command of the queue starts, completes or fails, and a command of another core arrives.
-/
namespace Sys2Proof.Machine
open Sys2Proof.Claims

/-! A command leaves the queue. -/

section
variable {k : Part} {x : MatCmd} {rest : List MatCmd} (r : MatRun)

theorem matq_leaveQueue (hq : k.matq = x :: rest) : (leaveQueue k x r).matq = rest := by
  have hdrop : (leaveQueue k x r).matq = k.matq.drop 1 := rfl
  rw [hdrop, hq]
  rfl

/-- Its tile stands as far as it came. -/
theorem tile_leaveQueue (k : Part) (x : MatCmd) {j : Nat} (hj : j < 1024) :
    mapGet 0 (leaveQueue k x r).acc (x.tile * 1024 + j) = r.tile.getD j 0 := mapGet_setTile_self k x.tile r.tile hj

theorem tileFlags_leaveQueue (k : Part) (x : MatCmd) :
    (leaveQueue k x r).tileFlags = mapPut 0 k.tileFlags x.tile (tileFlagsOf k x.tile ||| r.fl) := rfl

theorem frame_leaveQueue (k : Part) (x : MatCmd) : leaveQueue k x r =
    { k with acc := (leaveQueue k x r).acc, tileFlags := (leaveQueue k x r).tileFlags, matq := (leaveQueue k x r).matq } := rfl

end

/-! The first command of the queue. -/

section
variable {s : State} {c : Nat} {x : MatCmd} {rest : List MatCmd} (hq : (partOf s.pkg c).matq = x :: rest)
include hq

theorem startMatrix_starts (hrun : x.running = false) (hmay : engineMay (partOf s.pkg c) x.board = true)
    (hheld : tileHeldBefore (partOf s.pkg c) x.tile x.board.ord = false) (hsw : (coreOf s.pkg c).switching = false)
    (hwait : arrayWaits s.pkg x = false) :
    let ahead := if s.turn.later then pinLines s.pkg s.time c x else x.lines
    startMatrix s.pkg (cxOf s) c = logLines (setPart s.pkg c { partOf s.pkg c with matq :=
        { x with running := true, lines := ahead } :: rest }) s.time c x.lines ahead := by
  simp only [startMatrix, hq, hrun, hmay, hheld, hsw, hwait]
  rfl

theorem startMatrix_running (hrun : x.running = true) : startMatrix s.pkg (cxOf s) c = s.pkg := by
  simp [startMatrix, hq, hrun]

variable (hrun : x.running = true) (hwait : arrayWaits s.pkg x = false)
include hrun hwait

theorem completeMatrix_completes {r : MatRun} (hr : runCommand s.pkg s.time c x = (r, none)) : completeMatrix s.pkg s.time c =
    logLines (setPart s.pkg c (leaveQueue (partOf s.pkg c) x r)) s.time c x.lines r.lines := by
  simp [completeMatrix, hq, hrun, hwait, hr]

theorem failMatrix_raises {r : MatRun} {t : Trap} (hr : runCommand s.pkg s.time c x = (r, some t)) (ht : t.cause ≠ causeMachineCheck) :
    failMatrix s.pkg s.time c = raiseEngine (setPart s.pkg c (leaveQueue (partOf s.pkg c) x r)) s.time c x.asid x.team
      (engineTrap (if t.cause = causeFp then 1 else 2) x.ioff (matrixInfo x.tile r.progress)) := by
  simp [failMatrix, hq, hrun, hwait, hr, ht]

end

/-! The steps of the events. -/

section
variable {s : State} {c : Nat} {q : Pkg}

theorem eventTo_matrixCommandStart (h : startMatrix s.pkg (cxOf s) c = q) : eventTo (.matrixCommandStart c) s q := h ▸ rfl
theorem eventTo_matrixCommandComplete (h : completeMatrix s.pkg s.time c = q) : eventTo (.matrixCommandComplete c) s q := h ▸ rfl
theorem eventTo_matrixEngineFault (h : failMatrix s.pkg s.time c = q) : eventTo (.matrixEngineFault c) s q := h ▸ rfl

/-- The next message of a pair is what its arrival makes of it, or stays where it is. -/
theorem eventTo_mmarCommandArrival {src dst : Nat} {m : Msg} {r : Pkg} (h : arrives s src dst m r)
    (hq : (mmarArrives r (cxOf s) dst ⟨s.pkg.regs.pkgnum, m.src, m.asid⟩ m.body).getD s.pkg = q) :
    eventTo (.mmarCommandArrival src dst) s q := by
  obtain ⟨hnext, rfl⟩ := h
  have hmsg : onMsg s.pkg src dst (fun m q => mmarArrives q (cxOf s) dst (originOf s.pkg m) m.body) = q := by
    simp only [onMsg, hnext]
    exact hq
  exact hmsg ▸ rfl

end

/-! A command of another core (R117, R118). -/

/-- The command as its target puts it in the queue. -/
def arrivedCmd (k : Part) (asid tile : Nat) (r : MatReady) (fa fb cp : Bool) (core sl ctx ioff : Nat) : MatCmd :=
  { tile := tile, a := r.a, b := r.b, tfa := fa, tfb := fb, k := r.depth, skips := [], compat := cp, asid := asid, team := mcapTeam k asid,
    core := core, slot := sl, ctx := ctx, ioff := ioff, progress := 0, running := false, lines := [], board := ⟨0, r.reads, []⟩ }

section
variable {p : Pkg} {cx : Cx} {dst : Nat} {o : Origin} {b : MsgBody} {tile la lb : Nat} {cap : BitVec 32} {fa fb cp : Bool}
  {sl ctx ioff uid : Nat} (hb : b = .mmar tile la lb cap fa fb cp sl ctx ioff uid)
include hb

theorem mmarArrives_fenced (hf : (coreOf p dst).fenced.isSome = true) :
    mmarArrives p cx dst o b = some (sendPkg p dst o.pkg o.core o.asid (.refusal uid 0x31 0)) := by
  subst hb
  exact if_pos hf

variable (hf : (coreOf p dst).fenced = none)
include hf

theorem mmarArrives_noCap (hcap : bit (coreOf p dst).mcap 63 = false ∨ fld (coreOf p dst).mcap 0 32 ≠ cap.toNat) :
    mmarArrives p cx dst o b = some (sendPkg p dst o.pkg o.core o.asid (.refusal uid 0x02 0)) := by
  subst hb
  exact (if_neg (by simp [hf])).trans (if_pos hcap)

variable (hbit : bit (coreOf p dst).mcap 63 = true) (hcap : fld (coreOf p dst).mcap 0 32 = cap.toNat)
include hbit hcap

theorem mmarArrives_refused {t : Trap}
    (ht : mmarReady (partOf p dst) { cx with core := dst } (fld (coreOf p dst).mcap 32 9) la lb fa fb = .error t) :
    mmarArrives p cx dst o b = some (sendPkg p dst o.pkg o.core o.asid (.refusal uid 0x21 0)) := by
  subst hb
  refine (if_neg (by simp [hf])).trans ((if_neg (by simp [hbit, hcap])).trans ?_)
  rw [partOf] at ht
  simp only [ht]
  rfl

variable {r : MatReady} (hr : mmarReady (partOf p dst) { cx with core := dst } (fld (coreOf p dst).mcap 32 9) la lb fa fb = .ok r)
include hr

theorem mmarArrives_full (hfull : 4 ≤ (partOf p dst).matq.length) : mmarArrives p cx dst o b = none := by
  subst hb
  refine (if_neg (by simp [hf])).trans ((if_neg (by simp [hbit, hcap])).trans ?_)
  rw [partOf] at hr
  simp only [hr]
  exact if_pos hfull

theorem mmarArrives_queued (hroom : (partOf p dst).matq.length < 4) : mmarArrives p cx dst o b =
    some (sendPkg (updPart (receive p cx.now dst o.pkg o.core b) dst (fun k => enqueueMat k
      (arrivedCmd (partOf p dst) (fld (coreOf p dst).mcap 32 9) tile r fa fb cp o.core sl ctx ioff))) dst o.pkg o.core o.asid (.ack uid)) := by
  subst hb
  refine (if_neg (by simp [hf])).trans ((if_neg (by simp [hbit, hcap])).trans ?_)
  rw [partOf] at hr
  simp only [hr]
  exact if_neg (Nat.not_le.mpr hroom)

end

end Sys2Proof.Machine

open Sys2Proof.Machine Sys2Proof.Claims

/-- Settles O18: the first command by what its steps come to, an arriving one by the checks of its target in their order. -/
theorem matrixUnitEvents : Obligations.MatrixUnitEvents := by
  refine ⟨fun s c x rest hq => ⟨fun hrun hmay hheld hsw hwait => ?start, fun hrun => ?runs, fun r hrun hwait hr => ?completes,
    fun r t hrun hwait hr ht => ?fails⟩, fun s src dst tile la lb cap fa fb cp sl ctx ioff uid m q harr hbody => ?arrival⟩
  case start => exact eventTo_matrixCommandStart (startMatrix_starts hq hrun hmay hheld hsw hwait)
  case runs => exact eventTo_matrixCommandStart (startMatrix_running hq hrun)
  case completes =>
    exact ⟨leaveQueue (partOf s.pkg c) x r, eventTo_matrixCommandComplete (completeMatrix_completes hq hrun hwait hr), matq_leaveQueue r hq,
      fun j hj => tile_leaveQueue r _ x hj, tileFlags_leaveQueue r _ x, frame_leaveQueue r _ x⟩
  case fails =>
    exact ⟨leaveQueue (partOf s.pkg c) x r, matq_leaveQueue r hq, fun j hj => tile_leaveQueue r _ x hj,
      eventTo_matrixEngineFault (failMatrix_raises hq hrun hwait hr ht)⟩
  case arrival =>
    have hcore : coreOf s.pkg dst = coreOf q dst := by
      rw [harr.2]
      rfl
    simp only [hcore]
    refine ⟨fun hf => ?_, fun hf hcap => ?_, fun hf hbit hcap => ⟨fun t ht => ?_, fun r hr => ⟨fun hfull => ?_, fun hroom => ?_⟩⟩⟩
    · exact eventTo_mmarCommandArrival harr (congrArg (Option.getD · s.pkg) (mmarArrives_fenced hbody hf))
    · exact eventTo_mmarCommandArrival harr (congrArg (Option.getD · s.pkg) (mmarArrives_noCap hbody hf hcap))
    · exact eventTo_mmarCommandArrival harr (congrArg (Option.getD · s.pkg) (mmarArrives_refused hbody hf hbit hcap ht))
    · exact eventTo_mmarCommandArrival harr (congrArg (Option.getD · s.pkg) (mmarArrives_full hbody hf hbit hcap hr hfull))
    · exact ⟨arrivedCmd (partOf q dst) (fld (coreOf q dst).mcap 32 9) tile r fa fb cp m.src sl ctx ioff, rfl, rfl, rfl, rfl, rfl, rfl, rfl,
        rfl, rfl, rfl, rfl, eventTo_mmarCommandArrival harr
          (congrArg (Option.getD · s.pkg) (mmarArrives_queued hbody hf hbit hcap hr hroom))⟩
end

section
/-!
The seam unit (R125 to R130): what SEAM.MATCH, SEAM.APPLY and UNSEAM check and queue, and the oldest command begun and performed.
-/
namespace Sys2Proof.Machine
open Sys2Proof.Claims

theorem mergeOk_iff (n r : Nat) (keep0 : Bool) : mergeOk n r keep0 = true ↔ mergeLimit n r keep0 := by
  cases keep0 <;> simp [mergeOk, mergeLimit]

theorem firstError_ok (u : Unit) (l : List (Except Trap Unit)) : firstError (.ok u :: l) = firstError l := rfl

theorem exec_seam (f : Fields) (s : State) : exec (.seam f) s = issue (.seam f) .lane0 seam s := rfl
theorem exec_unseam (f : Fields) (s : State) : exec (.unseam f) s = issue (.unseam f) .lane0 unseam s := rfl

/-! SEAM.MATCH (R125, R127). -/

/-- N, DK and r of a MATCH, from the registers at B. -/
def matchN (s : State) (f : Fields) : Nat := fld (blockReg s.cur 0 (bDesc f.b)) 0 13
def matchDk (s : State) (f : Fields) : Nat := fld (blockReg s.cur 0 (bDesc f.b)) 16 9
def matchR (s : State) (f : Fields) : Nat := fld (blockReg s.cur 1 (bDesc f.b)) 0 13

/-- The command that a MATCH puts in the queue: begun where nothing older keeps it from clearing MAGIC at once. -/
def matchCmd (s : State) (f : Fields) (em ek : Bits512) : SeamCmd :=
  { op := 0, keep0 := bit f.md 1, entries := [em, ek], n := matchN s f, dk := matchDk s f, r := matchR s f,
    gen := BitVec.ofNat 32 (fld (blockReg s.cur 2 (bDesc f.b)) 0 32), compat := !flushes s.cur, asid := asidOf s.part,
    team := teamNoOf s.part, slot := s.slot, ctx := s.cur.ctx, ioff := s.cur.pc,
    begun := decide (s.part.seamq = []) && scrClear s.part (rowSpans ek (matchDk s f) (matchN s f)) [mapSpan em (matchN s f)],
    board := ⟨0, rowSpans ek (matchDk s f) (matchN s f), [mapSpan em (matchN s f)]⟩ }

/-- What a MATCH comes to once its numbers are good, by the outcome of the checks of its map and of its rows. -/
def matchChecked (s : State) (f : Fields) (em ek : Bits512) (o : Except Trap Unit) : Eff :=
  match o with
  | .error t => .trap t
  | .ok _ =>
    if spansMeet (rowRange ek (matchDk s f) (matchN s f)) [mapSpan em (matchN s f)] then .trap (bareTrap causeBounds (cxOf s))
    else .done (setPart s.pkg s.core (seamQueued (if (matchCmd s f em ek).begun
      then scrWrite s.part s.time (layBaseAddr em) (leBytes 4 0) else s.part) (matchCmd s f em ek)))

theorem seamOf_matchCmd (s : State) (f : Fields) (em ek : Bits512) : seamOf s (matchCmd s f em ek) 0 (matchN s f) (matchDk s f) (matchR s f)
    (fld (blockReg s.cur 2 (bDesc f.b)) 0 32) (bit f.md 1) [em, ek] :=
  ⟨rfl, rfl, rfl, rfl, rfl, rfl, rfl, rfl, rfl, rfl, rfl, rfl, Bool.not_not _⟩

section
variable {s : State} {f : Fields} (hmode : bit f.md 0 = false)
include hmode

theorem seam_match : seam f (cxOf s) s.pkg = seamMatch s.pkg (cxOf s) f := by
  rw [seam, hmode]
  rfl

variable (h : runs (.seam f) .lane0 s = true)
include h

theorem exec_seamMatch_traps {t : Trap} (ht : seamEntry s.part (opdLay f.d) [6] 1 = .error t) :
    exec (.seam f) s = .next (trapState s f t) := by
  have ht' : seamEntry (partOf s.pkg (cxOf s).core) (opdLay f.d) [6] 1 = .error t := ht
  refine (exec_seam f s).trans (issue_trap rfl h ((seam_match hmode).trans ?_))
  simp only [seamMatch, ht']

variable {em ek : Bits512} (hm : seamEntry s.part (opdLay f.d) [6] 1 = .ok em) (hk : seamEntry s.part (opdLay f.a) [9] 2 = .ok ek)
include hm hk

theorem exec_seamMatch_bounds (hbad : ¬ (1 ≤ matchN s f ∧ matchN s f ≤ 4096 ∧ 1 ≤ matchDk s f ∧ matchDk s f ≤ 256 ∧
      mergeLimit (matchN s f) (matchR s f) (bit f.md 1))) :
    exec (.seam f) s = .next (trapState s f (bareTrap causeBounds (cxOf s))) := by
  have hm' : seamEntry (partOf s.pkg (cxOf s).core) (opdLay f.d) [6] 1 = .ok em := hm
  have hk' : seamEntry (partOf s.pkg (cxOf s).core) (opdLay f.a) [9] 2 = .ok ek := hk
  have hout : matchN s f = 0 ∨ 4096 < matchN s f ∨ matchDk s f = 0 ∨ 256 < matchDk s f ∨
      mergeOk (matchN s f) (matchR s f) (bit f.md 1) = false := by
    rw [← Bool.not_eq_true, mergeOk_iff]
    by_contra hc
    simp only [not_or, not_not] at hc
    obtain ⟨hn, hn', hd, hd', hmerge⟩ := hc
    exact hbad ⟨by omega, by omega, by omega, by omega, hmerge⟩
  refine (exec_seam f s).trans (issue_trap rfl h ((seam_match hmode).trans ?_))
  simp only [seamMatch, hm', hk']
  exact if_pos hout

theorem exec_seamMatch_queues (hn : 1 ≤ matchN s f) (hn' : matchN s f ≤ 4096) (hd : 1 ≤ matchDk s f) (hd' : matchDk s f ≤ 256)
    (hmerge : mergeLimit (matchN s f) (matchR s f) (bit f.md 1)) (hmap : checkMap em (opdLay f.d) (matchN s f) = .ok ())
    (hrows : checkRows ek (opdLay f.a) (matchDk s f) (matchN s f) = .ok ())
    (hapart : spansMeet (rowRange ek (matchDk s f) (matchN s f)) [mapSpan em (matchN s f)] = false) :
    exec (.seam f) s = .next (advance s f (setPart s.pkg s.core (seamQueued (if (matchCmd s f em ek).begun
      then scrWrite s.part s.time (layBaseAddr em) (leBytes 4 0) else s.part) (matchCmd s f em ek)))) := by
  have hm' : seamEntry (partOf s.pkg (cxOf s).core) (opdLay f.d) [6] 1 = .ok em := hm
  have hk' : seamEntry (partOf s.pkg (cxOf s).core) (opdLay f.a) [9] 2 = .ok ek := hk
  have hin : ¬ (matchN s f = 0 ∨ 4096 < matchN s f ∨ matchDk s f = 0 ∨ 256 < matchDk s f ∨
      mergeOk (matchN s f) (matchR s f) (bit f.md 1) = false) := by
    rw [← Bool.not_eq_true, mergeOk_iff]
    simp only [not_or, not_not]
    exact ⟨by omega, by omega, by omega, by omega, hmerge⟩
  have hchecks : firstError [checkMap em (opdLay f.d) (matchN s f), checkRows ek (opdLay f.a) (matchDk s f) (matchN s f)] = .ok () := by
    rw [hmap, hrows]
    rfl
  refine (exec_seam f s).trans (issue_done rfl h ((seam_match hmode).trans ?_))
  simp only [seamMatch, hm', hk']
  exact (if_neg hin).trans ((congrArg (matchChecked s f em ek) hchecks).trans (if_neg (by simp [hapart])))

end

/-! The instructions that use a map (R128 to R130). -/

section
variable {s : State} {nm : Nat} {em : Bits512} {gen : Nat} {mk : MapHead → SeamCmd}
  {rest : MapHead → List (Except Trap Unit) × List Span × List Span} {ranges : MapHead → List Span × List Span}
  (hread : mapReadable s nm em)
include hread

/-- A map that may be read: its header decides. -/
theorem seamUse_readable : seamUse s.pkg (cxOf s) nm em gen mk rest ranges =
    let h := mapHead s.part (layBaseAddr em)
    if h.magic ≠ seamMagic then seamFault s.pkg (cxOf s) 4
    else if h.gen ≠ gen then seamFault s.pkg (cxOf s) 5
    else if h.n = 0 ∨ 4096 < h.n ∨ mergeOk h.n h.r h.keep0 = false then .trap (bareTrap causeBounds (cxOf s))
    else match firstError (checkMap em nm h.n :: (rest h).1) with
      | .error t => .trap t
      | .ok _ =>
        if spansMeet (mapSpan em h.n :: (ranges h).1) (ranges h).2 then .trap (bareTrap causeBounds (cxOf s))
        else if scrClear s.part [mapSpan em h.n] [] = false then .busy s.pkg
        else .done (setPart s.pkg s.core (enqueueSeam s.part
          { mk h with board := ⟨0, mapSpan em h.n :: (rest h).2.1, (rest h).2.2⟩ })) := by
  obtain ⟨hmap, hclear, hbad⟩ := hread
  have hclear' : scrClear (partOf s.pkg (cxOf s).core) [mapSpan em 0] [] = true := hclear
  have hbad' : (partOf s.pkg (cxOf s).core).badWords = [] := hbad
  simp only [seamUse, hmap, hclear', scrBad_none hbad', Option.isSome_none, Bool.true_eq_false, Bool.false_eq_true, if_false]
  rfl

/-- MAGIC is not that of a map (R128, R130). -/
theorem seamUse_badMagic (hmagic : (mapHead s.part (layBaseAddr em)).magic ≠ 0x5A534D31) :
    seamUse s.pkg (cxOf s) nm em gen mk rest ranges = seamFault s.pkg (cxOf s) 4 :=
  (seamUse_readable hread).trans (if_pos hmagic)

/-- GEN is not that of the instruction. -/
theorem seamUse_badGen (hmagic : (mapHead s.part (layBaseAddr em)).magic = 0x5A534D31)
    (hgen : (mapHead s.part (layBaseAddr em)).gen ≠ gen) :
    seamUse s.pkg (cxOf s) nm em gen mk rest ranges = seamFault s.pkg (cxOf s) 5 :=
  (seamUse_readable hread).trans ((if_neg (not_not.mpr hmagic)).trans (if_pos hgen))

/-- A valid map, good rows and no output over an input: the command is queued. -/
theorem seamUse_queues {h : MapHead} (hvalid : mapValid s nm em gen h) (hchecks : firstError (rest h).1 = .ok ())
    (hapart : spansMeet (mapSpan em h.n :: (ranges h).1) (ranges h).2 = false) :
    seamUse s.pkg (cxOf s) nm em gen mk rest ranges = .done (setPart s.pkg s.core (seamQueued s.part
      { mk h with board := ⟨0, mapSpan em h.n :: (rest h).2.1, (rest h).2.2⟩ })) := by
  obtain ⟨rfl, hmagic, hgen, hn, hn', hmerge, hmap, hclear⟩ := hvalid
  have hin : ¬ ((mapHead s.part (layBaseAddr em)).n = 0 ∨ 4096 < (mapHead s.part (layBaseAddr em)).n ∨
      mergeOk (mapHead s.part (layBaseAddr em)).n (mapHead s.part (layBaseAddr em)).r (mapHead s.part (layBaseAddr em)).keep0 = false) := by
    rw [← Bool.not_eq_true, mergeOk_iff]
    simp only [not_or, not_not]
    exact ⟨by omega, by omega, hmerge⟩
  rw [seamUse_readable hread]
  refine (if_neg (not_not.mpr hmagic)).trans ((if_neg (not_not.mpr hgen)).trans ((if_neg hin).trans ?_))
  simp only [hmap, firstError_ok, hchecks, hapart, hclear, Bool.false_eq_true, Bool.true_eq_false, if_false]
  rfl

end

/-- A wrong header is reported to the team, and the slot goes on. -/
theorem issue_seamFault {i : Instr} {c : Nat} {f : Fields} {g : Guarding} {body : Fields → Cx → Pkg → Eff} {s : State} {sub : Nat}
    (hw : i.word = some (c, f)) (h : runs i g s = true) (hb : body f (cxOf s) s.pkg = seamFault s.pkg (cxOf s) sub) :
    issue i g body s = .next (mapRefused s f sub) := issue_done hw h hb

/-- The command of an APPLY (1) or UNSEAM (2) on a map with a header. -/
def useCmd (s : State) (op d gen : Nat) (es : List Bits512) (h : MapHead) : SeamCmd :=
  { op := op, keep0 := h.keep0, entries := es, n := h.n, dk := d, r := h.r, gen := BitVec.ofNat 32 gen, compat := !flushes s.cur,
    asid := asidOf s.part, team := teamNoOf s.part, slot := s.slot, ctx := s.cur.ctx, ioff := s.cur.pc, begun := false, board := ⟨0, [], []⟩ }

theorem seamOf_useCmd (s : State) (op d gen : Nat) (es : List Bits512) (h : MapHead) (b : Board) :
    seamOf s { useCmd s op d gen es h with board := b } op h.n d h.r gen h.keep0 es :=
  ⟨rfl, rfl, rfl, rfl, rfl, rfl, rfl, rfl, rfl, rfl, rfl, rfl, Bool.not_not _⟩

/-- What an instruction on a readable map comes to, by the map's header and the checks that depend on it. -/
theorem exec_seamUse {i : Instr} {c : Nat} {f : Fields} {body : Fields → Cx → Pkg → Eff} {s : State} {nm : Nat} {em : Bits512}
    {op d gen : Nat} {es : List Bits512} {rest : MapHead → List (Except Trap Unit) × List Span × List Span}
    {ranges : MapHead → List Span × List Span} (hi : exec i s = issue i .lane0 body s) (hw : i.word = some (c, f))
    (h : runs i .lane0 s = true)
    (hb : body f (cxOf s) s.pkg = seamUse s.pkg (cxOf s) nm em gen (useCmd s op d gen es) rest ranges) (hread : mapReadable s nm em) :
    ((mapHead s.part (layBaseAddr em)).magic ≠ 0x5A534D31 → exec i s = .next (mapRefused s f 4)) ∧
    ((mapHead s.part (layBaseAddr em)).magic = 0x5A534D31 → (mapHead s.part (layBaseAddr em)).gen ≠ gen →
      exec i s = .next (mapRefused s f 5)) ∧
    (∀ hdr : MapHead, mapValid s nm em gen hdr → firstError (rest hdr).1 = .ok () →
      spansMeet (mapSpan em hdr.n :: (ranges hdr).1) (ranges hdr).2 = false → ∃ x : SeamCmd, seamOf s x op hdr.n d hdr.r gen hdr.keep0 es ∧
        exec i s = .next (advance s f (setPart s.pkg s.core (seamQueued s.part x)))) :=
  ⟨fun hmagic => hi.trans (issue_seamFault hw h (hb.trans (seamUse_badMagic hread hmagic))),
    fun hmagic hgen => hi.trans (issue_seamFault hw h (hb.trans (seamUse_badGen hread hmagic hgen))),
    fun hdr hvalid hchecks hapart => ⟨_, seamOf_useCmd s op d gen es hdr _,
      hi.trans (issue_done hw h (hb.trans (seamUse_queues hread hvalid hchecks hapart)))⟩⟩

/-! SEAM.APPLY (R128). -/

/-- The first register at B, and d and GEN of an APPLY. -/
def applyW (s : State) (f : Fields) : Word := blockReg s.cur 0 (bDesc f.b)
def applyD (s : State) (f : Fields) : Nat := fld (blockReg s.cur 1 (bDesc f.b)) 0 13
def applyGen (s : State) (f : Fields) : Nat := fld (blockReg s.cur 2 (bDesc f.b)) 0 32

/-- The checks of an APPLY on its rows and sizes, and the scratchpad that it reads and writes. -/
def applyChecks (s : State) (f : Fields) (es : List Bits512) (h : MapHead) : List (Except Trap Unit) × List Span × List Span :=
  ([checkRows (es.getD 1 0) (opdLay f.a) (applyD s f) h.n, checkRows (es.getD 2 0) (opdLay f.d) (applyD s f) (h.n - h.r),
      checkRow (es.getD 3 0) (fld (applyW s f) 8 6) h.n 0, checkRow (es.getD 4 0) (fld (applyW s f) 16 6) (h.n - h.r) 0,
      checkRow (es.getD 5 0) (fld (applyW s f) 24 6) (h.n - h.r) 0],
    rowSpans (es.getD 1 0) (applyD s f) h.n ++ rowSpans (es.getD 3 0) h.n 1,
    rowSpans (es.getD 2 0) (applyD s f) (h.n - h.r) ++ rowSpans (es.getD 4 0) (h.n - h.r) 1 ++ rowSpans (es.getD 5 0) (h.n - h.r) 1)

/-- The bytes of its inputs beside the map, and of its outputs. -/
def applyRanges (s : State) (f : Fields) (es : List Bits512) (h : MapHead) : List Span × List Span :=
  (rowRange (es.getD 1 0) (applyD s f) h.n ++ rowRange (es.getD 3 0) h.n 1,
    rowRange (es.getD 2 0) (applyD s f) (h.n - h.r) ++ rowRange (es.getD 4 0) (h.n - h.r) 1 ++ rowRange (es.getD 5 0) (h.n - h.r) 1)

/-- What an APPLY comes to, by its entries. -/
def applyChecked (s : State) (f : Fields) (o : Except Trap (List Bits512)) : Eff :=
  match o with
  | .error t => .trap t
  | .ok es =>
    if applyD s f = 0 ∨ 4096 < applyD s f then .trap (bareTrap causeBounds (cxOf s))
    else seamUse s.pkg (cxOf s) (fld (applyW s f) 0 6) (es.getD 0 0) (applyGen s f) (useCmd s 1 (applyD s f) (applyGen s f) es)
      (applyChecks s f es) (applyRanges s f es)

/-- An APPLY whose entries and d are good uses its map. -/
theorem seam_apply {s : State} {f : Fields} {es : List Bits512} (hmode : bit f.md 0 = true)
    (hes : allOk [seamEntry s.part (fld (applyW s f) 0 6) [6] 1, seamEntry s.part (opdLay f.a) [8, 9, 10] 2,
      seamEntry s.part (opdLay f.d) [8, 9, 10] 2, seamEntry s.part (fld (applyW s f) 8 6) [8] 1,
      seamEntry s.part (fld (applyW s f) 16 6) [8] 1, seamEntry s.part (fld (applyW s f) 24 6) [8] 1] = .ok es)
    (hd : 1 ≤ applyD s f) (hd' : applyD s f ≤ 4096) : seam f (cxOf s) s.pkg =
      seamUse s.pkg (cxOf s) (fld (applyW s f) 0 6) (es.getD 0 0) (applyGen s f) (useCmd s 1 (applyD s f) (applyGen s f) es)
        (applyChecks s f es) (applyRanges s f es) := by
  have hin : ¬ (applyD s f = 0 ∨ 4096 < applyD s f) := by omega
  have hall : seamApply s.pkg (cxOf s) f = applyChecked s f (.ok es) := congrArg (applyChecked s f) hes
  rw [seam, hmode]
  exact hall.trans (if_neg hin)

/-! UNSEAM (R129). -/

/-- The first register at B, and d and GEN of an UNSEAM. -/
def unseamW (s : State) (f : Fields) : Word := blockReg s.cur 0 (bDesc f.b)
def unseamD (s : State) (f : Fields) : Nat := fld (unseamW s f) 16 13
def unseamGen (s : State) (f : Fields) : Nat := fld (blockReg s.cur 1 (bDesc f.b)) 0 32

/-- The checks of an UNSEAM on its rows, and the scratchpad that it reads and writes. -/
def unseamChecks (s : State) (f : Fields) (es : List Bits512) (h : MapHead) : List (Except Trap Unit) × List Span × List Span :=
  ([checkRows (es.getD 1 0) (opdLay f.a) (unseamD s f) (h.n - h.r), checkRows (es.getD 2 0) (opdLay f.d) (unseamD s f) h.n],
    rowSpans (es.getD 1 0) (unseamD s f) (h.n - h.r), rowSpans (es.getD 2 0) (unseamD s f) h.n)

/-- The bytes of its input beside the map, and of its output. -/
def unseamRanges (s : State) (f : Fields) (es : List Bits512) (h : MapHead) : List Span × List Span :=
  (rowRange (es.getD 1 0) (unseamD s f) (h.n - h.r), rowRange (es.getD 2 0) (unseamD s f) h.n)

/-- What an UNSEAM comes to, by its entries. -/
def unseamChecked (s : State) (f : Fields) (o : Except Trap (List Bits512)) : Eff :=
  match o with
  | .error t => .trap t
  | .ok es =>
    if unseamD s f = 0 ∨ 4096 < unseamD s f then .trap (bareTrap causeBounds (cxOf s))
    else seamUse s.pkg (cxOf s) (fld (unseamW s f) 0 6) (es.getD 0 0) (unseamGen s f) (useCmd s 2 (unseamD s f) (unseamGen s f) es)
      (unseamChecks s f es) (unseamRanges s f es)

/-- An UNSEAM whose entries and d are good uses its map. -/
theorem unseam_use {s : State} {f : Fields} {es : List Bits512}
    (hes : allOk [seamEntry s.part (fld (unseamW s f) 0 6) [6] 1, seamEntry s.part (opdLay f.a) [8, 9, 10] 2,
      seamEntry s.part (opdLay f.d) [8, 9, 10] 2] = .ok es) (hd : 1 ≤ unseamD s f) (hd' : unseamD s f ≤ 4096) :
    unseam f (cxOf s) s.pkg =
      seamUse s.pkg (cxOf s) (fld (unseamW s f) 0 6) (es.getD 0 0) (unseamGen s f) (useCmd s 2 (unseamD s f) (unseamGen s f) es)
        (unseamChecks s f es) (unseamRanges s f es) := by
  have hin : ¬ (unseamD s f = 0 ∨ 4096 < unseamD s f) := by omega
  have hall : unseam f (cxOf s) s.pkg = unseamChecked s f (.ok es) := congrArg (unseamChecked s f) hes
  exact hall.trans (if_neg hin)

/-! The unit's turn (R114, R127). -/

theorem moveSeam_begins {p : Pkg} {c : Nat} {x : SeamCmd} {rest : List SeamCmd} (now : Nat) (hq : (partOf p c).seamq = x :: rest)
    (hop : x.op = 0) (hbegun : x.begun = false) (hmay : engineMay (partOf p c) x.board = true) (hsw : (coreOf p c).switching = false)
    (hf : (coreOf p c).fenced = none) : moveSeam p now c = setPart p c
      { scrWrite (partOf p c) now (layBaseAddr (x.entries.getD 0 0)) (leBytes 4 0) with seamq := { x with begun := true } :: rest } := by
  have hclears : beginMatch (partOf p c) now x = scrWrite (partOf p c) now (layBaseAddr (x.entries.getD 0 0)) (leBytes 4 0) :=
    if_pos ⟨hop, hbegun⟩
  simp [moveSeam, hq, hbegun, hmay, hsw, hf, hclears]

theorem completeSeam_performs {p : Pkg} {cx : Cx} {c : Nat} {x : SeamCmd} {rest : List SeamCmd} (hq : (partOf p c).seamq = x :: rest)
    (hmay : engineMay (partOf p c) x.board = true) (hsw : (coreOf p c).switching = false) (hbad : (partOf p c).badWords = []) :
    completeSeam p cx c =
      let r := runSeam { partOf p c with seamq := rest } cx.now p.freeNo x
      { setPart p c (orFlagsOf r.1 x.slot x.ctx r.2) with freeNo := p.freeNo + 1 } := by
  have hgood : seamBad (partOf p c) x = none := if_pos hbad
  simp [completeSeam, hq, hmay, hsw, hgood]

theorem eventTo_seamCommandComplete {s : State} {c : Nat} {q : Pkg} (h : completeSeam s.pkg (cxOf s) c = q) :
    eventTo (.seamCommandComplete c) s q := h ▸ rfl

/-! A MATCH performed (R126, R127). -/

theorem packFields_cons (f : Nat × Nat) (l : List (Nat × Nat)) : packFields (f :: l) = packFields l * 2 ^ f.1 + f.2 % 2 ^ f.1 := by
  rw [packFields, List.foldr_cons, ← packFields]

theorem packFields_nil : packFields [] = 0 := rfl

/-- The header of a map as a number, MAGIC lowest. -/
theorem mapHeadBits_eq {magic gen : Nat} (hmagic : magic < 2 ^ 32) (hgen : gen < 2 ^ 32) (n r dk : Nat) (keep0 : Bool) :
    mapHeadBits ⟨magic, gen, n, r, dk, keep0⟩ = magic + gen * 2 ^ 32 + n % 2 ^ 16 * 2 ^ 64 + r % 2 ^ 16 * 2 ^ 80 +
      dk % 2 ^ 16 * 2 ^ 96 + (if keep0 then 2 ^ 112 else 0) := by
  have hkeep : b2n keep0 % 2 ^ 1 * 2 ^ 112 = if keep0 then 2 ^ 112 else 0 := by
    cases keep0 <;> simp [b2n]
  rw [mapHeadBits, ← hkeep]
  simp only [packFields_cons, packFields_nil, Nat.mod_eq_of_lt hmagic, Nat.mod_eq_of_lt hgen]
  ring

/-- The rows of keys that a MATCH compares. -/
def matchKeys (k : Part) (x : SeamCmd) : List (List FV) :=
  (List.range x.n).map (fun t => (List.range x.dk).map (fun i => rowVal k x.compat (x.entries.getD 1 0) i t))

/-- The header that it writes. -/
def matchHead (x : SeamCmd) : List Byte := leBytes 16 (0x5A534D31 + x.gen.toNat * 2 ^ 32 + x.n % 2 ^ 16 * 2 ^ 64 + x.r % 2 ^ 16 * 2 ^ 80 +
  x.dk % 2 ^ 16 * 2 ^ 96 + (if x.keep0 then 2 ^ 112 else 0))

/-- The entries, then the header, MAGIC last. -/
theorem runSeam_match {x : SeamCmd} (hop : x.op = 0) (k : Part) (now free : Nat) : runSeam k now free x =
    let em := x.entries.getD 0 0
    let m := seamMatching (matchKeys k x) x.r x.keep0
    (scrWrite (scrWrite (scrWrite k now (layBaseAddr em + 16) (m.1.flatMap (leBytes 2))) now (layBaseAddr em + 4) ((matchHead x).drop 4))
      now (layBaseAddr em) ((matchHead x).take 4), m.2) := by
  refine (if_pos hop).trans ?_
  rw [mapHeadBits_eq (magic := seamMagic) (by decide) x.gen.isLt]
  rfl

/-! An UNSEAM performed (R129). -/

theorem zipIdx_map_range {α : Type} (n : Nat) (g : Nat → α) :
    ((List.range n).map g).zipIdx = (List.range n).map (fun i => (g i, i)) := by
  refine List.ext_getElem (by simp) fun i h₁ h₂ => ?_
  simp

/-- Element i of a row of the input, rounded once into the type of the output. -/
def unseamRd (k : Part) (x : SeamCmd) (i y : Nat) : Rd :=
  fvConvert (fmtOfTy (layType (x.entries.getD 2 0))) .rn false (!x.compat) (rowVal k x.compat (x.entries.getD 1 0) i y)

theorem unseamRow_writes (k : Part) {x : SeamCmd} (free t : Nat) {y : Nat} (hy : y < x.n - x.r) :
    (unseamRow k x free t y).1 = (List.range x.dk).map (fun i => (2, i, t, (unseamRd k x i y).bits)) := by
  simp only [unseamRow, hy, if_true, zipIdx_map_range, List.map_map]
  rfl

/-- Row t of the output is the row that the map names for it. -/
theorem runSeam_unseam {x : SeamCmd} (hop : x.op = 2) {k : Part} (now free : Nat)
    (hmap : ∀ t < x.n, mapEntry k (x.entries.getD 0 0) t < x.n - x.r) : (runSeam k now free x).1 =
      (List.range x.n).foldl (fun q t => (List.range x.dk).foldl (fun q i =>
        rowPut q now (x.entries.getD 2 0) i t (unseamRd k x i (mapEntry k (x.entries.getD 0 0) t)).bits) q) k := by
  have h0 : x.op ≠ 0 := by omega
  have h1 : x.op ≠ 1 := by omega
  simp only [runSeam, if_neg h0, if_neg h1, zipIdx_map_range, List.foldl_map]
  refine List.foldl_ext _ _ k fun q t ht => ?_
  rw [unseamRow_writes k free t (hmap t (List.mem_range.mp ht)), List.foldl_map]

end Sys2Proof.Machine

open Sys2Proof.Machine Sys2Proof.Claims

/-- Settles O19: MATCH by its own checks, APPLY and UNSEAM by those of their map, and the oldest command by what it writes. -/
theorem seamInstructions : Obligations.SeamInstructions := by
  refine ⟨fun s f h hmode => ⟨fun t ht => exec_seamMatch_traps hmode h ht, fun em ek hm hk => ⟨fun hbad => ?bounds, ?queues⟩⟩,
    fun p now c x rest hq hop hbegun hmay hsw hf => moveSeam_begins now hq hop hbegun hmay hsw hf,
    fun s f es h hmode => ?apply, fun s f es h => ?unseam, fun s c x rest hq hmay hsw hbad => ?performed⟩
  case bounds => exact exec_seamMatch_bounds hmode h hm hk hbad
  case queues =>
    exact fun hn hn' hd hd' hmerge hmap hrows hapart => ⟨matchCmd s f em ek, seamOf_matchCmd s f em ek, rfl,
      exec_seamMatch_queues hmode h hm hk hn hn' hd hd' hmerge hmap hrows hapart⟩
  case apply =>
    intro b w d gen nm e hes hd hd' hread
    obtain ⟨hmagic, hgen, hqueues⟩ := exec_seamUse (exec_seam f s) rfl h (seam_apply hmode hes hd hd') hread
    refine ⟨hmagic, hgen, fun hdr hvalid hrows hout hsize hsout hbias hapart => hqueues hdr hvalid ?_ hapart⟩
    have hchecks : firstError [checkRows (e 1) (opdLay f.a) d hdr.n, checkRows (e 2) (opdLay f.d) d (hdr.n - hdr.r),
        checkRow (e 3) (fld w 8 6) hdr.n 0, checkRow (e 4) (fld w 16 6) (hdr.n - hdr.r) 0,
        checkRow (e 5) (fld w 24 6) (hdr.n - hdr.r) 0] = .ok () := by
      rw [hrows, hout, hsize, hsout, hbias]
      rfl
    exact hchecks
  case unseam =>
    intro b w d gen nm e hes hd hd' hread
    obtain ⟨hmagic, hgen, hqueues⟩ := exec_seamUse (exec_unseam f s) rfl h (unseam_use hes hd hd') hread
    refine ⟨hmagic, hgen, fun hdr hvalid hrows hout hapart => hqueues hdr hvalid ?_ hapart⟩
    have hchecks : firstError [checkRows (e 1) (opdLay f.a) d (hdr.n - hdr.r), checkRows (e 2) (opdLay f.d) d hdr.n] = .ok () := by
      rw [hrows, hout]
      rfl
    exact hchecks
  case performed =>
    have hdone := completeSeam_performs (cx := cxOf s) hq hmay hsw hbad
    refine ⟨fun hop => eventTo_seamCommandComplete (hdone.trans ?_), fun hop => ⟨_, _, rfl, eventTo_seamCommandComplete hdone⟩,
      fun hop hmap => ⟨(runSeam { partOf s.pkg c with seamq := rest } s.time s.pkg.freeNo x).2, eventTo_seamCommandComplete (hdone.trans ?_)⟩⟩
    · rw [runSeam_match hop]
      rfl
    · simp only [cxOf_now, runSeam_unseam hop s.time s.pkg.freeNo hmap]
      rfl
end

section
/-!
The layout table (R134, R202): LTSET makes an entry valid, and LTGET reads it.
-/
namespace Sys2Proof.Machine
open Sys2Proof.Claims

theorem exec_ltset (f : Fields) (s : State) : exec (.ltset f) s = issue (.ltset f) .lane0 (fun f cx p =>
    .done (updPart (popSources p cx.core f) cx.core (fun k => { k with
      layouts := mapInsert k.layouts (asidOf k * 64 + opdLay f.d) ((readA p cx.core cx.slot f).truncate 512) }))) s := rfl

theorem exec_ltget (f : Fields) (s : State) : exec (.ltget f) s = issue (.ltget f) .lanes (fun f cx p =>
    .done (writeVec p cx.core cx.slot (guardMask (slotOf (partOf p cx.core) cx.slot) f)
      (((layoutOf (partOf p cx.core) (asidOf (partOf p cx.core)) (opdLay f.a)).getD 0).zeroExtend 1024) f.d)) s := rfl

theorem ltset_done : doneAs .ltset .lane0 (fun _ _ => True) (fun s f => updPart (popSources s.pkg s.core f) s.core (fun k =>
    { k with layouts := mapInsert k.layouts (asidOf k * 64 + opdLay f.d) ((vA s f).extractLsb' 0 512) })) := by
  intro s f h _
  rw [exec_ltset, issue_done rfl h rfl, BitVec.truncate, BitVec.setWidth_eq_extractLsb' (by decide)]
  rfl

/-- The register image of an entry; one that is not valid reads as zero. -/
theorem zeroExtend_getD (o : Option Bits512) : ((o.getD 0).zeroExtend 1024 : VReg) = match o with
    | some e => e.zeroExtend 1024
    | none => 0 := by
  cases o with
  | some e => rfl
  | none => simp only [Option.getD_none, BitVec.zeroExtend, BitVec.ofNat_eq_ofNat, BitVec.setWidth_zero]

theorem ltget_done : doneAs .ltget .lanes (fun _ _ => True) (fun s f => writeVec s.pkg s.core s.slot (lanesOf s f)
    (match mapFind s.part.layouts (asidOf s.part * 64 + opdLay f.a) with
      | some e => e.zeroExtend 1024
      | none => 0) f.d) := by
  intro s f h _
  rw [exec_ltget, issue_done rfl h rfl, zeroExtend_getD]
  rfl

/-- What is written to an entry of the table is its content. -/
theorem layoutOf_insert_self (k : Part) (asid n : Nat) (e : Bits512) :
    layoutOf { k with layouts := mapInsert k.layouts (asid * 64 + n) e } asid n = some e := mapFind_insert_self _ _ _

end Sys2Proof.Machine

open Sys2Proof.Claims Sys2Proof.Machine

/-- Settles O25: each of the two is one step to the next word, and a valid entry is what was written last. -/
theorem layoutEntries : Obligations.LayoutEntries := ⟨ltset_done, ltget_done, layoutOf_insert_self⟩
end

section
/-!
What the ports write and read of the package register space (R154, R256, R315, R328, R334, R355 to R357, R360).
-/
namespace Sys2Proof.Machine
open Sys2Proof.Claims

/-! Fields of words. -/

theorem fld_eq_div_mod {n : Nat} (x : BitVec n) (lo len : Nat) : fld x lo len = x.toNat / 2 ^ lo % 2 ^ len := by
  rw [fld, Nat.shiftRight_eq_div_pow]

theorem fld_lt {n : Nat} (x : BitVec n) (lo len : Nat) : fld x lo len < 2 ^ len := Nat.mod_lt _ (Nat.two_pow_pos len)

theorem toNat_keepBits (v : Word) {lo len : Nat} (h : lo + len ≤ 64) : (keepBits v lo len).toNat = fld v lo len * 2 ^ lo := by
  have hlt : fld v lo len * 2 ^ lo < 2 ^ len * 2 ^ lo := Nat.mul_lt_mul_of_pos_right (fld_lt v lo len) (Nat.two_pow_pos lo)
  have hle : 2 ^ len * 2 ^ lo ≤ 2 ^ 64 := by
    rw [← Nat.pow_add]
    exact Nat.pow_le_pow_right (by decide) (by omega)
  rw [keepBits, BitVec.toNat_ofNat, Nat.mod_eq_of_lt (hlt.trans_le hle)]

/-- Two fields of a word kept in their places, the lower one from bit 0. -/
theorem toNat_keepBits_or (v : Word) {lo len low : Nat} (h : lo + len ≤ 64) (hlow : low ≤ lo) :
    (keepBits v lo len ||| keepBits v 0 low).toNat = fld v lo len * 2 ^ lo + fld v 0 low := by
  have hlt : fld v 0 low < 2 ^ lo := (fld_lt v 0 low).trans_le (Nat.pow_le_pow_right (by decide) hlow)
  rw [BitVec.toNat_or, toNat_keepBits v h, toNat_keepBits v (by omega : 0 + low ≤ 64), Nat.pow_zero, Nat.mul_one, Nat.mul_comm,
    Nat.two_pow_add_eq_or_of_lt hlt]

/-- The two fields of WINCTL that a write sets (R356). -/
theorem fld_winctl (v : Word) : let w := keepBits v 52 12 ||| keepBits v 0 16
    fld w 52 12 = fld v 52 12 ∧ fld w 0 16 = fld v 0 16 ∧ fld w 16 36 = 0 := by
  have hw := toNat_keepBits_or v (lo := 52) (len := 12) (low := 16) (by decide) (by decide)
  have hhigh := fld_lt v 52 12
  have hlow := fld_lt v 0 16
  refine ⟨?_, ?_, ?_⟩ <;> rw [fld_eq_div_mod (_ ||| _), hw] <;> omega

/-- The three fields of PODGRP (R360). -/
theorem fld_podgrp (v : Word) : let w := keepBits v 32 10 ||| keepBits v 0 21
    fld w 0 10 = fld v 0 10 ∧ fld w 10 11 = fld v 10 11 ∧ fld w 32 10 = fld v 32 10 := by
  have hw := toNat_keepBits_or v (lo := 32) (len := 10) (low := 21) (by decide) (by decide)
  have hhigh := fld_lt v 32 10
  have hlow := fld_eq_div_mod v 0 21
  refine ⟨?_, ?_, ?_⟩ <;> rw [fld_eq_div_mod (_ ||| _), hw]
  · rw [fld_eq_div_mod v 0 10]
    omega
  · rw [fld_eq_div_mod v 10 11]
    omega
  · omega

/-- The two fields of CRGNn_LO (R154). -/
theorem fld_crgnLo (v : Word) : let w := keepBits v 62 2 ||| keepBits v 0 36
    fld w 0 36 = fld v 0 36 ∧ fld w 62 2 = fld v 62 2 ∧ fld w 36 26 = 0 := by
  have hw := toNat_keepBits_or v (lo := 62) (len := 2) (low := 36) (by decide) (by decide)
  have hhigh := fld_lt v 62 2
  have hlow := fld_lt v 0 36
  refine ⟨?_, ?_, ?_⟩ <;> rw [fld_eq_div_mod (_ ||| _), hw] <;> omega

/-- The fields of LQSTAT (R359). -/
theorem fld_lqstatWord (k : Cluster) : fld (lqstatWord k) 0 3 = k.why % 8 ∧ fld (lqstatWord k) 8 24 = k.ref.toNat ∧
    fld (lqstatWord k) 32 32 = k.acc.toNat := by
  have href := k.ref.isLt
  have hacc := k.acc.isLt
  have hw : (lqstatWord k).toNat = k.why % 8 + 2 ^ 8 * k.ref.toNat + 2 ^ 32 * k.acc.toNat := by
    simp only [lqstatWord, packFields, List.foldr, BitVec.toNat_ofNat]
    omega
  refine ⟨?_, ?_, ?_⟩ <;> rw [fld_eq_div_mod, hw] <;> omega

/-! Where the offsets lie (R355). -/

theorem isCoreReg_low {off : Nat} (h : off < 0x100000) : isCoreReg off = false := by simp [isCoreReg, h]

theorem isOvfReg_low {off : Nat} (h : off < 0x20000) : isOvfReg off = false := by simp [isOvfReg, h]

theorem isCoreReg_coreReg {c k : Nat} (hc : c < 4096) (hk : k < 32) : isCoreReg (coreReg c k) = true := by
  rw [isCoreReg, Bool.and_eq_true, decide_eq_true_eq, decide_eq_true_eq, coreReg]
  omega

theorem coreOff_coreReg {c k : Nat} (hk : k < 32) : coreOff (coreReg c k) = (c, 8 * k) := by
  simp only [coreOff, coreReg, Prod.mk.injEq]
  omega

theorem coreReg_aligned (c k : Nat) : coreReg c k % 8 = 0 := by
  simp only [coreReg]
  omega

/-! Writes. -/

theorem writeReg_unaligned (p : Pkg) (now : Nat) {off : Nat} (v : Word) (h : off % 8 ≠ 0) : writeReg p now off v = p := if_pos h

theorem writeReg_core (p : Pkg) (now : Nat) {c k : Nat} (v : Word) (hc : c < 4096) (hk : k < 32) :
    writeReg p now (coreReg c k) v = writeCoreReg p now c (8 * k) v := by
  unfold writeReg
  rw [if_neg (not_not_intro (coreReg_aligned c k)), if_pos (isCoreReg_coreReg hc hk), coreOff_coreReg hk]

theorem writeReg_crgn (p : Pkg) (now : Nat) {off : Nat} (v : Word) (h8 : off % 8 = 0) (hlo : 0x100 ≤ off) (hhi : off < 0x200) :
    writeReg p now off v = writeCrgn p ((off - 0x100) / 8) v := by
  unfold writeReg
  rw [if_neg (by omega), isCoreReg_low (by omega), isOvfReg_low (by omega), if_neg Bool.false_ne_true,
    if_neg Bool.false_ne_true, if_neg (by omega), if_neg (by omega), if_pos ⟨hlo, hhi⟩]

theorem writeCrgn_lo (p : Pkg) (n : Nat) (v : Word) : writeCrgn p (2 * n) v =
    updRegs p (fun r => { r with crgn := mapPut 0 r.crgn (2 * n) (keepBits v 62 2 ||| keepBits v 0 36) }) := by
  rw [writeCrgn, if_pos (by omega)]

theorem writeCrgn_hi (p : Pkg) (n : Nat) (v : Word) : writeCrgn p (2 * n + 1) v =
    updRegs p (fun r => { r with crgn := mapPut 0 r.crgn (2 * n + 1) (keepBits v 0 36) }) := by
  rw [writeCrgn, if_neg (by omega)]

theorem writeArea_inside (p : Pkg) (now off : Nat) (v : Word) {base len : Nat} (g : Pkg → Pkg) (h : base + len ≤ 0x6000000000) :
    writeArea p now off v base len g = g p := if_pos (decide_eq_true h)

theorem writeArea_outside (p : Pkg) (now off : Nat) (v : Word) {base len : Nat} (g : Pkg → Pkg) (h : 0x6000000000 < base + len) :
    writeArea p now off v base len g = logEvent p now 0x0050 portSource [off, v.toNat] :=
  if_neg (fun hok => absurd (of_decide_eq_true hok) (Nat.not_le.mpr h))

theorem writePa_asidtab (p : Pkg) (now : Nat) (v : Word) : writePa p now 0x08 v = writeArea p now 0x08 v (fld v 14 38 * 2 ^ 14) (2 ^ 14)
    (fun q => updRegs q (fun r => { r with asidtab := keepBits v 14 38 })) := by rw [writePa, if_pos rfl]

theorem writePa_fqbase (p : Pkg) (now : Nat) (v : Word) : writePa p now 0x30 v = writeArea p now 0x30 v (fld v 17 35 * 2 ^ 17) (2 ^ 17)
    (fun q => updRegs q (fun r => { r with fqbase := keepBits v 17 35 })) := by rw [writePa, if_neg (by decide), if_pos rfl]

theorem writePa_elbase (p : Pkg) (now : Nat) (v : Word) : writePa p now 0x50 v = writeArea p now 0x50 v (fld v 21 31 * 2 ^ 21) (2 ^ 21)
    (fun q => updRegs q (fun r => { r with elbase := keepBits v 21 31 })) := by
  rw [writePa, if_neg (by decide), if_neg (by decide), if_pos rfl]

theorem writeWinctl_reserved {p : Pkg} {v : Word} (h : fld v 61 2 = 3) : writeWinctl p v = p := if_pos h

theorem writeWinctl_sets {p : Pkg} {v : Word} (h : fld v 61 2 ≠ 3) :
    writeWinctl p v = updRegs p (fun r => { r with winctl := keepBits v 52 12 ||| keepBits v 0 16 }) := if_neg h

theorem writePodgrp_sets {p : Pkg} {v : Word} (hlo : 1 ≤ fld v 10 11) (hhi : fld v 10 11 ≤ 1024) (hrank : fld v 0 10 < fld v 10 11) :
    writePodgrp p v = updRegs p (fun r => { r with podgrp := keepBits v 32 10 ||| keepBits v 0 21 }) := if_neg (by omega)

theorem writeOvfcap_holding {p : Pkg} {now cl prio : Nat} {v : Word} (h : 128 < (queueOf p cl prio).length) :
    writeOvfcap p now cl prio v = p := if_pos (.inl h)

theorem writeOvfcap_sets {p : Pkg} {now cl prio : Nat} {v : Word} (hcl : cl < 16) (hprio : prio < 8)
    (h : (queueOf p cl prio).length ≤ 128) (hv : fld v 0 21 ≤ 2 ^ 20) : writeOvfcap p now cl prio v =
      latchRoom (setCluster p cl { clusterOf p cl with ovfcap := mapPut 0 (clusterOf p cl).ovfcap prio (fld v 0 21) }) now :=
  if_neg (by omega)

theorem releaseStopped_stopped {p : Pkg} {c n : Nat} (h : (slotOf (partOf p c) n).hold = .stopped) :
    releaseStopped p c n = updPart p c (fun k => updSlot k n (fun x => { x with hold := .none })) := if_pos h

theorem releaseStopped_other {p : Pkg} {c n : Nat} (h : (slotOf (partOf p c) n).hold ≠ .stopped) : releaseStopped p c n = p := if_neg h

/-! Reads. -/

theorem readReg_unaligned (p : Pkg) {off : Nat} (h : off % 8 ≠ 0) : readReg p off = 0 := by
  unfold readReg
  rw [if_pos h]

/-- The offsets of the LQPORTs, and those past LQSTAT, read zero. -/
theorem readReg_unlisted (p : Pkg) {off : Nat} (h : 0x10000 ≤ off ∧ off < 0x11000 ∨ 0x11080 ≤ off ∧ off < 0x20000) :
    readReg p off = 0 := by
  by_cases h8 : off % 8 ≠ 0
  · exact readReg_unaligned p h8
  · unfold readReg
    rw [if_neg h8, isCoreReg_low (by omega), isOvfReg_low (by omega), if_neg Bool.false_ne_true, if_neg Bool.false_ne_true,
      if_neg (by omega), if_neg (by omega), if_neg (by omega), if_neg (by omega)]
    split
    case h_16 => rfl
    all_goals omega

theorem readReg_lqstat (p : Pkg) {cl : Nat} (h : cl < 16) : readReg p (0x11000 + 8 * cl) = lqstatWord (clusterOf p cl) := by
  have hcl : (0x11000 + 8 * cl - 0x11000) / 8 = cl := by omega
  unfold readReg
  rw [if_neg (by omega), isCoreReg_low (by omega), isOvfReg_low (by omega), if_neg Bool.false_ne_true, if_neg Bool.false_ne_true,
    if_pos (by omega), hcl]

theorem readReg_ovfbase (p : Pkg) {cl prio : Nat} (hcl : cl < 16) (hprio : prio < 8) :
    readReg p (0x20000 + 0x80 * cl + 16 * prio) = mapGet 0 (clusterOf p cl).ovfbase prio := by
  have hc : (0x20000 + 0x80 * cl + 16 * prio - 0x20000) / 0x80 = cl := by omega
  have hp : (0x20000 + 0x80 * cl + 16 * prio) % 0x80 / 16 = prio := by omega
  have hovf : isOvfReg (0x20000 + 0x80 * cl + 16 * prio) = true := by
    rw [isOvfReg, Bool.and_eq_true, decide_eq_true_eq, decide_eq_true_eq]
    omega
  unfold readReg
  rw [if_neg (by omega), isCoreReg_low (by omega), if_neg Bool.false_ne_true, if_pos hovf, if_pos (by omega), hc, hp]

theorem readReg_core (p : Pkg) {c k : Nat} (hc : c < 4096) (hk : k < 32) :
    readReg p (coreReg c k) = readCoreReg (coreOf p c) (8 * k) := by
  unfold readReg
  rw [if_neg (not_not_intro (coreReg_aligned c k)), if_pos (isCoreReg_coreReg hc hk), coreOff_coreReg hk]

theorem fencedWord (x : Core) : readCoreReg x (8 * 3) = if x.fenced.isSome then 2 else 0 := by
  have hword : readCoreReg x (8 * 3) = BitVec.ofNat 64 (2 * b2n x.fenced.isSome) := rfl
  rw [hword]
  cases x.fenced.isSome <;> rfl

/-- DBG as it reads: HOLD in bit 0, HELD in bit 1. -/
theorem dbgWord (x : Core) : bit (readCoreReg x (8 * 7)) 0 = x.dbgHold ∧ bit (readCoreReg x (8 * 7)) 1 = x.dbgHeld := by
  have hword : readCoreReg x (8 * 7) = BitVec.ofNat 64 (b2n x.dbgHold + 2 * b2n x.dbgHeld) := rfl
  rw [hword]
  cases x.dbgHold <;> cases x.dbgHeld <;> decide

/-! The steps of the events. -/

section
variable {s : State} {q : Pkg}

theorem eventTo_dbgRelease {c n : Nat} (h : releaseStopped s.pkg c n = q) : eventTo (.dbgRelease c n) s q := h ▸ rfl

theorem eventTo_rplcntClear {c : Nat} {v : Word} (h : clearRplcnt s.pkg c v = q) : eventTo (.rplcntClear c v) s q := h ▸ rfl

theorem eventTo_fqovfClear {v : Word} (h : clearFqovf s.pkg v = q) : eventTo (.fqovfClear v) s q := h ▸ rfl

theorem eventTo_elovfClear {v : Word} (h : clearElovf s.pkg v = q) : eventTo (.elovfClear v) s q := h ▸ rfl

theorem eventTo_ovfcapWrite {cl prio : Nat} {v : Word} (h : writeOvfcap s.pkg s.time cl prio v = q) :
    eventTo (.ovfcapWrite cl prio v) s q := h ▸ rfl

theorem eventTo_paRegisterWrite {off : Nat} {v : Word} (h : writePa s.pkg s.time off v = q) :
    eventTo (.paRegisterWrite off v) s q := h ▸ rfl

theorem eventTo_winctlWrite {v : Word} (h : writeWinctl s.pkg v = q) : eventTo (.winctlWrite v) s q := h ▸ rfl

theorem eventTo_registerWrite {off : Nat} {v : Word} (h : writeReg s.pkg s.time off v = q) : eventTo (.registerWrite off v) s q := h ▸ rfl

end

end Sys2Proof.Machine

open Sys2Proof.Claims Sys2Proof.Machine

/-- Settles O53: each write by the branch of its offset, the fields it keeps by their places in the word, and each read by the range of its
offset. -/
theorem portRegisters : Obligations.PortRegisters := by
  refine ⟨fun _ _ _ => rfl, fun s c n => ⟨fun h => ?_, fun h => ?_⟩, fun s c v => ⟨fun h => ?_, ?_⟩, fun s v => ⟨rfl, rfl, fun h => ⟨?_, ?_⟩⟩,
    fun s cl prio v hcl hprio => ⟨fun h => ?_, fun h hv => ?_⟩, fun s v => ⟨fun h => ?_, fun h => ?_, fun h => ?_, fun h => ?_⟩,
    fun s v => ⟨fun h => ?_, fun h => ⟨keepBits v 52 12 ||| keepBits v 0 16, ?_, fld_winctl v⟩⟩, fun s v => ?regs,
    fun s off v h => eventTo_registerWrite (writeReg_unaligned s.pkg s.time v h), fun p off => ?reads, fun p cl hcl => ?cluster, fld_lqstatWord,
    fun p c hc => ?core⟩
  · exact eventTo_dbgRelease (releaseStopped_stopped h)
  · exact eventTo_dbgRelease (releaseStopped_other h)
  · exact eventTo_rplcntClear (if_neg h)
  · exact eventTo_rplcntClear rfl
  · exact eventTo_fqovfClear (if_neg h)
  · exact eventTo_elovfClear (if_neg h)
  · exact eventTo_ovfcapWrite (writeOvfcap_holding h)
  · exact eventTo_ovfcapWrite (writeOvfcap_sets hcl hprio h hv)
  · exact eventTo_paRegisterWrite ((writePa_asidtab s.pkg s.time v).trans (writeArea_inside s.pkg s.time 0x08 v _ h))
  · exact eventTo_paRegisterWrite ((writePa_asidtab s.pkg s.time v).trans (writeArea_outside s.pkg s.time 0x08 v _ h))
  · exact eventTo_paRegisterWrite ((writePa_fqbase s.pkg s.time v).trans (writeArea_inside s.pkg s.time 0x30 v _ h))
  · exact eventTo_paRegisterWrite ((writePa_elbase s.pkg s.time v).trans (writeArea_inside s.pkg s.time 0x50 v _ h))
  · exact eventTo_winctlWrite (writeWinctl_reserved h)
  · exact eventTo_winctlWrite (writeWinctl_sets h)
  case regs =>
    refine ⟨rfl, rfl, rfl, rfl, fun hlo hhi hrank => ⟨_, eventTo_registerWrite (writePodgrp_sets hlo hhi hrank), fld_podgrp v⟩,
      fun n hn => ⟨_, eventTo_registerWrite ?_, fld_crgnLo v⟩, fun n hn => eventTo_registerWrite ?_,
      fun c hc => eventTo_registerWrite (writeReg_core s.pkg s.time (k := 0) v hc (by decide)),
      fun c hc => eventTo_registerWrite ?_⟩
    · rw [writeReg_crgn s.pkg s.time v (by omega) (by omega) (by omega), show (0x100 + 16 * n - 0x100) / 8 = 2 * n by omega, writeCrgn_lo]
      rfl
    · rw [writeReg_crgn s.pkg s.time v (by omega) (by omega) (by omega), show (0x108 + 16 * n - 0x100) / 8 = 2 * n + 1 by omega, writeCrgn_hi,
        keepBits, Nat.pow_zero, Nat.mul_one]
      rfl
    · rw [show 0x100028 + 0x100 * c = coreReg c 5 by simp only [coreReg]; omega, writeReg_core s.pkg s.time v hc (by decide)]
      rfl
  case reads =>
    exact ⟨fun h => if_neg h, readReg_unaligned p, fun hlo hhi => readReg_unlisted p (.inl ⟨hlo, hhi⟩),
      fun hlo hhi => readReg_unlisted p (.inr ⟨hlo, hhi⟩)⟩
  case cluster => exact ⟨readReg_lqstat p hcl, fun prio hprio => readReg_ovfbase p hcl hprio⟩
  case core =>
    have hread {k : Nat} (hk : k < 32) := readReg_core p (k := k) hc hk
    obtain ⟨hhold, hheld⟩ := dbgWord (coreOf p c)
    exact ⟨hread (k := 0) (by decide), hread (k := 1) (by decide), hread (k := 2) (by decide), (hread (by decide)).trans (fencedWord _),
      (congrArg (bit · 0) (hread (by decide))).trans hhold, (congrArg (bit · 1) (hread (by decide))).trans hheld⟩
end

section
/-!
Sparse maps in canonical form as lists: what is found is what stands, and each key stands once.
-/
namespace Sys2Proof.Machine

variable {β : Type}

theorem le_of_mem_sorted {m : SMap β} {lo : Nat} (h : mapSorted lo m = true) {e : Nat × β} (he : e ∈ m) : lo ≤ e.1 := by
  induction m generalizing lo with
  | nil => exact absurd he List.not_mem_nil
  | cons a rest ih =>
    simp only [mapSorted, Bool.and_eq_true, decide_eq_true_eq] at h
    obtain ⟨hlo, hrest⟩ := h
    rcases List.mem_cons.mp he with rfl | he
    · exact hlo
    · exact (Nat.le_succ_of_le hlo).trans (ih hrest he)

theorem mapFind_of_mem_sorted {m : SMap β} {lo : Nat} (h : mapSorted lo m = true) {k : Nat} {v : β} (he : (k, v) ∈ m) :
    mapFind m k = some v := by
  induction m generalizing lo with
  | nil => exact absurd he List.not_mem_nil
  | cons a rest ih =>
    obtain ⟨k', v'⟩ := a
    simp only [mapSorted, Bool.and_eq_true, decide_eq_true_eq] at h
    obtain ⟨-, hrest⟩ := h
    rcases List.mem_cons.mp he with heq | he
    · simp only [Prod.mk.injEq] at heq
      obtain ⟨rfl, rfl⟩ := heq
      exact if_pos rfl
    · have hlt : k' + 1 ≤ k := le_of_mem_sorted hrest he
      exact (if_neg (by omega)).trans (ih hrest he)

theorem mem_of_mapFind {m : SMap β} {k : Nat} {v : β} (h : mapFind m k = some v) : (k, v) ∈ m := by
  induction m with
  | nil => exact absurd h (by simp)
  | cons a rest ih =>
    obtain ⟨k', v'⟩ := a
    rw [mapFind_cons] at h
    split at h
    case isTrue hk =>
      obtain rfl := hk
      obtain rfl := Option.some.inj h
      exact List.mem_cons_self
    case isFalse => exact List.mem_cons_of_mem _ (ih h)

theorem nodup_keys_sorted {m : SMap β} {lo : Nat} (h : mapSorted lo m = true) : (m.map (·.1)).Nodup := by
  induction m generalizing lo with
  | nil => exact List.nodup_nil
  | cons a rest ih =>
    simp only [mapSorted, Bool.and_eq_true, decide_eq_true_eq] at h
    obtain ⟨-, hrest⟩ := h
    refine List.nodup_cons.mpr ⟨fun hin => ?_, ih hrest⟩
    obtain ⟨e, he, hkey⟩ := List.mem_map.mp hin
    exact absurd ((le_of_mem_sorted hrest he).trans_eq hkey) (Nat.not_succ_le_self a.1)

end Sys2Proof.Machine
end

section
/-!
The events of the memory system (R142, R143, R147, R148, R150, R151, R190, R288 to R290): merges and what they leave, horizons and floor
copies, walks and their checks, journaled stores.
-/
namespace Sys2Proof.Machine
open Sys2Proof.Claims

/-! Merges (R142, R143). -/

theorem runMoves_of_placeMoves {s : State} {lvl n : Nat} (h : placeMoves s lvl n) : runMoves s.pkg lvl n = true := by
  obtain ⟨hplace, hfenced⟩ := h
  by_cases hlvl : lvl = 0
  · simp [runMoves, hplace, hfenced hlvl]
  · simp [runMoves, hplace, hlvl]

section
variable {s : State} {lvl n : Nat}

/-- A record of the drain interval's age starts the merge of its key. -/
theorem drainExpiry_starts {k : Nat} (h : mayMerge s lvl n)
    (hdue : ∃ r ∈ chainOf (instOf s.pkg lvl n) k, r.deferred = false ∧ r.since + 8000 ≤ s.time) :
    drainExpiry s.pkg s.time lvl n k = setInst s.pkg lvl n { setChain (instOf s.pkg lvl n) k
      ((chainOf (instOf s.pkg lvl n) k).map (fun r => { r with frozen := true })) with merging := true } := by
  obtain ⟨hlvl, hmerging, hstall, hmoves⟩ := h
  obtain ⟨r, hr, hdef, hage⟩ := hdue
  refine if_pos ⟨hlvl, hmerging, by rw [hstall]; rfl, runMoves_of_placeMoves hmoves, List.any_eq_true.mpr ⟨r, hr, ?_⟩⟩
  rw [hdef]
  exact decide_eq_true hage

theorem drainExpiry_young {k : Nat} (h : ∀ r ∈ chainOf (instOf s.pkg lvl n) k, s.time < r.since + 8000) :
    drainExpiry s.pkg s.time lvl n k = s.pkg := by
  refine if_neg (fun ⟨_, _, _, _, hany⟩ => ?_)
  obtain ⟨r, hr, hdue⟩ := List.any_eq_true.mp hany
  have hage : r.since + 8000 ≤ s.time := of_decide_eq_true (Bool.and_eq_true_iff.mp hdue).2
  exact absurd hage (Nat.not_le.mpr (h r hr))

/-- Where no merge is in preparation, or the run is stalled, nothing is published. -/
theorem mergePublication_none (hmoves : placeMoves s lvl n)
    (h : (instOf s.pkg lvl n).merging = false ∨ (instOf s.pkg lvl n).stall.isSome = true) :
    mergePublication s.pkg s.time lvl n = afterMerge lvl n s.pkg := by
  have hoff : ((instOf s.pkg lvl n).merging && (instOf s.pkg lvl n).stall.isNone) = false := by
    rcases h with h | h
    · rw [h, Bool.false_and]
    · rw [Option.isNone_eq_false_iff.mpr h, Bool.and_false]
  simp only [mergePublication, runMoves_of_placeMoves hmoves, hoff]
  rfl

theorem mergePublication_publishes {q : Pkg} {stalled : Bool} (hmoves : placeMoves s lvl n)
    (hmerging : (instOf s.pkg lvl n).merging = true) (hstall : (instOf s.pkg lvl n).stall = none)
    (hq : publishKeys s.time lvl n (((instOf s.pkg lvl n).run.filter (fun e => e.2.any (·.frozen))).map (·.1)) s.pkg = (q, stalled)) :
    mergePublication s.pkg s.time lvl n = afterMerge lvl n (if stalled then q else endMerge q lvl n) := by
  simp only [mergePublication, runMoves_of_placeMoves hmoves, hmerging, hstall, hq]
  rfl

end

/-! Publication key by key (R143, R151). -/

section
variable {p : Pkg} {now lvl n k : Nat} {rest : List Nat}

theorem publishKeys_ok {p1 : Pkg} (h : mergeFrozen p now lvl n k = .ok p1) :
    publishKeys now lvl n (k :: rest) p = publishKeys now lvl n rest p1 := by rw [publishKeys, h]

theorem publishKeys_deferred (h : mergeFrozen p now lvl n k = .error .deferred) :
    publishKeys now lvl n (k :: rest) p = publishKeys now lvl n rest (leaveOut p lvl n k true) := by rw [publishKeys, h]

theorem publishKeys_invalid {u : Rec} {dest : Granule} {mc : Bool} (h : mergeFrozen p now lvl n k = .error (.invalid u dest lvl n mc)) :
    publishKeys now lvl n (k :: rest) p = (stallRun p now lvl n k u dest mc, true) := by
  rw [publishKeys, h]
  exact if_pos ⟨rfl, rfl⟩

end

/-! MSYNCs that return as a merge at M0 is over (R197). -/

/-- A slot whose instruction has completed at its hold. -/
def completedSlot (x : Slot) : Slot := { x with pc := x.pc + 12, hold := .none, cap := none, walkFault := none }

theorem partOf_updPart_sorted {p : Pkg} (h : mapSorted 0 p.cores = true) (c : Nat) (g : Part → Part) :
    partOf (updPart p c g) c = g (partOf p c) := congrArg Core.part (coreOf_setCore_sorted h c _)

theorem slotOf_updSlot_sorted {k : Part} (h : mapSorted 0 k.slots = true) (n : Nat) (g : Slot → Slot) :
    slotOf (updSlot k n g) n = g (slotOf k n) := mapGet_put_self slotReset h n _

theorem mapSorted_completeSlot {p : Pkg} {c : Nat} (hc : mapSorted 0 p.cores = true) (hs : mapSorted 0 (partOf p c).slots = true) (n : Nat) :
    mapSorted 0 (completeSlot p c n).cores = true ∧ mapSorted 0 (partOf (completeSlot p c n) c).slots = true := by
  refine ⟨mapSorted_put coreReset hc c _, ?_⟩
  rw [completeSlot, partOf_updPart_sorted hc]
  exact mapSorted_put slotReset hs n _

/-- Slots completed one after the other, each once. -/
theorem slotOf_foldl_completeSlot {c : Nat} (l : List (Nat × Slot)) {p : Pkg} (hc : mapSorted 0 p.cores = true)
    (hs : mapSorted 0 (partOf p c).slots = true) (hl : (l.map (·.1)).Nodup) (m : Nat) :
    mapSorted 0 (l.foldl (fun q e => completeSlot q c e.1) p).cores = true ∧
    slotOf (partOf (l.foldl (fun q e => completeSlot q c e.1) p) c) m =
      if m ∈ l.map (·.1) then completedSlot (slotOf (partOf p c) m) else slotOf (partOf p c) m := by
  induction l generalizing p with
  | nil => exact ⟨hc, rfl⟩
  | cons e rest ih =>
    obtain ⟨hnot, hrest⟩ := List.nodup_cons.mp hl
    obtain ⟨hc', hs'⟩ := mapSorted_completeSlot hc hs e.1
    obtain ⟨hcores, hslot⟩ := ih hc' hs' hrest
    refine ⟨hcores, hslot.trans ?_⟩
    rw [completeSlot, partOf_updPart_sorted hc]
    by_cases hm : m = e.1
    · obtain rfl := hm
      rw [if_neg hnot, if_pos (List.mem_map_of_mem List.mem_cons_self), slotOf_updSlot_sorted hs]
      rfl
    · rw [slotOf_updSlot_other _ _ hm]
      simp only [List.map_cons, List.mem_cons, hm, false_or]

/-- A slot stands at an MSYNC where it is among those that do. -/
theorem mem_syncSlots_iff {k : Part} (h : mapSorted 0 k.slots = true) (m : Nat) :
    m ∈ (k.slots.filter (fun e => decide (e.2.hold = .sync))).map (·.1) ↔ (slotOf k m).hold = .sync := by
  simp only [List.mem_map, List.mem_filter, decide_eq_true_eq]
  constructor
  · rintro ⟨⟨_, x⟩, ⟨hx, hhold⟩, rfl⟩
    rw [slotOf, mapGet, mapFind_of_mem_sorted h hx]
    exact hhold
  · intro hhold
    rw [slotOf, mapGet] at hhold
    cases hfind : mapFind k.slots m with
    | none =>
      rw [hfind] at hhold
      exact absurd hhold (by decide)
    | some x =>
      rw [hfind] at hhold
      exact ⟨(m, x), ⟨mem_of_mapFind hfind, hhold⟩, rfl⟩

theorem nodup_syncSlots {k : Part} (h : mapSorted 0 k.slots = true) :
    ((k.slots.filter (fun e => decide (e.2.hold = .sync))).map (·.1)).Nodup :=
  (nodup_keys_sorted h).sublist (List.filter_sublist.map _)

/-- The MSYNCs of a core return; its other slots stand. -/
theorem slotOf_endSync {q : Pkg} {n : Nat} (hs : mapSorted 0 (partOf q n).slots = true) (hc : mapSorted 0 q.cores = true) (m : Nat) :
    slotOf (partOf (endSync q n) n) m =
      if (slotOf (partOf q n) m).hold = .sync then completedSlot (slotOf (partOf q n) m) else slotOf (partOf q n) m := by
  obtain ⟨hcores, hslot⟩ := slotOf_foldl_completeSlot _ hc hs (nodup_syncSlots hs) m
  simp only [mem_syncSlots_iff hs] at hslot
  rw [endSync, partOf_updPart_sorted hcores]
  exact hslot

theorem endSync_frame (q : Pkg) (n : Nat) : (endSync q n).insts = q.insts ∧ (endSync q n).dram = q.dram := by
  have hfold (l : List (Nat × Slot)) (p : Pkg) : (l.foldl (fun q e => completeSlot q n e.1) p).insts = p.insts ∧
      (l.foldl (fun q e => completeSlot q n e.1) p).dram = p.dram := by
    induction l generalizing p with
    | nil => exact ⟨rfl, rfl⟩
    | cons e rest ih => exact ih (completeSlot p n e.1)
  exact hfold _ q

/-! Deferred keys, horizons and floor copies (R147, R148, R150, R151). -/

theorem deferralExpiry_eq {s : State} {lvl n k : Nat} (hlvl : lvl < 3)
    (hmoves : placeMoves s lvl n ∨ (lvl = 0 ∧ (coreOf s.pkg n).darned = true)) (hstall : (instOf s.pkg lvl n).stall = none)
    (hany : (chainOf (instOf s.pkg lvl n) k).any (·.deferred) = true) :
    deferralExpiry s.pkg s.time lvl n k =
      if deferredAt s.pkg s.time (lvl + 1) (outerPlace lvl n (keyGran k)) (keyGran k) (some (childOf lvl n)) = false then
        (settleBlock s.pkg s.time k (mergeKey s.pkg s.time lvl n k)).1 else s.pkg := by
  have hplace : (runMoves s.pkg lvl n || (decide (lvl = 0) && (coreOf s.pkg n).darned)) = true := by
    rcases hmoves with h | ⟨rfl, h⟩
    · rw [runMoves_of_placeMoves h, Bool.true_or]
    · rw [h]
      exact Bool.or_true _
  simp only [deferralExpiry, hlvl, hstall, hplace, hany, Option.isNone_none, true_and]

theorem horizonExpiry_live {p : Pkg} {now lvl n line : Nat} {h : Horizon} (hh : mapFind (instOf p lvl n).horizons line = some h)
    (hlive : now < h.e + guardBand p.regs.fterm h.nl) : horizonExpiry p now lvl n line = p := by
  simp only [horizonExpiry, hh]
  exact if_pos (decide_eq_true hlive)

theorem horizonExpiry_over {p : Pkg} {now lvl n line : Nat} {h : Horizon} (hh : mapFind (instOf p lvl n).horizons line = some h)
    (hover : h.e + guardBand p.regs.fterm h.nl ≤ now) : horizonExpiry p now lvl n line =
      setInst p lvl n { instOf p lvl n with horizons := mapErase (instOf p lvl n).horizons line } := by
  simp only [horizonExpiry, hh]
  exact if_neg (fun hlive => absurd (of_decide_eq_true hlive) (Nat.not_lt.mpr hover))

theorem copyExpiry_eq {p : Pkg} {now lvl n line t : Nat} {fc : FloorCopy} (hfc : mapFind (instOf p lvl n).copies line = some fc)
    (ht : fc.expiry = some t) : copyExpiry p now lvl n line =
      if t ≤ now then setInst p lvl n { instOf p lvl n with copies := mapErase (instOf p lvl n).copies line } else p := by
  simp only [copyExpiry, hfc, Option.bind_some, ht]

theorem copyExpiry_lasting {p : Pkg} {now lvl n line : Nat} {fc : FloorCopy} (hfc : mapFind (instOf p lvl n).copies line = some fc)
    (ht : fc.expiry = none) : copyExpiry p now lvl n line = p := by
  simp only [copyExpiry, hfc, Option.bind_some, ht]

/-! Walks (R286 to R290). -/

section
variable {s : State} {c i : Nat} {w : Walk} {q : Pkg} (hends : walkEnds s c i w q) (hfree : walkWaits s.pkg = false)
  (hteam : (teamOf (partOf s.pkg c)).isSome = true) (hasid : asidOf (partOf s.pkg c) = w.asid)
include hends hfree hteam hasid

theorem pageWalkDone_ends : pageWalkDone s.pkg s.time c i = match walk q s.time c w.asid w.va (!supOf (partOf s.pkg c)) w.write with
    | .ok x => fillTlb (cacheAsid (logReads q s.time c 23 [w.va]) s.time c w.asid) c x
    | .error t => updPart q c (fun k => updSlot k w.slot (fun x => { x with walkFault := some (w.va, t) })) := by
  obtain ⟨hw, rfl⟩ := hends
  have hnone : ¬ ((teamOf (partOf s.pkg c)).isNone = true ∨ asidOf (partOf s.pkg c) ≠ w.asid) := by
    rw [Option.isNone_eq_false_iff.mpr hteam, hasid]
    simp
  simp only [pageWalkDone, hw, hfree]
  exact (if_neg Bool.false_ne_true).trans (if_neg hnone)

end

theorem pageWalkDone_waits {p : Pkg} (h : walkWaits p = true) (now c i : Nat) : pageWalkDone p now c i = p := by
  simp only [pageWalkDone, h, if_true]
  split <;> rfl

theorem walk_high {p : Pkg} {now c asid va : Nat} {user write : Bool} (h : 2 ^ 57 ≤ va) :
    walk p now c asid va user write = .error (xlTrap causeTranslation 1 va 6) := by rw [walk, if_pos h]

theorem walkWaits_iff (p : Pkg) : walkWaits p = true ↔ ∃ a ∈ p.retained, a / 4096 = 3 := by
  simp only [walkWaits, List.any_eq_true, decide_eq_true_eq]

/-- A translation that passes its access check is for this access: not a supervisor's page for a user, nor a read-only one for a write. -/
theorem permits_of_accessCheck {x : Xlat} {user write : Bool} {va : Nat} (h : accessCheck x user write va = none) :
    (user = true → x.sup = false) ∧ (write = true → x.lease ≠ 3) := by
  simp only [accessCheck] at h
  split at h
  · exact absurd h (by simp)
  · rename_i hsup
    split at h
    · exact absurd h (by simp)
    · rename_i hlease
      refine ⟨fun hu => ?_, fun hw => ?_⟩
      · simpa [hu] using hsup
      · simpa [hw] using hlease

theorem ok_of_ite_error {ε α : Type} {c : Prop} [Decidable c] {e : ε} {r : Except ε α} {x : α}
    (h : (if c then .error e else r) = .ok x) : ¬ c ∧ r = .ok x := by
  split at h
  case isTrue => exact absurd h (by simp)
  case isFalse hc => exact ⟨hc, h⟩

theorem ok_of_ite {ε α : Type} {c : Prop} [Decidable c] {r r' : Except ε α} {x : α} (h : (if c then r else r') = .ok x) :
    r = .ok x ∨ r' = .ok x := by
  split at h
  case isTrue => exact .inl h
  case isFalse => exact .inr h

theorem accessCheck_of_leafXlat {p : Pkg} {asid va level size : Nat} {e : BitVec 128} {user write : Bool} {x : Xlat}
    (h : leafXlat p asid va level size e user write = .ok x) : accessCheck x user write va = none := by
  rw [leafXlat] at h
  obtain ⟨-, h⟩ := ok_of_ite_error h
  obtain ⟨-, h⟩ := ok_of_ite_error h
  obtain ⟨-, h⟩ := ok_of_ite_error h
  dsimp only at h
  split at h
  case h_1 => exact absurd h (by simp)
  case h_2 hcheck =>
    obtain ⟨-, h⟩ := ok_of_ite_error h
    obtain rfl := Except.ok.inj h
    exact hcheck

theorem accessCheck_of_walkFrom {fuel : Nat} {p : Pkg} {now c asid va base : Nat} {user write : Bool} {x : Xlat}
    (h : walkFrom fuel p now c asid va base user write = .ok x) : accessCheck x user write va = none := by
  induction fuel generalizing base with
  | zero => exact absurd h (by simp [walkFrom])
  | succ fuel ih =>
    rw [walkFrom] at h
    obtain ⟨-, h⟩ := ok_of_ite_error h
    obtain ⟨-, h⟩ := ok_of_ite_error h
    obtain ⟨-, h⟩ := ok_of_ite_error h
    rcases ok_of_ite h with hleaf | htable
    · exact accessCheck_of_leafXlat (ok_of_ite_error hleaf).2
    · exact ih (ok_of_ite_error (ok_of_ite_error htable).2).2

theorem accessCheck_of_walk {p : Pkg} {now c asid va : Nat} {user write : Bool} {x : Xlat} (h : walk p now c asid va user write = .ok x) :
    accessCheck x user write va = none := by
  rw [walk] at h
  obtain ⟨-, h⟩ := ok_of_ite_error h
  obtain ⟨-, h⟩ := ok_of_ite_error h
  obtain ⟨-, h⟩ := ok_of_ite_error h
  exact accessCheck_of_walkFrom (ok_of_ite_error h).2

/-! Journaled stores (R190). -/

section
variable {p : Pkg} {now c n : Nat} {e : JEntry} {ps : List Piece} {opr ty : Nat} {x : Bool}
  (he : mapFind (partOf p c).journal n = some e) (hbody : e.body = .store ps opr ty x)
include he hbody

theorem journalWalk_settled (hstatus : e.status ≠ 1) : journalWalk p now c n = p := by
  simp only [journalWalk, he, hbody]
  exact if_pos (.inl hstatus)

variable (hfenced : (coreOf p c).fenced = none) (hstatus : e.status = 1) (hfree : walkWaits p = false)
include hfenced hstatus hfree

theorem journalWalk_translates : journalWalk p now c n = match journalXlats p now c e.asid ty (!supOf (partOf p c)) ps with
    | .ok xs => postEntry p now c e ps opr ty x xs
    | .error (t, va) => (match walkCheck p now c e t with
      | some q => q
      | none => jFail (setPart (dropEntryWalks p c e.uid) c (jPut (partOf p c) n { e with addr := va / 65536 })) now c e.uid 3 t.cause 0) := by
  have hgoes : ¬ (e.status ≠ 1 ∨ (coreOf p c).fenced.isSome = true ∨ walkWaits p = true) := by simp [hstatus, hfenced, hfree]
  simp only [journalWalk, he, hbody]
  exact if_neg hgoes

end

theorem walkCheck_other (p : Pkg) (now c : Nat) (e : JEntry) {t : Trap} (h : t.cause ≠ causeMachineCheck) :
    walkCheck p now c e t = none := by
  simp only [walkCheck]
  exact if_pos (.inl h)

/-! The steps of the events. -/

section
variable {s : State} {q : Pkg} {lvl n k : Nat}

theorem eventTo_drainIntervalExpiry (h : drainExpiry s.pkg s.time lvl n k = q) : eventTo (.drainIntervalExpiry lvl n k) s q := h ▸ rfl

theorem eventTo_mergePublication (h : mergePublication s.pkg s.time lvl n = q) : eventTo (.mergePublication lvl n) s q := h ▸ rfl

theorem eventTo_deferralExpiry (h : deferralExpiry s.pkg s.time lvl n k = q) : eventTo (.deferralExpiry lvl n k) s q := h ▸ rfl

theorem eventTo_horizonExpiry (h : horizonExpiry s.pkg s.time lvl n k = q) : eventTo (.horizonExpiry lvl n k) s q := h ▸ rfl

theorem eventTo_floorCopyExpiry (h : copyExpiry s.pkg s.time lvl n k = q) : eventTo (.floorCopyExpiry lvl n k) s q := h ▸ rfl

theorem eventTo_pageWalkDone {c i : Nat} (h : pageWalkDone s.pkg s.time c i = q) : eventTo (.pageWalkDone c i) s q := h ▸ rfl

theorem eventTo_journalWalkResult {c : Nat} (h : journalWalk s.pkg s.time c n = q) : eventTo (.journalWalkResult c n) s q := h ▸ rfl

end

end Sys2Proof.Machine

open Sys2Proof.Claims Sys2Proof.Machine

/-- Settles O47: each event by the branch of its condition; the MSYNCs of a core by induction over its slots, the permissions of a
translation by induction over the levels of the walk. -/
theorem memoryEvents : Obligations.MemoryEvents := by
  refine ⟨fun s lvl n k h => ⟨fun hdue => ?_, fun hyoung => ?_⟩, fun s lvl n q _ hmoves => ⟨fun h => ?_, fun hmerging hstall => ⟨fun hq => ?_,
      fun hq => ?_⟩⟩, fun q n m => ⟨(endSync_frame q n).1, (endSync_frame q n).2, fun hhold hs hc => ?_, fun hhold hs hc => ?_⟩,
    fun p p1 now lvl n k rest => ⟨publishKeys_ok, publishKeys_deferred, fun _ _ _ => publishKeys_invalid⟩,
    fun s lvl n k hlvl hmoves hstall hany => ⟨fun hnow => ?_, fun hlater => ?_⟩, fun s lvl n line h hh => ⟨fun hlive => ?_, fun hover => ?_⟩,
    fun s lvl n line t fc hfc ht => ⟨fun hlive => ?_, fun hover => ?_⟩, fun s lvl n line fc hfc ht => ?_, fun _ _ _ _ => rfl,
    fun s c i w q hends hfree hteam hasid => ⟨fun x hx => ?_, fun t ht => ?_⟩, fun s c i h => ?_, walkWaits_iff, fun p now c asid va user write h => ?_,
    fun p now c asid va write x h => ?_, fun p now c asid va user x h => ?_, fun s c n e ps opr ty x he hbody hfenced => ⟨fun hstatus => ?_,
      fun xs hstatus hfree hxs => ?_, fun t va hstatus hfree hcause ht => ?_⟩⟩
  · exact eventTo_drainIntervalExpiry (drainExpiry_starts h hdue)
  · exact eventTo_drainIntervalExpiry (drainExpiry_young hyoung)
  · exact eventTo_mergePublication (mergePublication_none hmoves h)
  · exact eventTo_mergePublication (mergePublication_publishes (stalled := false) hmoves hmerging hstall hq)
  · exact eventTo_mergePublication (mergePublication_publishes (stalled := true) hmoves hmerging hstall hq)
  · have hslot := (slotOf_endSync hs hc m).trans (if_pos hhold)
    exact ⟨congrArg Slot.pc hslot, congrArg Slot.hold hslot⟩
  · exact (slotOf_endSync hs hc m).trans (if_neg hhold)
  · exact eventTo_deferralExpiry ((deferralExpiry_eq hlvl hmoves hstall hany).trans (if_pos hnow))
  · exact eventTo_deferralExpiry ((deferralExpiry_eq hlvl hmoves hstall hany).trans (if_neg (by rw [hlater]; decide)))
  · exact eventTo_horizonExpiry (horizonExpiry_live hh hlive)
  · exact eventTo_horizonExpiry (horizonExpiry_over hh hover)
  · exact eventTo_floorCopyExpiry ((copyExpiry_eq hfc ht).trans (if_neg (Nat.not_le.mpr hlive)))
  · exact eventTo_floorCopyExpiry ((copyExpiry_eq hfc ht).trans (if_pos hover))
  · exact eventTo_floorCopyExpiry (copyExpiry_lasting hfc ht)
  · exact eventTo_pageWalkDone ((pageWalkDone_ends hends hfree hteam hasid).trans (by rw [hx]))
  · exact eventTo_pageWalkDone ((pageWalkDone_ends hends hfree hteam hasid).trans (by rw [ht]))
  · exact eventTo_pageWalkDone (pageWalkDone_waits h s.time c i)
  · exact walk_high h
  · exact (permits_of_accessCheck (accessCheck_of_walk h)).1 rfl
  · exact (permits_of_accessCheck (accessCheck_of_walk h)).2 rfl
  · exact eventTo_journalWalkResult (journalWalk_settled he hbody hstatus)
  · exact eventTo_journalWalkResult ((journalWalk_translates he hbody hfenced hstatus hfree).trans (by rw [hxs]))
  · have hcheck := walkCheck_other s.pkg s.time c e hcause
    exact eventTo_journalWalkResult ((journalWalk_translates he hbody hfenced hstatus hfree).trans (by rw [ht]; simp only [hcheck]))
end

section
/-!
The register image of an access (R58, R187): each element of it at its place, zeros elsewhere.
-/
namespace Sys2Proof.Machine

/-! Numbers of a given count of bytes. -/

theorem leNat_lt (bs : List Byte) : leNat bs < 2 ^ (8 * bs.length) := by
  induction bs with
  | nil => exact Nat.one_pos
  | cons b rest ih =>
    have hb := b.isLt
    have hstep : leNat (b :: rest) = leNat rest * 256 + b.toNat := rfl
    have hpow : 2 ^ (8 * (b :: rest).length) = 256 * 2 ^ (8 * rest.length) := by
      rw [List.length_cons, Nat.mul_succ, Nat.pow_add, Nat.mul_comm]
    rw [hstep, hpow]
    omega

theorem scrNat_lt (k : Part) (a n : Nat) : scrNat k a n < 2 ^ (8 * n) := by
  have h := leNat_lt (scrBytes k a n)
  rwa [scrBytes, List.length_map, List.length_range] at h

theorem granuleBytes_lt (m : SMap Granule) (a n : Nat) : granuleBytes m a n < 2 ^ (8 * n) := by
  have h := leNat_lt ((List.range n).map (fun j => BitVec.ofNat 8 ((mapGet 0 m ((a + j) / 32)).toNat >>> (8 * ((a + j) % 32)))))
  rwa [List.length_map, List.length_range] at h

/-! One digit of a sum. -/

section
variable {B acc r k : Nat}

/-- A digit put where the digit of a number is 0 stands there, and every other digit as it was. -/
theorem digit_add (hB : 0 < B) (hr : r < B) (hk : acc / B ^ k % B = 0) (i : Nat) :
    (acc + r * B ^ k) / B ^ i % B = if i = k then r else acc / B ^ i % B := by
  have hpow : 0 < B ^ k := Nat.pow_pos hB
  rcases Nat.lt_trichotomy i k with hlt | rfl | hgt
  · obtain ⟨d, rfl⟩ := Nat.exists_eq_add_of_lt hlt
    have hmod : (acc + r * B ^ (i + d + 1)) % (B ^ i * B) = acc % (B ^ i * B) := by
      rw [show r * B ^ (i + d + 1) = B ^ i * B * (r * B ^ d) by ring, Nat.add_mul_mod_self_left]
    rw [if_neg (by omega), ← Nat.mod_mul_right_div_self, hmod, Nat.mod_mul_right_div_self]
  · rw [if_pos rfl, Nat.add_mul_div_right _ _ hpow, Nat.add_mod, hk, Nat.zero_add, Nat.mod_mod, Nat.mod_eq_of_lt hr]
  · obtain ⟨d, rfl⟩ := Nat.exists_eq_add_of_lt hgt
    have hsplit : B ^ (k + d + 1) = B ^ k * B * B ^ d := by ring
    have hq : (acc + r * B ^ k) / (B ^ k * B) = acc / (B ^ k * B) := by
      rw [← Nat.div_div_eq_div_mul, ← Nat.div_div_eq_div_mul, Nat.add_mul_div_right _ _ hpow,
        Nat.add_div_of_dvd_right (Nat.dvd_of_mod_eq_zero hk), Nat.div_eq_of_lt hr, Nat.add_zero]
    rw [if_neg (by omega), hsplit, ← Nat.div_div_eq_div_mul, hq, Nat.div_div_eq_div_mul]

end

/-! The image. -/

/-- The value of an element as read; one that is not accessed reads as zero. -/
def elRead (e : Bits512) (rd : Nat → Nat → Nat) (x : El) : Nat :=
  match x.2 with
  | some idx => rd (elemAddr e idx).toNat (tySize (layType e))
  | none => 0

/-- The sum that makes the image. -/
def imageSum (e : Bits512) (rd : Nat → Nat → Nat) (els : List El) (acc : Nat) : Nat :=
  els.foldl (fun acc x => acc + elRead e rd x * (2 ^ (8 * tySize (layType e))) ^ x.1) acc

theorem vectorFrom_eq (e : Bits512) (els : List El) (rd : Nat → Nat → Nat) :
    vectorFrom e els rd = BitVec.ofNat 1024 (imageSum e rd els 0) := by
  have hstep : (fun (acc : Nat) (x : El) => match x.2 with
      | some idx => acc + rd (elemAddr e idx).toNat (tySize (layType e)) * 2 ^ (8 * tySize (layType e) * x.1)
      | none => acc) = fun acc x => acc + elRead e rd x * (2 ^ (8 * tySize (layType e))) ^ x.1 := by
    funext acc x
    rw [elRead, ← Nat.pow_mul]
    cases x.2 with
    | some idx => rfl
    | none => rw [Nat.zero_mul, Nat.add_zero]
  rw [imageSum, ← hstep]
  rfl

section
variable {e : Bits512} {rd : Nat → Nat → Nat} (hrd : ∀ a, rd a (tySize (layType e)) < 2 ^ (8 * tySize (layType e)))
include hrd

theorem elRead_lt (x : El) : elRead e rd x < 2 ^ (8 * tySize (layType e)) := by
  rw [elRead]
  cases x.2 with
  | some idx => exact hrd _
  | none => exact Nat.two_pow_pos _

/-- Each digit of the sum is the element of that place, or what stood there before. -/
theorem digit_imageSum {els : List El} (hnd : (els.map (·.1)).Nodup) {acc : Nat}
    (hacc : ∀ x ∈ els, acc / (2 ^ (8 * tySize (layType e))) ^ x.1 % 2 ^ (8 * tySize (layType e)) = 0) (i : Nat) :
    imageSum e rd els acc / (2 ^ (8 * tySize (layType e))) ^ i % 2 ^ (8 * tySize (layType e)) =
      match els.find? (fun x => decide (x.1 = i)) with
      | some x => elRead e rd x
      | none => acc / (2 ^ (8 * tySize (layType e))) ^ i % 2 ^ (8 * tySize (layType e)) := by
  induction els generalizing acc with
  | nil => rfl
  | cons y rest ih =>
    obtain ⟨hnot, hrest⟩ := List.nodup_cons.mp hnd
    have hdigit := digit_add (Nat.two_pow_pos _) (elRead_lt hrd y) (hacc y List.mem_cons_self)
    have hacc' : ∀ x ∈ rest, (acc + elRead e rd y * (2 ^ (8 * tySize (layType e))) ^ y.1) /
        (2 ^ (8 * tySize (layType e))) ^ x.1 % 2 ^ (8 * tySize (layType e)) = 0 := by
      intro x hx
      have hne : x.1 ≠ y.1 := fun h => hnot (List.mem_map.mpr ⟨x, hx, h⟩)
      rw [hdigit, if_neg hne]
      exact hacc x (List.mem_cons_of_mem _ hx)
    refine (ih hrest hacc').trans ?_
    by_cases hi : y.1 = i
    · obtain rfl := hi
      have hnone : rest.find? (fun x => decide (x.1 = y.1)) = none := by
        exact List.find?_eq_none.mpr (fun x hx h => hnot (List.mem_map.mpr ⟨x, hx, of_decide_eq_true h⟩))
      simp only [hnone, List.find?_cons, decide_true, hdigit, if_true]
    · have hi' : i ≠ y.1 := Ne.symm hi
      simp only [List.find?_cons, hi, decide_false, hdigit, if_neg hi']

/-- Element i of the image is what was read of the element of place i, and zero where there is none. -/
theorem elem_vectorFrom {els : List El} (hnd : (els.map (·.1)).Nodup) {i : Nat} (hi : i < 128 / tySize (layType e)) :
    elem (8 * tySize (layType e)) (vectorFrom e els rd) i = match els.find? (fun x => decide (x.1 = i)) with
      | some (_, some idx) => rd (elemAddr e idx).toNat (tySize (layType e))
      | _ => 0 := by
  have hfit : 8 * tySize (layType e) * i + 8 * tySize (layType e) ≤ 1024 := by
    have hle : (i + 1) * tySize (layType e) ≤ 128 := Nat.mul_le_of_le_div _ _ _ (Nat.succ_le_of_lt hi)
    calc 8 * tySize (layType e) * i + 8 * tySize (layType e) = 8 * ((i + 1) * tySize (layType e)) := by ring
      _ ≤ 1024 := by omega
  have hmod : elem (8 * tySize (layType e)) (vectorFrom e els rd) i =
      imageSum e rd els 0 / (2 ^ (8 * tySize (layType e))) ^ i % 2 ^ (8 * tySize (layType e)) := by
    rw [elem_eq_div, vectorFrom_eq, BitVec.toNat_ofNat, ← Nat.pow_mul, ← Nat.mod_mul_right_div_self, ← Nat.mod_mul_right_div_self,
      ← Nat.pow_add, Nat.mod_mod_of_dvd _ (Nat.pow_dvd_pow 2 hfit)]
  rw [hmod, digit_imageSum hrd hnd (fun _ _ => by rw [Nat.zero_div, Nat.zero_mod])]
  cases els.find? (fun x => decide (x.1 = i)) with
  | none => rw [Nat.zero_div, Nat.zero_mod]
  | some x =>
    obtain ⟨n, idx⟩ := x
    cases idx <;> rfl

end

end Sys2Proof.Machine
end

section
/-!
A word that has issued and goes on (R158), and the packages of memory operations that leave everything but the cores.
-/
namespace Sys2Proof.Machine
open Sys2Proof.Claims

/-! A word between its words. -/

section
variable {i : Instr} {c : Nat} {f : Fields} {g : Guarding} {body : Fields → Cx → Pkg → Eff} {s : State} {n : Nat} {left : List Nat}
  {got : SMap Byte} (hw : i.word = some (c, f)) (h : goesOn i g s) (hhold : s.cur.hold = .words n left got)
include hw h

theorem inText_of_goesOn : s.cur.pc + 12 < textSizeOf s.pkg s.core := by
  obtain ⟨_, _, hw', -, -, -, -, -, -, -, hin, -⟩ := h
  rw [hw] at hw'
  cases hw'
  simp only [inBounds, Bool.and_eq_true, decide_eq_true_eq] at hin
  exact hin.2

include hhold

/-- It has its effect again; its registers were checked as it issued. -/
theorem issue_of_goesOn : issue i g body s = .next (s.with (settle s.pkg (cxOf s) f (body f (cxOf s) s.pkg))) := by
  have htext := inText_of_goesOn hw h
  obtain ⟨_, _, hw', hl, hreg, hri, hst, hsb, hop, hguard, hin, hrels⟩ := h
  rw [hw] at hw'
  cases hw'
  simp only [inBounds, Bool.and_eq_true] at hin
  obtain ⟨hwin, -⟩ := hin
  rcases hrow : rowOf c with _ | row
  · simp [rightHeld, hrow] at hri
  simp only [rightHeld, hrow] at hri
  simp only [State.cur, State.part] at hl hhold hreg hri hst hsb hop hguard hrels
  have hreg' : ¬ ((slotOf (partOf s.pkg s.core) s.slot).region.isSome = true ∧ c ≠ 0x0EA) := by simp [hreg]
  simp only [issue, hw, issueP, attempt, cxOf_core, cxOf_slot, State.with, hl, hhold, hrow, hri, hst, hsb, hop, hguard, hwin,
    fresh, if_neg hreg', hrels, List.isEmpty_nil, Bool.true_or, Bool.true_eq_false, if_false, if_true]
  exact congrArg (fun q => Host.Outcome.next { s with pkg := q }) (settle_leaving (p := s.pkg) (cx := cxOf s) c _ htext)

theorem goesOn_done {q : Pkg} (hb : body f (cxOf s) s.pkg = .done q) : issue i g body s = .next (advance s f q) := by
  rw [issue_of_goesOn hw h hhold, hb, settle_done (p := s.pkg) (cx := cxOf s) (inText_of_goesOn hw h)]
  rfl

theorem goesOn_hold {q : Pkg} (hb : body f (cxOf s) s.pkg = .hold q) : issue i g body s = .next (s.with q) := by
  have htext : ¬ textSizeOf s.pkg (cxOf s).core ≤ (slotOf (partOf s.pkg (cxOf s).core) (cxOf s).slot).pc + 12 :=
    Nat.not_le.mpr (inText_of_goesOn hw h)
  have hissued : holdOf s.pkg (cxOf s) = .words n left got := hhold
  rw [issue_of_goesOn hw h hhold, hb]
  simp [settle, htext, hissued, hasIssued]

end

/-! What changes the cores alone. -/

theorem onlyCores_popMesh (p : Pkg) (c : Nat) (o : Opd) : popMesh p c o = { p with cores := (popMesh p c o).cores } := by
  rw [popMesh.eq_def]
  split <;> rfl

theorem onlyCores_popSources (p : Pkg) (c : Nat) (f : Fields) : popSources p c f = { p with cores := (popSources p c f).cores } := by
  have h1 := onlyCores_popMesh p c f.a
  have h2 := onlyCores_popMesh (popMesh p c f.a) c (bDesc f.b)
  rw [popSources, h2, h1]

theorem onlyCores_writeVec (p : Pkg) (c n : Nat) (g : Mask) (v : VReg) (o : Opd) :
    writeVec p c n g v o = { p with cores := (writeVec p c n g v o).cores } := by
  rw [writeVec.eq_def]
  split
  · rfl
  · split <;> rfl
  · split <;> rfl
  · rfl

end Sys2Proof.Machine
end

section
/-!
LDS and LDSV (R136, R158, R187, R188, R203): at once, or word by word.
-/
namespace Sys2Proof.Machine
open Sys2Proof.Claims

/-! The elements of a local access. -/

/-- The places of an access that take part. -/
def accessPlaces (e : Bits512) (vec : Bool) (g : Mask) : List Nat :=
  if vec then (List.range (vecCount (layType e))).filter (laneTakesPart (layType e) g) else [0]

/-- The elements of an access all of which lie inside L. -/
def insideEls (e : Bits512) (w : Word) (vec : Bool) (g : Mask) : List El :=
  (accessPlaces e vec g).map (fun i => (i, some (moveIdx (elemIndex e w) (vecStep (layType e) * (i : Int)))))

theorem entryNow_fresh {s : State} (h : s.cur.hold = .none) (n : Nat) (w : Word) (spaces : List Nat) :
    entryNow s.part s.cur n w spaces = entryFor s.part n w spaces := by
  have hcap : capOf s.cur = none := by simp [capOf, h, hasIssued]
  rw [entryNow, hcap]

/-- Each element of an access stands under a place of its own. -/
theorem places_of_checkEls {e : Bits512} {w : Word} {n : Nat} {write : Bool} {base : List Int} {is : List Nat} {els : List El}
    (h : checkEls e w n write base is = .ok els) : els.map (·.1) = is := by
  induction is generalizing els with
  | nil =>
    cases h
    rfl
  | cons i rest ih =>
    rw [checkEls] at h
    split at h
    next => cases h
    next x hx =>
      split at h
      next => cases h
      next xs hxs =>
        cases h
        rw [List.map_cons, ih hxs]
        refine congrArg (· :: rest) ?_
        simp only [checkEl] at hx
        split at hx
        · cases hx
          rfl
        · cases hx
        · split at hx
          · cases hx
            rfl
          · cases hx

/-- What the checks of an access leave of it, before its elements. -/
theorem checkEls_of_accessEls {cx : Cx} {e : Bits512} {w : Word} {n : Nat} {vec write : Bool} {g : Mask} {els : List El}
    (h : accessEls cx e w n vec write g = .ok els) : checkEls e w n write (elemIndex e w) (accessPlaces e vec g) = .ok els := by
  cases vec with
  | false =>
    simp only [accessEls, Bool.false_eq_true, if_false] at h
    exact (ok_of_ite_error (ok_of_ite_error h).2).2
  | true =>
    simp only [accessEls, if_true] at h
    exact (ok_of_ite_error (ok_of_ite_error (ok_of_ite_error h).2).2).2

theorem nodup_accessPlaces (e : Bits512) (vec : Bool) (g : Mask) : (accessPlaces e vec g).Nodup := by
  cases vec with
  | false => exact List.nodup_singleton 0
  | true => exact List.nodup_range.filter _

theorem nodup_of_accessEls {cx : Cx} {e : Bits512} {w : Word} {n : Nat} {vec write : Bool} {g : Mask} {els : List El}
    (h : accessEls cx e w n vec write g = .ok els) : (els.map (·.1)).Nodup :=
  places_of_checkEls (checkEls_of_accessEls h) ▸ nodup_accessPlaces e vec g

theorem accessEls_of_localEls {k : Part} {cx : Cx} {n : Nat} {w : Word} {vec write : Bool} {g : Mask} {e : Bits512} {els : List El}
    (h : localEls k cx n w vec write g = .ok (e, els)) : accessEls cx e w n vec write g = .ok els := by
  rw [localEls] at h
  split at h
  next => cases h
  next =>
    split at h
    next => cases h
    next hels =>
      split at h
      next => cases h
      next =>
        cases h
        exact hels

theorem scaleAddrs_plain {e : Bits512} (h : layType e ≠ tyL8) (vec : Bool) (els : List El) : scaleAddrs e vec els = [] := by
  simp [scaleAddrs, h]

/-- Operands as R203 asks for them give every element of the access. -/
theorem localEls_of_operands {s : State} (hhold : s.cur.hold = .none) {n : Nat} {w : Word} {vec : Bool} {g : Mask} {e : Bits512}
    (h : scratchOperands s n w vec g e) (write : Bool) : localEls s.part (cxOf s) n w vec write g = .ok (e, insideEls e w vec g) := by
  obtain ⟨hlay, hok, hspace, hl8, hf4, hwide, hels⟩ := h
  have hentry : entryFor s.part n w [1] = .ok e := by simp [entryFor, entryOf, hlay, hok, hspace]
  have hcheck : checkEls e w n write (elemIndex e w) (accessPlaces e vec g) = .ok (insideEls e w vec g) :=
    checkEls_of_each (fun i hi => by
      obtain ⟨hin, hal, hfit⟩ := hels i hi
      exact checkEl_inside write hin hal hfit)
  have hacc : accessEls (cxOf s) e w n vec write g = .ok (insideEls e w vec g) := by
    rw [← hcheck]
    cases vec with
    | false => simp [accessEls, accessPlaces, hl8, hf4]
    | true => simp [accessEls, accessPlaces, hl8, hf4, hwide rfl]
  have hscale : checkScale e w n vec (insideEls e w vec g) = none := by simp [checkScale, scaleAddrs_plain hl8]
  have hcur : slotOf s.part (cxOf s).slot = s.cur := rfl
  rw [localEls, hcur, entryNow_fresh hhold, hentry]
  simp only [hacc, hscale]

/-- No engine command of the core: an access need not wait for one. -/
theorem scrClear_of_boards {k : Part} (h : boards k = []) (reads writes : List Span) : scrClear k reads writes = true := by
  rw [scrClear, h]
  rfl

theorem spansBad_none {k : Part} (h : k.badWords = []) (l : List Span) : spansBad k l = none := by rw [spansBad, h, List.find?_nil]

/-! What a local load comes to. -/

theorem wordsDone_fresh {x : Slot} (h : x.hold = .none) : wordsDone x = (0, []) := by rw [wordsDone, h]

theorem wordsDone_words {x : Slot} {n : Nat} {left : List Nat} {got : SMap Byte} (h : x.hold = .words n left got) :
    wordsDone x = (n, got) := by rw [wordsDone, h]

theorem wordsNat_nil (k : Part) : wordsNat k [] = scrNat k := by
  funext a n
  exact if_pos rfl

/-- A local load all of whose words have been read. -/
def loadedEff (s : State) (f : Fields) (vec : Bool) (e : Bits512) (els : List El) (rd : Nat → Nat → Nat) : Eff :=
  if vec && blockBad e els rd then .trap scaleTrap
  else if vec then .done (writeVec s.pkg s.core s.slot (lanesOf s f) (vectorFrom e els rd) f.d)
  else match scalarFrom (flushes s.cur) e els rd with
    | .ok v => .done (writeD s f v)
    | .error t => .trap t

section
variable {s : State} {f : Fields} {e : Bits512} {els : List El} {rd : Nat → Nat → Nat}

theorem loadedEff_block (h : blockBad e els rd = true) : loadedEff s f true e els rd = .trap scaleTrap := if_pos h

theorem loadedEff_vec (h : blockBad e els rd = false) :
    loadedEff s f true e els rd = .done (writeVec s.pkg s.core s.slot (lanesOf s f) (vectorFrom e els rd) f.d) := by
  rw [loadedEff, h]
  rfl

theorem loadedEff_ok {v : Word} (h : scalarFrom (flushes s.cur) e els rd = .ok v) : loadedEff s f false e els rd = .done (writeD s f v) := by
  rw [loadedEff, h]
  rfl

theorem loadedEff_error {t : Trap} (h : scalarFrom (flushes s.cur) e els rd = .error t) : loadedEff s f false e els rd = .trap t := by
  rw [loadedEff, h]
  rfl

end

/-- A local load stands between its words: n are read. -/
def wordsRead (s : State) (e : Bits512) (ws : List Nat) (n : Nat) (got : SMap Byte) : Pkg :=
  setHold (setCap s.pkg (cxOf s) e []) (cxOf s) (.words n (ws.drop n) got)

theorem loadLocal_error {s : State} {f : Fields} {vec : Bool} {t : Trap}
    (h : localEls s.part (cxOf s) (opdLay f.a) (s.bVal f) vec false (lanesOf s f) = .error t) :
    loadLocal vec f (cxOf s) s.pkg = .trap t := by
  have h' : localEls (partOf s.pkg (cxOf s).core) (cxOf s) (opdLay f.a) (bScalar s.pkg (cxOf s).core
    (slotOf (partOf s.pkg (cxOf s).core) (cxOf s).slot) f.b) vec false (guardMask (slotOf (partOf s.pkg (cxOf s).core) (cxOf s).slot) f) =
      .error t := h
  simp only [loadLocal, h']

section
variable {s : State} {f : Fields} {vec : Bool} {e : Bits512} {els : List El}
  (hels : localEls s.part (cxOf s) (opdLay f.a) (s.bVal f) vec false (lanesOf s f) = .ok (e, els))
  (hwhole : spansBad s.part (elSpans e vec els) = none)
include hels hwhole

/-- A load in its turn reads one word of several, or the rest. -/
theorem loadLocal_reads {n : Nat} {got : SMap Byte} (hdone : wordsDone s.cur = (n, got))
    (hturn : n ≠ 0 ∨ scrClear s.part (elSpans e vec els) [] = true) : loadLocal vec f (cxOf s) s.pkg =
      if s.turn.later = true ∧ n + 1 < (spanWords (elSpans e vec els)).length then
        .hold (wordsRead s e (spanWords (elSpans e vec els)) (n + 1) (readWord s.part got ((spanWords (elSpans e vec els)).getD n 0)))
      else loadedEff s f vec e els (wordsNat s.part got) := by
  have hels' : localEls (partOf s.pkg (cxOf s).core) (cxOf s) (opdLay f.a) (bScalar s.pkg (cxOf s).core
    (slotOf (partOf s.pkg (cxOf s).core) (cxOf s).slot) f.b) vec false (guardMask (slotOf (partOf s.pkg (cxOf s).core) (cxOf s).slot) f) =
      .ok (e, els) := hels
  have hdone' : wordsDone (slotOf (partOf s.pkg (cxOf s).core) (cxOf s).slot) = (n, got) := hdone
  have hwhole' : spansBad (partOf s.pkg (cxOf s).core) (elSpans e vec els) = none := hwhole
  have hfree : ¬ (n = 0 ∧ scrClear (partOf s.pkg (cxOf s).core) (elSpans e vec els) [] = false) := by
    rintro ⟨hn, hclear⟩
    rcases hturn with h | h
    · exact h hn
    · exact Bool.false_ne_true (hclear.symm.trans h)
  simp only [loadLocal, hels', hdone', hwhole', if_neg hfree]
  rfl

variable (hhold : s.cur.hold = .none) (hclear : scrClear s.part (elSpans e vec els) [] = true)
include hhold hclear

theorem loadLocal_atOnce (h : atOnce s (spanWords (elSpans e vec els)).length) :
    loadLocal vec f (cxOf s) s.pkg = loadedEff s f vec e els (scrNat s.part) := by
  rw [loadLocal_reads hels hwhole (wordsDone_fresh hhold) (.inr hclear), if_neg, wordsNat_nil]
  rintro ⟨hlater, hlen⟩
  rcases h with h | h
  · exact Bool.false_ne_true (h.symm.trans hlater)
  · omega

theorem loadLocal_firstWord (hlater : s.turn.later = true) (hlen : 1 < (spanWords (elSpans e vec els)).length) :
    loadLocal vec f (cxOf s) s.pkg = .hold (wordsRead s e (spanWords (elSpans e vec els)) 1
      (readWord s.part [] ((spanWords (elSpans e vec els)).getD 0 0))) := by
  rw [loadLocal_reads hels hwhole (wordsDone_fresh hhold) (.inr hclear)]
  exact if_pos ⟨hlater, hlen⟩

end

/-! The clauses of the instructions. -/

section
variable {i : Fields → Instr} {g : Guarding} {vec : Bool} {c : Nat} (hw : ∀ f, (i f).word = some (c, f))
  (hexec : ∀ f s, exec (i f) s = issue (i f) g (loadLocal vec) s)
include hw hexec

theorem localLoad_traps : trapsAs i g (fun s f t => localEls s.part (cxOf s) (opdLay f.a) (s.bVal f) vec false (lanesOf s f) = .error t) :=
  fun s f _ h ht => (hexec f s).trans (issue_trap (hw f) h (loadLocal_error ht))

section
variable {s : State} {f : Fields} {e : Bits512} {els : List El} (h : runs (i f) g s = true) (hread : localRead s f vec e els)
  (hwhole : spansBad s.part (elSpans e vec els) = none) (honce : atOnce s (spanWords (elSpans e vec els)).length)
include h hread hwhole honce

theorem localLoad_done {q : Pkg} (hq : loadedEff s f vec e els (scrNat s.part) = .done q) : exec (i f) s = .next (advance s f q) :=
  (hexec f s).trans (issue_done (hw f) h ((loadLocal_atOnce hread.1 hwhole (hold_of_runs (hw f) h).2 hread.2 honce).trans hq))

theorem localLoad_trap {t : Trap} (ht : loadedEff s f vec e els (scrNat s.part) = .trap t) : exec (i f) s = .next (trapState s f t) :=
  (hexec f s).trans (issue_trap (hw f) h ((loadLocal_atOnce hread.1 hwhole (hold_of_runs (hw f) h).2 hread.2 honce).trans ht))

end

theorem localLoad_words : loadWordsRow i g vec := by
  intro s f e els hels hwhole
  refine ⟨fun h hclear hlater hlen => ?_, fun n left got hgoes hhold hn => ?_⟩
  · exact (hexec f s).trans (issue_hold (hw f) h (loadLocal_firstWord hels hwhole (hold_of_runs (hw f) h).2 hclear hlater hlen))
  · have hreads := loadLocal_reads hels hwhole (wordsDone_words hhold) (.inl (by omega))
    refine ⟨fun hlater hlen => ?_, fun hend => ?_⟩
    · exact (hexec f s).trans (goesOn_hold (hw f) hgoes hhold (hreads.trans (if_pos ⟨hlater, hlen⟩)))
    · have hall : loadLocal vec f (cxOf s) s.pkg = loadedEff s f vec e els (wordsNat s.part got) := by
        refine hreads.trans (if_neg ?_)
        rintro ⟨hlater, hlen⟩
        rcases hend with h | h
        · exact Bool.false_ne_true (h.symm.trans hlater)
        · omega
      refine ⟨fun hvec hblock => ?_, fun v hvec hv => ?_⟩ <;> obtain rfl := hvec
      · exact (hexec f s).trans (goesOn_done (hw f) hgoes hhold (hall.trans (loadedEff_vec hblock)))
      · exact (hexec f s).trans (goesOn_done (hw f) hgoes hhold (hall.trans (loadedEff_ok hv)))

/-- It completes where the read of its elements gives no trap of its own. -/
theorem localLoad_completes (hq : ∀ s f e els, plainType e → (vec = false → els ≠ [] ∧ ∀ x ∈ els, x.2.isSome) →
      ∃ q, loadedEff s f vec e els (scrNat s.part) = .done q ∧ q = { s.pkg with cores := q.cores }) :
    localCompletes i g vec (fun f => opdLay f.a) (fun s f => s.bVal f) := by
  intro s f e h hoper hboards hwords hlater
  have hels := localEls_of_operands (hold_of_runs (hw f) h).2 hoper false
  obtain ⟨-, -, -, hl8, hf4, -, -⟩ := hoper
  obtain ⟨q, hdone, honly⟩ := hq s f e (insideEls e (s.bVal f) vec (lanesOf s f)) ⟨hl8, hf4⟩ (by
    rintro rfl
    exact ⟨List.cons_ne_nil _ _, fun x hx => by obtain rfl := List.mem_singleton.mp hx; rfl⟩)
  exact ⟨q, localLoad_done hw hexec h ⟨hels, scrClear_of_boards hboards _ _⟩ (spansBad_none hwords _) (.inl hlater) hdone, honly⟩

end

/-! A scalar load of an element that is not decoded (R188). -/

theorem scalarLoadVal_plain {e : Bits512} (h : plainType e) (flush : Bool) (idx : List Int) (raw scale : Nat) :
    scalarLoadVal flush e idx raw scale = .ok (loadImage (layType e) raw) := by
  obtain ⟨hl8, hf4⟩ := h
  simp only [scalarLoadVal, if_neg hl8, if_neg hf4]

theorem scalarFrom_plain {e : Bits512} (h : plainType e) (flush : Bool) (n : Nat) (idx : List Int) (rest : List El) (rd : Nat → Nat → Nat) :
    scalarFrom flush e ((n, some idx) :: rest) rd = .ok (loadImage (layType e) (rd (elemAddr e idx).toNat (tySize (layType e)))) :=
  scalarLoadVal_plain h flush idx _ _

theorem loadedEff_scalar_plain {s : State} {f : Fields} {e : Bits512} (h : plainType e) {els : List El}
    (hels : els ≠ [] ∧ ∀ x ∈ els, x.2.isSome) (rd : Nat → Nat → Nat) : ∃ q, loadedEff s f false e els rd = .done q ∧
      q = { s.pkg with cores := q.cores } := by
  obtain ⟨hne, hall⟩ := hels
  cases els with
  | nil => exact absurd rfl hne
  | cons x rest =>
    obtain ⟨n, idx⟩ := x
    obtain ⟨idx, rfl⟩ := Option.isSome_iff_exists.mp (hall _ List.mem_cons_self)
    exact ⟨_, loadedEff_ok (scalarFrom_plain h _ n idx rest rd), rfl⟩

theorem blockBad_plain {e : Bits512} (h : layType e ≠ tyF4X) (els : List El) (rd : Nat → Nat → Nat) : blockBad e els rd = false := by
  simp [blockBad, h]

theorem exec_lds (f : Fields) (s : State) : exec (.lds f) s = issue (.lds f) .lane0 (loadLocal false) s := rfl
theorem exec_ldsv (f : Fields) (s : State) : exec (.ldsv f) s = issue (.ldsv f) .lanes (loadLocal true) s := rfl

end Sys2Proof.Machine
end

section
/-!
STS and STSV (R136, R158, R187, R203): which bytes are written, at once or word by word.
-/
namespace Sys2Proof.Machine
open Sys2Proof.Claims

/-! Bytes by offset. -/

theorem mem_of_mem_foldl_insert {l : List (Nat × Byte)} {acc : SMap Byte} {x : Nat × Byte}
    (h : x ∈ l.foldl (fun m e => mapInsert m e.1 e.2) acc) : x ∈ acc ∨ x ∈ l := by
  induction l generalizing acc with
  | nil => exact .inl h
  | cons y rest ih =>
    rcases ih h with h | h
    · rcases mem_of_mem_mapInsert h with rfl | h
      · exact .inr List.mem_cons_self
      · exact .inl h
    · exact .inr (List.mem_cons_of_mem _ h)

theorem mem_of_mem_byteMap {l : List (Nat × Byte)} {x : Nat × Byte} (h : x ∈ byteMap l) : x ∈ l :=
  (mem_of_mem_foldl_insert h).resolve_left List.not_mem_nil

theorem mapFind_foldl_insert {l : List (Nat × Byte)} {x : Nat} {b : Byte} (hall : ∀ e ∈ l, e.1 = x → e.2 = b) {acc : SMap Byte}
    (h : (x, b) ∈ l ∨ mapFind acc x = some b) : mapFind (l.foldl (fun m e => mapInsert m e.1 e.2) acc) x = some b := by
  induction l generalizing acc with
  | nil => exact h.resolve_left List.not_mem_nil
  | cons y rest ih =>
    refine ih (fun e he => hall e (List.mem_cons_of_mem _ he)) ?_
    by_cases hy : y.1 = x
    · obtain rfl := hy
      exact .inr ((mapFind_insert_self acc y.1 y.2).trans (congrArg some (hall y List.mem_cons_self rfl)))
    · have hacc := mapFind_insert_other acc y.2 (Ne.symm hy)
      refine (h.imp_right hacc.trans).imp_left (fun hx => (List.mem_cons.mp hx).resolve_left ?_)
      rintro rfl
      exact hy rfl

theorem mem_byteMap {l : List (Nat × Byte)} {x : Nat} {b : Byte} (h : (x, b) ∈ l) (hall : ∀ e ∈ l, e.1 = x → e.2 = b) :
    (x, b) ∈ byteMap l := mem_of_mapFind (mapFind_foldl_insert hall (.inl h))

theorem scrByte_scrPut_other {k : Part} {now a : Nat} {m : SMap Byte} (h : ∀ x ∈ m, x.1 ≠ a) :
    scrByte (scrPut k now m) a = scrByte k a := by
  rw [scrByte, scr_scrPut]
  exact putAll_other k.scr (fun x hx => h x ((mem_writeOrder m x).mp hx))

theorem scrByte_scrPut_byteMap {k : Part} {now a : Nat} {b : Byte} {l : List (Nat × Byte)} (hk : mapSorted 0 k.scr = true)
    (h : (a, b) ∈ l) (hall : ∀ e ∈ l, e.1 = a → e.2 = b) : scrByte (scrPut k now (byteMap l)) a = b := by
  rw [scrByte, scr_scrPut]
  exact putAll_self hk ((mem_writeOrder _ _).mpr (mem_byteMap h hall))
    (fun x hx => hall x (mem_of_mem_byteMap ((mem_writeOrder _ x).mp hx)))

/-! The bytes of a store. -/

/-- A byte that a store writes lies in one of its elements. -/
theorem mem_elBytes {e : Bits512} {els : List El} {val : Nat → Nat} {keep : Nat → Nat → Bool} {x : Nat × Byte}
    (h : x ∈ elBytes e els val keep) : ∃ y ∈ els, ∃ idx, y.2 = some idx ∧ ∃ j < tySize (layType e), x.1 = (elemAddr e idx).toNat + j := by
  obtain ⟨y, hy, hx⟩ := List.mem_flatMap.mp (mem_of_mem_byteMap h)
  obtain ⟨n, o⟩ := y
  cases o with
  | none => exact absurd hx List.not_mem_nil
  | some idx =>
    obtain ⟨j, hj, rfl⟩ := List.mem_map.mp hx
    exact ⟨_, hy, idx, rfl, j, List.mem_range.mp (List.mem_filter.mp hj).1, rfl⟩

/-- The bytes of one element, those that are kept. -/
def oneElement (e : Bits512) (n : Nat) (idx : List Int) (val : Nat) (keep : Nat → Nat → Bool) : List (Nat × Byte) :=
  ((List.range (tySize (layType e))).filter (keep n)).map (fun j => ((elemAddr e idx).toNat + j, BitVec.ofNat 8 (val >>> (8 * j))))

theorem elBytes_one (e : Bits512) (n : Nat) (idx : List Int) (val : Nat → Nat) (keep : Nat → Nat → Bool) :
    elBytes e [(n, some idx)] val keep = byteMap (oneElement e n idx (val n) keep) := congrArg byteMap (List.append_nil _)

/-- A byte of a store of one element: what the element gives it, where it is kept. -/
theorem scrByte_scrPut_one {k : Part} {now n j : Nat} {e : Bits512} {idx : List Int} {val : Nat → Nat} {keep : Nat → Nat → Bool}
    (hk : mapSorted 0 k.scr = true) (hj : j < tySize (layType e)) :
    scrByte (scrPut k now (elBytes e [(n, some idx)] val keep)) ((elemAddr e idx).toNat + j) =
      if keep n j then BitVec.ofNat 8 (val n >>> (8 * j)) else scrByte k ((elemAddr e idx).toNat + j) := by
  rw [elBytes_one]
  cases hkeep : keep n j with
  | true =>
    refine scrByte_scrPut_byteMap hk (List.mem_map.mpr ⟨j, List.mem_filter.mpr ⟨List.mem_range.mpr hj, hkeep⟩, rfl⟩) (fun x hx hxj => ?_)
    obtain ⟨i, -, rfl⟩ := List.mem_map.mp hx
    obtain rfl : i = j := Nat.add_left_cancel hxj
    rfl
  | false =>
    refine scrByte_scrPut_other (fun x hx hxj => ?_)
    obtain ⟨i, hi, rfl⟩ := List.mem_map.mp (mem_of_mem_byteMap hx)
    obtain rfl : i = j := Nat.add_left_cancel hxj
    exact Bool.false_ne_true (hkeep.symm.trans (List.mem_filter.mp hi).2)

/-- Byte j of an element of sz bytes, taken from the register or from the element. -/
theorem byte_of_element {v sz n j : Nat} (hj : j < sz) :
    BitVec.ofNat 8 (v >>> (8 * sz * n) >>> (8 * j)) = BitVec.ofNat 8 (v / 2 ^ (8 * sz * n) % 2 ^ (8 * sz) / 2 ^ (8 * j)) := by
  refine BitVec.eq_of_toNat_eq ?_
  obtain ⟨d, hd⟩ : ∃ d, 8 * sz = 8 * j + (8 + d) := ⟨8 * sz - 8 * j - 8, by omega⟩
  rw [BitVec.toNat_ofNat, BitVec.toNat_ofNat, Nat.shiftRight_eq_div_pow, Nat.shiftRight_eq_div_pow]
  generalize v / 2 ^ (8 * sz * n) = q
  rw [hd, Nat.pow_add 2 (8 * j), Nat.mod_mul_right_div_self, Nat.pow_add 2 8, Nat.mod_mod_of_dvd _ (Nat.dvd_mul_right _ _)]

/-! What a local store comes to. -/

theorem storeLocal_error {s : State} {f : Fields} {vec : Bool} {t : Trap}
    (h : localEls s.part (cxOf s) (opdLay f.d) (s.aVal f) vec true (lanesOf s f) = .error t) :
    storeLocal vec f (cxOf s) s.pkg = .trap t := by
  have h' : localEls (partOf s.pkg (cxOf s).core) (cxOf s) (opdLay f.d) (opdScalar (slotOf (partOf s.pkg (cxOf s).core) (cxOf s).slot) f.a)
    vec true (guardMask (slotOf (partOf s.pkg (cxOf s).core) (cxOf s).slot) f) = .error t := h
  simp only [storeLocal, h']

/-- A local store stands between its words: word n of its bytes is written. -/
def wordStored (s : State) (e : Bits512) (m : SMap Byte) (n : Nat) : Pkg :=
  setHold (setCap (updPart s.pkg s.core (fun k => scrPut k s.time (m.filter (fun b => decide (b.1 / 8 = (wordsOf m).getD n 0)))))
    (cxOf s) e []) (cxOf s) (.words (n + 1) ((wordsOf m).drop (n + 1)) m)

/-- A local store whose last bytes are written. -/
def stored (s : State) (f : Fields) (m : SMap Byte) : Pkg :=
  updPart (popSources s.pkg s.core f) s.core (fun k => scrPut k s.time m)

section
variable {s : State} {f : Fields} {vec : Bool} {e : Bits512} {els : List El}
  (hels : localEls s.part (cxOf s) (opdLay f.d) (s.aVal f) vec true (lanesOf s f) = .ok (e, els))
include hels

/-- A store in its turn writes one word of several, or the rest. -/
theorem storeLocal_writes {n : Nat} {got : SMap Byte} (hdone : wordsDone s.cur = (n, got))
    (hturn : n ≠ 0 ∨ scrClear s.part [] (elSpans e true els) = true) {m : SMap Byte}
    (hm : m = if n = 0 then storeBytes s f vec e els else got) : storeLocal vec f (cxOf s) s.pkg =
      if s.turn.later = true ∧ n + 1 < (wordsOf m).length then .hold (wordStored s e m n)
      else .done (stored s f (if n = 0 then m else m.filter (fun b => ((wordsOf m).drop n).contains (b.1 / 8)))) := by
  have hels' : localEls (partOf s.pkg (cxOf s).core) (cxOf s) (opdLay f.d) (opdScalar (slotOf (partOf s.pkg (cxOf s).core) (cxOf s).slot) f.a)
    vec true (guardMask (slotOf (partOf s.pkg (cxOf s).core) (cxOf s).slot) f) = .ok (e, els) := hels
  have hdone' : wordsDone (slotOf (partOf s.pkg (cxOf s).core) (cxOf s).slot) = (n, got) := hdone
  have hfree : ¬ (n = 0 ∧ scrClear (partOf s.pkg (cxOf s).core) [] (elSpans e true els) = false) := by
    rintro ⟨hn, hclear⟩
    rcases hturn with h | h
    · exact h hn
    · exact Bool.false_ne_true (hclear.symm.trans h)
  subst hm
  simp only [storeLocal, hels', hdone', if_neg hfree]
  rfl

variable (hhold : s.cur.hold = .none) (hclear : scrClear s.part [] (elSpans e true els) = true)
include hhold hclear

theorem storeLocal_atOnce (h : atOnce s (wordsOf (storeBytes s f vec e els)).length) :
    storeLocal vec f (cxOf s) s.pkg = .done (stored s f (storeBytes s f vec e els)) := by
  refine (storeLocal_writes hels (wordsDone_fresh hhold) (.inr hclear) rfl).trans (if_neg ?_)
  rintro ⟨hlater, hlen⟩
  rcases h with h | h
  · exact Bool.false_ne_true (h.symm.trans hlater)
  · exact absurd hlen (Nat.not_lt.mpr h)

theorem storeLocal_firstWord (hlater : s.turn.later = true) (hlen : 1 < (wordsOf (storeBytes s f vec e els)).length) :
    storeLocal vec f (cxOf s) s.pkg = .hold (wordStored s e (storeBytes s f vec e els) 0) :=
  (storeLocal_writes hels (wordsDone_fresh hhold) (.inr hclear) rfl).trans (if_pos ⟨hlater, hlen⟩)

end

theorem onlyCores_stored (s : State) (f : Fields) (m : SMap Byte) : stored s f m = { s.pkg with cores := (stored s f m).cores } := by
  rw [stored, onlyCores_popSources]
  rfl

/-! The clauses of the instructions. -/

section
variable {i : Fields → Instr} {g : Guarding} {vec : Bool} {c : Nat} (hw : ∀ f, (i f).word = some (c, f))
  (hexec : ∀ f s, exec (i f) s = issue (i f) g (storeLocal vec) s)
include hw hexec

theorem localStore_done {s : State} {f : Fields} {e : Bits512} {els : List El} (h : runs (i f) g s = true)
    (hwrite : localWrite s f vec e els) (honce : atOnce s (wordsOf (storeBytes s f vec e els)).length) :
    exec (i f) s = .next (advance s f (stored s f (storeBytes s f vec e els))) :=
  (hexec f s).trans (issue_done (hw f) h (storeLocal_atOnce hwrite.1 (hold_of_runs (hw f) h).2 hwrite.2 honce))

theorem localStore_row : localStoreRow i g vec := by
  refine ⟨fun s f _ h ht => (hexec f s).trans (issue_trap (hw f) h (storeLocal_error ht)), fun s f e els h hwrite honce hsorted =>
    ⟨scrPut (partOf (popSources s.pkg s.core f) s.core) s.time (storeBytes s f vec e els), localStore_done hw hexec h hwrite honce,
      fun a ha => scrByte_scrPut_other ?_, ?_, ?_⟩⟩
  · rintro x hx rfl
    obtain ⟨y, hy, idx, hidx, j, hj, hxj⟩ := mem_elBytes hx
    exact ha y hy idx hidx ⟨by omega, by omega⟩
  · rintro n idx rfl j hj
    refine (scrByte_scrPut_one hsorted hj).trans ?_
    rw [byte_of_element hj, storedElement]
  · have hsame := sameButScr_scrPut (partOf (popSources s.pkg s.core f) s.core) s.time (storeBytes s f vec e els)
    rw [sameButScr] at hsame
    rw [hsame]
    exact ⟨rfl, rfl, rfl, rfl⟩

theorem localStore_completes : localCompletes i g vec (fun f => opdLay f.d) (fun s f => s.aVal f) := by
  intro s f e h hoper hboards hwords hlater
  have hels := localEls_of_operands (hold_of_runs (hw f) h).2 hoper true
  exact ⟨_, localStore_done hw hexec h ⟨hels, scrClear_of_boards hboards _ _⟩ (.inl hlater), onlyCores_stored s f _⟩

theorem localStore_words : storeWordsRow i g vec := by
  intro s f e els hels
  refine ⟨fun h hclear hlater hlen => ?_, fun n left m hgoes hhold hn => ?_⟩
  · exact (hexec f s).trans (issue_hold (hw f) h (storeLocal_firstWord hels (hold_of_runs (hw f) h).2 hclear hlater hlen))
  · have hne : n ≠ 0 := Nat.ne_of_gt hn
    have hwrites := storeLocal_writes hels (wordsDone_words hhold) (.inl hne) (if_neg hne).symm
    refine ⟨fun hlater hlen => ?_, fun hend => ?_⟩
    · exact (hexec f s).trans (goesOn_hold (hw f) hgoes hhold (hwrites.trans (if_pos ⟨hlater, hlen⟩)))
    · refine (hexec f s).trans (goesOn_done (hw f) hgoes hhold (hwrites.trans ((if_neg ?_).trans ?_)))
      · rintro ⟨hlater, hlen⟩
        rcases hend with h | h
        · exact Bool.false_ne_true (h.symm.trans hlater)
        · exact absurd hlen (Nat.not_lt.mpr h)
      · rw [if_neg hne]
        rfl

end

theorem exec_sts (f : Fields) (s : State) : exec (.sts f) s = issue (.sts f) .lane0 (storeLocal false) s := rfl
theorem exec_stsv (f : Fields) (s : State) : exec (.stsv f) s = issue (.stsv f) .lanes (storeLocal true) s := rfl

/-! An element outside L. -/

theorem elSpans_outside (e : Bits512) (n : Nat) (vec : Bool) : elSpans e vec [(n, none)] = [] := by
  cases vec <;> simp [elSpans, elAddrs, scaleAddrs]

theorem spansBad_nil (k : Part) : spansBad k [] = none := List.find?_eq_none.mpr (fun _ _ => Bool.false_ne_true)

theorem loadedEff_outside (s : State) (f : Fields) (e : Bits512) (n : Nat) (rd : Nat → Nat → Nat) :
    loadedEff s f false e [(n, none)] rd = .done (writeD s f 0) := loadedEff_ok rfl

end Sys2Proof.Machine

open Sys2Proof.Claims Sys2Proof.Machine

/-- Settles O26: a local access is one list of elements, checked whole, and then the reads or writes of their words, which a step may
take one by one; the bytes of a store are one map, so that an element's byte reads as written and every other as before. -/
theorem scratchpadAccesses : Obligations.ScratchpadAccesses := by
  unfold Obligations.ScratchpadAccesses
  refine ⟨localLoad_traps (fun _ => rfl) exec_lds, fun s f e n idx h hread hwhole hplain honce => ?_, fun s f e n h hread => ?_,
    fun s f e els v h hread hwhole honce hv => ?_, fun s f e els t h hread hwhole honce ht => ?_,
    localLoad_completes (fun _ => rfl) exec_lds (fun s f e els hplain hels => loadedEff_scalar_plain hplain (hels rfl) _),
    localLoad_traps (fun _ => rfl) exec_ldsv, fun s f e els h hread hwhole honce hbad => ?_,
    fun s f e els h hread hwhole honce hgood => ?_, fun s f e els h hread hwhole honce hty => ?_,
    localLoad_completes (fun _ => rfl) exec_ldsv (fun s f e els hplain _ =>
      ⟨_, loadedEff_vec (blockBad_plain hplain.2 els _), onlyCores_writeVec _ _ _ _ _ _⟩),
    localStore_row (fun _ => rfl) exec_sts, localStore_completes (fun _ => rfl) exec_sts,
    localStore_row (fun _ => rfl) exec_stsv, localStore_completes (fun _ => rfl) exec_stsv,
    localLoad_words (fun _ => rfl) exec_lds, localLoad_words (fun _ => rfl) exec_ldsv,
    localStore_words (fun _ => rfl) exec_sts, localStore_words (fun _ => rfl) exec_stsv⟩
  · exact localLoad_done (fun _ => rfl) exec_lds h hread hwhole honce (loadedEff_ok (scalarFrom_plain hplain _ n idx [] _))
  · have hnone := elSpans_outside e n false
    exact localLoad_done (fun _ => rfl) exec_lds h hread (hnone ▸ spansBad_nil s.part) (.inr (by rw [hnone]; exact Nat.zero_le 1))
      (loadedEff_outside s f e n _)
  · exact localLoad_done (fun _ => rfl) exec_lds h hread hwhole honce (loadedEff_ok hv)
  · exact localLoad_trap (fun _ => rfl) exec_lds h hread hwhole honce (loadedEff_error ht)
  · exact localLoad_trap (fun _ => rfl) exec_ldsv h hread hwhole honce (loadedEff_block hbad)
  · exact localLoad_done (fun _ => rfl) exec_ldsv h hread hwhole honce (loadedEff_vec hgood)
  · exact ⟨_, localLoad_done (fun _ => rfl) exec_ldsv h hread hwhole honce (loadedEff_vec (blockBad_plain hty els _)),
      fun i hi => elem_vectorFrom (fun a => scrNat_lt s.part a _) (nodup_of_accessEls (accessEls_of_localEls hread.1)) hi⟩
end

section
/-!
LDSF and STSF (R162, R204): a word found as it is needed, a wait under LIMIT, a word of another core.
-/
namespace Sys2Proof.Machine
open Sys2Proof.Claims

/-! The element of a word. -/

theorem tySize_le (ty : Nat) : tySize ty ≤ 18 := by
  unfold tySize
  split <;> omega

theorem scaleOff_plain {e : Bits512} (h : plainType e) (idx : List Int) : scaleOff e idx = none := by rw [scaleOff, if_neg h.1]

theorem elemRead_plain (k : Part) (off size : Nat) : elemRead k off size none = scrNat k off size := rfl

theorem elemBad_whole {k : Part} (h : k.badWords = []) (off size : Nat) (scale : Option Nat) : elemBad k off size scale = none := by
  cases scale with
  | none => simp only [elemBad, scrBad_none h]
  | some a => simp only [elemBad, scrBad_none h]

/-- A register from an element that is not decoded. -/
theorem elemVal_plain {e : Bits512} (h : plainType e) (flush : Bool) (idx : List Int) (k : Part) (off : Nat) :
    elemVal flush e idx (scrNat k off (tySize (layType e))) = .ok (loadImage (layType e) (scrNat k off (tySize (layType e)))) := by
  have hbits : 8 * tySize (layType e) ≤ 144 := by
    have := tySize_le (layType e)
    omega
  have hlt : scrNat k off (tySize (layType e)) < 2 ^ 144 := Nat.lt_of_lt_of_le (scrNat_lt k off _) (Nat.pow_le_pow_right (by omega) hbits)
  rw [elemVal, scalarLoadVal_plain h, Nat.mod_eq_of_lt hlt]

theorem takeEnd_ok {p : Pkg} {cx : Cx} {f : Fields} {e : Bits512} {idx : List Int} {v : Nat} {x : Word}
    (h : elemVal (flushes (curSlot p cx)) e idx v = .ok x) :
    takeEnd p cx f e idx v = .done (updPart p cx.core (fun k => writeScalar k cx.slot x f.d)) := by
  simp only [takeEnd, h]

/-! Waits (R261). -/

theorem startWait_limit0 {p : Pkg} {cx : Cx} (h : (curSlot p cx).waitlim = 0) (kind : WaitKind) :
    startWait p cx kind = .trap (waitTrap cx { kind := kind, deadline := cx.now, met := false, value := 0 }) := by
  simp only [startWait, h, if_true]
  rfl

theorem startWait_holds {p : Pkg} {cx : Cx} (h : (curSlot p cx).waitlim ≠ 0) (kind : WaitKind) :
    startWait p cx kind = .hold (limitMonitors (setHold p cx
      (.wait { kind := kind, deadline := cx.now + (curSlot p cx).waitlim.toNat, met := false, value := 0 })) cx.now cx.core) := if_neg h

/-- A waiter on a word changes nothing of its slot. -/
theorem curSlot_addWaiter {s : State} (h : s.cur.live = true) (w : Waiter) : curSlot (addWaiter s.pkg (cxOf s) w) (cxOf s) = s.cur := by
  have hpart : partOf (addWaiter s.pkg (cxOf s) w) s.core = { s.part with waiters := s.part.waiters ++ [w] } :=
    partOf_setPart_live (n := s.slot) h
  have hslot : curSlot (addWaiter s.pkg (cxOf s) w) (cxOf s) = slotOf (partOf (addWaiter s.pkg (cxOf s) w) s.core) s.slot := rfl
  rw [hslot, hpart]
  rfl

section
variable {s : State} {f : Fields} {e : Bits512} {idx : List Int}

/-- LDSF finds its word full. -/
theorem takeLocal_full (hclear : scrClear s.part (elSpans e false [(0, some idx)]) [] = true)
    (hfull : tagFree s.part true ((elemAddr e idx).toNat / 8) = true) (hwords : s.part.badWords = []) (hplain : plainType e) :
    takeLocal s.pkg (cxOf s) f e idx = .done (updPart
      (serveTag (updPart s.pkg s.core (fun k => setTag k ((elemAddr e idx).toNat / 8) false)) s.time s.core ((elemAddr e idx).toNat / 8))
      s.core (fun k => writeScalar k s.slot (loadImage (layType e) (scrNat s.part (elemAddr e idx).toNat (tySize (layType e)))) f.d)) := by
  have hclear' : scrClear (partOf s.pkg (cxOf s).core) (elSpans e false [(0, some idx)]) [] = true := hclear
  have hfull' : tagFree (partOf s.pkg (cxOf s).core) true ((elemAddr e idx).toNat / 8) = true := hfull
  have hbad' : elemBad (partOf s.pkg (cxOf s).core) (elemAddr e idx).toNat (tySize (layType e)) none = none := elemBad_whole hwords _ _ _
  simp only [takeLocal, hclear', hfull', scaleOff_plain hplain, hbad', Bool.true_eq_false, if_false, if_true, elemRead_plain]
  exact takeEnd_ok (elemVal_plain hplain _ idx s.part _)

/-- LDSF finds its word empty. -/
theorem takeLocal_empty (hclear : scrClear s.part (elSpans e false [(0, some idx)]) [] = true)
    (hempty : tagFree s.part true ((elemAddr e idx).toNat / 8) = false) : takeLocal s.pkg (cxOf s) f e idx =
      startWait (addWaiter s.pkg (cxOf s) (slotWaiter s.pkg (cxOf s) true (elemAddr e idx).toNat (tySize (layType e)) (scaleOff e idx) 0))
        (cxOf s) (.full ((elemAddr e idx).toNat / 8) e idx) := by
  have hclear' : scrClear (partOf s.pkg (cxOf s).core) (elSpans e false [(0, some idx)]) [] = true := hclear
  have hempty' : tagFree (partOf s.pkg (cxOf s).core) true ((elemAddr e idx).toNat / 8) = false := hempty
  simp only [takeLocal, hclear', hempty', Bool.true_eq_false, Bool.false_eq_true, if_false]

/-- STSF finds its word empty. -/
theorem putLocal_empty (hclear : scrClear s.part [] (elSpans e true [(0, some idx)]) = true)
    (hempty : tagFree s.part false ((elemAddr e idx).toNat / 8) = true) (v : Word) : putLocal s.pkg (cxOf s) e idx v =
      .done (serveTag (updPart s.pkg s.core (fun k => setTag (scrWrite k s.time (elemAddr e idx).toNat (leBytes (tySize (layType e)) v.toNat))
        ((elemAddr e idx).toNat / 8) true)) s.time s.core ((elemAddr e idx).toNat / 8)) := by
  have hclear' : scrClear (partOf s.pkg (cxOf s).core) [] (elSpans e true [(0, some idx)]) = true := hclear
  have hempty' : tagFree (partOf s.pkg (cxOf s).core) false ((elemAddr e idx).toNat / 8) = true := hempty
  simp only [putLocal, hclear', hempty', Bool.true_eq_false, if_false, if_true]
  rfl

end

/-! Words of another core. -/

/-- The reply that a slot waits for when it has asked one element of a core. -/
def askedReply (s : State) (e : Bits512) (idx : List Int) (deadline : Option Nat) : Reply :=
  { req := s.part.nextUid, left := 1, vals := [], refused := none, deadline := deadline,
    addr := [(0, homeAddr (homeOfEntry e).1 (homeOfEntry e).2 (elemAddr e idx).toNat)], timedOut := none, entry := e, idx := idx }

theorem askElement_sends {s : State} {e : Bits512} (h : reachable s.pkg (homeOfEntry e).1 = true) (idx : List Int) (deadline : Option Nat)
    (body : Nat → Nat → Nat → Option Nat → MsgBody) : askElement s.pkg (cxOf s) e idx deadline body =
      .hold (setHold (sendPkg (updPart s.pkg s.core (fun k => { k with nextUid := k.nextUid + 1 })) s.core (homeOfEntry e).1
        (homeOfEntry e).2 (asidOf s.part) (body s.part.nextUid (elemAddr e idx).toNat (tySize (layType e)) (scaleOff e idx))) (cxOf s)
        (.reply (askedReply s e idx deadline))) := if_pos h

/-- A free entry of the journal takes the message. -/
theorem sendJournal_free {p : Pkg} {cx : Cx} {n : Nat} (h : jFree (partOf p cx.core) = some n) (kind pkg dst addr : Nat) (seq : BitVec 32)
    (body : Nat → MsgBody) : ∃ q, sendJournal p cx kind pkg dst addr seq body = some q := by
  simp only [sendJournal, journalise, h]
  exact ⟨_, rfl⟩

/-- The deadline that travels: none with LIMIT 0, what remains to another package (R22, R205). -/
theorem sentDeadline_eq (s : State) (pkg : Nat) : sentDeadline s.pkg (cxOf s) pkg =
    if s.cur.waitlim = 0 then 0 else if pkg = s.pkg.regs.pkgnum then s.time + s.cur.waitlim.toNat else s.cur.waitlim.toNat := by
  have hcur : curSlot s.pkg (cxOf s) = s.cur := rfl
  have hnow : (cxOf s).now = s.time := rfl
  have hzero : s.cur.waitlim.toNat = 0 ↔ s.cur.waitlim = 0 := ⟨fun h => BitVec.eq_of_toNat_eq h, fun h => by rw [h]; rfl⟩
  simp only [sentDeadline, hcur, hnow, hzero]
  by_cases hlim : s.cur.waitlim = 0
  · simp only [hlim, true_or, if_true]
    rfl
  · by_cases hpkg : pkg = s.pkg.regs.pkgnum
    · simp only [hlim, hpkg, ne_eq, not_true, or_self, if_false, if_true]
    · simp only [hlim, hpkg, ne_eq, not_false_iff, or_true, if_false, if_true]

/-! The instructions. -/

theorem exec_ldsf (f : Fields) (s : State) : exec (.ldsf f) s = issue (.ldsf f) .lane0 ldsf s := rfl
theorem exec_stsf (f : Fields) (s : State) : exec (.stsf f) s = issue (.stsf f) .lane0 stsf s := rfl

section
variable {s : State} {f : Fields} (hhold : s.cur.hold = .none)
include hhold

theorem ldsf_error {t : Trap} (h : wordElement s.part (cxOf s) (opdLay f.a) (s.bVal f) false = .error t) :
    ldsf f (cxOf s) s.pkg = .trap t := by
  have hhold' : holdOf s.pkg (cxOf s) = .none := hhold
  have h' : wordElement (partOf s.pkg (cxOf s).core) (cxOf s) (opdLay f.a)
    (bScalar s.pkg (cxOf s).core (slotOf (partOf s.pkg (cxOf s).core) (cxOf s).slot) f.b) false = .error t := h
  simp only [ldsf, hhold', h']

theorem stsf_error {t : Trap} (h : wordElement s.part (cxOf s) (opdLay f.d) (s.aVal f) true = .error t) :
    stsf f (cxOf s) s.pkg = .trap t := by
  have hhold' : holdOf s.pkg (cxOf s) = .none := hhold
  have h' : wordElement (partOf s.pkg (cxOf s).core) (cxOf s) (opdLay f.d)
    (opdScalar (slotOf (partOf s.pkg (cxOf s).core) (cxOf s).slot) f.a) true = .error t := h
  simp only [stsf, hhold', h']

variable {e : Bits512} {idx : List Int}

section
variable (hel : fullWord s f false e idx)
include hel

theorem ldsf_element : ldsf f (cxOf s) s.pkg =
    if laySpace e = 1 then takeLocal s.pkg (cxOf s) f e idx
    else askElement s.pkg (cxOf s) e idx (some (s.time + s.cur.waitlim.toNat))
      (fun req off size sc => .takeFull off size sc (sentDeadline s.pkg (cxOf s) (homeOfEntry e).1) req) := by
  have hhold' : holdOf s.pkg (cxOf s) = .none := hhold
  have hel' : wordElement (partOf s.pkg (cxOf s).core) (cxOf s) (opdLay f.a)
    (bScalar s.pkg (cxOf s).core (slotOf (partOf s.pkg (cxOf s).core) (cxOf s).slot) f.b) false = .ok (e, idx) := hel
  simp only [ldsf, hhold', hel']
  rfl

theorem ldsf_local (h : laySpace e = 1) : ldsf f (cxOf s) s.pkg = takeLocal s.pkg (cxOf s) f e idx :=
  (ldsf_element hhold hel).trans (if_pos h)

theorem ldsf_remote (h : laySpace e = 2) (hreach : reachable s.pkg (homeOfEntry e).1 = true) : ldsf f (cxOf s) s.pkg =
    .hold (setHold (sendPkg (updPart s.pkg s.core (fun k => { k with nextUid := k.nextUid + 1 })) s.core (homeOfEntry e).1
      (homeOfEntry e).2 (asidOf s.part) (.takeFull (elemAddr e idx).toNat (tySize (layType e)) (scaleOff e idx)
        (sentDeadline s.pkg (cxOf s) (homeOfEntry e).1) s.part.nextUid)) (cxOf s)
      (.reply (askedReply s e idx (some (s.time + s.cur.waitlim.toNat))))) :=
  ((ldsf_element hhold hel).trans (if_neg (by omega))).trans (askElement_sends hreach _ _ _)

end

section
variable (hel : fullWord s f true e idx)
include hel

theorem stsf_local (h : laySpace e = 1) : stsf f (cxOf s) s.pkg = putLocal s.pkg (cxOf s) e idx (elemOf e (s.bVal f)) := by
  have hhold' : holdOf s.pkg (cxOf s) = .none := hhold
  have hel' : wordElement (partOf s.pkg (cxOf s).core) (cxOf s) (opdLay f.d)
    (opdScalar (slotOf (partOf s.pkg (cxOf s).core) (cxOf s).slot) f.a) true = .ok (e, idx) := hel
  simp only [stsf, hhold', hel', if_pos h]
  rfl

theorem stsf_remote {q : Pkg} (h : laySpace e = 2) (hreach : reachable s.pkg (homeOfEntry e).1 = true)
    (hq : sendJournal (takeReq s.pkg s.core).2 (cxOf s) 3 (homeOfEntry e).1 (homeOfEntry e).2
      (homeAddr (homeOfEntry e).1 (homeOfEntry e).2 (elemAddr e idx).toNat) 0
      (fun uid => .putEmpty (elemAddr e idx).toNat (tySize (layType e)) (elemOf e (s.bVal f))
        (sentDeadline s.pkg (cxOf s) (homeOfEntry e).1) s.part.nextUid uid) = some q) :
    stsf f (cxOf s) s.pkg = .hold (setHold q (cxOf s) (.reply (askedReply s e idx (some (s.time + s.cur.waitlim.toNat))))) := by
  have hhold' : holdOf s.pkg (cxOf s) = .none := hhold
  have hel' : wordElement (partOf s.pkg (cxOf s).core) (cxOf s) (opdLay f.d)
    (opdScalar (slotOf (partOf s.pkg (cxOf s).core) (cxOf s).slot) f.a) true = .ok (e, idx) := hel
  have hspace : laySpace e ≠ 1 := by omega
  have hq' : sendJournal (takeReq s.pkg (cxOf s).core).2 (cxOf s) 3 (homeOfEntry e).1 (homeOfEntry e).2
      (homeAddr (homeOfEntry e).1 (homeOfEntry e).2 (elemAddr e idx).toNat) 0
      (fun uid => .putEmpty (elemAddr e idx).toNat (tySize (layType e))
        (elemOf e (bScalar s.pkg (cxOf s).core (slotOf (partOf s.pkg (cxOf s).core) (cxOf s).slot) f.b))
        (sentDeadline s.pkg (cxOf s) (homeOfEntry e).1) (takeReq s.pkg (cxOf s).core).1 uid) = some q := hq
  simp only [stsf, hhold', hel', if_neg hspace, hq', if_pos hreach]
  rfl

end

end

section
variable {s : State} {f : Fields} {e : Bits512} {idx : List Int} (h : runs (.ldsf f) .lane0 s = true) (hel : fullWord s f false e idx)
  (hspace : laySpace e = 1) (hclear : scrClear s.part (elSpans e false [(0, some idx)]) [] = true)
  (hempty : tagFree s.part true ((elemAddr e idx).toNat / 8) = false)
include h hel hspace hclear hempty

theorem ldsf_begins : ldsf f (cxOf s) s.pkg = startWait
    (addWaiter s.pkg (cxOf s) (slotWaiter s.pkg (cxOf s) true (elemAddr e idx).toNat (tySize (layType e)) (scaleOff e idx) 0))
    (cxOf s) (.full ((elemAddr e idx).toNat / 8) e idx) :=
  (ldsf_local (hold_of_runs rfl h).2 hel hspace).trans (takeLocal_empty hclear hempty)

theorem exec_ldsf_limit0 (hlim : s.cur.waitlim = 0) : exec (.ldsf f) s =
    .next (trapState s f (timeoutTrap (cxOf s) 1 s.time (some (8 * ((elemAddr e idx).toNat / 8), s.core)))) := by
  have hcur := curSlot_addWaiter (hold_of_runs rfl h).1
    (slotWaiter s.pkg (cxOf s) true (elemAddr e idx).toNat (tySize (layType e)) (scaleOff e idx) 0)
  exact (exec_ldsf f s).trans (issue_trap rfl h ((ldsf_begins h hel hspace hclear hempty).trans
    (startWait_limit0 (by rw [hcur, hlim]) _)))

theorem exec_ldsf_waits (hlim : s.cur.waitlim ≠ 0) : exec (.ldsf f) s = .next (heldState s f (limitMonitors (setHold
    (addWaiter s.pkg (cxOf s) (slotWaiter s.pkg (cxOf s) true (elemAddr e idx).toNat (tySize (layType e)) (scaleOff e idx) 0)) (cxOf s)
    (.wait { kind := .full ((elemAddr e idx).toNat / 8) e idx, deadline := s.time + s.cur.waitlim.toNat, met := false, value := 0 }))
    s.time s.core)) := by
  have hcur := curSlot_addWaiter (hold_of_runs rfl h).1
    (slotWaiter s.pkg (cxOf s) true (elemAddr e idx).toNat (tySize (layType e)) (scaleOff e idx) 0)
  have hholds := startWait_holds (by rw [hcur]; exact hlim) (.full ((elemAddr e idx).toNat / 8) e idx)
  rw [hcur] at hholds
  exact (exec_ldsf f s).trans (issue_hold rfl h ((ldsf_begins h hel hspace hclear hempty).trans hholds))

end

end Sys2Proof.Machine

open Sys2Proof.Claims Sys2Proof.Machine

/-- Settles O27: the element once checked, a local word is found as it is needed or waited for, a word of another core is asked of its
home under a reply. -/
theorem fullEmptyWords : Obligations.FullEmptyWords := by
  unfold Obligations.FullEmptyWords
  refine ⟨fun s f t h ht => (exec_ldsf f s).trans (issue_trap rfl h (ldsf_error (hold_of_runs rfl h).2 ht)), fun s f e idx h hel =>
    ⟨fun hspace hclear => ⟨fun hfull hwords hplain => ?_, exec_ldsf_limit0 h hel hspace hclear, fun hempty hlim =>
      ⟨_, rfl, rfl, rfl, rfl, rfl, exec_ldsf_waits h hel hspace hclear hempty hlim⟩⟩, fun hspace hreach =>
      ⟨askedReply s e idx (some (s.time + s.cur.waitlim.toNat)), rfl, rfl, rfl, rfl, rfl, ?_⟩⟩,
    fun s f t h ht => (exec_stsf f s).trans (issue_trap rfl h (stsf_error (hold_of_runs rfl h).2 ht)), fun s f e idx h hel =>
    ⟨fun hspace hclear hempty => ?_, fun n hspace hreach hfree => ?_⟩⟩
  · exact (exec_ldsf f s).trans (issue_done rfl h ((ldsf_local (hold_of_runs rfl h).2 hel hspace).trans
      (takeLocal_full hclear hfull hwords hplain)))
  · have hasks := ldsf_remote (hold_of_runs rfl h).2 hel hspace hreach
    rw [sentDeadline_eq] at hasks
    exact (exec_ldsf f s).trans (issue_hold rfl h hasks)
  · exact (exec_stsf f s).trans (issue_done rfl h ((stsf_local (hold_of_runs rfl h).2 hel hspace).trans (putLocal_empty hclear hempty _)))
  · obtain ⟨q, hq⟩ := sendJournal_free (cx := cxOf s) hfree 3 (homeOfEntry e).1 (homeOfEntry e).2
      (homeAddr (homeOfEntry e).1 (homeOfEntry e).2 (elemAddr e idx).toNat) 0
      (fun uid => .putEmpty (elemAddr e idx).toNat (tySize (layType e)) (elemOf e (s.bVal f))
        (sentDeadline s.pkg (cxOf s) (homeOfEntry e).1) s.part.nextUid uid)
    exact ⟨q, _, rfl, rfl, hq, (exec_stsf f s).trans (issue_hold rfl h (stsf_remote (hold_of_runs rfl h).2 hel hspace hreach hq))⟩
end

section
/-!
LD and LDV (R145, R187, R191): at once, left to a reply, or after a push.
-/
namespace Sys2Proof.Machine
open Sys2Proof.Claims

/-! A load past its checks. -/

/-- What a load that is performed comes to. -/
def performedEff (f : Fields) (cx : Cx) (r : Except Trap (Pkg × Loaded × Bool)) : Eff :=
  match r with
  | .error t => .trap t
  | .ok (p, v, nv) => .done (writeLoaded p cx f v nv)

section
variable {s : State} {f : Fields} {w : Word} {l : Load} {scope : Nat}
  (hkeys : keysFree s l.lvl (probeAll l.xl (accGranules l.e l.vec l.els)))
include hkeys

theorem keys_wait_not : (aliasBusy s.pkg (cxOf s) (probeAll l.xl (accGranules l.e l.vec l.els)) ||
    (probeAll l.xl (accGranules l.e l.vec l.els)).any (readWaits s.pkg (cxOf s).now (cxOf s).core l.lvl)) = false := by
  obtain ⟨halias, hwaits⟩ := hkeys
  exact Bool.or_eq_false_iff.mpr ⟨halias, hwaits⟩

/-- A weak load whose turn it is reads now. -/
theorem doLoad_reads (hlater : s.turn.later = false) :
    doLoad s.pkg (cxOf s) f w l scope false = performedEff f (cxOf s) (performLoad s.pkg (cxOf s) s.core l) := by
  have hlater' : (cxOf s).later = false := hlater
  have hfree := keys_wait_not hkeys
  simp only [doLoad, hfree, hlater', Bool.false_and, Bool.and_false, Bool.not_false, Bool.false_eq_true, Bool.true_eq_false, false_and,
    or_self, if_false]
  split <;> rfl

/-- A weak load may leave its destination to the reply. -/
theorem doLoad_leaves {d : Dest} (hlater : s.turn.later = true) (hmay : mayWait l.e l.vec = true)
    (hdest : loadDest s.part s.slot f.d = some d)
    (hgood : loadBad s.pkg s.time s.core l.lvl l.xl (accGranules l.e l.vec l.els) = none) :
    doLoad s.pkg (cxOf s) f w l scope false = .done (changeCur s (fun x => { x with
      loads := x.loads ++ [⟨l.e, w, l.vec, d, lanesOf s f, l.long, l.xl, s.cur.pc⟩] })) := by
  have hlater' : (cxOf s).later = true := hlater
  have hdest' : loadDest (partOf s.pkg (cxOf s).core) (cxOf s).slot f.d = some d := hdest
  have hgood' : loadBad s.pkg (cxOf s).now (cxOf s).core l.lvl l.xl (accGranules l.e l.vec l.els) = none := hgood
  have hfree := keys_wait_not hkeys
  simp only [doLoad, hfree, hlater', hmay, hdest', hgood', Bool.false_and, Bool.and_true, Bool.not_false, Bool.false_eq_true,
    Bool.true_eq_false, false_and, or_self, if_false, Option.isNone_none, if_true]
  rfl

/-- A strong load reads once its push is done. -/
theorem doLoad_pushed {p1 : Pkg} (hgang : (coreOf s.pkg s.core).switching = false)
    (hpush : pushKeys s.pkg s.time s.core scope (probeAll l.xl (accGranules l.e l.vec l.els)) = (p1, true))
    (hahead : behindRegion p1 s.core l.lvl (probeAll l.xl (accGranules l.e l.vec l.els)) = false) :
    doLoad s.pkg (cxOf s) f w l scope true = performedEff f (cxOf s) (performLoad p1 (cxOf s) s.core l) := by
  have hgang' : (coreOf s.pkg (cxOf s).core).switching = false := hgang
  have hpush' : pushKeys s.pkg (cxOf s).now (cxOf s).core scope (probeAll l.xl (accGranules l.e l.vec l.els)) = (p1, true) := hpush
  have hahead' : behindRegion p1 (cxOf s).core l.lvl (probeAll l.xl (accGranules l.e l.vec l.els)) = false := hahead
  have hfree := keys_wait_not hkeys
  simp only [doLoad, hfree, hgang', hpush', hahead', Bool.and_false, Bool.not_true, Bool.false_and, Bool.false_eq_true,
    Bool.true_eq_false, and_false, or_self, if_false, if_true]
  split <;> rfl

end

/-! A load of the current slot. -/

/-- The load of an access. -/
def loadOf (s : State) (f : Fields) (vec : Bool) (lvl : Nat) (a : Access) : Load := ⟨a.e, a.els, vec, a.xs, lvl, f.long, flushes s.cur⟩

section
variable {s : State} {f : Fields} {vec : Bool} (hhold : s.cur.hold = .none)
include hhold

theorem loadGlobal_error {t : Trap} (h : entryFor s.part (opdLay f.a) (s.bVal f) [0] = .error t) :
    loadGlobal vec f (cxOf s) s.pkg = .trap t := by
  have h' : entryNow (partOf s.pkg (cxOf s).core) (slotOf (partOf s.pkg (cxOf s).core) (cxOf s).slot) (opdLay f.a)
    (bScalar s.pkg (cxOf s).core (slotOf (partOf s.pkg (cxOf s).core) (cxOf s).slot) f.b) [0] = .error t :=
    (entryNow_fresh hhold _ _ _).trans h
  simp only [loadGlobal, h']

/-- A readable access goes on as a load. -/
theorem loadGlobal_goes {a : Access} (h : globalRead s f vec (if ordOf f = 0 then 0 else scopeLevel (scopeOf f)) a) :
    loadGlobal vec f (cxOf s) s.pkg = doLoad s.pkg (cxOf s) f (s.bVal f)
      (loadOf s f vec (if ordOf f = 0 then 0 else scopeLevel (scopeOf f)) a) (scopeOf f) (decide (ordOf f ≠ 0)) := by
  obtain ⟨hentry, hels, hbusy, hxs, -⟩ := h
  have hentry' : entryNow (partOf s.pkg (cxOf s).core) (slotOf (partOf s.pkg (cxOf s).core) (cxOf s).slot) (opdLay f.a)
    (bScalar s.pkg (cxOf s).core (slotOf (partOf s.pkg (cxOf s).core) (cxOf s).slot) f.b) [0] = .ok a.e :=
    (entryNow_fresh hhold _ _ _).trans hentry
  have hels' : accessEls (cxOf s) a.e (bScalar s.pkg (cxOf s).core (slotOf (partOf s.pkg (cxOf s).core) (cxOf s).slot) f.b) (opdLay f.a)
    vec false (guardMask (slotOf (partOf s.pkg (cxOf s).core) (cxOf s).slot) f) = .ok a.els := hels
  have hbusy' : granuleBusy (partOf s.pkg (cxOf s).core) (cxOf s).slot (accGranules a.e vec a.els) = false := hbusy
  have hxs' := (translateHeld_fresh hhold _ _ _).trans hxs
  have hlvl : (if decide (ordOf f ≠ 0) = true then scopeLevel (scopeOf f) else 0) =
      if ordOf f = 0 then 0 else scopeLevel (scopeOf f) := by
    by_cases hord : ordOf f = 0
    · simp only [hord, ne_eq, not_true, decide_false, Bool.false_eq_true, if_false, if_true]
    · simp only [hord, ne_eq, not_false_iff, decide_true, if_true, if_false]
  simp only [loadGlobal, hentry', hels', hbusy', hxs', Bool.false_eq_true, if_false, hlvl]
  rfl

end

/-! The instructions. -/

section
variable {i : Fields → Instr} {g : Guarding} {vec : Bool} {c : Nat} (hw : ∀ f, (i f).word = some (c, f))
  (hexec : ∀ f s, exec (i f) s = issue (i f) g (loadGlobal vec) s)
include hw hexec

theorem load_row : loadRow i g vec := by
  refine ⟨fun s f t h ht => (hexec f s).trans (issue_trap (hw f) h (loadGlobal_error (hold_of_runs (hw f) h).2 ht)), ?_⟩
  intro s f a h lvl l hread
  have hgoes := loadGlobal_goes (hold_of_runs (hw f) h).2 hread
  obtain ⟨-, -, -, -, hkeys⟩ := hread
  have hweak (hord : ordOf f = 0) : loadGlobal vec f (cxOf s) s.pkg = doLoad s.pkg (cxOf s) f (s.bVal f) l (scopeOf f) false :=
    hgoes.trans (congrArg _ (decide_eq_false (not_not_intro hord)))
  refine ⟨fun p v nv hord hlater hp => ?now, fun d hord hlater hmay hd hgood => ?left, fun t hord hlater ht => ?trap,
    fun p1 p v nv hord hgang hpush hahead hp => ?strong⟩
  case now =>
    have hreads := doLoad_reads (f := f) (w := s.bVal f) (scope := scopeOf f) (l := l) hkeys hlater
    rw [hp] at hreads
    exact (hexec f s).trans (issue_done (hw f) h ((hweak hord).trans hreads))
  case left =>
    have hlvl : lvl = 0 := if_pos hord
    have hgood' : loadBad s.pkg s.time s.core lvl a.xs (accGranules a.e vec a.els) = none := hlvl ▸ hgood
    exact (hexec f s).trans (issue_done (hw f) h ((hweak hord).trans
      (doLoad_leaves (w := s.bVal f) (scope := scopeOf f) (l := l) hkeys hlater hmay hd hgood')))
  case trap =>
    have hreads := doLoad_reads (f := f) (w := s.bVal f) (scope := scopeOf f) (l := l) hkeys hlater
    rw [ht] at hreads
    exact (hexec f s).trans (issue_trap (hw f) h ((hweak hord).trans hreads))
  case strong =>
    have hpushed := doLoad_pushed (f := f) (w := s.bVal f) (scope := scopeOf f) (l := l) hkeys hgang hpush hahead
    rw [hp] at hpushed
    have hstrong : loadGlobal vec f (cxOf s) s.pkg = doLoad s.pkg (cxOf s) f (s.bVal f) l (scopeOf f) true :=
      hgoes.trans (congrArg _ (decide_eq_true hord))
    exact (hexec f s).trans (issue_done (hw f) h (hstrong.trans hpushed))

end

theorem exec_ld (f : Fields) (s : State) : exec (.ld f) s = issue (.ld f) .lane0 (loadGlobal false) s := rfl
theorem exec_ldv (f : Fields) (s : State) : exec (.ldv f) s = issue (.ldv f) .lanes (loadGlobal true) s := rfl

/-! The reply. -/

/-- A load whose reply comes: its translations hold, no key of it is destroyed, and nothing that answers its probes defers it. -/
theorem loadReply_performs {p q : Pkg} {cx : Cx} {c n i : Nat} {l : OutLoad} {els : List El} {xs : List Xlat} {v : Loaded} {nv : Bool}
    (hl : (slotOf (partOf p c) n).loads[i]? = some l) (hels : accessEls cx l.entry l.coords 0 l.vec false l.guard = .ok els)
    (hgang : (coreOf p c).switching = false) (hstale : ∀ x ∈ l.xl, staleKey p x = false)
    (hxs : replyXlats p cx.now c l (accAddrs l.entry l.vec els) = .ok xs)
    (hwaits : (probeAll xs (accGranules l.entry l.vec els)).any (readWaits p cx.now c 0) = false)
    (hp : performLoad p cx c ⟨l.entry, els, l.vec, xs, 0, l.long, flushes (slotOf (partOf p c) n)⟩ = .ok (q, v, nv)) :
    loadReply p cx c n i =
      updPart q c (fun k => updSlot (writeReply k n l v nv) n (fun x => { x with loads := x.loads.eraseIdx i })) := by
  have hfresh : l.xl.find? (staleKey p) = none := List.find?_eq_none.mpr (fun x hx => Bool.eq_false_iff.mp (hstale x hx))
  simp only [loadReply, hl, hels, hgang, hfresh, hxs, hwaits, hp, Bool.false_and, Bool.false_eq_true, if_false]

theorem eventTo_loadReply {s : State} {c n i : Nat} {q : Pkg} (hlive : (slotOf (partOf s.pkg c) n).live = true)
    (h : loadReply s.pkg (cxOf s) c n i = q) : eventTo (.loadReply c n i) s q := by
  have hevent : exec (.loadReply c n i) s =
    .next (s.with (if (slotOf (partOf s.pkg c) n).live then loadReply s.pkg (cxOf s) c n i else s.pkg)) := rfl
  rw [eventTo, hevent, if_pos hlive, h]

end Sys2Proof.Machine

open Sys2Proof.Claims Sys2Proof.Machine

/-- Settles O20: a readable access is one load, which reads at once, is left to its reply or comes after its push; the image of a vector
load is a number in base 2^(8 size) whose digits are the elements. -/
theorem loadResults : Obligations.LoadResults := by
  unfold Obligations.LoadResults
  refine ⟨load_row (fun _ => rfl) exec_ld, load_row (fun _ => rfl) exec_ldv, fun e els m i hnd hi _ _ =>
    elem_vectorFrom (fun a => granuleBytes_lt m a _) hnd hi, fun s c n i l els p v nv hlive hl hels hgang hstale xs hxs hwaits hp =>
    eventTo_loadReply hlive (loadReply_performs hl hels hgang hstale hxs hwaits hp)⟩
end

section
/-!
The pieces of a store (R193): for each granule its mask and its bytes.
-/
namespace Sys2Proof.Machine

/-! Bytes of a field. -/

theorem fld_setFld_same {n : Nat} (x : BitVec n) {lo len : Nat} (h : lo + len ≤ n) (v : Nat) : fld (setFld x lo len v) lo len = v % 2 ^ len := by
  refine Nat.eq_of_testBit_eq (fun i => ?_)
  rw [testBit_fld, Nat.testBit_mod_two_pow]
  by_cases hi : i < len
  · rw [getLsbD_setFld x lo len v (by omega), if_pos (by omega), Nat.add_sub_cancel_left]
  · rw [decide_eq_false hi, Bool.false_and, Bool.false_and]

theorem fld_setFld_other {n : Nat} (x : BitVec n) {lo lo' len : Nat} (h : lo' + len ≤ n) (hlo : lo' + len ≤ lo ∨ lo + len ≤ lo') (v : Nat) :
    fld (setFld x lo len v) lo' len = fld x lo' len := by
  refine Nat.eq_of_testBit_eq (fun i => ?_)
  rw [testBit_fld, testBit_fld]
  by_cases hi : i < len
  · rw [getLsbD_setFld x lo len v (by omega), if_neg (by omega)]
  · rw [decide_eq_false hi, Bool.false_and, Bool.false_and]

/-- A mask with one bit more. -/
theorem getLsbD_or_bit (m : BitVec 32) {i k : Nat} (hi : i < 32) :
    (m ||| BitVec.ofNat 32 (2 ^ k)).getLsbD i = (m.getLsbD i || decide (i = k)) := by
  rw [BitVec.getLsbD_or, BitVec.getLsbD_ofNat, decide_eq_true hi, Bool.true_and, Nat.testBit_two_pow]
  simp only [eq_comm]

/-! The pieces of one element. -/

/-- A piece of the first J bytes of the element at address a that are kept: the granule, which of its bytes are stored, and what each is. -/
def pieceOf (a v J key : Nat) (keep : Nat → Bool) (q : Piece) : Prop :=
  q.va = 32 * key ∧ ∀ i < 32, q.mask.getLsbD i = (decide (a ≤ 32 * key + i) && decide (32 * key + i < a + J) && keep (32 * key + i - a)) ∧
    (q.mask.getLsbD i = true → fld q.payload (8 * i) 8 = v / 2 ^ (8 * (32 * key + i - a)) % 256)

/-- The piece of a granule, none of whose bytes may be stored yet. -/
def pieceAt (m : SMap Piece) (key : Nat) : Piece := mapGet ⟨32 * key, 0, 0⟩ m key

/-- The pieces after the first J bytes of the element. -/
def piecesOf (a v J : Nat) (keep : Nat → Bool) (m : SMap Piece) : Prop :=
  mapSorted 0 m = true ∧ (∀ key q, mapFind m key = some q → q.mask ≠ 0) ∧ ∀ key, pieceOf a v J key keep (pieceAt m key)

/-- One byte of the element, where it is kept. -/
def pieceByte (a v : Nat) (keep : Nat → Bool) (m : SMap Piece) (j : Nat) : SMap Piece :=
  if keep j then addPiece m (a + j) (BitVec.ofNat 8 (v >>> (8 * j))) else m

theorem piecesOf_nil (a v : Nat) (keep : Nat → Bool) : piecesOf a v 0 keep [] := by
  refine ⟨rfl, fun _ q h => absurd h.symm (Option.some_ne_none q), fun key => ⟨rfl, fun i hi => ⟨?_, fun h => ?_⟩⟩⟩
  · have hempty : (decide (a ≤ 32 * key + i) && decide (32 * key + i < a + 0)) = false := by
      rw [Bool.and_eq_false_iff, decide_eq_false_iff_not, decide_eq_false_iff_not]
      omega
    rw [hempty, Bool.false_and]
    exact BitVec.getLsbD_zero
  · exact absurd (BitVec.getLsbD_zero.symm.trans h) Bool.false_ne_true

section
variable {a v J key : Nat} {keep : Nat → Bool} {q : Piece}

/-- The next byte lies elsewhere, or is not kept. -/
theorem pieceOf_next_other (h : pieceOf a v J key keep q) (hother : (a + J) / 32 ≠ key ∨ keep J = false) : pieceOf a v (J + 1) key keep q := by
  obtain ⟨hva, hbits⟩ := h
  refine ⟨hva, fun i hi => ⟨(hbits i hi).1.trans ?_, (hbits i hi).2⟩⟩
  by_cases hJ : 32 * key + i = a + J
  · have hkeep : keep (32 * key + i - a) = false := by
      rw [hJ, Nat.add_sub_cancel_left]
      exact hother.resolve_left (fun h => h (by omega))
    rw [hkeep, Bool.and_false, Bool.and_false]
  · have hlt : decide (32 * key + i < a + (J + 1)) = decide (32 * key + i < a + J) := decide_eq_decide.mpr (by omega)
    rw [hlt]

/-- The next byte lies in this granule. -/
theorem pieceOf_next_here (h : pieceOf a v J key keep q) (hkey : (a + J) / 32 = key) (hkeep : keep J = true) :
    pieceOf a v (J + 1) key keep { q with
      mask := q.mask ||| BitVec.ofNat 32 (2 ^ ((a + J) % 32))
      payload := setFld q.payload (8 * ((a + J) % 32)) 8 (BitVec.ofNat 8 (v >>> (8 * J))).toNat } := by
  obtain ⟨hva, hbits⟩ := h
  refine ⟨hva, fun i hi => ?_⟩
  simp only [getLsbD_or_bit _ hi]
  by_cases hJ : i = (a + J) % 32
  · have hplace : 32 * key + i = a + J := by omega
    have hle : decide (a ≤ a + J) = true := decide_eq_true (by omega)
    have hlt : decide (a + J < a + (J + 1)) = true := decide_eq_true (by omega)
    have hsub : a + J - a = J := Nat.add_sub_cancel_left a J
    refine ⟨?_, fun _ => ?_⟩
    · simp only [hplace, hle, hlt, hsub, hkeep, decide_eq_true hJ, Bool.or_true, Bool.and_true]
    · rw [← hJ, hplace, hsub, fld_setFld_same _ (by omega), BitVec.toNat_ofNat, Nat.shiftRight_eq_div_pow, Nat.mod_mod]
  · have hlt : decide (32 * key + i < a + (J + 1)) = decide (32 * key + i < a + J) := decide_eq_decide.mpr (by omega)
    rw [decide_eq_false hJ, Bool.or_false, hlt, fld_setFld_other _ (by omega) (by omega)]
    exact hbits i hi

end

theorem pieceAt_insert_self (m : SMap Piece) (key : Nat) (q : Piece) : pieceAt (mapInsert m key q) key = q := by
  rw [pieceAt, mapGet, mapFind_insert_self]
  rfl

theorem pieceAt_insert_other (m : SMap Piece) {key k : Nat} (q : Piece) (h : k ≠ key) : pieceAt (mapInsert m key q) k = pieceAt m k := by
  rw [pieceAt, mapGet, mapFind_insert_other m q h]
  rfl

theorem piecesOf_next {a v J : Nat} {keep : Nat → Bool} {m : SMap Piece} (h : piecesOf a v J keep m) :
    piecesOf a v (J + 1) keep (pieceByte a v keep m J) := by
  obtain ⟨hsorted, hmask, hpiece⟩ := h
  cases hkeep : keep J with
  | false =>
    rw [pieceByte, hkeep]
    exact ⟨hsorted, hmask, fun key => pieceOf_next_other (hpiece key) (.inr hkeep)⟩
  | true =>
    have hnow := pieceOf_next_here (hpiece ((a + J) / 32)) rfl hkeep
    have hadd : pieceByte a v keep m J = mapInsert m ((a + J) / 32) { pieceAt m ((a + J) / 32) with
        mask := (pieceAt m ((a + J) / 32)).mask ||| BitVec.ofNat 32 (2 ^ ((a + J) % 32))
        payload := setFld (pieceAt m ((a + J) / 32)).payload (8 * ((a + J) % 32)) 8 (BitVec.ofNat 8 (v >>> (8 * J))).toNat } := by
      rw [pieceByte, hkeep, if_pos rfl, addPiece, pieceAt, Nat.mul_comm 32]
    rw [hadd]
    refine ⟨mapSorted_insert hsorted (Nat.zero_le _) _, fun key q hq => ?_, fun key => ?_⟩ <;> by_cases hk : key = (a + J) / 32
    · obtain rfl := hk
      rw [mapFind_insert_self] at hq
      cases hq
      intro hzero
      have hbit := congrArg (·.getLsbD ((a + J) % 32)) hzero
      simp only [getLsbD_or_bit _ (Nat.mod_lt _ (by omega : 0 < 32)), decide_true, Bool.or_true] at hbit
      exact absurd (BitVec.getLsbD_zero.symm.trans hbit.symm) Bool.false_ne_true
    · rw [mapFind_insert_other _ _ hk] at hq
      exact hmask key q hq
    · obtain rfl := hk
      rw [pieceAt_insert_self]
      exact hnow
    · rw [pieceAt_insert_other _ _ hk]
      exact pieceOf_next_other (hpiece key) (.inl (Ne.symm hk))

theorem piecesOf_range (a v : Nat) (keep : Nat → Bool) (J : Nat) : piecesOf a v J keep ((List.range J).foldl (pieceByte a v keep) []) := by
  induction J with
  | zero => exact piecesOf_nil a v keep
  | succ J ih =>
    rw [List.range_succ, List.foldl_append]
    exact piecesOf_next ih

theorem storePieces_one (e : Bits512) (n : Nat) (idx : List Int) (v : Nat) (keep : Nat → Nat → Bool) :
    storePieces e [(n, some idx)] (fun _ => v) keep =
      ((List.range (tySize (layType e))).foldl (pieceByte (elemAddr e idx).toNat v (keep n)) []).map (·.2) := rfl

/-- A piece of a store of one element is that of its granule, and not empty. -/
theorem pieceOf_storePieces {e : Bits512} {n : Nat} {idx : List Int} {v : Nat} {keep : Nat → Nat → Bool} {q : Piece}
    (h : q ∈ storePieces e [(n, some idx)] (fun _ => v) keep) :
    ∃ key, pieceOf (elemAddr e idx).toNat v (tySize (layType e)) key (keep n) q ∧ q.mask ≠ 0 := by
  obtain ⟨hsorted, hmask, hpiece⟩ := piecesOf_range (elemAddr e idx).toNat v (keep n) (tySize (layType e))
  rw [storePieces_one] at h
  obtain ⟨⟨key, q⟩, hmem, rfl⟩ := List.mem_map.mp h
  have hfind := mapFind_of_mem_sorted hsorted hmem
  have hat : pieceAt ((List.range (tySize (layType e))).foldl (pieceByte (elemAddr e idx).toNat v (keep n)) []) key = q := by
    rw [pieceAt, mapGet, hfind]
    rfl
  exact ⟨key, hat ▸ hpiece key, hmask key q hfind⟩

end Sys2Proof.Machine
end

section
/-!
ST and STV (R141, R165, R166, R168, R172, R190, R193): posted, journaled, or joined to the run of a level.
-/
namespace Sys2Proof.Machine
open Sys2Proof.Claims

/-! Records. -/

section
variable (mk : BitVec 32 → Piece → Rec)

theorem keys_numberRecs (ps : SMap Piece) (seq : BitVec 32) : (numberRecs mk ps seq).map (·.1) = ps.map (·.1) := by
  induction ps generalizing seq with
  | nil => rfl
  | cons x rest ih => exact congrArg (x.1 :: ·) (ih (seq + 1))

/-- Record number j is that of piece number j, numbered j past the first. -/
theorem getElem?_numberRecs (ps : SMap Piece) (seq : BitVec 32) (j : Nat) :
    (numberRecs mk ps seq)[j]? = ps[j]?.map (fun x => (x.1, mk (seq + BitVec.ofNat 32 j) x.2)) := by
  induction ps generalizing seq j with
  | nil => rfl
  | cons x rest ih =>
    cases j with
    | zero => exact congrArg (fun n => some (x.1, mk n x.2)) (BitVec.add_zero seq).symm
    | succ j =>
      have hseq : seq + 1 + BitVec.ofNat 32 j = seq + BitVec.ofNat 32 (j + 1) := by
        rw [BitVec.add_assoc, Nat.add_comm j 1, BitVec.ofNat_add]
        rfl
      have hrest := ih (seq + 1) j
      rw [hseq] at hrest
      exact hrest

end

theorem recsOf_storeRecs (s : State) (f : Fields) (vec : Bool) (e : Bits512) (els : List El) (xs : List Xlat) :
    recsOf s f e (keyPieces xs (storeOf s f vec e els).pieces) (storeRecs s.pkg (cxOf s) (storeOf s f vec e els) xs) := by
  refine ⟨keys_numberRecs _ _ _, fun j key u hu => ?_⟩
  rw [storeRecs, getElem?_numberRecs, Option.map_eq_some_iff] at hu
  obtain ⟨⟨k, q⟩, hq, hmk⟩ := hu
  cases hmk
  exact ⟨⟨q, hq, rfl, rfl⟩, rfl, rfl, rfl, rfl, rfl, rfl, rfl, rfl, rfl, rfl, rfl, rfl, rfl, rfl⟩

/-- A record posted where M0 has room and nothing of its key stands. -/
theorem postRecs_one {p : Pkg} {c limit key : Nat} (now : Nat) (u : Rec) (hroom : occupancy (instOf p 0 c) < limit)
    (hempty : chainOf (instOf p 0 c) key = []) :
    postRecs p now c limit [(key, u)] = (setInst p 0 c (setChain (instOf p 0 c) key [{ u with since := now }]), []) := by
  have harrive : arriveChain false [] { u with since := now } = .arrived [{ u with since := now }] := rfl
  simp only [postRecs, if_neg (Nat.not_le.mpr hroom), hempty, harrive]

theorem continuePost_all {p q : Pkg} {s : State} {recs : List (Nat × Rec)}
    (h : postRecs p s.time s.core (postLimit (slotOf (partOf p s.core) s.slot)) recs = (q, [])) : continuePost p (cxOf s) recs = .done q := by
  have h' : postRecs p (cxOf s).now (cxOf s).core (postLimit (slotOf (partOf p (cxOf s).core) (cxOf s).slot)) recs = (q, []) := h
  simp only [continuePost, h']

/-! Strong stores. -/

section
variable {s : State} {f : Fields} {e : Bits512} {st : Store} {xs : List Xlat}

/-- A store whose release and whose pushes are done comes to its level. -/
theorem strongStore_inserts {p0 p2 : Pkg} {recs : List (Nat × Rec)} (hscope : st.scope = scopeOf f)
    (hrel : (if 2 ≤ st.ord then releaseAt s.pkg (cxOf s) st.scope false else (s.pkg, true)) = (p0, true))
    (hrecs : storeRecs p0 (cxOf s) st xs = recs)
    (hpush : pushKeys p0 s.time s.core (scopeOf f) (recs.map (·.1)) = (p2, true)) :
    strongStore s.pkg (cxOf s) e st xs f = insertStore (numbered s f p2 recs.length) (cxOf s) (scopeOf f) recs := by
  have hpush' : pushKeys p0 (cxOf s).now (cxOf s).core st.scope (recs.map (·.1)) = (p2, true) := hscope ▸ hpush
  simp only [strongStore, hrel, hrecs, hpush', Bool.true_eq_false, if_false]
  rw [hscope]
  rfl

theorem strongStore_releases {p0 : Pkg} (hord : 2 ≤ st.ord) (hrel : releaseAt s.pkg (cxOf s) st.scope false = (p0, false)) :
    strongStore s.pkg (cxOf s) e st xs f = .push (setCap p0 (cxOf s) e xs) (.push st.scope true (storeRecs s.pkg (cxOf s) st xs)) := by
  simp only [strongStore, if_pos hord, hrel, if_true]

end

section
variable {s : State} {p q : Pkg} {scope : Nat} {recs : List (Nat × Rec)}

theorem insertStore_behind (h : behindRegion p s.core (scopeLevel scope) (recs.map (·.1)) = true) :
    insertStore p (cxOf s) scope recs = .hold (setHold p (cxOf s) (.strong scope (cameAt p (cxOf s) scope) recs)) := if_pos h

section
variable (h : behindRegion p s.core (scopeLevel scope) (recs.map (·.1)) = false)
include h

theorem insertStore_ahead : insertStore p (cxOf s) scope recs =
    if scopeLevel scope = 0 then continuePost p (cxOf s) recs
    else if s.turn.later then .hold (setHold p (cxOf s) (.strong scope s.time recs))
    else match insertRecs p s.time s.core scope recs with
      | (p1, []) => .done p1
      | (p1, left) => .hold (setHold p1 (cxOf s) (.strong scope s.time left)) := by
  have h' : ¬ behindRegion p (cxOf s).core (scopeLevel scope) (recs.map (·.1)) = true := Bool.eq_false_iff.mp h
  unfold insertStore
  exact if_neg h'

theorem insertStore_core (hlvl : scopeLevel scope = 0)
    (hq : postRecs p s.time s.core (postLimit (slotOf (partOf p s.core) s.slot)) recs = (q, [])) :
    insertStore p (cxOf s) scope recs = .done q :=
  (insertStore_ahead h).trans ((if_pos hlvl).trans (continuePost_all hq))

theorem insertStore_now (hlvl : scopeLevel scope ≠ 0) (hlater : s.turn.later = false)
    (hq : insertRecs p s.time s.core scope recs = (q, [])) : insertStore p (cxOf s) scope recs = .done q := by
  have hlater' : ¬ s.turn.later = true := Bool.eq_false_iff.mp hlater
  rw [insertStore_ahead h, if_neg hlvl, if_neg hlater', hq]

theorem insertStore_later (hlvl : scopeLevel scope ≠ 0) (hlater : s.turn.later = true) :
    insertStore p (cxOf s) scope recs = .hold (setHold p (cxOf s) (.strong scope s.time recs)) :=
  (insertStore_ahead h).trans ((if_neg hlvl).trans (if_pos hlater))

end

end

/-! A store and its pieces. -/

section
variable {s : State} {f : Fields} {e : Bits512} {st : Store} (hhold : s.cur.hold = .none)

theorem storePiecesGo_nothing (h : st.pieces = []) : storePiecesGo s.pkg (cxOf s) e st f = .done (popSources s.pkg s.core f) := if_pos h

include hhold
variable (hsome : st.pieces ≠ []) (hbusy : granuleBusy s.part s.slot (st.pieces.map (fun q => (q.va : Int))) = false)
include hsome hbusy

/-- A store that hits posts, or goes on as a strong one. -/
theorem storePiecesGo_hits {xs : List Xlat} (hxs : translateAcc s.pkg (cxOf s) true st.ty (st.pieces.map pieceAddr) = .ok xs)
    (halias : aliasBusy s.pkg (cxOf s) ((keyPieces xs st.pieces).map (·.1)) = false) : storePiecesGo s.pkg (cxOf s) e st f =
      if st.ord = 0 then postStore s.pkg (cxOf s) st xs f else strongStore s.pkg (cxOf s) e st xs f := by
  have hbusy' : granuleBusy (partOf s.pkg (cxOf s).core) (cxOf s).slot (st.pieces.map (fun q => (q.va : Int))) = false := hbusy
  have hxs' := (translateHeld_fresh hhold _ _ _).trans hxs
  simp only [storePiecesGo, if_neg hsome, hbusy', hxs', halias, Bool.false_eq_true, if_false]

/-- A weak store that misses takes a journal entry. -/
theorem storePiecesGo_misses {va : Nat} (hord : st.ord = 0) (hhandler : s.cur.handler = false)
    (halias : aliasBusy s.pkg (cxOf s) (st.pieces.flatMap (fun q => keysNow s.pkg s.time s.core q.va)) = false)
    (hxs : translateAcc s.pkg (cxOf s) true st.ty (st.pieces.map pieceAddr) = .error (.miss va)) :
    storePiecesGo s.pkg (cxOf s) e st f = journalStore s.pkg (cxOf s) st va f := by
  have hbusy' : granuleBusy (partOf s.pkg (cxOf s).core) (cxOf s).slot (st.pieces.map (fun q => (q.va : Int))) = false := hbusy
  have hhandler' : (slotOf (partOf s.pkg (cxOf s).core) (cxOf s).slot).handler = false := hhandler
  have halias' : aliasBusy s.pkg (cxOf s) (st.pieces.flatMap (fun q => keysNow s.pkg (cxOf s).now (cxOf s).core q.va)) = false := halias
  have hxs' := (translateHeld_fresh hhold _ _ _).trans hxs
  simp only [storePiecesGo, if_neg hsome, hbusy', hxs', hhandler', halias', hord, decide_true, Bool.not_false, Bool.and_self,
    Bool.false_eq_true, if_false, if_true]

end

/-- The journal entry of a weak store (R190). -/
def entryOfStore (s : State) (st : Store) (va : Nat) : JEntry :=
  { kind := 0, status := 1, cause := 0, addr := (st.pieces.head?.map (·.va)).getD va / 65536, asid := asidOf s.part,
    team := teamNoOf s.part % 256, slot := s.slot, seq := (coreOf s.pkg s.core).postSeq, ioff := s.cur.pc, code := 0, ctx := s.cur.ctx,
    uid := s.part.nextUid, body := .store st.pieces st.opr st.ty st.x }

theorem journalStore_takes {s : State} {f : Fields} {st : Store} {n : Nat} (h : jFree s.part = some n) (va : Nat) :
    journalStore s.pkg (cxOf s) st va f = .done (popSources (askWalk (updCore (journalled s n (entryOfStore s st va)) s.core (fun c =>
      { c with postSeq := c.postSeq + BitVec.ofNat 32 st.pieces.length })) (cxOf s) va true (some s.part.nextUid)) s.core f) := by
  have h' : jFree (partOf s.pkg (cxOf s).core) = some n := h
  simp only [journalStore, journalise, h']
  rfl

/-! A store of the current slot. -/

section
variable {s : State} {f : Fields} {vec : Bool} (hhold : s.cur.hold = .none)
include hhold

theorem storeGlobal_error {t : Trap} (h : entryFor s.part (opdLay f.d) (s.aVal f) [0] = .error t) :
    storeGlobal vec f (cxOf s) s.pkg = .trap t := by
  have h' : entryNow (partOf s.pkg (cxOf s).core) (slotOf (partOf s.pkg (cxOf s).core) (cxOf s).slot) (opdLay f.d)
    (opdScalar (slotOf (partOf s.pkg (cxOf s).core) (cxOf s).slot) f.a) [0] = .error t := (entryNow_fresh hhold _ _ _).trans h
  simp only [storeGlobal, h']

theorem storeGlobal_goes {e : Bits512} {els : List El} (h : globalWrite s f vec e els) :
    storeGlobal vec f (cxOf s) s.pkg = storePiecesGo s.pkg (cxOf s) e (storeOf s f vec e els) f := by
  obtain ⟨hentry, hels, hop, hhigh⟩ := h
  have hentry' : entryNow (partOf s.pkg (cxOf s).core) (slotOf (partOf s.pkg (cxOf s).core) (cxOf s).slot) (opdLay f.d)
    (opdScalar (slotOf (partOf s.pkg (cxOf s).core) (cxOf s).slot) f.a) [0] = .ok e := (entryNow_fresh hhold _ _ _).trans hentry
  have hels' : accessEls (cxOf s) e (opdScalar (slotOf (partOf s.pkg (cxOf s).core) (cxOf s).slot) f.a) (opdLay f.d) vec true
    (guardMask (slotOf (partOf s.pkg (cxOf s).core) (cxOf s).slot) f) = .ok els := hels
  simp only [storeGlobal, hentry', hels', hop, hhigh, Bool.true_eq_false, if_false, Nat.shiftRight_eq_div_pow]
  rfl

end

section
variable {i : Fields → Instr} {g : Guarding} {vec : Bool} {c : Nat} (hw : ∀ f, (i f).word = some (c, f))
  (hexec : ∀ f s, exec (i f) s = issue (i f) g (storeGlobal vec) s)
include hw hexec

/-- A strong store at its level, once its release is done. -/
theorem store_strongRow {s : State} {f : Fields} {e : Bits512} {st : Store} {xs : List Xlat} {p0 : Pkg} {recs : List (Nat × Rec)}
    (h : runs (i f) g s = true) (hgoes : storeGlobal vec f (cxOf s) s.pkg = strongStore s.pkg (cxOf s) e st xs f)
    (hscope : st.scope = scopeOf f)
    (hrel : (if 2 ≤ st.ord then releaseAt s.pkg (cxOf s) st.scope false else (s.pkg, true)) = (p0, true))
    (hrecs : storeRecs p0 (cxOf s) st xs = recs) : strongRow i s f recs p0 := by
  rintro p1 p2 hpush rfl
  have hinserts := hgoes.trans (strongStore_inserts hscope hrel hrecs hpush)
  refine ⟨fun hbehind => ?_, fun hahead => ⟨fun p hlvl hp => ?_, fun p hlvl hlater hp => ?_, fun hlvl hlater => ?_⟩⟩
  · exact (hexec f s).trans (issue_hold (hw f) h (hinserts.trans (insertStore_behind hbehind)))
  · exact (hexec f s).trans (issue_done (hw f) h (hinserts.trans (insertStore_core hahead hlvl hp)))
  · exact (hexec f s).trans (issue_done (hw f) h (hinserts.trans (insertStore_now hahead hlvl hlater hp)))
  · exact (hexec f s).trans (issue_hold (hw f) h (hinserts.trans (insertStore_later hahead hlvl hlater)))

theorem store_row : storeRow i g vec := by
  refine ⟨fun s f t h ht => (hexec f s).trans (issue_trap (hw f) h (storeGlobal_error (hold_of_runs (hw f) h).2 ht)), ?_⟩
  intro s f e els h hwrite st
  have hhold := (hold_of_runs (hw f) h).2
  have hgoes : storeGlobal vec f (cxOf s) s.pkg = storePiecesGo s.pkg (cxOf s) e st f := storeGlobal_goes hhold hwrite
  refine ⟨fun hnone => (hexec f s).trans (issue_done (hw f) h (hgoes.trans (storePiecesGo_nothing hnone))), fun hsome hbusy =>
    ⟨fun xs hxs halias => ⟨storeRecs s.pkg (cxOf s) st xs, recsOf_storeRecs s f vec e els xs, ?weak, ?str, ?rel, ?release⟩,
      fun va n hord hhandler hfree halias hmiss => ⟨entryOfStore s st va, rfl, rfl, rfl, rfl, rfl, rfl, rfl, rfl, ?journal⟩⟩⟩
  case journal =>
    exact (hexec f s).trans (issue_done (hw f) h (hgoes.trans
      ((storePiecesGo_misses hhold hsome hbusy hord hhandler halias hmiss).trans (journalStore_takes hfree va))))
  all_goals have hhits := hgoes.trans (storePiecesGo_hits hhold hsome hbusy hxs halias)
  case weak =>
    intro p hord hp
    exact (hexec f s).trans (issue_done (hw f) h (hhits.trans ((if_pos hord).trans (continuePost_all hp))))
  case str =>
    intro hord
    have hstrong := hhits.trans (if_neg (show st.ord ≠ 0 from (by omega : ordOf f ≠ 0)))
    exact store_strongRow hw hexec h hstrong rfl (if_neg (show ¬ 2 ≤ st.ord from (by omega : ¬ 2 ≤ ordOf f))) rfl
  case rel =>
    intro p0 hord hrel hrecs
    have hstrong := hhits.trans (if_neg (show st.ord ≠ 0 from (by omega : ordOf f ≠ 0)))
    exact store_strongRow hw hexec h hstrong rfl ((if_pos hord).trans hrel) hrecs
  case release =>
    intro p0 hord hrel
    have hstrong := hhits.trans (if_neg (show st.ord ≠ 0 from (by omega : ordOf f ≠ 0)))
    exact (hexec f s).trans (issue_push (hw f) h (hstrong.trans (strongStore_releases hord hrel)))

end

theorem exec_st (f : Fields) (s : State) : exec (.st f) s = issue (.st f) .lane0 (storeGlobal false) s := rfl
theorem exec_stv (f : Fields) (s : State) : exec (.stv f) s = issue (.stv f) .lanes (storeGlobal true) s := rfl

/-! STRONG_STORE_PERFORMED (R166). -/

section
variable {s : State} {c n sc since : Nat} {recs left : List (Nat × Rec)} {p : Pkg}
  (hhold : (slotOf (partOf s.pkg c) n).hold = .strong sc since recs)
  (hp : (if scopeLevel sc = 0 then postRecs s.pkg s.time c (postLimit (slotOf (partOf s.pkg c) n)) recs
    else insertRecs s.pkg s.time c sc recs) = (p, left))
  (hfree : ∀ r ∈ recs, strongBehind s.pkg (scopeLevel sc) (pathPlace c (scopeLevel sc) (keyGran r.1)) (keyGran r.1 / 4) (some since) = false)

include hp hfree in
theorem strongDue_performs : strongDue s.pkg s.time c sc since (postLimit (slotOf (partOf s.pkg c) n)) recs = some (p, left) := by
  have hnone : (recs.any (fun r => strongBehind s.pkg (scopeLevel sc) (pathPlace c (scopeLevel sc) (keyGran r.1)) (keyGran r.1 / 4)
      (some since))) = false := List.any_eq_false.mpr (fun r hr => Bool.eq_false_iff.mp (hfree r hr))
  simp only [strongDue, hnone, Bool.false_eq_true, if_false, ← apply_ite some, hp]

include hhold hp hfree in
/-- A strong store whose turn has come is performed as far as nothing holds it. -/
theorem strongPerformed_performs : strongPerformed s.pkg s.time c n = updPart p c (fun k => updSlot k n (fun x =>
    if left = [] then { x with pc := x.pc + 12, hold := .none, cap := none, walkFault := none } else { x with hold := .strong sc since left })) := by
  have hdue := strongDue_performs hp hfree
  cases left with
  | nil =>
    simp only [strongPerformed, hhold, hdue, if_true]
    rfl
  | cons r rest => simp only [strongPerformed, hhold, hdue, List.cons_ne_nil, if_false]

end

end Sys2Proof.Machine

open Sys2Proof.Claims Sys2Proof.Machine

/-- Settles O21: a store with its pieces is posted, journaled or inserted with one numbered record for each key; each byte of an element
goes to the piece of its granule, by induction over the bytes. -/
theorem storeResults : Obligations.StoreResults := by
  unfold Obligations.StoreResults
  refine ⟨store_row (fun _ => rfl) exec_st, store_row (fun _ => rfl) exec_stv, fun p now c limit key u hroom hempty =>
    postRecs_one now u hroom hempty, fun s c n sc since recs p left hhold hp hfree => ?_, fun e n idx v keep q _ hq => ?_⟩
  · exact congrArg (fun q => Host.Outcome.next (s.with q)) (strongPerformed_performs hhold hp hfree)
  · obtain ⟨key, ⟨hva, hbits⟩, hmask⟩ := pieceOf_storePieces hq
    exact ⟨by omega, hmask, by rw [hva]; exact hbits⟩
end

section
/-!
The number of the package (R15) through the writes of the hardware's own (R142, R143, R151, R334, R358): no merge, no port write and no
entry of a replay log changes it.
-/
namespace Sys2Proof.Machine

/-- What comes out of a publication has the package's registers as they were. -/
def keepsRegs (p : Pkg) (x : Except Block Pkg) : Prop := ∀ q, x = .ok q → q.regs = p.regs

theorem keepsRegs_error (p : Pkg) (e : Block) : keepsRegs p (.error e) := fun _ h => nomatch h

theorem keepsRegs_ok {p q : Pkg} (h : q.regs = p.regs) : keepsRegs p (.ok q) := fun _ hq => by
  cases hq
  exact h

theorem keepsRegs_ite {p : Pkg} {c : Prop} [Decidable c] {x y : Except Block Pkg} (hx : keepsRegs p x) (hy : keepsRegs p y) :
    keepsRegs p (if c then x else y) := by
  split
  · exact hx
  · exact hy

theorem regs_updateCopy (p : Pkg) (lvl n k : Nat) (r : Rec) : (updateCopy p lvl n k r).regs = p.regs := by
  rw [updateCopy.eq_def]
  dsimp only
  split <;> rfl

/-- Publications one after the other. -/
theorem keepsRegs_foldl {g : Pkg → Rec → Except Block Pkg} (hg : ∀ q o, keepsRegs q (g q o)) (rs : List Rec) {p : Pkg}
    {x : Except Block Pkg} (hx : keepsRegs p x) : keepsRegs p (rs.foldl (fun acc o => match acc with
      | .error e => .error e
      | .ok q => g q o) x) := by
  induction rs generalizing x with
  | nil => exact hx
  | cons o rest ih =>
    refine ih ?_
    cases x with
    | error e => exact keepsRegs_error p e
    | ok q => exact fun q' hq' => (hg q o q' hq').trans (hx q rfl)

theorem keepsRegs_sendOut (fuel : Nat) (p : Pkg) (now lvl n k : Nat) (r : Rec) : keepsRegs p (sendOut fuel p now lvl n k r) := by
  induction fuel generalizing p lvl n k r with
  | zero => exact keepsRegs_error p _
  | succ fuel ih =>
    have houtward (n' key : Nat) (rs : List Rec) := keepsRegs_foldl (fun q o => ih q (lvl + 1) n' key o) rs (keepsRegs_ok (p := p) rfl)
    unfold sendOut
    refine keepsRegs_ite (keepsRegs_error p _) (keepsRegs_ite ?_ (keepsRegs_ite (keepsRegs_error p _)
      (keepsRegs_ite (keepsRegs_error p _) (keepsRegs_ite (keepsRegs_error p _) ?_))))
    · exact keepsRegs_ite (keepsRegs_error p _) (keepsRegs_ite (keepsRegs_error p _) (keepsRegs_ok (regs_updateCopy _ _ _ _ _)))
    · split
      next => exact keepsRegs_error p _
      next =>
        refine keepsRegs_ite (keepsRegs_ok (regs_updateCopy _ _ _ _ _)) ?_
        split
        next => exact keepsRegs_ok (regs_updateCopy _ _ _ _ _)
        next =>
          split
          next => exact keepsRegs_error p _
          next p1 hout => exact keepsRegs_ok ((regs_updateCopy _ _ _ _ _).trans (houtward _ _ _ p1 hout))
      next =>
        dsimp only
        split
        next => exact keepsRegs_error p _
        next p1 hout => exact keepsRegs_ok ((regs_updateCopy _ _ _ _ _).trans (houtward _ _ _ p1 hout))

theorem keepsRegs_sendAll (p : Pkg) (now lvl n k : Nat) (rs : List Rec) : keepsRegs p (sendAll p now lvl n k rs) := by
  induction rs generalizing p with
  | nil => exact keepsRegs_ok rfl
  | cons r rest ih =>
    rw [sendAll]
    split
    next => exact keepsRegs_error p _
    next hout => exact fun q hq => (ih _ q hq).trans (keepsRegs_sendOut 4 p now lvl n k r _ hout)

theorem keepsRegs_mergeKey (p : Pkg) (now lvl n k : Nat) : keepsRegs p (mergeKey p now lvl n k) := by
  unfold mergeKey
  refine keepsRegs_ite (keepsRegs_ok rfl) ?_
  split
  next => exact keepsRegs_error p _
  next p1 hout => exact keepsRegs_ok (keepsRegs_sendAll p now lvl n k _ p1 hout)

theorem keepsRegs_insertAt (p : Pkg) (now lvl n k : Nat) (u : Rec) : keepsRegs p (insertAt p now lvl n k u) := by
  unfold insertAt
  refine keepsRegs_ite (keepsRegs_error p _) (keepsRegs_ite (keepsRegs_error p _) ?_)
  dsimp only
  split
  next =>
    refine keepsRegs_ite (keepsRegs_ok rfl) ?_
    split
    next => exact keepsRegs_ok rfl
    next =>
      split
      next => exact keepsRegs_error p _
      next p1 hout => exact keepsRegs_ok (keepsRegs_mergeKey p now lvl n _ p1 hout)
  next =>
    split
    next => exact keepsRegs_error p _
    next p1 hout => exact keepsRegs_ok (keepsRegs_mergeKey p now lvl n k p1 hout)

theorem pkgnum_flushWrites (now : Nat) (ws : List PortWrite) (p : Pkg) : (flushWrites now ws p).regs.pkgnum = p.regs.pkgnum := by
  induction ws generalizing p with
  | nil => rfl
  | cons w rest ih =>
    have hout : keepsRegs p (if keyKilled p (keyTag w.key) then Except.ok p
        else if strongBehind p 3 (homeOf (keyGran w.key * 32)) (keyGran w.key / 4) none then Except.error Block.deferred
        else insertAt p now 3 (homeOf (keyGran w.key * 32)) w.key w.u) :=
      keepsRegs_ite (keepsRegs_ok rfl) (keepsRegs_ite (keepsRegs_error p _) (keepsRegs_insertAt p now 3 _ w.key w.u))
    unfold flushWrites
    dsimp only
    split
    next => rfl
    next p1 hp1 =>
      have hregs := congrArg Regs.pkgnum (hout p1 hp1)
      refine (ih _).trans (Eq.trans ?_ hregs)
      dsimp only
      split <;> split <;> rfl

theorem pkgnum_portWrite (p : Pkg) (now key : Nat) (u : Rec) (vec : Option Nat) (adv : Nat) :
    (portWrite p now key u vec adv).regs.pkgnum = p.regs.pkgnum := by
  rw [portWrite, flushPorts]
  split
  · rfl
  · exact pkgnum_flushWrites now _ _

theorem pkgnum_logReceive (p : Pkg) (now c : Nat) (src : BitVec 22) (detail : List Nat) :
    (logReceive p now c src detail).regs.pkgnum = p.regs.pkgnum := by
  unfold logReceive
  dsimp only
  split
  · rfl
  · split
    · rfl
    · exact pkgnum_portWrite _ now _ _ none 0

theorem pkgnum_receive (p : Pkg) (now c pkg src : Nat) (b : MsgBody) : (receive p now c pkg src b).regs.pkgnum = p.regs.pkgnum :=
  pkgnum_logReceive _ now c _ _

end Sys2Proof.Machine
end

section
/-!
Remote requests at their home (R159 to R161, R204 to R206, R210): taken or refused, performed at once or word by word.
-/
namespace Sys2Proof.Machine
open Sys2Proof.Claims

/-! The arrival of a message. -/

theorem onMsg_arrives {s : State} {src dst : Nat} {m : Msg} {q : Pkg} (h : arrives s src dst m q) (act : Msg → Pkg → Option Pkg) :
    onMsg s.pkg src dst act = (act m q).getD s.pkg := by
  obtain ⟨hm, rfl⟩ := h
  simp only [onMsg, hm]

section
variable {p : Pkg} {now home : Nat} {o : Origin} {b : MsgBody} {act : Pkg → Pkg}

theorem atHome_fenced (h : (coreOf p home).fenced.isSome = true) :
    atHome p now home o b act = some (refuse p home o.pkg o.core o.asid 0x31 b) := if_pos h

variable (hup : (coreOf p home).fenced = none)
include hup

theorem atHome_notReady (h : homeReady p home = false) : atHome p now home o b act = none := by
  rw [atHome, if_neg (by rw [hup]; exact Bool.false_ne_true), if_pos h]

variable (hready : homeReady p home = true)
include hready

theorem atHome_ready : atHome p now home o b act =
    if scapOk p home o.pkg o.asid then some (act (receive p now home o.pkg o.core b))
    else some (refuse (receive p now home o.pkg o.core b) home o.pkg o.core o.asid 0x02 b) := by
  have hready' : ¬ homeReady p home = false := by simp [hready]
  unfold atHome
  rw [if_neg (by rw [hup]; exact Bool.false_ne_true), if_neg hready']

theorem atHome_barred (h : scapOk p home o.pkg o.asid = false) :
    atHome p now home o b act = some (refuse (receive p now home o.pkg o.core b) home o.pkg o.core o.asid 0x02 b) :=
  (atHome_ready hup hready).trans (if_neg (Bool.eq_false_iff.mp h))

theorem atHome_acts (h : scapOk p home o.pkg o.asid = true) :
    atHome p now home o b act = some (act (receive p now home o.pkg o.core b)) := (atHome_ready hup hready).trans (if_pos h)

end

section
variable {s : State} {src dst : Nat} {m : Msg} {q : Pkg} (h : arrives s src dst m q)
include h

theorem coreOf_arrives (c : Nat) : coreOf q c = coreOf s.pkg c := by
  obtain ⟨-, rfl⟩ := h
  rfl

theorem homeReady_arrives (c : Nat) : homeReady q c = homeReady s.pkg c := by
  obtain ⟨-, rfl⟩ := h
  rfl

theorem scapOk_arrives (c pkg asid : Nat) : scapOk q c pkg asid = scapOk s.pkg c pkg asid := by
  obtain ⟨-, rfl⟩ := h
  rfl

/-- The package that has received a message has the number it had. -/
theorem pkgnum_received : (receive q s.time dst s.pkg.regs.pkgnum m.src m.body).regs.pkgnum = s.pkg.regs.pkgnum := by
  obtain ⟨-, rfl⟩ := h
  exact pkgnum_receive _ _ _ _ _ _

end

/-- Where a message comes from, in its package. -/
def senderOf (p : Pkg) (m : Msg) : Origin := ⟨p.regs.pkgnum, m.src, m.asid⟩

section
variable {ev : Nat → Nat → Instr} {is : MsgBody → Prop} {arr : Pkg → Nat → Nat → Bool → Origin → MsgBody → Option Pkg}
  {inner : Pkg → Nat → Nat → Bool → Origin → MsgBody → Pkg} {act : Pkg → Nat → Bool → Nat → Msg → Pkg}

/-- A message that its home takes where nothing refuses it, and what the home does with it. -/
theorem home_row (hexec : ∀ (s : State) (src dst : Nat), exec (ev src dst) s = .next (s.with (onMsg s.pkg src dst (fun m q =>
      arr q s.time dst s.turn.later (senderOf s.pkg m) m.body))))
    (harr : ∀ b, is b → ∀ q now dst later o, arr q now dst later o b = atHome q now dst o b (fun r => inner r now dst later o b))
    (hact : ∀ r now later dst m, is m.body → inner r now dst later (senderOf r m) m.body = act r now later dst m) : homeRow ev is act := by
  intro s src dst m q harrives his _ r
  have hone {x : Pkg} (hx : (atHome q s.time dst (senderOf s.pkg m) m.body (fun r => inner r s.time dst s.turn.later (senderOf s.pkg m)
      m.body)).getD s.pkg = x) : eventTo (ev src dst) s x := by
    rw [eventTo, hexec, onMsg_arrives harrives, harr m.body his, hx]
  have hcore := coreOf_arrives harrives dst
  have hready := homeReady_arrives harrives dst
  have hscap := scapOk_arrives harrives dst s.pkg.regs.pkgnum m.asid
  refine ⟨fun hfenced => hone ?_, fun hup hnot => hone ?_, fun hup hhome hbarred => hone ?_, fun hup hhome hscapOk => hone ?_⟩
  · rw [atHome_fenced (hcore ▸ hfenced)]
    rfl
  · rw [atHome_notReady (hcore ▸ hup) (hready.trans hnot)]
    rfl
  · rw [atHome_barred (hcore ▸ hup) (hready.trans hhome) (hscap.trans hbarred)]
    rfl
  · rw [atHome_acts (hcore ▸ hup) (hready.trans hhome) (hscap.trans hscapOk)]
    have hsender : senderOf s.pkg m = senderOf r m := congrArg (fun n => (⟨n, m.src, m.asid⟩ : Origin)) (pkgnum_received harrives).symm
    refine Eq.trans ?_ (hact r s.time s.turn.later dst m his)
    rw [← hsender]
    rfl

end

end Sys2Proof.Machine
end

section
/-!
What the handlers of a home do (R158 to R160, R205, R206, R210).
-/
namespace Sys2Proof.Machine
open Sys2Proof.Claims

/-! Remote loads and stores of one element. -/

section
variable {p : Pkg} {now home off size req lane : Nat} {e : Errand} (hbody : e.body = .load off size none req lane)
  (hwords : (partOf p home).badWords = [])
include hbody hwords

theorem builtin_load : builtin p now home e = sendPkg p home e.sender.pkg e.sender.core e.sender.asid
    (.readDone req lane (wordsNat (partOf p home) e.got off size)) := by
  have hbad : elemBad (partOf p home) off size none = none := elemBad_whole hwords _ _ _
  simp only [builtin, hbody, hbad]
  rfl

theorem builtinPart_load (hleft : e.pos + 1 < (spanWords [(off, off + size)]).length) : builtinPart p now home e =
    some (p, { e with
      pos := e.pos + 1
      got := readWord (partOf p home) e.got ((spanWords [(off, off + size)]).getD e.pos 0) }) := by
  have hbad : elemBad (partOf p home) off size none = none := elemBad_whole hwords _ _ _
  have hcond : e.pos + 1 < (spanWords (loadSpans off size none)).length ∧ (elemBad (partOf p home) off size none).isNone = true :=
    ⟨hleft, by rw [hbad]; rfl⟩
  simp only [builtinPart, judged, builtinWord, hbody, if_pos hcond]
  rfl

end

section
variable {p : Pkg} {now home off size uid : Nat} {v : Word} {e : Errand} (hbody : e.body = .store off size v uid)
include hbody

theorem builtin_store : builtin p now home e = sendPkg (updPart p home (fun k => scrPut k now (if e.pos = 0 then elementBytes off size v
      else (elementBytes off size v).filter (fun b => ((wordsOf (elementBytes off size v)).drop e.pos).contains (b.1 / 8)))))
    home e.sender.pkg e.sender.core e.sender.asid (.ack uid) := by
  simp only [builtin, hbody]
  rfl

theorem builtinPart_store (hleft : e.pos + 1 < (wordsOf (elementBytes off size v)).length) : builtinPart p now home e =
    some (setPart p home (scrPut (partOf p home) now ((elementBytes off size v).filter (fun b =>
      decide (b.1 / 8 = (wordsOf (elementBytes off size v)).getD e.pos 0)))), { e with pos := e.pos + 1 }) := by
  have hleft' : e.pos + 1 < (wordsOf (byteMap (((leBytes size v.toNat).zipIdx).map (fun x => (off + x.2, x.1))))).length := hleft
  simp only [builtinPart, judged, builtinWord, hbody, if_pos hleft']
  rfl

end

/-- Part of the first work alone is done, where the errand slot is idle and the work may be done in parts. -/
theorem runBuiltins_part {p q : Pkg} {now home : Nat} {e e' : Errand} {rest : List Errand} (herrands : (partOf p home).errands = e :: rest)
    (huser : isUserWork e = false) (hidle : (slotOf (partOf p home) (errandSlot (partOf p home).mode)).live = false)
    (hrepart : repartWaits (partOf p home) = false) (hgang : (coreOf p home).switching = false)
    (hpart : builtinPart p now home e = some (q, e')) :
    runBuiltins p now home true = updPart q home (fun k => { k with errands := e' :: k.errands.drop 1 }) := by
  simp only [runBuiltins, hrepart, hgang, herrands, hidle, huser, hpart, List.takeWhile_cons, Bool.or_self, Bool.not_false,
    Bool.false_eq_true, if_false, if_true]

/-! Packets (R160, R210). -/

/-- A packet is refused; with cause 0x30 an error has been detected. -/
def packetRefused (r : Pkg) (now home : Nat) (o : Origin) (els : List (Nat × Word)) (uid cause : Nat) : Pkg :=
  sendPkg (if cause = 0x30 then logDetected r now (coreSource home) 2 ((els.head?.map (·.1)).getD 0) else r) home o.pkg o.core o.asid
    (.refusal uid cause 0)

/-- A packet is folded into its words and acknowledged. -/
def packetFolded (q : Pkg) (now home : Nat) (o : Origin) (els : List (Nat × Word)) (ty opr uid : Nat) : Pkg :=
  sendPkg (updPart q home (fun k => applyPacket k now ty opr els)) home o.pkg o.core o.asid (.ack uid)

/-- A word of a packet holds an error. -/
def packetBad (r : Pkg) (home ty : Nat) (els : List (Nat × Word)) : Bool := els.any (fun x => (scrBad (partOf r home) x.1 (tySize ty)).isSome)

/-- A packet with a number is applied once (R160): a number ahead of the window moves it, one behind it is refused, one within it is applied
where its bit is clear. -/
def packetOnce (r : Pkg) (now home : Nat) (o : Origin) (els : List (Nat × Word)) (ty opr uid : Nat) (n : BitVec 32)
    (w : BitVec 32 × BitVec 64) : Pkg :=
  if 0 < (n - w.1).toNat ∧ (n - w.1).toNat < 2 ^ 31 then
    (if packetBad r home ty els then packetRefused r now home o els uid 0x30 else packetFolded (updCore r home (fun c =>
      { c with windows := mapInsert c.windows o.core (n, (w.2 <<< (n - w.1).toNat) ||| 1) })) now home o els ty opr uid)
  else if 64 ≤ (w.1 - n).toNat then packetRefused r now home o els uid 0x21
  else if bit w.2 (w.1 - n).toNat then sendPkg r home o.pkg o.core o.asid (.ack uid)
  else if packetBad r home ty els then packetRefused r now home o els uid 0x30
  else packetFolded (updCore r home (fun c =>
    { c with windows := mapInsert c.windows o.core (w.1, w.2 ||| BitVec.ofNat 64 (2 ^ (w.1 - n).toNat)) })) now home o els ty opr uid

section
variable {r : Pkg} {now home : Nat} {o : Origin} {els : List (Nat × Word)} {ty opr uid : Nat}

theorem packetApplied_plain : packetApplied r now home o els ty opr none uid (.reduce els ty opr none uid) =
    if packetBad r home ty els then packetRefused r now home o els uid 0x30 else packetFolded r now home o els ty opr uid := rfl

variable {n : BitVec 32} (hpkg : o.pkg = r.regs.pkgnum)
include hpkg

theorem packetApplied_judged : packetApplied r now home o els ty opr (some n) uid (.reduce els ty opr (some n) uid) =
    match seqJudge (windowOf (coreOf r home) o.core) n with
    | (.refuse, _) => packetRefused r now home o els uid 0x21
    | (.discard, _) => sendPkg r home o.pkg o.core o.asid (.ack uid)
    | (.apply, w) => if packetBad r home ty els then packetRefused r now home o els uid 0x30
      else packetFolded (updCore r home (fun c => { c with windows := mapInsert c.windows o.core w })) now home o els ty opr uid := by
  have hsame : ¬ o.pkg ≠ r.regs.pkgnum := not_not_intro hpkg
  simp only [packetApplied, if_neg hsame]
  rcases seqJudge (windowOf (coreOf r home) o.core) n with ⟨v, w⟩
  cases v <;> rfl

theorem packetApplied_once : packetApplied r now home o els ty opr (some n) uid (.reduce els ty opr (some n) uid) =
    packetOnce r now home o els ty opr uid n (windowOf (coreOf r home) o.core) := by
  rw [packetApplied_judged hpkg, packetOnce]
  generalize windowOf (coreOf r home) o.core = w
  by_cases hup : 0 < (n - w.1).toNat ∧ (n - w.1).toNat < 2 ^ 31
  · have hj : seqJudge w n = (.apply, (n, (w.2 <<< (n - w.1).toNat) ||| 1)) := if_pos hup
    rw [hj, if_pos hup]
  · by_cases hdown : (w.1 - n).toNat < 64
    · by_cases hseen : bit w.2 (w.1 - n).toNat = true
      · have hj : seqJudge w n = (.discard, w) := (if_neg hup).trans ((if_pos hdown).trans (if_pos hseen))
        rw [hj, if_neg hup, if_neg (Nat.not_le.mpr hdown), if_pos hseen]
      · have hj : seqJudge w n = (.apply, (w.1, w.2 ||| BitVec.ofNat 64 (2 ^ (w.1 - n).toNat))) :=
          (if_neg hup).trans ((if_pos hdown).trans (if_neg hseen))
        rw [hj, if_neg hup, if_neg (Nat.not_le.mpr hdown), if_neg hseen]
    · have hj : seqJudge w n = (.refuse, w) := (if_neg hup).trans (if_neg hdown)
      rw [hj, if_neg hup, if_pos (Nat.not_lt.mp hdown)]

end

theorem builtin_packet {r : Pkg} {now home : Nat} {sd : Sender} {els : List (Nat × Word)} {ty opr uid : Nat} {seq : Option (BitVec 32)} :
    builtin r now home ⟨sd, 0, .reduce els ty opr seq uid, 0, []⟩ =
      packetApplied r now home ⟨sd.pkg, sd.core, sd.asid⟩ els ty opr seq uid (.reduce els ty opr seq uid) := rfl

/-! What waits for its turn behind work of the same source. -/

section
variable {r : Pkg} {now home : Nat} {o : Origin} {later : Bool} {uid : Nat} {b : MsgBody}

theorem inTurn_behind (h : behindErrand r home o = true) : inTurn r now home later o uid b = errand r now home later o uid 0 b := if_pos h

theorem inTurn_atOnce (h : behindErrand r home o = false) :
    inTurn r now home false o uid b = builtin r now home ⟨⟨o.core, o.pkg, o.asid, uid⟩, 0, b, 0, []⟩ := if_neg (Bool.eq_false_iff.mp h)

end

/-- The waiter of a remote LDSF of this package. -/
def takeWaiter (r : Pkg) (now off size : Nat) (sc : Option Nat) (o : Origin) (d req : Nat) : Waiter :=
  { take := true, off := off, size := size, scale := sc, val := 0, deadline := d, slot := none, ctx := 0, pkg := r.regs.pkgnum,
    src := o.core, asid := o.asid, req := req, uid := 0, moved := false, seen := now }

theorem builtin_takeFull {r : Pkg} {now home off size d req : Nat} {sc : Option Nat} {o : Origin} (hpkg : o.pkg = r.regs.pkgnum) :
    builtin r now home ⟨⟨o.core, o.pkg, o.asid, 0⟩, 0, .takeFull off size sc d req, 0, []⟩ =
      if stillAsked r o req then remoteWait r now home (takeWaiter r now off size sc o d req) else r := by
  have hsame : ¬ (r.regs.pkgnum ≠ r.regs.pkgnum ∧ d ≠ 0) := fun h => h.1 rfl
  obtain ⟨pkg, core, asid⟩ := o
  obtain rfl : pkg = r.regs.pkgnum := hpkg
  simp only [builtin, if_neg hsame]
  rfl

end Sys2Proof.Machine
end

section
/-!
The events of a home (R159 to R161, R204 to R206, R210).
-/
namespace Sys2Proof.Machine
open Sys2Proof.Claims

theorem errand_of_message (r : Pkg) (now dst : Nat) (later : Bool) (uid : Nat) (m : Msg) :
    errand r now dst later (senderOf r m) uid 0 m.body = errandAdded r now later dst uid 0 m := rfl

theorem loads_row : homeRow .remoteLoadRequest isLoad (fun r now later dst m => errandAdded r now later dst 0 0 m) :=
  home_row (arr := loadArrives) (inner := fun r now dst later o b => errand r now dst later o 0 0 b) (fun _ _ _ => rfl)
    (fun _ ⟨_, _, _, _, _, hb⟩ _ _ _ _ _ => hb ▸ rfl) (fun _ _ _ _ _ _ => rfl)

/-- The number under which a remote store is acknowledged. -/
def storeUid (b : MsgBody) : Nat :=
  match b with
  | .store _ _ _ uid => uid
  | _ => 0

theorem stores_row : homeRow .remoteStoreRequest isStore (fun r now later dst m => errandAdded r now later dst (storeUid m.body) 0 m) :=
  home_row (arr := storeArrives) (inner := fun r now dst later o b => errand r now dst later o (storeUid b) 0 b) (fun _ _ _ => rfl)
    (fun _ ⟨_, _, _, _, hb⟩ _ _ _ _ _ => hb ▸ rfl) (fun _ _ _ _ _ _ => rfl)

/-! Packets. -/

/-- The number under which a packet is acknowledged. -/
def packetUid (b : MsgBody) : Nat :=
  match b with
  | .reduce _ _ _ _ uid => uid
  | _ => 0

/-- What a home makes of a packet: it waits behind work of its source, is folded word by word, or is applied or answered. -/
def packetDone (r : Pkg) (now : Nat) (later : Bool) (dst : Nat) (m : Msg) : Pkg :=
  match m.body with
  | .reduce els ty opr seq uid =>
    if behindErrand r dst (senderOf r m) then errandAdded r now later dst uid 0 m
    else match (if later then builtinPart r now dst (errandOf r uid 0 m) else none) with
    | some (q, e') => updPart q dst (fun k => { k with errands := e' :: k.errands })
    | none => (match seq with
      | none => if packetBad r dst ty els then packetRefused r now dst (senderOf r m) els uid 0x30
          else packetFolded r now dst (senderOf r m) els ty opr uid
      | some n => packetOnce r now dst (senderOf r m) els ty opr uid n (windowOf (coreOf r dst) m.src))
  | _ => r

theorem inTurn_packet (r : Pkg) (now : Nat) (later : Bool) (dst : Nat) (m : Msg) (h : isPacket m.body) :
    inTurn r now dst later (senderOf r m) (packetUid m.body) m.body = packetDone r now later dst m := by
  obtain ⟨els, ty, opr, seq, uid, hb⟩ := h
  obtain ⟨src, d, asid, body, w, t⟩ := m
  obtain rfl : body = .reduce els ty opr seq uid := hb
  have hbuiltin : builtin r now dst ⟨⟨src, r.regs.pkgnum, asid, uid⟩, 0, .reduce els ty opr seq uid, 0, []⟩ =
      match seq with
      | none => if packetBad r dst ty els then packetRefused r now dst ⟨r.regs.pkgnum, src, asid⟩ els uid 0x30
          else packetFolded r now dst ⟨r.regs.pkgnum, src, asid⟩ els ty opr uid
      | some n => packetOnce r now dst ⟨r.regs.pkgnum, src, asid⟩ els ty opr uid n (windowOf (coreOf r dst) src) := by
    cases seq with
    | none => exact builtin_packet.trans packetApplied_plain
    | some n => exact builtin_packet.trans (packetApplied_once rfl)
  unfold inTurn
  refine if_congr Iff.rfl rfl ?_
  dsimp only [errandOf, senderOf, packetUid]
  rcases (if later = true then builtinPart r now dst ⟨⟨src, r.regs.pkgnum, asid, uid⟩, 0, .reduce els ty opr seq uid, 0, []⟩ else none)
    with _ | ⟨q, e'⟩
  · exact hbuiltin
  · rfl

theorem packets_row : homeRow .rredPacket isPacket packetDone :=
  home_row (arr := packetArrives) (inner := fun r now dst later o b => inTurn r now dst later o (packetUid b) b) (fun _ _ _ => rfl)
    (fun _ ⟨_, _, _, _, _, hb⟩ _ _ _ _ _ => hb ▸ rfl) inTurn_packet

/-! Full and empty words. -/

theorem eventTo_congr {i : Instr} {s : State} {p q : Pkg} (hq : p = q) (h : eventTo i s p) : eventTo i s q := hq ▸ h

def isTake (b : MsgBody) : Prop := ∃ off size sc d req, b = .takeFull off size sc d req

theorem takes_row : homeRow .remoteFullEmptyRequest isTake (fun r now _ dst m => inTurn r now dst false (senderOf r m) 0 m.body) :=
  home_row (arr := fun q now dst _ o b => fullEmptyArrives q now dst o b) (inner := fun r now dst _ o b => inTurn r now dst false o 0 b)
    (fun _ _ _ => rfl) (fun _ ⟨_, _, _, _, _, hb⟩ _ _ _ _ _ => hb ▸ rfl) (fun _ _ _ _ _ _ => rfl)

/-- An LDSF that its home has taken: it waits behind work of its source, is gone with its slot, or waits for its word. -/
theorem take_served {s : State} {src dst off size d req : Nat} {sc : Option Nat} {m : Msg} {r : Pkg} {o : Origin}
    (hb : m.body = .takeFull off size sc d req) (ho : o = senderOf r m)
    (htaken : eventTo (.remoteFullEmptyRequest src dst) s (inTurn r s.time dst false (senderOf r m) 0 m.body)) :
    (behindErrand r dst o = true → eventTo (.remoteFullEmptyRequest src dst) s (errandAdded r s.time false dst 0 0 m)) ∧
    (behindErrand r dst o = false →
      (stillAsked r o req = false → eventTo (.remoteFullEmptyRequest src dst) s r) ∧
      (stillAsked r o req = true → ∃ w : Waiter, w.take = true ∧ w.off = off ∧ w.size = size ∧ w.scale = sc ∧ w.slot = none ∧
        w.src = m.src ∧ w.req = req ∧ w.deadline = d ∧ w.moved = false ∧
        eventTo (.remoteFullEmptyRequest src dst) s (remoteWait r s.time dst w))) := by
  subst ho
  refine ⟨fun hbehind => eventTo_congr ((inTurn_behind hbehind).trans (errand_of_message r s.time dst false 0 m)) htaken, fun hfree => ?_⟩
  have hserved : inTurn r s.time dst false (senderOf r m) 0 m.body = if stillAsked r (senderOf r m) req then
      remoteWait r s.time dst (takeWaiter r s.time off size sc (senderOf r m) d req) else r := by
    rw [hb, inTurn_atOnce hfree]
    exact builtin_takeFull (o := senderOf r m) rfl
  exact ⟨fun hgone => eventTo_congr (hserved.trans (if_neg (Bool.eq_false_iff.mp hgone))) htaken, fun hasks =>
    ⟨takeWaiter r s.time off size sc (senderOf r m) d req, rfl, rfl, rfl, rfl, rfl, rfl, rfl, rfl, rfl,
      eventTo_congr (hserved.trans (if_pos hasks)) htaken⟩⟩

/-- A waiter's deadline at its home. -/
theorem remoteDeadline_early {p : Pkg} {now home i : Nat} {w : Waiter} (hw : (partOf p home).waiters[i]? = some w)
    (h : now < w.deadline) : remoteDeadline p now home i = p := by
  simp only [remoteDeadline, hw]
  exact if_pos (.inr (.inr (.inl h)))

theorem remoteDeadline_passed {p : Pkg} {now home i : Nat} {w : Waiter} (hw : (partOf p home).waiters[i]? = some w) (hslot : w.slot = none)
    (hmoved : w.moved = false) (h : w.deadline ≤ now) (hgang : (coreOf p home).switching = false) (hup : (coreOf p home).fenced = none) :
    remoteDeadline p now home i = withdraw p home w false := by
  have hstays : ¬ (w.slot.isSome = true ∨ w.moved = true ∨ now < w.deadline ∨ (coreOf p home).switching = true ∨
      (coreOf p home).fenced.isSome = true) := by simp [hslot, hmoved, hgang, hup, h]
  simp only [remoteDeadline, hw]
  exact if_neg hstays

end Sys2Proof.Machine

open Sys2Proof.Claims Sys2Proof.Machine

/-- Settles O29: a home takes a message where nothing refuses it; a load or a store is work for the errand slot, a packet is judged by the
window of its source, a full/empty request waits or is served; the number of the package stands through the entry of the replay log. -/
theorem remoteArrivals : Obligations.RemoteArrivals := by
  unfold Obligations.RemoteArrivals
  refine ⟨loads_row, stores_row, fun p now home n off size req lane sd hwords => ?load, fun p now home n off size uid v sd => ?store,
    fun p now home e off size req lane uid v => ⟨fun hbody hwords => ⟨builtinPart_load hbody hwords, builtin_load hbody hwords⟩,
      fun hbody => ⟨builtinPart_store hbody, fun hpos => ?rest⟩, fun q e' rest => runBuiltins_part⟩, packets_row,
    fun s src dst off size d req sc m q harrives hb hup hready hscap => ?take, fun s home i w hw hslot hmoved => ⟨fun h => ?early,
      fun h hgang hup => ?late⟩⟩
  case load =>
    have hload := builtin_load (p := p) (now := now) (home := home) (e := ⟨sd, n, .load off size none req lane, 0, []⟩) rfl hwords
    rwa [wordsNat_nil] at hload
  case store => exact builtin_store (e := ⟨sd, n, .store off size v uid, 0, []⟩) rfl
  case rest =>
    have hstore := builtin_store (p := p) (now := now) (home := home) hbody
    simp only [if_neg hpos] at hstore
    exact hstore
  case take =>
    obtain ⟨-, -, -, htaken⟩ := takes_row s src dst m q harrives ⟨_, _, _, _, _, hb⟩ trivial
    have hsender : (⟨s.pkg.regs.pkgnum, m.src, m.asid⟩ : Origin) = senderOf (receive q s.time dst s.pkg.regs.pkgnum m.src m.body) m :=
      congrArg (fun n => (⟨n, m.src, m.asid⟩ : Origin)) (pkgnum_received harrives).symm
    exact take_served hb hsender (htaken hup hready hscap)
  case early => exact congrArg (fun q => Host.Outcome.next (s.with q)) (remoteDeadline_early hw h)
  case late => exact congrArg (fun q => Host.Outcome.next (s.with q)) (remoteDeadline_passed hw hslot hmoved h hgang hup)
end

section
/-!
Fences and ranges (R168 to R170, R194 to R198): FENCE, what a passed FENCE.REL makes wait, MPUSH, MDROP, MSYNC and DRAINST.
-/
namespace Sys2Proof.Machine
open Sys2Proof.Claims

/-! Releases (R168). -/

section
variable {p : Pkg} {cx : Cx} {acks : Bool}

/-- A release waits for the journal and for the loads of its slot. -/
theorem releaseAt_waits (sc : Nat)
    (h : journalWaits (partOf p cx.core) cx.slot acks = true ∨ (slotOf (partOf p cx.core) cx.slot).loads ≠ []) :
    releaseAt p cx sc acks = (p, false) := by
  rw [releaseAt]
  by_cases hj : journalWaits (partOf p cx.core) cx.slot acks = true
  · exact if_pos hj
  · exact (if_neg hj).trans (if_pos (h.resolve_left hj))

/-- Then it pushes. -/
theorem releaseAt_pushes (sc : Nat) (hj : journalWaits (partOf p cx.core) cx.slot acks = false)
    (hl : (slotOf (partOf p cx.core) cx.slot).loads = []) : releaseAt p cx sc acks = releasePush p cx.now cx.core sc :=
  (if_neg (Bool.eq_false_iff.mp hj)).trans (if_neg (not_not_intro hl))

/-- The release that a slot has passed, where it is the only one (R170). -/
theorem tryRels_one {n : Nat} (h : (slotOf (partOf p cx.core) cx.slot).rels = [n]) : tryRels p cx =
    if (releaseAt p cx n true).2 then
      updPart (releaseAt p cx n true).1 cx.core (fun k => updSlot k cx.slot (fun s => { s with rels := [] }))
    else (releaseAt p cx n true).1 := by
  simp only [tryRels, h, List.foldl_cons, List.foldl_nil, Bool.true_and]

end

/-! FENCE (R194). -/

theorem exec_fence (f : Fields) (s : State) : exec (.fence f) s = issue (.fence f) .lane0 fence s := rfl

theorem fence_acquire {f : Fields} (h : ordOf f = 1) (cx : Cx) (p : Pkg) :
    fence f cx p = if (curSlot p cx).loads = [] then .done p else .stay p := if_pos h

theorem fence_release {f : Fields} {cx : Cx} {p q : Pkg} {ok : Bool} (h : ordOf f ≠ 1)
    (hrel : releaseAt p cx (scopeOf f) true = (q, ok)) : fence f cx p =
      if ok then .done q
      else if cx.later = true ∧ ordOf f = 2 then .done (updCur q cx (fun s => { s with rels := s.rels ++ [scopeOf f] }))
      else .push q (.push (scopeOf f) true []) := by
  simp only [fence, if_neg h, hrel]

/-- The state in which a FENCE whose release is not done waits for it, or goes past it (R170). -/
def releaseWaiting (s : State) (f : Fields) (q : Pkg) : State :=
  if s.turn.later = true ∧ ordOf f = 2 then
    advance s f (updPart q s.core (fun k => updSlot k s.slot (fun x => { x with rels := x.rels ++ [scopeOf f] })))
  else pushState s f q (.push (scopeOf f) true [])

section
variable {s : State} {f : Fields} (h : runs (.fence f) .lane0 s = true)
include h

theorem exec_fence_release {q : Pkg} {ok : Bool} (hord : ordOf f ≠ 1) (hrel : releaseAt s.pkg (cxOf s) (scopeOf f) true = (q, ok)) :
    exec (.fence f) s = .next (if ok then advance s f q else releaseWaiting s f q) := by
  have hbody := fence_release hord hrel
  rw [exec_fence]
  cases ok with
  | true => exact issue_done rfl h hbody
  | false =>
    rw [if_neg Bool.false_ne_true] at hbody ⊢
    rw [releaseWaiting]
    split
    case isTrue hpass => exact issue_done rfl h (hbody.trans (if_pos hpass))
    case isFalse hwait => exact issue_push rfl h (hbody.trans (if_neg hwait))

end

/-! What a passed FENCE.REL makes wait (R170). -/

theorem attempt_releasePending {i : Instr} {c : Nat} {f : Fields} {s : State} {g : Guarding} {body : Cx → Pkg → Eff}
    (hregion : s.cur.region = none) (hright : rightHeld s c f = true) (hstate : stateOk s.part s.core s.slot c f = true)
    (hboard : scoreboardFree s.part s.slot c f = true) (hops : operandsReady s.pkg s.core s.slot f = true)
    (hguard : guardPasses g s.cur f = true) (hrels : s.cur.rels ≠ []) (hpass : passesRelease c f = false) :
    attempt s.pkg (cxOf s) i c f g body = .stay (tryRels s.pkg (cxOf s)) := by
  obtain ⟨row, hrow, hright⟩ := rightHeld_iff.mp hright
  have hsome : (s.cur.rels.isEmpty || passesRelease c f) = false := by simp [hrels, hpass]
  simp only [State.part, State.cur] at hright hstate hboard hregion hguard hsome
  simp [attempt, hrow, cxOf_core, cxOf_slot, hright, hstate, hboard, hregion, hops, hguard, hsome]

/-! The granules of a range (R195, R196). -/

theorem scopeLevel_of_le_one {n : Nat} (h : n ≤ 1) : scopeLevel n = 0 := by
  interval_cases n <;> rfl

theorem scopeLevel_pos {n : Nat} (h : 2 ≤ n) : scopeLevel n ≠ 0 := by
  unfold scopeLevel
  split <;> omega

theorem exec_mpush (f : Fields) (s : State) : exec (.mpush f) s = issue (.mpush f) .lane0 mpush s := rfl

section
variable {s : State} {f : Fields} (hhold : s.cur.hold = .none)
include hhold

theorem entryNow_mpush : entryNow (partOf s.pkg (cxOf s).core) (slotOf (partOf s.pkg (cxOf s).core) (cxOf s).slot) (opdLay f.d)
    (opdScalar (slotOf (partOf s.pkg (cxOf s).core) (cxOf s).slot) f.a) [0] = entryFor s.part (opdLay f.d) (s.aVal f) [0] :=
  entryNow_fresh hhold _ _ _

theorem mpush_error {t : Trap} (h : entryFor s.part (opdLay f.d) (s.aVal f) [0] = .error t) : mpush f (cxOf s) s.pkg = .trap t := by
  simp only [mpush, entryNow_mpush hhold, h]

section
variable {e : Bits512} {gs : List Int} (he : entryFor s.part (opdLay f.d) (s.aVal f) [0] = .ok e)
  (hgs : rangeGranules e (s.aVal f) (s.bVal f) = .ok gs) (hj : journalWaits s.part s.slot false = false)
include he hgs hj

/-- An MPUSH whose range is known, and whose slot has no store on its way to M0. -/
theorem mpush_goes : mpush f (cxOf s) s.pkg =
    if scopeLevel (scopeOf f) = 0 then .done s.pkg
    else
      let (keys, xs, o) := rangeKeys s.pkg (cxOf s) gs
      let (p1, ok) := pushKeys s.pkg s.time s.core (scopeOf f) (dedupNat keys)
      if ok then rangeEnd p1 (cxOf s) (pathEmpty s.pkg s.core (scopeLevel (scopeOf f)) keys) o
      else .push (setCap p1 (cxOf s) e xs) (.push (scopeOf f) false []) := by
  have hgs' : rangeGranules e (opdScalar (slotOf (partOf s.pkg (cxOf s).core) (cxOf s).slot) f.a)
    (bScalar s.pkg (cxOf s).core (slotOf (partOf s.pkg (cxOf s).core) (cxOf s).slot) f.b) = .ok gs := hgs
  have hj' : journalWaits (partOf s.pkg (cxOf s).core) (cxOf s).slot false = false := hj
  simp only [mpush, entryNow_mpush hhold, he, hgs', hj', Bool.false_eq_true, if_false]
  rfl

/-- Inside the core there is nothing to push. -/
theorem mpush_near (hscope : scopeOf f ≤ 1) : mpush f (cxOf s) s.pkg = .done s.pkg :=
  (mpush_goes hhold he hgs hj).trans (if_pos (scopeLevel_of_le_one hscope))

theorem mpush_pushes {keys : List Nat} {xs : List Xlat} {p : Pkg} {ok : Bool} (hscope : 2 ≤ scopeOf f)
    (hkeys : rangeKeys s.pkg (cxOf s) gs = (keys, xs, none))
    (hpush : pushKeys s.pkg s.time s.core (scopeOf f) (dedupNat keys) = (p, ok)) :
    mpush f (cxOf s) s.pkg = if ok then .done p else .push (setCap p (cxOf s) e xs) (.push (scopeOf f) false []) := by
  rw [mpush_goes hhold he hgs hj, if_neg (scopeLevel_pos hscope)]
  simp only [hkeys, hpush, rangeEnd]

end

end

section
variable {s : State} {f : Fields}

theorem exec_mdrop (f : Fields) (s : State) : exec (.mdrop f) s = issue (.mdrop f) .lane0 mdrop s := rfl

theorem mdrop_error {t : Trap} (h : entryFor s.part (opdLay f.d) (s.aVal f) [0] = .error t) : mdrop f (cxOf s) s.pkg = .trap t := by
  have h' : entryFor (partOf s.pkg (cxOf s).core) (opdLay f.d) (opdScalar (slotOf (partOf s.pkg (cxOf s).core) (cxOf s).slot) f.a) [0] =
    .error t := h
  simp only [mdrop, h']

/-- The package without the floor copies of the lines of some keys (R196). -/
def dropped (s : State) (f : Fields) (keys : List Nat) : Pkg :=
  keys.foldl (fun q k => dropCopies q s.core (scopeLevel (scopeOf f)) k) s.pkg

theorem mdrop_drops {gs : List Int} {keys : List Nat} {xs : List Xlat} (h : rangeOf s f gs)
    (hkeys : rangeKeys s.pkg (cxOf s) gs = (keys, xs, none)) : mdrop f (cxOf s) s.pkg = .done (dropped s f keys) := by
  obtain ⟨e, he, hgs⟩ := h
  have he' : entryFor (partOf s.pkg (cxOf s).core) (opdLay f.d) (opdScalar (slotOf (partOf s.pkg (cxOf s).core) (cxOf s).slot) f.a) [0] =
    .ok e := he
  have hgs' : rangeGranules e (opdScalar (slotOf (partOf s.pkg (cxOf s).core) (cxOf s).slot) f.a)
    (bScalar s.pkg (cxOf s).core (slotOf (partOf s.pkg (cxOf s).core) (cxOf s).slot) f.b) = .ok gs := hgs
  simp only [mdrop, he', hgs', hkeys, rangeEnd]
  rfl

end

/-! What is left where floor copies are dropped (R196). -/

theorem onlyInsts_dropCopies (p : Pkg) (c top key : Nat) : onlyInsts p (dropCopies p c top key) :=
  onlyInsts_foldl (fun q _ => onlyInsts_setInst q _ _ _) _ p

/-- A level place keeps its run where its floor copies change. -/
theorem run_setInst_copies {p : Pkg} (h : mapSorted 0 p.insts = true) (l m : Nat) (copies : SMap FloorCopy) (lvl n : Nat) :
    (instOf (setInst p l m { instOf p l m with copies := copies }) lvl n).run = (instOf p lvl n).run := by
  by_cases hplace : lvl * 4096 + n = l * 4096 + m
  · have hself : instOf (setInst p l m { instOf p l m with copies := copies }) l m = { instOf p l m with copies := copies } :=
      mapGet_put_self instReset h _ _
    have hplace' (q : Pkg) : instOf q lvl n = instOf q l m := congrArg (mapGet instReset q.insts) hplace
    rw [hplace', hplace', hself]
  · rw [instOf_setInst_other p _ hplace]

/-- Changes of floor copies one after the other, each at a level place of its own choice. -/
theorem run_foldl_copies {α : Type} (place : Pkg → α → Nat × Nat) (copies : Pkg → α → SMap FloorCopy) (l : List α) {p : Pkg}
    (h : mapSorted 0 p.insts = true) (lvl n : Nat) :
    (instOf (l.foldl (fun q a => setInst q (place q a).1 (place q a).2
      { instOf q (place q a).1 (place q a).2 with copies := copies q a }) p) lvl n).run = (instOf p lvl n).run := by
  induction l generalizing p with
  | nil => rfl
  | cons a rest ih => exact (ih (mapSorted_put instReset h _ _)).trans (run_setInst_copies h _ _ _ lvl n)

theorem run_dropCopies {p : Pkg} (h : mapSorted 0 p.insts = true) (c top key lvl n : Nat) :
    (instOf (dropCopies p c top key) lvl n).run = (instOf p lvl n).run :=
  run_foldl_copies (fun _ l => (l, pathPlace c l (keyGran key)))
    (fun q l => mapErase (instOf q l (pathPlace c l (keyGran key))).copies (lineKey key)) _ h lvl n

/-! MSYNC and DRAINST (R197, R198). -/

/-- MSYNC waits for a merge of its M0 that has started. -/
def msyncBody (_ : Fields) (cx : Cx) (p : Pkg) : Eff :=
  if (instOf p 0 cx.core).merging && (instOf p 0 cx.core).stall.isNone then .hold (setHold p cx .sync) else .done p

theorem exec_msync (f : Fields) (s : State) : exec (.msync f) s = issue (.msync f) .lane0 msyncBody s := rfl

/-- DRAINST waits for the journal entries of its context. -/
def drainstBody (_ : Fields) (cx : Cx) (p : Pkg) : Eff :=
  if (partOf p cx.core).journal.any (fun e => decide (e.2.ctx = (slotOf (partOf p cx.core) cx.slot).ctx) && jAwaits e.2) then .stay p
  else .done p

theorem exec_drainst (f : Fields) (s : State) : exec (.drainst f) s = issue (.drainst f) .lane0 drainstBody s := rfl

theorem any_jAwaits_iff {journal : SMap JEntry} {ctx : Nat} :
    journal.any (fun e => decide (e.2.ctx = ctx) && jAwaits e.2) = true ↔
      ∃ e ∈ journal, e.2.ctx = ctx ∧ (e.2.status = 1 ∨ e.2.status = 2) := by
  simp only [List.any_eq_true, Bool.and_eq_true, decide_eq_true_eq, jAwaits, Bool.or_eq_true]

end Sys2Proof.Machine

open Sys2Proof.Claims Sys2Proof.Machine

/-- Settles O22: FENCE is its release, which waits or pushes; a passed FENCE.REL stands before the meaning of a store; MPUSH and MDROP work on the
keys of their range, and the runs stand where floor copies are dropped. -/
theorem fencesAndRanges : Obligations.FencesAndRanges := by
  unfold Obligations.FencesAndRanges
  refine ⟨?acquired, ?acquires, fun s f p ok h hord => ⟨fun hwaits => ?waits, fun hj hl hpush => ?releases⟩, ?passed, ?mpushTraps, ?mpushNear,
    ?mpushes, ?mdropTraps, ?mdrops, fun p c top lvl n key hp => run_dropCopies hp c top key lvl n, ?msyncDone, ?msyncWaits, ?drainstDone,
    ?drainstWaits⟩
  case acquired =>
    rintro s f h ⟨hord, hloads⟩
    exact (exec_fence f s).trans (issue_done rfl h ((fence_acquire hord _ _).trans (if_pos hloads)))
  case acquires =>
    rintro s f h ⟨hord, hloads⟩
    exact (exec_fence f s).trans (issue_waits rfl h ((fence_acquire hord _ _).trans (if_neg hloads)))
  case waits => exact exec_fence_release h hord (releaseAt_waits _ hwaits)
  case releases => exact exec_fence_release h hord ((releaseAt_pushes (cx := cxOf s) _ hj hl).trans hpush)
  case passed =>
    intro s f n hlive hhold hregion hright hstate hboard hops hguard hrels
    have hattempt (g : Guarding) (body : Cx → Pkg → Eff) (hg : g = guardingOf 0x0E2 f ∨ g = .lane0) :
        attempt s.pkg (cxOf s) (.st f) 0x0E2 f g body = .stay (tryRels s.pkg (cxOf s)) := by
      obtain rfl : g = .lane0 := hg.elim (fun hg => hg.trans rfl) id
      exact attempt_releasePending hregion hright hstate hboard hops hguard (by simp [hrels]) rfl
    rw [exec_of_attempt rfl hlive hhold hattempt (fun q => Eff.noConfusion), settle_stay]
    exact congrArg (fun q => Host.Outcome.next (s.with (stand q (cxOf s) .none))) (tryRels_one hrels)
  case mpushTraps =>
    exact fun s f t h ht => (exec_mpush f s).trans (issue_trap rfl h (mpush_error (hold_of_runs rfl h).2 ht))
  case mpushNear =>
    rintro s f h ⟨⟨gs, e, he, hgs⟩, hj, hscope⟩
    exact (exec_mpush f s).trans (issue_done rfl h (mpush_near (hold_of_runs rfl h).2 he hgs hj hscope))
  case mpushes =>
    intro s f e gs keys xs p ok h he hgs hj hscope hkeys hpush
    have hbody := mpush_pushes (hold_of_runs rfl h).2 he hgs hj hscope hkeys hpush
    cases ok with
    | true => exact (exec_mpush f s).trans (issue_done rfl h hbody)
    | false => exact (exec_mpush f s).trans (issue_push rfl h hbody)
  case mdropTraps => exact fun s f t h ht => (exec_mdrop f s).trans (issue_trap rfl h (mdrop_error ht))
  case mdrops =>
    intro s f gs keys xs h hrange hkeys
    exact ⟨dropped s f keys, (exec_mdrop f s).trans (issue_done rfl h (mdrop_drops hrange hkeys)),
      onlyInsts_foldl (fun q k => onlyInsts_dropCopies q s.core _ k) keys s.pkg, rfl⟩
  case msyncDone =>
    intro s f h hpre
    refine (exec_msync f s).trans (issue_done rfl h (if_neg ?_))
    rw [cxOf_core, Bool.and_eq_true, Option.isNone_iff_eq_none]
    rintro ⟨hmerging, hstall⟩
    rcases hpre with hpre | hpre
    · exact Bool.false_ne_true (hpre.symm.trans hmerging)
    · exact Option.isSome_iff_ne_none.mp hpre hstall
  case msyncWaits =>
    intro s f h hmerging hstall
    refine (exec_msync f s).trans (issue_hold rfl h (if_pos ?_))
    simp [cxOf_core, hmerging, hstall]
  case drainstDone =>
    intro s f h hpre
    refine (exec_drainst f s).trans (issue_done rfl h (if_neg (mt any_jAwaits_iff.mp ?_)))
    rintro ⟨e, he, hctx, hstatus⟩
    exact hstatus.elim (hpre e he hctx).1 (hpre e he hctx).2
  case drainstWaits => exact fun s f h hpre => (exec_drainst f s).trans (issue_waits rfl h (if_pos (any_jAwaits_iff.mpr hpre)))
end

section
/-!
Atomic regions as they are recorded (R200, R201): what the open region makes of a word, ARB and ARE, and REGION_EXECUTE.
-/
namespace Sys2Proof.Machine
open Sys2Proof.Claims

/-! What a body may hold (R200). -/

theorem regionAccess_eq {c : Nat} (h : c = 0x0E0 ∨ c = 0x0E2) : regionAccess c = some (decide (c = 0x0E2)) := by
  rcases h with rfl | rfl <;> rfl

theorem regionAccess_none {c : Nat} (hload : c ≠ 0x0E0) (hstore : c ≠ 0x0E2) : regionAccess c = none :=
  (if_neg hload).trans (if_neg hstore)

theorem isSome_regionAccess_iff {c : Nat} : (regionAccess c).isSome = true ↔ c = 0x0E0 ∨ c = 0x0E2 := by
  refine ⟨fun h => ?_, fun h => by rw [regionAccess_eq h]; rfl⟩
  by_contra hnone
  obtain ⟨hload, hstore⟩ := not_or.mp hnone
  rw [regionAccess_none hload hstore] at h
  exact Bool.false_ne_true h

theorem weak_iff (f : Fields) : f.md.toNat / 128 = 0 ↔ ordOf f = 0 := by
  have hmd := f.md.isLt
  rw [ordOf, fld, Nat.shiftRight_eq_div_pow]
  omega

theorem regionAllows_iff {c : Nat} {f : Fields} : regionAllows c f = true ↔ bodyWord c f := by
  simp only [regionAllows, bodyWord, Bool.or_eq_true, Bool.and_eq_true, decide_eq_true_eq, isSome_regionAccess_iff, weak_iff, or_assoc]

/-! A word in an open region. -/

/-- The package once the open region has recorded a word. -/
def recordedPkg (s : State) (i : Instr) (c : Nat) (f : Fields) (r : Region) : Pkg :=
  changeCur s (fun y => { y with region := some { r with ops := r.ops ++ [recordedOp s i c f r] } })

theorem recordedState_eq (s : State) (i : Instr) (c : Nat) (f : Fields) (r : Region) :
    recordedState s i c f r = advance s f (recordedPkg s i c f r) := rfl

theorem settle_late {p : Pkg} {cx : Cx} {f : Fields} {t : Trap} (h : (slotOf (partOf p cx.core) cx.slot).pc + 12 < textSizeOf p cx.core) :
    settle p cx f (.late t) = trapped p cx f t := by
  simp [settle, Nat.not_le.mpr h]

section
variable {s : State} {i : Instr} {c : Nat} {f : Fields} {r : Region}

theorem attempt_inRegion (h : inRegion s i c f r) (g : Guarding) (body : Cx → Pkg → Eff) :
    attempt s.pkg (cxOf s) i c f g body = recordRegion s.pkg (cxOf s) i c f r := by
  obtain ⟨-, -, -, hregion, hare, hright, hstate, hboard, -⟩ := h
  obtain ⟨row, hrow, hright⟩ := rightHeld_iff.mp hright
  simp only [State.part, State.cur] at hright hstate hboard hregion
  simp [attempt, hrow, cxOf_core, cxOf_slot, hright, hstate, hboard, hregion, hare]

section
variable (h : inRegion s i c f r)
include h

theorem exec_inRegion {e : Eff} (he : recordRegion s.pkg (cxOf s) i c f r = e) (hstays : ∀ q, e ≠ .gone q) :
    exec i s = .next (s.with (settle s.pkg (cxOf s) f e)) := by
  have hattempt (g : Guarding) (body : Cx → Pkg → Eff) := (attempt_inRegion h g body).trans he
  obtain ⟨hw, hlive, hhold, -⟩ := h
  exact exec_of_attempt hw hlive hhold (fun g body _ => hattempt g body) hstays

theorem inText_of_inRegion : s.cur.pc + 12 < textSizeOf s.pkg s.core := by
  obtain ⟨-, -, -, -, -, -, -, -, htext⟩ := h
  exact htext

theorem exec_inRegion_done {q : Pkg} (he : recordRegion s.pkg (cxOf s) i c f r = .done q) : exec i s = .next (advance s f q) := by
  rw [exec_inRegion h he (fun _ => Eff.noConfusion), settle_done (p := s.pkg) (cx := cxOf s) (inText_of_inRegion h)]
  rfl

theorem exec_inRegion_trap {t : Trap} (he : recordRegion s.pkg (cxOf s) i c f r = .trap t) : exec i s = .next (trapState s f t) := by
  rw [exec_inRegion h he (fun _ => Eff.noConfusion), settle_trap (p := s.pkg) (cx := cxOf s) (.inl (inText_of_inRegion h))]
  rfl

theorem exec_inRegion_late {t : Trap} (he : recordRegion s.pkg (cxOf s) i c f r = .late t) : exec i s = .next (trapState s f t) := by
  rw [exec_inRegion h he (fun _ => Eff.noConfusion), settle_late (p := s.pkg) (cx := cxOf s) (inText_of_inRegion h)]
  rfl

end

/-! What is recorded (R200). -/

theorem recordRegion_refused (h : ¬ bodyWord c f ∨ 16 ≤ r.ops.length ∨ ((c = 0x0E0 ∨ c = 0x0E2) ∧ 8 ≤ accessesOf r)) :
    recordRegion s.pkg (cxOf s) i c f r = .late (bareTrap causeIllegal (cxOf s)) := by
  rw [← regionAllows_iff, Bool.not_eq_true, ← isSome_regionAccess_iff] at h
  exact if_pos h

section
variable (hbody : bodyWord c f) (hlen : r.ops.length < 16)
include hbody hlen

theorem not_refused (hroom : c = 0x0E0 ∨ c = 0x0E2 → accessesOf r < 8) :
    ¬ (regionAllows c f = false ∨ 16 ≤ r.ops.length ∨ ((regionAccess c).isSome = true ∧ 8 ≤ accessesOf r)) := by
  rw [isSome_regionAccess_iff, Bool.eq_false_iff, ne_eq, regionAllows_iff]
  rintro (h | h | ⟨haccess, h⟩)
  · exact h hbody
  · omega
  · exact absurd (hroom haccess) (Nat.not_lt.mpr h)

/-- A NOP or a scalar instruction is recorded, where its window reference is none that it would act on outside the window. -/
theorem recordRegion_plain (hload : c ≠ 0x0E0) (hstore : c ≠ 0x0E2) : recordRegion s.pkg (cxOf s) i c f r =
    if (bodyActs s.cur c f && !windowOk s.pkg s.core f.b) = true then .trap (bareTrap causeBounds (cxOf s))
    else .done (recordedPkg s i c f r) := by
  have hgo := not_refused hbody hlen (fun h => absurd h (by simp [hload, hstore]))
  rw [recordRegion]
  refine (if_neg hgo).trans ?_
  simp only [regionAccess_none hload hstore, recordedPkg, recordedOp, if_neg hload, if_neg hstore]
  rfl

section
variable (haccess : c = 0x0E0 ∨ c = 0x0E2) (hroom : accessesOf r < 8)
include haccess hroom

/-- An access is recorded, or its checks decide. -/
theorem recordRegion_access : recordRegion s.pkg (cxOf s) i c f r =
    if guardLane0 s.cur f = false then .done (recordedPkg s i c f r)
    else if windowOk s.pkg s.core f.b = false then .trap (bareTrap causeBounds (cxOf s))
    else match (if writtenBefore r.ops (if c = 0x0E2 then f.a else bDesc f.b) then none
        else scalarCheck s.cur s.slot (scalarRegs 0 (if c = 0x0E2 then f.a else bDesc f.b))) with
    | some t => .late t
    | none => recordAccess s.pkg (cxOf s) c f r (bodyLay c f) (decide (c = 0x0E2))
        (writtenBefore r.ops (if c = 0x0E2 then f.a else bDesc f.b)) (layoutOf s.part (asidOf s.part) (bodyLay c f))
        (recordedPkg s i c f r) := by
  have hgo := not_refused hbody hlen (fun _ => hroom)
  rw [recordRegion]
  refine (if_neg hgo).trans ?_
  rcases haccess with rfl | rfl <;> rfl

/-- Past its guard and its window, an access comes to its checks: its coordinates come later, or are read of a register without error. -/
theorem recordRegion_checks (hguard : guardLane0 s.cur f = true) (hwindow : windowOk s.pkg s.core f.b = true)
    (hcoords : writtenBefore r.ops (if c = 0x0E2 then f.a else bDesc f.b) = true ∨
      scalarCheck s.cur s.slot (scalarRegs 0 (if c = 0x0E2 then f.a else bDesc f.b)) = none) :
    recordRegion s.pkg (cxOf s) i c f r = recordAccess s.pkg (cxOf s) c f r (bodyLay c f) (decide (c = 0x0E2))
      (writtenBefore r.ops (if c = 0x0E2 then f.a else bDesc f.b)) (layoutOf s.part (asidOf s.part) (bodyLay c f))
      (recordedPkg s i c f r) := by
  rw [recordRegion_access hbody hlen haccess hroom]
  simp only [hguard, hwindow, Bool.true_eq_false, if_false]
  rcases hcoords with hlate | hgood
  · rw [if_pos hlate]
  · rw [hgood, ite_self]

end

end

/-! The checks of an access (R189, R200). -/

section
variable {p keep : Pkg} {cx : Cx} {w : Word} {n : Nat} {store : Bool} {ent : Option Bits512}
  (hw : regionCoords p cx.core (slotOf (partOf p cx.core) cx.slot) c f = w)
include hw

theorem recordAccess_entry {t : Trap} (h : regionEntry cx w n store ent = .error t) (late : Bool) :
    recordAccess p cx c f r n store late ent keep = .trap t := by
  simp only [recordAccess, hw, h]

section
variable {e : Bits512} (h : regionEntry cx w n store ent = .ok e)
include h

/-- Where its coordinates are known only as the body is performed, the checks of its element come then. -/
theorem recordAccess_lateOper {t : Trap} (hop : regionOper r.xl w n r.line store (fld f.md 1 3) e = .error t) :
    recordAccess p cx c f r n store true ent keep = .trap t := by
  simp only [recordAccess, hw, h, if_true, hop]

theorem recordAccess_lateKept (hop : regionOper r.xl w n r.line store (fld f.md 1 3) e = .ok ()) :
    recordAccess p cx c f r n store true ent keep = .done keep := by
  simp only [recordAccess, hw, h, if_true, hop]

theorem recordAccess_element {t : Trap} (hel : regionElement e w n r.line = .error t) :
    recordAccess p cx c f r n store false ent keep = .trap t := by
  simp only [recordAccess, hw, h, hel, Bool.false_eq_true, if_false]
  rfl

section
variable {idx : List Int} (hel : regionElement e w n r.line = .ok idx)
include hel

theorem recordAccess_oper {t : Trap} (hop : regionOper r.xl w n (wrapInt 57 (elemAddr e idx)) store (fld f.md 1 3) e = .error t) :
    recordAccess p cx c f r n store false ent keep = .trap t := by
  simp only [recordAccess, hw, h, hel, Bool.false_eq_true, if_false, Except.map, hop]

theorem recordAccess_kept (hop : regionOper r.xl w n (wrapInt 57 (elemAddr e idx)) store (fld f.md 1 3) e = .ok ())
    (hty : layType e ≠ tyL8) : recordAccess p cx c f r n store false ent keep = .done keep := by
  simp only [recordAccess, hw, h, hel, Bool.false_eq_true, if_false, Except.map, hop, if_neg hty]

end

end

end

end

end Sys2Proof.Machine
end

section
/-!
ARB, ARE and REGION_EXECUTE (R172, R173, R200, R201): what opens a region, and when its body is performed.
-/
namespace Sys2Proof.Machine
open Sys2Proof.Claims

theorem going_of_runs {i : Instr} {g : Guarding} {s : State} (h : runs i g s = true) : going i g s = true := by
  unfold runs at h
  unfold going
  cases hw : i.word with
  | none => simp [hw] at h
  | some x =>
    simp only [hw, inBounds, Bool.and_eq_true] at h ⊢
    obtain ⟨hready, hwindow, -⟩ := h
    exact ⟨hready, hwindow⟩

theorem issue_late {i : Instr} {c : Nat} {f : Fields} {g : Guarding} {body : Fields → Cx → Pkg → Eff} {s : State} {t : Trap}
    (hw : i.word = some (c, f)) (h : runs i g s = true) (hb : body f (cxOf s) s.pkg = .late t) :
    issue i g body s = .next (trapState s f t) := by
  rw [issue_of_runs hw h, hb, settle_late (p := s.pkg) (cx := cxOf s) (inText_of_runs hw h)]
  rfl

/-! ARB (R200). -/

theorem exec_arb (f : Fields) (s : State) : exec (.arb f) s = issue (.arb f) .own arb s := rfl

section
variable {s : State} {f : Fields}

theorem arb_unguarded (h : guardLane0 s.cur f = false) :
    arb f (cxOf s) s.pkg = .jump s.pkg (afterAre (textOf s.pkg s.core) s.cur.pc) := if_pos h

section
variable (hguard : guardLane0 s.cur f = true)
include hguard

theorem arb_error {t : Trap} (h : entryFor s.part (opdLay f.d) (s.aVal f) [0] = .error t) : arb f (cxOf s) s.pkg = .trap t := by
  have hguard' : guardLane0 (slotOf (partOf s.pkg (cxOf s).core) (cxOf s).slot) f = true := hguard
  have h' : entryFor (partOf s.pkg (cxOf s).core) (opdLay f.d) (opdScalar (slotOf (partOf s.pkg (cxOf s).core) (cxOf s).slot) f.a) [0] =
    .error t := h
  simp only [arb, hguard', h', Bool.true_eq_false, if_false]

/-- The region of a line, as an ARB at a text offset opens it. -/
def openedRegion (e : Bits512) (w : Word) (scope : Nat) (x : Xlat) (pc : Nat) : Region :=
  ⟨pc, (elemAddr e (elemIndex e w)).toNat / 128 * 128, scope, x, []⟩

theorem arb_opens {e : Bits512} {x : Xlat} (he : entryFor s.part (opdLay f.d) (s.aVal f) [0] = .ok e)
    (hinside : insideLay e (elemIndex e (s.aVal f)) = true)
    (halign : alignOk (layType e) (elemAddr e (elemIndex e (s.aVal f))) = true)
    (hx : translate s.pkg (cxOf s) (elemAddr e (elemIndex e (s.aVal f))) false = .hit x) (hovl : x.ovl = none) :
    arb f (cxOf s) s.pkg =
      .done (changeCur s (fun y => { y with region := some (openedRegion e (s.aVal f) (scopeOf f) x y.pc) })) := by
  have hguard' : guardLane0 (slotOf (partOf s.pkg (cxOf s).core) (cxOf s).slot) f = true := hguard
  have hw : opdScalar (slotOf (partOf s.pkg (cxOf s).core) (cxOf s).slot) f.a = s.aVal f := rfl
  have he' : entryFor (partOf s.pkg (cxOf s).core) (opdLay f.d) (s.aVal f) [0] = .ok e := he
  simp only [arb, hguard', hw, he', hinside, halign, hx, hovl, Bool.true_eq_false, if_false, Option.isSome_none,
    Bool.false_eq_true]
  rfl

end

end

/-! ARE (R201). -/

/-- The keys of the line of a region. -/
def lineKeys (r : Region) : List Nat := (List.range 4).map (fun i => floorKey r.xl (r.line + 32 * i))

theorem lineKeys_eq (r : Region) : ((List.range 4).map (fun i => r.line + 32 * i)).map (floorKey r.xl) = lineKeys r := List.map_map

theorem exec_are (f : Fields) (s : State) : exec (.are f) s = issue (.are f) .own are s := rfl

section
variable {s : State} {f : Fields}

/-- Outside a region ARE is illegal, but for a false guard. -/
theorem are_closed (h : s.cur.region = none) : are f (cxOf s) s.pkg =
    if guardLane0 s.cur f then .late (bareTrap causeIllegal (cxOf s)) else .done s.pkg := by
  have h' : (slotOf (partOf s.pkg (cxOf s).core) (cxOf s).slot).region = none := h
  simp only [are, h']
  rfl

section
variable {r : Region} (hregion : s.cur.region = some r)
include hregion

/-- A false guard gives the region up. -/
theorem are_unguarded (h : guardLane0 s.cur f = false) :
    are f (cxOf s) s.pkg = .done (changeCur s (fun y => { y with region := none })) := by
  have hregion' : (slotOf (partOf s.pkg (cxOf s).core) (cxOf s).slot).region = some r := hregion
  have h' : guardLane0 (slotOf (partOf s.pkg (cxOf s).core) (cxOf s).slot) f = false := h
  simp only [are, hregion', h', if_true]
  rfl

section
variable (hguard : guardLane0 s.cur f = true) (hloads : ∀ l ∈ s.cur.loads, ∀ n ∈ bodyRegs r.ops, l.dest ≠ .sreg n)
  (hregs : scalarCheck s.cur s.slot (shippedRegs [] r.ops) = none)
  (hgranules : granuleBusy s.part s.slot ((List.range 4).map (fun i => ((r.line + 32 * i : Nat) : Int))) = false)
  (halias : aliasBusy s.pkg (cxOf s) (lineKeys r) = false)
  {p : Pkg} (hpush : pushKeys s.pkg s.time s.core r.scope (lineKeys r) = (p, true))
include hguard hloads hregs hgranules halias hpush

/-- An ARE whose slot has what its body needs, and whose pushes are done: the region is shipped, or performed at once. -/
theorem are_pushed : are f (cxOf s) s.pkg =
    if (s.turn.later || (regionAt p (cxOf s) s.cur r).any (regionAhead p)) = true then
      .hold (setHold p (cxOf s) (.region (cameAt p (cxOf s) r.scope)))
    else match performRegion p (cxOf s) s.cur r with
      | .waits p2 => .hold (setHold p2 (cxOf s) (.region (cameAt p2 (cxOf s) r.scope)))
      | .traps t => .trap t
      | .performed p2 st => .done (updCur p2 (cxOf s) (fun y => afterRegion y st)) := by
  have hregion' : (slotOf (partOf s.pkg (cxOf s).core) (cxOf s).slot).region = some r := hregion
  have hguard' : guardLane0 (slotOf (partOf s.pkg (cxOf s).core) (cxOf s).slot) f = true := hguard
  have hregs' : scalarCheck (slotOf (partOf s.pkg (cxOf s).core) (cxOf s).slot) (cxOf s).slot (shippedRegs [] r.ops) = none := hregs
  have hgs : ((List.range 4).map (fun i => r.line + 32 * i)).map (fun (g : Nat) => (g : Int)) =
    (List.range 4).map (fun i => ((r.line + 32 * i : Nat) : Int)) := List.map_map
  have hbusy : (granuleBusy (partOf s.pkg (cxOf s).core) (cxOf s).slot ((List.range 4).map (fun i => ((r.line + 32 * i : Nat) : Int))) ||
    aliasBusy s.pkg (cxOf s) (lineKeys r)) = false := Bool.or_eq_false_iff.mpr ⟨hgranules, halias⟩
  have hpush' : pushKeys s.pkg (cxOf s).now (cxOf s).core r.scope (lineKeys r) = (p, true) := hpush
  simp only [are, hregion', hguard', hregs', lineKeys_eq, hgs, hbusy, hpush', Bool.false_eq_true, Bool.true_eq_false, if_false]
  refine (if_neg ?_).trans rfl
  rw [List.any_eq_true]
  rintro ⟨l, hl, hneeded⟩
  cases hdest : l.dest with
  | sreg n =>
    rw [hdest] at hneeded
    exact hloads l hl n (List.contains_iff_mem.mp hneeded) hdest
  | vreg n =>
    rw [hdest] at hneeded
    exact Bool.false_ne_true hneeded

theorem are_ships (hlater : s.turn.later = true) :
    are f (cxOf s) s.pkg = .hold (setHold p (cxOf s) (.region (cameAt p (cxOf s) r.scope))) := by
  refine (are_pushed hregion hguard hloads hregs hgranules halias hpush).trans (if_pos ?_)
  rw [hlater, Bool.true_or]

theorem are_performs {p2 : Pkg} {st : RunState} (hlater : s.turn.later = false)
    (hahead : (regionAt p (cxOf s) s.cur r).any (regionAhead p) = false)
    (hperf : performRegion p (cxOf s) s.cur r = .performed p2 st) :
    are f (cxOf s) s.pkg = .done (updPart p2 s.core (fun k => updSlot k s.slot (performedSlot st))) := by
  rw [are_pushed hregion hguard hloads hregs hgranules halias hpush, hlater, hahead, hperf]
  rfl

end

end

end

/-! REGION_EXECUTE (R172, R173). -/

section
variable {s : State} {c n since : Nat} {r : Region} {me : Shipped} (hhold : (slotOf (partOf s.pkg c) n).hold = .region since)
  (hregion : (slotOf (partOf s.pkg c) n).region = some r) (hme : shippedOf c n (slotOf (partOf s.pkg c) n) = some me)
  (hahead : regionAhead s.pkg me = false)
include hhold hregion hme hahead

/-- A shipped region whose turn it is. -/
theorem regionExecute_turn : regionExecute s.pkg (cxOf s) c n =
    match performRegion s.pkg { cxOf s with core := c, slot := n } (slotOf (partOf s.pkg c) n) r with
    | .waits p => p
    | .traps t => takeTrap (logCheck s.pkg s.time c t) s.time c n t
    | .performed p st => updPart p c (fun k => updSlot k n (performedSlot st)) := by
  simp only [regionExecute, hhold, hregion, hme, hahead, Bool.false_eq_true, if_false]
  rfl

end

theorem eventTo_regionExecute {s : State} {c n : Nat} {q : Pkg} (h : regionExecute s.pkg (cxOf s) c n = q) :
    eventTo (.regionExecute c n) s q := congrArg (fun q => Host.Outcome.next (s.with q)) h

end Sys2Proof.Machine
end

section
/-!
The body of a region as it is performed (R201): one recorded instruction, then the rest of the body.
-/
namespace Sys2Proof.Machine
open Sys2Proof.Claims

/-! The scalar instructions (R88). -/

theorem code_of_scalarVal {i : Instr} {v : ScIn → Word} {c : Nat} {f : Fields} (hv : scalarVal i = some v) (hw : i.word = some (c, f)) :
    0x020 ≤ c ∧ c ≤ 0x036 := by
  cases i <;> cases hv <;> cases hw <;> exact ⟨by decide, by decide⟩

theorem scalarVal_none {i : Instr} {c : Nat} {f : Fields} (hw : i.word = some (c, f)) (hc : c < 0x020 ∨ 0x036 < c) : scalarVal i = none := by
  rw [Option.eq_none_iff_forall_not_mem]
  intro v hv
  have hcode := code_of_scalarVal hv hw
  omega

theorem exec_scalar {i : Instr} {v : ScIn → Word} (hv : scalarVal i = some v) (s : State) : exec i s = issueScalar i v s := by
  delta exec
  cases i <;> cases hv <;> rfl

/-! One instruction, and then the rest. -/

section
variable {p : Pkg} {cx : Cx} {r : Region} {o : RegOp} {st st' : RunState} (rest : List RegOp)

/-- A body runs its first instruction, and then the rest. -/
theorem runBody_cons : runBody p cx r (o :: rest) st =
    match runBody p cx r [o] st with
    | .error t => .error t
    | .ok st' => runBody p cx r rest st' := by
  rw [runBody, runBody]
  split <;> rfl

theorem runBody_next (h : runBody p cx r [o] st = .ok st') : runBody p cx r (o :: rest) st = runBody p cx r rest st' := by
  rw [runBody_cons, h]

theorem runBody_stops {t : Trap} (h : runBody p cx r [o] st = .error t) : runBody p cx r (o :: rest) st = .error t := by
  rw [runBody_cons, h]

end

section
variable {p : Pkg} {cx : Cx} {r : Region} {o : RegOp} {st : RunState} {c : Nat} {f : Fields}

/-- The guard of a body instruction, as the rules state it. -/
theorem bodyActs_iff {s : Slot} : bodyActs s c f = true ↔ (if c = 0x037 then guardMask s f ≠ 0 else guardLane0 s f = true) := by
  rw [bodyActs]
  split
  · exact decide_eq_true_iff
  · exact Iff.rfl

theorem runBody_unguarded (hw : o.i.word = some (c, f)) (hc : c ≠ 0x037) (hguard : guardLane0 st.sl f = false) :
    runBody p cx r [o] st = .ok st := by
  have hidle : bodyActs st.sl c f = false := (if_neg hc).trans hguard
  simp only [runBody, hw, hidle, hguard, Bool.false_and, Bool.false_eq_true, if_false, if_true]
  cases regionAccess c with
  | some store => rfl
  | none =>
    cases scalarVal o.i with
    | some v => rfl
    | none => simp only [if_neg hc]

theorem runBody_outside (hw : o.i.word = some (c, f)) (hacts : bodyActs st.sl c f = true) (hwindow : windowOk p cx.core f.b = false) :
    runBody p cx r [o] st = .error (atBody o.pc (bareTrap causeBounds cx)) := by
  simp only [runBody, hw, hacts, hwindow, Bool.not_false, Bool.and_self, if_true]

section
variable (h : bodyRuns p cx st o c f)
include h

theorem inWindow_of_bodyRuns : (bodyActs st.sl c f && !windowOk p cx.core f.b) = false := by
  obtain ⟨-, -, hwindow⟩ := h
  rw [hwindow, Bool.not_true, Bool.and_false]

theorem guard_of_bodyRuns (hc : c ≠ 0x037) : guardLane0 st.sl f = true := by
  obtain ⟨-, hguard, -⟩ := h
  rwa [if_neg hc] at hguard

theorem runBody_nop (hc : c = 0x001) : runBody p cx r [o] st = .ok st := by
  have hinside := inWindow_of_bodyRuns h
  obtain ⟨hw, -, -⟩ := h
  obtain rfl := hc
  have hnone := scalarVal_none hw (by decide)
  simp only [runBody, hw, hinside, hnone, Bool.false_eq_true, if_false]
  rfl

theorem runBody_scalar {v : ScIn → Word} {d : BitVec 5} (hv : scalarVal o.i = some v) (hd : f.d = .s d) :
    runBody p cx r [o] st = .ok { st with sl := setSreg st.sl d.toNat (v (scIn p cx.core st.sl f)) } := by
  have hinside := inWindow_of_bodyRuns h
  have hguard := guard_of_bodyRuns h
  obtain ⟨hw, -, -⟩ := h
  have hcode := code_of_scalarVal hv hw
  have hnone : regionAccess c = none := regionAccess_none (by omega) (by omega)
  simp only [runBody, hw, hinside, hnone, hv, hguard (by omega), hd, Bool.false_eq_true, if_false, if_true]

/-- The predicate that SCMP leaves (R91). -/
def comparedMask (p : Pkg) (cx : Cx) (st : RunState) (f : Fields) (d : Nat) : Mask :=
  mergeMask (guardMask st.sl f) (predOf st.sl d) (if scmpVal (scIn p cx.core st.sl f) then allTrue else 0)

theorem runBody_scmp {d : BitVec 3} (hc : c = 0x037) (hd : f.d = .p d) :
    runBody p cx r [o] st = .ok { st with sl := setPred st.sl d.toNat (comparedMask p cx st f d.toNat) } := by
  have hinside := inWindow_of_bodyRuns h
  obtain ⟨hw, -, -⟩ := h
  obtain rfl := hc
  have hnone := scalarVal_none hw (by decide)
  have haccess : regionAccess 0x037 = none := rfl
  simp only [runBody, hw, hinside, hnone, haccess, hd, Bool.false_eq_true, if_false, if_true]
  rfl

/-- A body LD whose entry passes its checks. -/
theorem runBody_load {e : Bits512} (hc : c = 0x0E0) (he : regionEntry cx (bScalar p cx.core st.sl f.b) (opdLay f.a) false o.entry = .ok e) :
    runBody p cx r [o] st = runLoad p cx r st f o.pc e := by
  have hinside := inWindow_of_bodyRuns h
  have hguard := guard_of_bodyRuns h
  obtain ⟨hw, -, -⟩ := h
  obtain rfl := hc
  have haccess : regionAccess 0x0E0 = some false := rfl
  have hcoords : regionCoords p cx.core st.sl 0x0E0 f = bScalar p cx.core st.sl f.b := rfl
  simp only [runBody, hw, hinside, haccess, hguard (by decide), hcoords, he, Bool.false_eq_true, Bool.true_eq_false, if_false]
  cases runLoad p cx r st f o.pc e <;> rfl

/-- A body ST whose entry passes its checks. -/
theorem runBody_store {e : Bits512} (hc : c = 0x0E2) (he : regionEntry cx (opdScalar st.sl f.a) (opdLay f.d) true o.entry = .ok e) :
    runBody p cx r [o] st = runStore p cx r st f o.pc e := by
  have hinside := inWindow_of_bodyRuns h
  have hguard := guard_of_bodyRuns h
  obtain ⟨hw, -, -⟩ := h
  obtain rfl := hc
  have haccess : regionAccess 0x0E2 = some true := rfl
  have hcoords : regionCoords p cx.core st.sl 0x0E2 f = opdScalar st.sl f.a := rfl
  simp only [runBody, hw, hinside, haccess, hguard (by decide), hcoords, he, Bool.false_eq_true, Bool.true_eq_false, if_false, if_true]
  cases runStore p cx r st f o.pc e <;> rfl

end

/-- R91: the lanes under the guard take the truth of the comparison, the others stand. -/
theorem bit_comparedMask (d : Nat) {l : Nat} (hl : l < 32) : bit (comparedMask p cx st f d) l =
    if bit (guardMask st.sl f) l then
      cndTrue (fld f.md 1 3) (if u f then (opdScalar st.sl f.a).ult (bScalar p cx.core st.sl f.b)
        else (opdScalar st.sl f.a).slt (bScalar p cx.core st.sl f.b)) (opdScalar st.sl f.a == bScalar p cx.core st.sl f.b)
    else bit (predOf st.sl d) l := by
  have htruth : scmpVal (scIn p cx.core st.sl f) = cndTrue (fld f.md 1 3) (if u f then (opdScalar st.sl f.a).ult (bScalar p cx.core st.sl f.b)
    else (opdScalar st.sl f.a).slt (bScalar p cx.core st.sl f.b)) (opdScalar st.sl f.a == bScalar p cx.core st.sl f.b) := scmpVal_eq _
  rw [comparedMask, mergeMask, ← htruth, bit_eq_getLsbD, bit_eq_getLsbD, bit_eq_getLsbD, BitVec.getLsbD_or, BitVec.getLsbD_and,
    BitVec.getLsbD_and, BitVec.getLsbD_not, decide_eq_true hl]
  have hall : allTrue.getLsbD l = true := by rw [allTrue, BitVec.getLsbD_allOnes, decide_eq_true hl]
  cases (guardMask st.sl f).getLsbD l with
  | true =>
    cases scmpVal (scIn p cx.core st.sl f) with
    | true => simp [hall]
    | false => simp
  | false => simp

end

/-! Elements within one granule (R137). -/

/-- An aligned element of a type that is no block lies in one granule. -/
theorem inGranule_of_aligned {ty a : Nat} (hty : ty ≠ tyF4X) (h : alignOk ty (a : Int) = true) :
    0 < tySize ty ∧ a % 32 + tySize ty ≤ 32 := by
  have hsize : tySize ty = 1 ∨ tySize ty = 2 ∨ tySize ty = 4 ∨ tySize ty = 8 := by
    unfold tySize
    split <;> simp_all [tyF4X]
  rw [alignOk, if_neg hty, decide_eq_true_eq] at h
  rcases hsize with hsize | hsize | hsize | hsize <;> rw [hsize] at h ⊢ <;> omega

theorem granulesOf_one {a n : Nat} (h : 0 < n ∧ a % 32 + n ≤ 32) : granulesOf [(a : Int)] n = [((a / 32 * 32 : Nat) : Int)] := by
  have hlast : ((a : Int) + (n : Int) - 1) / 32 = (a : Int) / 32 := by omega
  simp [granulesOf, firstAddrs, hlast]

/-- An element of a body that passes its checks is aligned, and lies in the line of the region. -/
theorem regionElement_ok {e : Bits512} {w : Word} {n line : Nat} {idx : List Int} (h : regionElement e w n line = .ok idx) :
    alignOk (layType e) (elemAddr e idx) = true ∧ (line : Int) ≤ elemAddr e idx ∧ elemAddr e idx + tySize (layType e) ≤ line + 128 := by
  simp only [regionElement] at h
  split at h
  · cases h
  split at h
  · cases h
  split at h
  · cases h
  next halign hline =>
    cases h
    rw [Bool.not_eq_false] at halign hline
    simp only [inLine, Bool.and_eq_true, decide_eq_true_eq] at hline
    exact ⟨halign, hline⟩

/-- Its address is a natural number, and it lies in one granule where its type is no block. -/
theorem inGranule_of_regionElement {e : Bits512} {w : Word} {n line : Nat} {idx : List Int} (h : regionElement e w n line = .ok idx)
    (hty : layType e ≠ tyF4X) : elemAddr e idx = (elemAddr e idx).toNat ∧
      0 < tySize (layType e) ∧ (elemAddr e idx).toNat % 32 + tySize (layType e) ≤ 32 := by
  obtain ⟨halign, hlow, -⟩ := regionElement_ok h
  have hnat : elemAddr e idx = (elemAddr e idx).toNat := (Int.toNat_of_nonneg (by omega)).symm
  rw [hnat] at halign
  exact ⟨hnat, inGranule_of_aligned hty halign⟩

/-! A body LD (R201). -/

section
variable {p : Pkg} {cx : Cx} {r : Region} {st : RunState} {f : Fields} {pc : Nat} {e : Bits512}

theorem runLoad_refused {t : Trap} (h : regionElement e (bScalar p cx.core st.sl f.b) (opdLay f.a) r.line = .error t) :
    runLoad p cx r st f pc e = .error (atBody pc t) := by
  simp only [runLoad, h]

/-- It reads the view of its granule. -/
theorem runLoad_reads {idx : List Int} {d : BitVec 5} (hd : f.d = .s d)
    (h : regionElement e (bScalar p cx.core st.sl f.b) (opdLay f.a) r.line = .ok idx) (hplain : plainType e)
    (hgood : regionBad p cx.now cx.core (scopeLevel r.scope) r.xl st.recs ((elemAddr e idx).toNat / 32 * 32) = false) :
    runLoad p cx r st f pc e = .ok { st with
      nv := st.nv || (regionView p cx.now cx.core (scopeLevel r.scope) r.xl st.recs ((elemAddr e idx).toNat / 32 * 32)).2
      sl := setSreg st.sl d.toNat (granuleElement e
        (regionView p cx.now cx.core (scopeLevel r.scope) r.xl st.recs ((elemAddr e idx).toNat / 32 * 32)).1 (elemAddr e idx).toNat) } := by
  obtain ⟨hl8, hf4x⟩ := id hplain
  obtain ⟨hnat, hin⟩ := inGranule_of_regionElement h hf4x
  have hgs : granulesOf [elemAddr e idx] (tySize (layType e)) = [(((elemAddr e idx).toNat / 32 * 32 : Nat) : Int)] := by
    rw [hnat]
    exact granulesOf_one hin
  simp only [runLoad, h, if_neg hl8, hgs, List.map_cons, List.map_nil, List.append_nil, List.find?_cons, List.find?_nil, Int.toNat_natCast,
    hgood, List.foldl_cons, List.foldl_nil, scalarFrom_plain hplain, hd, mapInsert, granuleElement,
    Nat.mul_div_cancel _ (show 0 < 32 by decide)]

end

end Sys2Proof.Machine
end

section
/-!
A body ST as it is performed (R138, R193, R201): its element lies in one granule, and it leaves one record.
-/
namespace Sys2Proof.Machine
open Sys2Proof.Claims

/-! The piece of an element in one granule. -/

/-- A map in canonical form all of whose entries stand under one key. -/
theorem eq_single_of_sorted {β : Type} {m : SMap β} {lo k : Nat} {v : β} (hs : mapSorted lo m = true) (hk : ∀ x ∈ m, x.1 = k)
    (hv : mapFind m k = some v) : m = [(k, v)] := by
  match m with
  | [] => exact absurd hv.symm (Option.some_ne_none v)
  | [(k', v')] =>
    obtain rfl : k' = k := hk _ List.mem_cons_self
    rw [mapFind_cons, if_pos rfl] at hv
    rw [Option.some.inj hv]
  | x :: y :: rest =>
    have hx := hk x List.mem_cons_self
    have hy := hk y (List.mem_cons_of_mem _ List.mem_cons_self)
    simp only [mapSorted, Bool.and_eq_true, decide_eq_true_eq] at hs
    omega

/-- A mask with no bit is empty. -/
theorem exists_bit_of_ne_zero {m : BitVec 32} (h : m ≠ 0) : ∃ i, i < 32 ∧ m.getLsbD i = true := by
  by_contra hnone
  refine h (BitVec.eq_of_getLsbD_eq (fun i hi => ?_))
  have hclear : m.getLsbD i = false := Bool.eq_false_iff.mpr (fun hbit => hnone ⟨i, hi, hbit⟩)
  exact hclear.trans BitVec.getLsbD_zero.symm

theorem pieceAt_of_mapFind {m : SMap Piece} {key : Nat} {q : Piece} (h : mapFind m key = some q) : pieceAt m key = q := by
  rw [pieceAt, mapGet, h]
  rfl

/-- An element that lies in one granule is stored by one piece, that of the granule. -/
theorem storePieces_inGranule {e : Bits512} {idx : List Int} (v : Nat)
    (h : 0 < tySize (layType e) ∧ (elemAddr e idx).toNat % 32 + tySize (layType e) ≤ 32) :
    ∃ q, storePieces e [(0, some idx)] (fun _ => v) (fun _ _ => true) = [q] ∧
      pieceOf (elemAddr e idx).toNat v (tySize (layType e)) ((elemAddr e idx).toNat / 32) (fun _ => true) q := by
  obtain ⟨hpos, hin⟩ := h
  obtain ⟨hsorted, hmask, hpiece⟩ := piecesOf_range (elemAddr e idx).toNat v (fun _ => true) (tySize (layType e))
  rw [storePieces_one]
  generalize hm : (List.range (tySize (layType e))).foldl (pieceByte (elemAddr e idx).toNat v (fun _ => true)) [] = m at *
  have hkeys : ∀ x ∈ m, x.1 = (elemAddr e idx).toNat / 32 := by
    rintro ⟨key, q⟩ hx
    have hfind := mapFind_of_mem_sorted hsorted hx
    obtain ⟨i, hi, hbit⟩ := exists_bit_of_ne_zero (hmask key q hfind)
    obtain ⟨-, hbits⟩ := pieceAt_of_mapFind hfind ▸ hpiece key
    have hplace := (hbits i hi).1.symm.trans hbit
    simp only [Bool.and_eq_true, decide_eq_true_eq] at hplace
    exact (by omega : key = (elemAddr e idx).toNat / 32)
  have hhere := hpiece ((elemAddr e idx).toNat / 32)
  cases hfind : mapFind m ((elemAddr e idx).toNat / 32) with
  | none =>
    obtain ⟨-, hbits⟩ := hhere
    have hbit := (hbits ((elemAddr e idx).toNat % 32) (Nat.mod_lt _ (by decide))).1
    have hfirst : 32 * ((elemAddr e idx).toNat / 32) + (elemAddr e idx).toNat % 32 = (elemAddr e idx).toNat := Nat.div_add_mod _ _
    have hempty : (pieceAt m ((elemAddr e idx).toNat / 32)).mask.getLsbD ((elemAddr e idx).toNat % 32) = false := by
      rw [pieceAt, mapGet, hfind]
      exact BitVec.getLsbD_zero
    rw [hempty, hfirst, decide_eq_true (le_refl _), decide_eq_true (Nat.lt_add_of_pos_right hpos)] at hbit
    exact absurd hbit Bool.false_ne_true
  | some q =>
    refine ⟨q, ?_, pieceAt_of_mapFind hfind ▸ hhere⟩
    rw [eq_single_of_sorted hsorted hkeys hfind]
    rfl

/-! Its record. -/

theorem keyPieces_one {x : Xlat} {q : Piece} (hlow : x.va ≤ q.va) (hhigh : q.va < x.va + x.size) :
    keyPieces [x] [q] = [(storeKey x q.va, q)] := by
  have hx : xlFor [x] q.va = some x := by
    rw [xlFor, List.find?_cons, decide_eq_true hlow, decide_eq_true hhigh]
    rfl
  simp only [keyPieces, List.foldl_cons, List.foldl_nil, hx, mapFind_nil, mapInsert]

/-- The record of a body ST (R138): its owner, and the page's ASID. -/
def bodyRec (p : Pkg) (cx : Cx) (r : Region) (st : RunState) (f : Fields) (pc : Nat) (e : Bits512) (q : Piece) : Rec :=
  { ownRec p cx (fld f.md 1 3) (layType e) (bit f.md 0) pc ((coreOf p cx.core).postSeq + BitVec.ofNat 32 st.recs.length) q with
    asid := r.xl.asid }

section
variable {p : Pkg} {cx : Cx} {r : Region} {st : RunState} {f : Fields} {pc : Nat} {e : Bits512} {idx : List Int}
  (hel : regionElement e (opdScalar st.sl f.a) (opdLay f.d) r.line = .ok idx)
include hel

theorem runStore_leaves {q : Piece}
    (hop : regionOper r.xl (opdScalar st.sl f.a) (opdLay f.d) (wrapInt 57 (elemAddr e idx)) true (fld f.md 1 3) e = .ok ())
    (hq : storePieces e [(0, some idx)] (fun _ => (bScalar p cx.core st.sl f.b).toNat) (fun _ _ => true) = [q])
    (hlow : r.xl.va ≤ q.va) (hhigh : q.va < r.xl.va + r.xl.size) :
    runStore p cx r st f pc e = .ok { st with recs := st.recs ++ [(storeKey r.xl q.va, bodyRec p cx r st f pc e q)] } := by
  simp only [runStore, hel, hop, hq, keyPieces_one hlow hhigh, numberRecs]
  rfl

/-- The granule of its element lies in the page of the region's line. -/
theorem inPage_of_regionElement (hline : lineInPage r) : r.xl.va ≤ (elemAddr e idx).toNat / 32 * 32 ∧
    (elemAddr e idx).toNat / 32 * 32 < r.xl.va + r.xl.size := by
  obtain ⟨-, hlow, hhigh⟩ := regionElement_ok hel
  obtain ⟨halign, hva, hend⟩ := hline
  have hsize : 0 < tySize (layType e) := by
    unfold tySize
    split <;> decide
  omega

end

/-- The bytes of a record whose piece is that of an element in one granule. -/
theorem bytes_of_pieceOf {a v n : Nat} {q : Piece} (h : pieceOf a v n (a / 32) (fun _ => true) q) {i : Nat} (hi : i < 32) :
    q.mask.getLsbD i = (decide (a % 32 ≤ i) && decide (i < a % 32 + n)) ∧
      (q.mask.getLsbD i = true → fld q.payload (8 * i) 8 = v / 2 ^ (8 * (i - a % 32)) % 256) := by
  obtain ⟨-, hbits⟩ := h
  obtain ⟨hmask, hpayload⟩ := hbits i hi
  have hlow : decide (a ≤ 32 * (a / 32) + i) = decide (a % 32 ≤ i) := decide_eq_decide.mpr (by omega)
  have hhigh : decide (32 * (a / 32) + i < a + n) = decide (i < a % 32 + n) := decide_eq_decide.mpr (by omega)
  have hplace : 32 * (a / 32) + i - a = i - a % 32 := by omega
  rw [hlow, hhigh, Bool.and_true] at hmask
  rw [hplace] at hpayload
  exact ⟨hmask, hpayload⟩

/-- The entry of a body ST has no block type. -/
theorem plain_of_regionEntry {cx : Cx} {w : Word} {n : Nat} {ent : Option Bits512} {e : Bits512}
    (h : regionEntry cx w n true ent = .ok e) : layType e ≠ tyF4X := by
  unfold regionEntry at h
  split at h
  · cases h
  · split at h
    · cases h
    split at h
    · cases h
    split at h
    · cases h
    split at h
    · cases h
    · next hblock =>
      cases h
      exact fun hty => hblock ⟨rfl, hty⟩

end Sys2Proof.Machine

open Sys2Proof.Claims Sys2Proof.Machine

/-- Settles O24: what the open region records is decided by the checks of R200 in their order; ARE ships its region or performs it at once; a
body runs one instruction and then the rest, and an element of it that is no block lies in one granule. -/
theorem atomicRegions : Obligations.AtomicRegions := by
  unfold Obligations.AtomicRegions
  refine ⟨fun s f h => ⟨fun hguard => ?arbSkips, fun t hguard ht => ?arbTraps, fun e x hguard he hinside halign hx hovl => ?arbOpens⟩,
    fun s i c f r h => ⟨fun hrefused => ?refused, fun hbody hlen hload hstore => ?plain, fun hbody hlen haccess hroom hguard => ?unguarded⟩,
    fun s i c f r h => ?access, fun s f h => ⟨fun hregion hguard => ?areIllegal, fun hregion hguard => ?areNothing, fun r hregion =>
      ⟨fun hguard => ?areGivesUp, fun hguard hloads hregs hgranules halias p hpush => ⟨fun hlater => ?areShips,
        fun p2 st hlater hahead hperf => ⟨_, rfl, ?arePerforms⟩⟩⟩⟩,
    fun s c n since r me p st hhold hregion hme hahead => ⟨fun hperf => ?performed, fun t hperf => ?performTraps⟩,
    fun _ _ _ _ => rfl, fun p cx r o rest st c f hw => ⟨fun hc hguard => runBody_next rest (runBody_unguarded hw hc hguard),
      fun hguard hwindow => runBody_stops rest (runBody_outside hw (bodyActs_iff.mpr hguard) hwindow)⟩,
    fun p cx r o rest st c f h => ⟨fun hc => runBody_next rest (runBody_nop h hc), fun v d hv hd => runBody_next rest (runBody_scalar h hv hd),
      fun d hc hd => ⟨_, runBody_next rest (runBody_scmp h hc hd), fun l hl => bit_comparedMask d.toNat hl⟩,
      fun e t hc he ht => runBody_stops rest ((runBody_load h hc he).trans (runLoad_refused ht)),
      fun e idx d hc hd he hel hplain hgood => runBody_next rest ((runBody_load h hc he).trans (runLoad_reads hd hel hplain hgood)),
      fun e idx hc he hel hop hline => ?stores⟩, fun i v s c f hv hw h => (exec_scalar hv s).trans (issueScalar_runs v hw h)⟩
  case arbSkips => exact (exec_arb f s).trans (issue_going_jump rfl (going_of_runs h) (arb_unguarded hguard))
  case arbTraps => exact (exec_arb f s).trans (issue_trap rfl h (arb_error hguard ht))
  case arbOpens => exact (exec_arb f s).trans (issue_done rfl h (arb_opens hguard he hinside halign hx hovl))
  case refused => exact exec_inRegion_late h (recordRegion_refused hrefused)
  case plain =>
    have hrecord := recordRegion_plain (s := s) (i := i) (r := r) hbody hlen hload hstore
    have hacts : (bodyActs s.cur c f && !windowOk s.pkg s.core f.b) = true ↔
        (if c = 0x037 then lanesOf s f ≠ 0 else guardLane0 s.cur f = true) ∧ windowOk s.pkg s.core f.b = false := by
      rw [Bool.and_eq_true, bodyActs_iff, Bool.not_eq_true']
      rfl
    by_cases houtside : (bodyActs s.cur c f && !windowOk s.pkg s.core f.b) = true
    · rw [if_pos (hacts.mp houtside)]
      exact exec_inRegion_trap h (hrecord.trans (if_pos houtside))
    · rw [if_neg (mt hacts.mpr houtside)]
      exact exec_inRegion_done h (hrecord.trans (if_neg houtside))
  case unguarded => exact exec_inRegion_done h ((recordRegion_access hbody hlen haccess hroom).trans (if_pos hguard))
  case access =>
    obtain ⟨hin, hcode, hord, hlen, hroom, hguard, hwindow⟩ := h
    have hrecord := recordRegion_checks (s := s) (i := i) (.inr (.inr ⟨hcode, hord⟩)) hlen hcode hroom hguard hwindow
    refine ⟨fun t ht hcoords => ?entry, fun e he => ⟨fun hlate => ?late, fun hcoords => ?known⟩⟩
    case entry => exact exec_inRegion_trap hin ((hrecord (hcoords.symm.imp_right And.right)).trans (recordAccess_entry rfl ht _))
    case late =>
      have hchecks := hrecord (.inl hlate)
      rw [hlate] at hchecks
      exact ⟨fun hop => exec_inRegion_done hin (hchecks.trans (recordAccess_lateKept rfl he hop)),
        fun t hop => exec_inRegion_trap hin (hchecks.trans (recordAccess_lateOper rfl he hop))⟩
    case known =>
      obtain ⟨hearly, hgood⟩ := hcoords
      have hchecks := hrecord (.inr hgood)
      rw [hearly] at hchecks
      exact ⟨fun t hel => exec_inRegion_trap hin (hchecks.trans (recordAccess_element rfl he hel)), fun idx hel =>
        ⟨fun t hop => exec_inRegion_trap hin (hchecks.trans (recordAccess_oper rfl he hel hop)),
          fun hop hty => exec_inRegion_done hin (hchecks.trans (recordAccess_kept rfl he hel hop hty))⟩⟩
  case areIllegal => exact (exec_are f s).trans (issue_late rfl h ((are_closed hregion).trans (if_pos hguard)))
  case areNothing => exact (exec_are f s).trans (issue_done rfl h ((are_closed hregion).trans (if_neg (Bool.eq_false_iff.mp hguard))))
  case areGivesUp => exact (exec_are f s).trans (issue_done rfl h (are_unguarded hregion hguard))
  case areShips => exact (exec_are f s).trans (issue_hold rfl h (are_ships hregion hguard hloads hregs hgranules halias hpush hlater))
  case arePerforms =>
    exact (exec_are f s).trans (issue_done rfl h (are_performs hregion hguard hloads hregs hgranules halias hpush hlater hahead hperf))
  case performed => exact eventTo_regionExecute ((regionExecute_turn hhold hregion hme hahead).trans (by rw [hperf]))
  case performTraps => exact eventTo_regionExecute ((regionExecute_turn hhold hregion hme hahead).trans (by rw [hperf]))
  case stores =>
    obtain ⟨hnat, hin⟩ := inGranule_of_regionElement hel (plain_of_regionEntry he)
    obtain ⟨q, hq, hpiece⟩ := storePieces_inGranule (bScalar p cx.core st.sl f.b).toNat hin
    obtain ⟨hlow, hhigh⟩ := inPage_of_regionElement hel hline
    have hva : q.va = (elemAddr e idx).toNat / 32 * 32 := hpiece.1.trans (Nat.mul_comm _ _)
    have hstore := runStore_leaves (pc := o.pc) hel hop hq (hva ▸ hlow) (hva ▸ hhigh)
    rw [hva] at hstore
    exact ⟨bodyRec p cx r st f o.pc e q, runBody_next rest ((runBody_store h hc he).trans hstore), rfl, rfl, rfl, rfl, rfl, rfl, rfl, rfl,
      fun i hi => bytes_of_pieceOf hpiece hi⟩
end

section
/-!
PREF (R199): whatever its entry, element and translation, it moves on and leaves floor copies, and an entry of the replay log (R334).
-/
namespace Sys2Proof.Machine
open Sys2Proof.Claims

theorem exec_pref (f : Fields) (s : State) : exec (.pref f) s = issue (.pref f) .lane0 pref s := rfl

/-- What the replay log of a core may have taken in: nothing, or what memory has answered it (R334). -/
def loggedReply (p : Pkg) (now c : Nat) (r : Pkg) : Prop :=
  r = p ∨ ∃ detail : List Nat, r = logReceive p now c (Config.replaySource (detail.drop 1)) detail

/-- Outside replay mode nothing is logged. -/
theorem logReceive_off {p : Pkg} {c : Nat} (h : bit (coreOf p c).rplctl 63 = false) (now : Nat) (src : BitVec 22) (detail : List Nat) :
    logReceive p now c src detail = p := if_pos (.inl h)

theorem eq_of_loggedReply {p r : Pkg} {now c : Nat} (h : loggedReply p now c r) (hoff : bit (coreOf p c).rplctl 63 = false) : r = p := by
  obtain rfl | ⟨detail, rfl⟩ := h
  · rfl
  · exact logReceive_off hoff now _ detail

theorem loggedReply_logReply (p : Pkg) (now c : Nat) (l : Load) (gs : List Int) : loggedReply p now c (logReply p now c l gs) := by
  simp only [logReply]
  split
  · exact .inl rfl
  · exact .inr ⟨18 :: gs.map Int.toNat, rfl⟩

/-- PREF is done in every case: it leaves the package as it is, or copies over what the log has taken in. -/
theorem pref_done (f : Fields) (cx : Cx) (p : Pkg) :
    ∃ q r : Pkg, pref f cx p = .done q ∧ onlyInsts r q ∧ loggedReply p cx.now cx.core r := by
  have hnothing : ∃ q r : Pkg, Eff.done p = .done q ∧ onlyInsts r q ∧ loggedReply p cx.now cx.core r := ⟨p, p, rfl, rfl, .inl rfl⟩
  simp only [pref]
  split
  next => exact hnothing
  next e _ =>
    split
    next => exact hnothing
    next =>
      split
      next => exact hnothing
      next x _ =>
        split
        next => exact hnothing
        next => exact ⟨_, _, rfl, onlyInsts_foldl (fun q key => onlyInsts_installCopies q _ cx.core 0 _ x.lease f.long key) _ _,
          loggedReply_logReply _ _ _ _ _⟩

end Sys2Proof.Machine

open Sys2Proof.Claims Sys2Proof.Machine

/-- Settles O23: each branch of PREF is done, and the one that installs copies has at most logged the reply before. -/
theorem prefHasNoFault : Obligations.PrefHasNoFault := by
  unfold Obligations.PrefHasNoFault
  intro s f h
  obtain ⟨q, r, hdone, hcopies, hlogged⟩ := pref_done f (cxOf s) s.pkg
  exact ⟨q, r, (exec_pref f s).trans (issue_done rfl h hdone), hcopies, eq_of_loggedReply hlogged, hlogged⟩
end

section
/-!
The answers to remote requests at their sender (R205, R297, R318, R366), and the messages that a sender keeps (R297).
-/
namespace Sys2Proof.Machine
open Sys2Proof.Claims

/-! The arrival of an answer. -/

theorem atSender_up {p : Pkg} {now c : Nat} {o : Origin} {b : MsgBody} {act : Pkg → Option Pkg} (hup : (coreOf p c).fenced = none) :
    atSender p now c o b act = act (receive p now c o.pkg o.core b) := by
  rw [atSender, if_neg (by rw [hup]; exact Bool.false_ne_true)]

/-- An answer that reaches a core which is not fenced makes of the package what its meaning gives. -/
theorem eventTo_answer {ev : Nat → Nat → Instr} {act : Pkg → Cx → Nat → Origin → MsgBody → Option Pkg}
    (hexec : ∀ (s : State) (src dst : Nat), exec (ev src dst) s = .next (s.with (onMsg s.pkg src dst (fun m q =>
      atSender q s.time dst (senderOf s.pkg m) m.body (fun r => act r (cxOf s) dst (senderOf s.pkg m) m.body)))))
    {s : State} {src dst : Nat} {m : Msg} {r x : Pkg} (h : answers s src dst m r)
    (hact : act r (cxOf s) dst (senderOf s.pkg m) m.body = some x) : eventTo (ev src dst) s x := by
  obtain ⟨q, harrives, hup, rfl⟩ := h
  have hup' : (coreOf q dst).fenced = none := (coreOf_arrives harrives dst).symm ▸ hup
  have hone := (atSender_up (now := s.time) (o := senderOf s.pkg m) (b := m.body)
    (act := fun r => act r (cxOf s) dst (senderOf s.pkg m) m.body) hup').trans hact
  rw [eventTo, hexec, onMsg_arrives harrives, hone]
  rfl

theorem copyAnswer_none {p : Pkg} {c uid : Nat} (h : copyUid (partOf p c) uid = none) (g : Copy → Copy) : copyAnswer p c uid g = p := by
  simp only [copyAnswer, h]

/-! Replies to reads and timeouts (R205, R206). -/

theorem replyArrives_read {p : Pkg} {cx : Cx} {c req lane v : Nat}
    (h : copyUid (partOf (onReply p cx c req (gotLane lane v)) c) req = none) :
    replyArrives p cx c (.readDone req lane v) = some (onReply p cx c req (gotLane lane v)) :=
  congrArg some (copyAnswer_none h _)

theorem timeoutArrives_read {p : Pkg} {c req : Nat} (h : stsfUid (partOf p c) req = none) (cx : Cx) (uid : Nat) (full : Bool) :
    timeoutArrives p cx c (.timeout req uid full) = some (onReply p cx c req (fun y => { y with timedOut := some full })) := by
  simp only [timeoutArrives, h]

/-! Outcomes of journal entries (R318). -/

section
variable {p : Pkg} {c uid n : Nat} {e : JEntry} (h : jByUid (partOf p c) uid = some (n, e))
include h

/-- Success frees the entry, or marks it done while its context holds one that has faulted or was refused. -/
theorem jSuccess_entry : jSuccess p c uid = setPart p c
    (if (partOf p c).journal.any (fun x => decide (x.2.ctx = e.ctx) && (decide (x.2.status = 3) || decide (x.2.status = 4)))
     then { partOf p c with journal := mapInsert (partOf p c).journal n { e with status := 5 } }
     else { partOf p c with journal := mapErase (partOf p c).journal n }) := by
  simp only [jSuccess, h, apply_ite (setPart p c)]
  rfl

/-- A refusal gives the entry its cause and raises REMOTE_REFUSED once. -/
theorem jFail_refused (now cause : Nat) (code : Word) : jFail p now c uid 4 cause code =
    raiseAsync (setPart p c { partOf p c with
      journal := mapInsert (partOf p c).journal n { e with status := 4, cause := cause, code := code } }) now c
      { cause := 0x21, sub := cause, jv := true, jent := n,
        tval := if cause = 0x3E ∨ cause = 0x3F then code else BitVec.ofNat 64 e.addr, tinfo := e.seq.zeroExtend 64, body := none } := by
  simp only [jFail, h]
  rfl

end

theorem ackArrives_ack {p : Pkg} {c uid : Nat} (h : copyUid (partOf (jSuccess p c uid) c) uid = none) (o : Origin) :
    ackArrives p c o (.ack uid) = some (jSuccess p c uid) := congrArg some (copyAnswer_none h _)

theorem refusalArrives_entry {p : Pkg} {cx : Cx} {c uid cause : Nat} {code : Word} (hreq : stsfReq (partOf p c) uid = none)
    (hcopy : copyUid (partOf (jFail p cx.now c uid 4 cause code) c) uid = none) :
    refusalArrives p cx c (.refusal uid cause code) = some (jFail p cx.now c uid 4 cause code) := by
  simp only [refusalArrives, hreq, copyAnswer_none hcopy]

/-! Messages that the sender keeps (R297). -/

theorem dst_of_arrives {s : State} {src dst : Nat} {m : Msg} {q : Pkg} (h : arrives s src dst m q) : m.dst = dst := by
  obtain ⟨hnext, -⟩ := h
  simp only [nextMsg] at hnext
  split at hnext
  next => cases hnext
  next x hx =>
    split at hnext
    next => cases hnext
    next =>
      cases hnext
      have hpair := List.find?_some hx
      simp only [samePair, Bool.and_eq_true, decide_eq_true_eq] at hpair
      exact hpair.2

/-- The package once the sender of a message has logged that its home was not ready, and keeps it. -/
def keptAgain (m : Msg) (now : Nat) (q : Pkg) : Pkg :=
  let r := logReceive q now m.src (BitVec.ofNat 22 (m.dst * 1024 + q.regs.pkgnum)) (28 :: bodyNats m.body)
  { r with parked := r.parked ++ [{ m with first := some (m.first.getD now), last := now }] }

section
variable {m : Msg} {now : Nat} {q : Pkg}

theorem notReadyAnswer_keeps (hneeds : needsTeam m.body = true) (hup : (coreOf q m.dst).fenced = none)
    (hready : homeReady q m.dst = false) : notReadyAnswer m now q = some (keptAgain m now q) := by
  simp only [notReadyAnswer, hneeds, hup, hready]
  rfl

theorem notReadyAnswer_ready (hready : homeReady q m.dst = true) : notReadyAnswer m now q = none := by
  simp only [notReadyAnswer, hready, Bool.not_true, Bool.and_false, Bool.false_eq_true, if_false]

end

theorem eventTo_homeNotReadyAnswer {s : State} {src dst : Nat} {m : Msg} {q : Pkg} (h : arrives s src dst m q) :
    eventTo (.homeNotReadyAnswer src dst) s ((notReadyAnswer m s.time q).getD s.pkg) :=
  congrArg (fun x => Host.Outcome.next (s.with x)) (onMsg_arrives h (fun m q => notReadyAnswer m s.time q))

theorem eventTo_remoteRetryTimer (s : State) (src i : Nat) :
    eventTo (.remoteRetryTimer src i) s (retryTimer s.pkg (cxOf s) src i) := rfl

theorem eventTo_remoteRetryLimit (s : State) (src i : Nat) :
    eventTo (.remoteRetryLimit src i) s (retryLimit s.pkg (cxOf s) src i) := rfl

section
variable {p : Pkg} {src i first : Nat} {m : Msg} (hkept : keptBy p src i = some m) (hfirst : m.first = some first)
include hkept hfirst

theorem retryLimit_early {cx : Cx} (h : cx.now < first + 1000000) : retryLimit p cx src i = p := by
  simp only [retryLimit, hkept, hfirst, Option.getD_some]
  exact if_pos (.inr (.inr h))

variable (hheld : heldBack p m = false) (hwait : waitOf m.body = none)
include hheld hwait

/-- After 1,000 ticks, and until a million after its first arrival, a kept message is sent again. -/
theorem retryTimer_kept (cx : Cx) : retryTimer p cx src i = if m.last + 1000 ≤ cx.now ∧ cx.now < first + 1000000 then
    { p with parked := p.parked.erase m, net := m :: p.net } else p := by
  simp only [retryTimer, hkept, hheld, hwait, hfirst, Bool.false_eq_true, if_false, Option.getD_some, decide_eq_false_iff_not,
    Nat.not_le]

/-- A kept message that is refused with an answer to its journal entry. -/
theorem retryLimit_store {cx : Cx} {off size uid : Nat} {v : Word} (h : first + 1000000 ≤ cx.now)
    (hb : m.body = .store off size v uid) : retryLimit p cx src i =
      (refusalArrives { p with parked := p.parked.erase m } cx src (.refusal uid 0x3D 0)).getD { p with parked := p.parked.erase m } := by
  have hlate : ¬ (heldBack p m = true ∨ (waitOf m.body).isSome = true ∨ cx.now < m.first.getD cx.now + 1000000) := by
    simp [hheld, hwait, hfirst, h]
  simp only [retryLimit, hkept, if_neg hlate]
  rw [hb]
  rfl

end

end Sys2Proof.Machine

open Sys2Proof.Claims Sys2Proof.Machine

/-- Settles O30: an answer reaches a core that is not fenced and ends what asked for it, a reply in a slot or an entry of the journal; a
message for a home that is not ready is kept, and its two timers go by the ticks since its last and its first arrival. -/
theorem remoteAnswers : Obligations.RemoteAnswers := by
  unfold Obligations.RemoteAnswers
  refine ⟨fun s src dst req lane v m r h hb hcopy => ?read, fun s src dst req uid full m r h hb hreq => ?timeout,
    fun s src dst uid n e m r h hb hcopy he => ?ack, fun s src dst uid cause n code e m r h hb he hreq hcopy => ?refusal,
    fun s src dst m q h => ⟨fun hneeds hup hready => ?kept, fun hready => ?ready⟩,
    fun s src i first m hkept hheld hwait hfirst => ⟨fun hearly => ?waits, fun hlast hlimit => ?again, fun hlimit => ?within,
      fun uid off size v hlimit hb hreq hcopy => ?limit⟩⟩
  case read =>
    exact eventTo_answer (act := fun r cx c _ b => replyArrives r cx c b) (fun _ _ _ => rfl) h (hb ▸ replyArrives_read hcopy)
  case timeout =>
    exact eventTo_answer (act := fun r cx c _ b => timeoutArrives r cx c b) (fun _ _ _ => rfl) h
      (hb ▸ timeoutArrives_read hreq (cxOf s) uid full)
  case ack =>
    rw [← jSuccess_entry he]
    exact eventTo_answer (act := fun r _ c o b => ackArrives r c o b) (fun _ _ _ => rfl) h (hb ▸ ackArrives_ack hcopy _)
  case refusal =>
    rw [← jFail_refused he s.time cause code] at hcopy ⊢
    exact eventTo_answer (act := fun r cx c _ b => refusalArrives r cx c b) (fun _ _ _ => rfl) h (hb ▸ refusalArrives_entry hreq hcopy)
  case kept =>
    have hdst := dst_of_arrives h
    have hkeeps := notReadyAnswer_keeps (now := s.time) (q := q) hneeds (by rw [hdst, coreOf_arrives h]; exact hup)
      (by rw [hdst, homeReady_arrives h]; exact hready)
    have hevent := eventTo_homeNotReadyAnswer h
    rw [hkeeps] at hevent
    obtain ⟨-, rfl⟩ := h
    exact hevent
  case ready =>
    have hnone := notReadyAnswer_ready (now := s.time) (q := q) (m := m) (by rw [dst_of_arrives h, homeReady_arrives h]; exact hready)
    have hevent := eventTo_homeNotReadyAnswer h
    rwa [hnone] at hevent
  case waits =>
    exact eventTo_congr ((retryTimer_kept hkept hfirst hheld hwait (cxOf s)).trans (if_neg (fun hdue => Nat.not_le.mpr hearly hdue.1)))
      (eventTo_remoteRetryTimer s src i)
  case again =>
    exact eventTo_congr ((retryTimer_kept hkept hfirst hheld hwait (cxOf s)).trans (if_pos ⟨hlast, hlimit⟩))
      (eventTo_remoteRetryTimer s src i)
  case within =>
    exact eventTo_congr (retryLimit_early hkept hfirst (cx := cxOf s) hlimit) (eventTo_remoteRetryLimit s src i)
  case limit =>
    have hrefused := refusalArrives_entry (p := { s.pkg with parked := s.pkg.parked.erase m }) (cx := cxOf s) hreq hcopy
    have hlimit' := retryLimit_store hkept hfirst hheld hwait (cx := cxOf s) hlimit hb
    rw [hrefused] at hlimit'
    exact eventTo_congr hlimit' (eventTo_remoteRetryLimit s src i)
end

section
/-!
Active messages (R159, R207 to R209, R285): their acceptance at the target, the start of a handler, and its end at AMRET.
-/
namespace Sys2Proof.Machine
open Sys2Proof.Claims

/-! Acceptance (R207, R285). -/

/-- What a target makes of an active message, by the outcome of the reading of its handler entry. -/
def amsgTaken (r : Pkg) (now : Nat) (dst : Nat) (m : Msg) : Pkg :=
  match m.body with
  | .amsg h _ _ _ _ uid => (match handlerEntry r now dst m.asid h with
    | .ok entry => errandAdded r now false dst uid entry m
    | .error cause => sendPkg r dst r.regs.pkgnum m.src m.asid (.refusal uid cause 0))
  | _ => r

/-- The same of its origin and its body. -/
def amsgHandled (r : Pkg) (now dst : Nat) (o : Origin) (b : MsgBody) : Pkg :=
  match b with
  | .amsg h _ _ _ _ uid => (match handlerEntry r now dst o.asid h with
    | .ok entry => errand r now dst false o uid entry b
    | .error cause => refuse r dst o.pkg o.core o.asid cause b)
  | _ => r

theorem amsgs_row : homeRow .activeMessageArrival isAmsg (fun r now _ dst m => amsgTaken r now dst m) := by
  refine home_row (arr := fun q now dst _ o b => amsgArrives q now dst o b) (inner := fun r now dst _ o b => amsgHandled r now dst o b)
    (fun _ _ _ => rfl) (fun b hb q now dst later o => ?_) (fun r now later dst m hb => ?_)
  · obtain ⟨h, x1, x2, x3, x4, uid, rfl⟩ := hb
    rfl
  · obtain ⟨h, x1, x2, x3, x4, uid, hb⟩ := hb
    obtain ⟨src, d, asid, body, first, last⟩ := m
    obtain rfl : body = .amsg h x1 x2 x3 x4 uid := hb
    rfl

theorem handlerEntry_noTeam {p : Pkg} {home : Nat} (h : (partOf p home).team = none) (now asid n : Nat) :
    handlerEntry p now home asid n = .error 0x21 := by
  simp only [handlerEntry, h, if_true]

/-! The start of a handler (R159, R208). -/

theorem sregOf_setSreg_self {x : Slot} (h : mapSorted 0 x.sregs = true) (r : Nat) (v : Word) : sregOf (setSreg x r v) r = v :=
  mapGet_put_self 0 h r v

theorem mapSorted_setSreg {x : Slot} (h : mapSorted 0 x.sregs = true) (r : Nat) (v : Word) :
    mapSorted 0 (setSreg x r v).sregs = true := mapSorted_put 0 h r v

/-- The sender as a handler finds it in s5: core, package and ASID (R208). -/
def senderWord (sd : Sender) : Word := BitVec.ofNat 64 (sd.core % 2 ^ 12 + sd.pkg % 2 ^ 10 * 2 ^ 12 + sd.asid % 2 ^ 9 * 2 ^ 22)

theorem packFields_sender (core pkg asid : Nat) : packFields [(12, core), (10, pkg), (9, asid)] =
    core % 2 ^ 12 + pkg % 2 ^ 10 * 2 ^ 12 + asid % 2 ^ 9 * 2 ^ 22 := by
  simp only [packFields, List.foldr_cons, List.foldr_nil]
  omega

section
variable {e : Errand} {h uid : Nat} {x1 x2 x3 x4 : Word} (hbody : e.body = .amsg h x1 x2 x3 x4 uid) (now : Nat)
include hbody

/-- The registers of a handler that starts: the sender, then the four values. -/
theorem sregs_handlerSlot : (handlerSlot e now).sregs =
    (setSreg (setSreg (setSreg (setSreg (setSreg slotReset 5 (senderWord e.sender)) 1 x1) 2 x2) 3 x3) 4 x4).sregs := by
  simp only [handlerSlot, hbody, packFields_sender]
  rfl

theorem sregOf_handlerSlot : sregOf (handlerSlot e now) 1 = x1 ∧ sregOf (handlerSlot e now) 2 = x2 ∧
    sregOf (handlerSlot e now) 3 = x3 ∧ sregOf (handlerSlot e now) 4 = x4 ∧ sregOf (handlerSlot e now) 5 = senderWord e.sender := by
  have h0 : mapSorted 0 slotReset.sregs = true := rfl
  have h5 := mapSorted_setSreg h0 5 (senderWord e.sender)
  have h1 := mapSorted_setSreg h5 1 x1
  have h2 := mapSorted_setSreg h1 2 x2
  have h3 := mapSorted_setSreg h2 3 x3
  have hread (r : Nat) : sregOf (handlerSlot e now) r =
      sregOf (setSreg (setSreg (setSreg (setSreg (setSreg slotReset 5 (senderWord e.sender)) 1 x1) 2 x2) 3 x3) 4 x4) r :=
    congrArg (fun m => mapGet 0 m r) (sregs_handlerSlot hbody now)
  simp only [hread]
  refine ⟨?_, ?_, ?_, sregOf_setSreg_self h3 4 x4, ?_⟩
  · simp (disch := decide) only [sregOf_setSreg_other, sregOf_setSreg_self h5]
  · simp (disch := decide) only [sregOf_setSreg_other, sregOf_setSreg_self h1]
  · simp (disch := decide) only [sregOf_setSreg_other, sregOf_setSreg_self h2]
  · simp (disch := decide) only [sregOf_setSreg_other, sregOf_setSreg_self h0]

/-- The oldest message starts its handler where the errand slot is idle and the core acts for its team. -/
theorem handlerStart_loads {p : Pkg} {c : Nat} {rest : List Errand} (herrands : (partOf p c).errands = e :: rest)
    (hidle : (slotOf (partOf p c) (errandSlot (partOf p c).mode)).live = false) (hrepart : repartWaits (partOf p c) = false)
    (hgang : (coreOf p c).switching = false) (hup : (coreOf p c).fenced = none) (hteam : (partOf p c).team.isSome = true) :
    handlerStart p now c = setPart p c (loadContext { partOf p c with errands := rest } (errandSlot (partOf p c).mode)
      (handlerSlot e now)) := by
  have huser : isUserWork e = true := by rw [isUserWork, hbody]
  have hsome : (partOf p c).team.isNone = false := by rw [Option.isNone_eq_false_iff]; exact hteam
  simp only [partOf] at herrands hidle hrepart hsome
  simp only [handlerStart, herrands, hidle, hrepart, hgang, hup, huser, hsome]
  rfl

end

theorem eventTo_handlerStart (s : State) (c : Nat) : eventTo (.handlerStart c) s (handlerStart s.pkg s.time c) := rfl

/-! Its end (R209). -/

theorem exec_amret (f : Fields) (s : State) : exec (.amret f) s = issue (.amret f) .lane0 amret s := rfl

/-- The answer of a handler to its sender: success, or a refusal with the code of its AMRET. -/
def amretAnswer (b : Word) (uid : Nat) : MsgBody := if b = 0 then .ack uid else .refusal uid 0x3F (BitVec.ofNat 64 (fld b 0 32))

theorem ofNat_fld_extract (b : Word) : BitVec.ofNat 64 (fld b 0 32) = (b.extractLsb' 0 32).zeroExtend 64 := by
  refine BitVec.eq_of_toNat_eq ?_
  simp [fld]

/-- A handler that a slot runs ends with its answer, and the work that waited for it is done (R159). -/
theorem endHandler_answers {p : Pkg} {now c n : Nat} {sd : Sender} (h : (slotOf (partOf p c) n).sender = some sd)
    (answer : Nat → MsgBody) :
    endHandler p now c n answer = runBuiltins (sendPkg (freeSlot p now c n) c sd.pkg sd.core sd.asid (answer sd.uid)) now c false := by
  simp only [endHandler, h]

theorem sender_readyLater (s : State) (f : Fields) (x : Slot) : (readyLater s f x).sender = x.sender := by
  rw [readyLater]
  split <;> rfl

/-- The issue of an instruction leaves the sender of its slot. -/
theorem sender_markIssued {s : State} (hlive : s.cur.live = true) (f : Fields) :
    (slotOf (partOf (markIssued s.pkg (cxOf s) f) s.core) s.slot).sender = s.cur.sender := by
  have hpart : partOf (markIssued s.pkg (cxOf s) f) s.core = updSlot s.part s.slot (readyLater s f) :=
    congrArg Core.part (coreOf_markIssued (onlyPart_refl s.pkg s.core) hlive)
  rw [hpart, slotOf_updSlot_live (live_readyLater hlive), sender_readyLater]
  rfl

theorem live_of_ready {s : State} {c : Nat} {f : Fields} (h : readyWord s c f = true) : s.cur.live = true := by
  cases hlive : s.cur.live with
  | true => rfl
  | false => simp [readyWord, hlive] at h

/-- A going word stands in a slot with a context. -/
theorem live_of_going {i : Instr} {c : Nat} {f : Fields} {g : Guarding} {s : State} (hw : i.word = some (c, f))
    (h : going i g s = true) : s.cur.live = true := by
  simp only [going, hw, Bool.and_eq_true] at h
  obtain ⟨⟨hready, -⟩, -⟩ := h
  exact live_of_ready hready

/-- Accumulator stores that the current context has issued are still to be performed. -/
def storesLeft (s : State) : Bool := s.part.accq.any (fun x => decide (x.slot = s.slot) && decide (x.ctx = s.cur.ctx))

theorem storesLeft_iff {s : State} : storesLeft s = true ↔ ∃ x ∈ s.part.accq, x.slot = s.slot ∧ x.ctx = s.cur.ctx := by
  simp only [storesLeft, List.any_eq_true, Bool.and_eq_true, decide_eq_true_eq]

section
variable {s : State} {f : Fields}

theorem amret_noHandler (h : s.cur.kind ≠ .errand) : amret f (cxOf s) s.pkg = .trap (bareTrap causeIllegal (cxOf s)) := if_pos h

theorem amret_handler (h : s.cur.kind = .errand) : amret f (cxOf s) s.pkg = if storesLeft s then .stay s.pkg else
    .gone (endHandler (markIssued s.pkg (cxOf s) f) s.time s.core s.slot (amretAnswer (s.bVal f))) := if_neg (not_not_intro h)

theorem amret_ends {sd : Sender} (hlive : s.cur.live = true) (hkind : s.cur.kind = .errand) (hsender : s.cur.sender = some sd)
    (hdone : storesLeft s = false) : amret f (cxOf s) s.pkg =
      .gone (runBuiltins (sendPkg (freeSlot (markIssued s.pkg (cxOf s) f) s.time s.core s.slot) s.core sd.pkg sd.core sd.asid
        (amretAnswer (s.bVal f) sd.uid)) s.time s.core false) := by
  rw [amret_handler hkind, hdone, endHandler_answers ((sender_markIssued hlive f).trans hsender)]
  rfl

end

end Sys2Proof.Machine

open Sys2Proof.Claims Sys2Proof.Machine

/-- Settles O31: a message is taken by its home as its handler entry says; a handler that starts finds its five registers written one
after the other; AMRET waits for the stores of its context, and what it issues leaves the sender that it answers. -/
theorem activeMessages : Obligations.ActiveMessages := by
  unfold Obligations.ActiveMessages
  refine ⟨amsgs_row, fun p now home asid h hteam => handlerEntry_noTeam hteam now asid h,
    fun s c e rest h uid x1 x2 x3 x4 herrands hbody hidle hrepart hgang hup hteam => ?start, fun s f t h ht => ?illegal,
    fun s f sd h hkind hsender hdone => ?ends, fun s f h hleft => ?waits⟩
  case start =>
    obtain ⟨hs1, hs2, hs3, hs4, hs5⟩ := sregOf_handlerSlot hbody s.time
    exact ⟨handlerSlot e s.time, rfl, rfl, rfl, rfl, hs1, hs2, hs3, hs4, hs5,
      eventTo_congr (handlerStart_loads hbody s.time herrands hidle hrepart hgang hup hteam) (eventTo_handlerStart s c)⟩
  case illegal =>
    obtain ⟨hkind, rfl⟩ := ht
    exact (exec_amret f s).trans (issue_going_trap rfl rfl h (amret_noHandler hkind))
  case ends =>
    have hnone : storesLeft s = false := by
      rw [← Bool.not_eq_true, storesLeft_iff]
      exact fun ⟨x, hx, hmine⟩ => hdone x hx hmine
    rw [← ofNat_fld_extract]
    exact (exec_amret f s).trans (issue_going_gone rfl h (amret_ends (live_of_going rfl h) hkind hsender hnone))
  case waits =>
    obtain ⟨hkind, hstores⟩ := hleft
    exact (exec_amret f s).trans (issue_waits rfl h ((amret_handler hkind).trans (if_pos (storesLeft_iff.mpr hstores))))
end

section
/-!
The remote instructions (R204, R206, R207, R209 to R211): a message through the journal, one element of another core, packets, gathers.
-/
namespace Sys2Proof.Machine
open Sys2Proof.Claims

/-! A message through the journal (R206, R317). -/

/-- The journal entry of a message of the current slot with a packet number. -/
def numberedEntry (s : State) (kind addr dst pkg : Nat) (seq : BitVec 32) (b : MsgBody) : JEntry :=
  { msgEntry s kind addr dst pkg b with seq := seq }

theorem entryOfMsg_numberedEntry (s : State) (kind addr dst pkg : Nat) (seq : BitVec 32) (b : MsgBody) :
    entryOfMsg s (numberedEntry s kind addr dst pkg seq b) kind addr dst pkg b := entryOfMsg_msgEntry s kind addr dst pkg b

theorem journalise_numbered {s : State} {n : Nat} (h : jFree s.part = some n) (kind addr dst pkg : Nat) (seq : BitVec 32)
    (b : Nat → MsgBody) : journalise s.pkg (cxOf s) kind 2 addr seq (fun uid => .msg dst pkg (b uid)) =
      some (journalled s n (numberedEntry s kind addr dst pkg seq (b s.part.nextUid)), s.part.nextUid) := by
  have h' : jFree (partOf s.pkg (cxOf s).core) = some n := h
  simp only [journalise, h']
  rfl

theorem sendJournal_full {s : State} (h : jFree s.part = none) (kind pkg dst addr : Nat) (seq : BitVec 32) (b : Nat → MsgBody) :
    sendJournal s.pkg (cxOf s) kind pkg dst addr seq b = none := by
  simp only [sendJournal, journalise_full h]

theorem sendJournal_sends {s : State} {n pkg : Nat} (h : jFree s.part = some n) (hreach : reachable s.pkg pkg = true)
    (kind dst addr : Nat) (seq : BitVec 32) (b : Nat → MsgBody) : sendJournal s.pkg (cxOf s) kind pkg dst addr seq b =
      some (sendPkg (journalled s n (numberedEntry s kind addr dst pkg seq (b s.part.nextUid))) s.core pkg dst (asidOf s.part)
        (b s.part.nextUid)) := by
  simp only [sendJournal, journalise_numbered h, hreach, if_true]
  rfl

/-! AMSG (R207). -/

theorem exec_amsg (f : Fields) (s : State) : exec (.amsg f) s = issue (.amsg f) .lane0 amsg s := rfl

/-- The active message of the current slot, under a serial number. -/
def amsgBody (s : State) (f : Fields) (uid : Nat) : MsgBody :=
  .amsg (fld (blockReg s.cur 0 f.a) 24 8) (blockReg s.cur 1 f.a) (blockReg s.cur 2 f.a) (blockReg s.cur 3 f.a) (s.bVal f) uid

section
variable {s : State} {f : Fields}

/-- With bits [23:22] of sN clear it is sent. -/
theorem amsg_valid (h : fld (blockReg s.cur 0 f.a) 22 2 = 0) : amsg f (cxOf s) s.pkg =
    match sendJournal s.pkg (cxOf s) 5 (fld (blockReg s.cur 0 f.a) 12 10) (fld (blockReg s.cur 0 f.a) 0 12)
      (homeAddr (fld (blockReg s.cur 0 f.a) 12 10) (fld (blockReg s.cur 0 f.a) 0 12) 0) 0 (amsgBody s f) with
    | some p1 => .done p1
    | none => .stay s.pkg := if_pos h

/-- And refused at once with one of them set. -/
theorem amsg_invalid (h : fld (blockReg s.cur 0 f.a) 22 2 ≠ 0) : amsg f (cxOf s) s.pkg =
    match journalise s.pkg (cxOf s) 5 2 (homeAddr (fld (blockReg s.cur 0 f.a) 12 10) (fld (blockReg s.cur 0 f.a) 0 12) 0) 0
      (fun uid => .msg (fld (blockReg s.cur 0 f.a) 0 12) (fld (blockReg s.cur 0 f.a) 12 10) (amsgBody s f uid)) with
    | some (p1, uid) => .done (jFail p1 s.time s.core uid 4 0x21 0)
    | none => .stay s.pkg := if_neg h

theorem amsg_full (h : jFree s.part = none) : amsg f (cxOf s) s.pkg = .stay s.pkg := by
  by_cases hvalid : fld (blockReg s.cur 0 f.a) 22 2 = 0
  · rw [amsg_valid hvalid, sendJournal_full h]
  · rw [amsg_invalid hvalid, journalise_full h]

end

/-! One element of another core (R206). -/

theorem exec_rld (f : Fields) (s : State) : exec (.rld f) s = issue (.rld f) .lane0 rld s := rfl
theorem exec_rst (f : Fields) (s : State) : exec (.rst f) s = issue (.rst f) .lane0 rst s := rfl

section
variable {s : State} {f : Fields} (hhold : s.cur.hold = .none)
include hhold

/-- The checks of an RLD that has not asked yet, one after the other. -/
theorem rld_fresh : rld f (cxOf s) s.pkg = match entryFor s.part (opdLay f.a) (s.bVal f) [2] with
    | .error t => .trap t
    | .ok e => (match accessEls (cxOf s) e (s.bVal f) (opdLay f.a) false false allTrue with
      | .error t => .trap t
      | .ok els => (match checkScale e (s.bVal f) (opdLay f.a) false els, els with
        | some t, _ => .trap t
        | none, (_, some idx) :: _ => askElement s.pkg (cxOf s) e idx none (fun req off size sc => .load off size sc req 0)
        | none, _ => .done (writeD s f 0))) := by
  have hhold' : holdOf s.pkg (cxOf s) = .none := hhold
  simp only [rld, hhold']
  rfl

theorem rld_error {t : Trap} (h : entryFor s.part (opdLay f.a) (s.bVal f) [2] = .error t) : rld f (cxOf s) s.pkg = .trap t := by
  rw [rld_fresh hhold, h]

theorem rld_outside {e : Bits512} (h : remoteEl s f false e none) : rld f (cxOf s) s.pkg = .done (writeD s f 0) := by
  obtain ⟨he, hels, hscale⟩ := h
  simp only [Bool.false_eq_true, if_false] at he hels hscale
  simp only [rld_fresh hhold, he, hels, hscale]

theorem rld_asks {e : Bits512} {idx : List Int} (h : remoteEl s f false e (some idx)) : rld f (cxOf s) s.pkg =
    askElement s.pkg (cxOf s) e idx none (fun req off size sc => .load off size sc req 0) := by
  obtain ⟨he, hels, hscale⟩ := h
  simp only [Bool.false_eq_true, if_false] at he hels hscale
  simp only [rld_fresh hhold, he, hels, hscale]

end

section
variable {s : State} {f : Fields}

/-- The checks of an RST, one after the other. -/
theorem rst_checks : rst f (cxOf s) s.pkg = match entryFor s.part (opdLay f.d) (s.aVal f) [2] with
    | .error t => .trap t
    | .ok e => (match accessEls (cxOf s) e (s.aVal f) (opdLay f.d) false true allTrue with
      | .error t => .trap t
      | .ok ((_, some idx) :: _) => (match sendJournal s.pkg (cxOf s) 1 (homeOfEntry e).1 (homeOfEntry e).2
          (homeAddr (homeOfEntry e).1 (homeOfEntry e).2 (elemAddr e idx).toNat) 0
          (fun uid => .store (elemAddr e idx).toNat (tySize (layType e)) (elemOf e (s.bVal f)) uid) with
        | some p1 => .done p1
        | none => .stay s.pkg)
      | .ok _ => .done s.pkg) := rfl

theorem rst_error {t : Trap} (h : entryFor s.part (opdLay f.d) (s.aVal f) [2] = .error t) : rst f (cxOf s) s.pkg = .trap t := by
  rw [rst_checks, h]

theorem rst_outside {e : Bits512} (h : remoteEl s f true e none) : rst f (cxOf s) s.pkg = .done s.pkg := by
  obtain ⟨he, hels, -⟩ := h
  simp only [if_true] at he hels
  simp only [rst_checks, he, hels]

theorem rst_sends {e : Bits512} {idx : List Int} {n : Nat} (h : remoteEl s f true e (some idx)) (hfree : jFree s.part = some n)
    (hreach : reachable s.pkg (homeOfEntry e).1 = true) :
    let b := MsgBody.store (elemAddr e idx).toNat (tySize (layType e)) (elemOf e (s.bVal f)) s.part.nextUid
    rst f (cxOf s) s.pkg = .done (sendPkg (journalled s n (numberedEntry s 1
      (homeAddr (homeOfEntry e).1 (homeOfEntry e).2 (elemAddr e idx).toNat) (homeOfEntry e).2 (homeOfEntry e).1 0 b)) s.core
      (homeOfEntry e).1 (homeOfEntry e).2 (asidOf s.part) b) := by
  obtain ⟨he, hels, -⟩ := h
  simp only [if_true] at he hels
  simp only [rst_checks, he, hels, sendJournal_sends hfree hreach]

end

/-! Packets (R160, R210). -/

theorem laneWise_rred (f : Fields) : laneWise 0x10A f = vecB f := rfl

/-- RRED goes by its lanes where B is a vector (R28, R210). -/
theorem exec_rred_vecB (f : Fields) (s : State) :
    exec (.rred f) s = issue (.rred f) (if vecB f then .lanes else .lane0) rred s := by
  rw [exec_rred, guardingOf, if_neg (by decide), laneWise_rred]

/-- The number that the next packet of the current core takes with SEQ (R160). -/
def packetSeq (s : State) (f : Fields) : Option (BitVec 32) := if bit f.md 0 then some (coreOf s.pkg s.core).redSeq else none

theorem isSome_packetSeq (s : State) (f : Fields) : (packetSeq s f).isSome = bit f.md 0 := by
  rw [packetSeq]
  cases bit f.md 0 <;> rfl

/-- What RRED makes of the elements that it carries. -/
def packetSent (s : State) (f : Fields) (e : Bits512) (out : List (Nat × Word)) : Eff :=
  if out = [] then .done (popSources s.pkg s.core f)
  else if (packetSeq s f).isSome && !seqMayIssue s.part (coreOf s.pkg s.core).redSeq then .busy s.pkg
  else match sendJournal s.pkg (cxOf s) 2 (homeOfEntry e).1 (homeOfEntry e).2
      (homeAddr (homeOfEntry e).1 (homeOfEntry e).2 ((out.head?.map (·.1)).getD 0)) ((packetSeq s f).getD 0)
      (fun uid => .reduce out (layType e) (fld f.md 1 3) (packetSeq s f) uid) with
    | none => .stay s.pkg
    | some p1 => .done (popSources (updCore p1 s.core (fun c =>
        if (packetSeq s f).isSome then { c with redSeq := c.redSeq + 1 } else c)) s.core f)

theorem packetOf_shifted (s : State) (f : Fields) (vec : Bool) (e : Bits512) (els : List El) : els.filterMap (fun x => x.2.map (fun idx =>
      ((elemAddr e idx).toNat, BitVec.ofNat 64 ((if vec then (vB s f).toNat else (s.bVal f).toNat) >>> (8 * tySize (layType e) * x.1) %
        2 ^ (8 * tySize (layType e)))))) = packetOf s f vec e els := by
  simp only [Nat.shiftRight_eq_div_pow]
  rfl

/-- The checks of an RRED, one after the other. -/
theorem rred_checks (s : State) (f : Fields) : rred f (cxOf s) s.pkg = match entryFor s.part (opdLay f.d) (s.aVal f) [2] with
    | .error t => .trap t
    | .ok e => (match rredEls (cxOf s) e (s.aVal f) (opdLay f.d) (vecB f) (lanesOf s f) with
      | .error t => .trap t
      | .ok els => if opTypeOk (fld f.md 1 3) (layType e) = false ∨ 10 < layType e then .trap (boundsTrap 3 (s.aVal f) (opdLay f.d))
          else packetSent s f e (packetOf s f (vecB f) e els)) := by
  simp only [← packetOf_shifted]
  rfl

section
variable {s : State} {f : Fields} {e : Bits512} (he : entryFor s.part (opdLay f.d) (s.aVal f) [2] = .ok e)
include he

theorem rred_refused {t : Trap} (h : rredEls (cxOf s) e (s.aVal f) (opdLay f.d) (vecB f) (lanesOf s f) = .error t) :
    rred f (cxOf s) s.pkg = .trap t := by
  simp only [rred_checks, he, h]

variable {els : List El} (hels : rredEls (cxOf s) e (s.aVal f) (opdLay f.d) (vecB f) (lanesOf s f) = .ok els)
include hels

theorem rred_unpaired (h : opTypeOk (fld f.md 1 3) (layType e) = false ∨ 10 < layType e) :
    rred f (cxOf s) s.pkg = .trap (boundsTrap 3 (s.aVal f) (opdLay f.d)) := by
  simp only [rred_checks, he, hels, if_pos h]

theorem rred_packet (hop : opTypeOk (fld f.md 1 3) (layType e) = true) (hty : layType e ≤ 10) :
    rred f (cxOf s) s.pkg = packetSent s f e (packetOf s f (vecB f) e els) := by
  have hpaired : ¬ (opTypeOk (fld f.md 1 3) (layType e) = false ∨ 10 < layType e) := by simp [hop, hty]
  simp only [rred_checks, he, hels, if_neg hpaired]

end

section
variable {s : State} {f : Fields} {e : Bits512} {out : List (Nat × Word)}

theorem packetSent_nothing (h : out = []) : packetSent s f e out = .done (popSources s.pkg s.core f) := if_pos h

/-- A packet that the window lets out is sent through the journal; with SEQ the counter of the core advances. -/
theorem packetSent_sends {a n : Nat} {v : Word} {rest : List (Nat × Word)} (hout : out = (a, v) :: rest)
    (hwindow : bit f.md 0 = true → seqMayIssue s.part (coreOf s.pkg s.core).redSeq = true) (hfree : jFree s.part = some n)
    (hreach : reachable s.pkg (homeOfEntry e).1 = true) :
    let b := MsgBody.reduce out (layType e) (fld f.md 1 3) (packetSeq s f) s.part.nextUid
    packetSent s f e out = .done (popSources (updCore (sendPkg (journalled s n (numberedEntry s 2
      (homeAddr (homeOfEntry e).1 (homeOfEntry e).2 a) (homeOfEntry e).2 (homeOfEntry e).1 ((packetSeq s f).getD 0) b)) s.core
      (homeOfEntry e).1 (homeOfEntry e).2 (asidOf s.part) b) s.core
      (fun c => if bit f.md 0 then { c with redSeq := c.redSeq + 1 } else c)) s.core f) := by
  have hopen : ¬ (bit f.md 0 && !seqMayIssue s.part (coreOf s.pkg s.core).redSeq) = true := by
    intro hshut
    simp only [Bool.and_eq_true, Bool.not_eq_true'] at hshut
    obtain ⟨hnumbered, hheld⟩ := hshut
    exact Bool.false_ne_true (hheld.symm.trans (hwindow hnumbered))
  have hfirst : (out.head?.map (·.1)).getD 0 = a := by rw [hout]; rfl
  have hsome : out ≠ [] := by simp [hout]
  simp only [packetSent, if_neg hsome, if_neg hopen, hfirst, sendJournal_sends hfree hreach, isSome_packetSeq]

end

/-! Gathers (R211). -/

theorem exec_rgath (f : Fields) (s : State) : exec (.rgath f) s = issue (.rgath f) .lanes rgath s := rfl

/-- The lanes of a gather that ask a core. -/
def askedLanes (ls : List GathLane) : List GathLane := ls.filter (fun g => g.at'.isSome)

/-- The reply for which a gather holds its slot: an answer for each lane that asks, zero for each that does not. -/
def gathReply (s : State) (f : Fields) (e : Bits512) (ls : List GathLane) : Reply :=
  { req := (takeReq (popSources s.pkg s.core f) s.core).1, left := (askedLanes ls).length,
    vals := (ls.filter (fun g => g.at'.isNone)).map (fun g => (g.lane, 0)), refused := none, deadline := none,
    addr := (askedLanes ls).map (fun g => (g.lane, homeAddr (homeOfEntry e).1 g.core (match g.at' with
      | some idx => (elemAddr e idx).toNat
      | none => 0))), timedOut := none, entry := e, idx := [] }

/-- A map in which every key is listed with one value reads as that value. -/
theorem mapFind_constant {α β : Type} (l : List α) (key : α → Nat) (x : β) {n : Nat} {v : β}
    (h : mapFind (l.map (fun a => (key a, x))) n = some v) : v = x := by
  induction l with
  | nil => cases h
  | cons a rest ih =>
    rw [List.map_cons, mapFind_cons] at h
    split at h
    next => exact (Option.some.inj h).symm
    next => exact ih h

section
variable {s : State} {f : Fields} {e : Bits512} (hhold : s.cur.hold = .none) (he : entryFor s.part (opdLay f.a) 0 [2] = .ok e)
include hhold he

theorem rgath_wide (h : 8 ≤ tySize (layType e) ∨ layType e = tyL8) : rgath f (cxOf s) s.pkg = .trap (boundsTrap 4 0 (opdLay f.a)) := by
  have hhold' : holdOf s.pkg (cxOf s) = .none := hhold
  have he' : entryFor (partOf s.pkg (cxOf s).core) (opdLay f.a) 0 [2] = .ok e := he
  simp only [rgath, hhold', he', if_pos h]

theorem rgath_asks {ls : List GathLane} (hnarrow : tySize (layType e) < 8) (hplain : layType e ≠ tyL8)
    (hls : gathLanes e (opdLay f.a) (vB s f) ((List.range 32).filter (bit (lanesOf s f))) = .ok ls)
    (hreach : reachable s.pkg (homeOfEntry e).1 = true) (hasks : askedLanes ls ≠ []) : rgath f (cxOf s) s.pkg =
      .hold (setHold ((askedLanes ls).foldl (fun q g => sendLane q (cxOf s) (homeOfEntry e).1 (gathReply s f e ls).req e g)
        (takeReq (popSources s.pkg s.core f) s.core).2) (cxOf s) (.reply (gathReply s f e ls))) := by
  have hhold' : holdOf s.pkg (cxOf s) = .none := hhold
  have he' : entryFor (partOf s.pkg (cxOf s).core) (opdLay f.a) 0 [2] = .ok e := he
  have hls' : gathLanes e (opdLay f.a) (readB s.pkg (cxOf s).core (cxOf s).slot f)
      ((List.range 32).filter (bit (guardMask (slotOf (partOf s.pkg (cxOf s).core) (cxOf s).slot) f))) = .ok ls := hls
  have hwide : ¬ (8 ≤ tySize (layType e) ∨ layType e = tyL8) := by simp [hnarrow, hplain]
  simp only [rgath, hhold', he', if_neg hwide, hls', hreach, if_true]
  exact if_neg hasks

end

theorem askedLanes_ne_nil {ls : List GathLane} (h : ls.any (fun g => g.at'.isSome) = true) : askedLanes ls ≠ [] := by
  obtain ⟨g, hg, hsome⟩ := List.any_eq_true.mp h
  exact List.ne_nil_of_mem (List.mem_filter.mpr ⟨hg, hsome⟩)

end Sys2Proof.Machine

open Sys2Proof.Claims Sys2Proof.Machine

/-- Settles O28: each remote instruction by its checks in their order; what changes something takes a journal entry with its message,
RLD and RGATH hold their slot under a reply. -/
theorem remoteRequests : Obligations.RemoteRequests := by
  unfold Obligations.RemoteRequests
  refine ⟨fun s f n h hfree => ⟨numberedEntry s 5 _ _ _ 0 _, entryOfMsg_numberedEntry s 5 _ _ _ 0 _, fun hvalid hreach => ?amsgSends,
      fun hinvalid => ?amsgRefused⟩,
    fun s f h hfull => (exec_amsg f s).trans (issue_waits rfl h (amsg_full hfull)),
    fun s f t h ht => (exec_rld f s).trans (issue_trap rfl h (rld_error (hold_of_runs rfl h).2 ht)),
    fun s f e h => ⟨fun hel => (exec_rld f s).trans (issue_done rfl h (rld_outside (hold_of_runs rfl h).2 hel)),
      fun idx r hel hreach hr => ?rldAsks⟩,
    fun s f t h ht => (exec_rst f s).trans (issue_trap rfl h (rst_error ht)),
    fun s f e h => ⟨fun hel => (exec_rst f s).trans (issue_done rfl h (rst_outside hel)), fun idx n hel hfree hreach =>
      ⟨_, entryOfMsg_numberedEntry s 1 _ _ _ 0 _, (exec_rst f s).trans (issue_done rfl h (rst_sends hel hfree hreach))⟩⟩,
    fun s f e els n h he => ⟨fun t ht => ?rredRefused, fun hels => ⟨fun hpair => ?rredUnpaired, fun hop hty =>
      ⟨fun hnothing => ?rredNothing, fun a v rest hout hfree hreach hwindow => ?rredSends⟩⟩⟩,
    fun s f e ls h he => ⟨fun hwide => ?rgathWide, fun hnarrow hplain hls hreach hasks => ?rgathAsks⟩⟩
  case amsgSends =>
    refine (exec_amsg f s).trans (issue_done rfl h ((amsg_valid hvalid).trans ?_))
    simp only [sendJournal_sends hfree hreach]
    rfl
  case amsgRefused =>
    refine (exec_amsg f s).trans (issue_done rfl h ((amsg_invalid hinvalid).trans ?_))
    simp only [journalise_numbered hfree]
    rfl
  case rldAsks =>
    obtain rfl : r = askedReply s e idx none := hr
    exact (exec_rld f s).trans (issue_hold rfl h ((rld_asks (hold_of_runs rfl h).2 hel).trans (askElement_sends hreach idx none _)))
  case rredRefused => exact (exec_rred_vecB f s).trans (issue_trap rfl h (rred_refused he ht))
  case rredUnpaired => exact (exec_rred_vecB f s).trans (issue_trap rfl h (rred_unpaired he hels hpair))
  case rredNothing =>
    exact (exec_rred_vecB f s).trans (issue_done rfl h ((rred_packet he hels hop hty).trans (packetSent_nothing hnothing)))
  case rredSends =>
    exact ⟨_, entryOfMsg_numberedEntry s 2 _ _ _ _ _, rfl, (exec_rred_vecB f s).trans (issue_done rfl h
      ((rred_packet he hels hop hty).trans (packetSent_sends hout hwindow hfree hreach)))⟩
  case rgathWide => exact (exec_rgath f s).trans (issue_trap rfl h (rgath_wide (hold_of_runs rfl h).2 he hwide))
  case rgathAsks =>
    exact ⟨gathReply s f e ls, rfl, rfl, fun l v hv => mapFind_constant _ _ 0 hv, (exec_rgath f s).trans (issue_hold rfl h
      (rgath_asks (hold_of_runs rfl h).2 he hnarrow hplain hls hreach (askedLanes_ne_nil hasks)))⟩
end

section
/-!
LNTURN, LNSTAT and the events of the anole links (R233 to R237, R365).
-/
namespace Sys2Proof.Machine
open Sys2Proof.Claims

/-! LNTURN (R234). -/

/-- A word that runs comes to its meaning. -/
theorem attempt_of_runs {i : Instr} {c : Nat} {f : Fields} {g : Guarding} {s : State} (hw : i.word = some (c, f))
    (h : runs i g s = true) (body : Cx → Pkg → Eff) :
    attempt s.pkg (cxOf s) i c f g body = leaving c (body (cxOf s) s.pkg) := by
  simp only [runs, hw, readyWord, inBounds, Bool.and_eq_true, decide_eq_true_eq, Option.isNone_iff_eq_none] at h
  obtain ⟨⟨⟨⟨⟨⟨⟨⟨⟨⟨-, hhold⟩, hregion⟩, hright⟩, hstate⟩, hboard⟩, hops⟩, hregs⟩, hrels⟩, hguard⟩, hwindow, -⟩ := h
  obtain ⟨row, hrow, hright⟩ := rightHeld_iff.mp hright
  have hregion' : ¬ (s.cur.region.isSome = true ∧ c ≠ 0x0EA) := by
    rintro ⟨hsome, hc⟩
    simp only [Bool.or_eq_true, Option.isNone_iff_eq_none, decide_eq_true_eq] at hregion
    rcases hregion with hnone | hare
    · simp [hnone] at hsome
    · exact hc hare
  simp only [State.part, State.cur] at hhold hright hstate hboard hregion' hregs hrels hguard
  simp [attempt, hrow, cxOf_core, cxOf_slot, hhold, hright, hstate, hboard, hregion', hops, hguard, hwindow, hregs, hrels, fresh]

section
variable {s : State} {f : Fields}

theorem reaches_of_runs {i : Instr} {c : Nat} (hw : i.word = some (c, f)) (h : runs i .lane0 s = true) :
    reaches s.pkg (cxOf s) i c f = true := by
  obtain ⟨hlive, hhold⟩ := hold_of_runs hw h
  have htext := inText_of_runs hw h
  have hgone : leaving c (.gone s.pkg) = .gone s.pkg := leaving_gone s.pkg
  simp only [State.cur, State.part] at hlive hhold htext
  simp [reaches, attempt_of_runs hw h, hgone, cxOf_core, cxOf_slot, hlive, hhold, htext, fresh]

/-- The link that an LNTURN names, and whether the current slot may turn it. -/
def turnedLink (s : State) (f : Fields) : Link := s.site.links.getD (fld (s.aVal f) 0 2) linkReset
def mayTurn (s : State) (f : Fields) : Bool := supOf s.part || (s.pkg.regs.lnuser >>> fld (s.aVal f) 0 2) % 2 = 1
def turnRoom (s : State) (f : Fields) : Bool := !mayTurn s f || decide ((turnedLink s f).queue.length < 8)

theorem mayTurn_iff : mayTurn s f = true ↔ supOf s.part = true ∨ s.pkg.regs.lnuser / 2 ^ fld (s.aVal f) 0 2 % 2 = 1 := by
  simp [mayTurn, Nat.shiftRight_eq_div_pow]

variable (h : runs (.lnturn f) .lane0 s = true)
include h

theorem exec_lnturn_runs : exec (.lnturn f) s = .next { s with
    site := if turnRoom s f then { s.site with
      links := s.site.links.set (fld (s.aVal f) 0 2) (queueTurn (turnedLink s f) (mayTurn s f) (s.bVal f)) } else s.site
    pkg := issueP s.pkg (cxOf s) (.lnturn f) 0x12C f .lane0 (fun _ p => if turnRoom s f then .done p else .stay p) } := by
  have hreach := reaches_of_runs (f := f) rfl h
  change execLnturn f s = _
  simp only [execLnturn, hreach, Bool.and_true]
  rfl

theorem exec_lnturn_room (hroom : turnRoom s f = true) : exec (.lnturn f) s = .next (withLink (advance s f s.pkg)
    (fld (s.aVal f) 0 2) (queueTurn (turnedLink s f) (mayTurn s f) (s.bVal f))) := by
  have hissue := issue_done (body := fun _ _ p => if turnRoom s f then .done p else .stay p) rfl h (if_pos hroom)
  rw [exec_lnturn_runs h, if_pos hroom]
  exact congrArg (fun t => Host.Outcome.next (withLink t (fld (s.aVal f) 0 2) (queueTurn (turnedLink s f) (mayTurn s f) (s.bVal f))))
    (Host.Outcome.next.inj hissue)

theorem exec_lnturn_full (hroom : turnRoom s f = false) : exec (.lnturn f) s = .next s := by
  have hno : ¬ turnRoom s f = true := by simp [hroom]
  have hissue := issue_waits (body := fun _ _ p => if turnRoom s f then .done p else .stay p) rfl h (if_neg hno)
  rw [exec_lnturn_runs h, if_neg hno]
  exact congrArg (fun t : State => Host.Outcome.next { t with site := s.site }) (Host.Outcome.next.inj hissue)

end

/-! LNSTAT (R237). -/

theorem exec_lnstat (f : Fields) (s : State) : exec (.lnstat f) s = issue (.lnstat f) .lane0 (fun f cx p =>
    .done (updPart p cx.core (fun k => writeScalar k cx.slot (linkStatus (s.site.links.getD (fld (opdScalar (curSlot p cx) f.a) 0 2)
      linkReset) cx.now) f.d))) s := rfl

theorem ite_two_pow (x : Bool) (n : Nat) : (if x then 2 ^ n else 0) = b2n x * 2 ^ n := by
  cases x
  · exact (Nat.zero_mul _).symm
  · exact (Nat.one_mul _).symm

theorem b2n_le_one (x : Bool) : b2n x ≤ 1 := by
  cases x
  · exact Nat.zero_le _
  · exact Nat.le_refl _

theorem linkStatus_eq (l : Link) (now : Nat) :
    let b := fun (x : Bool) (n : Nat) => if x then 2 ^ n else 0
    linkStatus l now = BitVec.ofNat 64 (linkFwd l % 16 + l.target % 32 * 2 ^ 4 + l.queue.length % 16 * 2 ^ 12 +
      b (linkBusy l now) 16 + b l.demand 17 + b l.refused 18 + l.short % 32 * 2 ^ 20 + l.turns.toNat * 2 ^ 32) := by
  have hturns := l.turns.isLt
  have hbusy := b2n_le_one (linkBusy l now)
  have hdemand := b2n_le_one l.demand
  have hrefused := b2n_le_one l.refused
  simp only [linkStatus, packFields_cons, packFields_nil, ite_two_pow]
  congr 1
  omega

/-! Events of one link. -/

theorem linkTo_of_siteStep {i : Instr} {s : State} {n : Nat} {l m : Link} {g : Nat → Link → Link} (hl : s.site.links[n]? = some l)
    (hexec : exec i s = siteStep (fun now x => updLink x n (g now)) s) (hm : g s.time l = m) : linkTo i s n m := by
  subst hm
  simp only [linkTo, hexec, siteStep, updLink, hl]
  rfl

section
variable {s : State} {n : Nat} {l m : Link} (hl : s.site.links[n]? = some l)
include hl

theorem linkTo_turnCommandRun (h : runQueue s.time l = m) : linkTo (.turnCommandRun n) s n m :=
  linkTo_of_siteStep (g := runQueue) hl rfl h

theorem linkTo_demandSplitCheck {fb rb : Nat} (h : demandCheck s.time fb rb l = m) : linkTo (.demandSplitCheck n fb rb) s n m :=
  linkTo_of_siteStep (g := fun now => demandCheck now fb rb) hl rfl h

theorem linkTo_bundleDeadTimeEnd {i : Nat} (h : updBundle l i (endDead s.time) = m) : linkTo (.bundleDeadTimeEnd n i) s n m :=
  linkTo_of_siteStep (g := fun now l => updBundle l i (endDead now)) hl rfl h

theorem linkTo_bundleRecalibration {i : Nat} (h : recalibrate s.time i l = m) : linkTo (.bundleRecalibration n i) s n m :=
  linkTo_of_siteStep (g := fun now => recalibrate now i) hl rfl h

theorem linkTo_bundleRecalibrationEnd {i : Nat} (h : updBundle l i (endRecal s.time) = m) :
    linkTo (.bundleRecalibrationEnd n i) s n m :=
  linkTo_of_siteStep (g := fun now l => updBundle l i (endRecal now)) hl rfl h

end

/-- What an event leaves of its link stands in the state as it was. -/
theorem updBundle_at {l : Link} {i : Nat} {b : Bundle} (h : l.bundles[i]? = some b) (g : Bundle → Bundle) :
    updBundle l i g = { l with bundles := l.bundles.set i (g b) } := by
  simp only [updBundle, h]

theorem endDead_over {now t : Nat} {b : Bundle} (h : b.dead = some t) (ht : t ≤ now) : endDead now b = { b with dead := none } := by
  simp only [endDead, h, if_pos ht]

theorem endRecal_over {now t : Nat} {b : Bundle} (h : b.recal = some t) (ht : t + 30000 ≤ now) :
    endRecal now b = { b with recal := none } := by
  simp only [endRecal, h, if_pos ht]

theorem recalibrate_few {now i : Nat} {l : Link} (h : sharers now l i < 2) : recalibrate now i l = l := if_pos h

theorem recalibrate_starts {now i : Nat} {l : Link} {b : Bundle} (h : 2 ≤ sharers now l i) (hb : l.bundles[i]? = some b)
    (hrecal : b.recal = none) : recalibrate now i l = { l with bundles := l.bundles.set i { b with recal := some now } } := by
  rw [recalibrate, if_neg (Nat.not_lt.mpr h), updBundle_at hb, hrecal]
  rfl

/-! Turn commands (R234). -/

theorem turnedOr_turnBundles {now : Nat} {fwd : Bool} {n i : Nat} {bs : List Bundle} {b c : Bundle} (hb : bs[i]? = some b)
    (hc : (turnBundles now fwd n bs).1[i]? = some c) : turnedOr now b c := by
  induction bs generalizing n i with
  | nil => cases hb
  | cons x rest ih =>
    cases n with
    | zero => exact .inl (Option.some.inj (hc.symm.trans hb))
    | succ n =>
      rw [turnBundles] at hc
      split at hc
      case isTrue h =>
        cases i with
        | zero =>
          cases hb
          cases hc
          exact .inr ⟨h.2, rfl⟩
        | succ i => exact ih hb hc
      case isFalse =>
        cases i with
        | zero => exact .inl (Option.some.inj (hc.symm.trans hb))
        | succ i => exact ih hb hc

theorem turnedOr_turnToward {now t i : Nat} {l : Link} {b c : Bundle} (hb : l.bundles[i]? = some b)
    (hc : (turnToward now t l).bundles[i]? = some c) : turnedOr now b c := by
  simp only [turnToward] at hc
  split at hc <;> exact turnedOr_turnBundles hb hc

/-- Where every bundle is eligible, as many turn as there are and as many as are asked. -/
theorem turnBundles_count {now : Nat} {fwd : Bool} {bs : List Bundle} (h : ∀ b ∈ bs, eligible now b = true) (n : Nat) :
    (turnBundles now fwd n bs).2 = min n (bs.filter (fun b => decide (b.fwd = fwd))).length := by
  induction bs generalizing n with
  | nil => cases n <;> rfl
  | cons x rest ih =>
    obtain ⟨hx, hrest⟩ := List.forall_mem_cons.mp h
    cases n with
    | zero => simp [turnBundles]
    | succ n =>
      by_cases hdir : x.fwd = fwd
      · simp only [turnBundles, hdir, hx, and_self, if_true, ih hrest, List.filter_cons, decide_true, List.length_cons]
        omega
      · simp only [turnBundles, hdir, false_and, if_false, ih hrest, List.filter_cons, decide_false, Bool.false_eq_true]

theorem carries_of_eligible {now : Nat} {l : Link} (hbusy : linkBusy l now = false) (hel : ∀ b ∈ l.bundles, eligible now b = true)
    {b : Bundle} (hb : b ∈ l.bundles) : carries now b = true := by
  have hidle := List.any_eq_false.mp hbusy b hb
  have hserves := hel b hb
  simp only [eligible, Bool.and_eq_true] at hserves
  simp only [carries, hserves.2, Bool.true_and]
  split
  next t ht => simpa [ht] using hidle
  next => rfl

theorem carriers_eq {now : Nat} {l : Link} (hbusy : linkBusy l now = false) (hel : ∀ b ∈ l.bundles, eligible now b = true)
    (fwd : Bool) : carriers now fwd l.bundles = (l.bundles.filter (fun b => decide (b.fwd = fwd))).length :=
  congrArg List.length (List.filter_congr (fun b hb => by rw [carries_of_eligible hbusy hel hb, Bool.and_true]))

theorem forward_add_reverse (l : Link) : (l.bundles.filter (fun b => decide (b.fwd = true))).length = linkFwd l ∧
    linkFwd l + (l.bundles.filter (fun b => decide (b.fwd = false))).length = l.bundles.length := by
  simp only [linkFwd]
  induction l.bundles with
  | nil => exact ⟨rfl, rfl⟩
  | cons b rest ih =>
    obtain ⟨hfwd, hall⟩ := ih
    cases hb : b.fwd <;> simp only [hb, List.filter_cons, decide_true, decide_false, if_true, Bool.false_eq_true, if_false,
      Bool.true_eq_false, List.length_cons] <;> omega

/-- With all sixteen bundles eligible and none in dead time, FWD comes to its target (R234). -/
theorem linkFwd_turnToward_eligible {now t : Nat} {l : Link} (h16 : l.bundles.length = 16) (hbusy : linkBusy l now = false)
    (hel : ∀ b ∈ l.bundles, eligible now b = true) (hlo : 2 ≤ t) (hhi : t ≤ 14) : linkFwd (turnToward now t l) = t := by
  obtain ⟨hforward, hall⟩ := forward_add_reverse l
  by_cases hup : linkFwd l < t
  · rw [linkFwd_turnToward_up hup, turnBundles_count hel, carriers_eq hbusy hel]
    omega
  · have hdown := linkFwd_turnToward_down (now := now) hup
    rw [turnBundles_count hel, carriers_eq hbusy hel, hforward] at hdown
    omega

section
variable {now : Nat} {l : Link} {x : LinkCmd} {rest : List LinkCmd} (hq : l.queue = x :: rest)
include hq

theorem runQueue_busy (hbusy : linkBusy l now = true) : runQueue now l = l := by
  simp only [runQueue, hq, hbusy, if_true]

theorem runQueue_idle (hbusy : linkBusy l now = false) : runQueue now l = runTurn now x { l with queue := rest } := by
  simp only [runQueue, hq, hbusy, Bool.false_eq_true, if_false]

theorem runQueue_auto (hbusy : linkBusy l now = false) (hauto : x.auto = true) :
    runQueue now l = { l with queue := rest, demand := true, refused := false } := by
  rw [runQueue_idle hq hbusy, runTurn, if_pos hauto]

end

/-- A link whose turn command for a target has left the queue. -/
def towardTarget (now t : Nat) (rest : List LinkCmd) (l : Link) : Link :=
  turnToward now (clampTarget t) { l with queue := rest, demand := false, refused := false }

theorem runQueue_target {now : Nat} {l : Link} {x : LinkCmd} {rest : List LinkCmd} (hq : l.queue = x :: rest)
    (hbusy : linkBusy l now = false) (hauto : x.auto = false) : runQueue now l = { towardTarget now x.t rest l with
      target := x.t
      short := min ((x.t - linkFwd (towardTarget now x.t rest l)) + (linkFwd (towardTarget now x.t rest l) - x.t)) 31 } := by
  rw [runQueue_idle hq hbusy, runTurn, if_neg (by simp [hauto])]
  rfl

/-! The demand split (R235). -/

section
variable {now fb rb : Nat} {l : Link} (hdemand : l.demand = true) (hdue : l.checked + 4000 ≤ now) (hbusy : linkBusy l now = false)
include hdemand hdue hbusy

theorem demandCheck_due : demandCheck now fb rb l =
    if 2 * rb < fb then turnToward now (clampTarget (linkFwd l + 1)) { l with checked := now }
    else if 2 * fb < rb then turnToward now (clampTarget (linkFwd l - 1)) { l with checked := now }
    else { l with checked := now } := by
  have hskip : ¬ (l.demand = false ∨ now < l.checked + 4000) := by
    simp only [hdemand, Bool.true_eq_false, false_or, Nat.not_lt]
    exact hdue
  simp only [demandCheck, if_neg hskip, hbusy, Bool.false_eq_true, if_false]

end

end Sys2Proof.Machine

open Sys2Proof.Claims Sys2Proof.Machine

/-- Settles O37: LNTURN by the room in its queue and its right, LNSTAT by the fields of its word, each event by its change of one link. -/
theorem anoleLinks : Obligations.AnoleLinks := by
  unfold Obligations.AnoleLinks
  refine ⟨fun s f h => ⟨fun hallowed hroom => ?lnturnQueues, fun hallowed hfull => ?lnturnWaits, fun hbarred => ?lnturnRefused⟩,
    fun s f h _ => ?lnstat, fun s n l x rest hl hq => ⟨fun hbusy => ?busy, fun hbusy hauto => ?auto, fun hbusy hauto => ?target⟩,
    fun s n fb rb l hl hdemand hdue hbusy => ⟨fun hfb hrb => ?balanced, fun hmore => ?forward, fun hmore => ?reverse⟩,
    fun s n i t l b hl hb => ⟨fun hdead ht => ?deadEnd, fun hshare hrecal => ?recalStarts, fun hfew => ?recalFew,
      fun hrecal ht => ?recalEnds⟩⟩
  case lnturnQueues =>
    have hmay := mayTurn_iff.mpr hallowed
    have hopen : turnRoom s f = true := Bool.or_eq_true_iff.mpr (.inr (decide_eq_true hroom))
    rw [exec_lnturn_room h hopen, hmay]
    rfl
  case lnturnWaits =>
    have hmay := mayTurn_iff.mpr hallowed
    have hshut : decide ((turnedLink s f).queue.length < 8) = false := decide_eq_false (Nat.not_lt.mpr hfull)
    exact exec_lnturn_full h (by simp only [turnRoom, hmay, hshut, Bool.not_true, Bool.or_self])
  case lnturnRefused =>
    have hmay : mayTurn s f = false := by simpa [← mayTurn_iff] using hbarred
    have hopen : turnRoom s f = true := by rw [turnRoom, hmay]; rfl
    rw [exec_lnturn_room h hopen, hmay]
    rfl
  case lnstat =>
    rw [exec_lnstat, issue_done rfl h rfl, linkStatus_eq]
    rfl
  case busy => exact linkTo_turnCommandRun hl (runQueue_busy hq hbusy)
  case auto => exact linkTo_turnCommandRun hl (runQueue_auto hq hbusy hauto)
  case target =>
    refine ⟨_, linkTo_turnCommandRun hl (runQueue_target hq hbusy hauto), rfl, rfl, rfl, rfl, length_turnToward ..,
      fun i b c => turnedOr_turnToward, ?_, fun h16 hel => ?_⟩
    · change min _ 31 = min ((x.t : Int) - (linkFwd (towardTarget s.time x.t rest l) : Int)).natAbs 31
      omega
    · obtain ⟨hlo, hhi⟩ := clampTarget_bounds x.t
      exact linkFwd_turnToward_eligible (l := { l with queue := rest, demand := false, refused := false }) h16 hbusy hel hlo hhi
  case balanced =>
    exact linkTo_demandSplitCheck hl ((demandCheck_due hdemand hdue hbusy).trans
      ((if_neg (Nat.not_lt.mpr hfb)).trans (if_neg (Nat.not_lt.mpr hrb))))
  case forward => exact linkTo_demandSplitCheck hl ((demandCheck_due hdemand hdue hbusy).trans (if_pos hmore))
  case reverse =>
    exact linkTo_demandSplitCheck hl ((demandCheck_due hdemand hdue hbusy).trans ((if_neg (by omega)).trans (if_pos hmore)))
  case deadEnd => exact linkTo_bundleDeadTimeEnd hl (by rw [updBundle_at hb, endDead_over hdead ht])
  case recalStarts => exact linkTo_bundleRecalibration hl (recalibrate_starts hshare hb hrecal)
  case recalFew => exact linkTo_bundleRecalibration hl (recalibrate_few hfew)
  case recalEnds => exact linkTo_bundleRecalibrationEnd hl (by rw [updBundle_at hb, endRecal_over hrecal ht])
end

section
/-!
QDEF, QPUB, QADV and QCNT (R230, R231).
-/
namespace Sys2Proof.Machine
open Sys2Proof.Claims

theorem exec_qdef (f : Fields) (s : State) : exec (.qdef f) s = issue (.qdef f) .lane0 qdef s := rfl
theorem exec_qpub (f : Fields) (s : State) : exec (.qpub f) s = issue (.qpub f) .lane0 (moveRing true) s := rfl
theorem exec_qadv (f : Fields) (s : State) : exec (.qadv f) s = issue (.qadv f) .lane0 (moveRing false) s := rfl
theorem exec_qcnt (f : Fields) (s : State) : exec (.qcnt f) s = issue (.qcnt f) .lane0 qcnt s := rfl

/-! QDEF (R230). -/

/-- The size, the owner and the base register of a QDEF. -/
def qdefSize (s : State) (f : Fields) : Nat := fld (s.bVal f) 0 6
def qdefOwner (s : State) (f : Fields) : Nat := fld (s.bVal f) 6 4

/-- A ring has one of six sizes and lies in the registers of its slot. -/
def ringFits (s : State) (f : Fields) : Prop :=
  qdefSize s f ∈ [1, 2, 4, 8, 16, 32] ∧ vecNo f.a + qdefSize s f ≤ regCount s.part.mode

section
variable {s : State} {f : Fields}

theorem ringFits_iff : ringFits s f ↔ ¬ (List.contains [1, 2, 4, 8, 16, 32] (qdefSize s f) = false ∨
    regCount s.part.mode < vecNo f.a + qdefSize s f) := by
  rw [not_or, Bool.not_eq_false, List.contains_iff_mem, Nat.not_lt]
  rfl

theorem qdef_unfit (h : ¬ ringFits s f) : qdef f (cxOf s) s.pkg = .late (bareTrap causeOperand (cxOf s)) :=
  if_pos (not_not.mp (mt ringFits_iff.mpr h))

theorem qdef_own (h : ringFits s f) (hown : bit (s.bVal f) 10 = false) :
    qdef f (cxOf s) s.pkg = .done (ringWritten s (ringNo f.d) (.own (vecNo f.a) (qdefSize s f) 0 0 0)) :=
  (if_neg (ringFits_iff.mp h)).trans (if_pos hown)

theorem qdef_attaches {c p n : Nat} (h : ringFits s f) (hatt : bit (s.bVal f) 10 = true) (hother : qdefOwner s f ≠ s.slot)
    (hring : mapFind (slotOf s.part (qdefOwner s f)).rings (ringNo f.d) = some (.own (vecNo f.a) (qdefSize s f) c p n)) :
    qdef f (cxOf s) s.pkg =
      .done (ringWritten s (ringNo f.d) (.att (qdefOwner s f) (slotOf s.part (qdefOwner s f)).ctx)) := by
  have hnotOwn : ¬ bit (s.bVal f) 10 = false := by simp [hatt]
  refine (if_neg (ringFits_iff.mp h)).trans ((if_neg hnotOwn).trans ((if_neg hother).trans ?_))
  change (match mapFind (slotOf s.part (qdefOwner s f)).rings (ringNo f.d) with
    | some (.own base' size' _ _ _) => _
    | _ => _) = _
  rw [hring]
  exact if_pos ⟨rfl, rfl⟩

end

/-! The pointers of a ring (R231). -/

section
variable {s : State} {f : Fields} {q base size c p n : Nat}

theorem ringView_own (h : ownRing s q base size c p n) : ringView s.part s.slot q = some ⟨s.slot, base, size, c, p, n⟩ := by
  have hring : mapFind (slotOf s.part s.slot).rings q = some (.own base size c p n) := h
  rw [ringView, hring]

variable (h : ownRing s (ringNo f.d) base size c p n)
include h

/-- What a QPUB or QADV makes of a ring of the slot's own. -/
theorem moveRing_own (publish : Bool) : moveRing publish f (cxOf s) s.pkg =
    if (if publish then size - n else n) < (s.bVal f).toNat then .late (bareTrap causeOperand (cxOf s))
    else .done (ringWritten s (ringNo f.d) (if publish then .own base size c ((p + (s.bVal f).toNat) % size) (n + (s.bVal f).toNat)
      else .own base size ((c + (s.bVal f).toNat) % size) p (n - (s.bVal f).toNat))) := by
  have hview : ringView (partOf s.pkg (cxOf s).core) (cxOf s).slot (ringNo f.d) = some ⟨s.slot, base, size, c, p, n⟩ := ringView_own h
  simp only [moveRing, hview]
  rfl

end

theorem qcnt_view {s : State} {f : Fields} {v : RingView} (h : ringView s.part s.slot (ringNo f.a) = some v) :
    qcnt f (cxOf s) s.pkg = .done (writeD s f (BitVec.ofNat 64 v.f)) := by
  have hview : ringView (partOf s.pkg (cxOf s).core) (cxOf s).slot (ringNo f.a) = some v := h
  simp only [qcnt, hview]
  rfl

end Sys2Proof.Machine

open Sys2Proof.Claims Sys2Proof.Machine

/-- Settles O36: QDEF by its checks and by whose ring it makes, QPUB and QADV by the room or the filled slots, QCNT by the ring's view. -/
theorem ringInstructions : Obligations.RingInstructions := by
  unfold Obligations.RingInstructions
  refine ⟨fun s f h => ⟨fun hunfit => ?unfit, fun hsize hregs => ⟨fun hown => ?own, fun c p n hatt hother hring => ?attaches⟩⟩,
    fun s f base size c p n hring => ⟨fun h => ⟨fun hmany => ?pubRefused, fun hroom => ?pubMoves⟩,
      fun h => ⟨fun hmany => ?advRefused, fun hfilled => ?advMoves⟩⟩,
    fun s f v h hview => (exec_qcnt f s).trans (issue_done rfl h (qcnt_view hview)), fun s q base size c p n => ringView_own⟩
  case unfit => exact (exec_qdef f s).trans (issue_late rfl h (qdef_unfit hunfit))
  case own => exact (exec_qdef f s).trans (issue_done rfl h (qdef_own ⟨hsize, hregs⟩ hown))
  case attaches => exact (exec_qdef f s).trans (issue_done rfl h (qdef_attaches ⟨hsize, hregs⟩ hatt hother hring))
  case pubRefused => exact (exec_qpub f s).trans (issue_late rfl h ((moveRing_own hring true).trans (if_pos hmany)))
  case pubMoves =>
    exact (exec_qpub f s).trans (issue_done rfl h ((moveRing_own hring true).trans (if_neg (Nat.not_lt.mpr hroom))))
  case advRefused => exact (exec_qadv f s).trans (issue_late rfl h ((moveRing_own hring false).trans (if_pos hmany)))
  case advMoves =>
    exact (exec_qadv f s).trans (issue_done rfl h ((moveRing_own hring false).trans (if_neg (Nat.not_lt.mpr hfilled))))
end

section
/-!
Barrier objects (R222 to R224): the bits of an object, BARI, BARA, BART and BARW, and the same events at an object's home.
-/
namespace Sys2Proof.Machine
open Sys2Proof.Claims

/-! The bits of an object (R222). -/

/-- An object whose fields fit their places. -/
def objFits (o : BarObj) : Prop := o.pend < 2 ^ 56 ∧ o.phase < 2 ^ 16 ∧ o.arrive < 2 ^ 24 ∧ o.expect < 2 ^ 24 ∧ o.rest < 2 ^ 6

theorem bit_eq_div_mod {n : Nat} (x : BitVec n) (i : Nat) : bit x i = decide (x.toNat / 2 ^ i % 2 = 1) := by
  rw [bit, Nat.shiftRight_eq_div_pow]

theorem b2n_eq_one (x : Bool) : decide (b2n x = 1) = x := by cases x <;> rfl

theorem objBits_lt (o : BarObj) : objBits o < 2 ^ 128 := by
  simp only [objBits, packFields_cons, packFields_nil]
  omega

theorem objBits_eq {o : BarObj} (h : objFits o) : objBits o = o.pend + o.phase * 2 ^ 56 + o.arrive * 2 ^ 72 + o.expect * 2 ^ 96 +
    b2n o.err * 2 ^ 120 + b2n o.ovr * 2 ^ 121 + o.rest * 2 ^ 122 := by
  obtain ⟨hpend, hphase, harrive, hexpect, hrest⟩ := h
  have herr := Nat.lt_succ_of_le (b2n_le_one o.err)
  have hovr := Nat.lt_succ_of_le (b2n_le_one o.ovr)
  simp only [objBits, packFields_cons, packFields_nil, Nat.mod_eq_of_lt hpend, Nat.mod_eq_of_lt hphase, Nat.mod_eq_of_lt harrive,
    Nat.mod_eq_of_lt hexpect, Nat.mod_eq_of_lt hrest, Nat.pow_one, Nat.mod_eq_of_lt herr, Nat.mod_eq_of_lt hovr]
  ring

/-- An object reads as the fields of its bits. -/
theorem objOf_of_bits {k : Part} {off : Nat} {o : BarObj} (h : objFits o) (hbits : scrNat k off 16 = objBits o) : objOf k off = o := by
  have hword : (BitVec.ofNat 128 (scrNat k off 16)).toNat = o.pend + o.phase * 2 ^ 56 + o.arrive * 2 ^ 72 + o.expect * 2 ^ 96 +
      b2n o.err * 2 ^ 120 + b2n o.ovr * 2 ^ 121 + o.rest * 2 ^ 122 := by
    rw [hbits, BitVec.toNat_ofNat, Nat.mod_eq_of_lt (objBits_lt o), objBits_eq h]
  obtain ⟨hpend, hphase, harrive, hexpect, hrest⟩ := h
  have herr := Nat.lt_succ_of_le (b2n_le_one o.err)
  have hovr := Nat.lt_succ_of_le (b2n_le_one o.ovr)
  obtain ⟨pend, phase, arrive, expect, err, ovr, rest⟩ := o
  dsimp only at hpend hphase harrive hexpect hrest herr hovr hword
  simp only [objOf, BarObj.mk.injEq, fld_eq_div_mod, bit_eq_div_mod, hword]
  refine ⟨by omega, by omega, by omega, by omega, ?err, ?ovr, by omega⟩
  case err => exact (congrArg (fun n => decide (n = 1)) (by omega)).trans (b2n_eq_one err)
  case ovr => exact (congrArg (fun n => decide (n = 1)) (by omega)).trans (b2n_eq_one ovr)

/-! An object written whole. -/

theorem scr_objWrite (k : Part) (now off : Nat) (o : BarObj) : (objWrite k now off o).scr =
    putAll k.scr ((List.range 16).map (fun i => (off + i, (leBytes 16 (objBits o)).getD i 0))) := by
  rw [putAll, List.foldl_map]
  rfl

theorem scrNat_objWrite {k : Part} (hk : mapSorted 0 k.scr = true) (now off : Nat) (o : BarObj) :
    scrNat (objWrite k now off o) off 16 = objBits o := by
  refine scrNat_of_bytes (fun i b hb => ?_) (objBits_lt o)
  have hi := (List.getElem?_eq_some_iff.mp hb).1
  rw [length_leBytes] at hi
  have hbyte : (leBytes 16 (objBits o)).getD i 0 = b := by rw [List.getD_eq_getElem?_getD, hb]; rfl
  rw [scrByte, scr_objWrite]
  refine putAll_self hk (List.mem_map.mpr ⟨i, List.mem_range.mpr hi, by rw [hbyte]⟩) (fun e he hei => ?_)
  obtain ⟨j, -, rfl⟩ := List.mem_map.mp he
  obtain rfl : j = i := Nat.add_left_cancel hei
  exact hbyte

/-! The instructions (R223, R224). -/

theorem exec_bari (f : Fields) (s : State) : exec (.bari f) s = issue (.bari f) .lane0 bari s := rfl
theorem exec_bara (f : Fields) (s : State) : exec (.bara f) s = issue (.bara f) .lane0 bara s := rfl
theorem exec_bart (f : Fields) (s : State) : exec (.bart f) s = issue (.bart f) .lanes bart s := rfl
theorem exec_barw (f : Fields) (s : State) : exec (.barw f) s = issue (.barw f) .lane0 barw s := rfl

section
variable {s : State} {f : Fields}

theorem barObject_elsewhere (h : (objectAt s f).2 ≠ s.core) :
    barObject (cxOf s) s.cur f true = .error { bareTrap causeBounds (cxOf s) with sub := 2 } := if_pos ⟨rfl, h⟩

theorem barObject_unaligned {own : Bool} (hcore : own = true → (objectAt s f).2 = s.core) (h : (objectAt s f).1 % 16 ≠ 0) :
    barObject (cxOf s) s.cur f own = .error (alignTrap (objectAt s f).1) :=
  (if_neg (fun hown => hown.2 (hcore hown.1))).trans (if_pos h)

theorem barObject_aligned {own : Bool} (hcore : own = true → (objectAt s f).2 = s.core) (h : (objectAt s f).1 % 16 = 0) :
    barObject (cxOf s) s.cur f own = .ok (objectAt s f) :=
  (if_neg (fun hown => hown.2 (hcore hown.1))).trans (if_neg (not_not_intro h))

theorem onObject_own {writes : Bool} (h : ownObject s f writes) (act : Eff) :
    onObject s.pkg (cxOf s) (objectAt s f).1 writes act = act := by
  obtain ⟨-, -, hwords, hclear⟩ := h
  have hclear' : ¬ scrClear (partOf s.pkg (cxOf s).core) [((objectAt s f).1, (objectAt s f).1 + 16)]
      (if writes then [((objectAt s f).1, (objectAt s f).1 + 16)] else []) = false := by
    rw [Bool.not_eq_false]
    exact hclear
  have hgood : spansBad (partOf s.pkg (cxOf s).core) [((objectAt s f).1, (objectAt s f).1 + 16)] = none := spansBad_none hwords _
  rw [onObject]
  simp only [if_neg hclear', hgood]

theorem bari_error {t : Trap} (h : barObject (cxOf s) s.cur f true = .error t) : bari f (cxOf s) s.pkg = .trap t := by
  have h' : barObject (cxOf s) (slotOf (partOf s.pkg (cxOf s).core) (cxOf s).slot) f true = .error t := h
  simp only [bari, h']

theorem bari_writes (hcore : (objectAt s f).2 = s.core) (hal : (objectAt s f).1 % 16 = 0)
    (hclear : scrClear s.part [] [((objectAt s f).1, (objectAt s f).1 + 16)] = true) : bari f (cxOf s) s.pkg = .done (
      let k := objWrite s.part s.time (objectAt s f).1 ⟨0, fld (s.bVal f) 0 16, 0, fld (s.bVal f) 16 24, false, false, 0⟩
      setPart s.pkg s.core { k with
        badWords := k.badWords.filter (fun w => decide (w ≠ (objectAt s f).1 / 8 ∧ w ≠ (objectAt s f).1 / 8 + 1)) }) := by
  have hobj : barObject (cxOf s) (slotOf (partOf s.pkg (cxOf s).core) (cxOf s).slot) f true = .ok (objectAt s f) :=
    barObject_aligned (fun _ => hcore) hal
  have hclear' : ¬ scrClear (partOf s.pkg (cxOf s).core) [] [((objectAt s f).1, (objectAt s f).1 + 16)] = false := by
    rw [Bool.not_eq_false]
    exact hclear
  simp only [bari, hobj, if_neg hclear']
  rfl

/-- BARA on an aligned object, by its count and by whose object it is. -/
theorem bara_aligned (hal : (objectAt s f).1 % 16 = 0) : bara f (cxOf s) s.pkg =
    if fld (s.bVal f) 0 24 = 0 then .done s.pkg
    else if (objectAt s f).2 = s.core then onObject s.pkg (cxOf s) (objectAt s f).1 true (.done (updPart s.pkg s.core (fun k =>
      objEvent k s.time (objectAt s f).1 (fun o => objArrive o (fld (s.bVal f) 0 24)))))
    else match sendJournal s.pkg (cxOf s) 4 s.pkg.regs.pkgnum (objectAt s f).2
        (homeAddr s.pkg.regs.pkgnum (objectAt s f).2 (objectAt s f).1) 0 (.arrive (objectAt s f).1 (fld (s.bVal f) 0 24)) with
      | some p1 => .done p1
      | none => .stay s.pkg := by
  have hobj : barObject (cxOf s) (curSlot s.pkg (cxOf s)) f false = .ok (objectAt s f) := barObject_aligned (fun h => by cases h) hal
  simp only [bara, hobj]
  rfl

theorem bara_own (h : ownObject s f true) (hn : fld (s.bVal f) 0 24 ≠ 0) : bara f (cxOf s) s.pkg = .done (updPart s.pkg s.core (fun k =>
    objWrite k s.time (objectAt s f).1 (arrivals (fld (s.bVal f) 0 24) (objOf k (objectAt s f).1)))) := by
  obtain ⟨hcore, hal, -, -⟩ := id h
  rw [bara_aligned hal, if_neg hn, if_pos hcore, onObject_own h]
  rfl

theorem reachable_self (p : Pkg) : reachable p p.regs.pkgnum = true := Bool.or_eq_true_iff.mpr (.inl (decide_eq_true rfl))

theorem bara_sends {n : Nat} (hal : (objectAt s f).1 % 16 = 0) (hn : fld (s.bVal f) 0 24 ≠ 0) (hcore : (objectAt s f).2 ≠ s.core)
    (hfree : jFree s.part = some n) :
    let b := MsgBody.arrive (objectAt s f).1 (fld (s.bVal f) 0 24) s.part.nextUid
    bara f (cxOf s) s.pkg = .done (send (journalled s n (numberedEntry s 4
      (homeAddr s.pkg.regs.pkgnum (objectAt s f).2 (objectAt s f).1) (objectAt s f).2 s.pkg.regs.pkgnum 0 b)) s.core (objectAt s f).2
      (asidOf s.part) b) := by
  rw [bara_aligned hal, if_neg hn, if_neg hcore]
  simp only [sendJournal_sends hfree (reachable_self s.pkg)]
  exact congrArg Eff.done (if_pos rfl)

theorem bart_own (h : ownObject s f false) : bart f (cxOf s) s.pkg = .done (updPart s.pkg s.core (fun k => writePred k s.slot
    (lanesOf s f) (if (objOf k (objectAt s f).1).phase ≠ fld (s.bVal f) 0 16 then BitVec.allOnes 32 else 0) f.d)) := by
  obtain ⟨hcore, hal, -, -⟩ := id h
  have hobj : barObject (cxOf s) (slotOf (partOf s.pkg (cxOf s).core) (cxOf s).slot) f true = .ok (objectAt s f) :=
    barObject_aligned (fun _ => hcore) hal
  simp only [bart, hobj]
  exact onObject_own h _

/-! Waits (R260, R261). -/

/-- A wait of the current slot at its issue: with its condition it completes, else it begins. -/
theorem waitFor_issue (hhold : s.cur.hold = .none) (kind : WaitKind) (holds again : Bool) (fin : Nat → Eff) :
    waitFor s.pkg (cxOf s) kind holds again fin = if holds then fin 0 else startWait s.pkg (cxOf s) kind := by
  have hhold' : holdOf s.pkg (cxOf s) = .none := hhold
  rw [waitFor, hhold']

/-- A word that begins to wait, or traps where its limit is 0 (R261). -/
theorem issue_startWait {i : Instr} {c : Nat} {g : Guarding} {body : Fields → Cx → Pkg → Eff} {kind : WaitKind}
    (hw : i.word = some (c, f)) (h : runs i g s = true) (hb : body f (cxOf s) s.pkg = startWait s.pkg (cxOf s) kind) :
    issue i g body s = .next (if s.cur.waitlim = 0 then trapState s f (waitTrap (cxOf s) (waitOfCur s kind)) else waitState s f kind) := by
  split
  case isTrue hlim =>
    have hwait : waitOfCur s kind = { kind := kind, deadline := s.time, met := false, value := 0 } := by
      rw [waitOfCur, hlim]
      rfl
    rw [hwait]
    exact issue_trap hw h (hb.trans (startWait_limit0 (p := s.pkg) (cx := cxOf s) hlim kind))
  case isFalse hlim => exact issue_hold hw h (hb.trans (startWait_holds (p := s.pkg) (cx := cxOf s) hlim kind))

theorem barw_own (hhold : s.cur.hold = .none) (h : ownObject s f false) : barw f (cxOf s) s.pkg =
    if (objOf s.part (objectAt s f).1).phase ≠ fld (s.bVal f) 0 16 then .done s.pkg
    else startWait s.pkg (cxOf s) (.phase (objectAt s f).1 (fld (s.bVal f) 0 16)) := by
  obtain ⟨hcore, hal, -, -⟩ := id h
  have hobj : barObject (cxOf s) (slotOf (partOf s.pkg (cxOf s).core) (cxOf s).slot) f true = .ok (objectAt s f) :=
    barObject_aligned (fun _ => hcore) hal
  have hhold' : holdOf s.pkg (cxOf s) = .none := hhold
  simp only [barw, hobj, hhold']
  refine (onObject_own h _).trans ((waitFor_issue hhold _ _ _ _).trans ?_)
  exact if_congr decide_eq_true_iff rfl rfl

end

/-! Messages to an object's home (R222, R223). -/

/-- What an event makes of a message that it gives to its home (R297, R328). -/
theorem eventTo_atHome {i : Instr} {s : State} {src dst : Nat} {m : Msg} {q : Pkg} {inner : Pkg → Pkg} (h : arrives s src dst m q)
    (hexec : exec i s = .next (s.with ((atHome q s.time dst (senderOf s.pkg m) m.body inner).getD s.pkg))) :
    let r := receive q s.time dst s.pkg.regs.pkgnum m.src m.body
    ((coreOf s.pkg dst).fenced.isSome = true → eventTo i s (refuse q dst s.pkg.regs.pkgnum m.src m.asid 0x31 m.body)) ∧
    ((coreOf s.pkg dst).fenced = none → homeReady s.pkg dst = false → eventTo i s s.pkg) ∧
    ((coreOf s.pkg dst).fenced = none → homeReady s.pkg dst = true → scapOk s.pkg dst s.pkg.regs.pkgnum m.asid = false →
      eventTo i s (refuse r dst s.pkg.regs.pkgnum m.src m.asid 0x02 m.body)) ∧
    ((coreOf s.pkg dst).fenced = none → homeReady s.pkg dst = true → scapOk s.pkg dst s.pkg.regs.pkgnum m.asid = true →
      eventTo i s (inner r)) := by
  have hone {x : Pkg} (hx : (atHome q s.time dst (senderOf s.pkg m) m.body inner).getD s.pkg = x) : eventTo i s x := by
    rw [eventTo, hexec, hx]
  have hcore := coreOf_arrives h dst
  have hready := homeReady_arrives h dst
  have hscap := scapOk_arrives h dst s.pkg.regs.pkgnum m.asid
  refine ⟨fun hfenced => hone ?_, fun hup hnot => hone ?_, fun hup hhome hbarred => hone ?_, fun hup hhome hscapOk => hone ?_⟩
  · rw [atHome_fenced (hcore ▸ hfenced)]
    rfl
  · rw [atHome_notReady (hcore ▸ hup) (hready.trans hnot)]
    rfl
  · rw [atHome_barred (hcore ▸ hup) (hready.trans hhome) (hscap.trans hbarred)]
    rfl
  · rw [atHome_acts (hcore ▸ hup) (hready.trans hhome) (hscap.trans hscapOk)]
    rfl

/-- What a home makes of an arrival, in its turn behind work of its source (R157, R223). -/
def arrivalDone (r : Pkg) (now dst : Nat) (m : Msg) : Pkg :=
  match m.body with
  | .arrive off n uid => if behindErrand r dst (senderOf r m) then errandAdded r now false dst uid 0 m
    else if (scrBad (partOf r dst) off 16).isSome then
      sendPkg (logDetected r now (coreSource dst) 2 off) dst r.regs.pkgnum m.src m.asid (.refusal uid 0x30 0)
    else sendPkg (updPart r dst (fun k => objWrite k now off (arrivals n (objOf k off)))) dst r.regs.pkgnum m.src m.asid (.ack uid)
  | _ => r

/-- The number under which an arrival is acknowledged. -/
def arrivalUid (b : MsgBody) : Nat :=
  match b with
  | .arrive _ _ uid => uid
  | _ => 0

theorem inTurn_arrival (r : Pkg) (now dst : Nat) (m : Msg) (h : isArrive m.body) :
    inTurn r now dst false (senderOf r m) (arrivalUid m.body) m.body = arrivalDone r now dst m := by
  obtain ⟨off, n, uid, hb⟩ := h
  obtain ⟨src, d, asid, body, w, t⟩ := m
  obtain rfl : body = .arrive off n uid := hb
  rfl

theorem arrivals_row : homeRow .remoteBaraArrival isArrive (fun r now _ dst m => arrivalDone r now dst m) :=
  home_row (arr := fun q now dst _ o b => barrierArrives q now dst o b)
    (inner := fun r now dst _ o b => inTurn r now dst false o (arrivalUid b) b) (fun _ _ _ => rfl)
    (fun _ ⟨_, _, _, hb⟩ _ _ _ _ _ => hb ▸ rfl) (fun r now _ dst m => inTurn_arrival r now dst m)

section
variable {s : State} {src dst : Nat} {m : Msg} {q : Pkg} (h : arrives s src dst m q)
include h

theorem behindErrand_arrives (o : Origin) : behindErrand q dst o = behindErrand s.pkg dst o := by
  obtain ⟨-, rfl⟩ := h
  rfl

theorem exec_copyByteAddition : exec (.copyByteAddition src dst) s =
    .next (s.with ((bytesArrive q s.time dst (senderOf s.pkg m) m.body).getD s.pkg)) :=
  congrArg (fun x => Host.Outcome.next (s.with x)) (onMsg_arrives h _)

theorem exec_copyCountEvent : exec (.copyCountEvent src dst) s =
    .next (s.with ((countArrives q s.time dst (senderOf s.pkg m) m.body).getD s.pkg)) :=
  congrArg (fun x => Host.Outcome.next (s.with x)) (onMsg_arrives h _)

theorem nothingBefore_arrives : behindErrand q dst (senderOf s.pkg m) = true ↔ ¬ nothingBefore s dst m := by
  rw [behindErrand_arrives h, nothingBefore, Bool.not_eq_false]
  rfl

/-- A byte addition waits behind work of its source (R157). -/
theorem byteAddition_behind (hb : isAddBytes m.body) (hbehind : ¬ nothingBefore s dst m) :
    eventTo (.copyByteAddition src dst) s s.pkg := by
  obtain ⟨off, n, narr, ch, ident, hb⟩ := hb
  rw [eventTo, exec_copyByteAddition h, hb, bytesArrive, if_pos ((nothingBefore_arrives h).mpr hbehind)]
  rfl

section
variable {off n : Nat} {narr failed : Bool} (hb : m.body = .countDone off n narr failed)
include hb

theorem count_fenced (hfenced : (coreOf s.pkg dst).fenced.isSome = true) : eventTo (.copyCountEvent src dst) s q := by
  have hfenced' : (coreOf q dst).fenced.isSome = true := coreOf_arrives h dst ▸ hfenced
  rw [eventTo, exec_copyCountEvent h, hb, countArrives, if_pos hfenced']
  rfl

theorem count_counts (hup : (coreOf s.pkg dst).fenced = none) (hready : homeReady s.pkg dst = true) (hfirst : nothingBefore s dst m) :
    eventTo (.copyCountEvent src dst) s (updPart (receive q s.time dst s.pkg.regs.pkgnum m.src m.body) dst (fun k =>
      objWrite k s.time off (objPhase (objDone n narr failed (objOf k off))))) := by
  have hup' : ¬ (coreOf q dst).fenced.isSome = true := by simp [coreOf_arrives h dst, hup]
  have htaken : ¬ (homeReady q dst = false ∨ behindErrand q dst (senderOf s.pkg m) = true) := by
    rw [homeReady_arrives h dst, hready, nothingBefore_arrives h]
    simpa using hfirst
  rw [eventTo, exec_copyCountEvent h, hb, countArrives, if_neg hup', if_neg htaken]
  rfl

end

end

/-- What a home makes of a byte addition (R223). -/
def bytesAdded (r : Pkg) (now dst : Nat) (m : Msg) : Pkg :=
  match m.body with
  | .addBytes off n narr ch ident => if (scrBad (partOf r dst) off 16).isSome then
      sendPkg (logDetected r now (coreSource dst) 2 off) dst r.regs.pkgnum m.src m.asid (.addRefused ch ident)
    else sendPkg (updPart r dst (fun k => objWrite k now off (objPhase
      { objOf k off with pend := ((objOf k off).pend + n) % 2 ^ 56 }))) dst r.regs.pkgnum m.src m.asid (.addOk off n narr ch ident)
  | _ => r

theorem bytesAdded_of_origin {r : Pkg} {now dst src asid w pkg off n ch ident : Nat} {t : Option Nat} {narr : Bool}
    (hpkg : pkg = r.regs.pkgnum) : (if (scrBad (partOf r dst) off 16).isSome then
        refuse (logDetected r now (coreSource dst) 2 off) dst pkg src asid 0x30 (.addBytes off n narr ch ident)
      else sendPkg (updPart r dst (fun k => objEvent k now off (objAdd n))) dst pkg src asid (.addOk off n narr ch ident)) =
    bytesAdded r now dst ⟨src, dst, asid, .addBytes off n narr ch ident, t, w⟩ := by
  subst hpkg
  rfl

theorem byteAdditions_row : homeRowWhere nothingBefore .copyByteAddition isAddBytes (fun r now _ dst m => bytesAdded r now dst m) := by
  intro s src dst m q h hb hfirst r
  obtain ⟨off, n, narr, ch, ident, hb⟩ := hb
  obtain ⟨a, d, asid, body, w, t⟩ := m
  obtain rfl : body = .addBytes off n narr ch ident := hb
  have hfree := fun hbehind => (nothingBefore_arrives h).mp hbehind hfirst
  have hexec := exec_copyByteAddition h
  dsimp only [bytesArrive] at hexec
  rw [if_neg hfree] at hexec
  obtain ⟨hfenced, hnot, hbarred, htaken⟩ := eventTo_atHome h hexec
  exact ⟨hfenced, hnot, hbarred, fun hup hready hscap =>
    eventTo_congr (bytesAdded_of_origin (t := w) (w := t) (pkgnum_received h).symm) (htaken hup hready hscap)⟩

end Sys2Proof.Machine

open Sys2Proof.Claims Sys2Proof.Machine

/-- Settles O33: an object by the fields of its bits, BARI and BART by an object of the own core, BARA by its count and its home, BARW by its
phase; a home takes a message where nothing refuses it and no work of its source stands before it. -/
theorem barrierObjects : Obligations.BarrierObjects := by
  unfold Obligations.BarrierObjects
  refine ⟨fun k now off o hk hpend hphase harrive hexpect hrest =>
      objOf_of_bits ⟨hpend, hphase, harrive, hexpect, hrest⟩ (scrNat_objWrite hk now off o),
    fun s f h ⟨hcore, hal, hclear⟩ => (exec_bari f s).trans (issue_done rfl h (bari_writes hcore hal hclear)),
    fun s f t h ⟨hcore, hal, ht⟩ => ?unaligned, fun s f t h ⟨hcore, ht⟩ => ?elsewhere,
    fun s f h ⟨hal, hn⟩ => (exec_bara f s).trans (issue_done rfl h ((bara_aligned hal).trans (if_pos hn))),
    fun s f h ⟨hown, hn⟩ => (exec_bara f s).trans (issue_done rfl h (bara_own hown hn)),
    fun s f n h hal hn hcore hfree => ⟨_, entryOfMsg_numberedEntry s 4 _ _ _ 0 _,
      (exec_bara f s).trans (issue_done rfl h (bara_sends hal hn hcore hfree))⟩,
    fun s f h hown => (exec_bart f s).trans (issue_done rfl h (bart_own hown)),
    fun s f h ⟨hown, hphase⟩ => (exec_barw f s).trans (issue_done rfl h
      ((barw_own (hold_of_runs rfl h).2 hown).trans (if_pos hphase))),
    fun s f kind h ⟨hown, hphase, hkind⟩ => hkind ▸ (exec_barw f s).trans (issue_startWait rfl h
      ((barw_own (hold_of_runs rfl h).2 hown).trans (if_neg (not_not_intro hphase)))),
    arrivals_row, byteAdditions_row, fun s src dst off n narr failed m q h => ⟨byteAddition_behind h,
      fun hb hfenced => count_fenced h hb hfenced, fun hb hup hready hfirst => count_counts h hb hup hready hfirst⟩⟩
  case unaligned => exact ht ▸ (exec_bari f s).trans (issue_trap rfl h (bari_error (barObject_unaligned (fun _ => hcore) hal)))
  case elsewhere => exact ht ▸ (exec_bari f s).trans (issue_trap rfl h (bari_error (barObject_elsewhere hcore)))
end

section
/-!
Hardware barriers (R225, R226): HWBAR at issue, the release of a scope, the rounds of an episode at POD and the switch's counter.
-/
namespace Sys2Proof.Machine
open Sys2Proof.Claims

/-! HWBAR (R225). -/

theorem exec_hwbar (f : Fields) (s : State) : exec (.hwbar f) s = issue (.hwbar f) .lane0 hwbar s := rfl

/-- The package once a slot waits at a scope, its release complete and the arrival counted. -/
def arrived (s : State) (p : Pkg) (scope : Nat) : Pkg :=
  barrierCheck (setHold (if scope = 6 then podBegin p s.core else p) (cxOf s) (.wait (waitOfCur s (.barrier scope)))) s.time s.core scope

section
variable {s : State} {f : Fields}

/-- The release waits for the journal and the loads: the slot stands at its push. -/
theorem hwbar_releases (hhold : s.cur.hold = .none) (h : journalWaits s.part s.slot false = true ∨ s.cur.loads ≠ []) :
    hwbar f (cxOf s) s.pkg = .push s.pkg (.push (fld f.md 4 3) true []) := by
  have hhold' : holdOf s.pkg (cxOf s) = .none := hhold
  have hrel : releaseAt s.pkg (cxOf s) (fld f.md 4 3) false = (s.pkg, false) := releaseAt_waits _ h
  simp only [hwbar, hhold', hrel, if_true]

/-- Its release complete, the slot arrives: it goes on where it was the last, traps where its limit is 0, and else waits. -/
theorem hwbar_arrives (hhold : s.cur.hold = .none) (hj : journalWaits s.part s.slot false = false) (hl : s.cur.loads = [])
    {p1 : Pkg} (hpush : releasePush s.pkg s.time s.core (fld f.md 4 3) = (p1, true)) {v : Wait}
    (hv : holdOf (arrived s p1 (fld f.md 4 3)) (cxOf s) = .wait v) :
    hwbar f (cxOf s) s.pkg = if v.met then .done (arrived s p1 (fld f.md 4 3))
      else if s.cur.waitlim = 0 then .trap (waitTrap (cxOf s) (waitOfCur s (.barrier (fld f.md 4 3))))
      else .hold (limitMonitors (arrived s p1 (fld f.md 4 3)) s.time s.core) := by
  have hhold' : holdOf s.pkg (cxOf s) = .none := hhold
  have hrel : releaseAt s.pkg (cxOf s) (fld f.md 4 3) false = (p1, true) := 
    (releaseAt_pushes (p := s.pkg) (cx := cxOf s) _ hj hl).trans hpush
  simp only [hwbar, hhold', hrel, Bool.true_eq_false, if_false]
  show (match holdOf (arrived s p1 (fld f.md 4 3)) (cxOf s) with
    | .wait v => _
    | _ => _) = _
  rw [hv]
  rfl

end

/-! The release of a scope (R225). -/

section
variable {p : Pkg} {c : Nat} {t : Team}

/-- The member cores that a scope counts. -/
theorem barrierCheck_members (ht : (partOf p c).team = some t) (now : Nat) {scope : Nat} (hs : scope ≠ 6) :
    barrierCheck p now c scope =
      if (if scope ≤ 1 then [c] else (groupMembers p c t).filter (withinScope scope c)).all (memberArrived p t now scope) then
        (if scope ≤ 1 then [c] else (groupMembers p c t).filter (withinScope scope c)).foldl (fun q m => releaseCore q now scope m) p
      else p := by
  simp only [barrierCheck, ht, hs, false_and, if_false]

theorem barrierCheck_core (ht : (partOf p c).team = some t) (now : Nat) {scope : Nat} (hs : scope ≤ 1) :
    barrierCheck p now c scope = if memberArrived p t now scope c then releaseCore p now scope c else p := by
  rw [barrierCheck_members ht now (by omega)]
  simp only [if_pos hs, List.all_cons, List.all_nil, Bool.and_true, List.foldl_cons, List.foldl_nil]

theorem barrierCheck_group (ht : (partOf p c).team = some t) (now : Nat) {scope : Nat} (hlo : 2 ≤ scope) (hhi : scope ≤ 5) :
    barrierCheck p now c scope =
      if ((groupMembers p c t).filter (withinScope scope c)).all (memberArrived p t now scope) then
        ((groupMembers p c t).filter (withinScope scope c)).foldl (fun q m => releaseCore q now scope m) p else p := by
  rw [barrierCheck_members ht now (by omega)]
  simp only [if_neg (show ¬ scope ≤ 1 by omega)]

end

/-! Episodes at POD (R226). -/

section
variable {p : Pkg} {now : Nat} {e : PodEpisode}

/-- An episode that has begun is the one that its group's messages are for. -/
theorem podEpisode_arrived {asid lead : Nat} {gtag : Word} (hfind : p.pod.find? (podSame asid gtag lead) = some e)
    (harr : e.arrived = true) : podEpisode p asid gtag lead = e := by
  simp only [podEpisode, hfind, harr, Bool.true_or, if_true]

/-- An episode whose round's message is missing stays as it is. -/
theorem podGo_awaits {n : Nat} (hround : e.round < podRounds e.size) (hgot : e.got = []) : podGo (n + 1) p now e = (p, some e) := by
  rw [podGo]
  split
  · rfl
  · rw [if_neg (by simpa using hround), hgot]
    rfl

/-- After the last round the episode completes. -/
theorem podGo_completes {n : Nat} (harr : e.arrived = true) (hstands : podStands p now e = true)
    (hround : podRounds e.size ≤ e.round) (hgot : e.got = []) : podGo (n + 1) p now e = (podRelease p now e, none) := by
  rw [podGo, if_neg (by simp [harr, hstands]), if_pos (decide_eq_true hround), if_pos hgot]

/-- The message of the episode's round takes it to the next round. -/
theorem podGo_round {n : Nat} (harr : e.arrived = true) (hstands : podStands p now e = true) (hround : e.round < podRounds e.size) :
    podGo (n + 1) p now { e with got := [e.round] } =
      podGo n (if e.round + 1 < podRounds e.size then podSend p { e with round := e.round + 1, got := [] } else p) now
        { e with round := e.round + 1, got := [] } := by
  have hgo : ¬ (({ e with got := [e.round] } : PodEpisode).arrived && podStands p now { e with got := [e.round] }) = false :=
    (Bool.not_eq_false _).mpr (Bool.and_eq_true_iff.mpr ⟨harr, hstands⟩)
  rw [podGo, if_neg hgo, if_neg (by simpa using hround), if_pos (by simp)]
  simp

/-- The round's message comes to an episode that has begun. -/
theorem podRound_update {asid lead round rank : Nat} {gtag : Word} (hfind : p.pod.find? (podSame asid gtag lead) = some e)
    (harr : e.arrived = true) (hgot : e.got = []) (hround : e.round = round) (hcount : countersUsed p e.gid = false)
    (hrank : (rank + 2 ^ round) % e.size = e.rank) (hlt : round < podRounds e.size) :
    podRound p now asid gtag lead round rank = podUpdate p now { e with got := [e.round] } := by
  simp only [podRound, podEpisode_arrived hfind harr]
  rw [if_neg (by simp [hcount, hrank, hlt]), hgot, hround]
  rfl

end

/-- The last round's message completes the episode. -/
theorem podRound_last {s : State} {asid lead round rank : Nat} {gtag : Word} {e : PodEpisode}
    (hfind : s.pkg.pod.find? (podSame asid gtag lead) = some e) (harr : e.arrived = true) (hgot : e.got = []) (hround : e.round = round)
    (hcount : countersUsed s.pkg e.gid = false) (hrank : (rank + 2 ^ round) % e.size = e.rank)
    (hstands : podStands s.pkg s.time e = true) (hlast : round + 1 = podRounds e.size) :
    podRound s.pkg s.time asid gtag lead round rank =
      { podRelease s.pkg s.time e with pod := s.pkg.pod.filter (fun x => !podSame e.asid e.gtag e.lead x) } := by
  have hlt : e.round < podRounds e.size := by omega
  have hnone : ¬ e.round + 1 < podRounds e.size := by omega
  have hgo : podGo 12 s.pkg s.time { e with got := [e.round] } =
      (podRelease s.pkg s.time { e with round := e.round + 1, got := [] }, none) :=
    (podGo_round harr hstands hlt).trans ((if_neg hnone).symm ▸
      podGo_completes (e := { e with round := e.round + 1, got := [] }) harr hstands (Nat.le_of_not_lt hnone) rfl)
  rw [podRound_update hfind harr hgot hround hcount hrank (hround ▸ hlt), podUpdate, hgo]
  rfl

/-- Another round's message sends the next round's. -/
theorem podRound_next {s : State} {asid lead round rank : Nat} {gtag : Word} {e : PodEpisode}
    (hfind : s.pkg.pod.find? (podSame asid gtag lead) = some e) (harr : e.arrived = true) (hgot : e.got = []) (hround : e.round = round)
    (hcount : countersUsed s.pkg e.gid = false) (hrank : (rank + 2 ^ round) % e.size = e.rank)
    (hstands : podStands s.pkg s.time e = true) (hmore : round + 1 < podRounds e.size)
    (hreach : s.pkg.unreachable.contains ((e.rank + 2 ^ (round + 1)) % e.size) = false) :
    podRound s.pkg s.time asid gtag lead round rank = { s.pkg with
      outbox := s.pkg.outbox ++ [((e.rank + 2 ^ (round + 1)) % e.size, 0, .podRound e.asid e.gtag e.lead (round + 1) e.rank)],
      pod := s.pkg.pod.filter (fun x => !podSame e.asid e.gtag e.lead x) ++ [{ e with round := round + 1 }] } := by
  subst hround
  have hsame : ({ e with round := e.round + 1, got := [] } : PodEpisode) = { e with round := e.round + 1 } := by rw [hgot]
  have hsend : podSend s.pkg { e with round := e.round + 1 } = { s.pkg with
      outbox := s.pkg.outbox ++ [((e.rank + 2 ^ (e.round + 1)) % e.size, 0, .podRound e.asid e.gtag e.lead (e.round + 1) e.rank)] } :=
    if_neg (Bool.eq_false_iff.mp hreach)
  have hgo : podGo 12 s.pkg s.time { e with got := [e.round] } =
      (podSend s.pkg { e with round := e.round + 1 }, some { e with round := e.round + 1 }) := by
    rw [podGo_round harr hstands (Nat.lt_of_succ_lt hmore), if_pos hmore, hsame]
    exact podGo_awaits (e := { e with round := e.round + 1 }) hmore hgot
  rw [podRound_update hfind harr hgot rfl hcount hrank (Nat.lt_of_succ_lt hmore), podUpdate, hgo, hsend]

/-! The switch's counter (R226). -/

theorem switchCounter_releases {p : Pkg} {now gid asid lead : Nat} {gtag : Word} {e : PodEpisode}
    (hfind : p.pod.find? (podSame asid gtag lead) = some e) (hcount : countersUsed p gid = true) (harr : e.arrived = true)
    (hgid : e.gid = gid) (hstands : podStands p now e = true) :
    switchCounter p now gid asid gtag lead = podRelease { p with pod := p.pod.erase e } now e := by
  simp only [switchCounter, hfind]
  exact if_pos (by simp [hcount, harr, hgid, hstands])

end Sys2Proof.Machine

open Sys2Proof.Claims Sys2Proof.Machine

/-- Settles O34: HWBAR by its release, arrival and wait; the scopes of a core and of a group by their members; an episode at POD by the
message of its round, or by the switch's counter. -/
theorem hardwareBarriers : Obligations.HardwareBarriers := by
  unfold Obligations.HardwareBarriers
  refine ⟨fun s f p1 h hj hl hpush => ?issues,
    fun s f h hwaits => (exec_hwbar f s).trans (issue_push rfl h (hwbar_releases (hold_of_runs rfl h).2 hwaits)),
    fun p now c scope t ht hs => barrierCheck_core ht now hs, fun p now c scope t ht hlo hhi => barrierCheck_group ht now hlo hhi,
    fun s asid lead round rank gtag e hfind harr hgot hround hcount hrank hstands =>
      ⟨fun hlast => congrArg (fun q => Host.Outcome.next (s.with q)) (podRound_last hfind harr hgot hround hcount hrank hstands hlast),
        fun hmore hreach =>
          congrArg (fun q => Host.Outcome.next (s.with q)) (podRound_next hfind harr hgot hround hcount hrank hstands hmore hreach)⟩,
    fun s gid asid lead gtag e hfind hcount harr hgid hstands =>
      congrArg (fun q => Host.Outcome.next (s.with q)) (switchCounter_releases hfind hcount harr hgid hstands)⟩
  case issues =>
    have hbody := fun {v : Wait} => hwbar_arrives (f := f) (v := v) (hold_of_runs rfl h).2 hj hl hpush
    refine ⟨fun v hv hmet => ?released, fun v hv hmet hlim => ?expired, fun v hv hmet hlim => ?waits⟩
    case released => exact (exec_hwbar f s).trans (issue_done rfl h ((hbody hv).trans (if_pos hmet)))
    case expired =>
      exact (exec_hwbar f s).trans (issue_trap rfl h ((hbody hv).trans ((if_neg (Bool.eq_false_iff.mp hmet)).trans (if_pos hlim))))
    case waits =>
      exact (exec_hwbar f s).trans (issue_hold rfl h ((hbody hv).trans ((if_neg (Bool.eq_false_iff.mp hmet)).trans (if_neg hlim))))
end

section
/-!
Copies (R212 to R220): a package whose map of cores lists one core twice. A copied zero takes the first entry back to its reset state, which
unlists it (`mapPut`), and core 0 then reads as the second entry, with another byte at the destination.
-/
namespace Sys2Proof.Machine
open Sys2Proof.Claims

-- A layout is a word of 512 bits, which evaluates by its powers of two.
set_option exponentiation.threshold 1024
set_option maxRecDepth 4000

/-- A one-dimensional I32 layout of one element in scratchpad. -/
def oneI32 (base : Nat) : Bits512 := BitVec.ofNat 512 (1 + 4 * 2 ^ 8 + base * 2 ^ 128 + 2 ^ 256)

/-- A core as at reset, but for one byte of its scratchpad. -/
def coreWithByte (a : Nat) (b : Byte) : Core := { coreReset with part := { partReset with scr := [(a, b)] } }

def twiceListed : Pkg := { pkgReset with cores := [(0, coreWithByte 0x200 1), (0, coreWithByte 0x200 7)] }

/-- The element at 0x100 copied to 0x200. -/
def zeroCopy : Copy := { (default : Copy) with
  d := oneI32 0x200
  src := oneI32 0x100 }

def zeroElement : CpyEl := { place := [0, 0, 0, 0], ord := 0, src := some [0, 0, 0, 0], dst := [0, 0, 0, 0] }

theorem nextElement_zeroCopy : nextElement zeroCopy zeroElement := by
  unfold nextElement
  decide

/-- It reads zero. -/
theorem cpyRead_zeroCopy : cpyRead twiceListed 0 0 zeroCopy zeroElement = .ok (some ([0, 0, 0, 0], 0)) := rfl

theorem cpyConvert_zeroCopy : cpyConvert (layType zeroCopy.d) (layType zeroCopy.src) zeroCopy.scale 0 = (0, 0) := rfl

/-- Its destination, of four bytes at 0x200 in core 0, may be written. -/
theorem zeroCopy_writes : laySpace zeroCopy.d ≠ 0 ∧ scrHome twiceListed 0 zeroCopy.d = some 0 ∧ copyMay twiceListed zeroCopy zeroCopy.d 0 = true ∧
    mapSorted 0 (partOf twiceListed 0).scr = true ∧ (partOf twiceListed 0).badWords = [] ∧ zeroCopy.xf = 0 ∧
    (elemAddr zeroCopy.d zeroElement.dst).toNat = 0x200 ∧ tySize (layType zeroCopy.d) = 4 := by decide

/-- Once it is performed the destination reads 7. -/
theorem scrNat_zeroCopy : scrNat (partOf (performCopy twiceListed 0 0 zeroCopy 1).1 0) 0x200 4 = 7 := by decide

end Sys2Proof.Machine

open Sys2Proof.Claims Sys2Proof.Machine

/-- Refutes O32: the clause on an element in scratchpad asks nothing of the package's map of cores. Where that map lists core 0 twice, the
copied zero unlists its first entry and the destination reads 7 from the second. -/
theorem not_copyInstructions : ¬ Obligations.CopyInstructions := by
  unfold Obligations.CopyInstructions
  rintro ⟨-, -, -, hperform, -⟩
  obtain ⟨hspace, hhome, hmay, hsorted, hwords, hxf, haddr, hsize⟩ := zeroCopy_writes
  obtain ⟨hlocal, -, -⟩ := hperform twiceListed 0 0 zeroCopy zeroElement [0, 0, 0, 0] 0 nextElement_zeroCopy cpyRead_zeroCopy
  obtain ⟨q, y, hdone, -, -, -, -, hvalue, -⟩ := hlocal 0 hspace hhome hmay hsorted hwords
  have hq : (performCopy twiceListed 0 0 zeroCopy 1).1 = q := congrArg Prod.fst hdone
  rw [haddr, hsize, hxf, if_neg (by decide), cpyConvert_zeroCopy, ← hq, scrNat_zeroCopy] at hvalue
  exact absurd hvalue (by decide)
end

section
/-!
WAIT, SLEEP and WAKE (R260, R261, R270, R271): at issue they go on or wait; a wake request ends a SLEEP or leaves its token.
-/
namespace Sys2Proof.Machine
open Sys2Proof.Claims

/-! At issue. -/

theorem exec_wait (f : Fields) (s : State) : exec (.wait f) s = issue (.wait f) .lane0 waitWord s := rfl
theorem exec_sleep (f : Fields) (s : State) : exec (.sleep f) s = issue (.sleep f) .lane0 sleep s := rfl
theorem exec_wake (f : Fields) (s : State) : exec (.wake f) s = issue (.wake f) .lane0 wake s := rfl

/-- The word of scratchpad that a WAIT watches, and its comparison (R270). -/
def watched (s : State) (f : Fields) : WaitKind := .word (fld (s.aVal f) 0 17) (fld f.md 1 3) (s.bVal f)

section
variable {s : State} {f : Fields}

theorem waitWord_unaligned (h : fld (s.aVal f) 0 17 % 8 ≠ 0) :
    waitWord f (cxOf s) s.pkg = .trap (alignTrap (fld (s.aVal f) 0 17)) := if_pos h

/-- A WAIT of an aligned word that may be read and holds no error: it goes on where its comparison holds, and else it waits. -/
theorem waitWord_reads (hhold : s.cur.hold = .none) (hal : fld (s.aVal f) 0 17 % 8 = 0) (hwords : s.part.badWords = [])
    (hclear : scrClear s.part [(fld (s.aVal f) 0 17, fld (s.aVal f) 0 17 + 8)] [] = true) : waitWord f (cxOf s) s.pkg =
      if waitHolds s.part (watched s f) then .done s.pkg else startWait s.pkg (cxOf s) (watched s f) := by
  have hal' : ¬ fld (opdScalar (slotOf (partOf s.pkg (cxOf s).core) (cxOf s).slot) f.a) 0 17 % 8 ≠ 0 := not_not_intro hal
  have hhold' : holdOf s.pkg (cxOf s) = .none := hhold
  have hclear' : ¬ scrClear (partOf s.pkg (cxOf s).core) [(fld (opdScalar (slotOf (partOf s.pkg (cxOf s).core) (cxOf s).slot) f.a) 0 17,
      fld (opdScalar (slotOf (partOf s.pkg (cxOf s).core) (cxOf s).slot) f.a) 0 17 + 8)] [] = false := by
    rw [Bool.not_eq_false]
    exact hclear
  have hgood : ∀ l, spansBad (partOf s.pkg (cxOf s).core) l = none := spansBad_none hwords
  simp only [waitWord, if_neg hal', hhold', if_neg hclear', hgood]
  exact waitFor_issue hhold _ _ _ _

/-- A SLEEP at issue: its token, then its time (R271). -/
theorem sleep_issues (hhold : s.cur.hold = .none) : sleep f (cxOf s) s.pkg =
    if s.cur.token then .done (changeCur s (fun x => { x with token := false }))
    else if fld (s.bVal f) 0 48 = 0 then .done s.pkg
    else startWait s.pkg (cxOf s) (.sleep (s.time + fld (s.bVal f) 0 48)) := by
  have hhold' : holdOf s.pkg (cxOf s) = .none := hhold
  simp only [sleep, hhold']
  rfl

theorem wake_sends {n : Nat} (hfree : jFree s.part = some n) :
    let dst := fld (s.aVal f) 0 12
    let b := MsgBody.wake (fld (s.aVal f) 12 4) s.part.nextUid
    wake f (cxOf s) s.pkg = .done (send (journalled s n (numberedEntry s 6 (homeAddr s.pkg.regs.pkgnum dst 0) dst s.pkg.regs.pkgnum 0 b))
      s.core dst (asidOf s.part) b) := by
  simp only [wake, sendJournal_sends hfree (reachable_self s.pkg)]
  exact congrArg Eff.done (if_pos rfl)

theorem wake_full (h : jFree s.part = none) : wake f (cxOf s) s.pkg = .stay s.pkg := by
  simp only [wake, sendJournal_full h]

end

/-! The wake request at its target (R271). -/

theorem wakeSlot_notWaiting {x : Slot} (now : Nat) (h : ∀ w : Wait, x.hold ≠ .wait w) : wakeSlot now x = { x with token := true } := by
  unfold wakeSlot
  split
  next w hw => exact absurd hw (h w)
  next => rfl

section
variable {p : Pkg} {now home n uid : Nat} {o : Origin}

theorem wakeArrives_fenced (h : (coreOf p home).fenced.isSome = true) :
    wakeArrives p now home o (.wake n uid) = some (refuse p home o.pkg o.core o.asid 0x31 (.wake n uid)) := if_pos h

variable (hup : (coreOf p home).fenced = none)
include hup

theorem wakeArrives_behind (h : behindErrand p home o = true) : wakeArrives p now home o (.wake n uid) = none :=
  (if_neg (by simp [hup])).trans (if_pos h)

variable (hfirst : ¬ behindErrand p home o = true)
include hfirst

/-- Taken in its turn, a wake request finds a live slot of its ASID. -/
theorem wakeArrives_live {r : Pkg} (hr : r = receive p now home o.pkg o.core (.wake n uid)) (hteam : (partOf r home).team.isSome = true)
    (hasid : asidOf (partOf r home) = o.asid) (hlive : (slotOf (partOf r home) n).live = true) : wakeArrives p now home o (.wake n uid) =
      some (sendPkg (setPart r home (updSlot (partOf r home) n (wakeSlot now))) home o.pkg o.core o.asid (.ack uid)) := by
  subst hr
  rw [wakeArrives, if_neg (by simp [hup]), if_neg hfirst]
  exact if_pos (by rw [hteam, decide_eq_true hasid, hlive]; rfl)

/-- Taken in its turn, it finds a core without a context of its ASID. -/
theorem wakeArrives_noContext {r : Pkg} (hr : r = receive p now home o.pkg o.core (.wake n uid)) (hasid : asidOf (partOf r home) ≠ o.asid) :
    wakeArrives p now home o (.wake n uid) = some (refuse r home o.pkg o.core o.asid 0x21 (.wake n uid)) := by
  subst hr
  rw [wakeArrives, if_neg (by simp [hup]), if_neg hfirst]
  have hnone (l : List Moved) : l.find? (fun _ => false) = none := List.find?_eq_none.mpr (fun _ _ => Bool.false_ne_true)
  simp [hasid, hnone]

end

section
variable {s : State} {src dst : Nat} {m : Msg} {q : Pkg} (h : arrives s src dst m q)
include h

theorem eventTo_wakeRequest {n uid : Nat} (hb : m.body = .wake n uid) :
    eventTo (.wakeRequest src dst) s ((wakeArrives q s.time dst (senderOf s.pkg m) (.wake n uid)).getD s.pkg) :=
  hb ▸ congrArg (fun x => Host.Outcome.next (s.with x)) (onMsg_arrives h _)

/-- What a wake request comes to (R271). -/
theorem wakeRequest_row {n uid : Nat} (hb : m.body = .wake n uid) :
    let r := receive q s.time dst s.pkg.regs.pkgnum m.src m.body
    ((coreOf s.pkg dst).fenced.isSome = true →
      eventTo (.wakeRequest src dst) s (refuse q dst s.pkg.regs.pkgnum m.src m.asid 0x31 m.body)) ∧
    ((coreOf s.pkg dst).fenced = none → ¬ nothingBefore s dst m → eventTo (.wakeRequest src dst) s s.pkg) ∧
    ((coreOf s.pkg dst).fenced = none → nothingBefore s dst m → (partOf r dst).team.isSome = true → asidOf (partOf r dst) = m.asid →
      (slotOf (partOf r dst) n).live = true → eventTo (.wakeRequest src dst) s
        (sendPkg (setPart r dst (updSlot (partOf r dst) n (wakeSlot s.time))) dst s.pkg.regs.pkgnum m.src m.asid (.ack uid))) ∧
    ((coreOf s.pkg dst).fenced = none → nothingBefore s dst m → asidOf (partOf r dst) ≠ m.asid → eventTo (.wakeRequest src dst) s
      (refuse r dst s.pkg.regs.pkgnum m.src m.asid 0x21 m.body)) := by
  have hcore := coreOf_arrives h dst
  have hbehind := nothingBefore_arrives h
  have hto {x : Option Pkg} (hx : wakeArrives q s.time dst (senderOf s.pkg m) (.wake n uid) = x) :
      eventTo (.wakeRequest src dst) s (x.getD s.pkg) := hx ▸ eventTo_wakeRequest h hb
  rw [← hcore, hb]
  exact ⟨fun hfenced => hto (wakeArrives_fenced hfenced), fun hup hnot => hto (wakeArrives_behind hup (hbehind.mpr hnot)),
    fun hup hfirst hteam hasid hlive => hto (wakeArrives_live hup (fun hb => hbehind.mp hb hfirst) rfl hteam hasid hlive),
    fun hup hfirst hasid => hto (wakeArrives_noContext hup (fun hb => hbehind.mp hb hfirst) rfl hasid)⟩

end

end Sys2Proof.Machine

open Sys2Proof.Claims Sys2Proof.Machine

/-- Settles O40: WAIT by its comparison, SLEEP by its token and its time, WAKE by its journal entry; a wake request by what its target
is and holds. -/
theorem waitInstructions : Obligations.WaitInstructions := by
  unfold Obligations.WaitInstructions
  refine ⟨fun s f t h ⟨hal, ht⟩ => ht ▸ (exec_wait f s).trans (issue_trap rfl h (waitWord_unaligned hal)),
    fun s f h ⟨hal, hwords, hclear, hcmp⟩ => (exec_wait f s).trans (issue_done rfl h
      ((waitWord_reads (hold_of_runs rfl h).2 hal hwords hclear).trans (if_pos hcmp))),
    fun s f kind h ⟨hal, hwords, hclear, hcmp, hkind⟩ => hkind ▸ (exec_wait f s).trans (issue_startWait rfl h
      ((waitWord_reads (hold_of_runs rfl h).2 hal hwords hclear).trans (if_neg (Bool.eq_false_iff.mp hcmp)))),
    fun s f h htoken => (exec_sleep f s).trans (issue_done rfl h ((sleep_issues (hold_of_runs rfl h).2).trans (if_pos htoken))),
    fun s f h ⟨htoken, hzero⟩ => (exec_sleep f s).trans (issue_done rfl h
      ((sleep_issues (hold_of_runs rfl h).2).trans ((if_neg (Bool.eq_false_iff.mp htoken)).trans (if_pos hzero)))),
    fun s f kind h ⟨htoken, hzero, hkind⟩ => hkind ▸ (exec_sleep f s).trans (issue_startWait rfl h
      ((sleep_issues (hold_of_runs rfl h).2).trans ((if_neg (Bool.eq_false_iff.mp htoken)).trans (if_neg hzero)))),
    fun s f n h hfree => ⟨_, entryOfMsg_numberedEntry s 6 _ _ _ 0 _, (exec_wake f s).trans (issue_done rfl h (wake_sends hfree))⟩,
    fun s f h hfull => (exec_wake f s).trans (issue_waits rfl h (wake_full hfull)),
    fun s src dst n uid m q h hb => wakeRequest_row h hb,
    fun now x => wakeSlot_notWaiting now⟩
end

section
/-!
The ends of waits (R261, R271): a deadline, a time; moved contexts, their evaluation and their reload (R262, R263).
-/
namespace Sys2Proof.Machine
open Sys2Proof.Claims

theorem coreActs_of_acting {s : State} {c : Nat} (h : acting s c) : coreActs s.pkg c = true := by
  obtain ⟨hup, hruns⟩ := h
  rw [coreActs, hup, hruns]
  rfl

/-! A loaded wait (R261, R271). -/

section
variable {p : Pkg} {c n : Nat} {w : Wait}

theorem openWait_of_open {x : Slot} (hw : x.hold = .wait w) (hmet : w.met = false) : openWait x = some w := by
  simp [openWait, hw, hmet]

theorem deadlineExpiry_early {cx : Cx} (h : openWait (slotOf (partOf p c) n) = some w) (hnow : cx.now < w.deadline) :
    deadlineExpiry p cx c n = p := by
  simp only [deadlineExpiry, h, if_pos (Or.inl hnow)]

/-- At its deadline a wait has ended, by its condition or in WAIT_TIMEOUT. -/
theorem deadlineExpiry_due {cx : Cx} (h : openWait (slotOf (partOf p c) n) = some w) (hacts : coreActs p c = true)
    (hnow : w.deadline ≤ cx.now) : deadlineExpiry p cx c n =
      if holdsAtDeadline (partOf p c) w then setMet p c n w else takeTrap p cx.now c n (waitTrap { cx with core := c, slot := n } w) := by
  have hdue : ¬ (cx.now < w.deadline ∨ coreActs p c = false) := by simp [hacts, hnow]
  simp only [deadlineExpiry, h, if_neg hdue]

theorem sleepElapsed_of_sleep {now u : Nat} (h : openWait (slotOf (partOf p c) n) = some w) (hkind : w.kind = .sleep u) :
    sleepElapsed p now c n = if u ≤ now ∧ u ≤ w.deadline ∧ coreActs p c then setMet p c n w else p := by
  simp only [sleepElapsed, h, hkind]

end

theorem eventTo_waitDeadlineExpiry (s : State) (c n : Nat) :
    eventTo (.waitDeadlineExpiry c n) s (deadlineExpiry s.pkg (cxOf s) c n) := rfl

theorem eventTo_sleepTimeElapsed (s : State) (c n : Nat) : eventTo (.sleepTimeElapsed c n) s (sleepElapsed s.pkg s.time c n) := rfl

/-- What WAIT_DEADLINE_EXPIRY makes of an open wait (R261). -/
theorem waitDeadlineExpiry_row {s : State} {c n : Nat} {w : Wait} (hopen : openWaitOf s c n w) (hacts : acting s c) :
    (s.time < w.deadline → eventTo (.waitDeadlineExpiry c n) s s.pkg) ∧
    (w.deadline ≤ s.time → holdsAtDeadline (partOf s.pkg c) w = false → eventTo (.waitDeadlineExpiry c n) s
      (takeTrap s.pkg s.time c n (waitTrap { cxOf s with core := c, slot := n } w))) ∧
    (w.deadline ≤ s.time → holdsAtDeadline (partOf s.pkg c) w = true →
      eventTo (.waitDeadlineExpiry c n) s (seenBy s c n w)) := by
  have hw := openWait_of_open hopen.1 hopen.2
  have hdue := deadlineExpiry_due (cx := cxOf s) hw (coreActs_of_acting hacts)
  have hevent := eventTo_waitDeadlineExpiry s c n
  exact ⟨fun hearly => eventTo_congr (deadlineExpiry_early (cx := cxOf s) hw hearly) hevent,
    fun hlate hnot => eventTo_congr ((hdue hlate).trans (if_neg (Bool.eq_false_iff.mp hnot))) hevent,
    fun hlate hholds => eventTo_congr ((hdue hlate).trans (if_pos hholds)) hevent⟩

/-- What SLEEP_TIME_ELAPSED makes of an open SLEEP (R271). -/
theorem sleepTimeElapsed_row {s : State} {c n u : Nat} {w : Wait} (hopen : openWaitOf s c n w) (hkind : w.kind = .sleep u)
    (hacts : acting s c) : (u ≤ s.time → u ≤ w.deadline → eventTo (.sleepTimeElapsed c n) s (seenBy s c n w)) ∧
      (s.time < u → eventTo (.sleepTimeElapsed c n) s s.pkg) := by
  have hsleep := sleepElapsed_of_sleep (now := s.time) (openWait_of_open hopen.1 hopen.2) hkind
  have hevent := eventTo_sleepTimeElapsed s c n
  exact ⟨fun hover hin => eventTo_congr (hsleep.trans (if_pos ⟨hover, hin, coreActs_of_acting hacts⟩)) hevent,
    fun hearly => eventTo_congr (hsleep.trans (if_neg (fun h => absurd h.1 (Nat.not_le.mpr hearly)))) hevent⟩

/-! The evaluation of moved contexts (R263). -/

theorem eventTo_movedWaitEvaluation {s : State} {c i : Nat} {m : Moved} (hm : (partOf s.pkg c).moved[i]? = some m) (hacts : acting s c) :
    eventTo (.movedWaitEvaluation c i) s (evalContext s.pkg s.time c m.sl.ctx) := by
  have hacts' : ¬ coreActs s.pkg c = false := by simp [coreActs_of_acting hacts]
  refine eventTo_congr (p := movedEvaluation s.pkg s.time c i) ?_ rfl
  simp only [movedEvaluation, if_neg hacts', hm]

/-- The lesser of a tick, where there is one, and 500 ticks after another: a step of `evalBy`. -/
def evalStep (acc : Option Nat) (t : Nat) : Option Nat :=
  match acc with
  | none => some (t + 500)
  | some b => some (min b (t + 500))

theorem evalStep_le {acc : Option Nat} {t b : Nat} (h : evalStep acc t = some b) : b ≤ t + 500 ∧ ∀ a, acc = some a → b ≤ a := by
  cases acc with
  | none =>
    obtain rfl : t + 500 = b := Option.some.inj h
    exact ⟨le_rfl, fun a ha => by cases ha⟩
  | some d =>
    obtain rfl : min d (t + 500) = b := Option.some.inj h
    exact ⟨Nat.min_le_right _ _, fun a ha => by cases ha; exact Nat.min_le_left _ _⟩

theorem evalStep_fold_le {l : List Nat} {acc : Option Nat} {b : Nat} (h : l.foldl evalStep acc = some b) :
    (∀ t ∈ l, b ≤ t + 500) ∧ ∀ a, acc = some a → b ≤ a := by
  induction l generalizing acc with
  | nil => exact ⟨fun _ ht => absurd ht List.not_mem_nil, fun a ha => by cases h.symm.trans ha; exact le_rfl⟩
  | cons x l ih =>
    obtain ⟨hl, hacc⟩ := ih h
    cases hx : evalStep acc x with
    | none => cases acc <;> cases hx
    | some d =>
      obtain ⟨hdx, hda⟩ := evalStep_le hx
      have hbd := hacc d hx
      exact ⟨List.forall_mem_cons.mpr ⟨hbd.trans hdx, hl⟩, fun a ha => hbd.trans (hda a ha)⟩

theorem evalBy_eq (k : Part) : evalBy k =
    ((k.moved.filter (fun m => m.ready.isNone)).map (·.seen) ++ (movedRemotes k).map (·.seen)).foldl evalStep none := rfl

/-- A moved context that still waits is evaluated by 500 ticks after it last was. -/
theorem evalBy_le {k : Part} {t : Nat} (h : evalBy k = some t) {m : Moved} (hm : m ∈ k.moved) (hwaits : m.ready = none) :
    t ≤ m.seen + 500 := by
  rw [evalBy_eq] at h
  have hmem : m ∈ k.moved.filter (fun m => m.ready.isNone) := List.mem_filter.mpr ⟨hm, by simp [hwaits]⟩
  exact (evalStep_fold_le h).1 m.seen (List.mem_append_left _ (List.mem_map_of_mem hmem))

/-- What is evaluated in a step, of a core that acts (R263). -/
theorem evaluation_row {p : Pkg} {c : Nat} (now : Nat) (hacts : coreActs p c = true) :
    ((∃ m ∈ (partOf p c).monitors, m ∉ monitorList (partOf p c)) → evalReleased p now c = updCore (evalAll p now c) c countMonitors) ∧
    ((∀ m ∈ (partOf p c).monitors, m ∈ monitorList (partOf p c)) → evalReleased p now c = p) ∧
    (∀ t : Nat, evalBy (partOf p c) = some t →
      (∀ m ∈ (partOf p c).moved, m.ready = none → t ≤ m.seen + 500) ∧
      (t ≤ now → evalDue p now c = evalAll (evalAll p t c) now c) ∧ (now < t → evalDue p now c = p)) := by
  have hall : (coreActs p c = false ∨ (partOf p c).monitors.all (monitorList (partOf p c)).contains = true) ↔
      ∀ m ∈ (partOf p c).monitors, m ∈ monitorList (partOf p c) := by simp [hacts]
  refine ⟨fun ⟨m, hm, hnot⟩ => if_neg (fun h => hnot (hall.mp h m hm)), fun h => if_pos (hall.mpr h), fun t ht => ?due⟩
  have hdue : evalDue p now c = if now < t ∨ coreActs p c = false then p else evalAll (evalAll p t c) now c := by
    simp only [evalDue, ht]
  exact ⟨fun m hm hwaits => evalBy_le ht hm hwaits, fun h => hdue.trans (if_neg (by simp [hacts, h])), fun h => hdue.trans (if_pos (.inl h))⟩

section
variable {x : Slot} {w : Wait} (hw : x.hold = .wait w) (hmet : w.met = false)
include hw hmet

theorem evalMoved_late (p : Pkg) (k : Part) {now : Nat} (h : w.deadline < now) : evalMoved p k now x = (x, true) := by
  simp only [evalMoved, hw, hmet, if_pos h, Bool.false_eq_true, if_false]

/-- Until its deadline a moved wait other than a SLEEP ends by its condition. -/
theorem evalMoved_inTime (p : Pkg) (k : Part) {now : Nat} (h : now ≤ w.deadline) (hkind : ∀ u, w.kind ≠ .sleep u) :
    evalMoved p k now x = if waitHolds k w.kind || roomHolds p w.kind then ({ x with hold := .wait { w with met := true } }, true)
      else (x, decide (w.deadline ≤ now)) := by
  simp only [evalMoved, hw, hmet, if_neg (Nat.not_lt.mpr h), Bool.false_eq_true, if_false]

/-- What an evaluation makes of a moved wait (R263). -/
theorem evalMoved_row (p : Pkg) (k : Part) (now : Nat) :
    (w.deadline < now → (evalMoved p k now x).2 = true) ∧
    (now < w.deadline → (∀ u, w.kind ≠ .sleep u) → waitHolds k w.kind = false → roomHolds p w.kind = false →
      evalMoved p k now x = (x, false)) ∧
    (now ≤ w.deadline → waitHolds k w.kind = true → (∀ u, w.kind ≠ .sleep u) →
      evalMoved p k now x = ({ x with hold := .wait { w with met := true } }, true)) := by
  refine ⟨fun h => by rw [evalMoved_late hw hmet p k h], fun h hkind hnot hroom => ?waits, fun h hholds hkind => ?ends⟩
  case waits =>
    rw [evalMoved_inTime hw hmet p k h.le hkind, hnot, hroom, decide_eq_false (Nat.not_le.mpr h)]
    rfl
  case ends =>
    rw [evalMoved_inTime hw hmet p k h hkind, hholds]
    rfl

end

/-! The reload (R263). -/

theorem contextReload_stays {p : Pkg} {now c i : Nat} {m : Moved} (hm : (partOf p c).moved[i]? = some m)
    (h : m.ready.isNone = true ∨ coreActs p c = false ∨ m.gen ≠ mapGet 0 p.keyGen m.asid) : contextReload p now c i = p := by
  have hm' : (coreOf p c).part.moved[i]? = some m := hm
  simp only [contextReload, hm', if_pos h]

theorem contextReload_loads {p : Pkg} {now c i n : Nat} {m : Moved} (hm : (partOf p c).moved[i]? = some m)
    (h : ¬ (m.ready.isNone = true ∨ coreActs p c = false ∨ m.gen ≠ mapGet 0 p.keyGen m.asid)) (hn : reloadSlot (coreOf p c) m = some n) :
    contextReload p now c i = fixAsk (updPart p c (fun k => reload k now n m)) c := by
  have hm' : (coreOf p c).part.moved[i]? = some m := hm
  simp only [contextReload, hm', if_neg h, hn]

theorem eventTo_contextReload (s : State) (c i : Nat) : eventTo (.contextReload c i) s (contextReload s.pkg s.time c i) := rfl

/-- What CONTEXT_RELOAD makes of a moved context (R263, R304). -/
theorem contextReload_row {s : State} {c i : Nat} {m : Moved} (hm : (partOf s.pkg c).moved[i]? = some m) (hacts : acting s c) :
    (m.ready = none → eventTo (.contextReload c i) s s.pkg) ∧
    (m.gen ≠ mapGet 0 s.pkg.keyGen m.asid → eventTo (.contextReload c i) s s.pkg) ∧
    (∀ t n : Nat, m.gen = mapGet 0 s.pkg.keyGen m.asid → m.ready = some t → reloadSlot (coreOf s.pkg c) m = some n →
      eventTo (.contextReload c i) s (fixAsk (updPart s.pkg c (fun k => reload k s.time n m)) c)) ∧
    (∀ n : Nat, (reload (partOf s.pkg c) s.time n m).moved = (partOf s.pkg c).moved.filter (fun x => decide (x.sl.ctx ≠ m.sl.ctx)) ∧
      (reload (partOf s.pkg c) s.time n m).scr = (partOf s.pkg c).scr) := by
  have hevent := eventTo_contextReload s c i
  refine ⟨fun hwaits => eventTo_congr (contextReload_stays hm (.inl (by rw [hwaits]; rfl))) hevent,
    fun hkey => eventTo_congr (contextReload_stays hm (.inr (.inr hkey))) hevent, fun t n hkey hready hn => ?loads, fun n => ⟨rfl, rfl⟩⟩
  refine eventTo_congr (contextReload_loads hm ?_ hn) hevent
  simp [hready, coreActs_of_acting hacts, hkey]

/-! A context makes room (R263). -/

/-- A moved context has been ready for 2,000 ticks and has no slot. -/
def starves (k : Core) (now : Nat) (m : Moved) : Prop := reloadSlot k m = none ∧ ∃ t, m.ready = some t ∧ t + 2000 ≤ now

/-- The longest loaded context leaves its slot, ready again at once. -/
def makesRoom (p : Pkg) (now c n : Nat) : Pkg :=
  let k1 := moveOut (partOf p c) now n (mapGet 0 p.keyGen (asidOf (partOf p c)))
  fixAsk (setPart (dropWalks p c n) c { k1 with moved := k1.moved.map (fun x =>
    if x.sl.ctx = (slotOf (partOf p c) n).ctx then { x with ready := some now } else x) }) c

theorem any_starves_iff (k : Core) (now : Nat) (l : List Moved) : (l.any (fun m => (reloadSlot k m).isNone && (match m.ready with
    | some t => decide (t + 2000 ≤ now)
    | none => false))) = true ↔ ∃ m ∈ l, starves k now m := by
  rw [List.any_eq_true]
  refine exists_congr (fun m => and_congr_right (fun _ => ?_))
  cases hready : m.ready <;> simp [starves, hready]

theorem starvationMove_none {p : Pkg} {now c : Nat} (h : ∀ m ∈ (partOf p c).moved, ¬ starves (coreOf p c) now m) :
    starvationMove p now c = p := by
  refine if_pos (Or.inl (Bool.eq_false_iff.mpr (fun hany => ?_)))
  obtain ⟨m, hm, hstarves⟩ := (any_starves_iff _ _ _).mp hany
  exact h m hm hstarves

theorem starvationMove_moves {p : Pkg} {now c n : Nat} {m : Moved} (hm : m ∈ (partOf p c).moved) (h : starves (coreOf p c) now m)
    (hacts : coreActs p c = true) (hn : longestLoaded (partOf p c) = some n) : starvationMove p now c = makesRoom p now c n := by
  have hany := (any_starves_iff (coreOf p c) now (coreOf p c).part.moved).mpr ⟨m, hm, h⟩
  have hn' : longestLoaded (coreOf p c).part = some n := hn
  refine (if_neg (fun hstays => ?_)).trans ?_
  · obtain hnone | hstopped := hstays
    · exact absurd hany (Bool.eq_false_iff.mp hnone)
    · exact absurd hacts (Bool.eq_false_iff.mp hstopped)
  · simp only [hn']
    rfl

theorem eventTo_reloadStarvationMove (s : State) (c : Nat) : eventTo (.reloadStarvationMove c) s (starvationMove s.pkg s.time c) := rfl

end Sys2Proof.Machine

open Sys2Proof.Claims Sys2Proof.Machine

/-- Settles O41: an open wait by its deadline and its time; a moved one by its evaluation, which is due at a released monitor and 500
ticks after the last; a reload by its key, its readiness and a slot, for which one loaded longest may make room. -/
theorem waitEvents : Obligations.WaitEvents := by
  unfold Obligations.WaitEvents
  refine ⟨fun s c n w hopen hacts => waitDeadlineExpiry_row hopen hacts,
    fun s c n u w hopen hkind hacts => sleepTimeElapsed_row hopen hkind hacts,
    fun s c i m hm hacts => eventTo_movedWaitEvaluation hm hacts,
    fun p now c hacts => evaluation_row now hacts,
    fun p k now x w hw hmet => evalMoved_row hw hmet p k now,
    fun s c i m hm hacts => contextReload_row hm hacts,
    fun s c hacts => ⟨fun hnone => ?stays, fun m t n hm hready hdue hslot hn => ?moves⟩⟩
  case stays =>
    refine eventTo_congr (starvationMove_none (fun m hm ⟨_, t, hready, hdue⟩ => ?_)) (eventTo_reloadStarvationMove s c)
    exact absurd hdue (Nat.not_le.mpr (hnone m hm t hready))
  case moves =>
    exact eventTo_congr (starvationMove_moves hm ⟨hslot, t, hready, hdue⟩ (coreActs_of_acting hacts) hn)
      (eventTo_reloadStarvationMove s c)
end

section
/-!
The distributor (R257, R258): asks, selection, binding and ageing of task records; the end of a team (R250, R43).
-/
namespace Sys2Proof.Machine
open Sys2Proof.Claims

/-! Asks and selection (R257). -/

/-- A core that has asked for nothing and been given nothing asks for work for its lowest idle helper slot. -/
theorem taskAsk_asks {p : Pkg} {c : Nat} (hask : (coreOf p c).ask = none) (hsel : (coreOf p c).sel = none)
    (hup : (coreOf p c).fenced = none) (hruns : (coreOf p c).switching = false) :
    taskAsk p c = updCore p c (fun x => { x with ask := lowestIdle x }) :=
  congrArg (setCore p c) (if_neg (by simp [hask, hsel, hup, hruns]))

theorem eventTo_taskAsk (s : State) (c : Nat) : eventTo (.taskAsk c) s (taskAsk s.pkg c) := rfl

theorem taskSelect_served {p : Pkg} {c slot prio i : Nat} {r : QRec} (now : Nat) (hnext : nextAsk p (clusterNo c) = some c)
    (hserved : askServed p c = some (slot, prio, i, r)) :
    let p1 := setQueue p (clusterNo c) prio ((queueOf p (clusterNo c) prio).eraseIdx i)
    let p2 := updCore p1 c (fun x => { x with ask := none, sel := some ⟨r.task, slot, prio, r.since⟩ })
    taskSelect p now c = latchRoom (setCluster p2 (clusterNo c)
      { clusterOf p2 (clusterNo c) with rot := (c % 256 + 1) % 256 }) now := by
  simp only [taskSelect, if_pos hnext, hserved]

theorem taskSelect_other {p : Pkg} {c : Nat} (now : Nat) (h : nextAsk p (clusterNo c) ≠ some c) : taskSelect p now c = p := if_neg h

theorem eventTo_taskSelect (s : State) (c : Nat) : eventTo (.taskSelect c) s (taskSelect s.pkg s.time c) := rfl

/-- A record that an ask of an ASID may be given. -/
def wanted (asid : Nat) (r : QRec) : Bool := decide (recAsid r.task = asid) && !recLaunch r.task

theorem wanted_iff {asid : Nat} {r : QRec} : wanted asid r = true ↔ recAsid r.task = asid ∧ recLaunch r.task = false := by
  simp [wanted]

theorem not_wanted {asid : Nat} {r : QRec} (h : wanted asid r = false) (hasid : recAsid r.task = asid) : recLaunch r.task = true := by
  simpa [wanted, hasid] using h

/-- The oldest wanted record of a queue, with its place. -/
def oldestWanted (asid : Nat) (q : List QRec) : Option (QRec × Nat) := q.zipIdx.find? (fun x => wanted asid x.1)

theorem oldestWanted_some {asid i : Nat} {r : QRec} {q : List QRec} (h : oldestWanted asid q = some (r, i)) :
    q[i]? = some r ∧ wanted asid r = true ∧ ∀ (j : Nat) (x : QRec), j < i → q[j]? = some x → wanted asid x = false := by
  obtain ⟨hwanted, n, hn, hat, hbefore⟩ := List.find?_eq_some_iff_getElem.mp h
  rw [List.getElem_zipIdx, Prod.mk.injEq, Nat.zero_add] at hat
  obtain ⟨rfl, rfl⟩ := hat
  refine ⟨List.getElem?_eq_getElem _, hwanted, fun j x hj hx => ?_⟩
  obtain ⟨hlen, rfl⟩ := List.getElem?_eq_some_iff.mp hx
  have hnot := hbefore j hj
  rwa [List.getElem_zipIdx, Bool.not_eq_true'] at hnot

theorem oldestWanted_none {asid : Nat} {q : List QRec} (h : oldestWanted asid q = none) {r : QRec} (hr : r ∈ q) :
    wanted asid r = false := by
  obtain ⟨i, hi, rfl⟩ := List.getElem_of_mem hr
  have hmem : (q[i], i) ∈ q.zipIdx := List.mem_zipIdx_iff_getElem?.mpr (List.getElem?_eq_getElem hi)
  have hnot := List.find?_eq_none.mp h _ hmem
  rwa [Bool.not_eq_true] at hnot

theorem bestRecord_eq (p : Pkg) (cl asid : Nat) : bestRecord p cl asid = [7, 6, 5, 4, 3, 2, 1, 0].findSome? (fun prio =>
    (oldestWanted asid (queueOf p cl prio)).map (fun x => (prio, x.2, x.1))) := rfl

/-- A best record stands in its queue, and no queue of a higher priority has a wanted one. -/
theorem bestRecord_some {p : Pkg} {cl asid prio i : Nat} {r : QRec} (h : bestRecord p cl asid = some (prio, i, r)) :
    oldestWanted asid (queueOf p cl prio) = some (r, i) ∧
      ∀ m, prio < m → m < 8 → oldestWanted asid (queueOf p cl m) = none := by
  rw [bestRecord_eq] at h
  obtain ⟨higher, q, lower, hlist, hq, hnone⟩ := List.findSome?_eq_some_iff.mp h
  obtain ⟨⟨r', i'⟩, hfound, heq⟩ := Option.map_eq_some_iff.mp hq
  simp only [Prod.mk.injEq] at heq
  obtain ⟨rfl, rfl, rfl⟩ := heq
  refine ⟨hfound, fun m hm hm8 => ?_⟩
  have hmem : m ∈ higher ++ q :: lower := hlist ▸ by interval_cases m <;> decide
  have hsorted : (higher ++ q :: lower).Pairwise (· > ·) := hlist ▸ by decide
  obtain hm' | hm' := List.mem_append.mp hmem
  · exact Option.map_eq_none_iff.mp (hnone m hm')
  · obtain rfl | hlow := List.mem_cons.mp hm'
    · exact absurd hm (lt_irrefl _)
    · exact absurd hm (Nat.lt_asymm ((List.pairwise_cons.mp (List.pairwise_append.mp hsorted).2.1).1 m hlow))

/-! Binding (R252, R258). -/

theorem taskBind_binds {p : Pkg} {c : Nat} {r : Selected} {t : Team} (now : Nat) (hsel : (coreOf p c).sel = some r)
    (hteam : (coreOf p c).part.team = some t) (hup : (coreOf p c).fenced = none) : taskBind p now c = taskAsk (updCore p c (fun x =>
      { x with sel := none, part := loadContext x.part r.slot (taskSlot t r.prio r.task now) })) c := by
  have hup' : ¬ (coreOf p c).fenced.isSome = true := by simp [hup]
  simp only [taskBind, hsel, hteam, if_neg hup']

theorem eventTo_taskBind (s : State) (c : Nat) : eventTo (.taskBind c) s (taskBind s.pkg s.time c) := rfl

section
variable (t : Team) (prio now : Nat) (r : BitVec 256)

/-- The registers of a task that starts: the two arguments of its record. -/
theorem sregs_taskSlot : (taskSlot t prio r now).sregs =
    (setSreg (setSreg slotReset 1 (BitVec.ofNat 64 (fld r 128 64))) 2 (BitVec.ofNat 64 (fld r 192 64))).sregs := rfl

theorem sregOf_taskSlot (n : Nat) : sregOf (taskSlot t prio r now) n =
    sregOf (setSreg (setSreg slotReset 1 (BitVec.ofNat 64 (fld r 128 64))) 2 (BitVec.ofNat 64 (fld r 192 64))) n :=
  congrArg (fun m => mapGet 0 m n) (sregs_taskSlot t prio now r)

theorem sregOf_taskSlot_other {n : Nat} (h1 : n ≠ 1) (h2 : n ≠ 2) : sregOf (taskSlot t prio r now) n = 0 := by
  rw [sregOf_taskSlot, sregOf_setSreg_other _ _ h2, sregOf_setSreg_other _ _ h1]
  rfl

theorem sregOf_taskSlot_one : sregOf (taskSlot t prio r now) 1 = BitVec.ofNat 64 (fld r 128 64) := by
  have h0 : mapSorted 0 slotReset.sregs = true := rfl
  rw [sregOf_taskSlot, sregOf_setSreg_other _ _ (by decide), sregOf_setSreg_self h0]

theorem sregOf_taskSlot_two : sregOf (taskSlot t prio r now) 2 = BitVec.ofNat 64 (fld r 192 64) := by
  have h0 : mapSorted 0 slotReset.sregs = true := rfl
  rw [sregOf_taskSlot, sregOf_setSreg_self (mapSorted_setSreg h0 _ _)]

end

/-! Ageing (R257). -/

theorem taskAgeing_record {p : Pkg} {now cl prio i : Nat} {r : QRec} (h : (queueOf p cl prio)[i]? = some r) :
    taskAgeing p now cl prio i = if bit r.task 5 = false ∨ now < r.since + 64000 then p
      else if 7 ≤ prio ∨ queueFull p cl (prio + 1) then
        setQueue p cl prio ((queueOf p cl prio).set i { r with since := now })
      else latchRoom (setQueue (setQueue p cl prio ((queueOf p cl prio).eraseIdx i)) cl (prio + 1)
        (queueOf p cl (prio + 1) ++ [{ r with since := now }])) now := by
  simp only [taskAgeing, h]

theorem eventTo_taskAgeing (s : State) (cl prio i : Nat) :
    eventTo (.taskAgeing cl prio i) s (taskAgeing s.pkg s.time cl prio i) := rfl

/-- What TASK_AGEING makes of a record in its queue (R257). -/
theorem taskAgeing_row {s : State} {cl prio i : Nat} {r : QRec} (h : (queueOf s.pkg cl prio)[i]? = some r) :
    ((bit r.task 5 = false ∨ s.time < r.since + 64000) → eventTo (.taskAgeing cl prio i) s s.pkg) ∧
    (bit r.task 5 = true → r.since + 64000 ≤ s.time → (7 ≤ prio ∨ queueFull s.pkg cl (prio + 1) = true) →
      eventTo (.taskAgeing cl prio i) s (setQueue s.pkg cl prio ((queueOf s.pkg cl prio).set i { r with since := s.time }))) ∧
    (bit r.task 5 = true → r.since + 64000 ≤ s.time → prio < 7 → queueFull s.pkg cl (prio + 1) = false →
      eventTo (.taskAgeing cl prio i) s (latchRoom (setQueue (setQueue s.pkg cl prio ((queueOf s.pkg cl prio).eraseIdx i))
        cl (prio + 1) (queueOf s.pkg cl (prio + 1) ++ [{ r with since := s.time }])) s.time)) := by
  have hage := taskAgeing_record (now := s.time) h
  have hevent := eventTo_taskAgeing s cl prio i
  have hdue (hbit : bit r.task 5 = true) (hold : r.since + 64000 ≤ s.time) : ¬ (bit r.task 5 = false ∨ s.time < r.since + 64000) := by
    simp [hbit, hold]
  exact ⟨fun hyoung => eventTo_congr (hage.trans (if_pos hyoung)) hevent,
    fun hbit hold hstays => eventTo_congr (hage.trans ((if_neg (hdue hbit hold)).trans (if_pos hstays))) hevent,
    fun hbit hold hprio hroom => eventTo_congr (hage.trans ((if_neg (hdue hbit hold)).trans (if_neg (by simp [hprio, hroom])))) hevent⟩

/-! The end of a team (R250, R43). -/

theorem teamDone_iff (p : Pkg) (c : Nat) : teamDone p c = true ↔ (∀ e ∈ (partOf p c).slots, e.2.live = true → e.2.kind = .errand) ∧
    (partOf p c).moved = [] ∧ (coreOf p c).sel = none ∧ (∀ prio < 8, ∀ r ∈ queueOf p (clusterNo c) prio,
      recLaunch r.task = true ∨ recAsid r.task ≠ asidOf (partOf p c)) := by
  have hslot (x : Slot) : (!x.live || decide (x.kind = .errand)) = true ↔ (x.live = true → x.kind = .errand) := by
    cases x.live <;> simp
  simp only [teamDone, Bool.and_eq_true, List.all_eq_true, hslot, decide_eq_true_eq, Option.isNone_iff_eq_none, List.mem_range,
    Bool.or_eq_true, and_assoc, partOf]

/-- The package once a team has left its core: its journal, its errands and its ask are gone, and its group has counted it. -/
def teamGone (p : Pkg) (now c : Nat) (t : Team) : Pkg :=
  let p1 := reportPending (refuseWaiting p c) now c
  let p2 := updCore p1 c (fun x => { x with prevAsid := some t.asid, ask := none, part := { x.part with
    team := none, past := (if runningHandlers x.part = [] then none else some t), errands := [],
    journal := x.part.journal.filter (fun e => !(decide (e.2.team = t.no % 256) && decide (e.2.asid = t.asid) &&
      !(runningHandlers x.part).any (fun h => decide (h.2.ctx = e.2.ctx)))) } })
  { p2 with groups := p2.groups.map (fun g =>
    if g.asid = t.asid ∧ g.gtag = t.gtag ∧ t.gtag ≠ 0 then { g with ended := g.ended ++ [c] } else g) }

theorem teamEnd_stays {p : Pkg} {c : Nat} {t : Team} (now : Nat) (hteam : (partOf p c).team = some t)
    (h : t.started = false ∨ teamDone p c = false ∨ (coreOf p c).switching = true ∨ (coreOf p c).fenced.isSome = true) :
    teamEnd p now c = p := by
  simp only [teamEnd, hteam, if_pos h]

theorem teamEnd_ends {p : Pkg} {c : Nat} {t : Team} (now : Nat) (hteam : (partOf p c).team = some t)
    (h : ¬ (t.started = false ∨ teamDone p c = false ∨ (coreOf p c).switching = true ∨ (coreOf p c).fenced.isSome = true)) :
    teamEnd p now c = completionWord (reportFaults ((groupMembers (teamGone p now c t) c t).foldl (fun q m => barrierCheckAll q now m)
      (teamGone p now c t)) now c t) now c t.asid t.done t.dvec t.den t.sup 1 := by
  simp only [teamEnd, hteam, if_neg h]
  rfl

theorem eventTo_teamEnd (s : State) (c : Nat) : eventTo (.teamEnd c) s (teamEnd s.pkg s.time c) := rfl

theorem not_acting_iff {s : State} {c : Nat} :
    ¬ acting s c ↔ (coreOf s.pkg c).switching = true ∨ (coreOf s.pkg c).fenced.isSome = true := by
  rw [acting, not_and_or, Bool.not_eq_false, Option.isSome_iff_ne_none, or_comm]

/-- What TEAM_END makes of a core that has a team (R250, R43). -/
theorem teamEnd_row {s : State} {c : Nat} {t : Team} (hteam : (partOf s.pkg c).team = some t) :
    ((t.started = false ∨ teamDone s.pkg c = false ∨ ¬ acting s c) → eventTo (.teamEnd c) s s.pkg) ∧
    (t.started = true → teamDone s.pkg c = true → acting s c → eventTo (.teamEnd c) s
      (completionWord (reportFaults ((groupMembers (teamGone s.pkg s.time c t) c t).foldl (fun q m => barrierCheckAll q s.time m)
        (teamGone s.pkg s.time c t)) s.time c t) s.time c t.asid t.done t.dvec t.den t.sup 1)) := by
  have hevent := eventTo_teamEnd s c
  rw [not_acting_iff]
  refine ⟨fun h => eventTo_congr (teamEnd_stays s.time hteam h) hevent, fun hstarted hdone hacts => ?_⟩
  refine eventTo_congr (teamEnd_ends s.time hteam ?_) hevent
  rw [← not_acting_iff]
  simp [hstarted, hdone, hacts]

end Sys2Proof.Machine

open Sys2Proof.Claims Sys2Proof.Machine

/-- Settles O39: an ask by what the core has asked and been given, the record by its queue and its place, the task by the fields of its
record, ageing by its record's age; a team's end by what is left of it. -/
theorem taskEvents : Obligations.TaskEvents := by
  unfold Obligations.TaskEvents
  refine ⟨fun s c hask hsel ⟨hup, hruns⟩ => eventTo_congr (taskAsk_asks hask hsel hup hruns) (eventTo_taskAsk s c),
    fun s c slot prio i r hnext hserved => eventTo_congr (taskSelect_served s.time hnext hserved) (eventTo_taskSelect s c),
    fun s c hnext => eventTo_congr (taskSelect_other s.time hnext) (eventTo_taskSelect s c),
    fun p cl asid prio i r hbest => ?best,
    fun s c r t hsel hteam hup => eventTo_congr (taskBind_binds s.time hsel hteam hup) (eventTo_taskBind s c),
    fun p c hask hsel ⟨hup, hruns⟩ => taskAsk_asks hask hsel hup hruns,
    fun t prio now r => ⟨rfl, fun n h1 h2 => sregOf_taskSlot_other t prio now r h1 h2, sregOf_taskSlot_one t prio now r,
      sregOf_taskSlot_two t prio now r, rfl, rfl, rfl⟩,
    fun s cl prio i r h => taskAgeing_row h,
    fun s c t hteam => ⟨(teamEnd_row hteam).1, (teamEnd_row hteam).2, teamDone_iff s.pkg c⟩⟩
  obtain ⟨hfound, hhigher⟩ := bestRecord_some hbest
  obtain ⟨hat, hwanted, hbefore⟩ := oldestWanted_some hfound
  obtain ⟨hasid, hlaunch⟩ := wanted_iff.mp hwanted
  exact ⟨hat, hasid, hlaunch, fun j x hj hx => not_wanted (hbefore j x hj hx),
    fun m hm hm8 x hx => not_wanted (oldestWanted_none (hhigher m hm hm8) hx)⟩
end

section
/-!
Gang switches (R274 to R276): a core stops, its partition is saved and leaves it bare, a resume brings it back; %GSWCTL.
-/
namespace Sys2Proof.Machine
open Sys2Proof.Claims

/-! The switch out (R275). -/

theorem bit_setFld_apart {n : Nat} (x : BitVec n) {lo len i : Nat} (hi : i < n) (hlo : i < lo ∨ lo + len ≤ i) (v : Nat) :
    bit (setFld x lo len v) i = bit x i := by
  rw [bit_eq_getLsbD, bit_eq_getLsbD, getLsbD_setFld x lo len v hi, if_neg (by omega)]

/-- Withdraws the waits of core `c`, as they stood in `p`, at one home. -/
def recallFrom (p : Pkg) (c : Nat) (q : Pkg) (h : Nat) : Pkg :=
  let q1 := updPart q h (fun k => { k with waiters := k.waiters.filter (fun w => !elsewhere p c w) })
  { q1 with net := ((partOf q h).waiters.filter (elsewhere p c)).map (requestOf h) ++ q1.net }

theorem recallWaits_eq (p : Pkg) (c : Nat) : recallWaits p c = (outsideHomes p c).foldl (recallFrom p c) p := rfl

theorem coreOf_recallFrom (p : Pkg) {c d h : Nat} (hd : d ≠ h) (q : Pkg) : coreOf (recallFrom p c q h) d = coreOf q d :=
  mapGet_put_other coreReset q.cores _ hd

theorem coreOf_recallFold (p : Pkg) (c : Nat) {l : List Nat} {d : Nat} (hd : d ∉ l) (q : Pkg) :
    coreOf (l.foldl (recallFrom p c) q) d = coreOf q d := by
  induction l generalizing q with
  | nil => rfl
  | cons h l ih =>
    rw [List.mem_cons, not_or] at hd
    exact (ih hd.2 _).trans (coreOf_recallFrom p hd.1 q)

/-- A core is not among the homes outside its own partition. -/
theorem coreOf_recallWaits (p : Pkg) (c : Nat) : coreOf (recallWaits p c) c = coreOf p c :=
  coreOf_recallFold p c (by simp [outsideHomes]) p

/-- A core as it stops selection. -/
def stoppedCore (x : Core) (now : Nat) : Core := { x with
  switching := true, switchTick := now, ask := none, gswctl := setFld x.gswctl 62 1 0,
  part := { x.part with matq := x.part.matq.map (fun m => { m with running := false, lines := [] }) } }

theorem switchOut_stays {p : Pkg} {now c : Nat} (h : gswArm (coreOf p c) = false ∨ now < (coreOf p c).gswtime.toNat) :
    switchOut p now c = p := if_pos (h.imp_right .inl)

theorem coreOf_switchOut {p : Pkg} {now c : Nat} (harm : gswArm (coreOf p c) = true) (hdue : (coreOf p c).gswtime.toNat ≤ now)
    (hup : (coreOf p c).fenced = none) (hruns : (coreOf p c).switching = false) :
    coreOf (switchOut p now c) c = stoppedCore (coreOf p c) now := by
  have hgoes : ¬ (gswArm (coreOf p c) = false ∨ now < (coreOf p c).gswtime.toNat ∨ (coreOf p c).switching = true ∨
      (coreOf p c).fenced.isSome = true) := by simp [harm, hdue, hup, hruns]
  have hne (x : Core) : stoppedCore x now ≠ coreReset := fun h => Bool.noConfusion (congrArg Core.switching h)
  rw [switchOut, if_neg hgoes, ← coreOf_recallWaits p c]
  exact coreOf_setCore_self _ c (hne _)

theorem eventTo_gangSwitchOut (s : State) (c : Nat) : eventTo (.gangSwitchOut c) s (switchOut s.pkg s.time c) := rfl

/-! The image (R275). -/

theorem switchSaved_running {p : Pkg} (now : Nat) {c : Nat} (h : (coreOf p c).switching = false) : switchSaved p now c = p := if_pos (.inl h)

/-- The image of a stopped core's partition. -/
def savedImage (q : Pkg) (c now : Nat) : Saved :=
  let x := coreOf q c
  { core := c, part := savedPart x.part x.switchTick, asid := asidOf x.part, gen := mapGet 0 q.keyGen (asidOf x.part), tick := now }

/-- The package with the image in its area and the core bare. -/
def imageWritten (q : Pkg) (c now : Nat) : Pkg :=
  let cl := clusterOf q (clusterNo c)
  let r := setCluster q (clusterNo c) { cl with walks := cl.walks.filter (fun w => decide (w.core ≠ c)) }
  updCore { r with saves := mapInsert r.saves (gswArea (coreOf q c)) (savedImage q c now) } c (fun y => { y with
    switching := false
    part := leftBehind y.part
    prevAsid := some (asidOf (coreOf q c).part)
    gswctl := setFld (setFld y.gswctl 62 1 1) 63 1 0 })

theorem switchSaved_writes {s : State} {c : Nat} {q : Pkg} (h : switchReady s c q) : switchSaved s.pkg s.time c = imageWritten q c s.time := by
  obtain ⟨hstopped, hup, q0, hcopies, hquiet0, hreleases, hquiet⟩ := h
  have hgoes : ¬ ((coreOf s.pkg c).switching = false ∨ (coreOf s.pkg c).fenced.isSome = true) := by simp [hstopped, hup]
  have hdone : ¬ (true = false ∨ switchQuiet q c = false) := by simp [hquiet]
  rw [switchSaved, if_neg hgoes]
  simp only [hcopies, hquiet0, hreleases, Bool.and_self, if_true, if_neg hdone]
  rfl

theorem eventTo_gangSwitchSaved (s : State) (c : Nat) : eventTo (.gangSwitchSaved c) s (switchSaved s.pkg s.time c) := rfl

/-! What is left behind. -/

section
variable {β : Type}

theorem mapFind_map_values {γ : Type} (g : β → γ) (m : SMap β) (n : Nat) :
    mapFind (m.map (fun e => (e.1, g e.2))) n = (mapFind m n).map g := by
  induction m with
  | nil => rfl
  | cons e m ih =>
    rw [List.map_cons, mapFind_cons, ih, mapFind, apply_ite (Option.map g)]
    rfl

theorem mapSorted_map_values {γ : Type} (g : β → γ) {m : SMap β} {lo : Nat} (h : mapSorted lo m = true) :
    mapSorted lo (m.map (fun e => (e.1, g e.2))) = true := by
  induction m generalizing lo with
  | nil => rfl
  | cons e m ih =>
    rw [mapSorted, Bool.and_eq_true] at h
    rw [List.map_cons, mapSorted, h.1, ih h.2]
    rfl

/-- A sorted map reads the same without the entries that say what an unlisted key reads as. -/
theorem mapGet_filter_ne [DecidableEq β] (d : β) {m : SMap β} {lo : Nat} (h : mapSorted lo m = true) (n : Nat) :
    mapGet d (m.filter (fun e => decide (e.2 ≠ d))) n = mapGet d m n := by
  induction m generalizing lo with
  | nil => rfl
  | cons e m ih =>
    obtain ⟨k, v⟩ := e
    rw [mapSorted, Bool.and_eq_true] at h
    have hrest := ih h.2
    by_cases hv : v = d
    · rw [List.filter_cons_of_neg (by simp [hv]), hrest, mapGet, mapGet, mapFind_cons]
      split
      case isTrue hk => rw [mapFind_of_sorted_lt h.2 (by omega), hv]; rfl
      case isFalse => rfl
    · rw [List.filter_cons_of_pos (by simp [hv]), mapGet, mapGet, mapFind_cons, mapFind_cons]
      split
      case isTrue => rfl
      case isFalse => exact hrest

end

/-- A slot with nothing in it but the cycle from which it may issue again (R4). -/
def bareSlot (x : Slot) : Slot := { slotReset with readyAt := x.readyAt }

theorem slotOf_leftBehind {k : Part} (h : mapSorted 0 k.slots = true) (n : Nat) :
    slotOf (leftBehind k) n = { slotReset with readyAt := (slotOf k n).readyAt } := by
  have hslots : (leftBehind k).slots = (k.slots.map (fun e => (e.1, bareSlot e.2))).filter (fun e => decide (e.2 ≠ slotReset)) := rfl
  rw [slotOf, hslots, mapGet_filter_ne slotReset (mapSorted_map_values bareSlot h), mapGet, mapFind_map_values, slotOf, mapGet]
  cases mapFind k.slots n <;> rfl

/-! The resume (R276). -/

theorem switchResume_stays {p : Pkg} {now c : Nat} (h : gswResume (coreOf p c) = false ∨ now < (coreOf p c).gswtime.toNat ∨
    (partOf p c).team ≠ none) : switchResume p now c = p :=
  if_pos (h.imp_right (Or.imp_right (fun hteam => .inl (Option.isSome_iff_ne_none.mpr hteam))))

/-- The package with an image that is read back: the requests of its waits elsewhere are made again, its deadlines count on. -/
def imageRead (s : State) (c : Nat) (q : Pkg) (sv : Saved) : Pkg :=
  let later := fun (d : Nat) => if d = 0 then 0 else d + s.time
  let r : Pkg := { q with
    saves := mapErase q.saves (gswArea (coreOf s.pkg c))
    net := q.net.map (shiftMsg c sv.asid later)
    parked := q.parked.map (shiftMsg c sv.asid later) }
  barrierCheckAll (updPart r c (fun k => resumedPart sv.part k s.time)) s.time c

/-- A resume that is due finds an image, whose key stands or has been destroyed (R304). -/
theorem switchResume_image {s : State} {c : Nat} {q : Pkg} {sv : Saved} (h : resumeDue s c q)
    (hsv : mapFind s.pkg.saves (gswArea (coreOf s.pkg c)) = some sv) : switchResume s.pkg s.time c =
      if mapGet 0 s.pkg.keyGen sv.asid ≠ sv.gen then { q with
        saves := mapErase q.saves (gswArea (coreOf s.pkg c))
        lostResumes := q.lostResumes ++ [(c, gswArea (coreOf s.pkg c))] }
      else imageRead s c q sv := by
  obtain ⟨hresume, hdue, hteam, ⟨hup, hruns⟩, rfl⟩ := h
  have hteam' : (coreOf s.pkg c).part.team = none := hteam
  have hgoes : ¬ (gswResume (coreOf s.pkg c) = false ∨ s.time < (coreOf s.pkg c).gswtime.toNat ∨
      (coreOf s.pkg c).part.team.isSome = true ∨ (coreOf s.pkg c).switching = true ∨ (coreOf s.pkg c).fenced.isSome = true) := by
    simp [hresume, hdue, hteam', hup, hruns]
  rw [switchResume, if_neg hgoes]
  simp only [hsv]
  rfl

theorem eventTo_gangSwitchResume (s : State) (c : Nat) : eventTo (.gangSwitchResume c) s (switchResume s.pkg s.time c) := rfl

/-! %GSWCTL (R274). -/

theorem fld_setFld_apart {n : Nat} (x : BitVec n) {lo len lo' len' : Nat} (h : lo' + len' ≤ n) (hlo : lo' + len' ≤ lo ∨ lo + len ≤ lo')
    (v : Nat) : fld (setFld x lo len v) lo' len' = fld x lo' len' := by
  refine Nat.eq_of_testBit_eq (fun i => ?_)
  rw [testBit_fld, testBit_fld]
  by_cases hi : i < len'
  · rw [getLsbD_setFld x lo len v (by omega), if_neg (by omega)]
  · rw [decide_eq_false hi, Bool.false_and, Bool.false_and]

theorem bit_setFld_b2n {n : Nat} (x : BitVec n) {i : Nat} (hi : i < n) (v : Bool) : bit (setFld x i 1 (b2n v)) i = v := by
  rw [bit_eq_getLsbD, getLsbD_setFld x i 1 _ hi, if_pos (by omega), Nat.sub_self]
  cases v <;> rfl

/-- What a write of `b` makes of %GSWCTL, which was `old`. -/
def gswValue (old b : Word) : Word := setFld (setFld (setFld b 52 9 0) 0 12 0) 62 1 (b2n (bit old 62))

theorem gswWritten_gswValue (s : State) (c : Nat) (b : Word) : gswWritten s c b (gswValue (coreOf s.pkg c).gswctl b) := by
  have hfld (lo len : Nat) (h : lo + len ≤ 62) : fld (gswValue (coreOf s.pkg c).gswctl b) lo len = fld (setFld (setFld b 52 9 0) 0 12 0) lo len :=
    fld_setFld_apart _ (by omega) (.inl h) _
  have hbit (i : Nat) (hi : i < 64) (h61 : 61 ≤ i) (h62 : i ≠ 62) : bit (gswValue (coreOf s.pkg c).gswctl b) i = bit b i := by
    rw [gswValue, bit_setFld_apart _ hi (by omega), bit_setFld_apart _ hi (by omega), bit_setFld_apart _ hi (by omega)]
  refine ⟨bit_setFld_b2n _ (by decide) _, ?_, ?_, ?_, hbit 61 (by decide) (by decide) (by decide),
    hbit 63 (by decide) (by decide) (by decide)⟩
  · rw [hfld 0 12 (by decide), fld_setFld_same _ (by decide)]
    rfl
  · rw [hfld 52 9 (by decide), fld_setFld_apart _ (by decide) (by decide), fld_setFld_same _ (by decide)]
    rfl
  · rw [hfld 12 40 (by decide), fld_setFld_apart _ (by decide) (by decide), fld_setFld_apart _ (by decide) (by decide)]

theorem writeGswctl_fits {p : Pkg} (now c : Nat) {b : Word} (h : fld b 12 40 * 4096 + 320 * 1024 ≤ 0x6000000000) :
    writeGswctl p now c b = updCore p c (fun x => { x with gswctl := gswValue (coreOf p c).gswctl b }) := by
  have hfits : areaOk (fld b 12 40 * 4096) (320 * 1024) = true := decide_eq_true h
  rw [writeGswctl, if_pos hfits, updCore, updCore, gswValue]

theorem eventTo_gswctlArm (s : State) (c : Nat) (b : Word) :
    eventTo (.gswctlArm c b) s (if bit b 63 then writeGswctl s.pkg s.time c b else s.pkg) := rfl

theorem eventTo_gswctlResume (s : State) (c : Nat) (b : Word) :
    eventTo (.gswctlResume c b) s (if bit b 61 then writeGswctl s.pkg s.time c b else s.pkg) := rfl

/-- What the writes of %GSWCTL come to (R274). -/
theorem gswctl_row (s : State) (c : Nat) (b : Word) :
    (bit b 63 = false → eventTo (.gswctlArm c b) s s.pkg) ∧ (bit b 61 = false → eventTo (.gswctlResume c b) s s.pkg) ∧
    (fld b 12 40 * 4096 + 320 * 1024 ≤ 0x6000000000 → ∃ v : Word, gswWritten s c b v ∧
      (bit b 63 = true → eventTo (.gswctlArm c b) s (updCore s.pkg c (fun x => { x with gswctl := v }))) ∧
      (bit b 61 = true → eventTo (.gswctlResume c b) s (updCore s.pkg c (fun x => { x with gswctl := v })))) := by
  have harm := eventTo_gswctlArm s c b
  have hresume := eventTo_gswctlResume s c b
  refine ⟨fun h => eventTo_congr (if_neg (Bool.eq_false_iff.mp h)) harm, fun h => eventTo_congr (if_neg (Bool.eq_false_iff.mp h)) hresume,
    fun hfits => ⟨gswValue (coreOf s.pkg c).gswctl b, gswWritten_gswValue s c b, fun h => ?arm, fun h => ?resume⟩⟩
  case arm => exact eventTo_congr ((if_pos h).trans (writeGswctl_fits s.time c hfits)) harm
  case resume => exact eventTo_congr ((if_pos h).trans (writeGswctl_fits s.time c hfits)) hresume

end Sys2Proof.Machine

open Sys2Proof.Claims Sys2Proof.Machine

/-- Settles O49: the stopped core by its fields, its image once nothing of it is left, the bare core by its slots, the resume by the
key's generation, %GSWCTL by its fields. -/
theorem gangSwitches : Obligations.GangSwitches := by
  unfold Obligations.GangSwitches
  refine ⟨fun s c h => eventTo_congr (switchOut_stays h) (eventTo_gangSwitchOut s c),
    fun s c ⟨harm, hdue, hup, hruns⟩ => ⟨_, eventTo_gangSwitchOut s c, ?stopped⟩,
    fun s c h => eventTo_congr (switchSaved_running s.time h) (eventTo_gangSwitchSaved s c),
    fun s c q h => eventTo_congr (switchSaved_writes h) (eventTo_gangSwitchSaved s c),
    fun k h n => slotOf_leftBehind h n, fun k => ⟨rfl, rfl, rfl, rfl, rfl⟩,
    fun s c h => eventTo_congr (switchResume_stays h) (eventTo_gangSwitchResume s c),
    fun s c q sv h hsv => ⟨fun hkey => eventTo_congr ((switchResume_image h hsv).trans (if_pos hkey)) (eventTo_gangSwitchResume s c),
      fun hkey => eventTo_congr ((switchResume_image h hsv).trans (if_neg (not_not_intro hkey))) (eventTo_gangSwitchResume s c)⟩,
    gswctl_row⟩
  dsimp only
  rw [coreOf_switchOut harm hdue hup hruns]
  exact ⟨rfl, rfl, rfl, rfl, bit_setFld_clear _ 62, fun i hi hne => bit_setFld_apart _ hi (by omega) 0, rfl, rfl⟩
end

section
/-!
A word that has issued and stands, and is tried again at the slot's next turn: its wait, its tile, its words, a JOIN, a TEAMK.
-/
namespace Sys2Proof.Machine
open Sys2Proof.Claims

/-- A hold of an instruction that has issued, whose turns try its effect again. -/
def standsOn (h : Hold) : Bool :=
  match h with
  | .wait _ => true
  | .tile _ _ => true
  | .words _ _ _ => true
  | .joins _ _ _ _ _ => true
  | .kill _ _ => true
  | _ => false

theorem standsOn_issued {h : Hold} (hh : standsOn h = true) : fresh h = false ∧ hasIssued h = true := by
  cases h with
  | none | busy | push _ _ _ | posting _ | strong _ _ _ | region _ | reply _ | sync | stopped => cases hh
  | wait _ | tile _ _ | words _ _ _ | joins _ _ _ _ _ | kill _ _ => exact ⟨rfl, rfl⟩

theorem issueP_standing {p : Pkg} {cx : Cx} {i : Instr} {c : Nat} {f : Fields} {g : Guarding} {body : Cx → Pkg → Eff}
    (hl : (slotOf (partOf p cx.core) cx.slot).live = true) (hh : standsOn (slotOf (partOf p cx.core) cx.slot).hold = true) :
    issueP p cx i c f g body = settle p cx f (attempt p cx i c f g body) := by
  rw [issueP, if_neg (by simp [hl])]
  generalize (slotOf (partOf p cx.core) cx.slot).hold = h at hh
  cases h with
  | none | busy | push _ _ _ | posting _ | strong _ _ _ | region _ | reply _ | sync | stopped => cases hh
  | wait _ | tile _ _ | words _ _ _ | joins _ _ _ _ _ | kill _ _ => rfl

section
variable {i : Instr} {c : Nat} {f : Fields} {g : Guarding} {body : Fields → Cx → Pkg → Eff} {s : State}
  (hw : i.word = some (c, f)) (h : goesOn i g s) (hstands : standsOn s.cur.hold = true)
include hw h hstands

/-- It has its effect again; its registers were checked as it issued. -/
theorem issue_of_standing : issue i g body s = .next (s.with (settle s.pkg (cxOf s) f (body f (cxOf s) s.pkg))) := by
  have htext := inText_of_goesOn hw h
  obtain ⟨_, _, hw', hl, hreg, hri, hst, hsb, hop, hguard, hin, hrels⟩ := h
  rw [hw] at hw'
  cases hw'
  obtain ⟨row, hrow, hri⟩ := rightHeld_iff.mp hri
  simp only [inBounds, Bool.and_eq_true] at hin
  obtain ⟨hwindow, -⟩ := hin
  simp only [State.cur, State.part] at hl hstands hreg hri hst hsb hop hguard hrels
  have hfresh := (standsOn_issued hstands).1
  have hreg' : ¬ ((slotOf (partOf s.pkg s.core) s.slot).region.isSome = true ∧ c ≠ 0x0EA) := by simp [hreg]
  simp only [issue, hw, issueP_standing (p := s.pkg) (cx := cxOf s) hl hstands, attempt, cxOf_core, cxOf_slot, State.with, hrow, hri, hst,
    hsb, hop, hguard, hwindow, hfresh, if_neg hreg', hrels, List.isEmpty_nil, Bool.true_or, Bool.true_eq_false, Bool.false_eq_true,
    if_false, if_true]
  exact congrArg (fun q => Host.Outcome.next { s with pkg := q }) (settle_leaving (p := s.pkg) (cx := cxOf s) c _ htext)

theorem standing_done {q : Pkg} (hb : body f (cxOf s) s.pkg = .done q) : issue i g body s = .next (advance s f q) := by
  rw [issue_of_standing hw h hstands, hb, settle_done (p := s.pkg) (cx := cxOf s) (inText_of_goesOn hw h)]
  rfl

theorem standing_trap {t : Trap} (hb : body f (cxOf s) s.pkg = .trap t) : issue i g body s = .next (trapState s f t) := by
  rw [issue_of_standing hw h hstands, hb, settle_trap (p := s.pkg) (cx := cxOf s) (.inl (inText_of_goesOn hw h))]
  rfl

theorem standing_gone {q : Pkg} (hb : body f (cxOf s) s.pkg = .gone q) : issue i g body s = .next (s.with q) := by
  rw [issue_of_standing hw h hstands, hb, settle_gone]

theorem standing_hold {q : Pkg} (hb : body f (cxOf s) s.pkg = .hold q) : issue i g body s = .next (s.with q) := by
  have htext : ¬ textSizeOf s.pkg (cxOf s).core ≤ (slotOf (partOf s.pkg (cxOf s).core) (cxOf s).slot).pc + 12 :=
    Nat.not_le.mpr (inText_of_goesOn hw h)
  have hissued : hasIssued (holdOf s.pkg (cxOf s)) = true := (standsOn_issued hstands).2
  rw [issue_of_standing hw h hstands, hb]
  simp [settle, htext, hissued]

end

end Sys2Proof.Machine
end

section
/-!
START, SPAWN and JOIN (R251, R266 to R268): a helper starts, a record is enqueued, a counter counts down in its turn.
-/
namespace Sys2Proof.Machine
open Sys2Proof.Claims

theorem exec_start (f : Fields) (s : State) : exec (.start f) s = issue (.start f) .lane0 start s := rfl
theorem exec_spawn (f : Fields) (s : State) : exec (.spawn f) s = issue (.spawn f) .lane0 spawn s := rfl
theorem exec_join (f : Fields) (s : State) : exec (.join f) s = issue (.join f) .lane0 join s := rfl

/-! START (R266). -/

section
variable {s : State} {f : Fields} {t : Nat}

theorem start_noTarget (h : startTarget s.pkg (cxOf s) f = none) : start f (cxOf s) s.pkg = .late (bareTrap causeIllegal (cxOf s)) := by
  simp only [start, h]

variable (htarget : startTarget s.pkg (cxOf s) f = some t)
include htarget

theorem start_misses (h : targetOk (textSizeOf s.pkg s.core) (startEntry s.pkg (cxOf s) f) = false) :
    start f (cxOf s) s.pkg = .late (alignTrap (startEntry s.pkg (cxOf s) f)) := by
  have h' : targetOk (textSizeOf s.pkg (cxOf s).core) (startEntry s.pkg (cxOf s) f) = false := h
  simp only [start, htarget, if_pos h']

variable (hentry : targetOk (textSizeOf s.pkg s.core) (startEntry s.pkg (cxOf s) f) = true)
include hentry

theorem start_loads (hidle : slotIdle (coreOf s.pkg s.core) t = true) :
    start f (cxOf s) s.pkg = .done (fixAsk (updPart s.pkg s.core (fun k =>
      loadContext k t (startedSlot s.cur t (startEntry s.pkg (cxOf s) f).toNat s.time))) s.core) := by
  have hentry' : ¬ targetOk (textSizeOf s.pkg (cxOf s).core) (startEntry s.pkg (cxOf s) f) = false := by simp [cxOf_core, hentry]
  have hidle' : slotIdle (coreOf s.pkg (cxOf s).core) t = true := hidle
  simp only [start, htarget, if_neg hentry', if_pos hidle']
  exact congrArg (fun q => Eff.done (fixAsk q s.core)) (updPart_congr rfl)

theorem start_waits (hhold : s.cur.hold = .none) (hidle : slotIdle (coreOf s.pkg s.core) t = false) :
    start f (cxOf s) s.pkg = startWait s.pkg (cxOf s) (.startSlot t) := by
  have hentry' : ¬ targetOk (textSizeOf s.pkg (cxOf s).core) (startEntry s.pkg (cxOf s) f) = false := by simp [cxOf_core, hentry]
  have hidle' : ¬ slotIdle (coreOf s.pkg (cxOf s).core) t = true := by simp [cxOf_core, hidle]
  have hhold' : holdOf s.pkg (cxOf s) = .none := hhold
  simp only [start, htarget, if_neg hentry', if_neg hidle', hhold']

end

section
variable (x : Slot) (t pc now : Nat)

theorem sregOf_startedSlot (r : Nat) : sregOf (startedSlot x t pc now) r = sregOf (setSreg (setSreg x 0 (BitVec.ofNat 64 t)) 31 0) r := rfl

theorem sregOf_startedSlot_zero (hpos : 0 < t) (hlt : t < 16) : sregOf (startedSlot x t pc now) 0 = BitVec.ofNat 64 t := by
  have hne : BitVec.ofNat 64 t ≠ 0 := by
    intro h
    have hnat := congrArg BitVec.toNat h
    rw [BitVec.toNat_ofNat, Nat.mod_eq_of_lt (by omega)] at hnat
    exact hpos.ne' hnat
  rw [sregOf_startedSlot, sregOf_setSreg_other _ _ (by decide), sregOf, setSreg, mapPut, if_neg hne, mapGet_insert_self]

theorem sregOf_startedSlot_other {r : Nat} (h1 : 1 ≤ r) (h30 : r ≤ 30) : sregOf (startedSlot x t pc now) r = sregOf x r := by
  rw [sregOf_startedSlot, sregOf_setSreg_other _ _ (by omega), sregOf_setSreg_other _ _ (by omega)]

end

/-! SPAWN (R267). -/

section
variable {s : State} {f : Fields}

theorem spawn_unaligned (h : fld (s.bVal f) 0 17 % 32 ≠ 0) : spawn f (cxOf s) s.pkg = .trap (alignTrap (fld (s.bVal f) 0 17)) := if_pos h

/-- What a SPAWN of a valid record makes of its release push: it stands there, finds its queue full, or enqueues the record (R267). -/
def spawnReleased (s : State) (f : Fields) (r : BitVec 256) (rel : Pkg × Bool) : Eff :=
  if rel.2 = false then .push rel.1 (.push (recScope s.core r) true [])
  else if queueFull rel.1 (recCluster s.core r) (recPrio r) then .done (writeResult rel.1 (cxOf s) f false)
  else .done (writeResult (enqueue rel.1 s.time (recCluster s.core r) (taskCopy r (asidOf s.part))) (cxOf s) f true)

theorem spawn_valid {r : BitVec 256} (h : spawnable s (fld (s.bVal f) 0 17) r) :
    spawn f (cxOf s) s.pkg = spawnReleased s f r (releaseAt s.pkg (cxOf s) (recScope s.core r) false) := by
  obtain ⟨hal, hclear, hwords, rfl, hlt, hcode, htext⟩ := h
  have hal' : ¬ fld (bScalar s.pkg (cxOf s).core (slotOf (partOf s.pkg (cxOf s).core) (cxOf s).slot) f.b) 0 17 % 32 ≠ 0 := not_not_intro hal
  have hclear' : ¬ scrClear (partOf s.pkg (cxOf s).core) [(fld (s.bVal f) 0 17, fld (s.bVal f) 0 17 + 32)] [] = false := by
    rw [Bool.not_eq_false]
    exact hclear
  have hgood : ∀ l, spansBad (partOf s.pkg (cxOf s).core) l = none := spansBad_none hwords
  have hvalid : ¬ (2 ^ 32 ≤ recCode (recordAt s (fld (s.bVal f) 0 17)) ∨ recCode (recordAt s (fld (s.bVal f) 0 17)) % 12 ≠ 0 ∨
      textSizeOf s.pkg s.core ≤ recCode (recordAt s (fld (s.bVal f) 0 17))) := by omega
  refine (if_neg hal').trans ((if_neg hclear').trans ?_)
  rw [hgood]
  exact if_neg hvalid

end

/-! JOIN at its level (R268). -/

section
variable {p : Pkg} {cx : Cx} {sl : Slot} {asid key : Nat} {me : Shipped} {d : Bool}

theorem joinAt_waits (h : regionAhead p me = true ∨ readWaits p cx.now cx.core me.lvl key = true) :
    joinAt p cx sl asid me key d = .waits p := if_pos (Bool.or_eq_true_iff.mpr h)

/-- A record is put back, or waits for room. -/
def joinPut (p : Pkg) (cx : Cx) (sl : Slot) (asid : Nat) (me : Shipped) (key n : Nat) (v : Bool) (fin : Pkg → Pkg) : JoinOut :=
  match putJoin p cx sl asid me key n with
  | (p1, true) => .did (fin p1) v
  | (p1, false) => .waits p1

theorem joinPut_put {n : Nat} {q : Pkg} (h : putJoin p cx sl asid me key n = (q, true)) (v : Bool) (fin : Pkg → Pkg) :
    joinPut p cx sl asid me key n v fin = .did (fin q) v := by
  rw [joinPut, h]

variable (hahead : regionAhead p me = false) (hwaits : readWaits p cx.now cx.core me.lvl key = false)
include hahead hwaits

theorem joinAt_bad (hbad : combineBad p cx.now cx.core me.lvl key = true) : joinAt p cx sl asid me key d = .bad :=
  (if_neg (by simp [hahead, hwaits])).trans (if_pos hbad)

variable (hgood : combineBad p cx.now cx.core me.lvl key = false)
include hgood

/-- In its turn and with no error met, the counter of the record decides. -/
theorem joinAt_turn {r : BitVec 256} (hr : r = (combineFrom p cx.now cx.core me.lvl key).1) : joinAt p cx sl asid me key d =
    if fld r 32 32 = 0 then .did (decideContest p me) false
    else if fld r 32 32 = 1 ∧ queueFull p (recCluster cx.core r) (recPrio r) then
      (if d then joinPut p cx sl asid me key 0 true id else .full (recCluster cx.core r) (recPrio r))
    else joinPut p cx sl asid me key (fld r 32 32 - 1) false (fun q =>
      if fld r 32 32 = 1 then enqueue q cx.now (recCluster cx.core r) (setFld (taskCopy r asid) 32 32 0) else q) := by
  subst hr
  exact (if_neg (by simp [hahead, hwaits])).trans (if_neg (by simp [hgood]))

end

section
variable {s : State} {f : Fields} {x : Xlat} {p : Pkg} {since lvl key : Nat} {w : Option Wait}

/-- What the slot makes of what its JOIN has come to. -/
theorem joinGo_eq : joinGo p (cxOf s) f x since lvl key w =
    match joinAt p (cxOf s) (slotOf (partOf p s.core) s.slot) (asidOf (partOf p s.core)) (joinShipped s since lvl key) key
      (decide (f.d ≠ .none)) with
    | .did q v => .done (writeResult (logJoin q (cxOf s) lvl key) (cxOf s) f v)
    | .bad => .trap (memCheck (32 * keyGran key))
    | .waits q => .hold (setHold (setCap q (cxOf s) 0 [x]) (cxOf s) (.joins since lvl key (decide (f.d ≠ .none)) w))
    | .full cl prio => match w with
      | some w => .hold (limitMonitors (setHold (setCap p (cxOf s) 0 [x]) (cxOf s) (.wait { w with met := false })) s.time s.core)
      | none => startWait (setCap p (cxOf s) 0 [x]) (cxOf s) (.room cl prio) := by
  rfl

theorem joinGo_did {q : Pkg} {v : Bool} (h : joinAt p (cxOf s) (slotOf (partOf p s.core) s.slot) (asidOf (partOf p s.core))
    (joinShipped s since lvl key) key (decide (f.d ≠ .none)) = .did q v) :
    joinGo p (cxOf s) f x since lvl key w = .done (writeResult (logJoin q (cxOf s) lvl key) (cxOf s) f v) := by
  rw [joinGo_eq, h]

/-- Where what the slot makes of it is what the step makes of the state, the counter decides the step. -/
theorem joinRow_of_joinGo
    (hdone : ∀ q, joinGo p (cxOf s) f x since lvl key w = .done q → exec (.join f) s = .next (advance s f q))
    (htrap : ∀ t, joinGo p (cxOf s) f x since lvl key w = .trap t → exec (.join f) s = .next (trapState s f t)) :
    joinRow s f p since lvl key := by
  unfold joinRow
  intro me sl asid r j full ends hahead hwaits
  have hends {q : Pkg} {v : Bool} (h : joinAt p (cxOf s) sl asid me key (decide (f.d ≠ .none)) = .did q v) : ends q v :=
    hdone _ (joinGo_did h)
  have hbad := joinAt_bad (cx := cxOf s) (sl := sl) (asid := asid) (d := decide (f.d ≠ .none)) hahead hwaits
  refine ⟨fun h => htrap _ (by rw [joinGo_eq, hbad h]), fun hgood => ?_⟩
  have hturn := joinAt_turn (cx := cxOf s) (sl := sl) (asid := asid) (d := decide (f.d ≠ .none)) (r := r) hahead hwaits hgood rfl
  refine ⟨fun hzero => hends (hturn.trans (if_pos hzero)), fun q hmany hput => hends ?many, fun q hone hroom hput => hends ?last,
    fun q hone hfull hd hput => hends ?full⟩
  case many =>
    have h0 : ¬ fld r 32 32 = 0 := (Nat.lt_of_lt_of_le (by decide) hmany).ne'
    have h1 : ¬ fld r 32 32 = 1 := (Nat.lt_of_lt_of_le (by decide) hmany).ne'
    rw [hturn, if_neg h0, if_neg (fun h => h1 h.1), joinPut_put hput, if_neg h1]
  case last =>
    have h1 : fld r 32 32 = 1 := hone
    have hput' : putJoin p (cxOf s) sl asid me key (fld r 32 32 - 1) = (q, true) := by
      rw [h1]
      exact hput
    rw [hturn, if_neg (by rw [h1]; decide), if_neg (fun h => absurd h.2 (Bool.eq_false_iff.mp hroom)), joinPut_put hput', if_pos h1]
    rfl
  case full =>
    have h1 : fld r 32 32 = 1 := hone
    rw [hturn, if_neg (by rw [h1]; decide), if_pos ⟨h1, hfull⟩, if_pos (decide_eq_true hd), joinPut_put hput]
    rfl

end

/-! JOIN at issue, and again at its turns (R268). -/

section
variable {s : State} {f : Fields}

theorem join_unaligned (h : fld (s.bVal f) 0 57 % 32 ≠ 0) : join f (cxOf s) s.pkg = .trap (alignTrap (fld (s.bVal f) 0 57)) := if_pos h

/-- A JOIN with its translation, at its level or on its way there. -/
def joinHit (s : State) (f : Fields) (x : Xlat) : Eff :=
  let scope := joinScope s f
  let lvl := scopeLevel scope
  let key := storeKey x (joinAddr s f)
  let rel := releaseAt s.pkg (cxOf s) scope false
  let pushed := if rel.2 then pushKeys rel.1 s.time s.core scope
    ((List.range 4).map (fun i => storeKey x (joinAddr s f / 128 * 128 + 32 * i))) else (rel.1, false)
  if pushed.2 = false then .push (setCap pushed.1 (cxOf s) 0 [x]) (.push scope true [])
  else if s.turn.later then
    .hold (setHold (setCap pushed.1 (cxOf s) 0 [x]) (cxOf s) (joinHold f (cameAt pushed.1 (cxOf s) scope) lvl key))
  else joinGo pushed.1 (cxOf s) f x (cameAt pushed.1 (cxOf s) scope) lvl key none

theorem waitOver_notWaiting {p : Pkg} {cx : Cx} (h : ∀ w, holdOf p cx ≠ .wait w) : waitOver p cx = false := by
  unfold waitOver
  split
  next w hw => exact absurd hw (h w)
  next => rfl

/-- A JOIN that has its translation comes to its level, or is there. -/
theorem join_hit {x : Xlat} (hal : joinAddr s f % 32 = 0) (hscope : fld (s.bVal f) 61 3 < 6)
    (hover : waitOver s.pkg (cxOf s) = false) (hx : joinXlat s.pkg (cxOf s) (joinAddr s f) = .hit x) (hovl : x.ovl = none) :
    (s.cur.hold = .none → join f (cxOf s) s.pkg = joinHit s f x) ∧
    (∀ (since lvl key : Nat) (d : Bool) (w : Option Wait), s.cur.hold = .joins since lvl key d w →
      join f (cxOf s) s.pkg = joinGo s.pkg (cxOf s) f x since lvl key w) := by
  have hal' : ¬ fld (bScalar s.pkg (cxOf s).core (curSlot s.pkg (cxOf s)) f.b) 0 57 % 32 ≠ 0 := not_not_intro hal
  have hscope' : ¬ 6 ≤ fld (bScalar s.pkg (cxOf s).core (curSlot s.pkg (cxOf s)) f.b) 61 3 := Nat.not_le.mpr hscope
  have hover' : ¬ waitOver s.pkg (cxOf s) = true := Bool.eq_false_iff.mp hover
  have hx' : joinXlat s.pkg (cxOf s) (fld (bScalar s.pkg (cxOf s).core (curSlot s.pkg (cxOf s)) f.b) 0 57) = .hit x := hx
  have hovl' : ¬ x.ovl.isSome = true := by simp [hovl]
  refine ⟨fun hhold => ?_, fun since lvl key d w hhold => ?_⟩
  · have hhold' : holdOf s.pkg (cxOf s) = .none := hhold
    simp only [join, if_neg hal', if_neg hscope', if_neg hover', hx', if_neg hovl', hhold']
    rfl
  · have hhold' : holdOf s.pkg (cxOf s) = .joins since lvl key d w := hhold
    simp only [join, if_neg hal', if_neg hscope', if_neg hover', hx', if_neg hovl', hhold']

theorem joinXlat_fresh (hhold : s.cur.hold = .none) (va : Nat) :
    joinXlat s.pkg (cxOf s) va = translate s.pkg (cxOf s) va true := by
  have hcap : capOf (curSlot s.pkg (cxOf s)) = none := by rw [capOf, curSlot_eq, hhold]; rfl
  simp only [joinXlat, hcap]

theorem joinXlat_captured {e : Bits512} {x : Xlat} {xs : List Xlat} (hissued : hasIssued s.cur.hold = true)
    (hcap : s.cur.cap = some (e, x :: xs)) (va : Nat) : joinXlat s.pkg (cxOf s) va = .hit x := by
  have hcap' : capOf (curSlot s.pkg (cxOf s)) = some (e, x :: xs) := by rw [capOf, curSlot_eq, if_pos hissued, hcap]
  simp only [joinXlat, hcap']

theorem join_again {e : Bits512} {x : Xlat} {xs : List Xlat} {since lvl key : Nat} {d : Bool} {w : Option Wait}
    (hhold : s.cur.hold = .joins since lvl key d w) (hcap : s.cur.cap = some (e, x :: xs)) (hovl : x.ovl = none)
    (hal : joinAddr s f % 32 = 0) (hscope : fld (s.bVal f) 61 3 < 6) :
    join f (cxOf s) s.pkg = joinGo s.pkg (cxOf s) f x since lvl key w := by
  have hover : waitOver s.pkg (cxOf s) = false := waitOver_notWaiting (fun v hv => by cases hhold.symm.trans hv)
  have hissued : hasIssued s.cur.hold = true := by rw [hhold]; rfl
  exact (join_hit hal hscope hover (joinXlat_captured hissued hcap _) hovl).2 since lvl key d w hhold

/-- A JOIN that comes to level(S) stands there for a later turn, or is performed at once. -/
theorem join_reaches {x : Xlat} {p : Pkg} (hhold : s.cur.hold = .none) (h : joinReaches s f x p) : join f (cxOf s) s.pkg =
    let since := cameAt p (cxOf s) (joinScope s f)
    let lvl := scopeLevel (joinScope s f)
    let key := storeKey x (joinAddr s f)
    if s.turn.later then .hold (setHold (setCap p (cxOf s) 0 [x]) (cxOf s) (joinHold f since lvl key))
    else joinGo p (cxOf s) f x since lvl key none := by
  obtain ⟨hal, hscope, hx, hovl, q, hrel, hpush⟩ := h
  have hover : waitOver s.pkg (cxOf s) = false := waitOver_notWaiting (fun v hv => by cases hhold.symm.trans hv)
  rw [(join_hit hal hscope hover ((joinXlat_fresh hhold _).trans hx) hovl).1 hhold]
  simp only [joinHit, hrel, if_true, hpush, Bool.true_eq_false, if_false]

end

/-! A JOIN that waits (R260, R268). -/

section
variable {p : Pkg} {s : State} {f : Fields} {x : Xlat}

theorem curSlot_setCap (p : Pkg) (cx : Cx) (e : Bits512) (xs : List Xlat) :
    curSlot (setCap p cx e xs) cx = { curSlot p cx with cap := some (e, xs) } := by
  have hslot (y : Slot) : ({ y with cap := some (e, xs) } : Slot) ≠ slotReset := fun h => by cases congrArg Slot.cap h
  have hpart : slotOf (updSlot (partOf p cx.core) cx.slot (fun y => { y with cap := some (e, xs) })) cx.slot =
      { curSlot p cx with cap := some (e, xs) } := slotOf_setSlot_self _ _ (hslot _)
  have hcore : ({ coreOf p cx.core with
      part := updSlot (partOf p cx.core) cx.slot (fun y => { y with cap := some (e, xs) }) } : Core) ≠ coreReset := by
    intro h
    have hreset := congrArg (fun k : Core => slotOf k.part cx.slot) h
    exact hslot _ (hpart.symm.trans hreset)
  have hset : coreOf (setCap p cx e xs) cx.core = _ := coreOf_setCore_self p cx.core hcore
  rw [curSlot, partOf, hset]
  exact hpart

/-- A JOIN whose queue is full and that gives no D waits for room, from its package on. -/
theorem joinGo_full {since lvl key cl prio : Nat}
    (h : joinAt p (cxOf s) (slotOf (partOf p s.core) s.slot) (asidOf (partOf p s.core)) (joinShipped s since lvl key) key
      (decide (f.d ≠ .none)) = .full cl prio) :
    joinGo p (cxOf s) f x since lvl key none = startWait (setCap p (cxOf s) 0 [x]) (cxOf s) (.room cl prio) := by
  rw [joinGo_eq, h]

/-- A JOIN that begins to wait, or traps where the limit is 0 (R261). -/
theorem exec_join_startWait {kind : WaitKind} (h : runs (.join f) .lane0 s = true)
    (hb : join f (cxOf s) s.pkg = startWait (setCap p (cxOf s) 0 [x]) (cxOf s) kind) :
    let w : Wait := { kind := kind, met := false, value := 0,
                      deadline := s.time + (slotOf (partOf p s.core) s.slot).waitlim.toNat }
    exec (.join f) s = .next (if (slotOf (partOf p s.core) s.slot).waitlim = 0 then trapState s f (waitTrap (cxOf s) w)
      else heldState s f (limitMonitors (setHold (setCap p (cxOf s) 0 [x]) (cxOf s) (.wait w)) s.time s.core)) := by
  have hlimit : (curSlot (setCap p (cxOf s) 0 [x]) (cxOf s)).waitlim = (slotOf (partOf p s.core) s.slot).waitlim := by
    rw [curSlot_setCap]
    rfl
  intro w
  by_cases hzero : (slotOf (partOf p s.core) s.slot).waitlim = 0
  · have hw : w = { kind := kind, met := false, value := 0, deadline := s.time } := by simp [w, hzero]
    rw [if_pos hzero, hw]
    exact (exec_join f s).trans (issue_trap rfl h (hb.trans (startWait_limit0 (hlimit.trans hzero) kind)))
  · rw [if_neg hzero]
    refine (exec_join f s).trans (issue_hold rfl h (hb.trans ((startWait_holds (fun hz => hzero (hlimit.symm.trans hz)) kind).trans ?_)))
    rw [hlimit]
    rfl

end

/-- What a JOIN that comes to level(S) comes to (R172, R173, R260, R268). -/
theorem join_row {s : State} {f : Fields} {x : Xlat} {p : Pkg} (h : runs (.join f) .lane0 s = true) (hreaches : joinReaches s f x p) :
    let lvl := scopeLevel (joinScope s f)
    let key := storeKey x (joinAddr s f)
    let since := cameAt p (cxOf s) (joinScope s f)
    let me := joinShipped s since lvl key
    let r := (combineFrom p s.time s.core lvl key).1
    let stands := exec (.join f) s = .next (heldState s f (setHold (setCap p (cxOf s) 0 [x]) (cxOf s) (joinHold f since lvl key)))
    (s.turn.later = false → joinRow s f p since lvl key) ∧ (s.turn.later = true → stands) ∧
    (s.turn.later = false → (regionAhead p me = true ∨ readWaits p s.time s.core lvl key = true) → stands) ∧
    (s.turn.later = false → regionAhead p me = false → readWaits p s.time s.core lvl key = false →
      combineBad p s.time s.core lvl key = false → fld r 32 32 = 1 → queueFull p (recCluster s.core r) (recPrio r) = true → f.d = .none →
      let w : Wait := { kind := .room (recCluster s.core r) (recPrio r), met := false, value := 0,
                        deadline := s.time + (slotOf (partOf p s.core) s.slot).waitlim.toNat }
      exec (.join f) s = .next (if (slotOf (partOf p s.core) s.slot).waitlim = 0 then trapState s f (waitTrap (cxOf s) w)
        else heldState s f (limitMonitors (setHold (setCap p (cxOf s) 0 [x]) (cxOf s) (.wait w)) s.time s.core))) := by
  intro lvl key since me r stands
  have hjoin := join_reaches (hold_of_runs rfl h).2 hreaches
  have hgo (hnow : s.turn.later = false) : join f (cxOf s) s.pkg = joinGo p (cxOf s) f x since lvl key none :=
    hjoin.trans (if_neg (by simp [hnow]))
  have hstands (hb : join f (cxOf s) s.pkg = .hold (setHold (setCap p (cxOf s) 0 [x]) (cxOf s) (joinHold f since lvl key))) : stands :=
    (exec_join f s).trans (issue_hold rfl h hb)
  refine ⟨fun hnow => joinRow_of_joinGo (fun q hq => (exec_join f s).trans (issue_done rfl h ((hgo hnow).trans hq)))
      (fun t ht => (exec_join f s).trans (issue_trap rfl h ((hgo hnow).trans ht))),
    fun hlater => hstands (hjoin.trans (if_pos hlater)), fun hnow hblocked => hstands ((hgo hnow).trans ?blocked),
    fun hnow hahead hwaits hgood hone hfull hd => exec_join_startWait h ((hgo hnow).trans (joinGo_full ?full))⟩
  case blocked =>
    have hat := joinAt_waits (cx := cxOf s) (sl := slotOf (partOf p s.core) s.slot) (asid := asidOf (partOf p s.core)) (me := me)
      (d := decide (f.d ≠ .none)) hblocked
    rw [joinGo_eq, hat]
    rfl
  case full =>
    refine (joinAt_turn (cx := cxOf s) (r := r) hahead hwaits hgood rfl).trans ?_
    rw [if_neg (by rw [hone]; decide), if_pos ⟨hone, hfull⟩, hd]
    rfl

end Sys2Proof.Machine
end

section
/-!
TEXIT, TEAMK and REPART (R269, R272, R273): a context retires, teams end, a core changes its mode.
-/
namespace Sys2Proof.Machine
open Sys2Proof.Claims

theorem exec_texit (f : Fields) (s : State) : exec (.texit f) s = issue (.texit f) .lane0 texit s := rfl
theorem exec_teamk (f : Fields) (s : State) : exec (.teamk f) s = issue (.teamk f) .lane0 teamk s := rfl
theorem exec_repart (f : Fields) (s : State) : exec (.repart f) s = issue (.repart f) .lane0 repart s := rfl

/-! TEXIT (R269). -/

theorem hold_of_going {i : Instr} {c : Nat} {f : Fields} {g : Guarding} {s : State} (hw : i.word = some (c, f))
    (h : going i g s = true) : s.cur.hold = .none := by
  simp only [going, hw, readyWord, Bool.and_eq_true, decide_eq_true_eq] at h
  exact h.1.1.1.1.1.1.1.1.1.2

/-- An instruction that leaves the pc and has to wait waits as it is. -/
theorem issue_going_waits {i : Instr} {c : Nat} {f : Fields} {g : Guarding} {body : Fields → Cx → Pkg → Eff} {s : State}
    (hw : i.word = some (c, f)) (h : going i g s = true) (hb : body f (cxOf s) s.pkg = .stay s.pkg) : issue i g body s = .next s := by
  have hstay : leaving c (.stay s.pkg) = .stay s.pkg := ite_self _
  have hhold : holdOf s.pkg (cxOf s) = .none := hold_of_going hw h
  rw [issue_of_going hw h, hb, hstay, settle_stay, stand_same hhold]
  rfl

section
variable {s : State} {f : Fields}

theorem texit_handler (h : s.cur.kind = .errand) : texit f (cxOf s) s.pkg = .trap (bareTrap causeIllegal (cxOf s)) := if_pos h

variable (h : s.cur.kind ≠ .errand)
include h

theorem texit_owes (howes : owes s) : texit f (cxOf s) s.pkg = .stay s.pkg := by
  refine (if_neg h).trans ?_
  by_cases hj : s.part.journal.any (fun e => decide (e.2.ctx = s.cur.ctx) && jAwaits e.2) = true
  · exact if_pos hj
  · have hloads : s.cur.loads ≠ [] := howes.resolve_left (fun hentry => hj (any_jAwaits_iff.mpr hentry))
    exact (if_neg hj).trans (if_pos hloads)

theorem texit_retires (howes : ¬ owes s) :
    texit f (cxOf s) s.pkg = .gone (retireSlot (markIssued s.pkg (cxOf s) f) s.time s.core s.slot) := by
  obtain ⟨hentry, hloads⟩ := not_or.mp howes
  have hj : ¬ s.part.journal.any (fun e => decide (e.2.ctx = s.cur.ctx) && jAwaits e.2) = true := mt any_jAwaits_iff.mp hentry
  exact (if_neg h).trans ((if_neg hj).trans (if_neg hloads))

end

/-! TEAMK (R272). -/

theorem any_orphans_iff {p : Pkg} {cs : List Nat} : p.orphans.any (fun o => cs.contains o.1) = true ↔ strongLeft p cs := by
  simp only [List.any_eq_true, List.contains_iff_mem, strongLeft]

section
variable {p : Pkg} {cx : Cx} {cs : List Nat}

theorem teamkWait_waits (h : strongLeft p cs) (own : Bool) : teamkWait p cx cs own =
    if own then .gone (setHold p cx (.kill cs own)) else .hold (setHold p cx (.kill cs own)) := if_pos (any_orphans_iff.mpr h)

theorem teamkWait_over (h : ¬ strongLeft p cs) (own : Bool) : teamkWait p cx cs own =
    if own then .gone (freeSlot p cx.now cx.core cx.slot) else .done p := if_neg (mt any_orphans_iff.mp h)

end

/-- The package once the teams of a TEAMK are ended, the issuing context's own last, and for ALL the records of their ASID are gone. -/
def teamsEnded (s : State) (f : Fields) (cs : List Nat) : Pkg :=
  let q := if s.core ∈ cs then endTeam (othersEnded s f cs) s.time s.core 2 (some s.slot) else othersEnded s f cs
  if bit (s.aVal f) 9 then latchRoom (purgeQueues q (fld (s.aVal f) 0 9)) s.time else q

/-- The cores that a TEAMK affects. -/
def affected (s : State) (f : Fields) : List Nat := teamkCores s.pkg (fld (s.aVal f) 0 9) (fld (s.aVal f) 10 12) (bit (s.aVal f) 9)

theorem teamk_issues {s : State} (f : Fields) (hhold : s.cur.hold = .none) : teamk f (cxOf s) s.pkg =
    teamkWait (teamsEnded s f (affected s f)) (cxOf s) (affected s f) (decide (s.core ∈ affected s f)) := by
  have hhold' : holdOf s.pkg (cxOf s) = .none := hhold
  have hown : (affected s f).contains s.core = decide (s.core ∈ affected s f) := List.contains_eq_mem _ _
  have hend : teamk f (cxOf s) s.pkg = teamkEnd f (cxOf s) s.pkg := by simp only [teamk, hhold']
  have hq : (if s.core ∈ affected s f then endTeam (othersEnded s f (affected s f)) s.time s.core 2 (some s.slot)
      else othersEnded s f (affected s f)) = if (affected s f).contains s.core then
        endTeam (othersEnded s f (affected s f)) s.time s.core 2 (some s.slot) else othersEnded s f (affected s f) :=
    if_congr (by rw [hown, decide_eq_true_iff]) rfl rfl
  rw [hend, ← hown, teamsEnded, hq]
  rfl

/-- What a TEAMK comes to as it issues (R272). -/
theorem teamk_row {s : State} {f : Fields} (h : runs (.teamk f) .lane0 s = true) :
    let cs := affected s f
    let r := teamsEnded s f cs
    (¬ strongLeft r cs → (s.core ∈ cs → exec (.teamk f) s = .next (s.with (freeSlot r s.time s.core s.slot))) ∧
      (s.core ∉ cs → exec (.teamk f) s = .next (advance s f r))) ∧
    (strongLeft r cs → (s.core ∈ cs → exec (.teamk f) s = .next (s.with (setHold r (cxOf s) (.kill cs true)))) ∧
      (s.core ∉ cs → exec (.teamk f) s = .next (heldState s f (setHold r (cxOf s) (.kill cs false))))) := by
  intro cs r
  have hissues := teamk_issues f (hold_of_runs rfl h).2
  have hin (hown : s.core ∈ cs) : teamk f (cxOf s) s.pkg = teamkWait r (cxOf s) cs true := hissues.trans (by rw [decide_eq_true hown])
  have hout (hother : s.core ∉ cs) : teamk f (cxOf s) s.pkg = teamkWait r (cxOf s) cs false :=
    hissues.trans (by rw [decide_eq_false hother])
  exact ⟨fun hover => ⟨fun hown => (exec_teamk f s).trans (issue_gone rfl h ((hin hown).trans (teamkWait_over hover true))),
      fun hother => (exec_teamk f s).trans (issue_done rfl h ((hout hother).trans (teamkWait_over hover false)))⟩,
    fun hleft => ⟨fun hown => (exec_teamk f s).trans (issue_gone rfl h ((hin hown).trans (teamkWait_waits hleft true))),
      fun hother => (exec_teamk f s).trans (issue_hold rfl h ((hout hother).trans (teamkWait_waits hleft false)))⟩⟩

/-- What a TEAMK comes to that has issued and waits (R272). -/
theorem teamk_again {s : State} {f : Fields} {cs : List Nat} {own : Bool} (h : goesOn (.teamk f) .lane0 s)
    (hhold : s.cur.hold = .kill cs own) :
    (strongLeft s.pkg cs → exec (.teamk f) s = .next (s.with (setHold s.pkg (cxOf s) (.kill cs own)))) ∧
    (¬ strongLeft s.pkg cs → exec (.teamk f) s = .next (
      if own then s.with (freeSlot s.pkg s.time s.core s.slot) else advance s f s.pkg)) := by
  have hhold' : holdOf s.pkg (cxOf s) = .kill cs own := hhold
  have hstands : standsOn s.cur.hold = true := by rw [hhold]; rfl
  have hwait : teamk f (cxOf s) s.pkg = teamkWait s.pkg (cxOf s) cs own := by simp only [teamk, hhold']
  refine ⟨fun hleft => (exec_teamk f s).trans ?waits, fun hover => (exec_teamk f s).trans ?completes⟩
  case waits =>
    have hb := hwait.trans (teamkWait_waits hleft own)
    cases own with
    | true => exact standing_gone rfl h hstands hb
    | false => exact standing_hold rfl h hstands hb
  case completes =>
    have hb := hwait.trans (teamkWait_over hover own)
    cases own with
    | true => exact standing_gone rfl h hstands hb
    | false => exact standing_done rfl h hstands hb

/-! REPART (R273). -/

section
variable {s : State} {f : Fields}

theorem repart_illegal (h : fld (s.bVal f) 0 2 = 3 ∨ s.slot ≠ 0) :
    repart f (cxOf s) s.pkg = .late (bareTrap causeIllegal (cxOf s)) := if_pos h

variable (hhold : s.cur.hold = .none) (hmode : fld (s.bVal f) 0 2 ≠ 3) (hslot : s.slot = 0)
include hhold hmode hslot

theorem repart_legal : repart f (cxOf s) s.pkg =
    if quiescent s.part then .done (repartDone s f) else startWait s.pkg (cxOf s) .quiet := by
  have hlegal : ¬ (fld (bScalar s.pkg (cxOf s).core (slotOf (partOf s.pkg (cxOf s).core) (cxOf s).slot) f.b) 0 2 = 3 ∨ (cxOf s).slot ≠ 0) :=
    not_or.mpr ⟨hmode, not_not_intro hslot⟩
  have hover : ¬ waitOver s.pkg (cxOf s) = true :=
    Bool.eq_false_iff.mp (waitOver_notWaiting (fun v hv => by cases hhold.symm.trans hv))
  have hhold' : holdOf s.pkg (cxOf s) = .none := hhold
  simp only [repart, if_neg hlegal, if_neg hover, hhold']
  rfl

end

theorem mode_of_changeMode (k : Part) (m : Nat) : (changeMode k m).mode = m := by
  by_cases h : m = k.mode
  · rw [changeMode, if_pos h, h]
  · rw [changeMode, if_neg h]

/-- The registers that both modes have stand (R273). -/
theorem vregs_changeMode (k : Part) {m r : Nat} (h : r < min (regCount k.mode) (regCount m)) :
    mapGet 0 (changeMode k m).vregs r = mapGet 0 k.vregs r := by
  by_cases hm : m = k.mode
  · rw [changeMode, if_pos hm]
  · rw [changeMode, if_neg hm]
    have hfind := mapFind_filter_keys k.vregs (fun j => decide (j < min (regCount k.mode) (regCount m))) r
    rw [if_pos (decide_eq_true h)] at hfind
    exact congrArg (fun o => o.getD (0 : VReg)) hfind

end Sys2Proof.Machine

open Sys2Proof.Claims Sys2Proof.Machine

/-- Settles O38: START by its target and its slot, SPAWN by its release and its queue, JOIN by its turn and its counter, at issue and
again, TEXIT by what its context owes, TEAMK by the strong operations left, REPART by the core's quiet. -/
theorem taskInstructions : Obligations.TaskInstructions := by
  unfold Obligations.TaskInstructions
  refine ⟨fun s f t h htarget => ?start,
    fun s f kind h ⟨t, htarget, hentry, hidle, hkind⟩ => hkind ▸ (exec_start f s).trans (issue_startWait rfl h
      (start_waits htarget hentry (hold_of_runs rfl h).2 hidle)),
    fun s f t h ⟨hnone, ht⟩ => ht ▸ (exec_start f s).trans (issue_late rfl h (start_noTarget hnone)),
    fun x t pc now => ⟨rfl, rfl, sregOf_startedSlot_zero x t pc now, fun r h1 h30 => sregOf_startedSlot_other x t pc now h1 h30,
      rfl, rfl, rfl, rfl, rfl, rfl⟩,
    fun s f off r h hoff => hoff ▸ ⟨fun hal => (exec_spawn f s).trans (issue_trap rfl h (spawn_unaligned hal)),
      fun p hvalid hrel => ?pushed, fun p hvalid hrel => ?pushes⟩,
    fun s f x p h hreaches => join_row h hreaches,
    fun s f since lvl key d w e x xs h hhold hcap hovl hal hscope => ?again,
    fun s f t h ⟨hal, ht⟩ => ht ▸ (exec_join f s).trans (issue_trap rfl h (join_unaligned hal)),
    fun s f t h ⟨hkind, ht⟩ => ht ▸ (exec_texit f s).trans (issue_going_trap rfl rfl h (texit_handler hkind)),
    fun s f h hkind => ⟨fun howes => (exec_texit f s).trans (issue_going_gone rfl h (texit_retires hkind howes)),
      fun howes => (exec_texit f s).trans (issue_going_waits rfl h (texit_owes hkind howes))⟩,
    fun s f h => teamk_row h, fun s f cs own h hhold => teamk_again h hhold,
    fun s f t h ⟨hbad, ht⟩ => ht ▸ (exec_repart f s).trans (issue_late rfl h (repart_illegal hbad)),
    fun s f h ⟨hmode, hslot, hquiet⟩ => (exec_repart f s).trans (issue_done rfl h
      ((repart_legal (hold_of_runs rfl h).2 hmode hslot).trans (if_pos hquiet))),
    fun s f kind h ⟨hmode, hslot, hquiet, hkind⟩ => hkind ▸ (exec_repart f s).trans (issue_startWait rfl h
      ((repart_legal (hold_of_runs rfl h).2 hmode hslot).trans (if_neg (Bool.eq_false_iff.mp hquiet)))),
    fun k m r h => ⟨mode_of_changeMode k m, vregs_changeMode k h⟩⟩
  case start =>
    intro e
    have he : startEntry s.pkg (cxOf s) f = e := rfl
    rw [← he]
    refine ⟨fun hbad => (exec_start f s).trans (issue_late rfl h (start_misses htarget ?_)), fun h0 h12 htext hidle =>
      (exec_start f s).trans (issue_done rfl h (start_loads htarget (targetOk_iff.mpr ⟨h0, h12, htext⟩) hidle))⟩
    exact Bool.eq_false_iff.mpr (mt targetOk_iff.mp hbad)
  case pushed =>
    have hbody := (spawn_valid hvalid).trans (congrArg (spawnReleased s f r) hrel)
    exact ⟨fun hfull => (exec_spawn f s).trans (issue_done rfl h (hbody.trans (if_pos hfull))),
      fun hroom => (exec_spawn f s).trans (issue_done rfl h (hbody.trans (if_neg (Bool.eq_false_iff.mp hroom))))⟩
  case pushes => exact (exec_spawn f s).trans (issue_push rfl h ((spawn_valid hvalid).trans (congrArg (spawnReleased s f r) hrel)))
  case again =>
    have hjoin := join_again hhold hcap hovl hal hscope
    have hstands : standsOn s.cur.hold = true := by rw [hhold]; rfl
    exact joinRow_of_joinGo (fun q hq => (exec_join f s).trans (standing_done rfl h hstands (hjoin.trans hq)))
      (fun t ht => (exec_join f s).trans (standing_trap rfl h hstands (hjoin.trans ht)))
end

section
/-!
Fields of a word that is packed from a list (R2): a field holds its value, modulo its width, at the sum of the widths before it.
-/
namespace Sys2Proof.Machine

/-- Where field `i` of a packed word lies: past the fields before it. -/
def fieldLo (l : List (Nat × Nat)) (i : Nat) : Nat := ((l.take i).map (·.1)).sum

theorem packFields_div_head (f : Nat × Nat) (l : List (Nat × Nat)) : packFields (f :: l) / 2 ^ f.1 = packFields l := by
  rw [packFields_cons, Nat.mul_comm, Nat.mul_add_div (Nat.two_pow_pos _), Nat.div_eq_of_lt (Nat.mod_lt _ (Nat.two_pow_pos _)),
    Nat.add_zero]

theorem packFields_field {l : List (Nat × Nat)} {i w v : Nat} (h : l[i]? = some (w, v)) :
    packFields l / 2 ^ fieldLo l i % 2 ^ w = v % 2 ^ w := by
  induction l generalizing i with
  | nil => simp at h
  | cons x l ih =>
    cases i with
    | zero =>
      obtain rfl : x = (w, v) := Option.some.inj h
      rw [packFields_cons, show fieldLo ((w, v) :: l) 0 = 0 from rfl, Nat.pow_zero, Nat.div_one, Nat.mul_add_mod', Nat.mod_mod]
    | succ i =>
      have hlo : fieldLo (x :: l) (i + 1) = x.1 + fieldLo l i := by
        rw [fieldLo, List.take_succ_cons, List.map_cons, List.sum_cons, ← fieldLo]
      rw [hlo, Nat.pow_add, ← Nat.div_div_eq_div_mul, packFields_div_head]
      exact ih h

theorem fld_ofNat {n lo len : Nat} (h : lo + len ≤ n) (x : Nat) : fld (BitVec.ofNat n x) lo len = x / 2 ^ lo % 2 ^ len := by
  refine Nat.eq_of_testBit_eq (fun i => ?_)
  rw [testBit_fld, BitVec.getLsbD_ofNat, Nat.testBit_mod_two_pow, Nat.testBit_div_two_pow]
  by_cases hi : i < len
  · rw [decide_eq_true (show lo + i < n by omega), Bool.true_and, Nat.add_comm]
  · rw [decide_eq_false hi, Bool.false_and, Bool.false_and]

/-- Field `i` of a packed word, at the place `lo`. -/
theorem fld_packed {n lo w v : Nat} {l : List (Nat × Nat)} (i : Nat) (h : l[i]? = some (w, v)) (hlo : fieldLo l i = lo)
    (hn : lo + w ≤ n) : fld (BitVec.ofNat n (packFields l)) lo w = v % 2 ^ w := by
  rw [fld_ofNat hn, ← hlo, packFields_field h]

theorem bit_eq_fld {n : Nat} (x : BitVec n) (i : Nat) : bit x i = decide (fld x i 1 = 1) := rfl

/-- The same of a flag. -/
theorem bit_packed {n lo : Nat} {b : Bool} {l : List (Nat × Nat)} (i : Nat) (h : l[i]? = some (1, b2n b)) (hlo : fieldLo l i = lo)
    (hn : lo < n) : bit (BitVec.ofNat n (packFields l)) lo = b := by
  rw [bit_eq_fld, fld_packed i h hlo hn]
  cases b <;> rfl

theorem fieldLo_flags {n i : Nat} (g : Nat → Nat) (h : i ≤ n) : fieldLo ((List.range n).map (fun j => (1, g j))) i = i := by
  have hones : (((List.range n).map (fun j => (1, g j))).take i).map (·.1) = List.replicate i 1 := by
    rw [← List.map_take, List.map_map, List.eq_replicate_iff]
    simp [h]
  rw [fieldLo, hones, List.sum_replicate, smul_eq_mul, Nat.mul_one]

/-- A word of `n` flags. -/
theorem bit_packed_flags {m n i : Nat} (g : Nat → Bool) (hi : i < n) (hn : n ≤ m) :
    bit (BitVec.ofNat m (packFields ((List.range n).map (fun j => (1, b2n (g j)))))) i = g i :=
  bit_packed i (by simp [hi]) (fieldLo_flags _ hi.le) (by omega)

end Sys2Proof.Machine
end

section
/-!
Special registers (R300, R301, R308, R312): what CSRR reads of each, what CSRW writes of each, and the writes that trap.
-/
namespace Sys2Proof.Machine
open Sys2Proof.Claims

theorem exec_csrr (f : Fields) (s : State) : exec (.csrr f) s = issue (.csrr f) .lane0 csrr s := rfl
theorem exec_csrw (f : Fields) (s : State) : exec (.csrw f) s = issue (.csrw f) .lane0 csrw s := rfl

/-! CSRR (R301). -/

/-- The slot has an SMRG of its own in the queue, so that %SMRES is not yet written (R229). -/
theorem any_smrgq_iff {s : State} : s.part.smrgq.any (fun x => decide (x.ctx = s.cur.ctx)) = true ↔ ∃ x ∈ s.part.smrgq, x.ctx = s.cur.ctx := by
  simp only [List.any_eq_true, decide_eq_true_eq]

theorem csrr_reads {s : State} {f : Fields} (h : ¬ (csrNo f.a = 0x015 ∧ ∃ x ∈ s.part.smrgq, x.ctx = s.cur.ctx)) :
    csrr f (cxOf s) s.pkg = .done (writeD s f (csrValue s.pkg (cxOf s) (csrNo f.a))) :=
  if_neg (mt (And.imp_right any_smrgq_iff.mp) h)

theorem csrr_waits {s : State} {f : Fields} (hn : csrNo f.a = 0x015) (h : ∃ x ∈ s.part.smrgq, x.ctx = s.cur.ctx) :
    csrr f (cxOf s) s.pkg = .busy s.pkg := if_pos ⟨hn, any_smrgq_iff.mpr h⟩

/-- The row of a register is the case of `csrValue` for its number; so of CSRW below. -/
theorem csrrRow_of {n : Nat} {r : State → Word} (hn : n ≠ 0x015 := by decide)
    (hr : ∀ s : State, csrValue s.pkg (cxOf s) n = r s := by exact fun _ => rfl) : csrrRow n r := by
  intro s f h hf
  have hread := csrr_reads (s := s) (f := f) (fun hs => hn (hf.symm.trans hs.1))
  rw [exec_csrr, issue_done rfl h hread, hf, hr]

/-- %SMRES waits for the slot's older SMRG (R229). -/
theorem csrr_smres {s : State} {f : Fields} (h : runs (.csrr f) .lane0 s = true) (hn : csrNo f.a = 0x015) :
    ((∀ x ∈ s.part.smrgq, x.ctx ≠ s.cur.ctx) → exec (.csrr f) s = .next (advance s f (writeD s f s.cur.smres))) ∧
    ((∃ x ∈ s.part.smrgq, x.ctx = s.cur.ctx) → exec (.csrr f) s = .next (busyState s s.pkg)) := by
  refine ⟨fun hnone => ?_, fun hsome => ?_⟩
  · have hread := csrr_reads (s := s) (f := f) (fun ⟨_, x, hx, hctx⟩ => hnone x hx hctx)
    rw [exec_csrr, issue_done rfl h hread, hn]
    rfl
  · exact (exec_csrr f s).trans (issue_busy rfl h (csrr_waits hn hsome))

/-- The fields of %SELF (R300). -/
theorem selfWord_fields (p : Pkg) (cx : Cx) : fld (selfWord p cx) 0 12 = cx.core % 2 ^ 12 ∧
    fld (selfWord p cx) 12 10 = p.regs.pkgnum % 2 ^ 10 ∧ fld (selfWord p cx) 22 9 = asidOf (partOf p cx.core) % 2 ^ 9 ∧
    fld (selfWord p cx) 31 4 = cx.slot % 2 ^ 4 ∧ fld (selfWord p cx) 35 2 = (partOf p cx.core).mode % 4 ∧
    bit (selfWord p cx) 37 = supOf (partOf p cx.core) :=
  ⟨fld_packed 0 rfl rfl (by decide), fld_packed 1 rfl rfl (by decide), fld_packed 2 rfl rfl (by decide),
    fld_packed 3 rfl rfl (by decide), fld_packed 4 rfl rfl (by decide), bit_packed 5 rfl rfl (by decide)⟩

theorem bit_tpendWord (k : Part) {i : Nat} (h : i < 4) :
    bit (tpendWord k) i = k.pend.any (fun t => decide (t.cause = 0x20 + i)) :=
  bit_packed_flags (fun i => k.pend.any (fun t => decide (t.cause = 0x20 + i))) h (by decide)

theorem bit_joccWord (k : Part) {n : Nat} (h : n < 64) : bit (joccWord k) n = (mapFind k.journal n).isSome :=
  bit_packed_flags (fun n => (mapFind k.journal n).isSome) h le_rfl

theorem csrrRow_xdone {i : Nat} (h : i < 4) : csrrRow (0x020 + i) (fun s => BitVec.ofNat 64 (xdone s.part i % 2 ^ 48)) := by
  interval_cases i <;> exact csrrRow_of

theorem csrrRow_xlast {i : Nat} (h : i < 4) : csrrRow (0x024 + i) (fun s => mapGet 0 s.cur.xlast i) := by
  interval_cases i <;> exact csrrRow_of

theorem csrrRow_tscr {i : Nat} (h : i < 4) : csrrRow (0x104 + i) (fun s => mapGet 0 s.cur.tscr i) := by
  interval_cases i <;> exact csrrRow_of

/-! CSRW (R301). -/

theorem csrw_reserved {s : State} {f : Fields} (h : reservedSet (csrNo f.d) (s.bVal f) = true) :
    csrw f (cxOf s) s.pkg = .late (bareTrap causeIllegal (cxOf s)) := if_pos h

theorem csrw_writes {s : State} {f : Fields} (h : reservedSet (csrNo f.d) (s.bVal f) = false) :
    csrw f (cxOf s) s.pkg = .done (csrWriteTo s.pkg (cxOf s) (csrNo f.d) (s.bVal f)) := if_neg (Bool.eq_false_iff.mp h)

theorem reservedSet_iff {n : Nat} {b : Word} : reservedSet n b = true ↔ ∃ r ∈ csrReserved n, fld b r.1 r.2 ≠ 0 := by
  simp only [reservedSet, List.any_eq_true, decide_eq_true_eq]

theorem reservedSet_eq_false_iff {n : Nat} {b : Word} : reservedSet n b = false ↔ ∀ r ∈ csrReserved n, fld b r.1 r.2 = 0 := by
  rw [← Bool.not_eq_true, reservedSet_iff]
  simp only [not_exists, not_and, not_not]

theorem csrwReserved_of_mem {n lo w : Nat} (hr : (lo, w) ∈ csrReserved n := by decide) : csrwReserved n lo w := by
  intro s f h hn hset
  exact (exec_csrw f s).trans (issue_late rfl h (csrw_reserved (reservedSet_iff.mpr ⟨(lo, w), hn ▸ hr, hset⟩)))

theorem exec_csrw_writes {s : State} {f : Fields} {n : Nat} (h : runs (.csrw f) .lane0 s = true) (hn : csrNo f.d = n)
    (hset : reservedSet n (s.bVal f) = false) :
    exec (.csrw f) s = .next (advance s f (csrWriteTo s.pkg (cxOf s) n (s.bVal f))) := by
  subst hn
  exact (exec_csrw f s).trans (issue_done rfl h (csrw_writes hset))

theorem csrwSlot_of {n : Nat} {g : Word → Slot → Slot}
    (hg : ∀ (s : State) (b : Word), csrWriteTo s.pkg (cxOf s) n b = changeCur s (g b) := by exact fun _ _ => rfl) : csrwSlot n g := by
  intro s f h hn hset
  rw [exec_csrw_writes h hn hset, hg]

theorem csrwCore_of {n : Nat} {g : Word → Core → Core}
    (hg : ∀ (s : State) (b : Word), csrWriteTo s.pkg (cxOf s) n b = updCore s.pkg s.core (g b) := by exact fun _ _ => rfl) : csrwCore n g := by
  intro s f h hn hset
  rw [exec_csrw_writes h hn hset, hg]

theorem csrwSlot_tscr {i : Nat} (h : i < 4) : csrwSlot (0x104 + i) (fun b x => { x with tscr := mapPut 0 x.tscr i b }) := by
  interval_cases i <;> exact csrwSlot_of

/-- A read-only register is refused with the operand classes (R27, R301). -/
theorem exec_csrw_readOnly {s : State} {f : Fields} {n : BitVec 12} (hl : s.cur.live = true) (hh : s.cur.hold = .none)
    (hright : rightHeld s 0x163 f = true) (hd : f.d = .csr n) (hn : csrReadOnly n.toNat = true) :
    exec (.csrw f) s = .next (trapState s f (bareTrap causeOperand (cxOf s))) := by
  have hwrites : writesReadOnly 0x163 f = true := by
    rw [writesReadOnly, hd, decide_eq_true rfl, Bool.true_and]
    exact hn
  have hstate : stateOk s.part s.core s.slot 0x163 f = false := by
    simp only [stateOk, hwrites, Bool.not_true, Bool.false_and]
  exact exec_of_attempt_trap rfl hl hh (fun g body => attempt_operandRefused hright hstate) rfl

/-! The two registers whose write checks an area. Each is told from the others by its number; `rfl` would have the kernel evaluate the bounds
of the area. -/

theorem csrWriteTo_runq {n : Nat} (hn : n = 0x082) (s : State) (b : Word) :
    csrWriteTo s.pkg (cxOf s) n b = writeRunq s.pkg s.time s.core b := by
  unfold csrWriteTo
  split
  case h_8 => rfl
  case h_21 => contradiction
  all_goals omega

theorem csrWriteTo_gswctl {n : Nat} (hn : n = 0x084) (s : State) (b : Word) :
    csrWriteTo s.pkg (cxOf s) n b = writeGswctl s.pkg s.time s.core b := by
  unfold csrWriteTo
  split
  case h_10 => rfl
  case h_21 => contradiction
  all_goals omega

theorem areaOk_iff {base len : Nat} : areaOk base len = true ↔ base + len ≤ 0x6000000000 := by rw [areaOk, dramEnd, decide_eq_true_eq]

/-- %RUNQ takes a wait area that lies in device memory; another write is logged (R264, R357). -/
theorem csrw_runq {s : State} {f : Fields} (h : runs (.csrw f) .lane0 s = true) (hn : csrNo f.d = 0x082) (hset : fld (s.bVal f) 52 12 = 0) :
    (fld (s.bVal f) 16 36 * 65536 + (16 * 20480 + fld (s.bVal f) 0 16 * 64 * 32) ≤ 0x6000000000 →
      exec (.csrw f) s = .next (advance s f (updCore s.pkg s.core (fun c => { c with runq := s.bVal f })))) ∧
    (0x6000000000 < fld (s.bVal f) 16 36 * 65536 + (16 * 20480 + fld (s.bVal f) 0 16 * 64 * 32) →
      exec (.csrw f) s = .next (advance s f (logEvent s.pkg s.time 0x0050 (coreSource s.core)
        [coreReg s.core 2, (s.bVal f).toNat]))) := by
  have hreserved : csrReserved 0x082 = [(52, 12)] := rfl
  have hfree : reservedSet 0x082 (s.bVal f) = false := by
    rw [reservedSet_eq_false_iff, hreserved, List.forall_mem_singleton]
    exact hset
  rw [exec_csrw_writes h hn hfree, csrWriteTo_runq rfl, writeRunq, runqBytes]
  exact ⟨fun hfits => by rw [if_pos (areaOk_iff.mpr hfits)],
    fun hpast => by rw [if_neg (mt areaOk_iff.mp (Nat.not_le.mpr hpast))]⟩

theorem bit_of_fld_eq_zero {b : Word} {lo len i : Nat} (h : fld b lo len = 0) (hlo : lo ≤ i) (hi : i < lo + len) : bit b i = false := by
  have hbit := testBit_fld b lo len (i - lo)
  rw [h, Nat.zero_testBit, decide_eq_true (by omega), Bool.true_and, Nat.add_sub_cancel' hlo] at hbit
  rw [bit_eq_getLsbD, ← hbit]

/-- A field that is zero is not changed by being cleared. -/
theorem bit_setFld_zero {b : Word} {lo len i : Nat} (h : fld b lo len = 0) (hi : i < 64) : bit (setFld b lo len 0) i = bit b i := by
  by_cases hin : lo ≤ i ∧ i < lo + len
  · rw [bit_of_fld_eq_zero h hin.1 hin.2, bit_eq_getLsbD, getLsbD_setFld b lo len 0 hi, if_pos hin, Nat.zero_testBit]
  · exact bit_setFld_apart b hi (by omega) 0

/-- %GSWCTL but for SAVED, which is read-only (R274). -/
theorem csrw_gswctl {s : State} {f : Fields} (h : runs (.csrw f) .lane0 s = true) (hn : csrNo f.d = 0x084)
    (hlow : fld (s.bVal f) 0 12 = 0) (hhigh : fld (s.bVal f) 52 9 = 0) (hfits : fld (s.bVal f) 12 40 * 4096 + 320 * 1024 ≤ 0x6000000000) :
    ∃ v : Word, exec (.csrw f) s = .next (advance s f (updCore s.pkg s.core (fun c => { c with gswctl := v }))) ∧
      bit v 62 = bit (coreOf s.pkg s.core).gswctl 62 ∧ ∀ i < 64, i ≠ 62 → bit v i = bit (s.bVal f) i := by
  have hreserved : csrReserved 0x084 = [(0, 12), (52, 9)] := rfl
  have hfree : reservedSet 0x084 (s.bVal f) = false := by
    rw [reservedSet_eq_false_iff, hreserved, List.forall_mem_cons, List.forall_mem_singleton]
    exact ⟨hlow, hhigh⟩
  refine ⟨gswValue (coreOf s.pkg s.core).gswctl (s.bVal f), ?_, bit_setFld_b2n _ (by decide) _, fun i hi hne => ?_⟩
  · rw [exec_csrw_writes h hn hfree, csrWriteTo_gswctl rfl, writeGswctl_fits s.time s.core hfits]
  · have hlow' : fld (setFld (s.bVal f) 52 9 0) 0 12 = 0 := (fld_setFld_apart _ (by decide) (by decide) 0).trans hlow
    rw [gswValue, bit_setFld_apart _ hi (by omega), bit_setFld_zero hlow' hi, bit_setFld_zero hhigh hi]

end Sys2Proof.Machine

open Sys2Proof Sys2Proof.Claims Sys2Proof.Machine

/-- Settles O44: each register by its case of `csrValue` and of `csrWriteTo`, the traps by the list of read-only registers and by the table
of reserved bits. -/
theorem specialRegisters : Obligations.SpecialRegisters := by
  unfold Obligations.SpecialRegisters
  refine ⟨csrrRow_of, csrrRow_of, selfWord_fields, csrrRow_of, csrrRow_of, csrrRow_of, csrrRow_of, csrrRow_of, csrrRow_of,
    fun s f => csrr_smres, fun i => csrrRow_xdone, fun i => csrrRow_xlast,
    csrrRow_of, csrrRow_of, csrrRow_of, csrrRow_of, csrrRow_of, csrrRow_of, csrrRow_of, csrrRow_of, csrrRow_of,
    fun i => csrrRow_tscr, csrrRow_of, csrrRow_of, fun k i => bit_tpendWord k, csrrRow_of, fun k n => bit_joccWord k, csrrRow_of, csrrRow_of,
    fun s f n hl hh hright hd hn => exec_csrw_readOnly hl hh hright hd (List.contains_iff_mem.mpr hn), ?writes⟩
  exact ⟨csrwReserved_of_mem, csrwReserved_of_mem, csrwReserved_of_mem, csrwReserved_of_mem, csrwReserved_of_mem, csrwReserved_of_mem,
    csrwReserved_of_mem, csrwReserved_of_mem, csrwReserved_of_mem, csrwReserved_of_mem, csrwReserved_of_mem, csrwReserved_of_mem,
    csrwReserved_of_mem, csrwReserved_of_mem, csrwSlot_of, csrwSlot_of, csrwSlot_of, csrwSlot_of, csrwSlot_of, csrwSlot_of, csrwSlot_of,
    csrwSlot_of, csrwSlot_of, fun i => csrwSlot_tscr, csrwSlot_of, csrwCore_of, csrwCore_of, csrwCore_of,
    csrwCore_of, fun s f => csrw_runq, fun s f => csrw_gswctl⟩
end

section
/-!
TLBINV, KEYSET and KEYKILL (R302 to R304).
-/
namespace Sys2Proof.Machine
open Sys2Proof.Claims

theorem exec_tlbinv (f : Fields) (s : State) : exec (.tlbinv f) s = issue (.tlbinv f) .lane0 tlbinv s := rfl
theorem exec_keyset (f : Fields) (s : State) : exec (.keyset f) s = issue (.keyset f) .lane0 keyset s := rfl
theorem exec_keykill (f : Fields) (s : State) : exec (.keykill f) s = issue (.keykill f) .lane0 keykill s := rfl

/-! Translations dropped (R302). -/

/-- A translation that stays in a TLB is not of the address spaces and addresses named. -/
theorem mem_tlb_dropXlats {p : Pkg} {asids : Nat → Bool} {allVa : Bool} {va : Nat} {e : Nat × Core} {x : Xlat}
    (he : e ∈ (dropXlats p asids allVa va).cores) (hx : x ∈ e.2.tlb) (hasid : asids x.asid = true) :
    allVa = false ∧ ¬ (x.va ≤ va ∧ va < x.va + x.size) := by
  obtain ⟨e, -, rfl⟩ := List.mem_map.mp he
  have hkept := (List.mem_filter.mp hx).2
  rw [hasid, Bool.true_and, Bool.not_eq_true', Bool.or_eq_false_iff, Bool.and_eq_false_iff] at hkept
  obtain ⟨hall, hout⟩ := hkept
  exact ⟨hall, fun ⟨hlo, hhi⟩ => hout.elim (fun h => of_decide_eq_false h hlo) (fun h => of_decide_eq_false h hhi)⟩

/-- Where every address is named, no copy of an ASID-table entry stays. -/
theorem mem_asids_dropXlats {p : Pkg} {asids : Nat → Bool} {va : Nat} {e : Nat × Cluster} {x : Nat × BitVec 256}
    (he : e ∈ (dropXlats p asids true va).clusters) (hx : x ∈ e.2.asids) : asids x.1 = false := by
  obtain ⟨e, -, rfl⟩ := List.mem_map.mp he
  exact (Bool.not_eq_true' _).mp (List.mem_filter.mp hx).2

/-! KEYSET (R303). -/

section
variable {s : State} {f : Fields}

theorem keyset_unaligned (h : fld (s.bVal f) 0 17 % 64 ≠ 0) : keyset f (cxOf s) s.pkg = .trap (alignTrap (fld (s.bVal f) 0 17)) := if_pos h

variable (hal : fld (s.bVal f) 0 17 % 64 = 0)
include hal

theorem keyset_full (hfull : keyFull s.pkg (fld (s.aVal f) 0 9) = true) :
    keyset f (cxOf s) s.pkg = .late (bareTrap causeAttribute (cxOf s)) := (if_neg (not_not_intro hal)).trans (if_pos hfull)

/-- The package once the 64 bytes at `off` are zero and their value is the key of slot `n`. -/
def keyedFrom (s : State) (n off : Nat) : Pkg :=
  { updPart s.pkg s.core (fun k => scrWrite k s.time off (leBytes 64 0)) with
    keys := mapInsert s.pkg.keys n (BitVec.ofNat 512 (scrNat s.part off 32 * 2 ^ 256 + scrNat s.part (off + 32) 32)) }

/-- With the slot empty and the 64 bytes clear and without error, the two halves of the key decide. -/
theorem keyset_reads (hempty : keyFull s.pkg (fld (s.aVal f) 0 9) = false)
    (hclear : scrClear s.part [(fld (s.bVal f) 0 17, fld (s.bVal f) 0 17 + 64)] [(fld (s.bVal f) 0 17, fld (s.bVal f) 0 17 + 64)] = true)
    (hwords : s.part.badWords = []) : keyset f (cxOf s) s.pkg =
      if scrNat s.part (fld (s.bVal f) 0 17) 32 = scrNat s.part (fld (s.bVal f) 0 17 + 32) 32 then .late (bareTrap causeAttribute (cxOf s))
      else .done (keyedFrom s (fld (s.aVal f) 0 9) (fld (s.bVal f) 0 17)) := by
  refine (if_neg (not_not_intro hal)).trans ((if_neg (Bool.eq_false_iff.mp hempty)).trans ((if_neg (Bool.not_eq_false _ ▸ hclear)).trans ?_))
  split
  case h_1 w hbad => exact nomatch (spansBad_none hwords _).symm.trans hbad
  case h_2 =>
    refine if_congr Iff.rfl rfl (congrArg Eff.done ?_)
    simp only [keyedFrom, State.aVal, State.bVal, State.cur, State.part, cxOf_core, cxOf_slot, cxOf_now, updPart, setPart_keys]

end

/-! KEYKILL (R304). -/

theorem keykill_empty {s : State} {f : Fields} (h : keyFull s.pkg (fld (s.aVal f) 0 9) = false) :
    keykill f (cxOf s) s.pkg = .done (dropXlats s.pkg (fun a => decide (a = fld (s.aVal f) 0 9)) true 0) := if_pos h

/-- The package once what is held under the tag `n`, and its key, are discarded. -/
def keyDiscarded (p : Pkg) (n : Nat) : Pkg :=
  { p with
    insts := p.insts.map (fun e => (e.1, purgeInst n e.2))
    portWrites := p.portWrites.filter (fun w => decide (keyTag w.key ≠ n))
    orphans := p.orphans.map (fun o => (o.1, o.2.1, purgeHold n o.2.2))
    cores := p.cores.map (fun e => (e.1, { e.2 with part := purgePart n e.2.part }))
    keys := mapErase p.keys n
    keyGen := mapPut 0 p.keyGen n (mapGet 0 p.keyGen n + 1) }

theorem keykill_discards {s : State} {f : Fields} (hfull : keyFull s.pkg (fld (s.aVal f) 0 9) = true)
    (hnone : faultsOfTag s.pkg (fld (s.aVal f) 0 9) = []) : keykill f (cxOf s) s.pkg =
      .done (keyDiscarded (dropXlats s.pkg (fun a => decide (a = fld (s.aVal f) 0 9)) true 0) (fld (s.aVal f) 0 9)) := by
  let p1 := dropXlats s.pkg (fun a => decide (a = fld (s.aVal f) 0 9)) true 0
  have hfull' : ¬ keyFull p1 (fld (s.aVal f) 0 9) = false := Bool.not_eq_false _ ▸ hfull
  refine (if_neg hfull').trans ?_
  exact congrArg (fun l : List MergeFault => Eff.done (l.foldl (fun q m => withdrawMf (dequeueFault q s.time m) m.u.core)
    (keyDiscarded p1 (fld (s.aVal f) 0 9)))) hnone

/-- A level place keeps the records and the copies of other tags, and its horizons; a stall on one that it loses ends. -/
theorem fields_purgeInst (n : Nat) (i : Inst) : (purgeInst n i).run = i.run.filter (fun e => decide (keyTag e.1 ≠ n)) ∧
    (purgeInst n i).copies = i.copies.filter (fun e => decide (e.1 % 1024 ≠ n)) ∧ (purgeInst n i).horizons = i.horizons := by
  cases hstall : i.stall with
  | none => simp only [purgeInst, hstall, and_self]
  | some st =>
    simp only [purgeInst, hstall]
    split <;> exact ⟨rfl, rfl, rfl⟩

theorem purgeInst_row (n : Nat) (i : Inst) : (∀ e ∈ (purgeInst n i).run, keyTag e.1 ≠ n) ∧
    (∀ e ∈ (purgeInst n i).copies, e.1 % 1024 ≠ n) ∧ (∀ k : Nat, keyTag k ≠ n → chainOf (purgeInst n i) k = chainOf i k) ∧
    (purgeInst n i).horizons = i.horizons := by
  obtain ⟨hrun, hcopies, hhorizons⟩ := fields_purgeInst n i
  rw [hrun, hcopies]
  refine ⟨fun e he => of_decide_eq_true (List.mem_filter.mp he).2, fun e he => of_decide_eq_true (List.mem_filter.mp he).2,
    fun k hk => ?_, hhorizons⟩
  have hfind := mapFind_filter_keys i.run (fun j => decide (keyTag j ≠ n)) k
  rw [if_pos (decide_eq_true hk)] at hfind
  rw [chainOf, hrun, mapGet, hfind, chainOf, mapGet]

end Sys2Proof.Machine

open Sys2Proof.Claims Sys2Proof.Machine

/-- Settles O45: what stays after a drop by membership, KEYSET by its checks in their order, KEYKILL by whether its slot is full. -/
theorem supervisorInstructions : Obligations.SupervisorInstructions := by
  unfold Obligations.SupervisorInstructions
  refine ⟨fun s f h _ => (exec_tlbinv f s).trans (issue_done rfl h rfl),
    fun p asids allVa va e he x hx hasid => mem_tlb_dropXlats he hx hasid, fun p asids va e he x hx => mem_asids_dropXlats he hx,
    fun p asids allVa va => ⟨rfl, rfl, rfl⟩,
    fun s f t h ⟨hal, ht⟩ => ht ▸ (exec_keyset f s).trans (issue_trap rfl h (keyset_unaligned hal)),
    fun s f t h ⟨hal, hfull, ht⟩ => ht ▸ (exec_keyset f s).trans (issue_late rfl h (keyset_full hal hfull)),
    fun s f off h hoff hal hempty hclear hwords => ?keys,
    fun s f h hempty => (exec_keykill f s).trans (issue_done rfl h (keykill_empty hempty)),
    fun s f h ⟨hfull, hnone⟩ => (exec_keykill f s).trans (issue_done rfl h (keykill_discards hfull hnone)), purgeInst_row⟩
  subst hoff
  have hreads := keyset_reads hal hempty hclear hwords
  exact ⟨fun hsame => (exec_keyset f s).trans (issue_late rfl h (hreads.trans (if_pos hsame))),
    fun hdiffer => ⟨keyedFrom s _ _, (exec_keyset f s).trans (issue_done rfl h (hreads.trans (if_neg hdiffer))), rfl,
      mapFind_insert_self _ _ _, fun m hm => mapFind_insert_other _ _ hm⟩⟩
end

section
/-!
Taking a trap (R307 to R313): the handler's entry, the trap registers, and the asynchronous traps that wait for the control context.
-/
namespace Sys2Proof.Machine
open Sys2Proof.Claims

/-! Handler entry (R309). -/

/-- The slot of a handler that begins: the trap registers, the vector, and what abandoning the instruction clears. -/
def enteredSlot (k : Part) (x : Slot) (t : Trap) : Slot :=
  { x with
    tcause := tcauseWord t, tpc := BitVec.ofNat 64 (trapPc x), tval := t.tval, tinfo := t.tinfo, tbody := trapBody x t
    handler := true, hcause := t.cause, pc := fld k.tvec 0 32, hold := .none, cap := none, region := none, walkFault := none }

theorem slotOf_enterHandler_self (k : Part) (n : Nat) (t : Trap) : slotOf (enterHandler k n t) n = enteredSlot k (slotOf k n) t :=
  slotOf_setSlot_self _ _ (fun h => Bool.noConfusion (show true = false from congrArg Slot.handler h))

theorem slotOf_enterHandler_other (k : Part) {n m : Nat} (t : Trap) (h : m ≠ n) : slotOf (enterHandler k n t) m = slotOf k m :=
  slotOf_setSlot_other _ _ h

theorem trapPc_region {x : Slot} {r : Region} (h : x.region = some r) : trapPc x = r.arbPc := by rw [trapPc, h]
theorem trapPc_noRegion {x : Slot} (h : x.region = none) : trapPc x = x.pc := by rw [trapPc, h]
theorem trapBody_noRegion {x : Slot} (t : Trap) (h : x.region = none) : trapBody x t = 0 := by rw [trapBody, h]

/-- %TBODY of a trap at a body instruction as it is recorded: bit 63, and its offset (R312). -/
theorem trapBody_recorded {x : Slot} {r : Region} {t : Trap} (h : x.region = some r) (ht : t.body = none) (hpc : x.pc < 2 ^ 32) :
    bit (trapBody x t) 63 = true ∧ fld (trapBody x t) 0 32 = x.pc := by
  have hnat : (trapBody x t).toNat = 2 ^ 63 + x.pc := by
    rw [trapBody, h, ht, BitVec.toNat_ofNat, Nat.mod_eq_of_lt (by omega)]
  refine ⟨?_, ?_⟩
  · rw [bit_eq_div_mod, hnat, decide_eq_true_eq]
    omega
  · rw [fld_eq_div_mod, hnat]
    omega

/-- The fields of %TCAUSE (R313). -/
theorem tcauseWord_fields (t : Trap) : fld (tcauseWord t) 0 8 = t.cause % 256 ∧ fld (tcauseWord t) 8 6 = t.jent % 64 ∧
    bit (tcauseWord t) 14 = decide (0x20 ≤ t.cause ∧ t.cause ≤ 0x23) ∧ bit (tcauseWord t) 15 = t.jv ∧
    fld (tcauseWord t) 16 8 = t.sub % 256 ∧ fld (tcauseWord t) 24 40 = 0 := by
  refine ⟨fld_packed 0 rfl rfl (by decide), fld_packed 1 rfl rfl (by decide), bit_packed 2 rfl rfl (by decide),
    bit_packed 3 rfl rfl (by decide), fld_packed 4 rfl rfl (by decide), ?_⟩
  rw [tcauseWord, fld_ofNat (by decide)]
  simp only [packFields_cons, packFields_nil]
  omega

theorem vectorOk_iff {v : Word} {text : Nat} : vectorOk v text = true ↔ bit v 63 = true ∧ fld v 0 32 % 12 = 0 ∧ fld v 0 32 < text := by
  simp only [vectorOk, Bool.and_eq_true, decide_eq_true_eq, and_assoc]

/-! The pending trap that is taken first (R310). -/

/-- Of a trap and a younger one, the one that is taken first. -/
def takenFirst (b x : Trap) : Trap := if x.cause < b.cause then x else b

/-- Before the trap taken first stand traps of higher causes only, behind it none of a lower cause. -/
theorem foldl_takenFirst_splits (t : Trap) (rest : List Trap) : ∃ l m : List Trap, t :: rest = l ++ rest.foldl takenFirst t :: m ∧
    (∀ x ∈ l, (rest.foldl takenFirst t).cause < x.cause) ∧ (∀ x ∈ m, (rest.foldl takenFirst t).cause ≤ x.cause) := by
  induction rest generalizing t with
  | nil => exact ⟨[], [], rfl, List.forall_mem_nil _, List.forall_mem_nil _⟩
  | cons y rest ih =>
    rw [List.foldl_cons]
    by_cases hy : y.cause < t.cause
    · rw [takenFirst, if_pos hy]
      obtain ⟨l, m, hsplit, hl, hm⟩ := ih y
      have hle : (rest.foldl takenFirst y).cause ≤ y.cause := by
        have hmem : y ∈ l ++ rest.foldl takenFirst y :: m := hsplit ▸ List.mem_cons_self
        rcases List.mem_append.mp hmem with h | h
        · exact (hl y h).le
        · rcases List.mem_cons.mp h with h | h
          · exact h ▸ le_rfl
          · exact hm y h
      exact ⟨t :: l, m, congrArg (t :: ·) hsplit, List.forall_mem_cons.mpr ⟨hle.trans_lt hy, hl⟩, hm⟩
    · rw [takenFirst, if_neg hy]
      obtain ⟨l, m, hsplit, hl, hm⟩ := ih t
      cases l with
      | nil =>
        obtain ⟨hhead, htail⟩ := List.cons.inj hsplit
        exact ⟨[], y :: m, by rw [List.nil_append, ← hhead, htail], hl,
          List.forall_mem_cons.mpr ⟨hhead ▸ Nat.not_lt.mp hy, hm⟩⟩
      | cons u l =>
        obtain ⟨rfl, htail⟩ := List.cons.inj hsplit
        obtain ⟨ht, hl⟩ := List.forall_mem_cons.mp hl
        exact ⟨t :: y :: l, m, congrArg (fun z => t :: y :: z) htail,
          List.forall_mem_cons.mpr ⟨ht, List.forall_mem_cons.mpr ⟨ht.trans_le (Nat.not_lt.mp hy), hl⟩⟩, hm⟩

theorem firstPending_splits {l : List Trap} {t : Trap} (h : firstPending l = some t) :
    ∃ l₁ l₂ : List Trap, l = l₁ ++ t :: l₂ ∧ (∀ x ∈ l₁, t.cause < x.cause) ∧ (∀ x ∈ l₂, t.cause ≤ x.cause) := by
  cases l with
  | nil => exact absurd h (by simp [firstPending])
  | cons y rest =>
    obtain rfl : rest.foldl takenFirst y = t := Option.some.inj h
    exact foldl_takenFirst_splits y rest

/-! ASYNC_TRAP_TAKE (R310). -/

theorem eventTo_asyncTrapTake (s : State) (c : Nat) : eventTo (.asyncTrapTake c) s (asyncTake s.pkg s.time c) := rfl

theorem asyncTake_notReady {p : Pkg} {now c : Nat} (h : asyncReady (partOf p c) 0 = false) : asyncTake p now c = p :=
  if_neg (by rw [h, Bool.and_false]; decide)

theorem takeAsync_first {p : Pkg} {now c : Nat} {t : Trap} (h : firstPending (partOf p c).pend = some t) : takeAsync p now c =
    takeTrap (setPart p c { partOf p c with pend := (partOf p c).pend.erase t }) now c 0
      (if t.cause = 0x22 then { t with tinfo := BitVec.ofNat 64 (coreOf p c).mfq.length } else t) := by
  have h' : firstPending (coreOf p c).part.pend = some t := h
  simp only [takeAsync, h']
  rfl

theorem asyncTake_ready {p : Pkg} {now c : Nat} (hs : selects (coreOf p c) = true) (ha : asyncReady (partOf p c) 0 = true) :
    asyncTake p now c = takeAsync p now c := if_pos (by rw [hs, ha]; rfl)

theorem asyncReady_iff (k : Part) : asyncReady k 0 = true ↔ (slotOf k 0).live = true ∧ (slotOf k 0).kind = .control ∧ k.pend ≠ [] ∧
    (slotOf k 0).handler = false ∧ abandonable (slotOf k 0).hold = true := by
  simp only [asyncReady, controlLive, Bool.and_eq_true, decide_eq_true_eq, true_and, Bool.not_eq_true', and_assoc]

end Sys2Proof.Machine

open Sys2Proof.Claims Sys2Proof.Machine

/-- Settles O43: the entry by the slot of the handler, its ends by the laws of `takeTrap`, the trap taken first by where it splits the
pending ones. -/
theorem trapEntry : Obligations.TrapEntry := by
  unfold Obligations.TrapEntry
  refine ⟨fun p now c n t hhandler hkind => ⟨fun hvector => ⟨_, takeTrap_enters hhandler hkind hvector, ?entered⟩,
      takeTrap_ends hhandler hkind⟩,
    fun p now c n t => takeTrap_nested, tcauseWord_fields, fun v text => vectorOk_iff,
    fun s c t hs ha ht => ⟨firstPending_splits ht,
      eventTo_congr ((asyncTake_ready hs ha).trans (takeAsync_first ht)) (eventTo_asyncTrapTake s c)⟩,
    fun s c h => eventTo_congr (asyncTake_notReady h) (eventTo_asyncTrapTake s c), asyncReady_iff⟩
  rw [slotOf_enterHandler_self]
  exact ⟨rfl, rfl, rfl, rfl, rfl,
    fun hnone => ⟨congrArg (BitVec.ofNat 64) (trapPc_noRegion hnone), trapBody_noRegion t hnone⟩,
    fun r hr => ⟨congrArg (BitVec.ofNat 64) (trapPc_region hr), trapBody_recorded hr⟩,
    rfl, rfl, rfl, rfl, rfl, rfl, rfl, rfl, rfl, rfl, rfl, rfl, rfl, rfl, rfl, fun m hm => slotOf_enterHandler_other _ t hm⟩
end

section
/-!
Merge faults and the journal (R317, R319, R320, R323, R324): MFAULT, MRES, SJREAD and SJCLR.
-/
namespace Sys2Proof.Machine
open Sys2Proof.Claims

theorem exec_mfault (f : Fields) (s : State) : exec (.mfault f) s = issue (.mfault f) .lanes mfault s := rfl
theorem exec_mres (f : Fields) (s : State) : exec (.mres f) s = issue (.mres f) .lane0 mres s := rfl
theorem exec_sjread (f : Fields) (s : State) : exec (.sjread f) s = issue (.sjread f) .lanes sjread s := rfl
theorem exec_sjclr (f : Fields) (s : State) : exec (.sjclr f) s = issue (.sjclr f) .lane0 sjclr s := rfl

theorem not_mayRead_iff {s : State} {asid : Nat} : ¬ mayRead s asid ↔ supOf s.part = false ∧ asid ≠ asidOf s.part := by
  rw [mayRead, not_or, Bool.not_eq_true]

/-! MFAULT (R323). -/

theorem mem_mfSeen (c : Core) (m : MergeFault) : m ∈ mfSeen c ↔ m ∈ c.mfq ∧ (supOf c.part = true ∨ m.u.asid = asidOf c.part) := by
  rw [mfSeen]
  split
  · next hsup => simp only [hsup, true_or, and_true]
  · next hsup => simp only [hsup, List.mem_filter, decide_eq_true_eq, Bool.false_eq_true, false_or]

/-- What MFAULT delivers of the faults seen: the oldest, and how many they are. -/
def oldestImage (l : List MergeFault) : VReg :=
  match l with
  | [] => 0
  | m :: rest => mfaultImage m (rest.length + 1)

theorem mfault_delivers (s : State) (f : Fields) : mfault f (cxOf s) s.pkg =
    .done (writeVec s.pkg s.core s.slot (lanesOf s f) (oldestImage (mfSeen (coreOf s.pkg s.core))) f.d) := by
  unfold mfault
  rw [cxOf_core]
  cases mfSeen (coreOf s.pkg s.core) <;> rfl

theorem mod_eq_of_packed_head {l : List (Nat × Nat)} {len v : Nat} (h : l[0]? = some (len, v)) : packFields l % 2 ^ len = v % 2 ^ len := by
  simpa [fieldLo] using packFields_field h

/-- Bits below `len` go by the remainder modulo `2 ^ len`. -/
theorem div_mod_congr {x y len lo w : Nat} (h : x % 2 ^ len = y % 2 ^ len) (hle : lo + w ≤ len) :
    x / 2 ^ lo % 2 ^ w = y / 2 ^ lo % 2 ^ w := by
  refine Nat.eq_of_testBit_eq (fun i => ?_)
  have hbit := congrArg (fun z => Nat.testBit z (i + lo)) h
  simp only [Nat.testBit_mod_two_pow] at hbit
  rw [Nat.testBit_mod_two_pow, Nat.testBit_mod_two_pow, Nat.testBit_div_two_pow, Nat.testBit_div_two_pow]
  by_cases hi : i < w
  · rw [decide_eq_true (show i + lo < len by omega), Bool.true_and, Bool.true_and] at hbit
    rw [hbit]
  · rw [decide_eq_false hi, Bool.false_and, Bool.false_and]

/-- A field of the packed word that is the lowest field of another. -/
theorem fld_packed_inner {n len lo w v : Nat} {l inner : List (Nat × Nat)} (i : Nat) (hl : l[0]? = some (len, packFields inner))
    (h : inner[i]? = some (w, v)) (hlo : fieldLo inner i = lo) (hle : lo + w ≤ len) (hn : len ≤ n) :
    fld (BitVec.ofNat n (packFields l)) lo w = v % 2 ^ w := by
  rw [fld_ofNat (hle.trans hn), div_mod_congr (mod_eq_of_packed_head hl) hle, ← hlo, packFields_field h]

/-- The fields of what MFAULT delivers (R323). -/
theorem mfaultImage_fields (m : MergeFault) (n : Nat) : fld (mfaultImage m n) 0 256 = m.u.payload.toNat ∧
    fld (mfaultImage m n) 256 32 = m.u.mask.toNat ∧ fld (mfaultImage m n) 512 256 = m.dest.toNat ∧
    fld (mfaultImage m n) 768 32 = m.fid.toNat ∧ fld (mfaultImage m n) 800 2 = m.lvl % 4 ∧ bit (mfaultImage m n) 802 = m.mc ∧
    fld (mfaultImage m n) 803 12 = m.inst % 4096 ∧ fld (mfaultImage m n) 832 5 = n % 32 := by
  rw [← m.u.payload.toNat_mod_cancel, ← m.u.mask.toNat_mod_cancel, ← m.dest.toNat_mod_cancel, ← m.fid.toNat_mod_cancel]
  exact ⟨fld_packed_inner 0 rfl rfl rfl (by decide) (by decide), fld_packed_inner 1 rfl rfl rfl (by decide) (by decide),
    fld_packed 1 rfl rfl (by decide), fld_packed 2 rfl rfl (by decide), fld_packed 3 rfl rfl (by decide),
    bit_packed 4 rfl rfl (by decide), fld_packed 5 rfl rfl (by decide), fld_packed 7 rfl rfl (by decide)⟩

/-! MRES (R324). -/

section
variable {s : State} {f : Fields}

theorem mres_unknown (h : faultByFid s.pkg (fld (s.aVal f) 0 32) = none) : mres f (cxOf s) s.pkg = .done (popSources s.pkg s.core f) := by
  simp only [State.aVal, State.cur, State.part] at h
  simp only [mres, cxOf_core, cxOf_slot, h]

/-- The mode that is carried out: QUIET of a machine check drops the record. -/
def mresMode (f : Fields) (m : MergeFault) : Nat := if m.mc ∧ fld f.md 0 2 = 1 then 0 else fld f.md 0 2

theorem mres_known {m : MergeFault} (h : faultByFid s.pkg (fld (s.aVal f) 0 32) = some m) : mres f (cxOf s) s.pkg =
    if supOf s.part = false ∧ m.u.asid ≠ asidOf s.part then .done (popSources s.pkg s.core f)
    else .done (resolved s f m (resolveChain (mresMode f m) m.u ((vB s f).truncate 256))) := by
  simp only [State.aVal, State.cur, State.part] at h
  simp only [mres, cxOf_core, cxOf_slot, h]
  rfl

/-- MRES has no effect where its context may see no fault of that number. -/
theorem mres_nothing (h : ∀ m, faultByFid s.pkg (fld (s.aVal f) 0 32) = some m → ¬ mayRead s m.u.asid) :
    mres f (cxOf s) s.pkg = .done (popSources s.pkg s.core f) := by
  cases hfault : faultByFid s.pkg (fld (s.aVal f) 0 32) with
  | none => exact mres_unknown hfault
  | some m => exact (mres_known hfault).trans (if_pos (not_mayRead_iff.mp (h m hfault)))

theorem mresMode_of_not_quiet {m : MergeFault} (h : m.mc = false ∨ fld f.md 0 2 ≠ 1) : mresMode f m = fld f.md 0 2 :=
  if_neg (fun ⟨hmc, hquiet⟩ => h.elim (fun hno => Bool.eq_false_iff.mp hno hmc) (fun hne => hne hquiet))

theorem mresMode_drop {m : MergeFault} (h : fld f.md 0 2 = 0 ∨ (m.mc = true ∧ fld f.md 0 2 = 1)) : mresMode f m = 0 :=
  h.elim (fun hdrop => (mresMode_of_not_quiet (.inr (by omega))).trans hdrop) (fun hcheck => if_pos hcheck)

theorem resolveChain_drop (u : Rec) (v : Granule) : resolveChain 0 u v = fun c => c.erase u := rfl
theorem resolveChain_quiet (u : Rec) (v : Granule) :
    resolveChain 1 u v = fun c => c.map (fun r => if r = u then { r with quiet := true } else r) := rfl
theorem resolveChain_replace (u : Rec) (v : Granule) :
    resolveChain 2 u v = fun c => c.map (fun r => if r = u then { r with payload := v, bad := false } else r) := rfl

/-- What an MRES makes of the fault that it names, by its mode. -/
theorem mres_row {m : MergeFault} (h : runs (.mres f) .lane0 s = true) (hfault : faultByFid s.pkg (fld (s.aVal f) 0 32) = some m)
    (hmay : mayRead s m.u.asid) :
    (fld f.md 0 2 = 0 ∨ (m.mc = true ∧ fld f.md 0 2 = 1) →
      exec (.mres f) s = .next (advance s f (resolved s f m (fun c => c.erase m.u)))) ∧
    (fld f.md 0 2 = 1 → m.mc = false → exec (.mres f) s = .next (advance s f (resolved s f m (fun c =>
      c.map (fun r => if r = m.u then { r with quiet := true } else r))))) ∧
    (fld f.md 0 2 = 2 → exec (.mres f) s = .next (advance s f (resolved s f m (fun c =>
      c.map (fun r => if r = m.u then { r with payload := (vB s f).truncate 256, bad := false } else r))))) := by
  have hexec := (exec_mres f s).trans (issue_done rfl h
    ((mres_known hfault).trans (if_neg (mt not_mayRead_iff.mpr (not_not_intro hmay)))))
  rw [hexec]
  refine ⟨fun hdrop => ?_, fun hquiet hmc => ?_, fun hreplace => ?_⟩
  · rw [mresMode_drop hdrop, resolveChain_drop]
  · rw [mresMode_of_not_quiet (.inl hmc), hquiet, resolveChain_quiet]
  · rw [mresMode_of_not_quiet (.inr (by omega)), hreplace, resolveChain_replace]

/-! SJREAD (R319). -/

theorem sjread_free (h : mapFind s.part.journal (fld (s.aVal f) 0 6) = none) :
    sjread f (cxOf s) s.pkg = .done (writeVec s.pkg s.core s.slot (lanesOf s f) 0 f.d) := by
  simp only [State.aVal, State.cur, State.part] at h
  simp only [sjread, cxOf_core, cxOf_slot, h]
  rfl

theorem sjread_entry {e : JEntry} (h : namedEntry s f e) : sjread f (cxOf s) s.pkg =
    .done (writeVec s.pkg s.core s.slot (lanesOf s f) (if supOf s.part || decide (e.asid = asidOf s.part) then
      BitVec.ofNat 1024 (entryImage e + e.ioff % 2 ^ 32 * 2 ^ 128) else 0) f.d) := by
  simp only [namedEntry, State.aVal, State.cur, State.part] at h
  simp only [sjread, cxOf_core, cxOf_slot, h]
  rfl

theorem mayRead_iff {asid : Nat} : mayRead s asid ↔ (supOf s.part || decide (asid = asidOf s.part)) = true := by
  rw [mayRead, Bool.or_eq_true, decide_eq_true_eq]

theorem sjread_seen {e : JEntry} (h : namedEntry s f e) (hmay : mayRead s e.asid) : sjread f (cxOf s) s.pkg =
    .done (writeVec s.pkg s.core s.slot (lanesOf s f) (BitVec.ofNat 1024 (entryImage e + e.ioff % 2 ^ 32 * 2 ^ 128)) f.d) := by
  rw [sjread_entry h, if_pos (mayRead_iff.mp hmay)]

/-- A free entry, and one of another address space, read as zero. -/
theorem sjread_unseen (h : ∀ e, namedEntry s f e → ¬ mayRead s e.asid) :
    sjread f (cxOf s) s.pkg = .done (writeVec s.pkg s.core s.slot (lanesOf s f) 0 f.d) := by
  cases hfind : mapFind s.part.journal (fld (s.aVal f) 0 6) with
  | none => exact sjread_free hfind
  | some e => rw [sjread_entry hfind, if_neg (mt mayRead_iff.mpr (h e hfind))]

/-- The fields of an entry's image (R317). -/
theorem entryImage_fields (e : JEntry) : let v : BitVec 128 := BitVec.ofNat 128 (entryImage e)
    fld v 0 32 = e.seq.toNat ∧ fld v 32 6 = e.cause % 64 ∧ fld v 38 3 = e.status % 8 ∧ fld v 41 3 = e.kind % 8 ∧
    fld v 44 22 = e.ioff / 12 % 2 ^ 22 ∧ fld v 66 4 = e.slot % 16 ∧ fld v 70 8 = e.team % 256 ∧ fld v 78 9 = e.asid % 512 ∧
    fld v 87 41 = e.addr % 2 ^ 41 := by
  rw [← e.seq.toNat_mod_cancel]
  exact ⟨fld_packed 0 rfl rfl (by decide), fld_packed 1 rfl rfl (by decide), fld_packed 2 rfl rfl (by decide),
    fld_packed 3 rfl rfl (by decide), fld_packed 4 rfl rfl (by decide), fld_packed 5 rfl rfl (by decide),
    fld_packed 6 rfl rfl (by decide), fld_packed 7 rfl rfl (by decide), fld_packed 8 rfl rfl (by decide)⟩

/-! SJCLR (R320). -/

theorem sjclr_free (h : mapFind s.part.journal (fld (s.aVal f) 0 6) = none) : sjclr f (cxOf s) s.pkg = .done s.pkg := by
  simp only [State.aVal, State.cur, State.part] at h
  simp only [sjclr, cxOf_core, cxOf_slot, h]

/-- The package without the entry that SJCLR names. -/
def entryFreed (s : State) (f : Fields) : Pkg := setPart s.pkg s.core (jErase s.part (fld (s.aVal f) 0 6))

variable {e : JEntry} (h : namedEntry s f e)
include h

theorem sjclr_entry : sjclr f (cxOf s) s.pkg =
    if supOf s.part = false ∧ e.asid ≠ asidOf s.part then .done s.pkg
    else if e.status = 5 then .done (entryFreed s f)
    else if e.status = 3 ∨ e.status = 4 then
      if bit (s.aVal f) 8 then .done (reissue s.pkg (cxOf s) (fld (s.aVal f) 0 6) e) else .done (entryFreed s f)
    else .done s.pkg := by
  simp only [namedEntry, State.aVal, State.cur, State.part] at h
  simp only [sjclr, cxOf_core, cxOf_slot, h]
  rfl

theorem sjclr_unseen (hmay : ¬ mayRead s e.asid) : sjclr f (cxOf s) s.pkg = .done s.pkg :=
  (sjclr_entry h).trans (if_pos (not_mayRead_iff.mp hmay))

variable (hmay : mayRead s e.asid)
include hmay

theorem sjclr_seen : sjclr f (cxOf s) s.pkg =
    if e.status = 5 then .done (entryFreed s f)
    else if e.status = 3 ∨ e.status = 4 then
      if bit (s.aVal f) 8 then .done (reissue s.pkg (cxOf s) (fld (s.aVal f) 0 6) e) else .done (entryFreed s f)
    else .done s.pkg := (sjclr_entry h).trans (if_neg (mt not_mayRead_iff.mpr (not_not_intro hmay)))

theorem sjclr_frees (hst : e.status = 5 ∨ ((e.status = 3 ∨ e.status = 4) ∧ bit (s.aVal f) 8 = false)) :
    sjclr f (cxOf s) s.pkg = .done (entryFreed s f) := by
  rw [sjclr_seen h hmay]
  rcases hst with hdone | ⟨hfailed, hclear⟩
  · exact if_pos hdone
  · exact (if_neg (by omega)).trans ((if_pos hfailed).trans (if_neg (Bool.eq_false_iff.mp hclear)))

/-- An entry on its way stays. -/
theorem sjclr_pending (hst : e.status = 1 ∨ e.status = 2) : sjclr f (cxOf s) s.pkg = .done s.pkg := by
  rw [sjclr_seen h hmay, if_neg (by omega), if_neg (by omega)]

theorem sjclr_reissues (hst : e.status = 3 ∨ e.status = 4) (hbit : bit (s.aVal f) 8 = true) :
    sjclr f (cxOf s) s.pkg = .done (reissue s.pkg (cxOf s) (fld (s.aVal f) 0 6) e) := by
  rw [sjclr_seen h hmay, if_neg (by omega), if_pos hst, if_pos hbit]

end

/-- A message within the package goes out again; a remote STSF has a new deadline (R205, R320). -/
theorem reissue_msg {p : Pkg} {e : JEntry} {dst : Nat} {b : MsgBody} (cx : Cx) (n : Nat) (he : e.body = .msg dst p.regs.pkgnum b) :
    reissue p cx n e = send (setPart p cx.core (jPut (partOf p cx.core) n { e with
      status := 2
      cause := 0
      code := 0
      body := .msg dst p.regs.pkgnum (resent p cx p.regs.pkgnum b) })) cx.core dst e.asid (resent p cx p.regs.pkgnum b) := by
  have hreach : reachable p p.regs.pkgnum = true := by rw [reachable, decide_eq_true rfl, Bool.true_or]
  simp only [reissue, he]
  exact (if_pos hreach).trans (if_pos rfl)

/-- A store takes new posting numbers and walks for its first granule again (R320). -/
theorem reissue_store {p : Pkg} {e : JEntry} {ps : List Piece} {q : Piece} {opr ty : Nat} {x : Bool} (cx : Cx) (n : Nat)
    (he : e.body = .store ps opr ty x) (hq : ps.head? = some q) :
    reissue p cx n e = askWalk (updCore p cx.core (fun c => { c with
      postSeq := c.postSeq + BitVec.ofNat 32 ps.length
      part := jPut c.part n { e with
        status := 1
        cause := 0
        addr := q.va / 65536
        seq := (coreOf p cx.core).postSeq } })) cx q.va true (some e.uid) := by
  simp only [reissue, he, hq]
  rfl

end Sys2Proof.Machine

open Sys2Proof.Claims Sys2Proof.Machine

/-- Settles O46: what MFAULT and SJREAD deliver by the places of the fields, MRES by the fault and its mode, SJCLR by the entry's status
and what it holds. -/
theorem faultRecovery : Obligations.FaultRecovery := by
  unfold Obligations.FaultRecovery
  exact ⟨fun s f h _ => (exec_mfault f s).trans (issue_done rfl h (mfault_delivers s f)), mem_mfSeen, mfaultImage_fields,
    fun s f h hnone => (exec_mres f s).trans (issue_done rfl h (mres_nothing hnone)),
    fun s f m => mres_row,
    fun i => ⟨rfl, rfl, rfl⟩,
    fun s f h => ⟨fun e he hmay => (exec_sjread f s).trans (issue_done rfl h (sjread_seen he hmay)),
      fun hnone => (exec_sjread f s).trans (issue_done rfl h (sjread_unseen hnone))⟩,
    entryImage_fields,
    fun s f e h he => ⟨fun hmay => (exec_sjclr f s).trans (issue_done rfl h (sjclr_unseen he hmay)),
      fun hmay hst => (exec_sjclr f s).trans (issue_done rfl h (sjclr_frees he hmay hst)),
      fun hmay hst => (exec_sjclr f s).trans (issue_done rfl h (sjclr_pending he hmay hst)),
      fun dst b hmay hst hbit hbody => (exec_sjclr f s).trans (issue_done rfl h
        ((sjclr_reissues he hmay hst hbit).trans (congrArg Eff.done (reissue_msg (cxOf s) _ hbody)))),
      fun ps opr ty x hmay hst hbit hbody q hq => (exec_sjclr f s).trans (issue_done rfl h
        ((sjclr_reissues he hmay (.inl hst) hbit).trans (congrArg Eff.done (reissue_store (cxOf s) _ hbody hq))))⟩,
    fun s f h hnone => (exec_sjclr f s).trans (issue_done rfl h (sjclr_free hnone))⟩
end

section
/-!
Fencing, the darn pass and the remap of a spare (R328 to R330).
-/
namespace Sys2Proof.Machine
open Sys2Proof.Claims

/-! Fencing (R328). -/

theorem eventTo_uncorrectableCoreError (s : State) (c : Nat) : eventTo (.uncorrectableCoreError c) s (fenceCore s.pkg s.time c 0) := rfl
theorem eventTo_fenceCommandWrite (s : State) (c : Nat) (v : Word) :
    eventTo (.fenceCommandWrite c v) s (fenceCommand s.pkg s.time c v) := rfl
theorem eventTo_coreWatchdogExpiry (s : State) (c : Nat) : eventTo (.coreWatchdogExpiry c) s (watchdog s c) := rfl

theorem fenceCore_fenced {p : Pkg} {now c trigger : Nat} (h : (coreOf p c).fenced.isSome = true) : fenceCore p now c trigger = p :=
  if_pos (.inl h)

theorem fencedBy_fenceCore {s : State} {c : Nat} (hc : c < 4096) (hup : (coreOf s.pkg c).fenced = none) (trigger : Nat) :
    fencedBy s c trigger (fenceCore s.pkg s.time c trigger) := by
  have hgoes : ¬ ((coreOf s.pkg c).fenced.isSome = true ∨ 4096 ≤ c) := not_or.mpr ⟨by simp [hup], Nat.not_le.mpr hc⟩
  exact ⟨_, _, _, _, rfl, rfl, rfl, rfl, if_neg hgoes⟩

theorem watchdog_fences {s : State} {c t : Nat} (hs : selects (coreOf s.pkg c) = true) (hdue : (coreOf s.pkg c).due = some t)
    (ht : t + s.pkg.regs.fenceint ≤ s.time) (halive : (coreOf s.pkg c).alive + s.pkg.regs.fenceint ≤ s.time) :
    watchdog s c = fenceCore s.pkg s.time c 1 := by
  have hpast : max t (coreOf s.pkg c).alive + s.pkg.regs.fenceint ≤ s.time := by omega
  simp only [watchdog, hdue]
  exact if_pos (by rw [hs, decide_eq_true hpast]; rfl)

/-- A core that was active in the interval, or that nothing waits for, is not fenced. -/
theorem watchdog_waits {s : State} {c : Nat} (h : s.time < (coreOf s.pkg c).alive + s.pkg.regs.fenceint ∨ (coreOf s.pkg c).due = none) :
    watchdog s c = s.pkg := by
  cases hdue : (coreOf s.pkg c).due with
  | none => simp only [watchdog, hdue]
  | some t =>
    have hactive : s.time < (coreOf s.pkg c).alive + s.pkg.regs.fenceint := h.resolve_right (by simp [hdue])
    have hnot : ¬ max t (coreOf s.pkg c).alive + s.pkg.regs.fenceint ≤ s.time := by omega
    simp only [watchdog, hdue]
    exact if_neg (by rw [decide_eq_false hnot, Bool.and_false]; decide)

/-! The darn pass (R329). -/

theorem eventTo_darnPass (s : State) (c : Nat) (bad : List Nat) : eventTo (.darnPass c bad) s (darnPass s.pkg s.time c bad) := rfl

theorem darnPass_stays {p : Pkg} {now c : Nat} (bad : List Nat) (h : (coreOf p c).fenced = none ∨ (coreOf p c).darned = true) :
    darnPass p now c bad = p := if_pos (h.imp_left Option.isNone_iff_eq_none.mpr)

/-- The journal entries of a core whose messages have no answer: their images. -/
def unanswered (k : Part) : List (BitVec 128) :=
  k.journal.filterMap (fun e => if e.2.status = 2 then some (BitVec.ofNat 128 (entryImage e.2)) else none)

/-- The package once the pass over a core is recorded: how many records it recovered, and the keys of those it discarded. -/
def darned (p : Pkg) (c n : Nat) (lost : List Nat) (unknown : List (BitVec 128)) : Pkg :=
  let q := updCore p c (fun x => { x with
    darned := true
    part := { x.part with journal := x.part.journal.filter (fun e => decide (e.2.status ≠ 1)) } })
  { q with darns := q.darns ++ [{ core := c, recovered := n, discarded := lost, unknown := unknown }] }

theorem darnPass_passes {p p1 : Pkg} {now c n : Nat} {bad lost : List Nat} (hf : (coreOf p c).fenced.isSome = true)
    (hd : (coreOf p c).darned = false) (hkeys : darnKeys now c bad 0 (mapKeys (instOf p 0 c).run) (p, 0, []) = (p1, n, lost)) :
    darnPass p now c bad = if lost = [] ∧ unanswered (partOf p c) = [] then darned p1 c n lost (unanswered (partOf p c))
      else logEvent (darned p1 c n lost (unanswered (partOf p c))) now 0x0022 (coreSource c)
        [lost.length, (unanswered (partOf p c)).length] := by
  have hgoes : ¬ ((coreOf p c).fenced.isNone = true ∨ (coreOf p c).darned = true) :=
    not_or.mpr ⟨Bool.not_eq_true _ ▸ Option.isNone_eq_false_iff.mpr hf, Bool.eq_false_iff.mp hd⟩
  refine (if_neg hgoes).trans ?_
  rw [hkeys]
  rfl

/-- Kept are the records without an error whose places are not among the bad ones. -/
theorem darnChain_eq (bad : List Nat) (at' : Nat) (ch : List Rec) : darnChain bad at' ch =
    (ch.zipIdx.filter (fun x => decide (x.1.bad = false) && decide (at' + x.2 ∉ bad))).map (·.1) := by
  have hkeeps (x : Rec × Nat) : (!(x.1.bad || bad.contains (at' + x.2))) = (decide (x.1.bad = false) && decide (at' + x.2 ∉ bad)) := by
    rw [Bool.not_or, decide_not, List.contains_eq_mem]
    cases x.1.bad <;> rfl
  rw [darnChain, funext hkeeps]

/-! The remap (R330). -/

theorem eventTo_spareRemap (s : State) (c : Nat) : eventTo (.spareRemap c) s (spareRemap s.pkg s.time c) := rfl

theorem spareRemap_unfenced {p : Pkg} {now c : Nat} (h : (coreOf p c).fenced = none) : spareRemap p now c = p := by
  simp only [spareRemap, h]

/-- What holds the remap of a core back: its darn pass, the interval since its fencing, a cluster without spares, records still in its M0. -/
def remapWaits (p : Pkg) (now c t : Nat) : Prop :=
  (coreOf p c).darned = false ∨ now < t + 4000 + guardBand p.regs.fterm true ∨ (clusterOf p (clusterNo c)).spares = 0 ∨
    (instOf p 0 c).run ≠ []

theorem spareRemap_waits {p : Pkg} {now c t : Nat} (hf : (coreOf p c).fenced = some t) (h : remapWaits p now c t) :
    spareRemap p now c = p := by
  simp only [spareRemap, hf]
  exact if_pos h

/-- What the supervisor is told of the traps and the merge faults that wait with the core. -/
def remapTold (p : Pkg) (now c : Nat) : Pkg :=
  match (partOf p c).team with
  | some t => reportFaults (reportPending p now c) now c t
  | none => reportPending p now c

/-- The package with the core's place in the table of its cluster given to a spare, and its M0 bare. -/
def remapped (p : Pkg) (now c : Nat) : Pkg :=
  let cl := clusterOf p (clusterNo c)
  let told := remapTold p now c
  setInst (setCluster told (clusterNo c) { clusterOf told (clusterNo c) with
    spares := cl.spares - 1
    table := mapInsert cl.table c (nextSpare cl) }) 0 c instReset

theorem spareRemap_remaps {s : State} {c t : Nat} (hf : (coreOf s.pkg c).fenced = some t) (h : ¬ remapWaits s.pkg s.time c t) :
    spareRemap s.pkg s.time c = logEvent (setCore (remapped s.pkg s.time c) c (coldCore s c)) s.time 0x0021 (coreSource c)
      [c, nextSpare (clusterOf s.pkg (clusterNo c))] := by
  simp only [spareRemap, hf]
  exact if_neg h

theorem nextSpare_bounds {k : Cluster} (h : 0 < k.spares) (h8 : k.spares ≤ 8) : 256 ≤ nextSpare k ∧ nextSpare k < 264 := by
  simp only [nextSpare, physicalCores]
  omega

end Sys2Proof.Machine

open Sys2Proof.Claims Sys2Proof.Machine

/-- Settles O50: the three triggers by what a fencing makes of a core, the darn pass by what `darnKeys` answers, the remap by what it
waits for. -/
theorem fencingAndSpares : Obligations.FencingAndSpares := by
  unfold Obligations.FencingAndSpares
  refine ⟨fun s c hc hup => ⟨⟨_, fencedBy_fenceCore hc hup 0, eventTo_uncorrectableCoreError s c⟩,
      fun v hv => ⟨_, fencedBy_fenceCore hc hup 2, eventTo_congr (if_pos hv) (eventTo_fenceCommandWrite s c v)⟩,
      fun t hs hdue ht halive => ⟨_, fencedBy_fenceCore hc hup 1,
        eventTo_congr (watchdog_fences hs hdue ht halive) (eventTo_coreWatchdogExpiry s c)⟩⟩,
    fun s c hf => eventTo_congr (fenceCore_fenced hf) (eventTo_uncorrectableCoreError s c),
    fun s c v hv => eventTo_congr (if_neg (Bool.eq_false_iff.mp hv)) (eventTo_fenceCommandWrite s c v),
    fun s c h => eventTo_congr (watchdog_waits h) (eventTo_coreWatchdogExpiry s c),
    fun s c bad hf hd p1 n lost hkeys => ?passes, darnChain_eq,
    fun s c bad h => eventTo_congr (darnPass_stays bad h) (eventTo_darnPass s c bad),
    fun s c t hf => ⟨fun h => eventTo_congr (spareRemap_waits hf h) (eventTo_spareRemap s c),
      fun hd ht hspares hrun => eventTo_congr (spareRemap_remaps hf ?goes) (eventTo_spareRemap s c)⟩,
    fun s c hf => eventTo_congr (spareRemap_unfenced hf) (eventTo_spareRemap s c), fun k => nextSpare_bounds⟩
  case passes =>
    have hpass := darnPass_passes hf hd hkeys
    exact ⟨fun hnone => eventTo_congr (hpass.trans (if_pos hnone)) (eventTo_darnPass s c bad),
      fun hsome => eventTo_congr (hpass.trans (if_neg (not_and_or.mpr hsome))) (eventTo_darnPass s c bad)⟩
  case goes =>
    rintro (h | h | h | h)
    · exact Bool.false_ne_true (h.symm.trans hd)
    · omega
    · omega
    · exact h hrun
end
